-- ==== Sys2Proof/Word.lean ====
section
/-!
DEFINITION. Word.lean: the byte, byte strings, and the words that the spec treats as bits.
R13 (little-endian fields) and R14 (bit numbering) are applied in Machine/Bits.lean.
-/
namespace Sys2Proof

/-- One byte. -/
abbrev Byte := BitVec 8

/-- A run of bytes, lowest address or first on the wire first. -/
abbrev Bytes := List Byte

/-- A 16-bit word (BF16, FP16, a tail, a Mint draw). -/
abbrev Word16 := BitVec 16

/-- A W32 value: the binary32 layout of IEEE 754 (R103). -/
abbrev Word32 := BitVec 32

/-- A 64-bit word (life-cycle codewords, repair map entries, counters). -/
abbrev Word64 := BitVec 64

end Sys2Proof
end

