-- ==== Sys2Proof/Syntax.lean ====
section
/-!
DEFINITION. Syntax.lean: the commands of the block. One constructor of `Instr` for each row of the opcode table;
the operand types stand before it. What a command's operands carry is what arrives from outside (message fields,
frame fields, sensor readings, the faults of the silicon) or names the piece of state that the command acts on.
-/
namespace Sys2Proof

/-- A request of the host as it leaves the mailbox: the fields of Table 10-8, the opcode apart.
`rsvd` holds the reserved bits of the header side by side, and `fits` says that the segments met R309. -/
structure Msg where
  session : Nat := 0
  rsvd : Nat := 0
  ctx : Nat := 0
  ctxGen : Nat := 0
  tag : Nat := 0
  length : Nat := 0
  status : Nat := 0
  arg0 : Nat := 0
  fits : Bool := true
  payload : Bytes := []
  deriving DecidableEq, Repr

/-- What the checks of the silicon meet while a step reads, writes or computes.
Addresses are virtual addresses of the context of the step; window offsets are offsets of the queue's window. -/
inductive Upset where
  /-- the tag check of the block fails once, or twice (R392) -/
  | tagFail (va : Nat) (twice : Bool)
  /-- both copies of a shared page fail (R476) -/
  | bothCopies (va : Nat)
  /-- an error that SEC-DED corrects, or not, in a tier page (R176, R177) -/
  | sram (va : Nat) (corrected : Bool)
  /-- the same in a scratchpad window -/
  | window (off : Nat) (corrected : Bool)
  /-- a residue or parity check fails, and the re-run agrees or fails again (R99, R131) -/
  | check (agrees : Bool)
  /-- a row checksum differs on an audit-class queue, and the re-run agrees or fails again (R100) -/
  | rowSum (agrees : Bool)
  /-- a column checksum differs on an audit-class queue (R100) -/
  | column
  /-- saturated columns of a matrix operation (R88) are evidence by themselves and need no upset;
  a transfer to a neighbouring device times out (R162) -/
  | timeout
  /-- a fault in translation: the request for the page of this byte carries an address that the bridge fabric does not deliver (R169), or fails
  its CRC twice (Table 14-3) -/
  | fabric (va : Nat)
  deriving DecidableEq, Repr

/-- A Queko frame on HOST, decrypted: Table 10-5, and whether its GCM tag verifies (R310). -/
structure QFrame where
  ver : Nat := 1
  /-- `type`: 0 DATA, 1 ACK, 2 HS, 3 CLOSE -/
  kind : Nat := 0
  session : Nat := 0
  kphase : Bool := false
  rsvd : Nat := 0
  sgen : Nat := 0
  seq : Nat := 0
  tagOk : Bool := true
  /-- the source address and port (R311) -/
  peer : Nat := 0
  /-- ECN Congestion Experienced (Table 10-7) -/
  ce : Bool := false
  /-- MACsec protects the frame (Table 10-3, `macsec_req`) -/
  sec : Bool := true
  deriving DecidableEq, Repr

/-- A segment: Table 10-6 and its data. -/
structure Segment where
  msg : Nat := 0
  off : Nat := 0
  slen : Nat := 0
  last : Bool := false
  rsvd : Nat := 0
  data : Bytes := []
  deriving DecidableEq, Repr

/-- The body of an ACK frame: Table 10-7. -/
structure AckBody where
  ack : Nat := 0
  sack : Nat := 0
  window : Nat := 0
  ce : Nat := 0
  rsvd : Nat := 0
  deriving DecidableEq, Repr

/-- The outer header of a Rasovi frame as it arrives on a port: Table 09-4, with what the port finds of it
(FCS, tag) and, on switched ports, its source device and ECN mark. -/
structure Outer where
  port : Nat := 0
  ver : Nat := 1
  cls : Nat := 0
  kphase : Bool := false
  rsvd : Nat := 0
  src : Nat := 0
  dst : Nat := 0
  job : Nat := 0
  chan : Nat := 0
  seq : Nat := 0
  dlen : Nat := 0
  fcsOk : Bool := true
  tagOk : Bool := true
  /-- the adjacent device that the frame came from -/
  hop : Nat := 0
  ce : Bool := false
  deriving DecidableEq, Repr

/-- The inner header and data of a Rasovi frame: Table 09-5. -/
structure Inner where
  iop : Nat := 0
  group : Nat := 0
  gen : Nat := 0
  last : Bool := false
  rsvd : Nat := 0
  rank : Nat := 0
  inst : Nat := 0
  off : Nat := 0
  tally : Nat := 0
  arg : Nat := 0
  data : Bytes := []
  deriving DecidableEq, Repr

/-- The body of a LINK frame: Table 09-6. -/
structure LinkBody where
  ack : Nat := 0
  sack : Nat := 0
  crCtrl : Nat := 0
  crData : Nat := 0
  crXfer : Nat := 0
  nak : Bool := false
  rsvd : Nat := 0
  ce : Nat := 0
  deriving DecidableEq, Repr

/-- An inner operation delivered to its handling: the device it came from and the frame's inner part. -/
structure Delivered where
  src : Nat := 0
  port : Nat := 0
  inner : Inner := {}
  deriving DecidableEq, Repr

/-- What the boot ROM and the Bursar find at a cold reset (R433, R455, R510, R523): the straps, and the outcomes of the
self-tests and checks that the rest of the state does not fix. -/
structure BootEnv where
  modeSel : Bool := true
  i3cSa : Bool := false
  hostMax : Bool := false
  testEn : Bool := false
  unwrapOk : Bool := true
  bridgeOk : Bool := true
  deriving DecidableEq, Repr

/-- What the Bursar reads of one tile in a sample period (R504): beat rate in M beats/s, VCORE in mV,
current in mA, temperature in 0.125 °C or none when the reading is invalid (R510). -/
structure TileReading where
  beatRate : Nat := 0
  mv : Nat := 0
  amps : Nat := 0
  temp : Option Int := some 0
  deriving DecidableEq, Repr

/-- The readings of one sample period: six tiles, hub, two link dies, and the package power in W (R504, R506). -/
structure Readings where
  tiles : List TileReading := []
  hub : Option Int := some 0
  links : List (Option Int) := []
  watts : Nat := 0
  deriving DecidableEq, Repr

/-- Who asks the Teller for leave (R494): a tile or a link die. -/
inductive LeaveUnit where
  | tile (n : Nat)
  | link (n : Nat)
  deriving DecidableEq, Repr

/-- How the burn of a life-cycle transition goes (R424, R425): whole; a copy whose read-back fails after three attempts; or a
reset that cuts it off in a copy (R519). `bits` are the bits of that copy that the burn has added. -/
inductive Burn where
  | whole
  | badCopy (copy bits : Nat)
  | cut (copy bits : Nat)
  deriving DecidableEq, Repr

/-- A frame of another protocol on HOST (Table 10-2), by what the device does with it. -/
inductive HostFrame where
  | arp (target : Nat) (asker : Nat)
  | neighbourSolicit (target : Nat) (asker : Nat)
  | routerAdvert (pfx : Nat) (plen : Nat) (router : Nat)
  | dhcpOffer (addr gw : Nat)
  | dhcpAck (addr gw : Nat)
  /-- sent by the client alone -/
  | dhcpDiscover
  | dhcpRequest (addr : Nat)
  | echo (v6 : Bool) (peer : Nat) (data : Bytes)
  /-- a message of the key agreement, and the one with which it has secured the port -/
  | mka
  | mkaSecured
  | other
  deriving DecidableEq, Repr

/-- What a field-test round on a core produced (R460–R462): the tallies of the matrix and vector tests, the march test,
the checker test. -/
structure TestResult where
  tallies : List Nat := []
  march : Bool := true
  checker : Bool := true
  deriving DecidableEq, Repr

/-- A training of HOST (R299): the rows of Table 10-1 that both ends offer, and those that train. -/
structure HostTraining where
  offered : List Nat := []
  trains : List Nat := []
  deriving DecidableEq, Repr

/-- The commands, one for each row of `spec/opcode_table.json`, in its order. -/
inductive Instr where
  /-- RESET_N_ASSERT (R519) -/
  | resetNAssert (ns : Nat) (railsOk : Bool)
  /-- COLD_RESET (R433) -/
  | coldReset (env : BootEnv)
  /-- INTERNAL_COLD_RESET (R424) -/
  | internalColdReset (env : BootEnv)
  /-- PWR_BRAKE_ASSERT (R501) -/
  | pwrBrakeAssert (ns : Nat)
  /-- PWR_BRAKE_RELEASE (R502) -/
  | pwrBrakeRelease
  /-- BRAKE_EVENT_INTERVAL (R503) -/
  | brakeEventInterval
  /-- REFCLK_MISSING (R34) -/
  | refclkMissing (ns : Nat)
  /-- RAIL_OUT_OF_RANGE (R517) -/
  | railOutOfRange (rail ns : Nat)
  /-- VCORE_UNDERVOLTAGE (R516) -/
  | vcoreUndervoltage (tile : Nat)
  /-- THERMAL_BRAKE_COMPARATOR (R508) -/
  | thermalBrakeComparator (tile : Nat) (temp : Int)
  /-- THERM_TRIP_COMPARATOR (R522) -/
  | thermTripComparator (die : Nat) (temp : Int)
  /-- STACK_TEMP_REPORT (R184) -/
  | stackTempReport (stack : Nat) (temp : Option Int)
  /-- SAMPLE_PERIOD (R504) -/
  | samplePeriod (r : Readings)
  /-- AVSBUS_SILENT (R505) -/
  | avsbusSilent (tile : Nat)
  /-- VOLTAGE_CONFIRMED (R505) -/
  | voltageConfirmed (tile mv : Nat)
  /-- LEAVE_GRANT (R497) -/
  | leaveGrant (unit : LeaveUnit)
  /-- PACING_WINDOW (R498) -/
  | pacingWindow (unit : LeaveUnit)
  /-- HBM_TRAIN_IDLE (R494) -/
  | hbmTrainIdle (stack : Nat)
  /-- HELLO (R324) -/
  | hello (f : QFrame) (g : Segment) (more : List (QFrame × Segment))
  /-- KEY_EXCHANGE_OPEN (R327) -/
  | keyExchangeOpen (m : Msg)
  /-- KEY_EXCHANGE_REKEY (R329) -/
  | keyExchangeRekey (m : Msg)
  /-- FEATURES (R328) -/
  | features (m : Msg)
  /-- ATTEST (R444) -/
  | attest (m : Msg)
  /-- HEARTBEAT (R330) -/
  | heartbeat (m : Msg)
  /-- EVENT_ANSWER (R333) -/
  | eventAnswer (m : Msg)
  /-- EVENT_SEND (R333) -/
  | eventSend (session : Nat) (ctx : Option Nat)
  /-- EVENT_RESEND_TIMEOUT (R335) -/
  | eventResendTimeout (session tag : Nat)
  /-- LINK_CONFIG (R261) -/
  | linkConfig (m : Msg)
  /-- HOST_CONFIG (R303) -/
  | hostConfig (m : Msg)
  /-- MACSEC_REVERT_TIMEOUT (R304) -/
  | macsecRevertTimeout
  /-- CTX_CREATE (R348) -/
  | ctxCreate (m : Msg)
  /-- CTX_DESTROY (R371) -/
  | ctxDestroy (m : Msg)
  /-- DESTROY_DRAIN_DONE (R371) -/
  | destroyDrainDone (ctx : Nat)
  /-- CTX_RESET (R369) -/
  | ctxReset (m : Msg)
  /-- TEARDOWN_DONE (R369) -/
  | teardownDone (ctx : Nat)
  /-- CTX_SUSPEND (R358) -/
  | ctxSuspend (m : Msg)
  /-- CTX_RESUME_READY (R350) -/
  | ctxResumeReady (m : Msg) (upsets : List Upset)
  /-- CTX_RESUME_RESUME (R350) -/
  | ctxResumeResume (m : Msg)
  /-- CTX_RESUME_ASSIGN (R361) -/
  | ctxResumeAssign (m : Msg)
  /-- SLOT_ADMIT (R355) -/
  | slotAdmit (ctx : Nat)
  /-- ROTATE_OUT (R356) -/
  | rotateOut (ctx : Nat)
  /-- RESIDENCY_EXIT_DONE (R357) -/
  | residencyExitDone (ctx : Nat)
  /-- OPT_STEP_PREPARE (R234) -/
  | optStepPrepare (m : Msg) (upsets : List Upset)
  /-- OPT_STEP_UPDATE (R234) -/
  | optStepUpdate (m : Msg) (upsets : List Upset)
  /-- OPT_STEP_RUN (R235) -/
  | optStepRun (ctx tag : Nat) (upsets : List Upset)
  /-- PARAM_EXPORT (R252) -/
  | paramExport (m : Msg) (upsets : List Upset)
  /-- PARAM_EXPORT_RUN (R253) -/
  | paramExportRun (ctx tag : Nat) (upsets : List Upset)
  /-- MAP_GRANT_MAP (R198) -/
  | mapGrantMap (m : Msg)
  /-- MAP_GRANT_LIMITS (R196) -/
  | mapGrantLimits (m : Msg)
  /-- MAP_GRANT_PUBLISH (R198) -/
  | mapGrantPublish (m : Msg)
  /-- MAP_GRANT_ATTACH (R198) -/
  | mapGrantAttach (m : Msg)
  /-- UNMAP (R199) -/
  | unmap (m : Msg)
  /-- PAGE_HINT (R207) -/
  | pageHint (m : Msg)
  /-- REGULATE (R191) -/
  | regulate (m : Msg)
  /-- PLACE_LOG_AGGREGATE (R219) -/
  | placeLogAggregate (m : Msg)
  /-- PLACE_LOG_MOVES (R220) -/
  | placeLogMoves (m : Msg)
  /-- QUEUE_CREATE (R142) -/
  | queueCreate (m : Msg)
  /-- QUEUE_DESTROY (R149) -/
  | queueDestroy (m : Msg)
  /-- DOORBELL_INLINE (R146) -/
  | doorbellInline (m : Msg) (upsets : List Upset)
  /-- DOORBELL_RING (R146) -/
  | doorbellRing (m : Msg)
  /-- RECORD_INTAKE (R143) -/
  | recordIntake (ctx queue : Nat) (upsets : List Upset)
  /-- COMMAND_DISPATCH (R150) -/
  | commandDispatch (ctx queue : Nat) (upsets : List Upset)
  /-- FENCE_IN_TIMEOUT (R153) -/
  | fenceInTimeout (ctx queue : Nat)
  /-- COMMAND_COMPLETE (R152) -/
  | commandComplete (ctx queue seq iter : Nat) (upsets : List Upset)
  /-- NOP (R137) -/
  | nop (ctx queue seq iter : Nat)
  /-- MATMUL (R80) -/
  | matmul (ctx queue seq iter : Nat) (upsets : List Upset)
  /-- VECTOR (R114) -/
  | vector (ctx queue seq iter : Nat) (upsets : List Upset)
  /-- COPY (R139) -/
  | copy (ctx queue seq iter : Nat) (upsets : List Upset)
  /-- FILL (R138) -/
  | fill (ctx queue seq iter : Nat) (upsets : List Upset)
  /-- SCALE_SET (R140) -/
  | scaleSet (ctx queue seq iter : Nat) (upsets : List Upset)
  /-- REPEAT (R164) -/
  | repeatCmd (ctx queue seq iter : Nat) (upsets : List Upset)
  /-- REPEAT_ITERATION (R165) -/
  | repeatIteration (ctx queue : Nat) (upsets : List Upset)
  /-- COLLECTIVE_ALL_REDUCE (R288) -/
  | collectiveAllReduce (ctx queue seq iter : Nat) (upsets : List Upset)
  /-- COLLECTIVE_REDUCE_SCATTER (R283) -/
  | collectiveReduceScatter (ctx queue seq iter : Nat) (upsets : List Upset)
  /-- COLLECTIVE_ALL_GATHER (R283) -/
  | collectiveAllGather (ctx queue seq iter : Nat) (upsets : List Upset)
  /-- COLLECTIVE_REDUCE (R283) -/
  | collectiveReduce (ctx queue seq iter : Nat) (upsets : List Upset)
  /-- COLLECTIVE_BROADCAST (R283) -/
  | collectiveBroadcast (ctx queue seq iter : Nat) (upsets : List Upset)
  /-- COLLECTIVE_NORM (R289) -/
  | collectiveNorm (ctx queue seq iter : Nat) (upsets : List Upset)
  /-- COLLECTIVE_SEND (R283) -/
  | collectiveSend (ctx queue seq iter : Nat) (upsets : List Upset)
  /-- COLLECTIVE_RECV (R283) -/
  | collectiveRecv (ctx queue seq iter : Nat) (upsets : List Upset)
  /-- COLLECTIVE_TIMEOUT (R295) -/
  | collectiveTimeout (ctx group inst : Nat)
  /-- CONTRIBUTION_RESEND_TIMEOUT (R293) -/
  | contributionResendTimeout (ctx group inst peer : Nat)
  /-- CHUNK (R293) -/
  | chunk (d : Delivered)
  /-- READY (R285) -/
  | ready (d : Delivered)
  /-- ACK (R293) -/
  | ack (d : Delivered)
  /-- RETRY (R293) -/
  | retry (d : Delivered)
  /-- RTALLY (R294) -/
  | rtally (d : Delivered)
  /-- ABORT (R295) -/
  | abort (d : Delivered)
  /-- XREAD (R216) -/
  | xread (d : Delivered)
  /-- XWRITE (R216) -/
  | xwrite (d : Delivered)
  /-- XRESP (R163) -/
  | xresp (d : Delivered)
  /-- TRANSFER_RESPONSE (R163) -/
  | transferResponse (tag gen : Nat) (data : Bytes)
  /-- TRANSFER_TIMEOUT (R162) -/
  | transferTimeout (tag : Nat)
  /-- LEDGER_QUARANTINE_END (R163) -/
  | ledgerQuarantineEnd (tag : Nat)
  /-- LEASE_PROBE_TIMEOUT (R216) -/
  | leaseProbeTimeout (lease : Nat)
  /-- LINK_KX (R415) -/
  | linkKx (d : Delivered)
  /-- CHANNEL_KEY_EXCHANGE (R415) -/
  | channelKeyExchange (port peer : Nat)
  /-- RASOVI_LINK_FRAME (R271) -/
  | rasoviLinkFrame (o : Outer) (b : LinkBody)
  /-- RASOVI_FRAME_RECEIVE (R268) -/
  | rasoviFrameReceive (o : Outer) (i : Inner)
  /-- RASOVI_ACK_TIMER (R271) -/
  | rasoviAckTimer (port peer : Nat)
  /-- RASOVI_REPLAY_TIMEOUT (R272) -/
  | rasoviReplayTimeout (port peer : Nat)
  /-- SWITCHED_RETRANSMIT_TIMEOUT (R273) -/
  | switchedRetransmitTimeout (port peer : Nat)
  /-- PORT_TRAIN_DONE (R259) -/
  | portTrainDone (port : Nat) (lanes : List Bool) (peerOrdinal : Nat) (peerMode twin : Bool)
  /-- SERDES_REPLACE (R455) -/
  | serdesReplace (die serdes codewords : Nat)
  /-- PORT_MAP (R264) -/
  | portMap (src : Nat) (m : Msg)
  /-- GROUP_CREATE (R279) -/
  | groupCreate (m : Msg) (upsets : List Upset)
  /-- GROUP_DESTROY (R280) -/
  | groupDestroy (m : Msg)
  /-- GROUP_FORM_TIMEOUT (R279) -/
  | groupFormTimeout (ctx group : Nat)
  /-- BACKFILL_BIND (R224) -/
  | backfillBind (m : Msg)
  /-- BACKFILL_UNBIND (R228) -/
  | backfillUnbind (m : Msg)
  /-- FENCE_CREATE (R363) -/
  | fenceCreate (m : Msg)
  /-- FENCE_EXPORT (R363) -/
  | fenceExport (m : Msg)
  /-- FENCE_IMPORT (R363) -/
  | fenceImport (m : Msg)
  /-- FENCE_SIGNAL (R365) -/
  | fenceSignal (m : Msg)
  /-- FENCE_WAIT (R365) -/
  | fenceWait (m : Msg)
  /-- FENCE_WAIT_TIMEOUT (R365) -/
  | fenceWaitTimeout (tag : Nat)
  /-- FENCE_DESTROY (R366) -/
  | fenceDestroy (m : Msg)
  /-- BULK_IN (R338) -/
  | bulkIn (m : Msg) (upsets : List Upset)
  /-- BULK_OUT (R337) -/
  | bulkOut (m : Msg) (upsets : List Upset)
  /-- CKPT_CONFIG (R478) -/
  | ckptConfig (m : Msg)
  /-- CKPT_NOW (R482) -/
  | ckptNow (m : Msg)
  /-- CKPT_TIMER_TRIGGER (R482) -/
  | ckptTimerTrigger (ctx : Nat)
  /-- CKPT_CUT (R483) -/
  | ckptCut (ctx : Nat)
  /-- CKPT_DRAIN_TIMEOUT (R484) -/
  | ckptDrainTimeout (ctx : Nat)
  /-- CKPT_WRITE_DONE (R487) -/
  | ckptWriteDone (ctx : Nat) (upsets : List Upset)
  /-- CKPT_RESTORE_WHOLE (R491) -/
  | ckptRestoreWhole (m : Msg) (upsets : List Upset)
  /-- CKPT_RESTORE_RESLICE (R493) -/
  | ckptRestoreReslice (m : Msg) (upsets : List Upset)
  /-- CKPT_VERIFY (R489) -/
  | ckptVerify (m : Msg) (upsets : List Upset)
  /-- POLICY_LOAD (R375) -/
  | policyLoad (m : Msg) (upsets : List Upset)
  /-- OWNER_JOIN (R377) -/
  | ownerJoin (m : Msg)
  /-- QUORUM_SIGN (R381) -/
  | quorumSign (m : Msg)
  /-- RELEASE_PROPOSE (R380) -/
  | releasePropose (m : Msg)
  /-- RELEASE_FETCH (R380) -/
  | releaseFetch (m : Msg)
  /-- RELEASE_WITHDRAW (R380) -/
  | releaseWithdraw (m : Msg)
  /-- KEY_LOAD (R413) -/
  | keyLoad (m : Msg)
  /-- KEY_DERIVE (R413) -/
  | keyDerive (m : Msg)
  /-- KEY_DESTROY (R413) -/
  | keyDestroy (m : Msg)
  /-- ERR_READ (R469) -/
  | errRead (m : Msg)
  /-- TELEMETRY (R540) -/
  | telemetry (m : Msg)
  /-- TEST_CONFIG_DEVICE (R465) -/
  | testConfigDevice (m : Msg)
  /-- TEST_CONFIG_AUDIT (R465) -/
  | testConfigAudit (m : Msg) (upsets : List Upset)
  /-- POWER_CONFIG (R500) -/
  | powerConfig (m : Msg)
  /-- LC_READ (R428) -/
  | lcRead (m : Msg)
  /-- LC_ADVANCE (R423) -/
  | lcAdvance (m : Msg) (burn : Burn)
  /-- LC_ENROL (R427) -/
  | lcEnrol (m : Msg)
  /-- DEBUG_CERT (R440) -/
  | debugCert (m : Msg)
  /-- DEBUG_CHALLENGE_NONCE (R441) -/
  | debugChallengeNonce (m : Msg)
  /-- DEBUG_CHALLENGE_RESPONSE (R441) -/
  | debugChallengeResponse (m : Msg)
  /-- FW_STAGE (R435) -/
  | fwStage (m : Msg)
  /-- FW_ACTIVATE (R437) -/
  | fwActivate (m : Msg)
  /-- FW_CONFIRM (R437) -/
  | fwConfirm
  /-- FW_TRIAL_TIMEOUT (R437) -/
  | fwTrialTimeout
  /-- LOCKSTEP_MISMATCH (R456) -/
  | lockstepMismatch (pair : Nat)
  /-- QUEKO_DATA_FRAME (R312) -/
  | quekoDataFrame (f : QFrame) (g : Segment)
  /-- QUEKO_ACK_FRAME (R315) -/
  | quekoAckFrame (f : QFrame) (b : AckBody)
  /-- QUEKO_ACK_TIMER (R312) -/
  | quekoAckTimer (session : Nat)
  /-- QUEKO_RETRANSMIT_TIMEOUT (R315) -/
  | quekoRetransmitTimeout (session : Nat)
  /-- CLOSE (R331) -/
  | close (f : QFrame) (g : Segment)
  /-- HEARTBEAT_LOSS (R330) -/
  | heartbeatLoss (session : Nat)
  /-- HANDSHAKE_TIMEOUT (R327) -/
  | handshakeTimeout (session : Nat)
  /-- KEY_ROTATE (R329) -/
  | keyRotate (session : Nat) (toHost : Bool)
  /-- KEY_ROTATE_REPEAT (R417) -/
  | keyRotateRepeat (session : Nat) (toHost : Bool)
  /-- KEY_LIMIT_STOP (R417) -/
  | keyLimitStop (session port lease : Option Nat) (toHost : Bool)
  /-- HOST_PORT_TRAIN (R300) -/
  | hostPortTrain (h : HostTraining)
  /-- I3C_PRIVATE_WRITE (R527) -/
  | i3cPrivateWrite (data : Bytes) (burn : Burn)
  /-- I3C_ANSWER_DROP (R526) -/
  | i3cAnswerDrop
  /-- PLACEMENT_REVIEW (R203) -/
  | placementReview (ctx : Nat)
  /-- PAGE_MOVE_SWITCH (R205) -/
  | pageMoveSwitch (ctx va : Nat)
  /-- LEND_BEACON_SEND (R214) -/
  | lendBeaconSend (busy : Nat)
  /-- LEND_BEACON (R214) -/
  | lendBeacon (src : Nat) (m : Msg)
  /-- LEND_ASK (R416) -/
  | lendAsk (src : Nat) (m : Msg)
  /-- LEND_OFFER (R416) -/
  | lendOffer (src : Nat) (m : Msg)
  /-- LEND_RELEASE (R215) -/
  | lendRelease (src : Nat) (m : Msg)
  /-- OPT_SHIP (R248) -/
  | optShip (src : Nat) (m : Msg)
  /-- OPT_CLIP (R248) -/
  | optClip (src : Nat) (m : Msg)
  /-- OPT_RETURN (R248) -/
  | optReturn (src : Nat) (m : Msg)
  /-- CTRL_MSG (R267) -/
  | ctrlMsg (d : Delivered)
  /-- HBM_WRITE_DRAIN (R181) -/
  | hbmWriteDrain (stack channel : Nat)
  /-- PATROL_SCRUB (R178) -/
  | patrolScrub (core : Nat) (tier : Bool) (piece : Nat) (corrected : Bool)
  /-- FIELD_TEST_START (R218) -/
  | fieldTestStart (core : Nat)
  /-- FIELD_TEST_RESULT (R462) -/
  | fieldTestResult (core : Nat) (r : TestResult)
  /-- TEST_OVERDUE (R463) -/
  | testOverdue (core : Nat)
  /-- HOST_PROTOCOL_FRAME (R301) -/
  | hostProtocolFrame (f : HostFrame)
  /-- PFC_PAUSE_FRAME (R305) -/
  | pfcPauseFrame (port : Option Nat) (priority : Nat) (pause : Bool)
  /-- AGGREGATE_RECORD_CLOSE (R220) -/
  | aggregateRecordClose (ctx : Nat)
  /-- I3C_PRIVATE_READ (R526) -/
  | i3cPrivateRead
  /-- I3C_ADDRESS_ASSIGN (R525): SETDASA names a static address, ENTDAA none -/
  | i3cAddressAssign (static : Option Nat) (addr : Nat)
  deriving DecidableEq, Repr

end Sys2Proof
end

