-- ==== Sys2Proof/Decode.lean ====
section
/-!
DEFINITION. Decode.lean: the command that a word of the opcode table spells. The table gives no row any bits: the block is
commanded by messages, frames and events, which arrive as terms of `Instr` in the queue.
-/
namespace Sys2Proof

/-- No row of the table gives bits, so no word spells a command (LOG 1). -/
def decodeTableWord (nbits w : Nat) : Option Instr :=
  let _ := nbits
  let _ := w
  none

end Sys2Proof
end

