-- ==== Sys2Proof/Config.lean ====
section
/-!
DEFINITION. Config.lean: the codes of "Message and code reference" (R531–R535), and the values that the spec leaves
open: each is an opaque constant, so nothing can be proved of its value.
-/
namespace Sys2Proof

/-- The statuses of Table 18-4 (R534). -/
inductive Status where
  | ok | pending | badOpcode | badLength | extent | reservedSet | staleGeneration | badOperand | seqMismatch | noSlot | quota | busyUpdate | denied | lifecycle | keyExhausted | integrity | poisoned | uncorrectable | timeout | abandoned | contextReset | queueStopped | fenceRegression | digestMismatch | divergence | belowRating
  deriving DecidableEq, Repr

/-- Codes of Table 18-4. -/
def Status.code : Status → Nat
  | .ok => 0x0000
  | .pending => 0x0001
  | .badOpcode => 0x0101
  | .badLength => 0x0102
  | .extent => 0x0103
  | .reservedSet => 0x0104
  | .staleGeneration => 0x0105
  | .badOperand => 0x0106
  | .seqMismatch => 0x0107
  | .noSlot => 0x0201
  | .quota => 0x0202
  | .busyUpdate => 0x0203
  | .denied => 0x0301
  | .lifecycle => 0x0302
  | .keyExhausted => 0x0303
  | .integrity => 0x0401
  | .poisoned => 0x0402
  | .uncorrectable => 0x0403
  | .timeout => 0x0501
  | .abandoned => 0x0502
  | .contextReset => 0x0503
  | .queueStopped => 0x0504
  | .fenceRegression => 0x0601
  | .digestMismatch => 0x0701
  | .divergence => 0x0702
  | .belowRating => 0x0801

/-- The Queko opcodes of Table 18-1 (R532). Family 0x0C travels between Bursars alone. -/
inductive Opcode where
  | hello | features | attest | keyExchange | heartbeat | event | linkConfig | hostConfig
  | ctxCreate | ctxDestroy | ctxReset | ctxSuspend | ctxResume | optStep | paramExport | mapGrant
  | unmap | pageHint | regulate | placeLog | queueCreate | queueDestroy | doorbell | fenceCreate
  | fenceSignal | fenceWait | fenceDestroy | backfillBind | groupCreate | bulkIn | bulkOut | ckptConfig
  | ckptNow | ckptRestore | ckptVerify | policyLoad | ownerJoin | quorumSign | release | keyLoad
  | keyDerive | keyDestroy | errRead | telemetry | testConfig | powerConfig | lcRead | lcAdvance
  | debugCert | debugChallenge | lcEnrol | fwStage | fwActivate | lendBeacon | lendAsk | lendOffer
  | lendRelease | optShip | optClip | optReturn | portMap
  deriving DecidableEq, Repr

/-- Codes of Table 18-1. -/
def Opcode.code : Opcode → Nat
  | .hello => 0x0101
  | .features => 0x0102
  | .attest => 0x0103
  | .keyExchange => 0x0104
  | .heartbeat => 0x0105
  | .event => 0x0106
  | .linkConfig => 0x0107
  | .hostConfig => 0x0108
  | .ctxCreate => 0x0201
  | .ctxDestroy => 0x0202
  | .ctxReset => 0x0203
  | .ctxSuspend => 0x0204
  | .ctxResume => 0x0205
  | .optStep => 0x0206
  | .paramExport => 0x0207
  | .mapGrant => 0x0301
  | .unmap => 0x0302
  | .pageHint => 0x0303
  | .regulate => 0x0304
  | .placeLog => 0x0305
  | .queueCreate => 0x0401
  | .queueDestroy => 0x0402
  | .doorbell => 0x0403
  | .fenceCreate => 0x0404
  | .fenceSignal => 0x0405
  | .fenceWait => 0x0406
  | .fenceDestroy => 0x0407
  | .backfillBind => 0x0408
  | .groupCreate => 0x0409
  | .bulkIn => 0x0501
  | .bulkOut => 0x0502
  | .ckptConfig => 0x0601
  | .ckptNow => 0x0602
  | .ckptRestore => 0x0603
  | .ckptVerify => 0x0604
  | .policyLoad => 0x0701
  | .ownerJoin => 0x0702
  | .quorumSign => 0x0703
  | .release => 0x0704
  | .keyLoad => 0x0801
  | .keyDerive => 0x0802
  | .keyDestroy => 0x0803
  | .errRead => 0x0901
  | .telemetry => 0x0902
  | .testConfig => 0x0903
  | .powerConfig => 0x0904
  | .lcRead => 0x0A01
  | .lcAdvance => 0x0A02
  | .debugCert => 0x0A03
  | .debugChallenge => 0x0A04
  | .lcEnrol => 0x0A05
  | .fwStage => 0x0B01
  | .fwActivate => 0x0B02
  | .lendBeacon => 0x0C01
  | .lendAsk => 0x0C02
  | .lendOffer => 0x0C03
  | .lendRelease => 0x0C04
  | .optShip => 0x0C05
  | .optClip => 0x0C06
  | .optReturn => 0x0C07
  | .portMap => 0x0C08

/-- The opcodes, in the order of Table 18-1. -/
def Opcode.all : List Opcode :=
  [.hello, .features, .attest, .keyExchange, .heartbeat, .event, .linkConfig, .hostConfig,
   .ctxCreate, .ctxDestroy, .ctxReset, .ctxSuspend, .ctxResume, .optStep, .paramExport, .mapGrant,
   .unmap, .pageHint, .regulate, .placeLog, .queueCreate, .queueDestroy, .doorbell, .fenceCreate,
   .fenceSignal, .fenceWait, .fenceDestroy, .backfillBind, .groupCreate, .bulkIn, .bulkOut, .ckptConfig,
   .ckptNow, .ckptRestore, .ckptVerify, .policyLoad, .ownerJoin, .quorumSign, .release, .keyLoad,
   .keyDerive, .keyDestroy, .errRead, .telemetry, .testConfig, .powerConfig, .lcRead, .lcAdvance,
   .debugCert, .debugChallenge, .lcEnrol, .fwStage, .fwActivate, .lendBeacon, .lendAsk, .lendOffer,
   .lendRelease, .optShip, .optClip, .optReturn, .portMap]

/-- The opcode of a code, if the table lists it. -/
def Opcode.ofCode (c : Nat) : Option Opcode := Opcode.all.find? (fun o => o.code == c)

/-- The column "Context" of Table 18-1. -/
inductive CtxMark where
  | yes | no | opt
  deriving DecidableEq, Repr

/-- The marking of Table 18-1 that R317 calls for. -/
def Opcode.mark : Opcode → CtxMark
  | .attest | .event | .placeLog | .errRead | .testConfig => .opt
  | .hello | .features | .keyExchange | .heartbeat | .linkConfig | .hostConfig | .ctxCreate | .regulate => .no
  | .telemetry | .powerConfig | .lcRead | .lcAdvance | .debugCert | .debugChallenge | .lcEnrol | .fwStage => .no
  | .fwActivate | .lendBeacon | .lendAsk | .lendOffer | .lendRelease | .optShip | .optClip | .optReturn => .no
  | .portMap => .no
  | .ctxDestroy | .ctxReset | .ctxSuspend | .ctxResume | .optStep | .paramExport | .mapGrant | .unmap => .yes
  | .pageHint | .queueCreate | .queueDestroy | .doorbell | .fenceCreate | .fenceSignal | .fenceWait | .fenceDestroy => .yes
  | .backfillBind | .groupCreate | .bulkIn | .bulkOut | .ckptConfig | .ckptNow | .ckptRestore | .ckptVerify => .yes
  | .policyLoad | .ownerJoin | .quorumSign | .release | .keyLoad | .keyDerive | .keyDestroy => .yes

/-- The events of Table 18-5 (R535). -/
inductive Event where
  | completion | fault | repaired | divergence | sdc | contextResetDone | keyRotate | thermal | brake | ckptDone | fwDone
  deriving DecidableEq, Repr

/-- Codes of Table 18-5. -/
def Event.code : Event → Nat
  | .completion => 0x0001
  | .fault => 0x0002
  | .repaired => 0x0003
  | .divergence => 0x0004
  | .sdc => 0x0005
  | .contextResetDone => 0x0006
  | .keyRotate => 0x0007
  | .thermal => 0x0008
  | .brake => 0x0009
  | .ckptDone => 0x000A
  | .fwDone => 0x000B

/-- The command opcodes of Table 18-2 (R533). -/
inductive CmdOp where
  | nop | matmul | vector | copy | fill | collective | repeatOp | scaleSet
  deriving DecidableEq, Repr

/-- Codes of Table 18-2. -/
def CmdOp.code : CmdOp → Nat
  | .nop => 0x0001
  | .matmul => 0x0010
  | .vector => 0x0011
  | .copy => 0x0020
  | .fill => 0x0021
  | .collective => 0x0030
  | .repeatOp => 0x0040
  | .scaleSet => 0x0050

/-- The command opcode of a code (R137). -/
def CmdOp.ofCode (c : Nat) : Option CmdOp :=
  [.nop, .matmul, .vector, .copy, .fill, .collective, .repeatOp, .scaleSet].find? (fun o => o.code == c)

/-! ### Open values -/

/-- LOG 8, DESIGN CHOICE: byte `n` of the TRNG's output since the machine of the model began. -/
opaque Config.trng : Nat → Byte

/-- LOG 9, DESIGN CHOICE: draw `n` of the Mint on a core and lane under a context seed (R53). -/
opaque Config.mint : (seed core lane n : Nat) → BitVec 16

/-- LOG 9, DESIGN CHOICE: the generator state of a lane in the field-test context, from the round's seed and the lane alone (R53, R460). -/
opaque Config.testLane : (seed : List Byte) → (lane : Nat) → Nat

/-- LOG 14, DESIGN CHOICE: result of GAUSS (R119) at draw `n`, which R119 bounds and does not fix. -/
opaque Config.gauss : (seed core lane n : Nat) → Word32

/-- LOG 12, DESIGN CHOICE: the contents that the spec calls unspecified, by the model's own counter. -/
opaque Config.freeByte : Nat → Byte

/-- LOG 12, DESIGN CHOICE: a number that the spec leaves open, by the model's own counter. -/
opaque Config.freeNat : Nat → Nat

/-- LOG 37, DESIGN CHOICE: data slots that transfer `n` of a partition since cold reset is charged with beyond those of its blocks, for
tags, counters, row openings and turn-rounds (R188). The spec gives no number. -/
opaque Config.slotExtra : (partition n : Nat) → Nat

/-- LOG 37, DESIGN CHOICE: data slots that transfer `n` of a partition waits for (R193), in the same form. -/
opaque Config.slotWait : (partition n : Nat) → Nat

/-- LOG 13, DESIGN CHOICE: the result of transcendental `f` of Table 04-10 where R120 gives bounds and no value. -/
opaque Config.transcendental : (f : Nat) → Word32 → Word32

/-- LOG 24, DESIGN CHOICE: post-package repairs that a bank of a stack has (R449 names JEDEC HBM4 and no number). -/
opaque Config.pprResources : (stack channel bank : Nat) → Nat

/-- LOG 12, DESIGN CHOICE: how an error record packs the bank or subarray and the row of a physical address into 32 bits (Table 14-8 gives no
layout). -/
opaque Config.placeCode : (address : Nat) → Nat

/-! LOG 6, DESIGN CHOICE: published cryptographic functions that no rule of the spec computes. -/

/-- X448 public key of a private key (RFC 7748). -/
opaque Config.x448Pub : Bytes → Bytes
/-- X448 shared secret of a private key and a peer's public key. -/
opaque Config.x448 : (priv pub : Bytes) → Bytes
/-- ML-KEM-1024 encapsulation key of a seed (FIPS 203). -/
opaque Config.mlkemPub : Bytes → Bytes
/-- ML-KEM-1024 ciphertext of an encapsulation to a key with given randomness. -/
opaque Config.mlkemCipher : (ek rand : Bytes) → Bytes
/-- ML-KEM-1024 shared secret of that encapsulation. -/
opaque Config.mlkemShared : (ek rand : Bytes) → Bytes
/-- ML-KEM-1024 shared secret that the holder of a seed decapsulates. -/
opaque Config.mlkemDecaps : (seed cipher : Bytes) → Bytes
/-- Ed448 public key of a seed (RFC 8032). -/
opaque Config.ed448Pub : Bytes → Bytes
/-- Ed448 signature by a seed over a text. -/
opaque Config.ed448Sign : (seed text : Bytes) → Bytes
/-- LOG 7: does an Ed448 signature that this device has not made itself verify? -/
opaque Config.ed448Verify : (key text sig : Bytes) → Bool
/-- AES-256-GCM: ciphertext followed by the 16-byte tag. -/
opaque Config.gcmSeal : (key nonce aad plain : Bytes) → Bytes
/-- AES-256-GCM: the plaintext of a ciphertext with its tag, when the tag verifies. -/
opaque Config.gcmOpen : (key nonce aad cipher : Bytes) → Option Bytes
/-- AES key unwrap of RFC 3394, when its check passes. -/
opaque Config.keyUnwrap : (key cipher : Bytes) → Option Bytes
/-- LOG 36, DESIGN CHOICE: the plane split of a piece that the device tries, 0 to 2, and its RFC 8878 frame (R486). -/
opaque Config.pieceFrame : Bytes → Nat × Bytes
/-- The content of an RFC 8878 frame within the limits of R486. -/
opaque Config.frameContent : Bytes → Bytes
/-- AES-256 of one block of 16 bytes, the first byte the least significant (R386, R387). -/
opaque Config.aes256 : (key : Bytes) → BitVec 128 → BitVec 128
/-- GHASH of GCM: its key, the additional authenticated data and the text (R387). -/
opaque Config.ghash : (h aad : BitVec 128) → (text : Bytes) → BitVec 128
/-- AES key wrap of RFC 3394 (R409). -/
opaque Config.keyWrap : (key plain : Bytes) → Bytes
/-- LOG 21: the device's certificate chain (R443), from the attestation key upwards. -/
opaque Config.certChain : List Bytes
/-- LOG 21: the maker's identifier in the claim `oemid` (Table 13-15). -/
opaque Config.oemId : Bytes
/-- LOG 18: the digest of the boot ROM (R448). -/
opaque Config.romDigest : Bytes
/-- The root secret of the die (R409). -/
opaque Config.rootSecret : Bytes

end Sys2Proof
end

