-- ==== Sys2Proof/Machine/Bits.lean ====
section
/-!
DEFINITION. Machine/Bits.lean: bit fields, little-endian bytes (R13, R14), and small arithmetic shared by every family.
-/
namespace Sys2Proof.Machine

/-- Bits [hi:lo] of a number, bit 0 the least significant (R14). -/
def field (v hi lo : Nat) : Nat := (v >>> lo) % 2 ^ (hi + 1 - lo)

/-- One bit of a number. -/
def flag (v i : Nat) : Bool := v.testBit i

/-- Do the bits [hi:lo] hold anything but zero? (a reserved field, R15) -/
def anySet (v hi lo : Nat) : Bool := field v hi lo != 0

/-- `n` bytes of a number, little-endian (R13). -/
def toLe : Nat → Nat → Bytes
  | 0, _ => []
  | n + 1, v => BitVec.ofNat 8 v :: toLe n (v / 256)

/-- The number that a run of bytes spells, little-endian (R13). -/
def ofLe : Bytes → Nat
  | [] => 0
  | b :: bs => b.toNat + 256 * ofLe bs

/-- `n` bytes of a run from offset `off`; bytes beyond its end read as zero. -/
def slice (bs : Bytes) (off n : Nat) : Bytes :=
  let t := (bs.drop off).take n
  t ++ List.replicate (n - t.length) 0

/-- Are all bytes of a run zero? -/
def allZero (bs : Bytes) : Bool := bs.all (fun b => b == 0)

/-- Division rounding up. -/
def ceilDiv (a b : Nat) : Nat := (a + b - 1) / b

/-- A count that holds at its largest value. -/
def hold (top v : Nat) : Nat := min top v

/-- A number read as a two's complement word of `w` bits. -/
def signedOf (w v : Nat) : Int := if v ≥ 2 ^ (w - 1) then (v : Int) - 2 ^ w else v

/-- The word of `w` bits of an integer, two's complement. -/
def wordOf (w : Nat) (v : Int) : Nat := (v % (2 ^ w : Int)).toNat

/-- Number of set bits among the lowest `n` bits. -/
def popCount : Nat → Nat → Nat
  | 0, _ => 0
  | n + 1, v => v % 2 + popCount n (v / 2)

/-- The ASCII bytes of a text. -/
def ascii (t : String) : Bytes := t.toList.map (fun c => BitVec.ofNat 8 c.toNat)

/-- Step a generation of `w` bits that is never 0 (R342). -/
def nextGen (w g : Nat) : Nat := let h := (g + 1) % 2 ^ w; if h = 0 then 1 else h

/-- Insert into a list kept in ascending order of a key. -/
def insertBy {α : Type} (key : α → Nat) (x : α) : List α → List α
  | [] => [x]
  | y :: ys => if key x ≤ key y then x :: y :: ys else y :: insertBy key x ys

/-- Sort in ascending order of a key; equal keys keep their order. -/
def sortBy {α : Type} (key : α → Nat) (l : List α) : List α :=
  l.foldr (fun x acc => insertBy key x acc) []

/-- The first element with the least key. -/
def leastBy {α : Type} (key : α → Nat) : List α → Option α
  | [] => none
  | x :: xs => match leastBy key xs with
    | none => some x
    | some y => if key x ≤ key y then some x else some y

/-- The first failed check sets the status: the first entry whose condition holds. -/
def firstOf {α : Type} : List (Bool × α) → Option α
  | [] => none
  | (c, a) :: rest => if c then some a else firstOf rest

/-- Replace the entry at position `i`. -/
def setAt {α : Type} (l : List α) (i : Nat) (x : α) : List α := l.set i x

/-- Change the entry at position `i`. -/
def modAt {α : Type} (l : List α) (i : Nat) (f : α → α) : List α :=
  match l[i]? with
  | some x => l.set i (f x)
  | none => l

/-- Change the first entry that meets a test. -/
def modFirst {α : Type} (p : α → Bool) (f : α → α) : List α → List α
  | [] => []
  | x :: xs => if p x then f x :: xs else x :: modFirst p f xs

/-- Remove the first occurrence of an entry. -/
def dropFirst {α : Type} [BEq α] (x : α) : List α → List α
  | [] => []
  | y :: ys => if x == y then ys else y :: dropFirst x ys

/-- Has a list an entry twice? -/
def hasDup {α : Type} [BEq α] : List α → Bool
  | [] => false
  | x :: xs => xs.contains x || hasDup xs

end Sys2Proof.Machine
end

