-- ==== Sys2Proof/Machine/Crypto.lean ====
section
/-!
DEFINITION. Machine/Crypto.lean: SHAKE256 and KMAC256, computed (LOG 20, PRESUMED: FIPS 202 and SP 800-185, which the
spec names in R326, R374 and R410), and the tally of R292.
-/
namespace Sys2Proof.Machine

/-- Rotate a 64-bit lane left. -/
def rotl64 (v n : Nat) : Nat := ((v <<< n) ||| (v >>> (64 - n))) % 2 ^ 64

/-- Lane of a Keccak state. -/
def lane (a : List Nat) (i : Nat) : Nat := a.getD i 0

/-- The next state of the shift register behind the round constants: x^8 + x^6 + x^5 + x^4 + 1. -/
def rcNext (r : Nat) : Nat := if r < 128 then 2 * r else (2 * r) ^^^ 0x171

/-- One round constant, from the register's state: its seven bits stand at the places 2^j - 1. -/
def rcBits : Nat → Nat → Nat → Nat × Nat
  | 0, _, r => (r, 0)
  | n + 1, j, r =>
    let t := rcBits n (j + 1) (rcNext r)
    (t.1, t.2 + (r % 2) * 2 ^ (2 ^ j - 1))

/-- Round constants of Keccak-f[1600], `n` of them from a state of the register on. -/
def rcFrom : Nat → Nat → List Nat
  | 0, _ => []
  | n + 1, r => (rcBits 7 0 r).2 :: rcFrom n (rcBits 7 0 r).1

/-- The rotation that a lane gets: the walk (x, y) → (y, 2x + 3y) meets every lane but (0, 0), and step `t` turns by (t + 1)(t + 2) / 2. -/
def turnOf (lane : Nat) : Nat → Nat → Nat → Nat → Nat
  | 0, _, _, _ => 0
  | n + 1, t, x, y => if lane = x + 5 * y then (t + 1) * (t + 2) / 2 % 64 else turnOf lane n (t + 1) y ((2 * x + 3 * y) % 5)

/-- Rotation offsets, lane `x + 5 y`. -/
def keccakTurns : List Nat := (List.range 25).map (fun i => turnOf i 24 0 1 0)

/-- Column parity of a Keccak state. -/
def parityOf (a : List Nat) (x : Nat) : Nat := (List.range 5).foldl (fun p y => p ^^^ lane a (x + 5 * y)) 0

/-- One round of Keccak-f[1600]. -/
def keccakRound (turns : List Nat) (a : List Nat) (rc : Nat) : List Nat :=
  let p := (List.range 5).map (parityOf a)
  let theta (i : Nat) : Nat := lane a i ^^^ lane p ((i + 4) % 5) ^^^ rotl64 (lane p ((i + 1) % 5)) 1
  -- lane (x, y) of the next array is lane (x + 3 y, x) of this one, turned
  let moved := (List.range 25).map (fun i =>
    let j := (i % 5 + 3 * (i / 5)) % 5 + 5 * (i % 5)
    rotl64 (theta j) (lane turns j))
  (List.range 25).map (fun i =>
    let row := i - i % 5
    lane moved i ^^^ ((lane moved (row + (i + 1) % 5) ^^^ (2 ^ 64 - 1)) &&& lane moved (row + (i + 2) % 5)) ^^^ (if i = 0 then rc else 0))

/-- The permutation. -/
def keccakF (a : List Nat) : List Nat := (rcFrom 24 1).foldl (keccakRound keccakTurns) a

/-- The 64-bit lanes of a run of bytes. -/
def toLanes : Nat → Bytes → List Nat
  | 0, _ => []
  | n + 1, bs => ofLe (bs.take 8) :: toLanes n (bs.drop 8)

/-- Absorb padded blocks of 136 bytes. -/
def absorb : Nat → List Nat → Bytes → List Nat
  | 0, a, _ => a
  | n + 1, a, bs =>
    absorb n (keccakF (List.zipWith (fun x y => x ^^^ y) a (toLanes 17 (bs.take 136) ++ List.replicate 8 0)))
      (bs.drop 136)

/-- Squeeze blocks of 136 bytes. -/
def squeeze : Nat → List Nat → Bytes
  | 0, _ => []
  | n + 1, a => (a.take 17).flatMap (toLe 8) ++ squeeze n (keccakF a)

/-- The sponge with rate 1,088 bits and a domain byte. -/
def sponge (dom : Nat) (text : Bytes) (out : Nat) : Bytes :=
  let padN := 136 - text.length % 136
  let pad : Bytes :=
    if padN = 1 then [BitVec.ofNat 8 (dom + 128)]
    else BitVec.ofNat 8 dom :: (List.replicate (padN - 2) 0 ++ [0x80#8])
  let t := text ++ pad
  (squeeze (ceilDiv out 136) (absorb (t.length / 136) (List.replicate 25 0) t)).take out

/-- SHAKE256 (FIPS 202). -/
def shake256 (text : Bytes) (out : Nat) : Bytes := sponge 0x1F text out

/-- Big-endian bytes of a number, at least one. -/
def beBytes (v : Nat) : Bytes := (toLe (Nat.log2 v / 8 + 1) v).reverse

/-- left_encode of SP 800-185. -/
def leftEncode (v : Nat) : Bytes := BitVec.ofNat 8 (beBytes v).length :: beBytes v
/-- right_encode of SP 800-185. -/
def rightEncode (v : Nat) : Bytes := beBytes v ++ [BitVec.ofNat 8 (beBytes v).length]
/-- encode_string of SP 800-185. -/
def encodeString (s : Bytes) : Bytes := leftEncode (8 * s.length) ++ s
/-- bytepad of SP 800-185, for the rate of 136 bytes. -/
def bytepad (s : Bytes) : Bytes :=
  let t := leftEncode 136 ++ s
  t ++ List.replicate ((136 - t.length % 136) % 136) 0

/-- KMAC256 of SP 800-185 (R326, R410). -/
def kmac256 (key data : Bytes) (custom : String) (out : Nat) : Bytes :=
  sponge 0x04
    (bytepad (encodeString (ascii "KMAC") ++ encodeString (ascii custom)) ++ bytepad (encodeString key)
      ++ data ++ rightEncode (8 * out)) out

/-- The prime of R292. -/
def tallyPrime : Nat := 2 ^ 61 - 1

/-- The fixed point of R292. -/
def tallyPoint : Nat := 0x0123456789ABCDEF

/-- The words of R292: 32-bit, little-endian, zero-padded. -/
def words32 : Nat → Bytes → List Nat
  | 0, _ => []
  | n + 1, bs => ofLe (bs.take 4) :: words32 n (bs.drop 4)

/-- The tally of R292. -/
def tally (data : Bytes) : Nat :=
  let h := (words32 (ceilDiv data.length 4) data).foldl (fun h w => (h * tallyPoint + w) % tallyPrime) 0
  (h * tallyPoint + data.length) % tallyPrime

end Sys2Proof.Machine
end

