-- ==== Sys2Proof/Machine/State.lean ====
section
/-!
DEFINITION. Machine/State.lean: every piece of state that the spec gives the block, as plain data, the queue of waiting
commands, and the state right after reset. INVENTORY.md lists each field with its rule and its reset value.
-/
namespace Sys2Proof.Machine

/-- The mode of the device (R372). -/
inductive Mode where
  | openMode | confidential
  deriving DecidableEq, Repr

/-- The roles of Table 10-9. -/
inductive Role where
  | tenant | management | observer
  deriving DecidableEq, Repr

/-- Why the device has stopped until the next cold reset. -/
inductive Halt where
  /-- REFCLK was missing (R34) -/
  | refclk
  /-- no boot-epoch position remains (R35) -/
  | epoch
  /-- the life cycle reads SCRAPPED (R425, R426) -/
  | scrapped
  /-- the identity record does not match its digest (R429) -/
  | identity
  /-- the root secret does not unwrap (R433) -/
  | unwrap
  /-- a bridge has more failing wires than spares (R455) -/
  | bridge
  /-- no firmware image verifies (R433) -/
  | image
  /-- thermal trip (R509) -/
  | trip
  /-- a rail left its range (R517) -/
  | rail
  deriving DecidableEq, Repr

/-- The ordering grades of Table 00-2. -/
inductive Grade where
  | g088 | g092
  deriving DecidableEq, Repr

/-- Rated count of a grade (Table 00-2). -/
def Grade.rated : Grade → Nat
  | .g088 => 88
  | .g092 => 92

/-- Service floor of a grade (Table 00-2). -/
def Grade.floor : Grade → Nat
  | .g088 => 84
  | .g092 => 88

/-- Ordering number of a grade (Table 00-2). -/
def Grade.name : Grade → String
  | .g088 => "HXT-9612-088"
  | .g092 => "HXT-9612-092"

/-- A signature known to exist: key, signed text, signature (LOG 7). -/
structure SigEntry where
  key : Bytes
  text : Bytes
  sig : Bytes
  deriving DecidableEq, Repr

/-- The hub: timer, pins, straps, and the model's own counters. -/
structure Hub where
  /-- hub timer (R33) -/
  timer : Nat := 0
  /-- the timer is held (R34) -/
  timerHeld : Bool := false
  /-- RESET_N is asserted (R519) -/
  inReset : Bool := false
  halt : Option Halt := none
  /-- ALERT_N asserted -/
  alertN : Bool := false
  /-- THERM_TRIP_N asserted -/
  thermTripN : Bool := false
  /-- the flash pins are released (R522) -/
  flashRel : Bool := false
  /-- HBM is in self-refresh (R509, R517) -/
  selfRefresh : Bool := false
  /-- PWR_BRAKE_N is asserted -/
  brakePin : Bool := false
  /-- straps as sampled (R523) -/
  straps : BootEnv := {}
  /-- count at which the internal cold reset falls due (R424) -/
  resetDue : Option Nat := none
  /-- MODEL'S OWN (LOG 8): TRNG bytes drawn so far -/
  trng : Nat := 0
  /-- MODEL'S OWN (LOG 12): free values used so far -/
  free : Nat := 0
  /-- MODEL'S OWN: commands dispatched so far, which orders them on each engine -/
  dispatched : Nat := 0
  /-- MODEL'S OWN (LOG 7): the signatures known to exist -/
  signatures : List SigEntry := []
  deriving DecidableEq, Repr

/-- The root secret and its wrap in OTP (R409): unburnt before the first power-up; burnt at one that came before the first state of this model;
drawn at one that the model made; or erased by scrapping (R426). -/
inductive RootWrap where
  | blank
  | first
  | drawn (secret : Bytes)
  | erased
  deriving DecidableEq, Repr

/-- The secret as it unwraps. -/
def RootWrap.secret : RootWrap → Bytes
  | .first => Config.rootSecret
  | .drawn b => b
  | .blank | .erased => []

/-- Antifuse OTP on the hub; survives every reset. -/
structure Otp where
  /-- burnt positions of the boot epoch (R35) -/
  bootEpoch : Nat := 1
  /-- burnt positions of the seal epoch (R411) -/
  sealEpoch : Nat := 1
  /-- the three life-cycle codewords (R418) -/
  lc : List Nat := []
  /-- operator keys burnt (R427) -/
  opKeys : List Bytes := []
  /-- security version (R437) -/
  svn : Nat := 0
  /-- burnt entries of the field repair map, in order (R449, R450) -/
  repair : List Nat := []
  /-- digest of the identity record (R429) -/
  identityDigest : Bytes := []
  /-- the wrapped root secret (R409, R426) -/
  root : RootWrap := .first
  /-- the four maker keys whose digests the boot ROM holds (R420); a key is taken to be the only one of its digest (DEDUCED LOG 7) -/
  makerKeys : List Bytes := []
  /-- the grade of the device (R2), and its good cores, as maker test found them: a fact of one die (LOG 5) -/
  grade : Grade := .g088
  good : List Nat := List.range 90
  deriving DecidableEq, Repr

/-- The boot flash. -/
structure Flash where
  /-- the two copies of the boot configuration record (R432) -/
  cfg : List Bytes := []
  /-- identity record (R429) -/
  identity : Bytes := []
  /-- image slots A and B (R430, R431): bytes that are not 0xFF -/
  slotA : List Host.Cell := []
  slotB : List Host.Cell := []
  deriving DecidableEq, Repr

/-- States of the life cycle, with the results of decoding (Table 13-1). -/
inductive LifeState where
  | maker | integrator | fielded | returned | scrapped | locked | invalid
  deriving DecidableEq, Repr

/-- A firmware activation on trial (R437). -/
structure Trial where
  slot : Nat
  started : Nat
  session : Option Nat
  tag : Nat
  deriving DecidableEq, Repr

/-- Life cycle and firmware as they stand since the last cold reset. -/
structure Life where
  /-- state in force (R419) -/
  inForce : LifeState := .fielded
  mode : Mode := .confidential
  /-- the retained flag, and whether it was set at this boot (R442, R428) -/
  retained : Bool := false
  forceOpen : Bool := false
  /-- debug rights in force (R440) -/
  rights : Nat := 0
  /-- nonce of DEBUG_CHALLENGE (R441) -/
  nonce : Option Bytes := none
  /-- measurement registers (R448) -/
  measRom : Bytes := []
  measIdentity : Bytes := []
  measFirmware : Bytes := []
  measConfig : Bytes := []
  trial : Option Trial := none
  /-- slot, build and svn of the running image (R445) -/
  slot : Nat := 0
  build : Nat := 0
  svn : Nat := 0
  /-- operator key in force (R427) -/
  opKey : Option Bytes := none
  /-- ATTEST requests held during an activation (R447) -/
  heldAttest : List Msg := []
  /-- MODEL'S OWN: partial resets of the hub since the machine began (R456) -/
  hubResets : Nat := 0
  deriving DecidableEq, Repr

/-- The configuration record for package power and voltage (R499). -/
structure PowerCfg where
  budget : Nat := 720
  vmax : Nat := 850
  rateTarget : Nat := 2100
  deviceCap : Nat := 2800
  linkBudget : Nat := 200
  deriving DecidableEq, Repr

/-- What holds or asks for leave (Table 16-1). -/
inductive LeaveFor where
  | command (ctx queue seq iter : Nat) (vector : Bool)
  | train (stack : Nat)
  | port (p : Nat)
  deriving DecidableEq, Repr

/-- One Teller (R494–R498). -/
structure Teller where
  /-- requests in order of arrival -/
  queue : List LeaveFor := []
  grants : List LeaveFor := []
  /-- grants that a brake revoked, in their original order (R502) -/
  revoked : List LeaveFor := []
  /-- coins granted in the current pacing window (R498) -/
  window : Nat := 0
  deriving DecidableEq, Repr

/-- A compute tile's rail, sensors and Teller. -/
structure Tile where
  teller : Teller := {}
  /-- requested VCORE in mV, and the voltage that the regulator last confirmed (R495, R505) -/
  mv : Nat := 720
  confirmed : Nat := 720
  /-- a request that waits for coins under R505 -/
  raise : Option Nat := none
  /-- readings of the last sample period; LOG 19 -/
  seenMv : Nat := 720
  rate : Nat := 2100
  amps : Nat := 0
  temp : Int := 600
  coinsSeen : Nat := 0
  level : Nat := 0
  /-- an invalid reading holds the level at 3 until two valid ones (R510) -/
  invalid : Bool := false
  valid : Nat := 0
  cap : Nat := 720
  thermal : Nat := 720
  /-- thermal brake (Table 16-6, level 3) -/
  brake : Bool := false
  /-- undervoltage hold: ends of sample periods at which VCORE must still have stood at 0.55 V (R516); 0: none -/
  underVolt : Nat := 0
  /-- regulator silent (R505) -/
  silent : Bool := false
  /-- when the voltage request in progress was sent -/
  asked : Option Nat := none
  deriving DecidableEq, Repr

/-- Sensor of the hub or of a link die. -/
structure Sensor where
  temp : Int := 600
  level : Nat := 0
  invalid : Bool := false
  valid : Nat := 0
  deriving DecidableEq, Repr

/-- Power, pace and temperature. -/
structure Power where
  cfg : PowerCfg := {}
  /-- configuration that takes effect at the next sample period (R500) -/
  next : PowerCfg := {}
  tiles : List Tile := []
  /-- Tellers and sensors of the two link dies, and the hub's sensor -/
  linkTellers : List Teller := []
  linkSensors : List Sensor := []
  hubSensor : Sensor := {}
  /-- brake: assertions since cold reset, since the last BRAKE event, count of the latest, longest, end of the interval -/
  brakes : Nat := 0
  brakeCount : Nat := 0
  brakeAt : Nat := 0
  brakeLongest : Nat := 0
  brakeUntil : Option Nat := none
  /-- package power of the last sample period, and the sums over the last 2^28 counts (R506) -/
  watts : Nat := 0
  history : List Nat := []
  lastSample : Nat := 0
  deriving DecidableEq, Repr

/-- An HBM stack (R184–R187). -/
structure Stack where
  /-- reported temperature in 0.125 °C; LOG 19 -/
  temp : Int := 400
  /-- refresh multiple 1, 2 or 4 -/
  refresh : Nat := 1
  /-- the bandwidth cap of R187 -/
  capped : Bool := false
  /-- valid readings in succession after an invalid one (R185) -/
  invalid : Bool := false
  valid : Nat := 0
  /-- thermal level of Table 16-6 -/
  level : Nat := 0
  /-- burst-train leave held, and the count of the last request (R494) -/
  train : Bool := false
  lastReq : Nat := 0
  /-- blocks with a pending write, by pseudo-channel (R181) -/
  writes : List (Nat × Nat) := []
  deriving DecidableEq, Repr

/-- Service of a core (R3–R6). -/
inductive CoreStatus where
  | active | spare | fenced | notGood
  deriving DecidableEq, Repr

/-- A core. -/
structure Core where
  status : CoreStatus := .active
  /-- suspended (R458), and the test sets passed since -/
  suspended : Bool := false
  passed : Nat := 0
  /-- a field test runs on it (R218) -/
  underTest : Bool := false
  lastDispatch : Nat := 0
  lastTest : Nat := 0
  /-- last round it ran, if any, and whether it passed -/
  lastRound : Option Nat := none
  roundPassed : Bool := false
  /-- no dispatch until it is tested (R463) -/
  held : Bool := false
  /-- counts at which CORRECTED records were filed (R457) -/
  corrected : List Nat := []
  /-- when it last returned from suspension (R457) -/
  returned : Option Nat := none
  /-- estimated beats dispatched and not complete (Table 07-2) -/
  load : Nat := 0
  /-- review periods of overload in a row (R209) -/
  overload : Nat := 0
  /-- by class: the number after that of the slot served last (Table 11-7) -/
  turn : List (Nat × Nat) := []
  deriving DecidableEq, Repr

/-- Field-test rounds (R460–R464). -/
structure TestState where
  round : Nat := 0
  seed : Bytes := []
  /-- cores that ran the round before its tallies were confirmed, with their tallies, oldest first; the first is the
  candidate (R461) -/
  results : List (Nat × List Nat) := []
  confirmed : Option (List Nat) := none
  /-- cores that ran the round -/
  ran : List Nat := []
  intervalLog2 : Nat := 36
  force : Bool := true
  /-- generator states of the lanes of the core under test: of the round's seed and the lane alone (R53, R460) -/
  lanes : List Nat := []
  /-- fences that wait for a spare: the core fenced, the class of the record that fenced it, and the spare whose test decides (R459) -/
  sparing : List (Nat × Nat × Nat) := []
  deriving DecidableEq, Repr

/-- A poison word (Table 12-2) of one block. -/
structure Poison where
  block : Nat
  lastMinor : Nat
  key : Nat
  kspace : Bool
  cause : Nat
  deriving DecidableEq, Repr

/-- Counters of one HBM page frame that are not at zero (R383–R389). Sectors and blocks are numbered within the frame. -/
structure FrameMeta where
  pfn : Nat
  high : Nat := 0
  retired : Bool := false
  /-- L of the sectors that are not zero -/
  low : List (Nat × Nat) := []
  /-- minor counters of the blocks that are not zero -/
  minors : List (Nat × Nat) := []
  poison : List Poison := []
  deriving DecidableEq, Repr

/-- What an HBM frame in use is used for (R195, R196, R212, R213, R214). -/
inductive FrameUse where
  | page | mirror | lent (lease : Nat) | reserve | withdrawn | retired
  /-- a frame of the copy-on-write allowance of a context: a snapshot or a saved window (R483, R485) -/
  | snapshot (ctx : Nat)
  deriving DecidableEq, Repr

/-- A partition control word (Table 06-9). -/
structure Partition where
  share : Nat := 0
  ceiling : Nat := 0
  deriving DecidableEq, Repr

/-- HBM traffic charged to a partition since cold reset (R188): its transfers, and the 64-byte blocks of all of them. -/
structure Traffic where
  transfers : Nat := 0
  blocks : Nat := 0
  deriving DecidableEq, Repr

/-- Memories. -/
structure Memory where
  /-- bytes that are not zero, by byte address: HBM and tier SRAM at the addresses of Table 06-2,
  borrowed frames at 2^46, scratchpads at 2^47 (LOG 10) -/
  cells : List Host.Cell := []
  metas : List FrameMeta := []
  /-- poisoned 64-byte pieces of SRAM, by byte address / 64 (R177) -/
  pieces : List Nat := []
  /-- HBM frames in use (page frame number, use) -/
  hbmUse : List (Nat × FrameUse) := []
  /-- tier frames in use, and out of service (R452) -/
  tierUse : List Nat := []
  tierRetired : List Nat := []
  /-- errors by SRAM row (key, count of the timer) and spare rows used by bank or subarray (key, number) (R452) -/
  rowErrors : List (Nat × Nat) := []
  rowSpares : List (Nat × Nat) := []
  /-- tag failures by HBM row and post-package repairs used (R453) -/
  hbmRows : List (Nat × Nat) := []
  partitions : List Partition := []
  deriving DecidableEq, Repr

/-- Kinds of key slot (Table 12-8). -/
inductive KeyKind where
  | memory | session | channel | lease | job | release | checkpoint | loaded | macsec | device
  deriving DecidableEq, Repr

/-- A valid KeyID with its slot (Table 12-8). -/
structure KeySlot where
  keyId : Nat
  kind : KeyKind
  resetExpire : Bool := false
  derivable : Bool := false
  ctx : Nat := 0
  ctxGen : Nat := 0
  owner : Nat := 0
  byOwner : Bool := false
  uses : Nat := 0
  limit : Nat := 0
  issue : Nat := 0
  material : Bytes := []
  /-- destruction asked for and waiting (R414) -/
  dying : Bool := false
  deriving DecidableEq, Repr

/-- A context key bank entry (R404, R406). -/
structure BankEntry where
  ctx : Nat
  gen : Nat
  uses : Nat := 0
  limit : Nat := 0
  issue : Nat := 0
  material : Bytes := []
  deriving DecidableEq, Repr

/-- The Vault. -/
structure Vault where
  slots : List KeySlot := []
  bank : List BankEntry := []
  bootNonce : Bytes := []
  /-- security alarms (R395) -/
  alarms : Nat := 0
  /-- KeyIDs freed: identifier and time (R344, R408) -/
  freed : List (Nat × Nat) := []
  /-- issue counts of KeyIDs and, from 4,096 on, of the entries of the context key bank (Table 12-9) -/
  issues : List (Nat × Nat) := []
  deriving DecidableEq, Repr

/-- A segment held at the receiver before it is in order (R312). -/
structure HeldFrame where
  seq : Nat
  isClose : Bool
  seg : Segment
  deriving DecidableEq, Repr

/-- The headers before the frame header of a frame that leaves HOST (Table 10-4): the address and UDP port it goes to (R311), DSCP, ECN and PFC
priority (Tables 10-2, 10-3), and whether MACsec protects it. -/
structure HostHdr where
  peer : Nat := 0
  dscp : Nat := 0
  ecn : Nat := 0
  priority : Option Nat := none
  sec : Bool := false
  deriving DecidableEq, Repr

/-- The frame header of a Queko frame that leaves (Table 10-5); `kind` is its `type`. -/
structure QHdr where
  ver : Nat := 1
  kind : Nat
  session : Nat := 0
  kphase : Bool := false
  sgen : Nat := 0
  seq : Nat
  deriving DecidableEq, Repr

/-- A DATA or CLOSE frame sent and not acknowledged (R315). -/
structure SentFrame where
  seq : Nat
  kphase : Bool
  isClose : Bool := false
  seg : Segment
  deriving DecidableEq, Repr

/-- The receiving half of a session. -/
structure RxHalf where
  /-- next sequence number expected -/
  ack : Nat := 0
  held : List HeldFrame := []
  /-- ACK counter last received -/
  ackSeq : Nat := 0
  /-- frames since the last ACK, and when the first of them came -/
  unacked : Nat := 0
  since : Nat := 0
  ce : Nat := 0
  /-- segments of the message in progress, and the next message number -/
  segs : List Segment := []
  nextMsg : Nat := 0
  /-- messages in order that no request step has taken: opcode and message (R320) -/
  mailbox : List (Nat × Msg) := []
  /-- key phase in force; while the old key is kept, the first frame of the new phase, 2^64 before one has come (R329) -/
  kphase : Bool := false
  oldKept : Option Nat := none
  /-- frames received under the current key (R329, R417) -/
  frames : Nat := 0
  /-- KEY_ROTATE was raised for this direction at 2^47, and the count of its last repeat (R417) -/
  rotated : Bool := false
  lastRotate : Nat := 0
  /-- window last offered (R313) -/
  offered : Nat := 1024
  deriving DecidableEq, Repr

/-- A rate in 64ths of a port's rate, exactly: `num` / 2^`log` (R274, R316). -/
structure Rate where
  num : Nat := 64
  log : Nat := 0
  /-- the next sequence numbers when it was last halved, and last raised -/
  halved : Nat := 0
  raised : Nat := 0
  deriving DecidableEq, Repr

/-- The sending half of a session. -/
structure TxHalf where
  seq : Nat := 0
  ackSeq : Nat := 0
  nextMsg : Nat := 0
  /-- segments that wait for the window -/
  waiting : List Segment := []
  unacked : List SentFrame := []
  window : Nat := 16
  /-- retransmission time (R315), count of the last advance -/
  rto : Nat := 4096
  lastAdvance : Nat := 0
  /-- rate (R316) -/
  rate : Rate := {}
  kphase : Bool := false
  /-- waiting segments that still go under the old phase (R329) -/
  oldLeft : Nat := 0
  frames : Nat := 0
  /-- KEY_ROTATE was raised for this direction at 2^47, and the count of its last repeat (R417) -/
  rotated : Bool := false
  lastRotate : Nat := 0
  deriving DecidableEq, Repr

/-- An entry of an event ring: Table 10-14 and its body. -/
structure Entry where
  rseq : Nat
  event : Event
  status : Status
  body : Bytes
  /-- in the device's own ring: the session that a KEY_ROTATE goes to; none: the management session -/
  dest : Option Nat := none
  deriving DecidableEq, Repr

/-- An EVENT request that no answer has settled (R333, R335). -/
structure EventReq where
  tag : Nat
  gen : Nat
  /-- the context whose ring it came from; none: the device's own ring -/
  ctx : Option Nat
  ctxGen : Nat
  entries : List Entry
  lost : Nat
  deadline : Nat
  /-- answered with a status other than OK: its entries go again at the deadline (R333) -/
  answered : Bool := false
  deriving DecidableEq, Repr

/-- A session, open or in handshake. -/
structure Session where
  number : Nat
  gen : Nat := 0
  role : Role := .tenant
  hostKey : Bytes := []
  isOpen : Bool := true
  hsId : Nat := 0
  /-- count of the HELLO answer -/
  helloAt : Nat := 0
  transcript : Bytes := []
  /-- keys: host to device, device to host -/
  keyIn : Bytes := []
  keyOut : Bytes := []
  /-- the keys of the old phase while they are kept (R329) -/
  oldIn : Bytes := []
  oldOut : Bytes := []
  /-- keys of a rekey, in force once its answer is queued (R329) -/
  next : Option (Bytes × Bytes) := none
  /-- feature map in force -/
  features : Nat := 0
  segLog2 : Nat := 13
  hbPeriod : Nat := 16
  lastFrame : Nat := 0
  peer : Nat := 0
  rx : RxHalf := {}
  tx : TxHalf := {}
  /-- tags of unanswered requests (R321) -/
  tags : List Nat := []
  events : List EventReq := []
  /-- the next entry of the device ring of its own (KEY_ROTATE) to send, and its entries lost since its last EVENT (R332, R334) -/
  ownSent : Nat := 0
  ownLost : Nat := 0
  deriving DecidableEq, Repr

/-- States of a context (Table 11-5). -/
inductive CtxState where
  | suspended | ready | resident | resetting
  deriving DecidableEq, Repr

/-- Why a context leaves residency (R357, R358). -/
inductive Leaving where
  | stays | suspend | rotate
  deriving DecidableEq, Repr

/-- Where a record taken in stands (R133). `ended` holds the status, the results, and whether `fence_out` may be signalled. -/
inductive Phase where
  | waiting
  | running
  | ended (status : Status) (res0 res1 : Nat) (signals : Bool)
  deriving DecidableEq, Repr

/-- A record taken in and not complete. -/
structure Rec where
  seq : Nat
  iter : Nat := 0
  /-- its 128 bytes, as read at intake or at the iteration -/
  image : Bytes
  inVal : Nat := 0
  outVal : Nat := 0
  /-- hub-timer count at intake -/
  taken : Nat := 0
  phase : Phase := .waiting
  /-- core it was dispatched to; none: hub or Clearing engine -/
  core : Option Nat := none
  /-- Ledger tag -/
  tag : Option Nat := none
  /-- estimated beats (Table 07-2) -/
  beats : Nat := 0
  /-- has asked the Teller, and has been granted leave -/
  asked : Bool := false
  leave : Bool := false
  /-- an event-ring entry is reserved for it (R352) -/
  reserved : Bool := true
  /-- its fence wait has expired (R153) -/
  expired : Bool := false
  /-- hub entry of the Ledger for a fence wait under `tmo` (R161) -/
  waitTag : Option Nat := none
  /-- it has been dispatched -/
  dispatched : Bool := false
  /-- place in the order of dispatch (R69, R102) -/
  order : Nat := 0
  /-- feature map in force at dispatch (R539) -/
  features : Nat := 0
  /-- chain descriptor of a VECTOR, as read when the operation started (R108) -/
  chain : Option Bytes := none
  /-- another engine wrote one of its regions while it ran (R81, R102) -/
  tangled : Bool := false
  deriving DecidableEq, Repr

/-- A REPEAT in progress (R164, R165). -/
structure RepeatRun where
  seq : Nat
  count : Nat
  span : Nat
  stride : Nat
  /-- next iteration to dispatch, and the executions of the current one that wait for dispatch or completion -/
  next : Nat := 1
  /-- cores of the first iteration (R211): sequence number and core -/
  cores : List (Nat × Nat) := []
  /-- the moves of the pinned pages to those cores have been asked for (R211) -/
  pinned : Bool := false
  deriving DecidableEq, Repr

/-- A queue. -/
structure Queue where
  number : Nat
  gen : Nat := 0
  ringLog2 : Nat := 6
  ringAddr : Nat := 0
  audit : Bool := false
  genMode : Bool := false
  stopOnError : Bool := false
  window : Nat := 0
  /-- home core and window base in MiB (R173) -/
  home : Option Nat := none
  base : Nat := 0
  /-- a window saved while the context is not resident (R174) -/
  savedWindow : Option (List Host.Cell) := none
  /-- poisoned pieces of the saved window, by offset / 64 -/
  savedPieces : List Nat := []
  tail : Nat := 0
  head : Nat := 0
  done : Nat := 0
  recs : List Rec := []
  /-- sequence numbers delivered at or above `done` -/
  delivered : List Nat := []
  /-- stopped under R148 with this status -/
  stopped : Option Status := none
  destroying : Bool := false
  rep : Option RepeatRun := none
  overload : Nat := 0
  deriving DecidableEq, Repr

/-- A mapped page of a context. `va` is the virtual address / 2 MiB. -/
structure Page where
  va : Nat
  hbm : Option Nat := none
  tier : Option Nat := none
  lease : Option Nat := none
  ro : Bool := false
  /-- share index and page index in the object (R198) -/
  share : Option (Nat × Nat) := none
  /-- loaded KeyID bound to it; 0: the context key (R406, R414) -/
  keyId : Nat := 0
  /-- tile counts of Table 07-2 -/
  heat : List Nat := [0, 0, 0, 0, 0, 0]
  toucher : Nat := 0
  /-- the 4 KiB unit of it that was touched last (Table 07-2; LOG 27) -/
  unit : Option Nat := none
  pin : Bool := false
  streamOnce : Bool := false
  cold : Bool := false
  affinity : Option Nat := none
  /-- snapshot page not yet copied (R485) -/
  snap : Bool := false
  /-- poisoned whole (R216, R476) -/
  lost : Bool := false
  deriving DecidableEq, Repr

/-- The event ring of a context (R350, R352). -/
structure Ring where
  addr : Nat := 0
  log2 : Nat := 10
  rseq : Nat := 0
  consumed : Nat := 0
  entries : List Entry := []
  /-- next entry to send, and the value last reported as consumed, by session -/
  sent : List (Nat × Nat) := []
  seen : List (Nat × Nat) := []
  /-- entries reserved for completions -/
  reserved : Nat := 0
  /-- events that wait for one of the sixteen entries (R352) -/
  held : List Entry := []
  deriving DecidableEq, Repr

/-- A window of a consortium policy (Table 11-15). -/
structure PolicyWindow where
  va : Nat
  pages : Nat
  kind : Nat
  owner : Nat
  deriving DecidableEq, Repr

/-- A bound policy (R374, R375) and its releases (R379–R381). -/
structure Policy where
  nOwners : Nat
  quorum : Nat
  dpRequired : Bool
  dpSigmaMin : Nat
  dpStepMax : Nat
  jobId : Nat
  progAddr : Nat
  progPages : Nat
  owners : List Bytes
  windows : List PolicyWindow
  /-- queue, template offset, template length -/
  templates : List (Nat × Nat × Nat)
  hash : Bytes
  /-- `prog_digest` (Table 11-14) -/
  progDigest : Bytes := []
  jobKey : Bytes
  release : Nat := 1
  /-- manifest tally of the open proposal -/
  proposal : Option Nat := none
  signed : List Nat := []
  released : List Nat := []
  /-- answers under R379 so far, and how many of them came before the present number -/
  counter : Nat := 0
  keyFrom : Nat := 0
  deriving DecidableEq, Repr

/-- The checkpoint configuration and generations of a context (R477–R488). -/
structure Ckpt where
  /-- the payload of CKPT_CONFIG in force -/
  cfg : Bytes := []
  nextGen : Nat := 1
  /-- stage: 0 none; 1 draining; 2 writing -/
  stage : Nat := 0
  cause : Nat := 0
  genNow : Nat := 0
  started : Nat := 0
  cutAt : Nat := 0
  lastCut : Nat := 0
  cutEpoch : Nat := 0
  skipped : Nat := 0
  /-- sections of the generation as they stood at the cut: kind, ref, raw bytes (Table 15-2) -/
  sections : List (Nat × Nat × Bytes) := []
  /-- frames of the copy-on-write allowance in use, writes served through one, and writes held (R485) -/
  cowUsed : Nat := 0
  cowMoves : Nat := 0
  heldWrites : Nat := 0
  /-- a page whose snapshot cannot be read was written or unmapped before it was copied (R485, R487) -/
  torn : Bool := false
  /-- half of the store that the generation goes to (R487) -/
  half : Nat := 0
  /-- `step` of the last phase-1 OPT_STEP completed, and as it stood at the cut -/
  step : Nat := 0
  cutStep : Nat := 0
  /-- records named by accepted OPT_STEP requests: table address, index (Table 15-2, kind 6) -/
  named : List (Nat × Nat) := []
  deriving DecidableEq, Repr

/-- An OPT_STEP that runs: what its answer counts so far (Table 08-7), the records still on a lender (index, lease slot), and the
records whose work fences wait for the audit (R248, R472). -/
structure OptRun where
  nan : Nat := 0
  inf : Nat := 0
  fin : Nat := 0
  /-- *c* of phase 1, once it is formed (R237) -/
  clip : Option Nat := none
  skipped : Bool := false
  finished : Nat := 0
  shippedN : Nat := 0
  flags : Nat := 0
  failed : Bool := false
  /-- status of a read that failed (LOG 35) -/
  bad : Option Status := none
  regressed : Bool := false
  away : List (Nat × Nat) := []
  audit : List Nat := []
  auditing : Bool := false
  /-- status that the audit gave (R473, R474) -/
  verdict : Option Status := none
  /-- the audit found no majority; the image that a dissenting member copies (R473, R474) -/
  split : Bool := false
  copies : Bytes := []
  /-- cores that ran the audited records: record, core (R473) -/
  ran : List (Nat × Nat) := []
  /-- the records of the range, as read when the phase started (R235) -/
  recs : Bytes := []
  deriving DecidableEq, Repr

/-- A record whose gradient is in a lender's staging or on its way there (R248). -/
structure Shipped where
  /-- address of the record, its 128 bytes as the phase that shipped it read them, and the slot of the lease -/
  va : Nat
  image : Bytes
  slot : Nat
  /-- the lender has acknowledged the gradient, and the record's own is zeroed (Table 08-8, order 3) -/
  acked : Bool := false
  /-- the gradient has gone a second time (R293) -/
  resent : Bool := false
  /-- the lease broke before the record came back (R250) -/
  lost : Bool := false
  deriving DecidableEq, Repr

/-- A tensor that no command may write between phase 0 and the work fence of its record (R241). -/
structure Guarded where
  /-- address of the record -/
  va : Nat
  space : Nat
  queue : Nat
  addr : Nat
  bytes : Nat
  deriving DecidableEq, Repr

/-- An accepted OPT_STEP or PARAM_EXPORT (R234, R252). -/
structure OptReq where
  session : Nat
  tag : Nat
  /-- 0 prepare, 1 update, 2 export -/
  kind : Nat
  payload : Bytes
  accepted : Nat := 0
  /-- it runs, and waits for a lender or for its audit -/
  run : Option OptRun := none
  deriving DecidableEq, Repr

/-- A backfill binding (R223–R228). -/
structure Backfill where
  queue : Nat
  leads : List Nat
  bound : Nat
  held : Nat := 0
  deriving DecidableEq, Repr

/-- Limits of R194. -/
structure Limits where
  localMax : Nat := 0
  sramMax : Nat := 0
  nbrMax : Nat := 0
  deriving DecidableEq, Repr

/-- Counts of an open aggregate period (Table 07-7). -/
structure Period where
  /-- count at which the period began -/
  since : Nat := 0
  closed : Nat := 0
  promoted : Nat := 0
  demoted : Nat := 0
  lent : Nat := 0
  heldWrites : Nat := 0
  records : List Bytes := []
  lost : Nat := 0
  deriving DecidableEq, Repr

/-- Counts of Table 11-11. -/
structure ResetCounts where
  cause : Nat := 0
  aborted : Nat := 0
  retracted : Nat := 0
  fences : Nat := 0
  pages : Nat := 0
  deriving DecidableEq, Repr

/-- The form-2 assignment of a context (R349, R361). -/
structure Assign where
  qos : Nat := 0
  part : Nat := 0
  linkShare : Nat := 0
  linkCeil : Nat := 255
  deriving DecidableEq, Repr

/-- Residency of a context (R354–R358). -/
structure Residency where
  state : CtxState := .suspended
  slot : Option Nat := none
  leaving : Leaving := .stays
  /-- count since which it wants a slot; resident since; last work -/
  wantSince : Option Nat := none
  since : Nat := 0
  lastWork : Nat := 0
  /-- pinned pages are on their way back into tier SRAM; no command is dispatched before (R201) -/
  pinning : Bool := false
  deriving DecidableEq, Repr

/-- A context. -/
structure Ctx where
  id : Nat
  gen : Nat
  owner : Nat
  ownerGen : Nat := 0
  consortium : Bool := false
  seed : Nat := 0
  res : Residency := {}
  assign : Assign := {}
  assigned : Assign := {}
  /-- CTX_DESTROY accepted (R346, R371) and teardown step -/
  destroying : Bool := false
  counts : ResetCounts := {}
  limits : Limits := {}
  pages : List Page := []
  queues : List Queue := []
  queueGens : List (Nat × Nat) := []
  ring : Option Ring := none
  scaleAddr : Nat := 0
  scaleN : Nat := 0
  /-- stop mark (R476) -/
  stopMark : Bool := false
  lateDrops : Nat := 0
  dpSteps : Nat := 0
  /-- audit: every, group, gen, table, first, records (R464) -/
  audit : List Nat := []
  opt : List OptReq := []
  /-- records whose gradient lies in a lender's staging (R248) -/
  shipped : List Shipped := []
  /-- tensors between the acceptance of phase 0 and the work fence (R241) -/
  guarded : List Guarded := []
  /-- payloads of the final answers to the OPT_STEP requests that a teardown ended: session, tag, payload (R235, R242) -/
  optFinal : List (Nat × Nat × Bytes) := []
  backfill : List Backfill := []
  /-- page numbers of the units of R246 -/
  units : List (List Nat) := []
  /-- review period of the last review (R201) -/
  reviewed : Option Nat := none
  /-- Mint draws so far: core, lane, draws (R53) -/
  draws : List (Nat × Nat × Nat) := []
  policy : Option Policy := none
  /-- sessions joined: session, its generation, owner index (R377) -/
  joined : List (Nat × Nat × Nat) := []
  ckpt : Ckpt := {}
  period : Period := {}
  /-- fence references: index (R363) -/
  fences : List Nat := []
  /-- fence translation after a restore: old handle, new handle (R492) -/
  fenceMap : List (Nat × Nat) := []
  deriving DecidableEq, Repr

/-- A fence (R363–R367). -/
structure Fence where
  index : Nat
  gen : Nat
  value : Nat
  key : Option Nat := none
  abandoned : Bool := false
  deriving DecidableEq, Repr

/-- A page of a shared object: its two frames, a pinned copy, and whether both copies failed (R212, R213, R476). -/
structure SharePage where
  first : Nat
  mirror : Option Nat
  tier : Option Nat := none
  lost : Bool := false
  deriving DecidableEq, Repr

/-- A published object (R198). -/
structure Share where
  index : Nat
  gen : Nat
  key : Nat
  /-- publisher, for its key field -/
  ctx : Nat
  keyId : Nat := 0
  pages : List SharePage
  /-- contexts that map it, with the page number of their first page -/
  maps : List (Nat × Nat) := []
  /-- page number of the publisher's own first page, while the publisher lives -/
  own : Option Nat := none
  deriving DecidableEq, Repr

/-- The mappings of a context that are not the publisher's own: the first page of each (R198). -/
def Share.attached (x : Share) (id : Nat) : List Nat :=
  (x.maps.filter (fun m => m.1 == id && !(id == x.ctx && x.own == some m.2))).map (fun m => m.2)

/-- Who holds a Ledger entry (R161). -/
inductive Holder where
  | command (ctx queue seq iter : Nat)
  | fenceIn (ctx queue seq iter : Nat)
  | fenceWait (session tag : Nat)
  | instance_ (ctx group inst : Nat)
  | transfer (ctx : Nat) (lease : Nat) (va : Nat)
  | probe (lease : Nat)
  | event (session tag : Nat)
  deriving DecidableEq, Repr

/-- A Ledger entry that is not free. -/
structure LedgerEntry where
  tag : Nat
  gen : Nat
  holder : Holder
  ctx : Option Nat
  deadline : Option Nat
  /-- count at which it timed out (R163) -/
  quarantine : Option Nat := none
  deriving DecidableEq, Repr

/-- The Ledger. -/
structure Ledger where
  entries : List LedgerEntry := []
  /-- generation of the last issue of a tag -/
  gens : List (Nat × Nat) := []
  /-- responses discarded under STALE_GENERATION -/
  stale : Nat := 0
  deriving DecidableEq, Repr

/-- What a PENDING or held request waits for. -/
inductive WaitFor where
  | unmap (va pages : Nat)
  | queueDestroy (queue : Nat)
  | fence (index value tag : Nat)
  | keyBind (keyId : Nat)
  | keyDestroy (keyId : Nat)
  | group (group : Nat)
  | ckpt (gen : Nat)
  | ckptRead (payload : Bytes)
  | opt
  | suspend
  | reset
  | destroy
  | pin (va pages : Nat)
  | links (ports : List Nat) (failed : Nat)
  | groupEnd (group : Nat)
  | firmware
  deriving DecidableEq, Repr

/-- A request not finally answered (R318, R541). -/
structure Wait where
  session : Nat
  sgen : Nat
  opcode : Opcode
  tag : Nat
  ctx : Nat
  ctxGen : Nat
  what : WaitFor
  deriving DecidableEq, Repr

/-- Why a page moves (Table 07-6). -/
inductive Reason where
  | heat | pin | cold | affinity | fencing | residency | mirror | lease | genMode | homeMoved | surplus | repair
  deriving DecidableEq, Repr

/-- A page move asked for (R205): context, page, destination frame; `keyId` is the KeyID under R414. It counts against the budget of a tile,
`paid` once it has spent one move of it, and copies while it is in flight (R204). -/
structure Move where
  ctx : Nat
  va : Nat
  dest : Nat
  reason : Reason
  keyId : Nat
  tile : Nat := 0
  paid : Bool := false
  going : Bool := false
  deriving DecidableEq, Repr

/-- The readable headers of a Rasovi frame before its outer header (Table 09-3): what this spec gives of them. Addresses are those of R262,
on switched ports; ECN and the PFC priority are those of R274. -/
structure WireHdr where
  etherType : Nat := 0x9B31
  srcMac : Option Nat := none
  dstMac : Option Nat := none
  srcIp : Option Nat := none
  dstIp : Option Nat := none
  udp : Option Nat := none
  ecn : Nat := 0
  priority : Option Nat := none
  deriving DecidableEq, Repr

/-- What left the device (MODEL'S OWN record, in order). -/
inductive Out where
  | message (session : Nat) (opcode : Nat) (ans dev : Bool) (ctx ctxGen tag status arg0 : Nat) (payload : Bytes)
  | hello (hs : Nat) (tag status : Nat) (payload : Bytes)
  | queko (h : HostHdr) (q : QHdr) (g : Segment)
  | ack (h : HostHdr) (q : QHdr) (b : AckBody)
  | host (h : HostHdr) (f : HostFrame)
  | rasovi (peer : Nat) (h : WireHdr) (o : Outer) (i : Inner)
  | link (peer : Nat) (h : WireHdr) (o : Outer) (b : LinkBody)
  | i3c (data : Bytes)
  | avs (tile mv : Nat)
  | pfc (priority : Nat) (pause : Bool)
  /-- in-band interrupt with its mandatory byte (R525) -/
  | ibi (byte : Nat)
  deriving DecidableEq, Repr


/-- What a context has of a port's window (R360): the words in force for the window, and its frames so far. -/
structure PortShare where
  ctx : Nat
  share : Nat
  ceil : Nat
  sent : Nat := 0
  deriving DecidableEq, Repr

/-- A Rasovi port (R255–R259, R298). -/
structure Port where
  /-- 0 off; 1 direct; 2 switched Ethernet; 3 switched UDP/IPv6 -/
  mode : Nat := 0
  isUp : Bool := false
  /-- training since this count -/
  training : Option Nat := none
  /-- 1.6T mode -/
  wide : Bool := true
  /-- training failures in succession (R455) -/
  fails : Nat := 0
  /-- 1.6T is barred until LINK_CONFIG names the port again (R258) -/
  narrow : Bool := false
  paused : Bool := false
  /-- ordinal at the other end of a direct port, and the number of the port there -/
  peer : Option Nat := none
  far : Option Nat := none
  /-- frames counted in the window of the link regulator, what each context has of it, and by class the number after that of the slot served
  last (R360) -/
  window : Nat := 0
  shares : List PortShare := []
  turn : List (Nat × Nat) := []
  sent : Nat := 0
  received : Nat := 0
  resent : Nat := 0
  authFails : Nat := 0
  discarded : Nat := 0
  stale : Nat := 0
  deriving DecidableEq, Repr

/-- A Rasovi frame sent and not acknowledged (R272, R273). -/
structure RSent where
  hdr : WireHdr
  outer : Outer
  inner : Inner
  resends : Nat := 0
  /-- it is to go again -/
  due : Bool := false
  deriving DecidableEq, Repr

/-- A frame that waits for a credit, for the window, for the regulator, or for a key (R270, R273, R286); `ctx`: the context of this device
that sends it. -/
structure Waiting where
  cls : Nat
  dst : Nat
  src : Nat
  inner : Inner
  ctx : Option Nat := none
  deriving DecidableEq, Repr

/-- The key exchange of a channel (R415): 0 none; 1 offered; 2 answered; 3 keyed. -/
structure Kx where
  stage : Nat := 0
  since : Nat := 0
  seed : Bytes := []
  first : Bytes := []
  second : Bytes := []
  /-- a rekey under the current key -/
  rekey : Bool := false
  deriving DecidableEq, Repr

/-- A channel pair: one port and one adjacent device (R276). -/
structure Channel where
  port : Nat
  peer : Nat
  kx : Kx := {}
  keyed : Bool := false
  keyIn : Bytes := []
  keyOut : Bytes := []
  kphase : Bool := false
  txSeq : Nat := 0
  txLink : Nat := 0
  /-- frames and LINK frames sent under the key (R417) -/
  frames : Nat := 0
  linkFrames : Nat := 0
  unacked : List RSent := []
  waiting : List Waiting := []
  /-- a LINK frame that waits for the end of a pause: under the previous key or not, and its `nak` -/
  linkDue : Option (Bool × Bool) := none
  crCtrl : Nat := 128
  crData : Nat := 1408
  crXfer : Nat := 512
  rto : Nat := 4096
  lastAdvance : Nat := 0
  rate : Rate := {}
  rxAck : Nat := 0
  rxHeld : List (Nat × Outer × Inner) := []
  rxUnacked : Nat := 0
  rxSince : Nat := 0
  rxCe : Nat := 0
  nakSent : Bool := false
  /-- cells freed and not yet returned: CTRL, DATA, XFER -/
  owed : Nat × Nat × Nat := (0, 0, 0)
  rxPhase : Bool := false
  /-- frames accepted under the new key; the old one is kept below 2^16 (R277) -/
  rxNew : Nat := 0
  oldKept : Bool := false
  /-- under the old key: the next sequence number expected, frames held, and the LINK frames sent -/
  oldAck : Nat := 0
  oldHeld : List (Nat × Outer × Inner) := []
  oldLink : Nat := 0
  /-- frames of the old key have come since the last acknowledgement under it -/
  oldDue : Bool := false
  /-- the old key is the bootstrap key (R415) -/
  oldBoot : Bool := false
  deriving DecidableEq, Repr

/-- Where a group stands (R279–R281, R295). -/
inductive GroupState where
  | forming | live | destroying
  deriving DecidableEq, Repr

/-- A collective group on this member. -/
structure Group where
  ctx : Nat
  ctxGen : Nat := 0
  id : Nat
  gen : Nat
  members : List Nat
  /-- own rank -/
  rank : Nat
  tmo : Nat
  state : GroupState := .forming
  /-- an instance ended in failure here or at a peer (R295) -/
  broken : Bool := false
  created : Nat := 0
  /-- tally of formation and the tallies heard: rank, least, greatest (R279) -/
  form : Nat := 0
  /-- its tallies have gone up the tree -/
  sentUp : Bool := false
  heard : List (Nat × Nat × Nat) := []
  queue : Option Nat := none
  nextInst : Nat := 1
  /-- instances that an ABORT named before they were dispatched (R295) -/
  aborts : List Nat := []
  /-- READY frames of instances not yet dispatched: rank, instance, call signature (R285) -/
  early : List (Nat × Nat × Nat) := []
  deriving DecidableEq, Repr

/-- A contribution in flight to a peer, as it stood when it was read (R293). -/
structure Sending where
  peer : Nat
  /-- number of the contribution between the two members (LOG 33) -/
  num : Nat := 0
  data : Bytes
  sentAt : Nat
  resent : Bool := false
  deriving DecidableEq, Repr

/-- A contribution that arrives from a peer: its number, and what has come of it. -/
structure Receiving where
  peer : Nat
  num : Nat := 0
  data : Bytes := []
  failed : Bool := false
  deriving DecidableEq, Repr

/-- A collective instance in progress (R285–R297), or the audit instance of an OPT_STEP (R472). -/
structure Inst where
  ctx : Nat
  group : Nat
  gen : Nat
  inst : Nat
  /-- the record that runs it; for an audit, the tag of its OPT_STEP -/
  queue : Nat := 0
  seq : Nat := 0
  iter : Nat := 0
  audit : Option Nat := none
  /-- the argument block (Table 09-8) -/
  args : Nat := 0
  rank : Nat
  members : List Nat
  tag : Nat
  deadline : Nat
  /-- steps of the algorithm taken; 0 before its work begins -/
  step : Nat := 0
  /-- stage: 0 the algorithm; 1 the comparison of result tallies; 2 the vote; 3 the copy from the majority; 4 the second RTALLY -/
  stage : Nat := 0
  /-- ranks whose READY has come (R285) -/
  ready : List Nat := []
  sending : List Sending := []
  receiving : List Receiving := []
  /-- contributions complete and not combined, in order of arrival: rank, number, bytes -/
  parts : List (Nat × Nat × Bytes) := []
  /-- contributions sent to, and taken from, each rank -/
  sent : List (Nat × Nat) := []
  got : List (Nat × Nat) := []
  /-- the running result -/
  acc : Bytes := []
  flags : Nat := 0
  /-- own result tally, least and greatest of those heard, and the votes: rank, tally (R294) -/
  result : Nat := 0
  least : Nat := 0
  most : Nat := 0
  votes : List (Nat × Nat) := []
  /-- ranks that dissent, the majority tally, and whether there is one -/
  dissent : List Nat := []
  winner : Option Nat := none
  /-- own unit of R471, the units that peers have named (rank, unit), and the peer whose unit is awaited -/
  unit : Nat := 0
  units : List (Nat × Nat) := []
  peer : Option Nat := none
  /-- dissenting ranks that await a copy of the destination, each after its READY (R285, R470) -/
  owed : List Nat := []
  deriving DecidableEq, Repr

/-- A lease held from a lender (R214, R216). -/
structure Lease where
  /-- number of the lease on this device, 0 to 15 -/
  slot : Nat
  id : Nat
  gen : Nat
  lender : Nat
  ctx : Nat
  broken : Bool := false
  /-- lease key (R416), and frames sent under it (R417) -/
  key : Bytes := []
  uses : Nat := 0
  /-- a probe was sent at this count (R216), or waits for a free hub entry (R161) -/
  probe : Option Nat := none
  probeDue : Bool := false
  /-- working copies that arrive, and OPT_RETURN messages whose bulk has not come: name of the record, bytes (R248, R267) -/
  bulk : List (Nat × Bytes) := []
  returns : List (Nat × Bytes) := []
  deriving DecidableEq, Repr

/-- A gradient in a lender's staging (R248): its bytes while they arrive, and then the frames of tier SRAM that hold it. -/
structure Staged where
  /-- name of the record in the exchange (LOG 34) -/
  name : Nat
  data : Bytes := []
  /-- the tally of its last frame, once that has come (R293) -/
  tally : Option Nat := none
  frames : List Nat := []
  bytes : Nat := 0
  deriving DecidableEq, Repr

/-- Frames lent to a borrower (R214, R216, R217). -/
structure Lent where
  id : Nat
  gen : Nat
  borrower : Nat
  guest : Nat
  frames : List Nat
  key : Bytes := []
  /-- the borrower's signature has come (R415, R416) -/
  keyed : Bool := false
  /-- hash that the borrower's signature must cover -/
  hash : Bytes := []
  peerKey : Bytes := []
  /-- gradients in staging (R248), and working copies sent back and not acknowledged: name of the record, bytes -/
  staging : List Staged := []
  back : List (Nat × Bytes) := []
  /-- records announced by OPT_SHIP: record index, message -/
  ships : List (Nat × Bytes) := []
  /-- the OPT_CLIP in force, and how many records it still serves -/
  clip : Bytes := []
  clipLeft : Nat := 0
  /-- frames sent under its key (R417), and a new key that waits for the borrower's signature: key, transcript hash, the peer's key (R416) -/
  uses : Nat := 0
  next : Option (Bytes × Bytes × Bytes) := none
  deriving DecidableEq, Repr

/-- A lease asked for and not yet offered (Table 07-5), or a new key asked for a lease that stands: the slot of that, and since when (R417). -/
structure Ask where
  lender : Nat
  ctx : Nat
  seed : Bytes
  first : Bytes
  renew : Option Nat := none
  since : Nat := 0
  deriving DecidableEq, Repr

/-- Rasovi links and collectives. -/
structure Links where
  ordinal : Nat := 0
  job : Nat := 0
  sizeM1 : Nat := 0
  pfc : Nat := 8
  ip6 : Nat := 0
  mac : Nat := 0
  udp : Nat := 0
  ports : List Port := []
  /-- SerDes replaced: die, lane, spare (R257) -/
  serdes : List (Nat × Nat × Nat) := []
  channels : List Channel := []
  groups : List Group := []
  /-- generation of the last group of an id: context, id, generation (R279) -/
  groupGens : List (Nat × Nat × Nat) := []
  insts : List Inst := []
  leases : List Lease := []
  lent : List Lent := []
  /-- free lease frames offered: ordinal, frames, count (R214) -/
  offers : List (Nat × Nat × Nat) := []
  /-- port maps heard: ordinal, adjacent ordinals by port (R264) -/
  maps : List (Nat × List (Nat × Nat)) := []
  /-- routes: destination, port, adjacent ordinal (R264) -/
  routes : List (Nat × Nat × Nat) := []
  leaseIds : Nat := 0
  /-- inner operations delivered and not yet handled, and Bursar messages: source, opcode, message (LOG 15) -/
  inbox : List Delivered := []
  ctrl : List (Nat × Nat × Msg) := []
  /-- tallies of groups that this member has not created yet: group, generation, rank, least, greatest (R279) -/
  early : List (Nat × Nat × Nat × Nat × Nat) := []
  /-- the device offers frames for lease, the share of time for which its cores were busy when it last said so, and the count of its last
  beacons (R214) -/
  lends : Bool := false
  busy : Nat := 0
  beaconAt : Option Nat := none
  asks : List Ask := []
  deriving DecidableEq, Repr

/-- Configuration of HOST (Table 10-3). -/
structure HostCfg where
  pfc : Nat := 8
  dscp : Nat := 0
  macsec : Bool := false
  macsecReq : Bool := false
  xpn : Bool := false
  ip6Plen : Nat := 0
  ip4Plen : Nat := 0
  ip4 : Nat := 0
  gw : Nat := 0
  ip6 : Nat := 0
  ckn : Nat := 0
  deriving DecidableEq, Repr

/-- A configuration of HOST that takes effect once the answer to its request has left (R303): the CAK with it, and the session and message
number of the answer. -/
structure HostNext where
  cfg : HostCfg
  cak : Nat
  session : Nat
  msg : Nat
  deriving DecidableEq, Repr

/-- The host port. -/
structure HostPort where
  /-- row of Table 10-1 that the port runs in; none: down -/
  row : Option Nat := none
  cfg : HostCfg := {}
  /-- the configuration and CAK before a change that requires MACsec, and the deadline (R304) -/
  previous : Option (HostCfg × Nat × Nat) := none
  /-- CAK in force, held in the Vault -/
  cak : Nat := 0
  paused : Bool := false
  /-- the device sends pause (R305) -/
  pausing : Bool := false
  /-- MKA has secured the port under the configuration in force -/
  secured : Bool := false
  /-- frames sent, received, resent, and tag failures (Table 18-9) -/
  sent : Nat := 0
  received : Nat := 0
  resent : Nat := 0
  authFails : Nat := 0
  /-- addresses learnt by SLAAC and DHCP -/
  ip6Global : Nat := 0
  ip4Leased : Nat := 0
  ip4Gw : Nat := 0
  next : Option HostNext := none
  /-- the number after that of the session whose mailbox the Bursar served last (R320) -/
  turn : Nat := 0
  deriving DecidableEq, Repr

/-- The I3C target (R525–R527). -/
structure I3c where
  dynamic : Option Nat := none
  /-- the unread answer and its count -/
  answer : Option (Bytes × Nat) := none
  discarded : Nat := 0
  deriving DecidableEq, Repr

/-- Logs of the hub. -/
structure Logs where
  /-- the entries of the device's own event ring of 4,096 that are not consumed (R333, R334), the number of the next one, the next to send
  to the management session, and the entries lost to that session -/
  ring : List Entry := []
  rseq : Nat := 0
  sent : Nat := 0
  lost : Nat := 0
  /-- the device log: records, oldest first, with number and the context they name (R468) -/
  records : List (Nat × Bytes) := []
  recNo : Nat := 0
  /-- move log (R220) and records lost -/
  moves : List Bytes := []
  movesLost : Nat := 0
  /-- BELOW_RATING raised (R6) -/
  belowRating : Bool := false
  /-- HOST frames discarded, and counted under STALE_GENERATION (Table 18-9) -/
  hostDiscarded : Nat := 0
  hostStale : Nat := 0
  deriving DecidableEq, Repr

/-- Why the machine stops. No rule of the spec stops the block without saying what it does next,
so no command raises one: the type has one constructor, kept for the interface.
`unreachable` is raised by nobody; safe. -/
inductive Fault where
  | unreachable
  deriving DecidableEq, Repr

/-- Why a command is refused. `notModelled` is raised by an arm of `exec` for a command without a meaning; safe. -/
inductive Refusal where
  | notModelled (mnemonic : String)
  deriving DecidableEq, Repr

/-- The state of the block. -/
structure State where
  hub : Hub := {}
  otp : Otp := {}
  flash : Flash := {}
  life : Life := {}
  power : Power := {}
  hbmStacks : List Stack := []
  cores : List Core := []
  test : TestState := {}
  mem : Memory := {}
  vault : Vault := {}
  sessions : List Session := []
  /-- session numbers freed: number, generation, count (R331) -/
  sessionsFreed : List (Nat × Nat × Nat) := []
  ctxs : List Ctx := []
  /-- context identifiers freed: id, generation, count (R344) -/
  ctxsFreed : List (Nat × Nat × Nat) := []
  fences : List Fence := []
  fencesFreed : List (Nat × Nat × Nat) := []
  shares : List Share := []
  sharesFreed : List (Nat × Nat × Nat) := []
  ledger : Ledger := {}
  waits : List Wait := []
  links : Links := {}
  host : HostPort := {}
  i3c : I3c := {}
  logs : Logs := {}
  out : List Out := []
  moves : List Move := []
  /-- page moves spent of each tile's budget since the last review period began: tile, moves; and that period (R204) -/
  budget : List (Nat × Nat) := []
  budgetPeriod : Nat := 0
  /-- HBM slots by partition, 0 to 15, and last of the housekeeping allowance (R188, R193) -/
  traffic : List Traffic := List.replicate 17 {}
  /-- the commands that wait, first in first out -/
  pending : List Instr := []
  deriving DecidableEq, Repr

/-- LOG 18, DESIGN CHOICE: maker key `i` of the shipped device. -/
def makerKey (i : Nat) : Bytes := List.replicate 57 (BitVec.ofNat 8 (0xA0 + i))

/-- LOG 18, DESIGN CHOICE: the header of the shipped image, as Table 13-10 lays it out, up to the signature:
no body, `build` 1, `svn` 0, maker key 0. -/
def shippedHeader : Bytes :=
  toLe 4 0x48584657 ++ [1, 0, 0, 0] ++ toLe 4 0 ++ toLe 4 0 ++ toLe 8 1 ++ shake256 [] 64

/-- LOG 18, DESIGN CHOICE: the signature bytes of shipped flash. -/
def shippedSig : Bytes := List.replicate 114 0x5A#8

/-- LOG 18, DESIGN CHOICE: the identity record of the shipped device up to its signature (Table 13-7). -/
def shippedIdentity : Bytes :=
  toLe 4 0x49444E54 ++ [1, 45, 0, 0] ++ ascii "HXT-9612-0000001" ++ List.replicate 40 0
    ++ List.replicate 1440 0 ++ List.replicate 8 0

/-- Cells of a run of bytes, without those equal to `blank`. -/
def cellsOf (blank : Byte) : Nat → Bytes → List Host.Cell
  | _, [] => []
  | a, b :: bs => if b = blank then cellsOf blank (a + 1) bs else (a, b) :: cellsOf blank (a + 1) bs

/-- LOG 18, DESIGN CHOICE: the boot configuration record of the shipped device: slot A active, nothing on trial (R432). -/
def shippedConfig : Bytes :=
  let r := toLe 4 0x42434647 ++ toLe 4 1 ++ toLe 4 0 ++ toLe 4 0 ++ List.replicate 40 0
  r ++ toLe 8 (tally r)

/-- A power-on Teller, tile and sensor set. -/
def Power.boot : Power :=
  { tiles := List.replicate 6 {}, linkTellers := List.replicate 2 {}, linkSensors := List.replicate 2 {} }

/-- LOG 5, DESIGN CHOICE: cores 0–87 active, 88–89 spare, 90–95 not good: grade -088 (R2–R4). -/
def shippedCores : List Core :=
  List.replicate 88 ({} : Core) ++ List.replicate 2 { status := .spare } ++ List.replicate 6 { status := .notGood }

/-- LOG 22, DESIGN CHOICE: the repair reserve is the top data frames of the stacks, taken in turn, so that a fresh mirror finds a member on
another tile than the copy that is left (R212, R213). -/
def reserveFrames : List Nat := (List.range 256).map (fun i => (i % 12) * 32768 + 31743 - i / 12)

/-- Memories right after a cold reset: nothing listed, the reserve set aside, and the partitions of Table 06-9. -/
def Memory.boot : Memory :=
  { hbmUse := reserveFrames.map (fun f => (f, FrameUse.reserve)),
    partitions := { share := 252, ceiling := 256 } :: List.replicate 15 {} }

/-- The Vault right after a cold reset: the device's own slot, and the boot nonce of Table 12-9 (LOG 8). -/
def Vault.boot (trng : Nat) : Vault :=
  { slots := [{ keyId := 0, kind := .device, limit := 2 ^ 56 - 1 }],
    bootNonce := (List.range 32).map (fun i => Config.trng (trng + i)) }

/-- Links right after a cold reset: every port off. -/
def Links.boot : Links := { ports := List.replicate 16 {} }

/-- The state right after reset: the shipped device has booted, in the mode that an unconnected strap selects (LOG 4). -/
def State.reset : State :=
  { hub := { trng := 64,
             signatures := [{ key := makerKey 0, text := shippedHeader, sig := shippedSig },
                            { key := makerKey 0, text := shippedIdentity, sig := shippedSig }] },
    otp := { lc := [0x0000FFFFFFFFFFFF, 0x0000FFFFFFFFFFFF, 0x0000FFFFFFFFFFFF],
             opKeys := [List.replicate 57 0], identityDigest := shake256 (shippedIdentity) 64,
             makerKeys := [makerKey 0, makerKey 1, makerKey 2, makerKey 3] },
    flash := { cfg := [shippedConfig, List.replicate 64 0xFF#8],
               identity := shippedIdentity ++ shippedSig ++ List.replicate 6 0,
               slotA := cellsOf 0xFF#8 0 (shippedHeader ++ shippedSig ++ List.replicate 54 0) },
    life := { measRom := Config.romDigest, measIdentity := shake256 shippedIdentity 64, build := 1, opKey := some (List.replicate 57 0),
              measFirmware := shake256 (shippedHeader ++ shippedSig ++ List.replicate 54 0) 64,
              measConfig := shake256 ([2, 1] ++ [1] ++ [0]) 64 },
    power := Power.boot, hbmStacks := List.replicate 12 {}, cores := shippedCores,
    test := { seed := (List.range 32).map (fun i => Config.trng (32 + i)) },
    mem := Memory.boot, vault := Vault.boot 0, links := Links.boot,
    host := { row := some 0 } }

end Sys2Proof.Machine
end

