-- ==== Sys2Proof/Machine/Ops.lean ====
section
/-!
DEFINITION. Machine/Ops.lean: the named operations over the parts of the state: look up and change an object, draw random
and free values, keep the memory's canonical form, issue and free Ledger entries, file error records and raise events.
-/
namespace Sys2Proof.Machine

/-! ### Objects -/

/-- The context of an identifier. -/
def State.ctx? (s : State) (id : Nat) : Option Ctx := s.ctxs.find? (fun c => c.id == id)

/-- Change the context of an identifier. -/
def State.modCtx (s : State) (id : Nat) (f : Ctx → Ctx) : State :=
  { s with ctxs := s.ctxs.map (fun c => if c.id = id then f c else c) }

/-- The session of a number. -/
def State.session? (s : State) (n : Nat) : Option Session := s.sessions.find? (fun x => x.number == n)

/-- Change the session of a number. -/
def State.modSession (s : State) (n : Nat) (f : Session → Session) : State :=
  { s with sessions := s.sessions.map (fun x => if x.number = n then f x else x) }

/-- The open management session (R323). -/
def State.management? (s : State) : Option Session :=
  s.sessions.find? (fun x => x.role == .management && x.isOpen)

/-- Queue `q` of a context. -/
def Ctx.queue? (c : Ctx) (q : Nat) : Option Queue := c.queues.find? (fun x => x.number == q)

/-- Change queue `q` of a context. -/
def Ctx.modQueue (c : Ctx) (q : Nat) (f : Queue → Queue) : Ctx :=
  { c with queues := c.queues.map (fun x => if x.number = q then f x else x) }

/-- Change queue `q` of context `id`. -/
def State.modQueue (s : State) (id q : Nat) (f : Queue → Queue) : State :=
  s.modCtx id (fun c => c.modQueue q f)

/-- The record of a sequence number and iteration. -/
def Queue.rec? (q : Queue) (seq iter : Nat) : Option Rec := q.recs.find? (fun r => r.seq == seq && r.iter == iter)

/-- Change a record. -/
def Queue.modRec (q : Queue) (seq iter : Nat) (f : Rec → Rec) : Queue :=
  { q with recs := q.recs.map (fun r => if r.seq = seq ∧ r.iter = iter then f r else r) }

/-- Change a record of a queue of a context. -/
def State.modRec (s : State) (id q seq iter : Nat) (f : Rec → Rec) : State :=
  s.modQueue id q (fun x => x.modRec seq iter f)

/-- The mapped page that holds a virtual page number. -/
def Ctx.page? (c : Ctx) (vp : Nat) : Option Page := c.pages.find? (fun p => p.va == vp)

/-- Change a mapped page. -/
def Ctx.modPage (c : Ctx) (vp : Nat) (f : Page → Page) : Ctx :=
  { c with pages := c.pages.map (fun p => if p.va = vp then f p else p) }

/-- Change a mapped page of context `id`. -/
def State.modPage (s : State) (id vp : Nat) (f : Page → Page) : State := s.modCtx id (fun c => c.modPage vp f)

/-- The fence of an index. -/
def State.fence? (s : State) (i : Nat) : Option Fence := s.fences.find? (fun f => f.index == i)

/-- Change a fence. -/
def State.modFence (s : State) (i : Nat) (f : Fence → Fence) : State :=
  { s with fences := s.fences.map (fun x => if x.index = i then f x else x) }

/-- The share of an index. -/
def State.share? (s : State) (i : Nat) : Option Share := s.shares.find? (fun x => x.index == i)

/-- Change a share. -/
def State.modShare (s : State) (i : Nat) (f : Share → Share) : State :=
  { s with shares := s.shares.map (fun x => if x.index = i then f x else x) }

/-- Core `n` of the device, 16 × tile + core. -/
def State.core? (s : State) (n : Nat) : Option Core := s.cores[n]?

/-- Change a core. -/
def State.modCore (s : State) (n : Nat) (f : Core → Core) : State := { s with cores := modAt s.cores n f }

/-- Change a tile. -/
def State.modTile (s : State) (n : Nat) (f : Tile → Tile) : State :=
  { s with power := { s.power with tiles := modAt s.power.tiles n f } }

/-- Change a stack. -/
def State.modStack (s : State) (n : Nat) (f : Stack → Stack) : State := { s with hbmStacks := modAt s.hbmStacks n f }

/-- Change the hub. -/
def State.modHub (s : State) (f : Hub → Hub) : State := { s with hub := f s.hub }

/-- Does the device take commands and messages? (R34, R433, R509, R517, R519) -/
def State.alive (s : State) : Bool := s.hub.halt.isNone && !s.hub.inReset

/-- CONFIDENTIAL mode is in force (R372). -/
def State.conf (s : State) : Bool := s.life.mode == .confidential

/-- The KeyID's slot. -/
def State.key? (s : State) (k : Nat) : Option KeySlot := s.vault.slots.find? (fun x => x.keyId == k)

/-- Temperature of a tile, in 0.125 °C; a tile without one reads as 0. -/
def State.tileTemp (s : State) (t : Nat) : Int := match s.power.tiles[t]? with
  | some x => x.temp
  | none => 0

/-- The tile of a core number. -/
def tileOf (core : Nat) : Nat := core / 16

/-- What a step does when no command waits: the hub timer advances by one count (R33; LOG 2), unless it is held, or the
reference clock is missing (R34). -/
def idleTick (s : State) : State :=
  if s.hub.timerHeld || s.hub.inReset || s.hub.halt == some .refclk then s
  else s.modHub (fun h => { h with timer := h.timer + 1 })

/-! ### Random and free values -/

/-- Draw bytes from the TRNG (LOG 8). -/
def State.draw (s : State) (n : Nat) : State × Bytes :=
  (s.modHub (fun h => { h with trng := h.trng + n }), (List.range n).map (fun i => Config.trng (s.hub.trng + i)))

/-- Free bytes, for contents that the spec calls unspecified (LOG 12). -/
def State.freeBytes (s : State) (n : Nat) : State × Bytes :=
  (s.modHub (fun h => { h with free := h.free + n }), (List.range n).map (fun i => Config.freeByte (s.hub.free + i)))

/-- One free number (LOG 12). -/
def State.freeNat (s : State) : State × Nat :=
  (s.modHub (fun h => { h with free := h.free + 1 }), Config.freeNat s.hub.free)

/-- Does a signature verify? It does when it is known to exist; whether one from outside does is open (LOG 7). Where no key has the index
that a message names, nothing verifies. -/
def State.verifies (s : State) (key text sig : Bytes) : Bool :=
  s.hub.signatures.contains { key := key, text := text, sig := sig } || (!key.isEmpty && Config.ed448Verify key text sig)

/-- Make a signature with a key whose public half is `key` (LOG 6, LOG 7). -/
def State.sign (s : State) (key seed text : Bytes) : State × Bytes :=
  let sig := Config.ed448Sign seed text
  (s.modHub (fun h => { h with signatures := { key := key, text := text, sig := sig } :: h.signatures }), sig)

/-! ### Cells: the canonical form of memory -/

/-- What an unlisted address reads as (LOG 10). -/
def blankByte : Byte := 0

/-- The byte at an address. -/
def cellAt (cs : List Host.Cell) (a : Nat) : Byte :=
  match cs with
  | [] => blankByte
  | c :: rest => if c.1 = a then c.2 else cellAt rest a

/-- The cells of the addresses from `a` up to `a + n`. -/
def cellsIn (cs : List Host.Cell) (a n : Nat) : List Host.Cell :=
  (cs.dropWhile (fun c => decide (c.1 < a))).takeWhile (fun c => decide (c.1 < a + n))

/-- Fill a run of bytes from sorted cells. -/
def spread : Nat → Nat → List Host.Cell → Bytes
  | 0, _, _ => []
  | n + 1, a, [] => blankByte :: spread n (a + 1) []
  | n + 1, a, c :: rest => if c.1 = a then c.2 :: spread n (a + 1) rest else blankByte :: spread n (a + 1) (c :: rest)

/-- Read a run of bytes. -/
def readCells (cs : List Host.Cell) (a n : Nat) : Bytes := spread n a (cellsIn cs a n)

/-- Replace the cells of the addresses from `a` up to `a + n`. -/
def replaceCells (cs : List Host.Cell) (a n : Nat) (mid : List Host.Cell) : List Host.Cell :=
  cs.takeWhile (fun c => decide (c.1 < a)) ++ mid ++
    (cs.dropWhile (fun c => decide (c.1 < a))).dropWhile (fun c => decide (c.1 < a + n))

/-- Write a run of bytes, keeping the canonical form. -/
def writeCells (cs : List Host.Cell) (a : Nat) (bs : Bytes) : List Host.Cell :=
  replaceCells cs a bs.length (cellsOf blankByte a bs)

/-- Zero a run of bytes. -/
def clearCells (cs : List Host.Cell) (a n : Nat) : List Host.Cell := replaceCells cs a n []

/-- Copy a run of bytes. -/
def copyCells (cs : List Host.Cell) (src dst n : Nat) : List Host.Cell :=
  replaceCells cs dst n ((cellsIn cs src n).map (fun c => (c.1 - src + dst, c.2)))

/-- The canonical form: addresses strictly rising, no entry equal to what an unlisted address reads as. -/
def cellsWf : List Host.Cell → Bool
  | [] => true
  | [c] => c.2 != blankByte
  | c :: d :: rest => c.2 != blankByte && decide (c.1 < d.1) && cellsWf (d :: rest)

/-- The memory keeps its canonical form. -/
def Memory.wf (m : Memory) : Bool := cellsWf m.cells

/-- Change the cells of memory. -/
def State.modCells (s : State) (f : List Host.Cell → List Host.Cell) : State :=
  { s with mem := { s.mem with cells := f s.mem.cells } }

/-- Change the memory's book-keeping. -/
def State.modMem (s : State) (f : Memory → Memory) : State := { s with mem := f s.mem }

/-! ### Addresses (Table 06-2; LOG 10 for what lies outside it) -/

/-- Bytes of a page. -/
def pageSize : Nat := 2097152

/-- First byte of a scratchpad. -/
def scratchBase (core : Nat) : Nat := 2 ^ 47 + core * 2 ^ 25

/-- First frame of a core's tier slice. -/
def tierFrame (core i : Nat) : Nat := 2 ^ 23 + (core / 16) * 4096 + (core % 16) * 256 + i

/-- The core whose slice holds a tier frame. -/
def tierCore (pfn : Nat) : Nat := ((pfn - 2 ^ 23) / 4096) * 16 + ((pfn - 2 ^ 23) % 4096) / 256

/-- Frame `i` of the lease in slot `l` held from a lender (LOG 10). -/
def leaseFrame (l i : Nat) : Nat := 2 ^ 25 + l * 512 + i

/-- Is this frame number HBM? (Table 06-2) -/
def isHbm (pfn : Nat) : Bool := decide (pfn < 12 * 32768)

/-- Is this frame number tier SRAM? -/
def isTier (pfn : Nat) : Bool := decide (2 ^ 23 ≤ pfn) && decide (pfn < 2 ^ 25)

/-- The stack of an HBM frame. -/
def stackOf (pfn : Nat) : Nat := pfn / 32768

/-- May the frame of the stack hold data? The top 2 GiB is the metadata reserve (R180). -/
def dataFrame (pfn : Nat) : Bool := isHbm pfn && decide (pfn % 32768 < 31744)

/-- Die positions of Table 13-8: HBM stack, hub, link die. -/
def dieStack (k : Nat) : Nat := 33 + k
/-- Die position of the hub. -/
def dieHub : Nat := 30
/-- Die position of a link die. -/
def dieLink (n : Nat) : Nat := 31 + n

/-- Pseudo-channel of a stack offset (Table 06-4). -/
def pseudoChannel (o : Nat) : Nat := field o 16 11 ^^^ field o 22 17 ^^^ field o 28 23 ^^^ field o 34 29
/-- Bank of a stack offset (Table 06-4). -/
def hbmBank (o : Nat) : Nat := field o 21 17 ^^^ field o 26 22 ^^^ field o 31 27
/-- Row of a stack offset (Table 06-4). -/
def hbmRow (o : Nat) : Nat := field o 35 17
/-- Bank of a scratchpad byte (R170). -/
def scratchBank (a : Nat) : Nat := field a 11 6 ^^^ field a 17 12
/-- Tier of a slice byte (R175). -/
def sliceTier (o : Nat) : Nat := field o 9 8

/-! ### Ledger (R161–R163) -/

/-- First hub tag. -/
def hubTags : Nat := 12288

/-- The lowest free tag of a range. -/
def Ledger.freeTag (l : Ledger) (lo n : Nat) : Option Nat :=
  ((List.range n).map (fun i => lo + i)).find? (fun t => !l.entries.any (fun e => e.tag == t))

/-- Generation of the last issue of a tag. -/
def Ledger.genOf (l : Ledger) (tag : Nat) : Nat := match l.gens.find? (fun g => g.1 == tag) with
  | some g => g.2
  | none => 0

/-- Issue an entry: the generation steps modulo 256 (R161). -/
def Ledger.issue (l : Ledger) (tag : Nat) (h : Holder) (ctx deadline : Option Nat) : Ledger :=
  let g := (l.genOf tag + 1) % 256
  { l with entries := { tag := tag, gen := g, holder := h, ctx := ctx, deadline := deadline } :: l.entries,
           gens := (tag, g) :: l.gens.filter (fun x => x.1 != tag) }

/-- Free an entry. -/
def Ledger.free (l : Ledger) (tag : Nat) : Ledger := { l with entries := l.entries.filter (fun e => e.tag != tag) }

/-- Mark an entry as ended in TIMEOUT: it is not issued again for 2^24 counts (R163). -/
def Ledger.expire (l : Ledger) (tag now : Nat) : Ledger :=
  { l with entries := l.entries.map (fun e => if e.tag = tag then { e with quarantine := some now } else e) }

/-- The entry of a tag. -/
def Ledger.entry? (l : Ledger) (tag : Nat) : Option LedgerEntry := l.entries.find? (fun e => e.tag == tag)

/-- The first Ledger tag of a tile (R161). -/
def tileTags (t : Nat) : Nat := t * 2048

/-- The lowest free tags of a range, at most `k`. -/
def Ledger.freeTags (l : Ledger) (lo n k : Nat) : List Nat :=
  (((List.range n).map (fun i => lo + i)).filter (fun t => !l.entries.any (fun e => e.tag == t))).take k

/-- Issue and free entries of a range for `n` transfers that come and go, at most six at a time (R160): each issue steps the generation of its
tag (R161). Which free tags serve is DESIGN CHOICE (LOG 38): the lowest. -/
def Ledger.lend (l : Ledger) (lo size n : Nat) : Ledger :=
  let ts := l.freeTags lo size 6
  (List.zip (List.range ts.length) ts).foldl (fun l it =>
    let uses := (n + ts.length - 1 - it.1) / ts.length
    if uses = 0 then l
    else { l with gens := (it.2, (l.genOf it.2 + uses) % 256) :: l.gens.filter (fun x => x.1 != it.2) }) l

/-- The transfers of an engine of a core hold entries of its tile's part of the Ledger (R160, R161). -/
def State.transfers (s : State) (core n : Nat) : State :=
  { s with ledger := s.ledger.lend (tileTags (core / 16)) 2048 n }

/-- Has a tile's part of the Ledger no free entry? Then a requester waits (R161). -/
def State.tileFull (s : State) (core : Nat) : Bool := (s.ledger.freeTag (tileTags (core / 16)) 2048).isNone

/-- Issue an entry from a range, if one is free. -/
def State.issue (s : State) (lo n : Nat) (h : Holder) (ctx deadline : Option Nat) : Option (State × Nat) :=
  match s.ledger.freeTag lo n with
  | none => none
  | some t => some ({ s with ledger := s.ledger.issue t h ctx deadline }, t)

/-- Free an entry. -/
def State.freeTag (s : State) (tag : Nat) : State := { s with ledger := s.ledger.free tag }

/-- Does the entry hold a request to the host? -/
def LedgerEntry.toHost (e : LedgerEntry) : Bool := match e.holder with
  | .event _ _ => true
  | .command _ _ _ _ | .fenceIn _ _ _ _ | .fenceWait _ _ | .instance_ _ _ _ | .transfer _ _ _ | .probe _ => false

/-- Is every Ledger entry held for a context free, those under quarantine apart? (Table 11-10, step 6) EVENT requests whose entries are
retracted are not awaited: they hold the identifier (Table 11-2, R344; DEDUCED LOG 27). -/
def State.ledgerClear (s : State) (ctx : Nat) : Bool :=
  !s.ledger.entries.any (fun e => e.ctx == some ctx && e.quarantine.isNone && !e.toHost)

/-! ### Identifiers (R344) -/

/-- The identifier to issue: a never used one first, the lowest; else the one freed longest ago, if 2^24 counts have passed.
`held` says that Ledger entries stand on the identifier's behalf. -/
def pickId (limit : Nat) (inUse : List Nat) (freed : List (Nat × Nat × Nat)) (now : Nat) (held : Nat → Bool) :
    Option (Nat × Nat) :=
  match (List.range limit).find? (fun i => !inUse.contains i && !freed.any (fun f => f.1 == i)) with
  | some i => some (i, 0)
  | none =>
    match leastBy (fun f => f.2.2) (freed.filter (fun f => decide (f.2.2 + 2 ^ 24 ≤ now) && !held f.1)) with
    | some f => some (f.1, f.2.1)
    | none => none

/-! ### Counters of a frame -/

/-- Counters of an HBM frame. -/
def Memory.meta (m : Memory) (pfn : Nat) : FrameMeta := match m.metas.find? (fun f => f.pfn == pfn) with
  | some f => f
  | none => { pfn := pfn }

/-- Set the counters of an HBM frame. -/
def Memory.setMeta (m : Memory) (f : FrameMeta) : Memory :=
  { m with metas := f :: m.metas.filter (fun x => x.pfn != f.pfn) }

/-- A number kept in a sparse list; absent is 0. -/
def sparse (l : List (Nat × Nat)) (k : Nat) : Nat := match l.find? (fun x => x.1 == k) with
  | some x => x.2
  | none => 0

/-- Set a number in a sparse list; 0 is absent. -/
def setSparse (l : List (Nat × Nat)) (k v : Nat) : List (Nat × Nat) :=
  let r := l.filter (fun x => x.1 != k)
  if v = 0 then r else (k, v) :: r

/-- The poison word of a block. -/
def FrameMeta.poisoned? (f : FrameMeta) (b : Nat) : Option Poison := f.poison.find? (fun p => p.block == b)

/-- Major counter of a sector (R383). -/
def FrameMeta.major (f : FrameMeta) (sector : Nat) : Nat := f.high * 2 ^ 32 + sparse f.low sector

/-- Step every block of a sector to minor 0 under the next L; blocks that are poisoned stay so (R398).
An L at its end re-encrypts the frame under the next H (R399). Answers `none` when the major counter is exhausted (R402). -/
def FrameMeta.stepSector (f : FrameMeta) (sector : Nat) : Option FrameMeta :=
  let inSector (b : Nat) : Bool := b / 16 == sector
  if sparse f.low sector < 2 ^ 32 - 1 then
    some { f with low := setSparse f.low sector (sparse f.low sector + 1),
                  minors := f.minors.filter (fun m => !inSector m.1) }
  else if f.high < 2 ^ 24 - 1 then some { f with high := f.high + 1, low := [], minors := [] }
  else none

/-- A write of one block: step its minor counter, or re-encrypt its sector past 254 (R384, R397). -/
def FrameMeta.stepBlock (f : FrameMeta) (b : Nat) : Option FrameMeta :=
  if sparse f.minors b < 254 then some { f with minors := setSparse f.minors b (sparse f.minors b + 1) }
  else f.stepSector (b / 16)

/-- Blocks that a write of block `b` writes under the key (R398, R399, R404): one, or all of a sector or frame that is re-encrypted, the
poisoned apart. -/
def FrameMeta.written (f : FrameMeta) (g : Option FrameMeta) (b : Nat) : Nat := match g with
  | none => 1
  | some g =>
    if g.high ≠ f.high then 8192 - g.poison.length
    else if sparse g.low (b / 16) ≠ sparse f.low (b / 16) then 16 - (g.poison.filter (fun p => p.block / 16 == b / 16)).length
    else 1

/-- A full write of a poisoned block under the key that poisoned it (Table 12-6). -/
def FrameMeta.clearBlock (f : FrameMeta) (p : Poison) : Option FrameMeta :=
  let g := { f with poison := f.poison.filter (fun q => q.block != p.block),
                    minors := setSparse f.minors p.block p.lastMinor }
  g.stepBlock p.block

/-- A write of every sector of a frame by the device itself (R384, R403): each M steps, minors and poison are gone. -/
def FrameMeta.stepAll (f : FrameMeta) : Option FrameMeta :=
  if (List.range 512).all (fun s => decide (sparse f.low s < 2 ^ 32 - 1)) then
    some { f with low := (List.range 512).map (fun s => (s, sparse f.low s + 1)), minors := [], poison := [] }
  else if f.high < 2 ^ 24 - 1 then some { f with high := f.high + 1, low := [], minors := [], poison := [] }
  else none

/-- Internal physical byte address of a frame's byte. -/
def physAt (pfn off : Nat) : Nat := pfn * pageSize + off

/-- Does an address lie in a range? -/
def within (a lo n : Nat) : Bool := decide (lo ≤ a) && decide (a < lo + n)

/-- The key field of a page: `kspace` and KeyID or context id (R168, R406). -/
def keyOf (c : Ctx) (p : Page) : Bool × Nat := if p.keyId = 0 then (true, c.id) else (false, p.keyId)

/-- Count the blocks written under a page's key; a use beyond the limit is refused (R405, Table 12-11). -/
def State.useKey (s : State) (key : Bool × Nat) (n : Nat) : Option State :=
  if key.1 then
    match s.vault.bank.find? (fun b => b.ctx == key.2) with
    | none => none
    | some b => if b.uses + n > b.limit then none
      else some { s with vault := { s.vault with
        bank := s.vault.bank.map (fun x => if x.ctx = key.2 then { x with uses := x.uses + n } else x) } }
  else
    match s.key? key.2 with
    | none => none
    | some k => if k.uses + n > k.limit then none
      else some { s with vault := { s.vault with
        slots := s.vault.slots.map (fun x => if x.keyId = key.2 then { x with uses := x.uses + n } else x) } }

/-- Count the blocks of a copy that the device makes under a key. R405 refuses a use beyond the limit; a copy that no rule lets fail (the zeroing
of a grant, a mirror, a repair, a binding) is made all the same, uncounted (DESIGN CHOICE LOG 22). -/
def State.useAnyway (s : State) (key : Bool × Nat) (n : Nat) : State := (s.useKey key n).getD s

/-- Cut a write at multiples of a unit: offset and bytes. -/
def cutAt (unit : Nat) : Nat → Nat → Bytes → List (Nat × Bytes)
  | 0, _, _ => []
  | fuel + 1, off, bs =>
    if bs.isEmpty then []
    else
      let k := unit - off % unit
      (off, bs.take k) :: cutAt unit fuel (off + k) (bs.drop k)

/-- Write a run of bytes to SRAM at a byte address (R177): a whole piece clears poison, a part of a poisoned one is refused. -/
def State.writeSram (s : State) (a : Nat) (bs : Bytes) : State × Option Status :=
  let cuts := cutAt 64 (bs.length / 64 + 2) a bs
  let refused := cuts.any (fun x => s.mem.pieces.contains (x.1 / 64) && !(x.1 % 64 == 0 && x.2.length == 64))
  if refused then (s, some .poisoned)
  else
    let full := (cuts.filter (fun x => x.1 % 64 == 0 && x.2.length == 64)).map (fun x => x.1 / 64)
    ({ s with mem := { s.mem with cells := writeCells s.mem.cells a bs,
                                  pieces := s.mem.pieces.filter (fun p => !full.contains p) } }, none)

/-- Virtual page of a byte. -/
def vpage (va : Nat) : Nat := va / pageSize

/-! ### Event rings and records -/

/-- Bytes of an entry: the envelope of Table 10-14 and its body. -/
def Entry.bytes (e : Entry) : Bytes :=
  toLe 8 e.rseq ++ toLe 2 e.event.code ++ toLe 2 e.status.code ++ toLe 4 0 ++ e.body

/-- Is the entry one of those for which sixteen places are kept? (R352) -/
def Entry.other (e : Entry) : Bool := e.event != .completion

/-- Entries of a ring that are in use. -/
def Ring.used (r : Ring) : Nat := r.rseq - r.consumed

/-- Entries of other events in use. -/
def Ring.others (r : Ring) : Nat := (r.entries.filter Entry.other).length

/-- Entries that are free and not reserved (R352). -/
def Ring.free (r : Ring) : Nat := 2 ^ r.log2 - (r.used + r.reserved + (16 - min 16 r.others))

/-- Append an entry. -/
def Ring.push (r : Ring) (e : Entry) : Ring :=
  { r with rseq := r.rseq + 1, entries := r.entries ++ [{ e with rseq := r.rseq }] }

/-- Raise an event of a context other than COMPLETION: it takes one of the sixteen places, or waits for one (R352).
Nothing is written for a context that is RESETTING (Table 11-8) or has no ring. -/
def Ctx.raise (c : Ctx) (e : Entry) : Ctx :=
  if c.res.state = .resetting then c
  else match c.ring with
    | none => c
    | some r => if r.others < 16 then { c with ring := some (r.push e) }
                else { c with ring := some { r with held := r.held ++ [e] } }

/-! ### What an access leaves at a stack -/

/-- A block write enters the buffer of its pseudo-channel; a buffer of 64 drains at once (R181). -/
def Stack.noteWrite (x : Stack) (ch block : Nat) : Stack :=
  if (x.writes.filter (fun w => w.1 == ch)).length < 63 then { x with writes := x.writes ++ [(ch, block)] }
  else { x with writes := x.writes.filter (fun w => w.1 != ch) }

/-- Blocks of the page at an internal physical address that lie in a pseudo-channel, in ascending order: 128 of them (Table 06-4). -/
def pageBlocks (pa ch : Nat) : List Nat :=
  ((List.range 8192).filter (fun b => pseudoChannel ((pa + b * 256) % 2 ^ 36) == ch)).map (fun b => pa / 256 + b)

/-- Every block of a page is written: each buffer fills and drains twice, and ends with as many blocks as it held, the last of the page
(R181). -/
def Stack.notePage (x : Stack) (pa : Nat) : Stack :=
  { x with writes := (x.writes.map (fun w => w.1)).eraseDups.flatMap (fun ch =>
      let n := (x.writes.filter (fun w => w.1 == ch)).length
      ((pageBlocks pa ch).drop (128 - n)).map (fun b => (ch, b))) }

/-- A write of a block at an internal physical address of a frame's stack. -/
def State.noteWrite (s : State) (pa : Nat) : State :=
  s.modStack (pa / 2 ^ 36) (fun x => x.noteWrite (pseudoChannel (pa % 2 ^ 36)) (pa / 256))

/-- A write of a whole page. -/
def State.notePage (s : State) (pa : Nat) : State := s.modStack (pa / 2 ^ 36) (fun x => x.notePage pa)

/-- The place of the housekeeping allowance among the counts of slots. -/
def housekeeping : Nat := 16

/-- Charge a transfer of `n` blocks to a partition (R188). -/
def State.charge (s : State) (part n : Nat) : State :=
  { s with traffic := modAt s.traffic part (fun t => { transfers := t.transfers + 1, blocks := t.blocks + n }) }

/-- The sum of the first `n` values of `f`. -/
def sumOf (f : Nat → Nat) : Nat → Nat
  | 0 => 0
  | n + 1 => sumOf f n + f n

/-- Slots granted to a partition since cold reset (R193): those of its blocks, and what its transfers cost beyond them (LOG 37). -/
def State.granted (s : State) (part : Nat) : Nat :=
  let t := s.traffic.getD part {}
  t.blocks + sumOf (Config.slotExtra part) t.transfers

/-- Slots that the requests of a partition waited for since cold reset (R193, LOG 37). -/
def State.waited (s : State) (part : Nat) : Nat := sumOf (Config.slotWait part) (s.traffic.getD part {}).transfers

/-- The partition of a context's traffic: that of its resident slot, else partition 0 (R188). -/
def State.partOf (s : State) (id : Nat) : Nat := match s.ctx? id with
  | some c => if c.res.slot.isSome then c.assign.part else 0
  | none => 0

/-- Charge a transfer made on behalf of a context. -/
def State.chargeCtx (s : State) (id n : Nat) : State := s.charge (s.partOf id) n

/-- The 64-bit internal physical address of an access: key field, `kspace` and address (R168). -/
def physWord (key : Bool × Nat) (a : Nat) : Nat := key.2 * 2 ^ 52 + key.1.toNat * 2 ^ 51 + a

/-- Write bytes of event entries at an address of context space (R352). A poisoned block that they would cover in part, and one whose counters
are spent, stays as it is. -/
def State.hubWrite (s : State) (id a : Nat) (bs : Bytes) : State :=
  match (s.ctx? id).bind (fun c => (c.page? (vpage a)).map (fun p => (c, p))) with
  | none => s
  | some (c, p) =>
    let off := a % pageSize
    match p.tier, p.lease, p.hbm with
    | some f, _, _ => (s.writeSram (physAt f off) bs).1
    | none, some f, _ => s.modCells (fun cs => writeCells cs (physAt f off) bs)
    | none, none, some f =>
      let m := s.mem.meta f
      let b := off / 256
      if (m.poisoned? b).isSome then s
      else match s.useKey (keyOf c p) (m.written (m.stepBlock b) b), m.stepBlock b with
        | some t, some g =>
          ((t.noteWrite (physAt f (b * 256))).chargeCtx id (m.written (some g) b)).modMem
            (fun k => { k.setMeta g with cells := writeCells k.cells (physAt f off) bs })
        | _, _ => s
    | none, none, none => s

/-- Write the entries of a context's ring from a number upward into their places of context memory (R352). -/
def State.writeRing (s : State) (id first : Nat) : State :=
  match (s.ctx? id).bind (fun c => c.ring) with
  | none => s
  | some r => (r.entries.filter (fun e => decide (first ≤ e.rseq))).foldl (fun s e =>
      (cutAt 256 2 (r.addr + (e.rseq % 2 ^ r.log2) * 80) e.bytes).foldl (fun s x => s.hubWrite id x.1 x.2) s) s

/-- The number that a context's next entry takes. -/
def State.ringNext (s : State) (id : Nat) : Nat := match (s.ctx? id).bind (fun c => c.ring) with
  | some r => r.rseq
  | none => 0

/-- Append an entry to the device's own ring. -/
def Logs.raise (l : Logs) (dest : Option Nat) (ev : Event) (st : Status) (body : Bytes) : Logs :=
  { l with ring := l.ring ++ [{ rseq := l.rseq, event := ev, status := st, body := body, dest := dest }], rseq := l.rseq + 1 }

/-- Make room in the device's own ring: when its 4,096 entries are full the oldest one not consumed is overwritten, and the loss is counted
for the session it was to go to (R332, R334). -/
def State.overwrite (s : State) : State :=
  match s.logs.ring with
  | [] => s
  | e :: es =>
    if s.logs.ring.length < 4096 then s
    else
      let s1 : State := { s with logs := { s.logs with ring := es, lost := s.logs.lost + e.dest.isNone.toNat } }
      match e.dest with
      | none => s1
      | some n => { s1 with sessions := s1.sessions.map (fun x => if x.number = n then { x with ownLost := x.ownLost + 1 } else x) }

/-- Raise an event of the device's own ring, for a session or for the management session. -/
def State.raiseTo (s : State) (dest : Option Nat) (ev : Event) (st : Status) (body : Bytes) : State :=
  { s.overwrite with logs := s.overwrite.logs.raise dest ev st body }

/-- Raise a device-level event, for the management session. -/
def State.raiseDevice (s : State) (ev : Event) (st : Status) (body : Bytes) : State := s.raiseTo none ev st body

/-- Raise an event of a context. -/
def State.raiseCtx (s : State) (id : Nat) (ev : Event) (st : Status) (body : Bytes) : State :=
  (s.modCtx id (fun c => c.raise { rseq := 0, event := ev, status := st, body := body })).writeRing id (s.ringNext id)

/-- Classes of error record (Table 14-8). -/
inductive RecClass where
  | corrected | uncorrected | sdc | integrity | link | repair | fence | divergence | testFail | notice
  deriving DecidableEq, Repr

/-- Codes of Table 14-8. -/
def RecClass.code : RecClass → Nat
  | .corrected => 0 | .uncorrected => 1 | .sdc => 2 | .integrity => 3 | .link => 4
  | .repair => 5 | .fence => 6 | .divergence => 7 | .testFail => 8 | .notice => 9

/-- The event that a class raises (Table 14-8). -/
def RecClass.event : RecClass → Option Event
  | .corrected => none
  | .sdc => some .sdc
  | .repair => some .repaired
  | .divergence => some .divergence
  | .uncorrected | .integrity | .link | .fence | .testFail | .notice => some .fault

/-- What a record says beyond time and place readings. -/
structure ErrorRec where
  cls : RecClass
  die : Nat := 0xFF
  core : Nat := 0xFF
  stage : Nat := 0
  status : Status := .ok
  ctx : Nat := 0
  ctxGen : Nat := 0
  seq : Nat := 0
  queue : Nat := 0
  action : Nat := 0
  /-- `detail` of the management copy, and of the context copy (an address differs between them, R467) -/
  detail : Nat := 0
  detailCtx : Nat := 0
  deriving DecidableEq, Repr

/-- Temperature, voltage and beat rate of a die (Table 14-7). -/
def State.dieReadings (s : State) (die : Nat) : Int × Nat × Nat :=
  if die < 30 then
    match s.power.tiles[if die < 6 then die else (die - 6) / 4]? with
    | some t => (t.temp, t.seenMv, if die < 6 then t.rate else 0)
    | none => (0, 0, 0)
  else if die = 30 then (s.power.hubSensor.temp, 0, 0)
  else if die < 33 then
    match s.power.linkSensors[die - 31]? with
    | some x => (x.temp, 0, 0)
    | none => (0, 0, 0)
  else match s.hbmStacks[die - 33]? with
    | some x => (x.temp, 0, 0)
    | none => (0, 0, 0)

/-- The views of a record (R468). -/
inductive View where
  | full | management | context
  deriving DecidableEq, Repr

/-- The 64 bytes of a record in a view (Table 14-7, R468): in CONFIDENTIAL mode the management copy withholds the context,
sequence number and queue, the context copy the place and its readings, with those of the peer of a DIVERGENCE, which then read 0xFF as the
record's own place does (DEDUCED LOG 27). -/
def errorBytes (timer epoch recNo : Nat) (rd : Int × Nat × Nat) (conf : Bool) (v : View) (e : ErrorRec) : Bytes :=
  let hideCtx := conf && v == .management
  let hidePlace := conf && v == .context
  let n (h : Bool) (x : Nat) := if h then 0 else x
  let detail := if v = .context then e.detailCtx else e.detail
  let detail := if hidePlace && e.cls == .divergence then detail - (field detail 79 64) * 2 ^ 64 + 0xFFFF * 2 ^ 64 else detail
  toLe 8 timer ++ toLe 4 epoch ++ toLe 4 recNo ++ toLe 1 e.cls.code
    ++ toLe 1 (if hidePlace then 0xFF else e.die) ++ toLe 1 (if hidePlace then 0xFF else e.core)
    ++ toLe 1 e.stage ++ toLe 2 e.status.code
    ++ toLe 2 (n hidePlace (wordOf 16 rd.1)) ++ toLe 2 (n hidePlace rd.2.1) ++ toLe 2 (n hidePlace rd.2.2)
    ++ toLe 2 (n hideCtx e.ctx) ++ toLe 2 (n hideCtx e.ctxGen)
    ++ toLe 8 (n hideCtx e.seq) ++ toLe 1 (n hideCtx e.queue) ++ toLe 1 e.action ++ toLe 6 0 ++ toLe 16 detail

/-- A record in a view, at this moment. -/
def State.errorView (s : State) (v : View) (e : ErrorRec) : Bytes :=
  errorBytes s.hub.timer s.otp.bootEpoch s.logs.recNo (s.dieReadings e.die) s.conf v e

/-- Keep a record in the device log of 4,096 (R468): number, management copy followed by context copy. -/
def Logs.keep (l : Logs) (m c : Bytes) : Logs :=
  let rs := l.records ++ [(l.recNo, m ++ c)]
  { l with records := if rs.length ≤ 4096 then rs else rs.drop 1, recNo := l.recNo + 1 }

/-- File an error record: into the device log, and as the event of its class to the context that it names (or to the contexts
of `more`) and to the management session as Table 18-5 sends it. -/
def State.fileFor (s : State) (e : ErrorRec) (toMgmt : Bool) (more : List Nat) : State :=
  let m := s.errorView .management e
  let c := s.errorView .context e
  let s1 := { s with logs := s.logs.keep m c }
  match e.cls.event with
  | none => s1
  | some ev =>
    let s2 := if toMgmt then s1.raiseDevice ev e.status m else s1
    more.foldl (fun s id => s.raiseCtx id ev e.status c) s2

/-- File a record with the ordinary receivers: a FAULT goes to the context and to management, any other event to the context
when it names one and else to management ("Events" of chapter 10, Table 18-5). -/
def State.file (s : State) (e : ErrorRec) : State :=
  let named := e.ctxGen != 0
  s.fileFor e (!named || e.cls.event == some .fault) (if named then [e.ctx] else [])

/-- The stage that a NOTICE names: HOST, a Rasovi port, or none. -/
def noticeStage (cause : Nat) : Nat :=
  if cause = 0xA ∨ cause = 0xB then 12 else if 0xC ≤ cause ∧ cause ≤ 0xE then 10 else 0

/-- A NOTICE on the management session (R537). -/
def State.notice (s : State) (cause extra : Nat) (st : Status) (die : Nat) : State :=
  s.file { cls := .notice, die := die, stage := noticeStage cause, status := st, detail := cause + extra * 65536,
           detailCtx := cause + extra * 65536 }

/-! ### Field repair map (R449–R451) -/

/-- An entry of Table 14-2, sealed. -/
def repairEntry (kind pos core index : Nat) : Nat :=
  let body := kind + pos * 16 + core * 4096 + index * 65536
  body + popCount 48 body * 2 ^ 48 + 0xA5 * 2 ^ 56

/-- Is an entry valid? (R450) -/
def repairValid (e : Nat) : Bool := field e 63 56 == 0xA5 && field e 55 48 == popCount 48 e

/-- Burn the next entry; when all 1,024 are used, raise the NOTICE of R451. -/
def State.burnRepair (s : State) (kind pos core index : Nat) : State :=
  if s.otp.repair.length < 1024 then
    { s with otp := { s.otp with repair := s.otp.repair ++ [repairEntry kind pos core index] } }
  else s.notice 1 0 .ok 0xFF

/-! ### Cores in service (R3–R6) -/

/-- The active count; a suspended core counts as active (R458). -/
def State.activeCount (s : State) : Nat := (s.cores.filter (fun c => c.status == .active)).length
/-- The spare count. -/
def State.spareCount (s : State) : Nat := (s.cores.filter (fun c => c.status == .spare)).length

/-- May work be placed on the core? (R209, R210, R458) -/
def Core.eligible (c : Core) : Bool := c.status == .active && !c.suspended && !c.underTest && !c.held

end Sys2Proof.Machine
end

