-- ==== Sys2Proof/Machine/Secrets.lean ====
section
/-!
DEFINITION. Machine/Secrets.lean: the derivation tree of the Vault (R410, R411), the attestation key (R443), and the two
halves of an ephemeral exchange (R326, R415).
-/
namespace Sys2Proof.Machine

/-- Code of the mode in derivations and claims: 0 OPEN, 1 CONFIDENTIAL. -/
def State.modeCode (s : State) : Nat := if s.conf then 1 else 0

/-- The seal key (Table 12-9). -/
def State.sealKey (s : State) : Bytes :=
  kmac256 s.otp.root.secret (toLe 4 s.otp.sealEpoch ++ toLe 1 s.modeCode) "SEAL" 32

/-- Seed and public half of the attestation key (R443). -/
def State.attestSeed (s : State) : Bytes := kmac256 s.otp.root.secret s.otp.identityDigest "ATTEST" 57
/-- Public half. -/
def State.attestPub (s : State) : Bytes := Config.ed448Pub s.attestSeed

/-- Sign with the attestation key. -/
def State.attestSign (s : State) (text : Bytes) : State × Bytes := s.sign s.attestPub s.attestSeed text

/-- Bytes of an X448 key, of an ML-KEM-1024 encapsulation key and ciphertext, and of an Ed448 key and signature. -/
def x448Len : Nat := 56
def kemLen : Nat := 1568
def edLen : Nat := 57
def sigLen : Nat := 114

/-- The opening half of an exchange from 120 bytes of secret randomness: X448 key and encapsulation key. -/
def exchangeOpen (seed : Bytes) : Bytes := Config.x448Pub (seed.take 56) ++ Config.mlkemPub (seed.drop 56)

/-- The answering half from 88 bytes of secret randomness and the peer's opening half: X448 key and ciphertext. -/
def exchangeAnswer (seed opening : Bytes) : Bytes :=
  Config.x448Pub (seed.take 56) ++ Config.mlkemCipher (slice opening 56 kemLen) (seed.drop 56)

/-- The shared secrets of the answering side: the X448 result, then the ML-KEM secret (R326). -/
def sharedOfAnswer (seed opening : Bytes) : Bytes :=
  Config.x448 (seed.take 56) (slice opening 0 56) ++ Config.mlkemShared (slice opening 56 kemLen) (seed.drop 56)

/-- The shared secrets of the opening side. -/
def sharedOfOpen (seed answer : Bytes) : Bytes :=
  Config.x448 (seed.take 56) (slice answer 0 56) ++ Config.mlkemDecaps (seed.drop 56) (slice answer 56 kemLen)

end Sys2Proof.Machine
end

