-- ==== Sys2Proof/Machine/Teller.lean ====
section
/-!
DEFINITION. Machine/Teller.lean: coins, bands, budgets and leave (R494–R498), the brake of one tile and of all (R501, R502),
and the HBM burst trains and pending writes that a memory access leaves behind (R181, R494).
-/
namespace Sys2Proof.Machine

/-! ### Coins -/

/-- The band of a voltage in mV: 0 to 3; a band includes its upper bound (R494). -/
def bandOf (mv : Nat) : Nat := if mv ≤ 660 then 0 else if mv ≤ 720 then 1 else if mv ≤ 780 then 2 else 3

/-- Coin cost in a band (Table 16-1). -/
def LeaveFor.cost : LeaveFor → Nat → Nat
  | .command _ _ _ _ false, b => [35, 43, 51, 59].getD b 59
  | .command _ _ _ _ true, b => [5, 6, 7, 8].getD b 8
  | .train _, b => [33, 36, 39, 43].getD b 43
  | .port _, _ => 24

/-- The band that a tile's leave is charged in: the highest of the voltage requested, the one last confirmed and the one
whose request waits for coins (R495, R505). -/
def Tile.band (t : Tile) : Nat := max (bandOf t.mv) (max (bandOf t.confirmed) (bandOf (t.raise.getD 0)))

/-- Coins that a Teller's grants hold in a band. -/
def Teller.held (t : Teller) (band : Nat) : Nat := (t.grants.map (fun l => l.cost band)).sum

/-- The budget of a tile (R496). -/
def Tile.budget (t : Tile) (configured : Nat) : Nat := min configured (min t.thermal t.cap)

/-- Grant the oldest request when it fits within the budget and the pacing window (R497, R498). -/
def Teller.grant (t : Teller) (band budget : Nat) : Teller × Option LeaveFor :=
  match t.queue with
  | [] => (t, none)
  | l :: rest =>
    if t.held band + l.cost band ≤ budget ∧ t.window + l.cost band ≤ 128 then
      ({ t with queue := rest, grants := t.grants ++ [l], window := t.window + l.cost band }, some l)
    else (t, none)

/-- Take a holder out of a Teller: its coins return (R496). -/
def Teller.drop (t : Teller) (p : LeaveFor → Bool) : Teller :=
  { t with queue := t.queue.filter (fun l => !p l), grants := t.grants.filter (fun l => !p l),
           revoked := t.revoked.filter (fun l => !p l) }

/-- Revoke every grant, in the order of the grants (R501, R502). -/
def Teller.revoke (t : Teller) : Teller := { t with grants := [], revoked := t.revoked ++ t.grants }

/-- Operations whose grants were revoked ask again, ahead of the rest, in a fresh window (R502). -/
def Teller.reask (t : Teller) : Teller := { t with queue := t.revoked ++ t.queue, revoked := [], window := 0 }

/-- Does a Teller's holder belong to a record? -/
def LeaveFor.isCmd (l : LeaveFor) (id q seq iter : Nat) : Bool := match l with
  | .command a b c d _ => a == id && b == q && c == seq && d == iter
  | .train _ | .port _ => false

/-- Set the leave of the record or the stack that a holder stands for. -/
def State.setLeave (s : State) (l : LeaveFor) (on : Bool) : State := match l with
  | .command id q seq iter _ => s.modRec id q seq iter (fun r => { r with leave := on })
  | .train k => s.modStack k (fun x => { x with train := on })
  | .port _ => s

/-- Revoke every grant of a tile. -/
def State.revokeTile (s : State) (n : Nat) : State :=
  match s.power.tiles[n]? with
  | none => s
  | some t => (t.teller.grants.foldl (fun s l => s.setLeave l false) s).modTile n (fun t => { t with teller := t.teller.revoke })

/-- Change a link die's Teller. -/
def State.modLinkTeller (s : State) (n : Nat) (f : Teller → Teller) : State :=
  { s with power := { s.power with linkTellers := modAt s.power.linkTellers n f } }

/-- Revoke every grant of the device. A port that runs keeps running (R501). -/
def State.revokeAll (s : State) : State :=
  ((List.range 2).foldl (fun s n => s.modLinkTeller n Teller.revoke) ((List.range 6).foldl (fun s n => s.revokeTile n) s))

/-- The gates of a tile are open again: its Teller asks once more for what was revoked. -/
def State.reaskTile (s : State) (n : Nat) : State :=
  s.modTile n (fun t => if t.brake || t.underVolt != 0 then t else { t with teller := t.teller.reask })

/-- Send the voltage request that waits for coins: one that enters a higher band once the recharge fits, any other at once (R505). -/
def State.sendRaise (s : State) (n : Nat) : State :=
  match s.power.tiles[n]? with
  | none => s
  | some t => match t.raise with
    | none => s
    | some v =>
      if bandOf v ≤ max (bandOf t.mv) (bandOf t.confirmed) ∨ t.teller.held (bandOf v) ≤ t.budget s.power.cfg.budget then
        { s.modTile n (fun t => { t with mv := v, raise := none, asked := some (t.asked.getD s.hub.timer) }) with
          out := s.out ++ [.avs n v] }
      else s

/-- Return coins on a tile. -/
def State.returnCoins (s : State) (n : Nat) (p : LeaveFor → Bool) : State :=
  (s.modTile n (fun t => { t with teller := t.teller.drop p })).sendRaise n

/-- Return the leave of a record. -/
def State.returnLeave (s : State) (id q seq iter : Nat) : State :=
  (List.range 6).foldl (fun s n => s.returnCoins n (fun l => l.isCmd id q seq iter)) s

/-! ### What an access leaves at a stack -/

/-- A request on a stack: its burst train holds leave, or asks for it (R494). The wait for a grant is timing (LOG 16). -/
def State.noteRequest (s : State) (k : Nat) : State :=
  let s1 := s.modStack k (fun x => { x with lastReq := s.hub.timer })
  match s.hbmStacks[k]? with
  | none => s
  | some x =>
    if x.train then s1
    else s1.modTile (k / 2) (fun t =>
      if t.teller.queue.contains (.train k) || t.teller.revoked.contains (.train k) then t
      else { t with teller := { t.teller with queue := t.teller.queue ++ [.train k] } })


end Sys2Proof.Machine
end

