-- ==== Sys2Proof/Machine/Wire.lean ====
section
/-!
DEFINITION. Machine/Wire.lean: sending on Rasovi: routes (R264), channels, credits, acknowledgements and resends
(R270–R274, R276), and the messages between Bursars (R267).
-/
namespace Sys2Proof.Machine

/-! ### Ports and channels -/

/-- Change a port. -/
def State.modPort (s : State) (p : Nat) (f : Port → Port) : State :=
  { s with links := { s.links with ports := modAt s.links.ports p f } }

/-- Port `p`. -/
def State.port? (s : State) (p : Nat) : Option Port := s.links.ports[p]?

/-- Change the links. -/
def State.modLinks (s : State) (f : Links → Links) : State := { s with links := f s.links }

/-- The channel pair of a port and an adjacent device. -/
def State.chan? (s : State) (port peer : Nat) : Option Channel :=
  s.links.channels.find? (fun c => c.port == port && c.peer == peer)

/-- Change a channel pair. -/
def State.modChan (s : State) (port peer : Nat) (f : Channel → Channel) : State :=
  s.modLinks (fun l => { l with channels := l.channels.map (fun c => if c.port = port ∧ c.peer = peer then f c else c) })

/-- Does the port run over a cable to one device? -/
def Port.direct (p : Port) : Bool := p.mode == 1

/-- A count of a port that holds at its largest value (R298). -/
def stepCount (v : Nat) : Nat := min (v + 1) (2 ^ 64 - 1)

/-- Count a discarded frame against a port (R268). -/
def State.countDiscard (s : State) (p : Nat) : State := s.modPort p (fun x => { x with discarded := stepCount x.discarded })
/-- Count a frame under STALE_GENERATION. -/
def State.countStale (s : State) (p : Nat) : State := s.modPort p (fun x => { x with stale := stepCount x.stale })

/-- A rate after an acknowledgement (R274, R316): halved when congestion is reported, at most once per round trip, and otherwise raised by 1/64
of the port's rate per round trip, up to the port's rate. A round trip has passed when a frame sent after the last such change is acknowledged
(DEDUCED LOG 32). `next`: the sequence number of the next frame. -/
def Rate.pace (r : Rate) (ack next ce : Nat) : Rate :=
  if 0 < ce then (if ack ≤ r.halved then r else { r with log := r.log + 1, halved := next })
  else if ack ≤ r.halved ∨ ack ≤ r.raised then r
  else if 64 * 2 ^ r.log ≤ r.num + 2 ^ r.log then { r with num := 64, log := 0, raised := next }
  else { r with num := r.num + 2 ^ r.log, raised := next }

/-- Frame class of an inner operation (Table 18-3); 0: not listed. -/
def iopClass (iop : Nat) : Nat :=
  if 1 ≤ iop ∧ iop ≤ 6 then 2 else if 0x11 ≤ iop ∧ iop ≤ 0x13 then 3 else if iop = 0x21 ∨ iop = 0x22 then 1 else 0

/-- LINK_KX (Table 18-3). -/
def iopKx : Nat := 0x22

/-- Cells of a frame (R270). -/
def cellsOfFrame (dlen : Nat) : Nat := ceilDiv (72 + dlen) 256

/-- Bytes of a frame in the replay buffer. -/
def frameBytes (dlen : Nat) : Nat := 90 + dlen

/-- Credits of a class. -/
def Channel.credits (c : Channel) (cls : Nat) : Nat := if cls = 1 then c.crCtrl else if cls = 2 then c.crData else c.crXfer

/-- Spend credits of a class. -/
def Channel.spend (c : Channel) (cls n : Nat) : Channel :=
  if cls = 1 then { c with crCtrl := c.crCtrl - n } else if cls = 2 then { c with crData := c.crData - n } else { c with crXfer := c.crXfer - n }

/-- May a waiting frame go now? A direct port needs credits and room in the replay buffer (R270, R272), a switched one room under 256
(R273). -/
def Channel.canSend (c : Channel) (direct : Bool) (w : Waiting) : Bool :=
  if direct then decide (cellsOfFrame w.inner.data.length ≤ c.credits w.cls)
      && decide ((c.unacked.map (fun u => frameBytes u.inner.data.length)).sum + frameBytes w.inner.data.length ≤ 524288)
  else decide (c.unacked.length < 256)

/-- Order of service (R286), after LINK frames: CTRL, forwarded, local. -/
def Waiting.service (w : Waiting) (own : Nat) : Nat := if w.cls = 1 then 0 else if w.src ≠ own then 1 else 2

/-- Frames of one kind on a channel keep their order; frames of another kind pass them. -/
def Waiting.like (w x : Waiting) (own : Nat) : Bool := w.service own == x.service own && w.cls == x.cls && w.ctx == x.ctx

/-- The first waiting frame of each kind. Before the channel has a key only LINK_KX goes, past frames that wait for the key (R277, R415). -/
def Channel.heads (c : Channel) (own : Nat) : List Waiting :=
  (c.waiting.filter (fun w => c.keyed || w.inner.iop == iopKx)).foldl (fun acc w =>
    if acc.any (fun x => x.like w own) then acc else acc ++ [w]) []

/-! ### The headers of a frame -/

/-- MAC address of port `p` of device `d` (R262). -/
def Links.macOf (l : Links) (p d : Nat) : Nat := l.mac + p * 2 ^ 16 + d
/-- IPv6 address of port `p` of device `d` (R262). -/
def Links.ip6Of (l : Links) (p d : Nat) : Nat := l.ip6 * 2 ^ 64 + p * 2 ^ 16 + d

/-- The headers before the outer header (R265, R262, R274), as far as the spec gives them. -/
def Links.wireHdr (l : Links) (port : Nat) (p : Port) (peer : Nat) : WireHdr :=
  let prio := if l.pfc < 8 then some l.pfc else none
  match p.mode with
  | 2 => { srcMac := some (l.macOf port l.ordinal), dstMac := some (l.macOf port peer), priority := prio }
  | 3 => { etherType := 0x86DD, srcIp := some (l.ip6Of port l.ordinal), dstIp := some (l.ip6Of port peer), udp := some l.udp, ecn := 2,
           priority := prio }
  | _ => {}

/-- The outer header of a frame that leaves on a port (Table 09-4). Until a frame has come from the other end of a cable, its port number
is taken to be the own one (LOG 31). -/
def Links.outerHdr (l : Links) (port : Nat) (p : Port) (cls : Nat) (kphase : Bool) (src dst seq dlen : Nat) : Outer :=
  let far := if p.mode = 1 then p.far.getD port else port
  { port := port, cls := cls, kphase := kphase, src := src, dst := dst, job := l.job,
    chan := port + far * 16 + (if cls = 0 then 2 ^ 31 else 0), seq := seq, dlen := dlen }

/-! ### The link regulator (R286, R360) -/

/-- The words of a context at a port: share and ceiling of its form-2 assignment. -/
def Ctx.portShare (c : Ctx) : PortShare := { ctx := c.id, share := c.assign.linkShare, ceil := c.assign.linkCeil }

/-- The words that a window of a port begins with: those of the resident contexts (R361). -/
def State.portShares (s : State) : List PortShare := (s.ctxs.filter (fun c => c.res.slot.isSome)).map Ctx.portShare

/-- What a context has of the window. -/
def State.shareAt (s : State) (shares : List PortShare) (id : Nat) : PortShare :=
  (shares.find? (fun x => x.ctx == id)).getD (((s.ctx? id).map Ctx.portShare).getD { ctx := id, share := 0, ceil := 0 })

/-- How far a slot stands behind the turn of a class. -/
def behindTurn (turn : List (Nat × Nat)) (cls slot : Nat) : Nat := (slot + 64 - sparse turn cls % 64) % 64

/-- The frame that the regulator grants (R360): first to a context below `link_share`/256 of the window, in order of arrival; then below
(`link_ceil` + 1)/256, in descending class, round robin within a class. -/
def State.regulate (s : State) (p : Port) (shares : List PortShare) (cands : List (Nat × Waiting)) : Option (Nat × Waiting) :=
  let word (w : Nat × Waiting) : PortShare := s.shareAt shares (w.2.ctx.getD 0)
  match cands.find? (fun w => decide ((word w).sent < 4 * (word w).share)) with
  | some w => some w
  | none => leastBy (fun w => match s.ctx? (w.2.ctx.getD 0) with
      | some c => (7 - min 7 c.assign.qos) * 64 + behindTurn p.turn c.assign.qos (c.res.slot.getD 0)
      | none => 512) (cands.filter (fun w => decide ((word w).sent < 4 * ((word w).ceil + 1))))

/-- Count a granted frame in the window of its port; a window ends after 1,024. -/
def State.countFrame (s : State) (p : Port) (shares : List PortShare) (window id : Nat) : Port :=
  let x := s.shareAt shares id
  let cls := ((s.ctx? id).map (fun c => c.assign.qos)).getD 0
  let slot := ((s.ctx? id).bind (fun c => c.res.slot)).getD 0
  let q := { p with turn := setSparse p.turn cls (slot + 1) }
  if 1023 ≤ window then { q with window := 0, shares := [] }
  else { q with window := window + 1, shares := { x with sent := x.sent + 1 } :: shares.filter (fun y => y.ctx != id) }

/-- The next frame of a port, its adjacent device, and the port with the frame counted (R286): CTRL, forwarded, then local frames under the
regulator; a context that is not resident sends none (R360). When every waiting context stands at its ceiling the rest of the window would
pass idle: idle slots take no step of the model, and the next window begins (DESIGN CHOICE LOG 16). Frames of no context of this device,
a lender's, and ABORT lie outside the regulator and go last (DESIGN CHOICE LOG 16). -/
def State.nextFrame (s : State) (port : Nat) (p : Port) : Option (Nat × Waiting × Port) :=
  let own := s.links.ordinal
  let all := (s.links.channels.filter (fun c => c.port == port)).flatMap (fun c =>
    ((c.heads own).filter (fun w => c.canSend p.direct w)).map (fun w => (c.peer, w)))
  let of (k : Nat) : List (Nat × Waiting) := all.filter (fun w => w.2.service own == k)
  match (of 0).head? <|> (of 1).head? with
  | some w => some (w.1, w.2, p)
  | none =>
    let cands := (of 2).filter (fun w => match w.2.ctx with
      | some id => ((s.ctx? id).bind (fun c => c.res.slot)).isSome
      | none => false)
    let now := if p.window = 0 then s.portShares else p.shares
    match s.regulate p now cands with
    | some w => some (w.1, w.2, s.countFrame p now p.window (w.2.ctx.getD 0))
    | none => match s.regulate p s.portShares cands with
      | some w => some (w.1, w.2, s.countFrame p s.portShares 0 (w.2.ctx.getD 0))
      | none => ((of 2).find? (fun w => w.2.ctx.isNone)).map (fun w => (w.1, w.2, p))

/-! ### Sending -/

/-- May a port send now? Not while it is down, nor paused (R274). -/
def Port.sends (p : Port) : Bool := p.isUp && !p.paused

/-- Send what a port may send, `fuel` frames at most. -/
def State.pumpFrames (s : State) (port : Nat) : Nat → State
  | 0 => s
  | fuel + 1 =>
    match s.port? port with
    | none => s
    | some p =>
      if !p.sends then s
      else match s.nextFrame port p with
        | none => s
        | some (peer, w, q) =>
          match s.chan? port peer with
          | none => s
          | some c =>
            let o := s.links.outerHdr port p w.cls c.kphase w.src w.dst c.txSeq w.inner.data.length
            let f : RSent := { hdr := s.links.wireHdr port p peer, outer := o, inner := w.inner }
            let s1 := s.modChan port peer (fun c =>
              { (if p.direct then c.spend w.cls (cellsOfFrame w.inner.data.length) else c) with
                txSeq := c.txSeq + 1, frames := c.frames + 1, waiting := dropFirst w c.waiting, unacked := c.unacked ++ [f],
                lastAdvance := if c.unacked.isEmpty then s.hub.timer else c.lastAdvance })
            let s2 := s1.modPort port (fun _ => { q with sent := stepCount q.sent })
            ({ s2 with out := s2.out ++ [.rasovi peer f.hdr o w.inner] } : State).pumpFrames port fuel

/-- The `sack` bits of a switched channel (Table 09-6). -/
def sackOf (ack : Nat) (held : List (Nat × Outer × Inner)) : Nat :=
  ((List.range 64).map (fun i => if held.any (fun h => h.1 == ack + 1 + i) then 2 ^ i else 0)).sum

/-- Emit a LINK frame (R271, R273): acknowledgement, credits freed, congestion marks. `old`: under the previous key, for its frames
(R277). -/
def State.emitLink (s : State) (port peer : Nat) (old nak : Bool) : State :=
  match s.port? port, s.chan? port peer with
  | some p, some c =>
    let ack := if old then c.oldAck else c.rxAck
    let b : LinkBody := { ack := ack, sack := if p.direct then 0 else sackOf ack (if old then c.oldHeld else c.rxHeld), crCtrl := c.owed.1,
                          crData := c.owed.2.1, crXfer := c.owed.2.2, nak := nak, ce := if p.direct then 0 else c.rxCe }
    let o := s.links.outerHdr port p 0 (c.kphase != old) s.links.ordinal peer (if old then c.oldLink else c.txLink) 0
    let s1 := s.modChan port peer (fun c =>
      { (if old then { c with oldLink := c.oldLink + 1 } else { c with txLink := c.txLink + 1, linkFrames := c.linkFrames + 1 }) with
        owed := (0, 0, 0), rxUnacked := 0, rxCe := 0, linkDue := none })
    let s2 := s1.modPort port (fun x => { x with sent := stepCount x.sent })
    { s2 with out := s2.out ++ [.link peer (s.links.wireHdr port p peer) o b] }
  | _, _ => s

/-- Send a LINK frame; on a paused port it waits for the end of the pause (R274). -/
def State.sendLink (s : State) (port peer : Nat) (old nak : Bool) : State :=
  match s.port? port with
  | some p => if !p.isUp then s
    else if p.paused then s.modChan port peer (fun c => { c with linkDue := some (old, nak) })
    else s.emitLink port peer old nak
  | none => s

/-- Emit the frames of a channel that are to go again, bit for bit (R272, R273). -/
def State.emitDue (s : State) (port peer : Nat) : State :=
  match s.chan? port peer with
  | none => s
  | some c =>
    let fs := c.unacked.filter (fun f => f.due)
    let s1 := (s.modChan port peer (fun c => { c with unacked := c.unacked.map (fun f => { f with due := false }) })).modPort port
      (fun x => { x with resent := min (x.resent + fs.length) (2 ^ 64 - 1) })
    { s1 with out := s1.out ++ fs.map (fun f => .rasovi peer f.hdr f.outer f.inner) }

/-- Send what waits on a port: LINK frames, then frames that go again, then new ones (R286; a resend before a new frame is DESIGN CHOICE
LOG 31). -/
def State.pumpPort (s : State) (port : Nat) : State :=
  match s.port? port with
  | none => s
  | some p =>
    if !p.sends then s
    else
      let cs := s.links.channels.filter (fun c => c.port == port)
      let s1 := cs.foldl (fun s c => match c.linkDue with
        | some (old, nak) => s.emitLink port c.peer old nak
        | none => s) s
      (cs.foldl (fun s c => s.emitDue port c.peer) s1).pumpFrames port 1024

/-- Send what waits on every port. -/
def State.pumpPorts (s : State) : State := (List.range 16).foldl (fun s p => s.pumpPort p) s

/-- Make a channel pair known. -/
def State.openChan (s : State) (port peer : Nat) : State :=
  if (s.chan? port peer).isSome then s else s.modLinks (fun l => { l with channels := l.channels ++ [{ port := port, peer := peer }] })

/-! ### Routes (R264) -/

/-- The one-hop direct ports, lowest first: adjacent ordinal and port. -/
def State.directPorts (s : State) : List (Nat × Nat) :=
  (List.range 16).filterMap (fun p => match s.port? p with
    | some x => if x.isUp && x.direct then x.peer.map (fun d => (d, p)) else none
    | none => none)

/-- Does a port run through switches? -/
def Port.switched (p : Port) : Bool := p.mode == 2 || p.mode == 3

/-- The switched ports that are up, lowest first. -/
def State.planePorts (s : State) : List Nat :=
  (List.range 16).filter (fun p => match s.port? p with
    | some x => x.isUp && x.switched
    | none => false)

/-- In a port map, the mark of a port that is up on its plane. -/
def planeMark : Nat := 65536

/-- Is a device on the plane of port number `q`? One whose map has not come is taken to be (DESIGN CHOICE LOG 31). -/
def Links.onPlane (l : Links) (d q : Nat) : Bool := match l.maps.find? (fun m => m.1 == d) with
  | some m => m.2.contains (q, planeMark)
  | none => true

/-- The devices that a hop reaches from a device with this port map: over its direct ports in order, then over its planes in order. -/
def Links.adjacent (l : Links) (ports : List (Nat × Nat)) : List (Nat × Nat) :=
  ports.filter (fun e => e.2 != planeMark)
    ++ (ports.filter (fun e => e.2 == planeMark)).flatMap (fun e =>
      ((List.range (l.sizeM1 + 1)).filter (fun d => l.onPlane d e.1)).map (fun d => (e.1, d)))

/-- Breadth-first search over levels of (destination, first port, first adjacent ordinal), each level in order of preference of its first
hop: what is reached first keeps its route. -/
def Links.search (l : Links) : Nat → List (Nat × Nat × Nat) → List (Nat × Nat × Nat) → List (Nat × Nat × Nat)
  | 0, _, reached => reached
  | fuel + 1, level, reached =>
    let new := level.foldl (fun (acc : List (Nat × Nat × Nat)) r => match l.maps.find? (fun m => m.1 == r.1) with
      | none => acc
      | some m => (l.adjacent m.2).foldl (fun (acc : List (Nat × Nat × Nat)) e =>
          if reached.any (fun x => x.1 == e.2) || acc.any (fun x => x.1 == e.2) then acc else acc ++ [(e.2, r.2.1, r.2.2)]) acc) []
    if new.isEmpty then reached else l.search fuel new (reached ++ new)

/-- This device's own port map. -/
def State.ownMap (s : State) : List (Nat × Nat) :=
  s.directPorts.map (fun d => (d.2, d.1)) ++ s.planePorts.map (fun p => (p, planeMark))

/-- The routes: fewest hops first, a direct port before a plane at equal hops, then the lowest port number (R264). -/
def State.routesOf (s : State) : List (Nat × Nat × Nat) :=
  let one := (s.links.adjacent s.ownMap).foldl (fun (acc : List (Nat × Nat × Nat)) e =>
    if e.2 == s.links.ordinal || acc.any (fun x => x.1 == e.2) then acc else acc ++ [(e.2, e.1, e.2)]) []
  (s.links.search (s.links.maps.length + 1) one ((s.links.ordinal, 0, 0) :: one)).filter (fun r => r.1 != s.links.ordinal)

/-- The route to an ordinal: port and adjacent ordinal. -/
def State.route (s : State) (dst : Nat) : Option (Nat × Nat) :=
  (s.links.routes.find? (fun r => r.1 == dst)).map (fun r => (r.2.1, r.2.2))

/-- Send an inner operation on its route; without one it is not sent. `ctx`: the context of this device that sends it. -/
def State.sendFrom (s : State) (ctx : Option Nat) (src dst : Nat) (i : Inner) : State :=
  match s.route dst with
  | none => s
  | some (port, adj) =>
    let w : Waiting := { cls := iopClass i.iop, dst := dst, src := src, inner := i, ctx := ctx }
    ((s.openChan port adj).modChan port adj (fun c => { c with waiting := c.waiting ++ [w] })).pumpPort port

/-- Frames that a session, channel or lease key allows in a direction (Table 12-11). -/
def frameLimit : Nat := 2 ^ 48 + 2 ^ 32

/-- Count a frame under the key of a lease, as its borrower or as its lender (R416, R417). -/
def State.useLease (s : State) (peer id gen : Nat) : State := s.modLinks (fun l =>
  { l with leases := l.leases.map (fun x => if x.id = id ∧ x.gen = gen ∧ x.lender = peer then { x with uses := x.uses + 1 } else x),
           lent := l.lent.map (fun x => if x.id = id ∧ x.gen = gen ∧ x.borrower = peer then { x with uses := x.uses + 1 } else x) })

/-- Has a lender spent the key of a lease? It sends nothing more under it, so that the lease breaks at the borrower (R216, R405, R417). -/
def Links.leaseSpent (l : Links) (peer id gen : Nat) : Bool :=
  l.lent.any (fun x => x.id == id && x.gen == gen && x.borrower == peer && decide (frameLimit ≤ x.uses))

/-- Send an operation of this device; the data of one of the neighbour tier goes under the key of its lease. -/
def State.sendR (s : State) (ctx : Option Nat) (dst : Nat) (i : Inner) : State :=
  if 0x11 ≤ i.iop ∧ i.iop ≤ 0x13 then
    if s.links.leaseSpent dst i.group i.gen then s else (s.useLease dst i.group i.gen).sendFrom ctx s.links.ordinal dst i
  else s.sendFrom ctx s.links.ordinal dst i

/-- Send a message to the Bursar of another device (R267), in one frame: the header of Table 10-8 and the payload (LOG 31). -/
def State.sendCtrl (s : State) (dst : Nat) (op : Opcode) (arg0 : Nat) (payload : Bytes) : State :=
  let hdr := toLe 4 op.code ++ toLe 2 0 ++ toLe 2 0 ++ toLe 4 0 ++ toLe 4 payload.length ++ toLe 2 0 ++ toLe 2 0 ++ toLe 8 arg0
    ++ toLe 4 0
  s.sendR none dst { iop := 0x21, data := hdr ++ payload }

/-- Send a message of a lease, which goes under its key (R416). -/
def State.sendLeaseCtrl (s : State) (dst : Nat) (op : Opcode) (id gen : Nat) (payload : Bytes) : State :=
  (s.useLease dst id gen).sendCtrl dst op (id + gen * 65536) payload

/-- The port map that a Bursar sends: for each port the adjacent ordinal with bit 16 where a direct port is up, or bit 17 where a switched
port is (LOG 31). -/
def State.portMapBytes (s : State) : Bytes :=
  (List.range 16).flatMap (fun p => match s.ownMap.find? (fun e => e.1 == p) with
    | some e => toLe 4 (if e.2 = planeMark then 2 ^ 17 else e.2 + 2 ^ 16)
    | none => toLe 4 0)

/-- Send this device's port map to some devices. -/
def State.sendMap (s : State) (dests : List Nat) : State :=
  dests.foldl (fun s d => s.sendCtrl d .portMap s.links.ordinal s.portMapBytes) s

/-- Recompute the routes. -/
def State.newRoutes (s : State) : State := s.modLinks (fun l => { l with routes := s.routesOf })

/-- ROUTE_RECOMPUTE (R264): new routes, and this device's port map to every device that it reaches. -/
def State.reroute (s : State) : State := s.newRoutes.sendMap (s.newRoutes.links.routes.map (fun r => r.1))

/-! ### Resends -/

/-- The port trains again (R272). -/
def State.retrain (s : State) (port : Nat) : State :=
  (s.modPort port (fun x => { x with isUp := false, training := some s.hub.timer })).reroute

/-- Resend frames of a channel: each counts its resends; after the eighth of one frame a direct port retrains (R272). -/
def State.resend (s : State) (port peer : Nat) (which : RSent → Bool) : State :=
  match s.port? port, s.chan? port peer with
  | some p, some c =>
    let fs := c.unacked.filter which
    if fs.isEmpty || !p.isUp then s
    else if p.direct && fs.any (fun f => decide (8 ≤ f.resends)) then
      (s.modChan port peer (fun c =>
        let fresh (f : RSent) : RSent := { f with resends := 0 }
        { c with unacked := c.unacked.map fresh })).retrain port
    else
      (s.modChan port peer (fun c =>
        let again (f : RSent) : RSent := if which f then { f with resends := f.resends + 1, due := true } else f
        { c with unacked := c.unacked.map again, lastAdvance := s.hub.timer })).pumpPort port
  | _, _ => s

/-- Owe the sender the cells of a frame on a direct port (R270): they go back in a LINK frame, within 256 counts (R271). -/
def State.oweCells (s : State) (port peer cls n : Nat) : State :=
  if !((s.port? port).map Port.direct).getD false then s
  else s.modChan port peer (fun c =>
    let o := c.owed
    { c with rxSince := if c.rxUnacked = 0 ∧ o = (0, 0, 0) then s.hub.timer else c.rxSince,
             owed := if cls = 1 then (o.1 + n, o.2.1, o.2.2) else if cls = 2 then (o.1, o.2.1 + n, o.2.2) else (o.1, o.2.1, o.2.2 + n) })

/-- Take a delivered operation out of its place and free its cells (LOG 15). -/
def State.takeIn (s : State) (d : Delivered) : State :=
  if s.links.inbox.contains d then
    let s1 := s.modLinks (fun l => { l with inbox := dropFirst d l.inbox })
    match s1.port? d.port with
    | some p => (match p.direct, p.peer with
      | true, some peer => s1.oweCells d.port peer (iopClass d.inner.iop) (cellsOfFrame d.inner.data.length)
      | _, _ => s1)
    | none => s1
  else s

/-- The message of a run of bytes, with `ans`, `dev` and the opcode. -/
def msgOf (n : Nat) (whole : Bool) (bs : Bytes) : Nat × Bool × Bool × Msg :=
  let h := ofLe (slice bs 0 32)
  let length := field h 127 96
  (field h 15 0, flag h 16, flag h 17,
    { session := n, rsvd := field h 31 18 + field h 47 44 * 2 ^ 14 + field h 159 144 * 2 ^ 18 + field h 255 224 * 2 ^ 34,
      ctx := field h 43 32, ctxGen := field h 63 48, tag := field h 95 64, length := length, status := field h 143 128,
      arg0 := field h 223 160, fits := whole && bs.length == 32 + length, payload := bs.drop 32 })

/-- Take a Bursar message out of its place. -/
def State.takeCtrl (s : State) (src : Nat) (op : Opcode) (m : Msg) : State :=
  s.modLinks (fun l => { l with ctrl := dropFirst (src, op.code, m) l.ctrl })

/-- A message between Bursars is handled: one with a reserved field set, or that names a context or a status, is refused whole (R16, R317). -/
def State.ctrlMsg (s : State) (src : Nat) (op : Opcode) (m : Msg) (f : State → State) : State :=
  if !s.alive then s
  else if m.rsvd != 0 || m.ctx != 0 || m.ctxGen != 0 || m.status != 0 then s.takeCtrl src op m
  else f (s.takeCtrl src op m)

/-- Die of a port: 31 for P0–P7, 32 for P8–P15 (Table 13-8). -/
def portDie (p : Nat) : Nat := 31 + p / 8

end Sys2Proof.Machine
end

