-- ==== Sys2Proof/Machine/Access.lean ====
section
/-!
DEFINITION. Machine/Access.lean: reads and writes of a context's memory: translation, SRAM error correction (R176, R177),
HBM blocks with their counters, tags and poison words (R383–R399), mirrors (R212, R213), security alarms (R395).
-/
namespace Sys2Proof.Machine

/-! ### Extents -/

/-- Pages of a context that lie in a byte range. -/
def Ctx.pagesIn (c : Ctx) (va n : Nat) : List Page :=
  if n = 0 then [] else c.pages.filter (fun p => decide (vpage va ≤ p.va) && decide (p.va ≤ vpage (va + n - 1)))

/-- Is every byte of the range mapped, within the 48-bit space? -/
def Ctx.mapped (c : Ctx) (va n : Nat) : Bool :=
  n == 0 || (decide (va + n ≤ 2 ^ 48) && (c.pagesIn va n).length == vpage (va + n - 1) + 1 - vpage va)

/-- First page and pages of the checkpoint store in force; none without one (Table 15-1). -/
def Ctx.store (c : Ctx) : Nat × Nat :=
  let w := ofLe c.ckpt.cfg
  (field w 79 32 / pageSize, field w 119 96)

/-- Is a page part of the store? Store pages are read-only to commands (R479). -/
def Ctx.inStore (c : Ctx) (vp : Nat) : Bool := decide (c.store.1 ≤ vp) && decide (vp < c.store.1 + c.store.2)

/-- Is every byte of the range mapped and not on a read-only page? -/
def Ctx.open_ (c : Ctx) (va n : Nat) : Bool := c.mapped va n && (c.pagesIn va n).all (fun p => !p.ro)

/-- May a command write every byte of the range? (R200, R479) -/
def Ctx.writable (c : Ctx) (va n : Nat) : Bool := c.open_ va n && (c.pagesIn va n).all (fun p => !c.inStore p.va)

/-- Does the range lie in whole pages of the context? Pages are counted from a virtual page. -/
def Ctx.mappedPages (c : Ctx) (vp n : Nat) : Bool :=
  decide (vp + n ≤ 2 ^ 27) && (c.pages.filter (fun p => decide (vp ≤ p.va) && decide (p.va < vp + n))).length == n

/-- A region split at page boundaries: page, offset in the page, bytes. -/
def pieces : Nat → Nat → Nat → List (Nat × Nat × Nat)
  | 0, _, _ => []
  | fuel + 1, va, n =>
    if n = 0 then []
    else
      let off := va % pageSize
      let k := min n (pageSize - off)
      (vpage va, off, k) :: pieces fuel (va + k) (n - k)

/-- Pieces of a region of `n` bytes. -/
def piecesOf (va n : Nat) : List (Nat × Nat × Nat) := pieces (n / pageSize + 2) va n

/-! ### Frames -/

/-- HBM frame number `i` among the data frames of the device. -/
def dataFrameAt (i : Nat) : Nat := (i / 31744) * 32768 + i % 31744

/-- The first data frame at or after position `i` that is not in use; among `k` positions. -/
def freeHbmFrom (used : List Nat) : Nat → Nat → Option Nat
  | 0, _ => none
  | k + 1, i =>
    if i ≥ 380928 then none
    else if used.contains (dataFrameAt i) then freeHbmFrom used k (i + 1) else some (dataFrameAt i)

/-- Choose a free HBM frame at or after a stack (DESIGN CHOICE LOG 23: the lowest; the spec leaves the choice to the placement
engine). -/
def State.freeHbm (s : State) (stack : Nat) : Option Nat :=
  let used := s.mem.hbmUse.map (fun u => u.1)
  match freeHbmFrom used (used.length + 1) (stack * 31744) with
  | some f => some f
  | none => freeHbmFrom used (used.length + 1) 0

/-- A free HBM frame on a stack of another tile than the one given (R212). -/
def State.freeHbmOff (s : State) (tile : Nat) : Option Nat :=
  ((List.range 12).filterMap (fun k => if k / 2 = tile then none else s.freeHbm k)).find? (fun f => stackOf f / 2 != tile)

/-- The other frame of the shared page that a frame holds. -/
def State.otherCopy (s : State) (pfn : Nat) : Option Nat :=
  (s.shares.flatMap (fun x => x.pages)).findSome? (fun y =>
    if y.first = pfn then y.mirror else if y.mirror = some pfn then some y.first else none)

/-- A free HBM frame for what a frame holds: off the tile of the other copy of a shared page (R212). -/
def State.freeFor (s : State) (pfn : Nat) : Option Nat := match s.otherCopy pfn with
  | some g => s.freeHbmOff (stackOf g / 2)
  | none => s.freeHbm 0

/-- Take an HBM frame for a use. -/
def Memory.takeHbm (m : Memory) (f : Nat) (u : FrameUse) : Memory :=
  { m with hbmUse := (f, u) :: m.hbmUse.filter (fun x => x.1 != f) }

/-- Return an HBM frame to the pool (R199, R403): its counters stand. -/
def Memory.dropHbm (m : Memory) (f : Nat) : Memory := { m with hbmUse := m.hbmUse.filter (fun x => x.1 != f) }

/-- HBM frames that are in use as something. -/
def Memory.countUse (m : Memory) (p : FrameUse → Bool) : Nat := (m.hbmUse.filter (fun x => p x.2)).length

/-- A free frame of a core's slice. -/
def State.freeTierOf (s : State) (core : Nat) : Option Nat :=
  ((List.range 256).map (tierFrame core)).find?
    (fun f => !s.mem.tierUse.contains f && !s.mem.tierRetired.contains f)

/-- Free frames of a core's slice. -/
def State.tierFree (s : State) (core : Nat) : Nat :=
  256 - ((s.mem.tierUse.filter (fun f => !s.mem.tierRetired.contains f) ++ s.mem.tierRetired).filter (fun f => tierCore f == core)).length

/-! ### The move log (R220) -/

/-- Codes of Table 07-6. -/
def Reason.code : Reason → Nat
  | .heat => 0 | .pin => 1 | .cold => 2 | .affinity => 3 | .fencing => 4 | .residency => 5
  | .mirror => 6 | .lease => 7 | .genMode => 8 | .homeMoved => 9 | .surplus => 10 | .repair => 4

/-- Where a frame lies, as Table 07-6 codes it: kind and unit. -/
def frameCode (pfn : Option Nat) : Nat × Nat := match pfn with
  | none => (3, 0xFF)
  | some f => if isHbm f then (0, stackOf f) else if isTier f then (1, tierCore f) else (2, 0xFF)

/-- The frame that a page lives in. -/
def Page.frame (p : Page) : Option Nat := match p.tier, p.lease, p.hbm with
  | some t, _, _ => some t
  | none, some l, _ => some l
  | none, none, h => h

/-- Write a move record, in OPEN mode (R220): the oldest of 4,096 is overwritten. -/
def State.logMove (s : State) (c : Ctx) (vp : Nat) (src dst : Option Nat) (why : Reason) : State :=
  if s.conf then s
  else
    let f := frameCode src
    let t := frameCode dst
    let r := toLe 8 s.hub.timer ++ toLe 4 s.otp.bootEpoch ++ toLe 2 c.id ++ toLe 2 c.gen ++ toLe 4 vp
      ++ toLe 4 (f.1 + t.1 * 16 + f.2 * 256 + t.2 * 65536 + why.code * 2 ^ 24) ++ toLe 8 0
    let rs := s.logs.moves ++ [r]
    { s with logs := if rs.length ≤ 4096 then { s.logs with moves := rs }
                     else { s.logs with moves := rs.drop 1, movesLost := s.logs.movesLost + 1 } }

/-- Record a copy of a shared page under the first mapping of its object (R220; LOG 22). -/
def State.logShared (s : State) (share k : Nat) (src dst : Option Nat) : State :=
  match (s.share? share).bind (fun x => x.maps.head?) with
  | none => s
  | some m => match s.ctx? m.1 with
    | some c => s.logMove c (m.2 + k) src dst .mirror
    | none => s

/-! ### Alarms and HBM rows -/

/-- Write a poison word. -/
def Memory.poisonBlock (m : Memory) (pfn b : Nat) (key : Bool × Nat) (cause : Nat) : Memory :=
  let f := m.meta pfn
  m.setMeta { f with poison := { block := b, lastMinor := sparse f.minors b, key := key.2, kspace := key.1, cause := cause }
                       :: f.poison.filter (fun p => p.block != b) }

/-- Blocks of a frame that read POISONED, with the cause: of HBM by their poison words, of tier SRAM by its pieces. -/
def Memory.poisonOf (m : Memory) (pfn : Nat) : List (Nat × Nat) :=
  if isHbm pfn then (m.meta pfn).poison.map (fun p => (p.block, p.cause))
  else ((m.pieces.filter (fun p => within (p * 64) (physAt pfn 0) pageSize)).map (fun p => ((p * 64 - physAt pfn 0) / 256, 2))).eraseDups

/-- Every sector of an HBM frame is written anew (R403): the counters step, and the blocks given stay poisoned (R398). -/
def Memory.rewrite (m : Memory) (key : Bool × Nat) (pfn : Nat) (bad : List (Nat × Nat)) : Memory :=
  let m1 := match (m.meta pfn).stepAll with
    | some g => m.setMeta g
    | none => m
  bad.foldl (fun m b => m.poisonBlock pfn b.1 key b.2) m1

/-- Copy a page from frame to frame. What reads POISONED in the old frame does so in the new one: the copy has nothing to deliver
for it (R391, R177; DEDUCED LOG 27); every other piece of the new frame is written whole, which clears poison that stood there (R177). -/
def Memory.copyPage (m : Memory) (key : Bool × Nat) (src dest : Nat) : Memory :=
  let bad := m.poisonOf src
  let m1 := { m with cells := copyCells m.cells (physAt src 0) (physAt dest 0) pageSize }
  if isHbm dest then m1.rewrite key dest bad
  else if isTier dest then
    let ps := if isTier src then
        (m.pieces.filter (fun p => within (p * 64) (physAt src 0) pageSize)).map (fun p => p - physAt src 0 / 64 + physAt dest 0 / 64)
      else bad.flatMap (fun b => (List.range 4).map (fun i => physAt dest 0 / 64 + b.1 * 4 + i))
    { m1 with pieces := ps ++ m1.pieces.filter (fun p => !within (p * 64) (physAt dest 0) pageSize) }
  else m1

/-- Blocks of HBM that a copy of a page between two frames moves: 8,192 for each end in HBM. -/
def copyBlocks (src dest : Nat) : Nat := (if isHbm src then 8192 else 0) + (if isHbm dest then 8192 else 0)

/-- The partition that pays for traffic under a key: that of the context whose key it is (R188). -/
def State.partOfKey (s : State) (key : Bool × Nat) : Nat :=
  if key.1 then s.partOf key.2 else match s.key? key.2 with
    | some k => s.partOf k.ctx
    | none => 0

/-- Copy a page from frame to frame: its blocks pass the write buffers and are charged (R181, R188). -/
def State.copyPage (s : State) (key : Bool × Nat) (src dest : Nat) : State :=
  let s1 := if isHbm dest then s.notePage (physAt dest 0) else s
  (s1.charge (s.partOfKey key) (copyBlocks src dest)).modMem (fun m => m.copyPage key src dest)

/-- The key field of the page, or of the object, that a frame holds. -/
def State.keyOfFrame (s : State) (pfn : Nat) : Bool × Nat :=
  match s.ctxs.findSome? (fun c => (c.pages.find? (fun p => p.hbm == some pfn || p.tier == some pfn)).map (fun p => keyOf c p)) with
  | some k => k
  | none => match s.shares.find? (fun x => x.pages.any (fun y => y.first == pfn || y.mirror == some pfn || y.tier == some pfn)) with
    | some x => if x.keyId = 0 then (true, x.ctx) else (false, x.keyId)
    | none => (false, 0)

/-- `detail` of the classes that name an address (Table 14-8): the address, this one error, and the code of the bank or subarray and row, whose
layout is open (LOG 12). -/
def errorPlace (a pa : Nat) : Nat := a + 2 ^ 64 + (Config.placeCode pa % 2 ^ 32) * 2 ^ 96

/-- The security alarm of an HBM block (R395). -/
def State.alarmHbm (s : State) (c : Ctx) (va pa : Nat) : State :=
  let s1 := { s with vault := { s.vault with alarms := s.vault.alarms + 1 } }
  s1.file { cls := .integrity, die := dieStack (pa / 2 ^ 36), stage := 8, status := .integrity, ctx := c.id, ctxGen := c.gen,
            detail := errorPlace (physWord (s.keyOfFrame (pa / pageSize)) pa) pa, detailCtx := errorPlace va pa }

/-- The security alarm of a port or of HOST (R395). -/
def State.alarmPort (s : State) (die stage port : Nat) : State :=
  let s1 := { s with vault := { s.vault with alarms := s.vault.alarms + 1 } }
  s1.file { cls := .integrity, die := die, stage := stage, status := .integrity, detail := port, detailCtx := port }

/-- A page of an object that has one copy left, on another tile than the frame given. -/
def SharePage.wants (p : SharePage) (f : Nat) : Bool := p.mirror.isNone && !p.lost && stackOf p.first / 2 != stackOf f / 2

/-- The first HBM frame that is freed restores a mirror that the empty reserve could not (R213); it must lie on another tile than the copy that
is left (R212). -/
def State.healMirror (s : State) (f : Nat) : State :=
  match s.shares.findSome? (fun x => (x.pages.findIdx? (fun p => p.wants f)).map (fun k => (x, k))) with
  | none => s
  | some (x, k) => match x.pages[k]? with
    | none => s
    | some q =>
      let key := s.keyOfFrame q.first
      let s1 := ((s.useAnyway key 8192).modMem (fun m => m.takeHbm f .mirror)).copyPage key q.first f
      (s1.modShare x.index (fun y => { y with pages := modAt y.pages k (fun p => { p with mirror := some f }) })).logShared x.index k none (some f)

/-- Retire a frame from use (R402, steps 2 to 4): it is marked, entered in the repair map, and the stack is named to the management session. -/
def State.retire (s : State) (pfn : Nat) : State :=
  ((s.modMem (fun m => (m.takeHbm pfn .retired).setMeta { m.meta pfn with retired := true })).burnRepair 7 (dieStack (stackOf pfn)) 0
    (pfn % 32768)).notice 8 0 .ok (dieStack (stackOf pfn))

/-- Can no sector of a frame be written whole again: is the major counter of one exhausted? (R397) -/
def Memory.worn (m : Memory) (f : Nat) : Bool := (m.meta f).stepAll.isNone

/-- Free an HBM frame (R199, R213): it returns to the pool, or mends a mirror. One whose next grant would exhaust a major counter is retired now
(R402; DEDUCED LOG 27). -/
def State.freeFrame (s : State) (f : Nat) : State :=
  let s1 := s.modMem (fun m => { m with cells := clearCells m.cells (physAt f 0) pageSize })
  if s.mem.worn f then s1.retire f else (s1.modMem (fun m => m.dropHbm f)).healMirror f

/-- The copy-on-write frames of a context return to the pool (R485). -/
def State.dropSnapshots (s : State) (id : Nat) : State :=
  (s.mem.hbmUse.filter (fun u => u.2 == .snapshot id)).foldl (fun s u => s.freeFrame u.1) s

/-- Replace a frame by another wherever a page or a share names it, with its content (a move, R205). -/
def State.swapFrame (s : State) (old new : Nat) : State :=
  let page (p : Page) : Page :=
    { p with hbm := if p.hbm = some old then some new else p.hbm }
  let sp (x : SharePage) : SharePage :=
    { x with first := if x.first = old then new else x.first,
             mirror := if x.mirror = some old then some new else x.mirror }
  let key := s.keyOfFrame old
  let s1 := (s.useAnyway key 8192).copyPage key old new
  { s1 with
    ctxs := s1.ctxs.map (fun c => { c with pages := c.pages.map page }),
    shares := s1.shares.map (fun x => { x with pages := x.pages.map sp }) }

/-- Take a member of the repair reserve (R213) that meets a test and, when a frame that no context has reserved remains, refill it. -/
def State.takeReserve (s : State) (ok : Nat → Bool) : Option (State × Nat) :=
  match s.mem.hbmUse.find? (fun u => u.2 == .reserve && ok u.1) with
  | none => none
  | some u =>
    let m := s.mem.takeHbm u.1 .mirror
    match ({ s with mem := m } : State).freeHbm (stackOf u.1) with
    | some f => some ({ s with mem := m.takeHbm f .reserve }, u.1)
    | none => some ({ s with mem := m }, u.1)

/-- Retire a frame whose major counter is exhausted (R402): its page moves, the frame is marked and entered in the map. -/
def State.retireFrame (s : State) (pfn : Nat) : State :=
  let u := match s.mem.hbmUse.find? (fun x => x.1 == pfn) with
    | some x => x.2
    | none => .page
  let s1 := match s.freeFor pfn with
    | some f => { s with mem := s.mem.takeHbm f u }.swapFrame pfn f
    | none => match s.takeReserve (fun f => match s.otherCopy pfn with
        | some g => stackOf f / 2 != stackOf g / 2
        | none => true) with
      | some (s', f) => { s' with mem := s'.mem.takeHbm f u }.swapFrame pfn f
      | none => s
  s1.retire pfn

/-- A key for an HBM row: stack, pseudo-channel, bank and row (Table 06-4). -/
def rowKey (pa : Nat) : Nat :=
  let o := pa % 2 ^ 36
  (pa / 2 ^ 36) * 2 ^ 40 + pseudoChannel o * 2 ^ 30 + hbmBank o * 2 ^ 20 + hbmRow o

/-- Repair an HBM row, or withdraw the frame that holds it (R453, R454). -/
def State.repairRow (s : State) (pa : Nat) : State :=
  let o := pa % 2 ^ 36
  let pfn := pa / pageSize
  let stack := pa / 2 ^ 36
  let used := (s.otp.repair.filter (fun e => field e 3 0 == 8 && field e 11 4 == dieStack stack
    && field e 21 16 == pseudoChannel o && field e 26 22 == hbmBank o)).length
  let u := match s.mem.hbmUse.find? (fun x => x.1 == pfn) with
    | some x => x.2
    | none => .page
  let moved : State × Bool := match s.freeFor pfn with
    | some f => ({ s with mem := s.mem.takeHbm f u }.swapFrame pfn f, true)
    | none => (s, false)
  if !moved.2 then s
  else if used < Config.pprResources stack (pseudoChannel o) (hbmBank o) then
    (moved.1.freeFrame pfn).burnRepair 8 (dieStack stack) 0 (pseudoChannel o + hbmBank o * 64 + hbmRow o * 2048)
  else if s.mem.countUse (fun x => x == .withdrawn) < 256 then
    let m := moved.1.mem.takeHbm pfn .withdrawn
    -- the withdrawn frame takes the place of a usable member of the reserve (R454)
    let m := match m.hbmUse.find? (fun x => x.2 == .reserve) with
      | some x => m.dropHbm x.1
      | none => m
    ({ moved.1 with mem := m } : State).burnRepair 6 (dieStack stack) 0 (pfn % 32768)
  else s.notice 2 0 .ok (dieStack stack)

/-- Count a tag failure against its row; two within 2^38 counts repair it (R453). -/
def State.rowFailure (s : State) (pa : Nat) : State :=
  let k := rowKey pa
  let again := s.mem.hbmRows.any (fun x => x.1 == k && decide (s.hub.timer < x.2 + 2 ^ 38))
  if again then
    ({ s with mem := { s.mem with hbmRows := s.mem.hbmRows.filter (fun x => x.1 != k) } } : State).repairRow pa
  else { s with mem := { s.mem with hbmRows := (k, s.hub.timer) :: s.mem.hbmRows.filter (fun x => x.1 != k) } }

/-! ### Where a page lies -/

/-- The place that serves a page. -/
inductive Place where
  | hbm (pfn : Nat)
  | tier (pfn : Nat)
  | lease (pfn : Nat)
  | lost
  deriving DecidableEq, Repr

/-- Does the key of a page stand? A page bound to a destroyed KeyID reads POISONED (R408). -/
def State.keyStands (s : State) (p : Page) : Bool :=
  p.keyId == 0 || s.vault.slots.any (fun k => k.keyId == p.keyId && !k.dying)

/-- Frame copies of a shared page in the order that serves them (R212): pinned copy, the copy on the reader's tile, the copy
on the lower stack. -/
def SharePage.place (x : SharePage) (tile : Option Nat) : Place :=
  if x.lost then .lost
  else match x.tier with
    | some t => .tier t
    | none => match x.mirror with
      | none => .hbm x.first
      | some m =>
        let at' (f : Nat) : Bool := tile == some (stackOf f / 2)
        if at' x.first && !at' m then .hbm x.first
        else if at' m && !at' x.first then .hbm m
        else if stackOf x.first ≤ stackOf m then .hbm x.first else .hbm m

/-- The place that serves a page to a core. -/
def State.placeOf (s : State) (p : Page) (core : Option Nat) : Place :=
  if p.lost || !s.keyStands p then .lost
  else match p.share with
    | some (i, k) => match s.share? i with
      | some x => match x.pages[k]? with
        | some sp => sp.place (core.map tileOf)
        | none => .lost
      | none => .lost
    | none => match p.tier, p.lease, p.hbm with
      | some t, _, _ => .tier t
      | none, some l, _ => .lease l
      | none, none, some f => .hbm f
      | none, none, none => .lost

/-- The 4 KiB units of a page that a byte range meets. -/
def unitsOf (off n : Nat) : Nat := if n = 0 then 0 else (off + n - 1) / 4096 + 1 - off / 4096

/-- Add heat for an access by a core: the 4 KiB units that it reads or writes (Table 07-2), where an access that goes on in the unit touched
last begins no new one (DEDUCED LOG 27); the accesses of a stream-once page add none (R208). -/
def Page.touch (p : Page) (core : Option Nat) (off n : Nat) : Page :=
  match core with
  | none => p
  | some k =>
    let same := p.unit == some (off / 4096) && tileOf p.toucher == tileOf k
    let q := { p with toucher := k, unit := if n = 0 then p.unit else some ((off + n - 1) / 4096) }
    if p.streamOnce then q
    else { q with heat := modAt p.heat (tileOf k) (fun h => min 0xFFFF (h + (unitsOf off n - same.toNat))) }

/-- The transfers that an engine's access to a piece takes: one for each 4 KiB unit of the page (R160; LOG 38), none in the core's own tier
slice. -/
def Place.transfers (pl : Place) (core : Option Nat) (off n : Nat) : Option (Nat × Nat) :=
  match core, pl with
  | some k, .hbm _ => some (k, unitsOf off n)
  | some k, .tier f => if tierCore f = k then none else some (k, unitsOf off n)
  | _, _ => none

/-- An engine's access takes its transfers. -/
def State.transfer (s : State) (pl : Place) (core : Option Nat) (off n : Nat) : State := match pl.transfers core off n with
  | some (k, m) => s.transfers k m
  | none => s

/-! ### Reads -/

/-- Restore the lost copy of a shared page from the reserve (R213, R475). -/
def State.mirrorRepair (s : State) (share k bad : Nat) : State :=
  match s.share? share with
  | none => s
  | some x =>
    match x.pages[k]? with
    | none => s
    | some sp =>
      let good := if sp.first = bad then sp.mirror else some sp.first
      match good with
      | none => s
      | some g =>
        -- the two copies lie on different tiles (R212)
        match s.takeReserve (fun f => stackOf f / 2 != stackOf g / 2) with
        | some (s1, f) =>
          let key := s1.keyOfFrame g
          let s1 := s1.useAnyway key 8192
          let s2 := (s1.copyPage key g f).modMem (fun m => m.dropHbm bad)
          let s3 := s2.modShare share (fun y =>
            { y with pages := modAt y.pages k (fun q => { q with first := g, mirror := some f }) })
          (s3.logShared share k (some bad) (some f)).fileFor
                     { cls := .repair, die := dieStack (stackOf bad), stage := 8, action := 7,
                       detail := x.index + x.gen * 65536 + k * 2 ^ 32, detailCtx := x.index + x.gen * 65536 + k * 2 ^ 32 }
            true (x.maps.map (fun m => m.1))
        | none =>
          let s2 := s.modShare share (fun y =>
            { y with pages := modAt y.pages k (fun q => { q with first := g, mirror := none }) })
          s2.notice 7 (x.index + x.gen * 65536) .ok (dieStack (stackOf bad))

/-- Both copies of a shared page are gone (R476): the page is poisoned, every mapping context gets a stop mark and a FAULT. -/
def State.shareLost (s : State) (share k pa : Nat) : State :=
  match s.share? share with
  | none => s
  | some x =>
    let s1 := s.modShare share (fun y => { y with pages := modAt y.pages k (fun q => { q with lost := true }) })
    let ids := x.maps.map (fun m => m.1)
    let s2 := ids.foldl (fun s id => s.modCtx id (fun c => { c with stopMark := true })) s1
    let s3 := ids.foldl (fun s id => s.modCtx id (fun c =>
      { c with queues := c.queues.map (fun q =>
          { q with recs := q.recs.map (fun r =>
              if r.phase = .waiting then { r with phase := .ended .uncorrectable 0 0 true } else r) }) })) s2
    s3.fileFor { cls := .uncorrected, die := dieStack (pa / 2 ^ 36), stage := 8, status := .uncorrectable, action := 9,
                 detail := errorPlace (physWord (s.keyOfFrame (pa / pageSize)) pa) pa, detailCtx := errorPlace 0 pa }
      true ids

/-- Poison of an SRAM piece found or met at read (R177). -/
def Memory.poisonPiece (m : Memory) (a : Nat) : Memory :=
  { m with pieces := if m.pieces.contains (a / 64) then m.pieces else (a / 64) :: m.pieces }

/-- Blocks of a byte range within a frame. -/
def blocksOf (off n : Nat) : List Nat :=
  if n = 0 then [] else (List.range ((off + n - 1) / 256 + 1 - off / 256)).map (fun i => off / 256 + i)

/-- One upset of an HBM read: a tag failure of a block in the piece (R392). Answers the failure, with its address. -/
def State.tagUpset (s : State) (c : Ctx) (p : Page) (pfn off n va : Nat) (u : Upset) : State × Option (Nat × Status) :=
  let base := va - va % pageSize
  match u with
  | .tagFail a twice =>
    if !within (a - a % 256) (base + off - off % 256) (n + off % 256) || vpage a != p.va then (s, none)
    else
      let o := a % pageSize
      let pa := physAt pfn (o - o % 256)
      if !twice then
        let s1 := s.file { cls := .corrected, die := dieStack (stackOf pfn), stage := 8, action := 1, ctx := c.id, ctxGen := c.gen,
                           detail := errorPlace (physWord (keyOf c p) pa) pa, detailCtx := errorPlace a pa }
        (s1.rowFailure pa, none)
      else match p.share with
        | some (i, k) =>
          let hasMirror := match s.share? i with
            | some x => match x.pages[k]? with
              | some sp => sp.mirror.isSome
              | none => false
            | none => false
          if hasMirror then ((s.mirrorRepair i k pfn).rowFailure pa, none)
          else (s.shareLost i k pa, some (a, .poisoned))
        | none =>
          let s1 := { s with mem := s.mem.poisonBlock pfn (o / 256) (keyOf c p) 0 }
          ((s1.alarmHbm c a pa).rowFailure pa, some (a, .integrity))
  | .bothCopies a =>
    if vpage a != p.va then (s, none)
    else match p.share with
      | some (i, k) => (s.shareLost i k (physAt pfn (a % pageSize)), some (a, .poisoned))
      | none => (s, none)
  | .sram _ _ | .window _ _ | .check _ | .rowSum _ | .column | .timeout | .fabric _ => (s, none)

/-- The row of SRAM that holds a byte, as a key: kind of Table 14-2, core, row, and bank or subarray. The place of a slice's bytes
in its tier's subarrays is not stated; a tier's share of a slice is read as 128 subarrays in address order (DEDUCED LOG 28). -/
def sramRow (a : Nat) : Nat :=
  if 2 ^ 47 ≤ a then
    let o := (a - 2 ^ 47) % 2 ^ 25
    2 * 2 ^ 48 + ((a - 2 ^ 47) / 2 ^ 25) * 2 ^ 40 + (o / 4096) * 2 ^ 16 + scratchBank o
  else
    let pfn := a / pageSize
    let o := a % 2 ^ 29
    let t := (o / 1024) * 256 + o % 256
    (3 + sliceTier o * 16) * 2 ^ 48 + tierCore pfn * 2 ^ 40 + (t / 512 % 2048) * 2 ^ 16 + (tierCore pfn % 16 * 128 + t / 2 ^ 20)

/-- Note an error of a row; one that is not corrected counts as two (R452). -/
def Memory.noteRow (m : Memory) (a now : Nat) (corrected : Bool) : Memory :=
  { m with rowErrors := List.replicate (if corrected then 1 else 2) (sramRow a, now) ++ m.rowErrors }

/-- Die of an SRAM byte: the compute die of a scratchpad, the tier's die of a slice (Table 13-8). -/
def sramDie (core stage a : Nat) : Nat := if stage = 6 then 6 + 4 * (core / 16) + sliceTier (a % 2 ^ 29) else core / 16

/-- File a record of an SRAM error and, when it is not corrected, poison the piece (R176, R177). `pa` is the address with its key field. -/
def State.sramError (s : State) (c : Ctx) (core stage a pa va : Nat) (corrected : Bool) : State :=
  let m := s.mem.noteRow a s.hub.timer corrected
  let s1 := { s with mem := if corrected then m else m.poisonPiece a }
  s1.file { cls := if corrected then .corrected else .uncorrected, die := sramDie core stage a, core := core % 16, stage := stage,
            status := if corrected then .ok else .uncorrectable, ctx := c.id, ctxGen := c.gen,
            detail := errorPlace pa a, detailCtx := errorPlace va a }

/-- One upset of a tier read. -/
def State.sramUpset (s : State) (c : Ctx) (p : Page) (pfn off n : Nat) (u : Upset) : State × Option (Nat × Status) :=
  match u with
  | .sram a corrected =>
    if vpage a != p.va || !within (a % pageSize - a % 64) (off - off % 64) (n + off % 64) then (s, none)
    else
      let pa := physAt pfn (a % pageSize)
      let s1 := s.sramError c (tierCore pfn) 6 pa (physWord (keyOf c p) pa) a corrected
      (s1, if corrected then none else some (a, .uncorrectable))
  | .tagFail _ _ | .bothCopies _ | .window _ _ | .check _ | .rowSum _ | .column | .timeout | .fabric _ => (s, none)

/-- Poisoned blocks or pieces of a place within a byte range: their addresses. -/
def Memory.poisonIn (m : Memory) (pl : Place) (off n : Nat) : List Nat :=
  match pl with
  | .hbm pfn => ((m.meta pfn).poison.filter (fun p => decide (p.block * 256 < off + n) && decide (off < p.block * 256 + 256))).map
      (fun p => p.block * 256)
  | .tier pfn => (m.pieces.filter (fun x => decide (x * 64 < physAt pfn off + n) && decide (physAt pfn off < x * 64 + 64))).map
      (fun x => x * 64 - physAt pfn 0)
  | .lease _ | .lost => []

/-- The earlier of two failures. -/
def earlier (a b : Option (Nat × Status)) : Option (Nat × Status) :=
  match a, b with
  | none, y => y
  | x, none => x
  | some x, some y => if y.1 < x.1 then some y else some x

/-- Probe the lender of a lease (R216): an XREAD under a hub entry of the Ledger, answered within 2^20 counts or not. With no entry free the probe
waits for one (R161). -/
def State.probeLease (s : State) (slot : Nat) : State :=
  match s.links.leases.find? (fun l => l.slot == slot) with
  | none => s
  | some l =>
    if l.broken || l.probe.isSome then s
    else match s.issue hubTags 4096 (.probe slot) none (some (s.hub.timer + 2 ^ 20)) with
      | none => s.modLinks (fun k => { k with leases := k.leases.map (fun x => if x.slot = slot then { x with probeDue := true } else x) })
      | some (s1, t) =>
        (s1.modLinks (fun k => { k with leases := k.leases.map (fun x =>
          if x.slot = slot then { x with probe := some s.hub.timer, probeDue := false } else x) })).sendR none l.lender
          { iop := 0x11, group := l.id, gen := l.gen, inst := t + s1.ledger.genOf t * 2 ^ 14, off := 1 }

/-- Send the probes that wait for a hub entry (R161). -/
def State.dueProbes (s : State) : State := (s.links.leases.filter (fun l => l.probeDue)).foldl (fun s l => s.probeLease l.slot) s

/-- A transfer to a lender times out (R162, R163): its entry enters quarantine, and the lender is probed (R216). -/
def State.leaseTimeout (s : State) (ctx pfn : Nat) : State :=
  let slot := (pfn - 2 ^ 25) / 512
  match s.issue hubTags 4096 (.transfer ctx slot 0) (some ctx) (some s.hub.timer) with
  | none => s.probeLease slot
  | some (s1, t) => ({ s1 with ledger := s1.ledger.expire t s.hub.timer } : State).probeLease slot

/-- The bytes of a piece, from the place that serves it. -/
def State.pieceBytes (s : State) (id : Nat) (core : Option Nat) (vp off n : Nat) : Bytes :=
  match s.ctx? id with
  | none => []
  | some c => match c.page? vp with
    | none => []
    | some p => match s.placeOf p core with
      | .hbm f | .tier f | .lease f => readCells s.mem.cells (physAt f off) n
      | .lost => List.replicate n blankByte

/-- One transfer to or from a lender (R160, R216): it takes an entry of the hub's part of the Ledger, and its frame leaves, of a read (`none`) or
with the bytes of a write. Answers the state and the tag; none while no entry is free. -/
def State.cross (s : State) (l : Lease) (va page off n : Nat) (data : Option Bytes) (deadline : Option Nat) : Option (State × Nat) :=
  (s.issue hubTags 4096 (.transfer l.ctx l.slot va) (some l.ctx) deadline).map (fun r =>
    let i : Inner := { iop := if data.isSome then 0x12 else 0x11, group := l.id, gen := l.gen, rank := page,
                       inst := r.2 + r.1.ledger.genOf r.2 * 2 ^ 14, arg := off, off := if data.isSome then 0 else ceilDiv n 256,
                       data := data.getD [] }
    (r.1.sendR (some l.ctx) l.lender i, r.2))

/-- The transfers of an access to a page on a lease: one for each 4 KiB unit, a read of whole 256-byte blocks (R160, R267). The lender's answers
are taken within the access that waits for them, and the entries are free again (DESIGN CHOICE LOG 39); a lease that is broken takes none. -/
def State.crossPiece (s : State) (va pfn off n : Nat) (data : Option Bytes) : State :=
  match s.links.leases.find? (fun l => l.slot == (pfn - 2 ^ 25) / 512) with
  | none => s
  | some l =>
    if l.broken then s
    else
      let page := (pfn - 2 ^ 25) % 512
      let cuts : List (Nat × Nat × Option Bytes) := match data with
        | some bs => (cutAt 4096 (n / 4096 + 2) off bs).map (fun x => (x.1, x.2.length, some x.2))
        | none => (List.range (unitsOf off n)).map (fun i =>
            let lo := max (off - off % 256) ((off / 4096 + i) * 4096)
            (lo, min (off + n) ((off / 4096 + i + 1) * 4096) - lo, none))
      cuts.foldl (fun s x => match s.cross l va page x.1 x.2.1 x.2.2 none with
        | some r => r.1.freeTag r.2
        | none => s) s

/-- The transfers of the move of a page to or from a lease (R205, R216): 512 of 4 KiB. The first keeps its entry until the lender answers it,
with the deadline of R162, and the move waits for it; the others are taken as they come (LOG 39). None while no entry is free (R161). -/
def State.crossPage (s : State) (l : Lease) (va : Nat) (out : Bool) : Option State :=
  match (s.ctx? l.ctx).bind (fun c => c.page? va) with
  | none => some s
  | some p =>
    let page := match p.lease with
      | some f => (f - 2 ^ 25) % 512
      | none => ((s.moves.find? (fun m => m.ctx == l.ctx && m.va == va && decide (2 ^ 25 ≤ m.dest))).map (fun m => (m.dest - 2 ^ 25) % 512)).getD 0
    let data (i : Nat) : Option Bytes := if out then some (s.pieceBytes l.ctx none va (i * 4096) 4096) else none
    match s.cross l va page 0 4096 (data 0) (some (s.hub.timer + 2 ^ 20)) with
    | none => none
    | some r => some ((List.range 511).foldl (fun s i => match s.cross l va page ((i + 1) * 4096) 4096 (data (i + 1)) none with
        | some t => t.1.freeTag t.2
        | none => s) r.1)

/-- Does the bridge fabric fail a request for a byte range of a page (R169, Table 14-3)? A core's own slice is not behind it. -/
def fabricFails (ups : List Upset) (pl : Place) (core : Option Nat) (vp off n : Nat) : Bool :=
  ups.any (fun u => match u with
    | .fabric a => vpage a == vp && within (a % pageSize) off n
    | _ => false) && (match pl with
  | .hbm _ => true
  | .tier f => core != some (tierCore f)
  | .lease _ | .lost => false)

/-- The fabric does not deliver a request: a record against the issuing unit, a core or the hub (R169). -/
def State.fabricFault (s : State) (c : Ctx) (core : Option Nat) (va : Nat) : State :=
  s.file { cls := .uncorrected, die := (core.map tileOf).getD dieHub, core := (core.map (fun n => n % 16)).getD 0xFF, stage := 9,
           status := .uncorrectable, ctx := c.id, ctxGen := c.gen, detailCtx := va }

/-- Read one piece of a page: the state after its checks, and the first failure. -/
def State.readPiece (s : State) (id : Nat) (core : Option Nat) (ups : List Upset) (vp off n : Nat) :
    State × Option (Nat × Status) :=
  match s.ctx? id with
  | none => (s, some (0, .staleGeneration))
  | some c =>
    match c.page? vp with
    | none => (s, some (vp * pageSize + off, .extent))
    | some p =>
      let va := vp * pageSize + off
      let pl := s.placeOf p core
      let s0 := (s.modPage id vp (fun q => q.touch core off n)).transfer pl core off n
      let old : Option (Nat × Status) := match leastBy (fun a => a) (s.mem.poisonIn pl off n) with
        | some a => some (vp * pageSize + max a off, .poisoned)
        | none => none
      if fabricFails ups pl core vp off n then (s0.fabricFault c core va, some (va, .uncorrectable))
      else match pl with
      | .lost => (s0, some (va, .poisoned))
      | .hbm pfn =>
        let r := ups.foldl (fun (acc : State × Option (Nat × Status)) u =>
          let t := acc.1.tagUpset c p pfn off n va u
          (t.1, earlier acc.2 t.2)) ((s0.noteRequest (stackOf pfn)).chargeCtx id (blocksOf off n).length, none)
        (r.1, earlier old r.2)
      | .tier pfn =>
        let r := ups.foldl (fun (acc : State × Option (Nat × Status)) u =>
          let t := acc.1.sramUpset c p pfn off n u
          (t.1, earlier acc.2 t.2)) (s0, none)
        (r.1, earlier old r.2)
      | .lease pfn => if ups.contains .timeout then (s0.leaseTimeout id pfn, some (va, .timeout)) else (s0.crossPiece vp pfn off n none, none)

/-- Read a region of a context's virtual space (R391, R392, R177, R212). The region is mapped: extents are checked first. -/
def State.readV (s : State) (id : Nat) (core : Option Nat) (ups : List Upset) (va n : Nat) : State × Except Status Bytes :=
  let r := (piecesOf va n).foldl (fun (acc : State × Option (Nat × Status)) pc =>
    let t := acc.1.readPiece id core ups pc.1 pc.2.1 pc.2.2
    (t.1, match acc.2 with
          | some f => some f
          | none => t.2)) (s, none)
  match r.2 with
  | some f => (r.1, .error f.2)
  | none => (r.1, .ok ((piecesOf va n).flatMap (fun pc => r.1.pieceBytes id core pc.1 pc.2.1 pc.2.2)))

/-- Read without any check: what the memory holds (the device's own bookkeeping). -/
def State.peekV (s : State) (id : Nat) (va n : Nat) : Bytes :=
  (piecesOf va n).flatMap (fun pc => s.pieceBytes id none pc.1 pc.2.1 pc.2.2)

/-! ### Writes -/

/-- Would a read of the whole page fail now? -/
def State.pageBad (s : State) (p : Page) : Bool :=
  p.lost || !s.keyStands p || (match p.frame with
    | some f => !(s.mem.poisonOf f).isEmpty
    | none => false)

/-- A write meets a snapshot page (R485). A page in tier SRAM leaves its snapshot in its reserved HBM frame; one in HBM moves to a frame of the
allowance, and its old frame holds the snapshot; else the write is held until the copy, which takes a page with a held writer first, has read
the page. The bytes of the snapshot stand in the section of the page since the cut. -/
def State.saveSnapshot (s : State) (c : Ctx) (p : Page) : State :=
  let note (s : State) (f : Ckpt → Ckpt) : State :=
    s.modCtx c.id (fun d => { d with ckpt := f { d.ckpt with torn := d.ckpt.torn || s.pageBad p } })
  let held := note s (fun k => { k with heldWrites := k.heldWrites + 1 })
  match p.tier, p.lease, p.hbm with
  | some t, _, some h => ((note s (fun k => { k with cowMoves := k.cowMoves + 1 })).useAnyway (keyOf c p) 8192).copyPage (keyOf c p) t h
  | none, none, some h =>
    if field (ofLe c.ckpt.cfg) 215 192 ≤ c.ckpt.cowUsed then held
    else match s.freeHbm (stackOf h) with
      | none => held
      | some f =>
        let s1 := (note s (fun k => { k with cowMoves := k.cowMoves + 1, cowUsed := k.cowUsed + 1 })).modMem (fun m =>
          (m.takeHbm f .page).takeHbm h (.snapshot c.id))
        ((s1.useAnyway (keyOf c p) 8192).copyPage (keyOf c p) h f).modPage c.id p.va (fun q => { q with hbm := some f })
  | _, _, _ => held

/-- A write meets a page that moves: whether it comes after the third pass of the copy, and so is held and counted (R205, R220), is time alone
(LOG 12). -/
def State.holdWrite (s : State) (id : Nat) : State :=
  let t := s.freeNat
  if t.2 % 2 = 1 then t.1.modCtx id (fun c => { c with period := { c.period with heldWrites := c.period.heldWrites + 1 } }) else t.1

/-- The blocks that a re-encryption by the write of block `b` finds failed, of those that were not poisoned: they are kept as poison words with
cause 2 (R398, step 2; no alarm is named for them, DEDUCED LOG 27). -/
def refailed (ups : List Upset) (vp : Nat) (f g : FrameMeta) (b : Nat) : List Nat :=
  let all := g.high != f.high
  if !all && sparse g.low (b / 16) == sparse f.low (b / 16) then []
  else (ups.filterMap (fun u => match u with
    | .tagFail a twice => if twice && vpage a == vp then some ((a % pageSize) / 256) else none
    | .bothCopies _ | .sram _ _ | .window _ _ | .check _ | .rowSum _ | .column | .timeout | .fabric _ => none)).filter (fun k =>
      k != b && (all || k / 16 == b / 16) && (f.poisoned? k).isNone)

/-- The counters of a frame after the write of block `b` that steps them to `g`: with the poison words of what fails meanwhile. -/
def FrameMeta.keepFailed (f g : FrameMeta) (key : Bool × Nat) (bad : List Nat) : FrameMeta :=
  { g with poison := bad.map (fun k => { block := k, lastMinor := sparse f.minors k, key := key.2, kspace := key.1, cause := 2 }) ++ g.poison }

/-- Write one HBM block of a page (R393, R394, R397): the new bytes lie at `off` within the frame. -/
def State.writeBlock (s : State) (c : Ctx) (p : Page) (ups : List Upset) (pfn off : Nat) (bs : Bytes) :
    State × Option Status :=
  let b := off / 256
  let whole := off % 256 == 0 && bs.length == 256
  let key := keyOf c p
  let f := s.mem.meta pfn
  let va := p.va * pageSize + off
  let bad := ups.any (fun u => match u with
    | .tagFail a twice => twice && vpage a == p.va && (a % pageSize) / 256 == b
    | .bothCopies _ | .sram _ _ | .window _ _ | .check _ | .rowSum _ | .column | .timeout | .fabric _ => false)
  let once := ups.any (fun u => match u with
    | .tagFail a twice => !twice && vpage a == p.va && (a % pageSize) / 256 == b
    | .bothCopies _ | .sram _ _ | .window _ _ | .check _ | .rowSum _ | .column | .timeout | .fabric _ => false)
  -- what the buffer takes and the partition pays: the blocks written, and the block read for a part of one (R181, R188)
  let finish (s : State) (g : Option FrameMeta) : State × Option Status :=
    let g := g.map (fun m => f.keepFailed m key (refailed ups p.va f m b))
    match s.useKey key (f.written g b) with
    | none => (s, some .keyExhausted)
    | some s1 =>
      let s1 := (s1.noteWrite (physAt pfn (b * 256))).chargeCtx c.id (f.written g b + (!whole).toNat)
      match g with
      | some m =>
        ({ s1 with mem := { s1.mem.setMeta m with cells := writeCells s1.mem.cells (physAt pfn off) bs } }, none)
      | none =>
        -- the major counter is exhausted: the page moves to another frame and this one is retired (R402)
        let s2 := { s1 with mem := { s1.mem with cells := writeCells s1.mem.cells (physAt pfn off) bs } }
        (s2.retireFrame pfn, none)
  match f.poisoned? b with
  | some w =>
    if whole && w.key == key.2 && w.kspace == key.1 then finish s (f.clearBlock w) else (s, some .poisoned)
  | none =>
    let pa := physAt pfn (b * 256)
    if !whole && bad then
      ((({ s with mem := s.mem.poisonBlock pfn b key 1 } : State).alarmHbm c va pa).rowFailure pa, some .integrity)
    else if !whole && once then
      let r := finish s (f.stepBlock b)
      ((r.1.file { cls := .corrected, die := dieStack (stackOf pfn), stage := 8, action := 1, ctx := c.id, ctxGen := c.gen,
                   detail := errorPlace (physWord key pa) pa, detailCtx := errorPlace va pa }).rowFailure pa, r.2)
    else finish s (f.stepBlock b)

/-- Write a run of bytes to one page. -/
def State.writePiece (s : State) (id : Nat) (core : Option Nat) (ups : List Upset) (vp off : Nat) (bs : Bytes) :
    State × Option Status :=
  match s.ctx? id with
  | none => (s, some .staleGeneration)
  | some c =>
    match c.page? vp with
    | none => (s, some .extent)
    | some p0 =>
      -- a write to a snapshot page that is not yet copied first saves the snapshot (R485)
      let s0 := s.modPage id vp (fun q => { q.touch core off bs.length with snap := false })
      let s0 := if p0.snap then s0.saveSnapshot c p0 else s0
      let p := if p0.snap then ((s0.ctx? id).bind (fun d => d.page? vp)).getD p0 else p0
      let pl := s0.placeOf p core
      let s0 := s0.transfer pl core off bs.length
      let s0 := if s.moves.any (fun m => m.ctx == id && m.va == vp && m.keyId == 0 && m.going) then s0.holdWrite id else s0
      if fabricFails ups pl core vp off bs.length then (s0.fabricFault c core (vp * pageSize + off), some .uncorrectable)
      else match pl with
      | .lost => (s0, some .poisoned)
      | .hbm pfn => (cutAt 256 (bs.length / 256 + 2) off bs).foldl (fun (acc : State × Option Status) x =>
          match acc.2 with
          | some e => (acc.1, some e)
          | none => acc.1.writeBlock c p ups pfn x.1 x.2) (s0.noteRequest (stackOf pfn), none)
      | .tier pfn => s0.writeSram (physAt pfn off) bs
      | .lease pfn =>
        if ups.contains .timeout then (s0.leaseTimeout id pfn, some .timeout)
        else ((s0.crossPiece vp pfn off bs.length (some bs)).modCells (fun cs => writeCells cs (physAt pfn off) bs), none)

/-- Write a region of a context's virtual space; stops at the first page that refuses. -/
def State.writeV (s : State) (id : Nat) (core : Option Nat) (ups : List Upset) (va : Nat) (bs : Bytes) :
    State × Option Status :=
  let r := (piecesOf va bs.length).foldl (fun (acc : State × Option Status × Bytes) pc =>
    match acc.2.1 with
    | some e => (acc.1, some e, acc.2.2)
    | none =>
      let t := acc.1.writePiece id core ups pc.1 pc.2.1 (acc.2.2.take pc.2.2)
      (t.1, t.2, acc.2.2.drop pc.2.2)) (s, none, bs)
  (r.1, r.2.1)

/-! ### Scratchpad windows (R173) -/

/-- Byte address of a window offset. -/
def windowAddr (q : Queue) (core off : Nat) : Nat := scratchBase core + q.base * 2 ^ 20 + off

/-- Read from the window of a queue on its home core (R176, R177). -/
def State.readW (s : State) (c : Ctx) (q : Queue) (core : Nat) (ups : List Upset) (off n : Nat) : State × Except Status Bytes :=
  let a := windowAddr q core off
  let r := ups.foldl (fun (acc : State × Option (Nat × Status)) u =>
    match u with
    | .window o corrected =>
      if !within (o - o % 64) (off - off % 64) (n + off % 64) then acc
      else (acc.1.sramError c core 5 (windowAddr q core o) (windowAddr q core o) 0 corrected,
            earlier acc.2 (if corrected then none else some (o, .uncorrectable)))
    | .tagFail _ _ | .bothCopies _ | .sram _ _ | .check _ | .rowSum _ | .column | .timeout | .fabric _ => acc) (s, none)
  let old := s.mem.pieces.any (fun x => decide (x * 64 < a + n) && decide (a < x * 64 + 64))
  match r.2 with
  | some f => (r.1, .error f.2)
  | none => if old then (r.1, .error .poisoned) else (r.1, .ok (readCells r.1.mem.cells a n))

/-- Write to the window of a queue. -/
def State.writeW (s : State) (q : Queue) (core off : Nat) (bs : Bytes) : State × Option Status :=
  s.writeSram (windowAddr q core off) bs

end Sys2Proof.Machine
end

