-- ==== Sys2Proof/Machine/Reply.lean ====
section
/-!
DEFINITION. Machine/Reply.lean: messages that leave on a session (R308, R314), the checks that every request meets (R321),
and the one path that a request takes from its checks to its answer (R318, R319).
-/
namespace Sys2Proof.Machine

/-! ### Sending -/

/-- The 32 bytes of a message header (Table 10-8). -/
def headerBytes (opcode : Nat) (ans dev : Bool) (ctx ctxGen tag length status arg0 : Nat) : Bytes :=
  toLe 4 (opcode + 65536 * ans.toNat + 131072 * dev.toNat) ++ toLe 2 ctx ++ toLe 2 ctxGen ++ toLe 4 tag
    ++ toLe 4 length ++ toLe 2 status ++ toLe 2 0 ++ toLe 8 arg0 ++ toLe 4 0

/-- A message cut into segments of `size` bytes (R308). -/
def segmentsOf (msg size : Nat) : Nat → Nat → Bytes → List Segment
  | 0, _, _ => []
  | fuel + 1, off, bs =>
    let d := bs.take size
    let rest := bs.drop size
    if rest.isEmpty then [{ msg := msg, off := off, slen := d.length, last := true, data := d }]
    else { msg := msg, off := off, slen := d.length, data := d } :: segmentsOf msg size fuel (off + d.length) rest

/-- Frames formed of segments, from a sequence number. -/
def framesOf (kphase : Bool) : Nat → List Segment → List SentFrame
  | _, [] => []
  | q, g :: gs => { seq := q, kphase := kphase, isClose := g.msg == 0xFFFFFFFF, seg := g } :: framesOf kphase (q + 1) gs

/-- Send as many waiting segments as the receiver's window allows (R314); segments queued before a rekey's end go under the old
phase, and the key counts the rest (R329, R417). -/
def Session.pump (x : Session) (now : Nat) : Session × List SentFrame :=
  let room := min x.tx.window 1024 - x.tx.unacked.length
  let go := x.tx.waiting.take room
  let old := min go.length x.tx.oldLeft
  let fs := framesOf (!x.tx.kphase) x.tx.seq (go.take old) ++ framesOf x.tx.kphase (x.tx.seq + old) (go.drop old)
  ({ x with tx := { x.tx with seq := x.tx.seq + go.length, waiting := x.tx.waiting.drop room,
                              unacked := x.tx.unacked ++ fs, frames := x.tx.frames + (go.length - old),
                              oldLeft := x.tx.oldLeft - old,
                              lastAdvance := if x.tx.unacked.isEmpty then now else x.tx.lastAdvance } }, fs)

/-- Queue a message on a session: it takes the next message number. -/
def Session.enqueue (x : Session) (bs : Bytes) : Session :=
  let size := 2 ^ x.segLog2
  { x with tx := { x.tx with nextMsg := x.tx.nextMsg + 1,
                             waiting := x.tx.waiting ++ segmentsOf x.tx.nextMsg size (bs.length / size + 1) 0 bs } }

/-- Change HOST. -/
def State.modHost (s : State) (f : HostPort → HostPort) : State := { s with host := f s.host }

/-- A count of HOST that holds at its largest value. -/
def hostCount (v n : Nat) : Nat := min (v + n) (2 ^ 64 - 1)

/-- May HOST send Queko frames: the device runs, the port is up, and no pause is in force (R305)? -/
def State.hostSends (s : State) : Bool := s.alive && s.host.row.isSome && !s.host.paused

/-- The headers before a Queko frame to some address and port: ECT(0), the DSCP and the PFC priority in force, and MACsec (Tables 10-2, 10-3). -/
def HostPort.hdr (h : HostPort) (peer : Nat) : HostHdr :=
  { peer := peer, dscp := h.cfg.dscp, ecn := 2, priority := if h.cfg.pfc < 8 then some h.cfg.pfc else none, sec := h.cfg.macsec && h.secured }

/-- The headers before a frame of another protocol; DSCP is of IP packets (Table 10-3). -/
def HostPort.plainHdr (h : HostPort) (f : HostFrame) : HostHdr :=
  { dscp := (match f with
      | .arp _ _ | .mka | .mkaSecured | .other => 0
      | .neighbourSolicit _ _ | .routerAdvert _ _ _ | .dhcpOffer _ _ | .dhcpAck _ _ | .dhcpDiscover | .dhcpRequest _ | .echo _ _ _ => h.cfg.dscp),
    sec := h.cfg.macsec && h.secured }

/-- A DATA or CLOSE frame of a session as it leaves: to the address from which the session was heard last (R311). -/
def State.frameOut (s : State) (x : Session) (f : SentFrame) : Out :=
  .queko (s.host.hdr x.peer) { kind := if f.isClose then 3 else 0, session := x.number, kphase := f.kphase, sgen := x.gen, seq := f.seq } f.seg

/-- Send a frame of another protocol on HOST. -/
def State.hostSay (s : State) (f : HostFrame) : State :=
  ({ s with out := s.out ++ [.host (s.host.plainHdr f) f] } : State).modHost (fun h => { h with sent := hostCount h.sent 1 })

/-- Frames that a session's requests and segments fill of the receive buffer. -/
def Session.buffered (x : Session) : Nat :=
  x.rx.held.length + x.rx.segs.length + (x.rx.mailbox.map (fun m => ceilDiv (32 + m.2.payload.length) (2 ^ x.segLog2))).sum

/-- Pause is sent while the receive buffers are more than three quarters full (R305). -/
def State.watchBuffers (s : State) : State :=
  let full := decide (s.host.cfg.pfc < 8) && decide (3072 < (s.sessions.map Session.buffered).sum)
  if full == s.host.pausing then s
  else ({ s with out := s.out ++ [.pfc s.host.cfg.pfc full] } : State).modHost (fun h => { h with pausing := full })

/-- A configuration takes effect, with its CAK (R303): a pause on the old priority is over, and MACsec is secure as far as nothing of it
changed (DEDUCED LOG 27). -/
def HostPort.apply (h : HostPort) (c : HostCfg) (cak : Nat) : HostPort :=
  { h with cfg := c, cak := cak, paused := h.paused && c.pfc == h.cfg.pfc, next := none, previous := none, pausing := false,
           secured := h.secured && c.macsec && c.xpn == h.cfg.xpn && c.ckn == h.cfg.ckn && cak == h.cak }

/-- The clients of HOST begin anew with a configuration: DHCPv4 asks for an address unless one is set, and MKA speaks until the port is
secured (Table 10-2; PRESUMED LOG 21). -/
def State.hostBegin (s : State) : State :=
  let s1 := if s.host.cfg.ip4Plen = 0 ∧ s.host.ip4Leased = 0 then s.hostSay .dhcpDiscover else s
  if s1.host.cfg.macsec && !s1.host.secured then s1.hostSay .mka else s1

/-- A configuration comes into force: pause ends on the old priority and begins, where it is due, on the new one (R305). -/
def State.setHost (s : State) (c : HostCfg) (cak : Nat) : State :=
  let s1 := if s.host.pausing then { s with out := s.out ++ [.pfc s.host.cfg.pfc false] } else s
  ((s1.modHost (fun h => h.apply c cak)).watchBuffers).hostBegin

/-- Take the configuration that waits for its answer, once that has left. A change that requires MACsec is on trial (R304). -/
def State.turnHost (s : State) : State :=
  match s.host.next with
  | none => s
  | some x =>
    if ((s.session? x.session).map (fun y => y.tx.waiting.any (fun g => g.msg == x.msg))).getD false then s
    else
      let old := (s.host.cfg, s.host.cak, s.hub.timer + 2 ^ 28)
      (s.setHost x.cfg x.cak).modHost (fun h => { h with previous := if h.cfg.macsecReq && !h.secured then some old else none })

/-- Send what a session's window allows. -/
def State.pump (s : State) (n : Nat) : State :=
  match s.session? n with
  | none => s
  | some x =>
    if !s.hostSends then s
    else
      let r := x.pump s.hub.timer
      (({ s.modSession n (fun _ => r.1) with out := s.out ++ r.2.map (s.frameOut x) } : State).modHost
        (fun h => { h with sent := hostCount h.sent r.2.length })).turnHost

/-! ### Acknowledging -/

/-- Requests of a mailbox; the other messages in it are answers to EVENT requests. -/
def RxHalf.requests (r : RxHalf) : List (Nat × Msg) := r.mailbox.filter (fun e => decide (e.1 < 65536))

/-- The window that the device offers a session (R313; its share of 4,096 frames: DEDUCED LOG 32). -/
def State.windowFor (s : State) (x : Session) : Nat :=
  if 512 ≤ x.tags.length + x.rx.requests.length then 0
  else max 16 (min 1024 (4096 / (s.sessions.filter (fun y => y.isOpen)).length))

/-- The `sack` bits (Table 10-7). -/
def RxHalf.sack (r : RxHalf) : Nat :=
  ((List.range 64).map (fun i => if r.held.any (fun h => h.seq == r.ack + 1 + i) then 2 ^ i else 0)).sum

/-- Send an ACK frame (R312). -/
def State.sendAck (s : State) (n : Nat) : State :=
  match s.session? n with
  | none => s
  | some x =>
    if !s.hostSends then s
    else
      let w := s.windowFor x
      let b : AckBody := { ack := x.rx.ack, sack := x.rx.sack, window := w, ce := x.rx.ce }
      let s1 := s.modSession n (fun y =>
        { y with rx := { y.rx with unacked := 0, ce := 0, offered := w },
                 tx := { y.tx with ackSeq := y.tx.ackSeq + 1, frames := y.tx.frames + 1 } })
      let q : QHdr := { kind := 1, session := n, kphase := x.tx.kphase, sgen := x.gen, seq := x.tx.ackSeq }
      ({ s1 with out := s1.out ++ [.ack (s.host.hdr x.peer) q b] } : State).modHost (fun h => { h with sent := hostCount h.sent 1 })

/-- An answer ends a window of 0 (R313): the device says so at once (DEDUCED LOG 32). -/
def State.reopen (s : State) (n : Nat) : State :=
  match s.session? n with
  | none => s
  | some x => if x.rx.offered == 0 && s.windowFor x != 0 then s.sendAck n else s

/-- Send a message on a session. -/
def State.send (s : State) (n : Nat) (opcode : Nat) (ans dev : Bool) (ctx ctxGen tag status arg0 : Nat) (payload : Bytes) :
    State :=
  match s.session? n with
  | none => s
  | some _ =>
    let bs := headerBytes opcode ans dev ctx ctxGen tag payload.length status arg0 ++ payload
    ({ s.modSession n (fun x => x.enqueue bs) with
        out := s.out ++ [.message n opcode ans dev ctx ctxGen tag status arg0 payload] } : State).pump n

/-! ### Answers -/

/-- What an answer says. `named` replaces the context of the request (CTX_CREATE). -/
structure Reply where
  status : Status
  arg0 : Nat := 0
  payload : Bytes := []
  named : Option (Nat × Nat) := none
  deriving DecidableEq, Repr

/-- An answer without data. -/
def Reply.of (st : Status) : Reply := { status := st }

/-- Answer a request (R318); a PENDING one keeps its tag until the final answer. -/
def State.answer (s : State) (op : Opcode) (m : Msg) (r : Reply) : State :=
  let nm := r.named.getD (m.ctx, m.ctxGen)
  let s1 := if r.status = .pending then s.modSession m.session (fun x => { x with tags := m.tag :: x.tags }) else s
  (s1.send m.session op.code true false nm.1 nm.2 m.tag r.status.code r.arg0 r.payload).reopen m.session

/-- Keep the tag of a request that is held without an answer. -/
def State.holdTag (s : State) (m : Msg) : State :=
  s.modSession m.session (fun x => { x with tags := m.tag :: x.tags })

/-- The final answer to a request answered PENDING, or the answer to one that was held (R318): the wait ends. -/
def State.finish (s : State) (w : Wait) (r : Reply) : State :=
  let s1 := { s with waits := s.waits.filter (fun x => !(x.session == w.session && x.sgen == w.sgen && x.tag == w.tag)) }
  match s1.session? w.session with
  | none => s1
  | some x =>
    if x.gen ≠ w.sgen then s1
    else ((s1.modSession w.session (fun y => { y with tags := y.tags.filter (fun t => t != w.tag) })).send
      w.session w.opcode.code true false w.ctx w.ctxGen w.tag r.status.code r.arg0 r.payload).reopen w.session

/-- Finish every wait that meets a test, in order. -/
def State.finishAll (s : State) (p : Wait → Bool) (r : Wait → Reply) : State :=
  (s.waits.filter p).foldl (fun s w => s.finish w (r w)) s

/-- Begin a wait for a request. -/
def State.await (s : State) (ses : Session) (op : Opcode) (m : Msg) (what : WaitFor) : State :=
  { s with waits := s.waits ++ [{ session := m.session, sgen := ses.gen, opcode := op, tag := m.tag, ctx := m.ctx,
                                  ctxGen := m.ctxGen, what := what }] }

/-! ### Rights -/

/-- What a tenant may not send (Table 10-9). -/
def tenantBarred : Opcode → Bool
  | .linkConfig | .hostConfig | .regulate | .powerConfig | .lcAdvance | .debugCert | .debugChallenge | .lcEnrol
  | .fwStage | .fwActivate => true
  | _ => false

/-- What the management session may send (Table 10-9). -/
def managementMay : Opcode → Bool
  | .features | .attest | .keyExchange | .heartbeat | .linkConfig | .hostConfig
  | .errRead | .telemetry | .testConfig | .powerConfig | .lcRead | .lcAdvance | .debugCert | .debugChallenge | .lcEnrol
  | .fwStage | .fwActivate | .regulate | .placeLog | .ctxReset | .ctxSuspend | .ctxResume | .mapGrant => true
  | _ => false

/-- What an observer may send (Table 10-9). -/
def observerMay : Opcode → Bool
  | .features | .keyExchange | .attest | .heartbeat | .lcRead | .telemetry => true
  | _ => false

/-- Does the role permit the opcode? (Table 10-9) -/
def Role.may : Role → Opcode → Bool
  | .tenant, op => !tenantBarred op
  | .management, op => managementMay op
  | .observer, op => observerMay op

/-- Is the opcode of the consortium family, which needs F_CONSORTIUM? (R544) -/
def consortiumFamily : Opcode → Bool
  | .policyLoad | .ownerJoin | .quorumSign | .release => true
  | _ => false

/-- Feature bits of Table 18-8. -/
def fMxfp4 : Nat := 1
def fCompat : Nat := 2
def fAudit : Nat := 3
def fLender : Nat := 4
def fConsortium : Nat := 5
def fDpNoise : Nat := 6
def fMacsec : Nat := 7
def fGenMode : Nat := 8
def fReslice : Nat := 9

/-- Has the session the feature? -/
def Session.has (x : Session) (bit : Nat) : Bool := flag x.features bit

/-- Does the session own the context? -/
def Session.owns (x : Session) (c : Ctx) : Bool := c.owner == x.number && c.ownerGen == x.gen

/-- The owner indices as which the session has joined the context (R377). -/
def Session.joinedAs (x : Session) (c : Ctx) : List Nat :=
  (c.joined.filter (fun j => j.1 == x.number && j.2.1 == x.gen)).map (fun j => j.2.2)

/-- Do the policy windows that meet a test hold a byte range, up to its end, whole? Each window may be left for another, so that as many steps as
there are windows suffice. -/
def Policy.coversTo (p : Policy) (test : PolicyWindow → Bool) (stop : Nat) : Nat → Nat → Bool
  | 0, at_ => decide (stop ≤ at_)
  | k + 1, at_ => decide (stop ≤ at_) || (match p.windows.find? (fun w => test w && within at_ w.va (w.pages * pageSize)) with
    | some w => p.coversTo test stop k (w.va + w.pages * pageSize)
    | none => false)

/-- Do the policy windows that meet a test hold a byte range whole? -/
def Policy.covers (p : Policy) (va n : Nat) (test : PolicyWindow → Bool) : Bool := p.coversTo test (va + n) p.windows.length va

/-- Does a byte range touch a policy window or the program region? -/
def Policy.touches (p : Policy) (va n : Nat) : Bool :=
  (p.windows.any (fun w => decide (va < w.va + w.pages * pageSize) && decide (w.va < va + n)))
    || (decide (va < p.progAddr + p.progPages * pageSize) && decide (p.progAddr < va + n))

/-- Does a byte range of a consortium context lie wholly within its program region? (R376) A range of no bytes breaks no rule (R17). -/
def Ctx.inProgram (c : Ctx) (space va n : Nat) : Bool :=
  !c.consortium || n == 0 || (space == 0 && (match c.policy with
    | some p => decide (p.progAddr ≤ va) && decide (va + n ≤ p.progAddr + p.progPages * pageSize)
    | none => false))

/-- The region that a bulk request names (R336). -/
def bulkRegion (op : Opcode) (m : Msg) : Nat × Nat :=
  (field m.arg0 47 0, if op = .bulkIn then m.payload.length else ofLe (slice m.payload 0 4))

/-- Rights on a consortium context (Table 11-16); any other request is denied (R378), but for OWNER_JOIN (R377) and for ATTEST, which R444 gives
to the sessions that have joined it (DEDUCED LOG 27). -/
def consortiumMay (x : Session) (c : Ctx) (op : Opcode) (m : Msg) : Bool :=
  let coord := x.owns c
  let own := x.joinedAs c
  let region := bulkRegion op m
  let kind := field (ofLe (slice m.payload 0 1)) 1 0
  match op with
  | .doorbell | .queueCreate | .queueDestroy | .fenceCreate | .fenceSignal | .fenceWait | .fenceDestroy | .groupCreate
  | .optStep | .paramExport | .backfillBind | .unmap | .pageHint | .ckptConfig | .ckptNow | .ckptRestore | .ckptVerify
  | .policyLoad | .ctxDestroy => coord
  -- kinds 2 and 3 are refused with DENIED (R376)
  | .mapGrant => (coord && kind ≤ 1) || (x.role == .management && kind == 1)
  | .bulkIn => match c.policy with
    | none => coord
    | some p => if coord then !p.touches region.1 region.2
      else own.any (fun i => p.covers region.1 region.2 (fun w => w.kind == 0 && w.owner == i))
  | .bulkOut => match c.policy with
    | none => false
    | some p => if coord then p.covers region.1 region.2 (fun w => w.kind == 1 || w.kind == 3)
      else own.any (fun i => p.covers region.1 region.2 (fun w => w.kind == 1 || w.kind == 3 || (w.kind == 2 && w.owner == i)))
  | .keyLoad | .keyDerive | .keyDestroy => !own.isEmpty
  | .quorumSign | .release => !own.isEmpty
  | .ownerJoin => true
  | .ctxSuspend | .ctxReset => coord || x.role == .management
  -- Table 11-16: the management session assigns (form 2)
  | .ctxResume => coord || (x.role == .management && kind == 2)
  | .attest => coord || !own.isEmpty
  | _ => false

/-- May the session act on the context? (case 6 of R321) -/
def mayAct (x : Session) (c : Ctx) (op : Opcode) (m : Msg) : Bool :=
  if c.consortium then consortiumMay x c op m
  else match x.role with
    | .management => match op with
      | .ctxReset | .ctxSuspend | .ctxResume | .placeLog => true
      -- the management session sets limits alone (Table 11-16)
      | .mapGrant => field (ofLe (slice m.payload 0 1)) 1 0 == 1
      | _ => false
    | .tenant => x.owns c
    | .observer => false

/-- Requests that a context with a stop mark still answers (R476). -/
def stopMarkExempt : Opcode → Bool
  | .ctxReset | .ctxDestroy | .unmap | .bulkOut | .errRead | .attest | .placeLog => true
  | _ => false

/-- Requests that run during a firmware activation (R438), or that check it themselves. -/
def updateExempt : Opcode → Bool
  | .doorbell | .bulkIn | .bulkOut | .attest | .fwStage | .fwActivate => true
  | _ => false

/-- Does the message name a context? (R317) -/
def namesCtx (op : Opcode) (m : Msg) : Bool := match op.mark with
  | .yes => true
  | .no => false
  | .opt => m.ctxGen != 0

/-- The checks of a request before its home rule, in order (R321 cases 1–6; R362; R476; R438): the first failure. -/
def State.refusalOf (s : State) (x : Session) (op : Opcode) (m : Msg) : Option Status :=
  let named := namesCtx op m
  let c? := s.ctxs.find? (fun c => c.id == m.ctx && c.gen == m.ctxGen && m.ctxGen != 0)
  match firstOf [
      (decide (m.length > 65504) || !m.fits, Status.badLength),
      (m.rsvd != 0 || m.status != 0 || (!named && (m.ctx != 0 || m.ctxGen != 0)), .reservedSet),
      (!(x.role.may op) || (consortiumFamily op && !x.has fConsortium) || x.tags.contains m.tag
        || op == .hello || op == .event, .denied)] with
  | some st => some st
  | none =>
    if !named then (if s.life.trial.isSome && !updateExempt op then some .busyUpdate else none)
    else match c? with
      | none => some .staleGeneration
      | some c => firstOf [
          (c.destroying && op != .ctxReset, .staleGeneration),
          (!mayAct x c op m, .denied),
          (c.res.state == .resetting && op != .ctxReset, .contextReset),
          (c.stopMark && !stopMarkExempt op, .uncorrectable),
          (s.life.trial.isSome && !updateExempt op, .busyUpdate)]

/-- Is the request carried out by the hub's hardware, and not by the Bursar? (R320) -/
def hubServed (code : Nat) : Bool := code == Opcode.doorbell.code || code == Opcode.bulkIn.code || code == Opcode.bulkOut.code

/-- Take a request out of its session's mailbox, when it stands there (LOG 15); the Bursar's round goes on from it (R320). -/
def State.takeMail (s : State) (op : Opcode) (m : Msg) : State :=
  ((s.modSession m.session (fun x => { x with rx := { x.rx with mailbox := dropFirst (op.code, m) x.rx.mailbox } })).modHost (fun h =>
    if hubServed op.code then h else { h with turn := m.session + 1 })).watchBuffers

/-- Does the Bursar have a request of the session to serve: is the first of its mailbox one of the Bursar's? -/
def Session.calls (x : Session) : Bool := match x.rx.requests.head? with
  | some e => !hubServed e.1
  | none => false

/-- How far a session stands behind the Bursar's round. -/
def HostPort.behind (h : HostPort) (n : Nat) : Nat := (n + 256 - h.turn % 256) % 256

/-- Is it the turn of a request: it is the first of its mailbox, or no request waits there (R319); and for one of the Bursar's, the management
session is served first and the others round robin (R320)? -/
def State.inTurn (s : State) (op : Opcode) (m : Msg) : Bool :=
  match s.session? m.session with
  | none => false
  | some x =>
    (match x.rx.requests.head? with
     | some e => e == (op.code, m)
     | none => true)
      && (hubServed op.code || x.role == .management
        || s.sessions.all (fun y => y.number == m.session || !y.calls
          || (y.role != .management && decide (s.host.behind m.session < s.host.behind y.number))))

/-- Does the device take messages, and is the session open? (R327, R34) -/
def State.listens (s : State) (n : Nat) : Bool := s.alive && (match s.session? n with
  | some x => x.isOpen
  | none => false)

/-- Is a request heard now? -/
def State.hears (s : State) (op : Opcode) (m : Msg) : Bool := s.listens m.session && s.inTurn op m

/-- The 64 bytes of control words in force (Table 06-9). -/
def State.partitionBytes (s : State) : Bytes := s.mem.partitions.flatMap (fun p => toLe 4 (p.share + p.ceiling * 65536))

/-- The 16 bytes of Table 16-3. -/
def PowerCfg.bytes (p : PowerCfg) : Bytes :=
  toLe 2 p.budget ++ toLe 2 p.vmax ++ toLe 2 p.rateTarget ++ toLe 2 p.deviceCap ++ toLe 2 p.linkBudget ++ toLe 6 0

/-- The answer to a request that R321 refuses: a status alone, but for REGULATE and POWER_CONFIG, whose every answer carries what is in
force (R191, R500). -/
def State.refusal (s : State) (op : Opcode) (st : Status) : Reply := match op with
  | .regulate => { status := st, payload := s.partitionBytes }
  | .powerConfig => { status := st, payload := s.power.next.bytes }
  | _ => .of st

/-- A request's whole way: it is heard, checked under R321, carried out by its home rule, and answered. The home rule answers
the state and the answer; none: the request is held. -/
def State.request (s : State) (op : Opcode) (m : Msg) (body : State → Session → State × Option Reply) : State :=
  if !s.hears op m then s
  else
    let s0 := s.takeMail op m
    match s0.session? m.session with
    | none => s
    | some x =>
      match s0.refusalOf x op m with
      | some st => s0.answer op m (s0.refusal op st)
      | none =>
        let r := body s0 x
        match r.2 with
        | some a => r.1.answer op m a
        | none => r.1.holdTag m

/-- A request's whole way, and what follows from it at once; from a message that is not heard nothing follows. -/
def State.requestThen (s : State) (op : Opcode) (m : Msg) (body : State → Session → State × Option Reply) (after : State → State) :
    State :=
  if !s.hears op m then s else after (s.request op m body)

/-- A home rule that needs the context of the request. -/
def withCtx (m : Msg) (body : State → Session → Ctx → State × Option Reply) (s : State) (x : Session) :
    State × Option Reply :=
  match s.ctx? m.ctx with
  | some c => body s x c
  | none => (s, some (.of .staleGeneration))

/-- A refusal changes nothing. -/
def refuse (s : State) (st : Status) : State × Option Reply := (s, some (.of st))

/-- OK without data. -/
def okay (s : State) : State × Option Reply := (s, some (.of .ok))

end Sys2Proof.Machine
end

