-- ==== Sys2Proof/Machine/Links.lean ====
section
/-!
DEFINITION. Machine/Links.lean: Rasovi ports, frames and channels: LINK_CONFIG (R260, R261), training (R258, R259, R263), SerDes
repair (R455), receipt and acknowledgement (R268–R274), port maps (R264), and the channel key exchange (R277, R415).
-/
namespace Sys2Proof.Machine

/-! ### LINK_CONFIG -/

/-- Mode of a port in a LINK_CONFIG payload. -/
def cfgMode (w p : Nat) : Nat := field w (193 + 2 * p) (192 + 2 * p)

/-- Ask the Teller of a link die for leave to bring a port up (R259), once. -/
def State.askLink (s : State) (p : Nat) : State :=
  s.modLinkTeller (p / 8) (fun t => if t.queue.contains (.port p) then t else { t with queue := t.queue ++ [.port p] })

/-- A port whose mode changes: its channels close and their keys are destroyed; it waits for leave to wake (R259, R261). -/
def State.setPortMode (s : State) (p mode : Nat) : State :=
  let s1 := s.modPort p (fun x => { x with mode := mode, isUp := false, training := none, wide := true, narrow := false, fails := 0,
                                           peer := none, far := none, paused := false, window := 0, shares := [] })
  let s2 := s1.modLinks (fun l => { l with channels := l.channels.filter (fun c => c.port != p) })
  let s3 := s2.modLinkTeller (p / 8) (fun t => t.drop (fun l => l == .port p))
  if mode = 0 then s3 else s3.askLink p

/-- LINK_CONFIG (R260–R262). A port that fell back to 800G and is named again changes its mode too (R258). -/
def doLinkConfig (m : Msg) (s : State) (x : Session) : State × Option Reply :=
  let w := ofLe (slice m.payload 0 32)
  let ord := field w 15 0
  let job := field w 31 16
  let size := field w 47 32
  let mac := field w 175 128
  let udp := field w 191 176
  match firstOf [
      (x.role != .management, Status.denied),
      (decide (m.length ≠ 32), .badLength),
      (anySet w 63 52 || anySet w 255 224, .reservedSet),
      (decide (size < ord) || anySet mac 19 0 || udp == 0
        || ((ord != s.links.ordinal || job != s.links.job || size != s.links.sizeM1) && !s.links.groups.isEmpty), .denied)] with
  | some st => refuse s st
  | none =>
    let s1 := s.modLinks (fun l => { l with ordinal := ord, job := job, sizeM1 := size, pfc := field w 51 48,
                                            ip6 := field w 127 64, mac := mac, udp := udp })
    let changed := (List.range 16).filter (fun p => match s.port? p with
      | some q => q.mode != cfgMode w p || (q.narrow && cfgMode w p != 0)
      | none => false)
    let s2 := (changed.foldl (fun s p => s.setPortMode p (cfgMode w p)) s1).reroute
    (s2.await x .linkConfig m (.links (changed.filter (fun p => cfgMode w p != 0)) 0), some (.of .pending))

/-- Send the final answer of every LINK_CONFIG whose ports have all trained or failed (R261). -/
def State.settleLinks (s : State) : State :=
  (s.waits.filter (fun w => match w.what with
    | .links [] _ => true
    | _ => false)).foldl (fun s w => s.finish w { status := .ok, arg0 := (match w.what with
      | .links _ f => f
      | _ => 0) }) s

/-- LINK_CONFIG. -/
def execLinkConfig (m : Msg) (s : State) : Host.Outcome State Fault Refusal :=
  .next (s.requestThen .linkConfig m (doLinkConfig m) State.settleLinks)

/-! ### Training -/

/-- A port has trained or failed: the requests that wait for it hear of it. -/
def Wait.trained (w : Wait) (p : Nat) (failed : Bool) : Wait := match w.what with
  | .links ps f =>
    if ps.contains p then { w with what := .links (ps.filter (fun q => q != p)) (if failed then f ||| 2 ^ p else f) } else w
  | _ => w

/-- Note the end of a training, and answer LINK_CONFIG. -/
def State.trainedPort (s : State) (p : Nat) (failed : Bool) : State :=
  ({ s with waits := s.waits.map (fun w => w.trained p failed) } : State).settleLinks

/-- The training of a port fails: it is left off, with a FAULT that names it (R259). -/
def State.trainFailed (s : State) (p cause : Nat) : State :=
  let s1 := s.modPort p (fun x => { x with isUp := false, training := none, fails := x.fails + 1, peer := none, far := none })
  let s2 := s1.modLinkTeller (p / 8) (fun t => t.drop (fun l => l == .port p))
  ((s2.notice cause p .ok (portDie p)).trainedPort p true).reroute

/-- Has another port reached an ordinal: over a cable, or over a keyed channel of its plane? (R263) -/
def State.reachedElsewhere (s : State) (p ord : Nat) : Bool :=
  (List.range 16).any (fun q => q != p && (match s.port? q with
    | some x => x.isUp && (x.peer == some ord || s.links.channels.any (fun c => c.port == q && c.peer == ord && c.keyed))
    | none => false))

/-- PORT_TRAIN_DONE (R258, R259, R263): the lanes that trained decide the mode; the peer's ordinal and mode decide whether the port
comes up and may open a channel. Several ports may reach one device (Table 09-12), so a second claim of an ordinal keeps a port down when it
comes from another device than the first: `twin` says so (R263; LOG 11). -/
def doPortTrainDone (p : Nat) (lanes : List Bool) (peer : Nat) (peerMode twin : Bool) (s : State) : State :=
  match s.port? p with
  | none => s
  | some x => match x.training with
    | none => s
    | some t0 =>
      if !s.alive || x.mode == 0 then s
      else
        let all8 := lanes.length == 8 && lanes.all (fun b => b)
        let four := if x.direct then decide (4 ≤ (lanes.filter (fun b => b)).length) else (lanes.take 4).length == 4 && (lanes.take 4).all (fun b => b)
        let falls := four && (x.narrow || !all8)
        if decide (t0 + 2 ^ 27 < s.hub.timer) || !(four || all8) then s.trainFailed p 13
        else if (twin && s.reachedElsewhere p peer) || (x.direct && peer == s.links.ordinal) then s.trainFailed p 14
        else
          let ok := peerMode == s.conf
          let s1 := s.modPort p (fun y =>
            { y with isUp := true, training := none, fails := 0, wide := !falls, narrow := y.narrow || falls,
                     peer := if y.mode = 1 ∧ ok then some peer else none,
                     discarded := if y.mode = 1 ∧ !ok then stepCount y.discarded else y.discarded })
          -- a direct port that comes up has its buffers empty: unacknowledged frames go out again (R455)
          let s2 := if falls && !x.narrow then s1.notice 12 p .ok (portDie p) else s1
          let s3 := if x.direct && ok then s2.resend p peer (fun _ => true) else s2
          (s3.trainedPort p false).reroute

/-- PORT_TRAIN_DONE. -/
def execPortTrainDone (port : Nat) (lanes : List Bool) (peerOrdinal : Nat) (peerMode twin : Bool) (s : State) :
    Host.Outcome State Fault Refusal :=
  .next (doPortTrainDone port lanes peerOrdinal peerMode twin s)

/-- The lane of a link die that a SerDes serves: the spare that replaced it, or itself. -/
def State.laneOf (s : State) (die serdes : Nat) : Option Nat :=
  match s.links.serdes.find? (fun r => r.1 == die && r.2.2 == serdes) with
  | some r => if s.links.serdes.any (fun q => q.1 == die && q.2.1 == r.2.1 && decide (r.2.2 < q.2.2)) then none else some r.2.1
  | none => if 64 ≤ serdes then none
            else if s.links.serdes.any (fun r => r.1 == die && r.2.1 == serdes) then none else some serdes

/-- SERDES_REPLACE (R257, R455): a spare takes the lane, an entry of kind 5 is burnt, a LINK record is filed, and the port trains
again: at once when it holds its leave, else when the Teller grants it one (R259); with no spare left the port falls back (R258). -/
def doSerdesReplace (die serdes codewords : Nat) (s : State) : State :=
  match s.laneOf die serdes with
  | none => s
  | some lane =>
    let p := die * 8 + lane / 8
    match s.port? p with
    | none => s
    | some x =>
      if !s.alive || decide (codewords ≤ 16 ∧ x.fails < 2) then s
      else
        let d := p + serdes * 16 + codewords * 2 ^ 32 + (x.peer.getD 0) * 2 ^ 64
        let s0 := s.file { cls := .link, die := 31 + die, stage := 10, action := 6, detail := d, detailCtx := d }
        match (List.range 4).find? (fun i => !s.links.serdes.any (fun r => r.1 == die && r.2.2 == 64 + i)) with
        | some i =>
          let s1 := (s0.modLinks (fun l => { l with serdes := l.serdes ++ [(die, lane, 64 + i)] })).burnRepair 5 (31 + die) 0 serdes
          let s2 := s1.modPort p (fun y => { y with fails := 0 })
          if x.mode == 0 then s2
          else if x.isUp || x.training.isSome then s2.retrain p
          else s2.askLink p
        | none =>
          if x.mode == 0 then s0
          else if x.direct || decide (4 ≤ lane % 8) then
            (s0.modPort p (fun y => { y with narrow := true, wide := false })).notice 12 p .ok (portDie p)
          else s0.trainFailed p 13

/-- SERDES_REPLACE. -/
def execSerdesReplace (die serdes codewords : Nat) (s : State) : Host.Outcome State Fault Refusal :=
  .next (doSerdesReplace die serdes codewords s)

/-! ### Receipt -/

/-- The checks of an outer header that stand before its order on the channel (R266, R268). That a frame of more than 4,096 data bytes, or with
bit 31 of `chan` against its class, is discarded too is DEDUCED LOG 32. -/
def State.outerBad (s : State) (o : Outer) (link : Bool) : Bool :=
  o.ver != 1 || decide (3 < o.cls) || (o.cls == 0) != link || o.rsvd != 0 || o.job != s.links.job || anySet o.chan 30 8
    || flag o.chan 31 != link || decide (4096 < o.dlen)

/-- An inner header that names no operation of its class, or a reserved field (R268, R531). -/
def innerBad (o : Outer) (i : Inner) : Bool := i.rsvd != 0 || iopClass i.iop != o.cls || i.data.length != o.dlen

/-- Deliver a frame in order: to this device, along its route, or nowhere (R264, R268). -/
def State.deliverFrame (s : State) (o : Outer) (i : Inner) : State :=
  let free (s : State) : State := s.oweCells o.port o.hop o.cls (cellsOfFrame o.dlen)
  if innerBad o i then (free s).countDiscard o.port
  else if o.dst = s.links.ordinal then s.modLinks (fun l => { l with inbox := l.inbox ++ [{ src := o.src, port := o.port, inner := i }] })
  else if (s.route o.dst).isNone then (free s).countDiscard o.port
  else (free s).sendFrom none o.src o.dst i

/-- Deliver the held frames of a switched channel that have come into order, under the key in force or the previous one. -/
def State.deliverHeld (s : State) (port peer : Nat) (old : Bool) : Nat → State
  | 0 => s
  | fuel + 1 =>
    match s.chan? port peer with
    | none => s
    | some c => match (if old then c.oldHeld else c.rxHeld).find? (fun h => h.1 == (if old then c.oldAck else c.rxAck)) with
      | none => s
      | some h =>
        let s1 := s.modChan port peer (fun c =>
          if old then { c with oldAck := c.oldAck + 1, oldHeld := c.oldHeld.filter (fun x => x.1 != h.1) }
          else { c with rxAck := c.rxAck + 1, rxHeld := c.rxHeld.filter (fun x => x.1 != h.1) })
        (s1.deliverFrame h.2.1 h.2.2).deliverHeld port peer old fuel

/-- Send one LINK frame with `nak` for the awaited frame (R271). -/
def State.sendNak (s : State) (o : Outer) (old : Bool) : State :=
  match s.chan? o.port o.hop with
  | some c => if c.nakSent then s
    else (s.modChan o.port o.hop (fun c => { c with nakSent := true })).sendLink o.port o.hop old true
  | none => s

/-- Acknowledge what has come: under the key in force, and under the previous one while frames of it come (R271, R273, R277). -/
def State.ackNow (s : State) (port peer : Nat) : State :=
  match s.chan? port peer with
  | some c =>
    let s1 := if c.oldDue then (s.modChan port peer (fun c => { c with oldDue := false })).sendLink port peer true false else s
    s1.sendLink port peer false false
  | none => s

/-- A frame of a channel has come: it counts toward the next LINK frame (R271, R273, R274). -/
def State.heardFrame (s : State) (o : Outer) (old : Bool) : State :=
  s.modChan o.port o.hop (fun c =>
    { c with rxUnacked := c.rxUnacked + 1, rxSince := if c.rxUnacked = 0 ∧ c.owed = (0, 0, 0) then s.hub.timer else c.rxSince,
             rxCe := c.rxCe + (if o.ce then 1 else 0), oldDue := c.oldDue || old })

/-- A frame is accepted: under a new key it counts toward the end of the previous one (R277), and tells the port number at the far end of a
cable. -/
def State.acceptFrame (s : State) (o : Outer) (old : Bool) : State :=
  (s.modChan o.port o.hop (fun c =>
    if old then { c with nakSent := false }
    else { c with nakSent := false, rxNew := c.rxNew + 1, oldKept := c.oldKept && decide (c.rxNew + 1 < 2 ^ 16) })).modPort o.port
    (fun x => if x.direct then { x with far := some (field o.chan 3 0) } else x)

/-- A frame whose tag fails with a valid FCS: discarded and counted, also as an authentication failure, with a security alarm (R271, R395). -/
def State.authFail (s : State) (p : Nat) : State :=
  ((s.countDiscard p).modPort p (fun x => { x with authFails := stepCount x.authFails })).alarmPort (portDie p) 10 p

/-- A frame in its order on the channel (R271, R273). -/
def State.orderFrame (s : State) (p : Port) (c : Channel) (old : Bool) (o : Outer) (i : Inner) : State :=
  let want := if old then c.oldAck else c.rxAck
  let held := if old then c.oldHeld else c.rxHeld
  if p.direct then
    if o.seq = want then
      let s1 := s.modChan o.port o.hop (fun c => if old then { c with oldAck := c.oldAck + 1 } else { c with rxAck := c.rxAck + 1 })
      (s1.acceptFrame o old).deliverFrame o i
    else if want < o.seq then (s.countDiscard o.port).sendNak o old
    else s.countDiscard o.port
  else if o.seq < want || want + 4096 ≤ o.seq || held.any (fun h => h.1 == o.seq) then s.countDiscard o.port
  else
    let s1 := s.modChan o.port o.hop (fun c =>
      if old then { c with oldHeld := c.oldHeld ++ [(o.seq, o, i)] } else { c with rxHeld := c.rxHeld ++ [(o.seq, o, i)] })
    (s1.acceptFrame o old).deliverHeld o.port o.hop old 4096

/-- A frame of a channel, judged (R268, R271, R273, R277). Version, class, outer reserved fields and job are judged before the order of frames;
the inner header and the route after it (DEDUCED LOG 32). -/
def State.judgeFrame (s : State) (p : Port) (c : Channel) (old : Bool) (o : Outer) (i : Inner) : State :=
  if !o.fcsOk then (if p.direct then (s.countDiscard o.port).sendNak o old else s.countDiscard o.port)
  else if s.outerBad o false then s.countDiscard o.port
  else if (!c.keyed || (c.oldBoot && old)) && i.iop != iopKx then s.countDiscard o.port
  else if old && !c.oldKept then s.countStale o.port
  else if !o.tagOk then (if p.direct then (s.authFail o.port).sendNak o old else s.authFail o.port)
  else s.orderFrame p c old o i

/-- RASOVI_FRAME_RECEIVE (R268, R270, R271, R273, R277): after every 16 frames received a LINK frame goes. -/
def doRasoviFrame (o : Outer) (i : Inner) (s : State) : State :=
  match s.port? o.port with
  | none => s
  | some p =>
    if !s.alive || !p.isUp then s
    else
      let s0 := (s.modPort o.port (fun x => { x with received := stepCount x.received })).openChan o.port o.hop
      match s0.chan? o.port o.hop with
      | none => s0
      | some c =>
        let old := c.keyed && o.kphase != c.rxPhase
        let s1 := (s0.heardFrame o old).judgeFrame p c old o i
        match s1.chan? o.port o.hop with
        | some d => if 16 ≤ d.rxUnacked then s1.ackNow o.port o.hop else s1
        | none => s1

/-- RASOVI_FRAME_RECEIVE. -/
def execRasoviFrameReceive (o : Outer) (i : Inner) (s : State) : Host.Outcome State Fault Refusal := .next (doRasoviFrame o i s)



/-- Does a LINK frame acknowledge a frame of its phase? -/
def linkCovers (b : LinkBody) (direct kphase : Bool) (f : RSent) : Bool :=
  f.outer.kphase == kphase && (decide (f.outer.seq < b.ack)
    || (!direct && decide (b.ack < f.outer.seq) && decide (f.outer.seq ≤ b.ack + 64) && flag b.sack (f.outer.seq - b.ack - 1)))

/-- Does a LINK frame show a frame missing: on a direct port by `nak`, on a switched one by a bit of `sack` above it? (R272, R273) -/
def linkMisses (b : LinkBody) (direct kphase : Bool) (f : RSent) : Bool :=
  f.outer.kphase == kphase && decide (b.ack ≤ f.outer.seq) && (if direct then b.nak else decide (0 < b.sack >>> (f.outer.seq - b.ack)))

/-- A LINK frame of a channel is taken: credits come back, the acknowledgement advances, and missing frames go out again (R269–R274). -/
def State.takeLink (s : State) (p : Port) (o : Outer) (b : LinkBody) (old : Bool) : State :=
  match s.chan? o.port o.hop with
  | none => s
  | some c =>
    let left := c.unacked.filter (fun f => !linkCovers b p.direct o.kphase f)
    let moved := left.length < c.unacked.length
    let s1 := s.modChan o.port o.hop (fun c =>
      { c with unacked := left, crCtrl := c.crCtrl + b.crCtrl, crData := c.crData + b.crData, crXfer := c.crXfer + b.crXfer,
               lastAdvance := if moved then s.hub.timer else c.lastAdvance, rto := if moved then 4096 else c.rto,
               rate := if p.mode = 3 ∧ !old then c.rate.pace b.ack c.txSeq b.ce else c.rate })
    (s1.resend o.port o.hop (linkMisses b p.direct o.kphase)).pumpPort o.port

/-- RASOVI_LINK_FRAME (R268–R274, R277). A LINK frame is of one hop: one for another device is discarded (DESIGN CHOICE LOG 31). -/
def doRasoviLink (o : Outer) (b : LinkBody) (s : State) : State :=
  match s.port? o.port with
  | none => s
  | some p =>
    if !s.alive || !p.isUp then s
    else
      let s0 := s.modPort o.port (fun x => { x with received := stepCount x.received })
      if !o.fcsOk || s0.outerBad o true || o.dst != s.links.ordinal || b.rsvd != 0 || (p.direct && b.sack != 0) || (!p.direct && b.nak) then
        s0.countDiscard o.port
      else match s0.chan? o.port o.hop with
        | none => s0.countDiscard o.port
        | some c =>
          let old := c.keyed && o.kphase != c.rxPhase
          if old && !c.oldKept then s0.countStale o.port
          else if !o.tagOk then s0.authFail o.port
          else (s0.acceptFrame o old).takeLink p o b old

/-- RASOVI_LINK_FRAME. -/
def execRasoviLinkFrame (o : Outer) (b : LinkBody) (s : State) : Host.Outcome State Fault Refusal := .next (doRasoviLink o b s)

/-- RASOVI_ACK_TIMER (R270, R271, R273): 256 counts with frames unacknowledged, or with credits not yet returned. -/
def execRasoviAckTimer (port peer : Nat) (s : State) : Host.Outcome State Fault Refusal :=
  .next (match s.chan? port peer with
    | some c =>
      if s.alive && (decide (0 < c.rxUnacked) || c.owed != (0, 0, 0)) && decide (c.rxSince + 256 ≤ s.hub.timer) then s.ackNow port peer
      else s
    | none => s)

/-- RASOVI_REPLAY_TIMEOUT (R272): 2^11 counts without an advance on a direct port. -/
def execRasoviReplayTimeout (port peer : Nat) (s : State) : Host.Outcome State Fault Refusal :=
  .next (match s.port? port, s.chan? port peer with
    | some p, some c =>
      if s.alive && p.direct && !c.unacked.isEmpty && decide (c.lastAdvance + 2 ^ 11 ≤ s.hub.timer) then s.resend port peer (fun _ => true)
      else s
    | _, _ => s)

/-- SWITCHED_RETRANSMIT_TIMEOUT (R273): every unacknowledged frame goes again, and the time doubles up to 2^16. -/
def execSwitchedRetransmitTimeout (port peer : Nat) (s : State) : Host.Outcome State Fault Refusal :=
  .next (match s.port? port, s.chan? port peer with
    | some p, some c =>
      if s.alive && !p.direct && !c.unacked.isEmpty && decide (c.lastAdvance + c.rto ≤ s.hub.timer) then
        (s.resend port peer (fun _ => true)).modChan port peer (fun c => { c with rto := min (2 * c.rto) 65536 })
      else s
    | _, _ => s)

/-! ### Messages between Bursars -/

/-- CTRL_MSG (R267, R531): the message in the data is handed to its handling; an opcode that is not listed is discarded. -/
def doCtrlMsg (d : Delivered) (s : State) : State :=
  if !s.alive then s
  else
    let s0 := s.takeIn d
    let r := msgOf 0 true d.inner.data
    let m := r.2.2.2
    if d.inner.iop != 0x21 || decide (r.1 < 0x0C01) || decide (0x0C08 < r.1) || decide (d.inner.data.length < 32) || !m.fits || r.2.1 || r.2.2.1
      then s0.countDiscard d.port
    else s0.modLinks (fun l => { l with ctrl := l.ctrl ++ [(d.src, r.1, m)] })

/-- CTRL_MSG. -/
def execCtrlMsg (d : Delivered) (s : State) : Host.Outcome State Fault Refusal := .next (doCtrlMsg d s)

/-- A received port map, by port (LOG 31). -/
def portMapOf (bs : Bytes) : List (Nat × Nat) :=
  (List.range 16).filterMap (fun p =>
    let w := ofLe (slice bs (4 * p) 4)
    if flag w 16 then some (p, field w 15 0) else if flag w 17 then some (p, planeMark) else none)

/-- PORT_MAP (R264): the map of the device that the message names; a change recomputes the routes, and a device newly reached gets this
device's map. -/
def doPortMap (src : Nat) (m : Msg) (s : State) : State :=
  s.ctrlMsg src .portMap m fun s0 =>
    let who := m.arg0 % 65536
    let map := portMapOf m.payload
    if m.length != 64 || who == s0.links.ordinal || s0.links.maps.contains (who, map) then s0
    else
      let s1 := (s0.modLinks (fun l => { l with maps := (who, map) :: l.maps.filter (fun x => x.1 != who) })).newRoutes
      s1.sendMap ((s1.links.routes.map (fun r => r.1)).filter (fun d => (s0.route d).isNone))

/-- PORT_MAP. -/
def execPortMap (src : Nat) (m : Msg) (s : State) : Host.Outcome State Fault Refusal := .next (doPortMap src m s)

/-! ### Channel keys -/

/-- The first message of R415 without its exchange: attestation key, boot epoch, mode and job tag (LOG 31). -/
def State.kxIdentity (s : State) : Bytes :=
  s.attestPub ++ toLe 4 s.otp.bootEpoch ++ toLe 1 s.modeCode ++ toLe 2 s.links.job

/-- Bytes of the three messages. -/
def kxFirstLen : Nat := 56 + 1568 + 57 + 4 + 1 + 2
def kxSecondLen : Nat := 56 + 1568 + 57 + 4 + 1

/-- A LINK_KX frame that waits. -/
def Links.kxFrame (l : Links) (peer : Nat) (data : Bytes) : Waiting :=
  { cls := 1, dst := peer, src := l.ordinal, inner := { iop := iopKx, data := data } }

/-- CHANNEL_KEY_EXCHANGE (R415, R417): the device of lower ordinal starts the exchange on first use, when 2^47 frames have gone under
the key, and again every 2^20 counts while it has not ended. -/
def doChannelKeyExchange (port peer : Nat) (s : State) : State :=
  match s.port? port with
  | none => s
  | some p =>
    if !s.alive || !p.isUp || decide (peer ≤ s.links.ordinal) then s
    else
      let s0 := s.openChan port peer
      match s0.chan? port peer with
      | none => s
      | some c =>
        let due := !c.keyed || decide (2 ^ 47 ≤ c.frames) || decide (2 ^ 47 ≤ c.linkFrames)
        if !due || (c.kx.stage == 1 && decide (s.hub.timer < c.kx.since + 2 ^ 20)) then s
        else
          let r := s0.draw 120
          let first := exchangeOpen r.2 ++ s.kxIdentity
          let s1 := r.1.modChan port peer (fun c =>
            { c with kx := { stage := 1, since := s.hub.timer, seed := r.2, first := first, second := [], rekey := c.keyed },
                     waiting := c.waiting ++ [s.links.kxFrame peer first] })
          s1.pumpPort port

/-- CHANNEL_KEY_EXCHANGE. -/
def execChannelKeyExchange (port peer : Nat) (s : State) : Host.Outcome State Fault Refusal := .next (doChannelKeyExchange port peer s)

/-- Queue a LINK_KX frame on a channel and send. -/
def State.sendKx (s : State) (port peer : Nat) (data : Bytes) : State :=
  (s.modChan port peer (fun c => { c with waiting := c.waiting ++ [s.links.kxFrame peer data] })).pumpPort port

/-- The channel takes its new key: `kphase` flips and the sequences start at 0; the previous key is kept for frames on their way
(R276, R277). -/
def Channel.install (c : Channel) (keyIn keyOut : Bytes) : Channel :=
  { c with keyed := true, keyIn := keyIn, keyOut := keyOut, kphase := !c.kphase, rxPhase := !c.rxPhase, oldKept := true, oldAck := c.rxAck,
           oldHeld := c.rxHeld, oldLink := c.txLink, oldDue := decide (0 < c.rxUnacked), oldBoot := !c.keyed, rxAck := 0, rxHeld := [],
           rxNew := 0, txSeq := 0, txLink := 0, frames := 0, linkFrames := 0, nakSent := false,
           rate := { c.rate with halved := 0, raised := 0 }, kx := { stage := 3 } }

/-- The 64 bytes of channel keys: lower to higher ordinal, then the other direction (R415). The parent is the X448 result followed by
the ML-KEM secret, as in R326 (DEDUCED LOG 32). -/
def channelKeys (shared hash : Bytes) : Bytes := kmac256 shared hash "RASOVI CHANNEL" 64

/-- LINK_KX (R263, R415): each message advances the exchange; a message that does not fit is discarded and counted. -/
def doLinkKx (d : Delivered) (s : State) : State :=
  if !s.alive then s
  else
    let s0 := s.takeIn d
    let data := d.inner.data
    match s0.chan? d.port d.src with
    | none => s0.countDiscard d.port
    | some c =>
      if data.length = kxFirstLen then
        -- a peer of another mode or job is refused and counted (R263)
        if decide (s.links.ordinal ≤ d.src) || slice data 1685 1 != toLe 1 s.modeCode || slice data 1686 2 != toLe 2 s.links.job then
          s0.countDiscard d.port
        else
          let r := s0.draw 88
          let second := exchangeAnswer r.2 data ++ s.attestPub ++ toLe 4 s.otp.bootEpoch ++ toLe 1 s.modeCode
          let sig := r.1.attestSign (shake256 (data ++ second) 64)
          (sig.1.modChan d.port d.src (fun c =>
            { c with kx := { stage := 2, since := s.hub.timer, seed := r.2, first := data, second := second, rekey := c.keyed } })).sendKx
            d.port d.src (second ++ sig.2)
      else if data.length = kxSecondLen + 114 ∧ c.kx.stage = 1 then
        let second := data.take kxSecondLen
        let hash := shake256 (c.kx.first ++ second) 64
        if !s0.verifies (slice second 1624 57) hash (data.drop kxSecondLen) || slice second 1685 1 != toLe 1 s.modeCode then
          s0.countDiscard d.port
        else
          let ks := channelKeys (sharedOfOpen c.kx.seed second) hash
          let sig := s0.attestSign hash
          let s1 := (sig.1.sendKx d.port d.src sig.2).modChan d.port d.src (fun c => c.install (ks.drop 32) (ks.take 32))
          s1.pumpPort d.port
      else if data.length = 114 ∧ c.kx.stage = 2 then
        let hash := shake256 (c.kx.first ++ c.kx.second) 64
        if !s0.verifies (slice c.kx.first 1624 57) hash data then s0.countDiscard d.port
        else
          let ks := channelKeys (sharedOfAnswer c.kx.seed c.kx.first) hash
          (s0.modChan d.port d.src (fun c => c.install (ks.take 32) (ks.drop 32))).pumpPort d.port
      else s0.countDiscard d.port

/-- LINK_KX. -/
def execLinkKx (d : Delivered) (s : State) : Host.Outcome State Fault Refusal := .next (doLinkKx d s)

/-- A Rasovi port stops at its key limit: it goes down, its keys are destroyed, a FAULT is raised, and it trains again (R417). -/
def State.stopPortKeys (s : State) (p : Nat) : State :=
  let s1 := s.modLinks (fun l => { l with channels := l.channels.filter (fun c => c.port != p) })
  (s1.file { cls := .link, die := portDie p, stage := 10, status := .keyExhausted, detail := p, detailCtx := p }).retrain p

end Sys2Proof.Machine
end

