-- ==== Sys2Proof/Machine/Flags.lean ====
section
/-!
DEFINITION. Machine/Flags.lean: the sticky numeric flags of Table 02-6 (R61) and their places in the flag field (R127).
-/
namespace Sys2Proof.Machine

/-- The six conditions of Table 02-6. -/
structure Flags where
  inv : Bool := false
  ovf : Bool := false
  unf : Bool := false
  inx : Bool := false
  clamp : Bool := false
  nanIn : Bool := false
  deriving DecidableEq, Repr

/-- No condition raised. -/
def Flags.none : Flags := {}

/-- The sticky union of two sets of conditions (R61). -/
def Flags.or (a b : Flags) : Flags :=
  { inv := a.inv || b.inv, ovf := a.ovf || b.ovf, unf := a.unf || b.unf,
    inx := a.inx || b.inx, clamp := a.clamp || b.clamp, nanIn := a.nanIn || b.nanIn }

/-- The union over a list. -/
def Flags.orAll (l : List Flags) : Flags := l.foldl Flags.or Flags.none

/-- The flag field, bits [5:0] of Table 04-14 (R127). -/
def Flags.word (f : Flags) : Nat :=
  f.inv.toNat + 2 * f.ovf.toNat + 4 * f.unf.toNat + 8 * f.inx.toNat + 16 * f.clamp.toNat + 32 * f.nanIn.toNat

def Flags.onlyInv : Flags := { inv := true }
def Flags.onlyOvf : Flags := { ovf := true }
def Flags.onlyInx : Flags := { inx := true }
def Flags.onlyClamp : Flags := { clamp := true }
def Flags.onlyNanIn : Flags := { nanIn := true }

end Sys2Proof.Machine
end

