-- ==== Sys2Proof/Machine/Num.lean ====
section
/-!
DEFINITION. Machine/Num.lean: the number formats of 02 (R37–R48), exact values, rounding to a word (R49–R51, R62),
P32 pairs (R44–R48) and W32 arithmetic (R63, R118). Every operation forms its exact value and rounds once.
-/
namespace Sys2Proof.Machine

/-- An exact value: NaN, an infinity, or `±mag × 2^exp`; a `mag` of 0 is a signed zero. -/
inductive XVal where
  | nan
  | inf (neg : Bool)
  | num (neg : Bool) (mag : Nat) (exp : Int)
  deriving DecidableEq, Repr

def XVal.zero (neg : Bool) : XVal := .num neg 0 0

def XVal.isNan : XVal → Bool
  | .nan => true
  | _ => false

def XVal.isInf : XVal → Bool
  | .inf _ => true
  | _ => false

def XVal.isZero : XVal → Bool
  | .num _ 0 _ => true
  | _ => false

def XVal.neg : XVal → XVal
  | .nan => .nan
  | .inf n => .inf (!n)
  | .num n m e => .num (!n) m e

def XVal.abs : XVal → XVal
  | .nan => .nan
  | .inf _ => .inf false
  | .num _ m e => .num false m e

def XVal.signBit : XVal → Bool
  | .nan => false
  | .inf n => n
  | .num n _ _ => n

/-- The signed integer of a finite value in units of `2^e`, for `e` at or below its exponent. -/
def scaledInt (neg : Bool) (mag : Nat) (exp e : Int) : Int :=
  let v : Int := (mag : Int) * 2 ^ (exp - e).toNat
  if neg then -v else v

/-- The exact value of a signed integer times `2^e`; zero takes the sign given. -/
def XVal.ofInt (v e : Int) (zeroNeg : Bool) : XVal :=
  if v = 0 then .zero zeroNeg else .num (v < 0) v.natAbs e

/-- Multiply by a power of two. -/
def XVal.shift (x : XVal) (k : Int) : XVal :=
  match x with
  | .num n m e => .num n m (e + k)
  | y => y

/-- The exact sum (IEEE 754 signs of zero under round-to-nearest), with the flags of R63. -/
def XVal.add (a b : XVal) : XVal × Flags :=
  match a, b with
  | .nan, _ => (.nan, .onlyNanIn)
  | _, .nan => (.nan, .onlyNanIn)
  | .inf x, .inf y => if x = y then (.inf x, .none) else (.nan, .onlyInv)
  | .inf x, .num .. => (.inf x, .none)
  | .num .., .inf y => (.inf y, .none)
  | .num na ma ea, .num nb mb eb =>
    let e := min ea eb
    (XVal.ofInt (scaledInt na ma ea e + scaledInt nb mb eb e) e (ma == 0 && mb == 0 && na && nb), .none)

/-- The exact product, with the flags of R63. -/
def XVal.mul (a b : XVal) : XVal × Flags :=
  match a, b with
  | .nan, _ => (.nan, .onlyNanIn)
  | _, .nan => (.nan, .onlyNanIn)
  | .inf x, .inf y => (.inf (x != y), .none)
  | .inf x, .num n m _ => if m = 0 then (.nan, .onlyInv) else (.inf (x != n), .none)
  | .num n m _, .inf y => if m = 0 then (.nan, .onlyInv) else (.inf (n != y), .none)
  | .num na ma ea, .num nb mb eb => (.num (na != nb) (ma * mb) (ea + eb), .none)

/-- `a < b` for values that are not NaN; the two zeros are equal. -/
def XVal.lt (a b : XVal) : Bool :=
  match a, b with
  | .nan, _ => false
  | _, .nan => false
  | .inf x, .inf y => x && !y
  | .inf x, .num .. => x
  | .num .., .inf y => !y
  | .num na ma ea, .num nb mb eb =>
    let e := min ea eb
    decide (scaledInt na ma ea e < scaledInt nb mb eb e)

/-- Equality of values that are not NaN; the two zeros are equal. -/
def XVal.eqv (a b : XVal) : Bool := !a.isNan && !b.isNan && !a.lt b && !b.lt a

def XVal.le (a b : XVal) : Bool := a.lt b || a.eqv b

/-- ⌊log2 |x|⌋ of a nonzero finite value. -/
def floorLog2 (mag : Nat) (exp : Int) : Int := (Nat.log2 mag : Int) + exp

/-- How a format treats its all-ones exponent. -/
inductive Special where
  | ieee    -- infinities and NaNs
  | e4m3    -- only exponent and significand all ones is NaN
  | finite  -- no infinity, no NaN
  deriving DecidableEq, Repr

/-- A float format of Table 02-2. -/
structure FloatFmt where
  expBits : Nat
  manBits : Nat
  bias : Int
  special : Special
  deriving DecidableEq, Repr

def fmtE4M3 : FloatFmt := { expBits := 4, manBits := 3, bias := 7, special := .e4m3 }
def fmtE5M2 : FloatFmt := { expBits := 5, manBits := 2, bias := 15, special := .ieee }
def fmtE2M1 : FloatFmt := { expBits := 2, manBits := 1, bias := 1, special := .finite }
def fmtBF16 : FloatFmt := { expBits := 8, manBits := 7, bias := 127, special := .ieee }
def fmtFP16 : FloatFmt := { expBits := 5, manBits := 10, bias := 15, special := .ieee }
/-- W32, the register format of R103. -/
def fmtW32 : FloatFmt := { expBits := 8, manBits := 23, bias := 127, special := .ieee }

namespace FloatFmt

/-- The exponent of the smallest normal value's unit in the last place. -/
def minUnit (f : FloatFmt) : Int := 1 - f.bias - f.manBits

/-- The largest finite value, as a magnitude in the format's encoding without sign (Table 02-2). -/
def maxWord (f : FloatFmt) : Nat :=
  match f.special with
  | .ieee => (2 ^ f.expBits - 1) * 2 ^ f.manBits - 1
  | .e4m3 => 2 ^ (f.expBits + f.manBits) - 2
  | .finite => 2 ^ (f.expBits + f.manBits) - 1

/-- The value of a magnitude word (sign bit removed). -/
def magVal (f : FloatFmt) (w : Nat) : Nat × Int :=
  let e := w / 2 ^ f.manBits
  let m := w % 2 ^ f.manBits
  if e = 0 then (m, f.minUnit) else (m + 2 ^ f.manBits, (e : Int) - 1 + f.minUnit)

/-- The value of a word of the format; every NaN encoding is accepted as NaN (R38, R39). -/
def decode (f : FloatFmt) (w : Nat) : XVal :=
  let bits := f.expBits + f.manBits
  let neg := w.testBit bits
  let mw := w % 2 ^ bits
  match f.special with
  | .ieee =>
    if mw ≥ (2 ^ f.expBits - 1) * 2 ^ f.manBits then
      if mw % 2 ^ f.manBits = 0 then .inf neg else .nan
    else .num neg (f.magVal mw).1 (f.magVal mw).2
  | .e4m3 => if mw = 2 ^ bits - 1 then .nan else .num neg (f.magVal mw).1 (f.magVal mw).2
  | .finite => .num neg (f.magVal mw).1 (f.magVal mw).2

/-- The word of a sign and a magnitude word. -/
def signed (f : FloatFmt) (neg : Bool) (mw : Nat) : Nat :=
  if neg then mw + 2 ^ (f.expBits + f.manBits) else mw

/-- The canonical NaN (R39). -/
def nanWord (f : FloatFmt) : Nat :=
  match f.special with
  | .ieee => (2 ^ f.expBits - 1) * 2 ^ f.manBits + 2 ^ (f.manBits - 1)
  | .e4m3 => 2 ^ (f.expBits + f.manBits) - 1
  | .finite => 0

/-- The word of an infinity of an IEEE-like format. -/
def infWord (f : FloatFmt) (neg : Bool) : Nat := f.signed neg ((2 ^ f.expBits - 1) * 2 ^ f.manBits)

/-- The exponent of the spacing of the format around a nonzero magnitude. -/
def unitAt (f : FloatFmt) (mag : Nat) (exp : Int) : Int :=
  max (floorLog2 mag exp - f.manBits) f.minUnit

/-- Is a magnitude above the largest finite value? -/
def above (f : FloatFmt) (mag : Nat) (exp : Int) : Bool :=
  (XVal.num false (f.magVal f.maxWord).1 (f.magVal f.maxWord).2).lt (.num false mag exp)

/-- Is a nonzero magnitude below the smallest normal value? -/
def belowNormal (f : FloatFmt) (mag : Nat) (exp : Int) : Bool := floorLog2 mag exp < 1 - f.bias

/-- The magnitude word of `n` units of `2^q`, for an `n` that the format holds at that spacing. -/
def wordOfUnits (f : FloatFmt) (n : Nat) (q : Int) : Nat :=
  -- at the least spacing the word is n itself; above it each step of q adds one exponent
  n + (q - f.minUnit).toNat * 2 ^ f.manBits

end FloatFmt

/-- A magnitude split at a unit `2^q`: whole units, and the rest as a fraction `rem / den`. -/
def splitUnits (mag : Nat) (exp q : Int) : Nat × Nat × Nat :=
  if exp ≥ q then (mag * 2 ^ (exp - q).toNat, 0, 1)
  else
    let den := 2 ^ (q - exp).toNat
    (mag / den, mag % den, den)

/-- How a value is rounded: to nearest even, or by a 16-bit draw (R49, R51). -/
inductive Rounding where
  | rne
  | sr (draw : Nat)
  deriving DecidableEq, Repr

/-- Does rounding go away from zero? -/
def roundsUp (r : Rounding) (n rem den : Nat) : Bool :=
  match r with
  | .rne => decide (2 * rem > den) || (decide (2 * rem = den) && n % 2 == 1)
  | .sr d => decide (d < rem * 65536 / den)

/-- Round a finite value to a word of a format, saturating (R51, R62): the magnitude above the largest finite value becomes
it, with OVF. -/
def narrowFinite (f : FloatFmt) (r : Rounding) (neg : Bool) (mag : Nat) (exp : Int) : Nat × Flags :=
  if mag = 0 then (f.signed neg 0, .none)
  else if f.above mag exp then (f.signed neg f.maxWord, { ovf := true, inx := true })
  else
    let q := f.unitAt mag exp
    let (n, rem, den) := splitUnits mag exp q
    let n' := if roundsUp r n rem den then n + 1 else n
    (f.signed neg (min (f.wordOfUnits n' q) f.maxWord),
      { inx := rem != 0, unf := rem != 0 && f.belowNormal mag exp })

/-- Narrow any value to a word of a format (Table 02-7). -/
def narrow (f : FloatFmt) (r : Rounding) (x : XVal) : Nat × Flags :=
  match x with
  | .nan => (f.nanWord, .onlyNanIn)
  | .inf n =>
    match f.special with
    | .ieee => (f.infWord n, .none)
    | _ => (f.signed n f.maxWord, { ovf := true, inx := true })
  | .num n m e => narrowFinite f r n m e

/-- Round a value to a format by IEEE 754 (overflow becomes an infinity): W32 arithmetic, R118. -/
def ieeeRound (f : FloatFmt) (x : XVal) : Nat × Flags :=
  match x with
  | .nan => (f.nanWord, .none)
  | .inf n => (f.infWord n, .none)
  | .num neg mag exp =>
    if mag = 0 then (f.signed neg 0, .none)
    else
      let q := f.unitAt mag exp
      let (n, rem, den) := splitUnits mag exp q
      let n' := if roundsUp .rne n rem den then n + 1 else n
      let w := f.wordOfUnits n' q
      if w > f.maxWord then (f.infWord neg, { ovf := true, inx := true })
      else (f.signed neg w, { inx := rem != 0, unf := rem != 0 && f.belowNormal mag exp })

/-- Round a magnitude to BF16 toward +∞; above the largest finite value it is +Inf (R57). -/
def bf16Ceil (mag : Nat) (exp : Int) : Nat :=
  if mag = 0 then 0
  else if fmtBF16.above mag exp then fmtBF16.infWord false
  else
    let q := fmtBF16.unitAt mag exp
    let (n, rem, _) := splitUnits mag exp q
    fmtBF16.wordOfUnits (if rem = 0 then n else n + 1) q

/-! ### The P32 pair -/

/-- A BF16 head and a signed 16-bit tail (R44). -/
structure Pair where
  head : Word16
  tail : Word16
  deriving DecidableEq, Repr

/-- The exponent of the tail unit of a head: `max(E, 1) − 150`. -/
def tailExp (head : Nat) : Int := (max (field head 14 7) 1 : Nat) - 150

/-- The value of a pair (R44). -/
def Pair.val (p : Pair) : XVal :=
  match fmtBF16.decode p.head.toNat with
  | .num n m _ =>
    let u := tailExp p.head.toNat
    -- one unit in the last place of the head is 2^16 tail units
    let h : Int := if n then -((m : Int) * 65536) else (m : Int) * 65536
    XVal.ofInt (h + p.tail.toInt) u n
  | x => x

/-- The upper end of the canonical tail range (Table 02-3). -/
def tailHi (head : Nat) : Int :=
  if head ≥ 0x8000 ∧ field head 14 7 ≥ 2 ∧ field head 6 0 = 0 then 16383 else 32767

/-- The lower end of the canonical tail range (Table 02-3). -/
def tailLo (head : Nat) : Int :=
  if head < 0x8000 ∧ field head 14 7 ≥ 2 ∧ field head 6 0 = 0 then -16384 else -32768

/-- Is a pair canonical (R45)? -/
def Pair.canonical (p : Pair) : Bool :=
  match fmtBF16.decode p.head.toNat with
  | .nan => p.tail == 0
  | .inf _ => p.tail == 0
  | .num .. => decide (tailLo p.head.toNat ≤ p.tail.toInt) && decide (p.tail.toInt ≤ tailHi p.head.toNat)

/-- The nearest BF16 to a finite value below the overflow bound of R47, ties toward +∞. -/
def bf16Nearest (neg : Bool) (mag : Nat) (exp : Int) : Nat :=
  let q := fmtBF16.unitAt mag exp
  let (n, rem, den) := splitUnits mag exp q
  let up := decide (2 * rem > den) || (decide (2 * rem = den) && !neg)
  fmtBF16.signed neg (min (fmtBF16.wordOfUnits (if up then n + 1 else n) q) fmtBF16.maxWord)

/-- Round half to even of a signed integer over a power of two. -/
def roundHalfEven (v : Int) (den : Nat) : Int :=
  let n := v.natAbs / den
  let rem := v.natAbs % den
  let n' : Nat := if roundsUp .rne n rem den then n + 1 else n
  if v < 0 then -(n' : Int) else n'

/-- `round_half_even((x − h) / tail_unit(h))` of R47. -/
def tailOf (neg : Bool) (mag : Nat) (exp : Int) (head : Nat) : Int :=
  let u := tailExp head
  match (fmtBF16.decode head) with
  | .num hn hm _ =>
    let h : Int := if hn then -((hm : Int) * 65536) else (hm : Int) * 65536
    let e := min exp u
    let x := scaledInt neg mag exp e
    roundHalfEven (x - h * 2 ^ (u - e).toNat) (2 ^ (u - e).toNat)
  | _ => 0

/-- The next BF16 toward +∞. -/
def bf16Next (h : Nat) : Nat :=
  if h = 0x8000 then 1 else if h > 0x8000 then h - 1 else h + 1

/-- A finite exact value at or above this becomes an infinity: `bf16_max + 2^119`. -/
def pairOverflows (mag : Nat) (exp : Int) : Bool := (XVal.num false 511 119).le (.num false mag exp)

/-- `p32_round` of R47, with the flags of R48. -/
def p32Round (x : XVal) : Pair × Flags :=
  match x with
  | .nan => ({ head := 0x7FC0, tail := 0 }, .none)
  | .inf n => ({ head := BitVec.ofNat 16 (fmtBF16.infWord n), tail := 0 }, .none)
  | .num neg mag exp =>
    if mag = 0 then ({ head := BitVec.ofNat 16 (fmtBF16.signed neg 0), tail := 0 }, .none)
    else if pairOverflows mag exp then
      ({ head := BitVec.ofNat 16 (fmtBF16.infWord neg), tail := 0 }, { ovf := true, inx := true })
    else
      let h := bf16Nearest neg mag exp
      let t := tailOf neg mag exp h
      let p : Pair :=
        if t > tailHi h then
          if h = 0x7F7F ∨ h = 0xFF7F then { head := BitVec.ofNat 16 h, tail := BitVec.ofInt 16 (tailHi h) }
          else
            let h' := bf16Next h
            { head := BitVec.ofNat 16 h', tail := BitVec.ofInt 16 (tailOf neg mag exp h') }
        else { head := BitVec.ofNat 16 h, tail := BitVec.ofInt 16 t }
      let inexact := !(p.val.eqv x)
      (p, { inx := inexact, unf := inexact && decide (floorLog2 mag exp < -126) })

/-- The compensated addition: `p32_round` of a pair plus an exact value. -/
def Pair.add (p : Pair) (x : XVal) : Pair × Flags :=
  let (v, f) := p.val.add x
  let (q, g) := p32Round v
  (q, f.or g)

/-- The pair +0. -/
def Pair.zero : Pair := { head := 0, tail := 0 }

/-- The 32-bit word of a pair in P32I (Table 02-4). -/
def Pair.word (p : Pair) : Nat := p.head.toNat + 65536 * p.tail.toNat

/-- The pair of a P32I word. -/
def Pair.ofWord (w : Nat) : Pair := { head := BitVec.ofNat 16 w, tail := BitVec.ofNat 16 (w / 65536) }

/-! ### W32 arithmetic of the program block (R117, R118) -/

/-- The value of a W32 register; NaN registers are canonical (R103). -/
def w32Val (w : Word32) : XVal := fmtW32.decode w.toNat

/-- The W32 word of an exact value, rounded to nearest even. -/
def w32Round (x : XVal) : Word32 × Flags :=
  let (w, f) := ieeeRound fmtW32 x
  (BitVec.ofNat 32 w, f)

def w32Nan : Word32 := 0x7FC00000#32
def w32One : Word32 := 0x3F800000#32

def w32Add (a b : Word32) : Word32 × Flags :=
  let (v, f) := (w32Val a).add (w32Val b)
  let (w, g) := w32Round v
  (w, f.or g)

def w32Sub (a b : Word32) : Word32 × Flags :=
  let (v, f) := (w32Val a).add (w32Val b).neg
  let (w, g) := w32Round v
  (w, f.or g)

def w32Mul (a b : Word32) : Word32 × Flags :=
  let (v, f) := (w32Val a).mul (w32Val b)
  let (w, g) := w32Round v
  (w, f.or g)

/-- `a × b + c` rounded once. A NaN operand gives NAN_IN alone, over `0 × Inf` too (R63). -/
def w32Fma (a b c : Word32) : Word32 × Flags :=
  if (w32Val a).isNan || (w32Val b).isNan || (w32Val c).isNan then (w32Nan, .onlyNanIn)
  else
    let (p, f) := (w32Val a).mul (w32Val b)
    let (v, g) := p.add (w32Val c)
    let (w, h) := if p.isNan then (w32Nan, Flags.none) else w32Round v
    (w, (f.or (if p.isNan then .none else g)).or h)

/-- Order of R63 and IEEE 754-2019: −0 below +0. -/
def XVal.minOrder (a b : XVal) : Bool := a.lt b || (a.eqv b && a.signBit && !b.signBit)

/-- Minimum: the non-NaN operand when one is NaN, with NAN_IN (R63). -/
def w32Min (a b : Word32) : Word32 × Flags :=
  match (w32Val a).isNan, (w32Val b).isNan with
  | true, true => (w32Nan, .onlyNanIn)
  | true, false => (b, .onlyNanIn)
  | false, true => (a, .onlyNanIn)
  | false, false => (if (w32Val b).minOrder (w32Val a) then b else a, .none)

def w32Max (a b : Word32) : Word32 × Flags :=
  match (w32Val a).isNan, (w32Val b).isNan with
  | true, true => (w32Nan, .onlyNanIn)
  | true, false => (b, .onlyNanIn)
  | false, true => (a, .onlyNanIn)
  | false, false => (if (w32Val a).minOrder (w32Val b) then b else a, .none)

def w32Abs (a : Word32) : Word32 := if (w32Val a).isNan then w32Nan else a &&& 0x7FFFFFFF#32

def w32Neg (a : Word32) : Word32 := if (w32Val a).isNan then w32Nan else a ^^^ 0x80000000#32

def w32CopySign (a b : Word32) : Word32 :=
  if (w32Val a).isNan then w32Nan
  else if (w32Val b).isNan then a &&& 0x7FFFFFFF#32
  else (a &&& 0x7FFFFFFF#32) ||| (b &&& 0x80000000#32)

/-- Round a finite value to an integer with a given rule; `up` says whether the fraction goes away from zero. -/
def toIntegral (neg : Bool) (mag : Nat) (exp : Int) (up : Nat → Nat → Nat → Bool) : XVal :=
  let (n, rem, den) := splitUnits mag exp 0
  .num neg (if up n rem den then n + 1 else n) 0

/-- FRINT: to an integer, ties to even. -/
def w32Rint (a : Word32) : Word32 × Flags :=
  match w32Val a with
  | .nan => (w32Nan, .onlyNanIn)
  | .inf _ => (a, .none)
  | .num n m e => ((w32Round (toIntegral n m e (roundsUp .rne))).1, .none)

/-- FFLOOR: the largest integer at or below. -/
def w32Floor (a : Word32) : Word32 × Flags :=
  match w32Val a with
  | .nan => (w32Nan, .onlyNanIn)
  | .inf _ => (a, .none)
  | .num n m e => ((w32Round (toIntegral n m e (fun _ rem _ => n && rem != 0))).1, .none)

/-- The integer of FRINT of a finite value, held within a range. -/
def heldRint (neg : Bool) (mag : Nat) (exp lo hi : Int) : Int :=
  let (n, rem, den) := splitUnits mag exp 0
  let k : Nat := if roundsUp .rne n rem den then n + 1 else n
  max lo (min hi (if neg then -(k : Int) else k))

/-- FSCALE: `a × 2^FRINT(b)`, the exponent held within [−300, 300]. -/
def w32Scale (a b : Word32) : Word32 × Flags :=
  match w32Val a, w32Val b with
  | .nan, _ => (w32Nan, .onlyNanIn)
  | _, .nan => (w32Nan, .onlyNanIn)
  | x, .inf n => w32Round (x.shift (if n then -300 else 300))
  | x, .num n m e => w32Round (x.shift (heldRint n m e (-300) 300))

/-- FCMP conditions 0–4 (Table 04-9). -/
def w32Cmp (cond : Nat) (a b : Word32) : Bool × Flags :=
  let x := w32Val a
  let y := w32Val b
  let un := x.isNan || y.isNan
  let r := match cond with
    | 0 => x.lt y
    | 1 => x.le y
    | 2 => x.eqv y
    | 3 => !(x.eqv y)
    | _ => un
  (r, if un then .onlyNanIn else .none)

/-- Integer square root, by bits from the top. -/
def isqrtAux : Nat → Nat → Nat → Nat
  | 0, _, r => r
  | k + 1, n, r =>
    let r' := r + 2 ^ k
    isqrtAux k n (if r' * r' ≤ n then r' else r)

def isqrt (n : Nat) : Nat := isqrtAux (Nat.log2 n / 2 + 1) n 0

/-- A value close enough to the square root of `mag × 2^exp` to round like it: 40 or more bits, with a sticky bit. -/
def sqrtSticky (mag : Nat) (exp : Int) : XVal :=
  -- make the exponent even and the magnitude at least 2^128
  let k : Nat := 128 + (exp % 2).toNat
  let m := mag * 2 ^ k
  let r := isqrt m
  .num false (2 * r + if r * r = m then 0 else 1) ((exp - k) / 2 - 1)

/-- SQRT, correctly rounded (Table 04-10). -/
def w32Sqrt (a : Word32) : Word32 × Flags :=
  match w32Val a with
  | .nan => (w32Nan, .onlyNanIn)
  | .inf true => (w32Nan, .onlyInv)
  | .inf false => (a, .none)
  | .num n m e =>
    if m = 0 then (a, .none)
    else if n then (w32Nan, .onlyInv)
    else w32Round (sqrtSticky m e)

/-- A value close enough to the quotient of two finite values to round like it. -/
def divSticky (na : Bool) (ma : Nat) (ea : Int) (nb : Bool) (mb : Nat) (eb : Int) : XVal :=
  let m := ma * 2 ^ (128 + Nat.log2 mb)
  let q := m / mb
  .num (na != nb) (2 * q + if m % mb = 0 then 0 else 1) (ea - eb - 128 - Nat.log2 mb - 1)

/-- W32 division, rounded to nearest even; used by the optimiser step (R238). -/
def w32Div (a b : Word32) : Word32 × Flags :=
  match w32Val a, w32Val b with
  | .nan, _ => (w32Nan, .onlyNanIn)
  | _, .nan => (w32Nan, .onlyNanIn)
  | .inf _, .inf _ => (w32Nan, .onlyInv)
  | .inf x, .num n _ _ => w32Round (.inf (x != n))
  | .num n _ _, .inf y => w32Round (.zero (n != y))
  | .num na ma ea, .num nb mb eb =>
    if mb = 0 then
      if ma = 0 then (w32Nan, .onlyInv) else ((w32Round (.inf (na != nb))).1, .onlyOvf)
    else if ma = 0 then w32Round (.zero (na != nb))
    else w32Round (divSticky na ma ea nb mb eb)

/-- The exact W32 of a natural number below 2^24, and the nearest above. -/
def w32OfNat (n : Nat) : Word32 := (w32Round (.num false n 0)).1

/-- Is a W32 finite? -/
def w32Finite (w : Word32) : Bool :=
  match w32Val w with
  | .num .. => true
  | _ => false

/-! ### Storage formats (Table 03-4) -/

/-- The format codes 0–8 of Table 03-4. -/
inductive Fmt where
  | e4m3 | e5m2 | mxE4M3 | mxE5M2 | mxfp4 | bf16 | fp16 | p32i | p32s
  deriving DecidableEq, Repr

def Fmt.ofCode : Nat → Option Fmt
  | 0 => some .e4m3 | 1 => some .e5m2 | 2 => some .mxE4M3 | 3 => some .mxE5M2 | 4 => some .mxfp4
  | 5 => some .bf16 | 6 => some .fp16 | 7 => some .p32i | 8 => some .p32s | _ => none

def Fmt.code : Fmt → Nat
  | .e4m3 => 0 | .e5m2 => 1 | .mxE4M3 => 2 | .mxE5M2 => 3 | .mxfp4 => 4
  | .bf16 => 5 | .fp16 => 6 | .p32i => 7 | .p32s => 8

def Fmt.isMx : Fmt → Bool
  | .mxE4M3 | .mxE5M2 | .mxfp4 => true
  | _ => false

def Fmt.isPair : Fmt → Bool
  | .p32i | .p32s => true
  | _ => false

/-- A word format: one word per element, with no block scale. -/
def Fmt.isWord : Fmt → Bool
  | .e4m3 | .e5m2 | .bf16 | .fp16 => true
  | _ => false

/-- The float format of an element (of a word format or of the elements of a block). -/
def Fmt.elem : Fmt → FloatFmt
  | .e4m3 | .mxE4M3 => fmtE4M3
  | .e5m2 | .mxE5M2 => fmtE5M2
  | .mxfp4 => fmtE2M1
  | .fp16 => fmtFP16
  | _ => fmtBF16

/-- Element size in half bytes: `z` of R111 doubled. -/
def Fmt.half : Fmt → Nat
  | .e4m3 | .e5m2 | .mxE4M3 | .mxE5M2 => 2
  | .mxfp4 => 1
  | .bf16 | .fp16 | .p32s => 4
  | .p32i => 8

/-- Divisor `s` of the scale array (Table 03-4). -/
def Fmt.scaleDiv : Fmt → Nat
  | .mxfp4 => 16
  | _ => 32

/-- `emax` of R43. -/
def Fmt.emax : Fmt → Int
  | .mxE4M3 => 8
  | .mxE5M2 => 15
  | _ => 2

end Sys2Proof.Machine
end

