-- ==== Sys2Proof/Machine/Scale.lean ====
section
/-!
DEFINITION. Machine/Scale.lean: scale slots (R55–R60): layout, reads, merges of magnitudes, and the advance.
-/
namespace Sys2Proof.Machine

/-- A scale slot (Table 02-5). -/
structure ScaleSlot where
  scaleExp : Nat := 0x7F
  fmt : Nat := 0
  margin : Nat := 0
  frozen : Bool := false
  ovfSeen : Bool := false
  histCount : Nat := 0
  histPos : Nat := 0
  pendingAmax : Nat := 0
  advances : Nat := 0
  hist : List Nat := List.replicate 16 0
  deriving DecidableEq, Repr

/-- The slot that 64 bytes hold. -/
def ScaleSlot.ofBytes (bs : Bytes) : ScaleSlot :=
  let w := ofLe (slice bs 0 8)
  { scaleExp := field w 7 0, fmt := field w 10 8, margin := field w 12 11, frozen := flag w 13, ovfSeen := flag w 14,
    histCount := field w 20 16, histPos := field w 27 24, pendingAmax := field w 47 32, advances := field w 63 48,
    hist := (List.range 16).map (fun k => ofLe (slice bs (32 + 2 * k) 2)) }

/-- The 64 bytes of a slot. -/
def ScaleSlot.bytes (x : ScaleSlot) : Bytes :=
  toLe 8 (x.scaleExp + x.fmt * 2 ^ 8 + x.margin * 2 ^ 11 + x.frozen.toNat * 2 ^ 13 + x.ovfSeen.toNat * 2 ^ 14
    + x.histCount * 2 ^ 16 + x.histPos * 2 ^ 24 + x.pendingAmax * 2 ^ 32 + x.advances * 2 ^ 48)
    ++ toLe 24 0 ++ x.hist.flatMap (toLe 2)

/-- The slot of a new table (R55). -/
def ScaleSlot.new : ScaleSlot := {}

/-- The scale's exponent: 0xFF is read as 0x7F (Table 02-5). -/
def ScaleSlot.exp (x : ScaleSlot) : Int := (if x.scaleExp = 0xFF then 0x7F else x.scaleExp : Nat) - 127

/-- Largest finite magnitude of a stored format: E4M3, E5M2, FP16 (R58). -/
def slotMax : Nat → Nat
  | 0 => 448
  | 1 => 57344
  | _ => 65504

/-- ⌊log2(p / (m × 2^e))⌋ for positive `p` and `m`. -/
def floorLog2Ratio (p m : Nat) (e : Int) : Int :=
  let d : Int := (Nat.log2 p : Int) - Nat.log2 m
  let fits : Bool := if 0 ≤ d then decide (m * 2 ^ d.toNat ≤ p) else decide (m ≤ p * 2 ^ (-d).toNat)
  (if fits then d else d - 1) - e

/-- `scale_exp` from the history (R58, step 2). -/
def ScaleSlot.newExp (x : ScaleSlot) : Nat :=
  let a := (x.hist.take x.histCount).foldl max 0
  if a = 0 then x.scaleExp
  else match fmtBF16.decode a with
    | .num _ mag e =>
      if mag = 0 then x.scaleExp
      else
        let s := floorLog2Ratio (slotMax x.fmt) mag e - x.margin
        (max (-127) (min 127 s) + 127).toNat
    | .inf _ | .nan => 0

/-- The advance (R58). -/
def ScaleSlot.advance (x : ScaleSlot) : ScaleSlot :=
  let y := { x with hist := x.hist.set x.histPos x.pendingAmax, histPos := (x.histPos + 1) % 16,
                    histCount := min 16 (x.histCount + 1) }
  { y with scaleExp := if x.frozen then x.scaleExp else y.newExp,
           pendingAmax := 0, ovfSeen := false, advances := hold 0xFFFF (x.advances + 1) }

/-- Merge a magnitude, as a BF16 word, and the overflow mark (R57, R60). -/
def ScaleSlot.merge (x : ScaleSlot) (amax : Nat) (ovf : Bool) : ScaleSlot :=
  { x with pendingAmax := max x.pendingAmax amax, ovfSeen := x.ovfSeen || ovf }

/-- Address of a slot (R350). -/
def Ctx.slotAddr (c : Ctx) (i : Nat) : Nat := c.scaleAddr + 64 * i

/-- Read a slot, with the checks of its memory (R543). -/
def State.readSlot (s : State) (id : Nat) (ups : List Upset) (i : Nat) : State × Except Status ScaleSlot :=
  match s.ctx? id with
  | none => (s, .error .staleGeneration)
  | some c =>
    let r := s.readV id none ups (c.slotAddr i) 64
    match r.2 with
    | .error e => (r.1, .error e)
    | .ok bs => (r.1, .ok (ScaleSlot.ofBytes bs))

/-- What a slot holds, without checks. -/
def State.peekSlot (s : State) (id i : Nat) : ScaleSlot := match s.ctx? id with
  | some c => ScaleSlot.ofBytes (s.peekV id (c.slotAddr i) 64)
  | none => .new

/-- Write a slot: the device's own write to the table's pages. -/
def State.putSlot (s : State) (id i : Nat) (x : ScaleSlot) : State × Option Status := match s.ctx? id with
  | some c => s.writeV id none [] (c.slotAddr i) x.bytes
  | none => (s, some .staleGeneration)

/-- Merge a magnitude into a slot. -/
def State.mergeSlot (s : State) (id i amax : Nat) (ovf : Bool) : State :=
  (s.putSlot id i ((s.peekSlot id i).merge amax ovf)).1

/-- Advance a slot of a context, if the table has it (R58, R136). -/
def State.advanceSlot (s : State) (id i : Nat) : State := match s.ctx? id with
  | some c => if i < c.scaleN then (s.putSlot id i (s.peekSlot id i).advance).1 else s
  | none => s

/-- The fields that SCALE_SET writes (R140). -/
structure ScaleWrite where
  scaleExp : Nat
  fmt : Nat
  margin : Nat
  frozen : Bool
  wmask : Nat
  clearHist : Bool
  deriving DecidableEq, Repr

/-- One slot under SCALE_SET: the selected fields, and the history when it is cleared; `advances` stands. -/
def ScaleSlot.set (x : ScaleSlot) (w : ScaleWrite) : ScaleSlot :=
  let y := { x with scaleExp := if flag w.wmask 0 then w.scaleExp else x.scaleExp,
                    fmt := if flag w.wmask 1 then w.fmt else x.fmt,
                    margin := if flag w.wmask 2 then w.margin else x.margin,
                    frozen := if flag w.wmask 3 then w.frozen else x.frozen }
  if w.clearHist then
    { y with hist := List.replicate 16 0, histCount := 0, histPos := 0, pendingAmax := 0, ovfSeen := false }
  else y

end Sys2Proof.Machine
end

