-- ==== Sys2Proof/Machine/Args.lean ====
section
/-!
DEFINITION. Machine/Args.lean: what a command record says: its header fields (Table 05-2), and the argument blocks of MATMUL (Tables 03-3 and
03-4), of the movers (Table 05-5) and of VECTOR with its chain (Tables 04-2 to 04-7), with the regions that they name.
-/
namespace Sys2Proof.Machine

/-! ### The record -/

/-- Little-endian fields of a record's argument block: bits 512 and above of the record. -/
def Rec.arg (r : Rec) (hi lo : Nat) : Nat := field (ofLe (r.image.drop 64)) hi lo

/-- A field of a record's header (Table 05-2). -/
def Rec.hdr (r : Rec) (hi lo : Nat) : Nat := field (ofLe (r.image.take 64)) hi lo

/-- The command opcode of a record. -/
def Rec.op (r : Rec) : Option CmdOp := CmdOp.ofCode (r.hdr 15 0)

/-- Flags of Table 05-3. -/
def Rec.bar (r : Rec) : Bool := r.hdr 16 16 == 1
def Rec.notify (r : Rec) : Bool := r.hdr 17 17 == 1
def Rec.adv (r : Rec) : Bool := r.hdr 18 18 == 1
def Rec.tmo (r : Rec) : Bool := r.hdr 19 19 == 1
def Rec.sigAlways (r : Rec) : Bool := r.hdr 20 20 == 1
/-- Fence handles and the scale slot of the record. -/
def Rec.fenceIn (r : Rec) : Nat := r.hdr 159 128
def Rec.fenceOut (r : Rec) : Nat := r.hdr 191 160
def Rec.advSlot (r : Rec) : Nat := r.hdr 335 320
def Rec.timeout (r : Rec) : Nat := r.hdr 383 352

/-- Number of bytes in stored rows of a mover command (R158). -/
def moverExtent (rows stride len : Nat) : Nat := if rows = 0 then 0 else (rows - 1) * stride + len

/-- A run of bytes of a space. -/
structure Region where
  space : Nat
  addr : Nat
  bytes : Nat
  deriving DecidableEq, Repr

/-- Have two regions a byte in common? -/
def Region.overlaps (a b : Region) : Bool :=
  a.space == b.space && a.bytes != 0 && b.bytes != 0 && decide (a.addr < b.addr + b.bytes) && decide (b.addr < a.addr + a.bytes)

/-- Rows as regions. -/
def rowRegions (space addr stride len rows : Nat) : List Region :=
  (List.range rows).map (fun i => { space := space, addr := addr + i * stride, bytes := len })

/-- Bytes of a stored row of `n` elements; MX rows hold whole blocks (R42). -/
def rowBytes (f : Fmt) (n : Nat) : Nat := if f.isMx then ceilDiv n 32 * 16 * f.half else n * f.half / 2

/-! ### Movers -/

/-- The mover argument block (Table 05-5). -/
structure MoverArgs where
  srcAddr : Nat
  srcSpace : Nat
  dstAddr : Nat
  dstSpace : Nat
  len : Nat
  rows : Nat
  srcStride : Nat
  dstStride : Nat
  pattern : Nat
  deriving DecidableEq, Repr

/-- The mover argument block of a record. -/
def Rec.moverArgs (r : Rec) : MoverArgs :=
  { srcAddr := r.arg 47 0, srcSpace := r.arg 49 48, dstAddr := r.arg 111 64, dstSpace := r.arg 113 112, len := r.arg 159 128,
    rows := r.arg 183 160, srcStride := r.arg 223 192, dstStride := r.arg 255 224, pattern := r.arg 287 256 }

/-- The source and destination extents (R158). -/
def MoverArgs.src (g : MoverArgs) : Region :=
  { space := g.srcSpace, addr := g.srcAddr, bytes := moverExtent g.rows g.srcStride g.len }
def MoverArgs.dst (g : MoverArgs) : Region :=
  { space := g.dstSpace, addr := g.dstAddr, bytes := moverExtent g.rows g.dstStride g.len }

/-- The rows that a mover writes. -/
def MoverArgs.outputs (g : MoverArgs) : List Region := rowRegions g.dstSpace g.dstAddr g.dstStride g.len g.rows

/-! ### MATMUL -/

/-- An operand descriptor (Table 03-4). -/
structure MatDesc where
  addr : Nat
  space : Nat
  fmt : Nat
  turn : Bool
  useSlot : Bool
  slot : Nat
  stride : Nat
  aux : Nat
  deriving DecidableEq, Repr

/-- The descriptor of 128 bits. -/
def matDesc (d : Nat) : MatDesc :=
  { addr := field d 47 0, space := field d 49 48, fmt := field d 53 50, turn := flag d 54, useSlot := flag d 55,
    slot := field d 71 56, stride := field d 95 72, aux := field d 127 96 }

/-- The matrix argument block (Table 03-3). -/
structure MatArgs where
  a : MatDesc
  b : MatDesc
  c : MatDesc
  m : Nat
  n : Nat
  k : Nat
  acc : Bool
  order : Nat
  cgroup : Nat
  group : Nat
  deriving DecidableEq, Repr

/-- The matrix argument block of a record. -/
def Rec.matArgs (r : Rec) : MatArgs :=
  { a := matDesc (r.arg 127 0), b := matDesc (r.arg 255 128), c := matDesc (r.arg 383 256), m := r.arg 407 384,
    n := r.arg 431 408, k := r.arg 455 432, acc := r.arg 456 456 == 1, order := r.arg 458 457, cgroup := r.arg 460 459,
    group := r.arg 488 464 }

/-- The format of a descriptor; a code that is not one reads as E4M3 and is refused before use. -/
def MatDesc.form (d : MatDesc) : Fmt := (Fmt.ofCode d.fmt).getD .e4m3

/-- Stored rows and columns: of A, of B, of C (R70, "Turned operands"). -/
def MatArgs.shapeA (g : MatArgs) : Nat × Nat := if g.a.turn then (g.k, g.m) else (g.m, g.k)
def MatArgs.shapeB (g : MatArgs) : Nat × Nat := if g.b.turn then (g.n, g.k) else (g.k, g.n)
def MatArgs.shapeC (g : MatArgs) : Nat × Nat := (g.m, g.n)

/-- Is the pair of formats one of Table 03-1? -/
def pairAllowed : Fmt → Fmt → Bool
  | .e4m3, .e4m3 | .e4m3, .e5m2 | .e5m2, .e4m3 | .e5m2, .e5m2 => true
  | .mxE4M3, .mxE4M3 | .mxE4M3, .mxE5M2 | .mxE5M2, .mxE4M3 | .mxE5M2, .mxE5M2 => true
  | .mxfp4, .mxfp4 | .bf16, .bf16 | .fp16, .fp16 => true
  | _, _ => false

/-- Base pass depth (Table 03-1). -/
def baseDepth : Fmt → Nat
  | .mxfp4 => 512
  | _ => 256

/-- Group depth (R89). -/
def groupDepth : Fmt → Nat
  | .mxfp4 => 8192
  | .bf16 | .fp16 => 2048
  | _ => 4096

/-- Is the pair one of the 16-bit formats? (R85) -/
def wideFmt : Fmt → Bool
  | .bf16 | .fp16 => true
  | _ => false

/-- Fold of a panel of a width (Table 03-2). -/
def foldOf (w : Nat) : Nat := if w ≤ 64 then 4 else if w ≤ 128 then 2 else 1

/-- Width of the panel that holds column `j` (R71). -/
def panelWidth (n j : Nat) : Nat := min 256 (n - j / 256 * 256)

/-- Does some panel form more than one group, in native order? (R80, R89) -/
def MatArgs.grouped (g : MatArgs) : Bool := g.order == 0 && decide (groupDepth g.a.form < g.k)

/-- The element rows, and the scale array or tail plane, of an operand (R80, step 3). -/
def MatDesc.regions (d : MatDesc) (rows : Nat) : List Region :=
  { space := d.space, addr := d.addr, bytes := rows * d.stride } ::
    (if d.form.isMx then [{ space := d.space, addr := d.addr + d.aux, bytes := rows * d.stride / d.form.scaleDiv }]
     else if d.form == .p32s then [{ space := d.space, addr := d.addr + d.aux, bytes := rows * d.stride }] else [])

/-- The group region, when it is used. -/
def MatArgs.groupRegion (g : MatArgs) : List Region :=
  if g.grouped then [{ space := 1, addr := g.group, bytes := min g.m 4096 * min g.n 256 * 4 }] else []

/-- What the engine leaves unspecified at a failure: C with its tail plane, and the group region (R94). -/
def MatArgs.outputs (g : MatArgs) : List Region :=
  let len := rowBytes g.c.form g.n
  rowRegions g.c.space g.c.addr g.c.stride len g.m
    ++ (if g.c.form = .p32s then rowRegions g.c.space (g.c.addr + g.c.aux) g.c.stride len g.m else []) ++ g.groupRegion

/-! ### VECTOR: the chain descriptor -/

/-- Stage kinds (Table 04-1). -/
inductive StageKind where
  | ld | cmp | prg | trn | red | pak | exp | st
  deriving DecidableEq, Repr

/-- The kind of a code. -/
def stageKind : Nat → Option StageKind
  | 0 => some .ld | 1 => some .cmp | 2 => some .prg | 3 => some .trn | 4 => some .red | 5 => some .pak | 6 => some .exp
  | 7 => some .st | _ => none

/-- A stage entry (Table 04-5). -/
structure Stage where
  kind : StageKind
  dst : Nat
  src : Nat
  stream : Nat
  op : Nat
  p0 : Nat
  p1 : Nat
  rsvd : Bool
  deriving DecidableEq, Repr

/-- The stage entry of 16 bytes; a reserved kind reads as LD with its reserved mark set. -/
def stageOf (bs : Bytes) : Stage :=
  let w := ofLe bs
  { kind := (stageKind (field w 3 0)).getD .ld, dst := field w 7 4, src := field w 11 8, stream := field w 14 12, op := field w 23 16,
    p0 := field w 63 32, p1 := field w 95 64,
    rsvd := (stageKind (field w 3 0)).isNone || flag w 15 || anySet w 31 24 || anySet w 127 96 }

/-- A field of a stage that its kind does not use is set, or its function code is reserved (Table 04-6). -/
def Stage.reserved (t : Stage) : Bool :=
  t.rsvd || (match t.kind with
    | .ld => t.src != 0 || t.op != 0 || t.p0 != 0 || t.p1 != 0
    | .cmp => t.op != 0 || t.p0 != 0 || t.p1 != 0
    | .prg => t.dst != 0 || t.src != 0 || t.stream != 0 || decide (2 ≤ t.op) || t.p1 != 0
    | .trn => t.stream != 0 || decide (12 ≤ t.op) || t.p0 != 0 || t.p1 != 0
    | .red => t.dst != 0 || decide (7 ≤ t.op) || t.p0 != 0 || t.p1 != 0
    | .pak => t.dst != 0 || anySet t.op 7 3 || t.p1 != 0
    | .exp => t.src != 0 || t.op != 0 || flag t.p0 3 || anySet t.p0 31 7
    | .st => t.dst != 0 || t.src != 0 || t.stream != 0 || t.op != 0 || t.p0 != 0 || t.p1 != 0)

/-- A stream descriptor (Table 04-7). -/
structure Stream where
  addr : Nat
  space : Nat
  fmt : Nat
  useSlot : Bool
  turn : Bool
  slot : Nat
  bcast0 : Bool
  s1 : Nat
  s2 : Nat
  s3 : Nat
  aux : Nat
  rsvd : Bool
  deriving DecidableEq, Repr

/-- The stream descriptor of 32 bytes. -/
def streamOf (bs : Bytes) : Stream :=
  let w := ofLe bs
  { addr := field w 47 0, space := field w 49 48, fmt := field w 53 50, useSlot := flag w 54, turn := flag w 55,
    slot := field w 71 56, bcast0 := flag w 72, s1 := field w 127 96, s2 := field w 159 128, s3 := field w 191 160,
    aux := field w 223 192, rsvd := anySet w 95 73 || anySet w 255 224 }

/-- The format of a stream. -/
def Stream.form (x : Stream) : Fmt := (Fmt.ofCode x.fmt).getD .e4m3

/-- A chain descriptor (Tables 04-3 and 04-4). -/
structure Chain where
  nStages : Nat
  segDims : Nat
  n0 : Nat
  n1 : Nat
  n2 : Nat
  n3 : Nat
  rsvd : Bool
  stages : List Stage
  streams : List Stream
  prog0 : List Nat
  prog1 : List Nat
  consts : List Word32
  deriving DecidableEq, Repr

/-- Words of 32 bits from an offset. -/
def wordsAt (bs : Bytes) (off n : Nat) : List Nat := (List.range n).map (fun i => ofLe (slice bs (off + 4 * i) 4))

/-- The chain descriptor of 896 bytes; stages beyond `n_stages` are not read. -/
def chainOf (bs : Bytes) : Chain :=
  let h := ofLe (slice bs 0 64)
  let n := field h 4 0
  { nStages := n, segDims := field h 9 8, n0 := field h 87 64, n1 := field h 111 88, n2 := field h 135 112, n3 := field h 159 136,
    rsvd := anySet h 7 5 || anySet h 63 10 || anySet h 511 160,
    stages := (List.range (min n 16)).map (fun i => stageOf (slice bs (64 + 16 * i) 16)),
    streams := (List.range 8).map (fun i => streamOf (slice bs (320 + 32 * i) 32)),
    prog0 := wordsAt bs 576 32, prog1 := wordsAt bs 704 32,
    consts := (wordsAt bs 832 16).map (fun w => BitVec.ofNat 32 w) }

/-- A stream of the table. -/
def Chain.stream (g : Chain) (i : Nat) : Stream := g.streams.getD i (streamOf [])

/-- Elements of the iteration space. -/
def Chain.elements (g : Chain) : Nat := g.n0 * g.n1 * g.n2 * g.n3

/-- Extents by dimension. -/
def Chain.extent (g : Chain) (d : Nat) : Nat := [g.n0, g.n1, g.n2, g.n3].getD d 1

/-- Length of a segment, and the number of segments. -/
def Chain.segLen (g : Chain) : Nat := (List.range (g.segDims + 1)).foldl (fun acc d => acc * g.extent d) 1
def Chain.segments (g : Chain) : Nat := g.elements / g.segLen

/-- Index of element `e` along a dimension (R104). -/
def Chain.index (g : Chain) (e d : Nat) : Nat :=
  (e / (List.range d).foldl (fun acc k => acc * g.extent k) 1) % g.extent d

/-! ### Roles of streams, and their bytes -/

/-- How a stage uses a stream. -/
inductive StreamRole where
  | space | compact | perSegment
  deriving DecidableEq, Repr

/-- A use of a stream: its entry, the role, and whether it is written. -/
structure StreamUse where
  entry : Nat
  role : StreamRole
  written : Bool
  acc : Bool := false
  deriving DecidableEq, Repr

/-- Uses of streams by the stages, in order; `compressed` says that a CMP stage stands before. -/
def usesOf : Bool → List Stage → List StreamUse
  | _, [] => []
  | comp, t :: rest =>
    match t.kind with
    | .ld => { entry := t.stream, role := .space, written := false } :: usesOf comp rest
    | .cmp => { entry := t.stream, role := .perSegment, written := true } :: usesOf true rest
    | .red => { entry := t.stream, role := .perSegment, written := true } :: usesOf comp rest
    | .pak => { entry := t.stream, role := if comp then .compact else .space, written := true, acc := flag t.op 1 } :: usesOf comp rest
    | .exp => { entry := t.stream, role := .compact, written := false }
              :: { entry := field t.p0 2 0, role := .compact, written := false }
              :: { entry := field t.p0 6 4, role := .perSegment, written := false } :: usesOf comp rest
    | .prg | .trn | .st => usesOf comp rest

/-- Uses of the chain's streams. -/
def Chain.uses (g : Chain) : List StreamUse := usesOf false g.stages

/-- The stride of a dimension above 0. -/
def Stream.stride (x : Stream) (d : Nat) : Nat := [0, x.s1, x.s2, x.s3].getD d 0

/-- Offset of the stored row that holds an element, and the element's position along it (R111). With `turn` dimensions 0 and 1
change places. -/
def Chain.place (g : Chain) (x : Stream) (e : Nat) : Nat × Nat :=
  let i (d : Nat) := g.index e d
  if x.turn then (i 0 * x.s1 + i 2 * x.s2 + i 3 * x.s3, i 1)
  else (i 1 * x.s1 + i 2 * x.s2 + i 3 * x.s3, if x.bcast0 then 0 else i 0)

/-- Offset of a segment's base (R111). -/
def Chain.base (g : Chain) (x : Stream) (seg : Nat) : Nat :=
  let e := seg * g.segLen
  ((List.range 4).filter (fun d => decide (g.segDims < d))).foldl (fun acc d => acc + g.index e d * x.stride d) 0

/-- Bytes of a run of `n` elements of a stored row. -/
def runBytes (f : Fmt) (n : Nat) : Nat := if f.isMx then ceilDiv n 32 * 16 * f.half else ceilDiv (n * f.half) 2

/-- A byte range of a stream's elements with its tail plane. -/
def withTail (x : Stream) (r : Region) : List Region :=
  if x.form = .p32s then [r, { r with addr := r.addr + x.aux }] else [r]

/-- Offsets of the stored rows of a stream in the iteration space. -/
def Chain.rowOffsets (g : Chain) (x : Stream) : List Nat :=
  let outer := if x.turn then g.n0 else g.n1
  (List.range g.n3).flatMap (fun c => (List.range g.n2).flatMap (fun b => (List.range outer).map (fun a =>
    a * x.s1 + b * x.s2 + c * x.s3)))

/-- Elements of a stored row. -/
def Chain.rowLength (g : Chain) (x : Stream) : Nat := if x.turn then g.n1 else if x.bcast0 then 1 else g.n0

/-- The bytes that a use of a stream can reach (R114, step 3). -/
def Chain.reach (g : Chain) (u : StreamUse) : List Region :=
  let x := g.stream u.entry
  match u.role with
  | .space =>
    (g.rowOffsets x).flatMap (fun o =>
      withTail x { space := x.space, addr := x.addr + o, bytes := runBytes x.form (g.rowLength x) } ++
        (if x.form.isMx then [{ space := x.space, addr := x.addr + x.aux + o / x.form.scaleDiv, bytes := ceilDiv (g.rowLength x) 32 }]
         else []))
  | .compact => (List.range g.segments).flatMap (fun k =>
      withTail x { space := x.space, addr := x.addr + g.base x k, bytes := runBytes x.form g.segLen })
  | .perSegment => (List.range g.segments).map (fun k => { space := x.space, addr := x.addr + g.base x k, bytes := 4 })

/-- Streams that the stages name. -/
def Chain.named (g : Chain) : List Stream := (g.uses.map (fun u => u.entry)).eraseDups.map g.stream

/-- Regions that the operation writes. -/
def Chain.outputs (g : Chain) : List Region := (g.uses.filter (fun u => u.written)).flatMap g.reach

/-- The bytes of a VECTOR's chain descriptor in its space (Table 04-2). -/
def Rec.chainRegion (r : Rec) : Region := { space := r.arg 49 48, addr := r.arg 47 0, bytes := 896 }

end Sys2Proof.Machine
end

