-- ==== Sys2Proof/Machine/Beats.lean ====
section
/-!
DEFINITION. Machine/Beats.lean: the beats that a command takes on a core: R96 for MATMUL, R130 for VECTOR (Table 07-2, core load), and
where the operands of a command lie (R210).
-/
namespace Sys2Proof.Machine

/-- Bytes of a context's range that lie in the tier slice of a core. -/
def State.sliceBytes (s : State) (c : Ctx) (core addr n : Nat) : Nat :=
  ((piecesOf addr n).map (fun pc => match c.page? pc.1 with
    | some p => (match s.placeOf p (some core) with
      | .tier f => if tierCore f = core then pc.2.2 else 0
      | .hbm _ | .lease _ | .lost => 0)
    | none => 0)).sum

/-! ### MATMUL (R96) -/

/-- A pass (R72, R73): its rows of A, its columns, its place and depth in K. -/
structure Pass where
  row : Nat
  rows : Nat
  col : Nat
  cols : Nat
  k0 : Nat
  depth : Nat
  deriving DecidableEq, Repr

/-- Pass depth of the panel of column `j` (R71); compatibility order does not fold (R91). -/
def MatArgs.depth (g : MatArgs) (j : Nat) : Nat :=
  if g.order = 0 then baseDepth g.a.form * foldOf (panelWidth g.n j) else baseDepth g.a.form

/-- The passes of an operation in their order (R73): row groups, panels, K. -/
def MatArgs.plan (g : MatArgs) : List Pass :=
  (List.range (ceilDiv g.m 4096)).flatMap (fun a => (List.range (ceilDiv g.n 256)).flatMap (fun b =>
    let d := g.depth (b * 256)
    (List.range (ceilDiv g.k d)).map (fun q =>
      { row := a * 4096, rows := min 4096 (g.m - a * 4096), col := b * 256, cols := min 256 (g.n - b * 256), k0 := q * d, depth := min d (g.k - q * d) })))

/-- Beats of a row of A (Table 03-1), twice as many in compatibility order (R92). -/
def MatArgs.rowBeats (g : MatArgs) : Nat := (if wideFmt g.a.form then 4 else 1) * (if g.order = 0 then 1 else 2)

/-- Beats of the block load of a pass (R75). -/
def MatArgs.loadBeats (g : MatArgs) (p : Pass) : Nat := ceilDiv (p.depth * p.cols * g.b.form.half) 2048

/-- The byte ranges of an operand's rows `x0 …`, columns `y0 …`, with those of their scales. -/
def MatDesc.block (d : MatDesc) (x0 x y0 y : Nat) : List Region :=
  let one (i : Nat) : List Region :=
    { space := d.space, addr := d.addr + (x0 + i) * d.stride + y0 * d.form.half / 2, bytes := ceilDiv (y * d.form.half) 2 } ::
      (if d.form.isMx then [{ space := d.space, addr := d.addr + d.aux + (x0 + i) * d.stride / d.form.scaleDiv + y0 / 32, bytes := ceilDiv y 32 }]
       else [])
  (List.range x).flatMap one

/-- The rows of A, and the block of B, of a pass. -/
def MatArgs.rowsOf (g : MatArgs) (p : Pass) : List Region :=
  if g.a.turn then g.a.block p.k0 p.depth p.row p.rows else g.a.block p.row p.rows p.k0 p.depth
def MatArgs.blockOf (g : MatArgs) (p : Pass) : List Region :=
  if g.b.turn then g.b.block p.col p.cols p.k0 p.depth else g.b.block p.k0 p.depth p.col p.cols

/-- Bytes of a list of regions that a core's slice holds. -/
def State.sliceOf (s : State) (c : Ctx) (core : Nat) (rs : List Region) : Nat :=
  (rs.map (fun r => if r.space = 0 then s.sliceBytes c core r.addr r.bytes else 0)).sum

/-- The fill of a turned A (R76). -/
def MatArgs.turnFill (g : MatArgs) : Nat :=
  if g.a.turn then ceilDiv (g.depth 0 * 256 * g.a.form.half) 2048 else 0

/-- The sum of `T_q` over the passes (R96): each with the load of the next, or none after the last. -/
def State.passBeats (s : State) (c : Ctx) (core : Nat) (g : MatArgs) (audit : Bool) : List Pass → Nat
  | [] => 0
  | p :: rest =>
    let load := match rest with
      | [] => 0
      | q :: _ => g.loadBeats q
    let fromA := s.sliceOf c core (g.rowsOf p)
    let fromB := match rest with
      | [] => 0
      | q :: _ => s.sliceOf c core (g.blockOf q)
    let both := fromA != 0 && s.sliceOf c core (g.blockOf p) != 0
    max (max (p.rows * g.rowBeats) load) (if both then ceilDiv (fromA + fromB) 1024 else 0) + (if audit then g.rowBeats else 0)
      + s.passBeats c core g audit rest

/-- `T` of R96, without replays and re-runs. -/
def State.matBeats (s : State) (c : Ctx) (core : Nat) (g : MatArgs) (audit : Bool) : Nat :=
  match g.plan with
  | [] => 0
  | p :: rest => g.loadBeats p + 80 + g.turnFill + s.passBeats c core g audit (p :: rest)

/-! ### VECTOR (R130) -/

/-- Latency of a stage (Table 04-1). -/
def StageKind.latency : StageKind → Nat
  | .ld => 6 | .cmp | .red | .pak | .st => 4 | .prg => 32 | .trn => 12 | .exp => 8

/-- Λ: the largest latency of the load level, and those of every other stage. -/
def Chain.latency (g : Chain) : Nat :=
  let loads := g.stages.filter (fun t => t.kind == .ld || t.kind == .exp)
  ((g.stages.filter (fun t => !(t.kind == .ld || t.kind == .exp))).map (fun t => t.kind.latency)).sum
    + (loads.map (fun t => t.kind.latency)).foldl max 0

/-- Fill of the turn buffer (R112). -/
def Chain.turnFill (g : Chain) : Nat :=
  match g.stages.find? (fun t => t.kind == .ld && (g.stream t.stream).turn) with
  | some t => ceilDiv (256 * min g.n1 256 * (g.stream t.stream).form.half) 2048
  | none => 0

/-- The byte ranges that a use of a stream reads or writes, a broadcast row once for each element that it feeds (R130). -/
def Chain.traffic (g : Chain) (u : StreamUse) : List Region :=
  let x := g.stream u.entry
  let rs := g.reach u
  if u.role = .space && x.bcast0 then rs.flatMap (fun r => List.replicate g.n0 r) else rs

/-- Bytes of the uses of one kind: in the scratchpad, and in the slice of a core. -/
def State.streamBytes (s : State) (c : Ctx) (core : Nat) (g : Chain) (written : Bool) : Nat × Nat :=
  let rs := (g.uses.filter (fun u => u.written == written || (u.acc && !written))).flatMap g.traffic
  (((rs.filter (fun r => r.space == 1)).map (fun r => r.bytes)).sum, s.sliceOf c core rs)

/-- `T` of R130, without re-issues, each byte of the slice at 1/1,024 of a beat. -/
def State.vecBeats (s : State) (c : Ctx) (core : Nat) (g : Chain) : Nat :=
  let rd := s.streamBytes c core g false
  let wr := s.streamBytes c core g true
  32 + g.latency + (if g.stages.any (fun t => t.kind == .red) then 16 else 0) + g.turnFill
    + [ceilDiv g.elements 256, ceilDiv rd.1 2048, ceilDiv wr.1 2048, ceilDiv rd.2 1024, ceilDiv wr.2 512].foldl max 0

/-! ### A record's operands -/

/-- The chain descriptor of a VECTOR record: as it was read when the operation started (R108), else as it stands in its space. -/
def State.chainBytes (s : State) (c : Ctx) (x : Queue) (r : Rec) : Bytes :=
  match r.chain with
  | some bs => bs
  | none =>
    if r.chainRegion.space = 0 then s.peekV c.id r.chainRegion.addr 896
    else match x.home with
      | some n => readCells s.mem.cells (windowAddr x n r.chainRegion.addr) 896
      | none => []

/-- The first page of each operand of a command in context space (R210). -/
def State.firstPages (s : State) (c : Ctx) (x : Queue) (r : Rec) : List Nat :=
  let at0 (l : List (Nat × Nat)) : List Nat := ((l.filter (fun a => a.1 == 0)).map (fun a => vpage a.2)).eraseDups
  match r.op with
  | some .matmul => at0 [(r.matArgs.a.space, r.matArgs.a.addr), (r.matArgs.b.space, r.matArgs.b.addr)]
  | some .copy => at0 [(r.moverArgs.srcSpace, r.moverArgs.srcAddr), (r.moverArgs.dstSpace, r.moverArgs.dstAddr)]
  | some .fill => at0 [(r.moverArgs.dstSpace, r.moverArgs.dstAddr)]
  | some .vector => at0 ((chainOf (s.chainBytes c x r)).named.map (fun y => (y.space, y.addr)))
  | some .nop | some .collective | some .repeatOp | some .scaleSet | none => []

/-- Pages, among the first pages of a command's operands, that lie in a core's own slice (R210). -/
def State.nearPages (s : State) (c : Ctx) (pages : List Nat) (core : Nat) : Nat :=
  (pages.filter (fun v => decide (0 < s.sliceBytes c core (v * pageSize) 1))).length

/-- Estimated beats of a command on a core (Table 07-2): R96 for MATMUL, R130 for VECTOR; others take none. -/
def State.estimate (s : State) (c : Ctx) (x : Queue) (core : Nat) (r : Rec) : Nat :=
  match r.op with
  | some .matmul => if r.matArgs.m = 0 ∨ r.matArgs.n = 0 ∨ r.matArgs.k = 0 then 0 else s.matBeats c core r.matArgs x.audit
  | some .vector =>
    let g := chainOf (s.chainBytes c x r)
    if g.elements = 0 ∨ g.nStages = 0 then 0 else s.vecBeats c core g
  | some .copy | some .fill | some .nop | some .collective | some .repeatOp | some .scaleSet | none => 0

end Sys2Proof.Machine
end

