-- ==== Sys2Proof/Machine/Fences.lean ====
section
/-!
DEFINITION. Machine/Fences.lean: fences (R363–R367): creation, export, import, signals, waits, and their end.
-/
namespace Sys2Proof.Machine

/-- A fence handle: index and generation (Table 11-1). -/
def Fence.handle (f : Fence) : Nat := f.index + f.gen * 65536

/-- The handle that a context's record names, through the translation of a restore (R492). -/
def Ctx.translate (c : Ctx) (h : Nat) : Nat := match c.fenceMap.find? (fun x => x.1 == h) with
  | some x => x.2
  | none => h

/-- The fence that a handle names, if it is in force (R342, R343). -/
def State.fenceOf (s : State) (h : Nat) : Option Fence :=
  s.fences.find? (fun f => f.handle == h && h != 0)

/-- The fence that a handle names for a context that references it. -/
def State.heldFence (s : State) (c : Ctx) (h : Nat) : Option Fence :=
  match s.fenceOf (c.translate h) with
  | some f => if c.fences.contains f.index then some f else none
  | none => none

/-- Is this wait on a fence, and satisfied by a value? -/
def Wait.reached (w : Wait) (index value : Nat) : Bool := match w.what with
  | .fence i v _ => i == index && decide (v ≤ value)
  | .unmap _ _ | .queueDestroy _ | .keyBind _ | .keyDestroy _ | .group _ | .ckpt _ | .ckptRead _ | .opt | .suspend | .reset
  | .destroy | .pin _ _ | .links _ _ | .groupEnd _ | .firmware => false

/-- Is this wait on a fence? -/
def Wait.onFence (w : Wait) (index : Nat) : Bool := match w.what with
  | .fence i _ _ => i == index
  | .unmap _ _ | .queueDestroy _ | .keyBind _ | .keyDestroy _ | .group _ | .ckpt _ | .ckptRead _ | .opt | .suspend | .reset
  | .destroy | .pin _ _ | .links _ _ | .groupEnd _ | .firmware => false

/-- The Ledger tag of a fence wait. -/
def Wait.fenceTag (w : Wait) : Option Nat := match w.what with
  | .fence _ _ t => some t
  | .unmap _ _ | .queueDestroy _ | .keyBind _ | .keyDestroy _ | .group _ | .ckpt _ | .ckptRead _ | .opt | .suspend | .reset
  | .destroy | .pin _ _ | .links _ _ | .groupEnd _ | .firmware => none

/-- End a pending FENCE_WAIT: its Ledger entry is free, and the final answer carries the fence's value (R365). -/
def State.endFenceWait (s : State) (w : Wait) (st : Status) (value : Nat) : State :=
  let s1 := match w.fenceTag with
    | some t => s.freeTag t
    | none => s
  s1.finish w { status := st, arg0 := value }

/-- End every pending FENCE_WAIT that meets a test. -/
def State.endFenceWaits (s : State) (p : Wait → Bool) (st : Status) (value : Nat) : State :=
  (s.waits.filter p).foldl (fun s w => s.endFenceWait w st value) s

/-- Raise a fence's value and release the FENCE_WAIT requests that it satisfies (R365). Waiting commands and OPT_STEP
requests see the value when their step comes. -/
def State.raiseFence (s : State) (f : Fence) (v : Nat) : State :=
  (s.modFence f.index (fun x => { x with value := v })).endFenceWaits (fun w => w.reached f.index v) .ok v

/-- A signal by a context (R364, R366, R367): the failure, if it is refused. -/
def State.signal (s : State) (id handle value : Nat) : State × Option Status :=
  match s.ctx? id with
  | none => (s, some .staleGeneration)
  | some c =>
    match s.heldFence c handle with
    | none => (s, some .staleGeneration)
    | some f =>
      if f.abandoned then (s, some .abandoned)
      else if f.value < value ∧ value < 2 ^ 64 then (s.raiseFence f value, none)
      else (s, some .fenceRegression)

/-- Does any context other than `id` reference the fence? -/
def State.fenceShared (s : State) (id index : Nat) : Bool :=
  s.ctxs.any (fun c => c.id != id && c.fences.contains index)

/-- Do the requests of OPT_STEP and PARAM_EXPORT of a context hold a fence: by their payloads, or by a record of their ranges? (Table 11-2) -/
def State.optHolds (s : State) (c : Ctx) (f : Fence) : Bool :=
  c.opt.any (fun o =>
    let w := ofLe o.payload
    if o.kind = 2 then c.translate (field w 287 256) == f.handle
    else c.translate (field w 159 128) == f.handle || c.translate (field w 191 160) == f.handle
      || (List.range (field w 111 88)).any (fun i =>
           c.translate (ofLe (s.peekV c.id (field w 47 0 + 128 * (field w 87 64 + i) + 60) 4)) == f.handle))

/-- Work inside the device that holds a fence: records taken in that name it, requests of the optimiser, pending waits (Table 11-2). -/
def State.fenceBusy (s : State) (f : Fence) : Bool :=
  s.ctxs.any (fun c => c.queues.any (fun q => q.recs.any (fun r =>
    let w := ofLe r.image
    c.translate (field w 159 128) == f.handle || c.translate (field w 191 160) == f.handle)))
    || s.ctxs.any (fun c => s.optHolds c f) || s.waits.any (fun w => w.onFence f.index)

/-- Free a fence that no context references and no work holds (R346). -/
def State.reapFence (s : State) (index : Nat) : State :=
  match s.fence? index with
  | none => s
  | some f =>
    if s.ctxs.any (fun c => c.fences.contains index) || s.fenceBusy f then s
    else { s with fences := s.fences.filter (fun x => x.index != index),
                  fencesFreed := s.fencesFreed ++ [(f.index, f.gen, s.hub.timer)] }

/-- Free every fence that nothing holds. -/
def State.reapFences (s : State) : State := (s.fences.map (fun f => f.index)).foldl (fun s i => s.reapFence i) s

/-- Drop a context's reference: its FENCE_WAIT requests on the fence end with STALE_GENERATION (R366). -/
def State.dropFence (s : State) (id index : Nat) : State :=
  let s1 := s.modCtx id (fun c => { c with fences := c.fences.filter (fun i => i != index) })
  let s2 := s1.endFenceWaits (fun w => w.onFence index && w.ctx == id) .staleGeneration 0
  s2.reapFence index

/-- Abandon a fence: its value is frozen and every wait on it ends with ABANDONED (R367). -/
def State.abandonFence (s : State) (index : Nat) : State :=
  match s.fence? index with
  | none => s
  | some f => (s.modFence index (fun x => { x with abandoned := true })).endFenceWaits (fun w => w.onFence index) .abandoned
      f.value

/-- Does a checkpoint drain the context? Its fence messages and BULK_IN wait in their mailboxes meanwhile (R483, step 1). -/
def State.draining (s : State) (id : Nat) : Bool := match s.ctx? id with
  | some c => c.ckpt.stage == 1
  | none => false

/-- FENCE_CREATE (R363, R492), every kind. A fence that only work inside the device still holds is stale (R346). NO_SLOT is asked of the kinds that
take a fence or a reference (DEDUCED LOG 27). -/
def doFenceCreate (m : Msg) : State → Session → State × Option Reply :=
  withCtx m fun s _ c =>
    let w := ofLe (slice m.payload 0 32)
    let kind := field w 1 0
    let handle := field w 95 64
    let value := field w 191 128
    let key := field w 255 192
    let fence := (s.fenceOf (c.translate handle)).filter (fun f => s.ctxs.any (fun d => d.fences.contains f.index))
    let referenced := (s.heldFence c handle).isSome
    match firstOf [
        (decide (m.length ≠ 32), Status.badLength),
        (kind == 3 || anySet w 63 2 || anySet w 127 96 || (kind == 0 && handle != 0) || (kind != 0 && value != 0)
          || (kind != 2 && key != 0), .reservedSet),
        (kind != 0 && (fence.isNone || (kind == 1 && !referenced)), .staleGeneration),
        ((kind == 2 && ((match fence with
            | some f => f.key != some key || referenced
            | none => false) || c.fenceMap.any (fun x => x.1 == handle)))
          || (kind != 0 && (match fence with
            | some f => f.abandoned
            | none => false)), .denied),
        (kind == 0 && decide (s.fences.length ≥ 65536) || kind != 1 && decide (c.fences.length ≥ 4096), .noSlot)] with
    | some st => refuse s st
    | none =>
      match kind with
      | 0 =>
        match pickId 65536 (s.fences.map (fun f => f.index) ++ c.fenceMap.map (fun x => x.1 % 65536)) s.fencesFreed s.hub.timer (fun _ => false) with
        | none => refuse s .noSlot
        | some (i, g) =>
          let f : Fence := { index := i, gen := nextGen 16 g, value := value }
          let s1 := { s with fences := s.fences ++ [f], fencesFreed := s.fencesFreed.filter (fun x => x.1 != i) }
          (s1.modCtx c.id (fun d => { d with fences := d.fences ++ [i] }), some { status := .ok, arg0 := f.handle })
      | 1 =>
        match fence with
        | none => refuse s .staleGeneration
        | some f =>
          let r := s.draw 8
          (r.1.modFence f.index (fun x => { x with key := some (ofLe r.2) }), some { status := .ok, payload := r.2 })
      | _ =>
        match fence with
        | none => refuse s .staleGeneration
        | some f =>
          (s.modCtx c.id (fun d => { d with fences := d.fences ++ [f.index] }), some { status := .ok, arg0 := f.handle })

/-- FENCE_CREATE kind 0. -/
def execFenceCreate (m : Msg) (s : State) : Host.Outcome State Fault Refusal :=
  .next (if s.draining m.ctx then s else s.request .fenceCreate m (doFenceCreate m))

/-- FENCE_CREATE kind 1. -/
def execFenceExport (m : Msg) (s : State) : Host.Outcome State Fault Refusal :=
  .next (if s.draining m.ctx then s else s.request .fenceCreate m (doFenceCreate m))

/-- FENCE_CREATE kind 2. -/
def execFenceImport (m : Msg) (s : State) : Host.Outcome State Fault Refusal :=
  .next (if s.draining m.ctx then s else s.request .fenceCreate m (doFenceCreate m))

/-- FENCE_SIGNAL (R365). The rule lists no order for a wrong length; it is read as R321's BAD_LENGTH, then RESERVED_SET
(DEDUCED LOG 25). -/
def doFenceSignal (m : Msg) : State → Session → State × Option Reply :=
  withCtx m fun s _ c =>
    let w := ofLe (slice m.payload 0 16)
    match firstOf [(decide (m.length ≠ 16), Status.badLength), (anySet w 63 32, .reservedSet)] with
    | some st => refuse s st
    | none =>
      let r := s.signal c.id (field w 31 0) (field w 127 64)
      let now := match r.1.heldFence c (field w 31 0) with
        | some f => f.value
        | none => 0
      (r.1, some { status := r.2.getD .ok, arg0 := now })

/-- FENCE_SIGNAL. -/
def execFenceSignal (m : Msg) (s : State) : Host.Outcome State Fault Refusal :=
  .next (if s.draining m.ctx then s else s.request .fenceSignal m (doFenceSignal m))

/-- FENCE_WAIT (R365): judged at once when it can be, else PENDING under a hub entry of the Ledger. -/
def doFenceWait (m : Msg) : State → Session → State × Option Reply :=
  withCtx m fun s x c =>
    let w := ofLe (slice m.payload 0 24)
    match firstOf [(decide (m.length ≠ 24), Status.badLength), (anySet w 63 32 || anySet w 191 160, .reservedSet)] with
    | some st => refuse s st
    | none =>
      match s.heldFence c (field w 31 0) with
      | none => refuse s .staleGeneration
      | some f =>
        let target := field w 127 64
        let units := field w 159 128
        if f.abandoned then (s, some { status := .abandoned, arg0 := f.value })
        else if target ≤ f.value then (s, some { status := .ok, arg0 := f.value })
        else if units = 0 then (s, some { status := .timeout, arg0 := f.value })
        else match s.issue hubTags 4096 (.fenceWait m.session m.tag) (some c.id) (some (s.hub.timer + units * 1024)) with
          | none => (s, none)
          | some (s1, t) => (s1.await x .fenceWait m (.fence f.index target t), some { status := .pending, arg0 := f.value })

/-- FENCE_WAIT. With no hub entry of the Ledger free, the request waits in its mailbox (R161). -/
def execFenceWait (m : Msg) (s : State) : Host.Outcome State Fault Refusal :=
  .next (if s.draining m.ctx || (s.ledger.freeTag hubTags 4096).isNone then s else s.request .fenceWait m (doFenceWait m))

/-- Expiry of a FENCE_WAIT at its Ledger entry (R163, R365): TIMEOUT, and the entry enters quarantine. -/
def doFenceWaitTimeout (tag : Nat) (s : State) : State :=
  match s.ledger.entry? tag, s.waits.find? (fun w => w.fenceTag == some tag) with
  | some e, some w =>
    if e.quarantine.isNone && (match e.deadline with
        | some d => decide (d ≤ s.hub.timer)
        | none => false) then
      let v := match w.what with
        | .fence i _ _ => (match s.fence? i with
            | some f => f.value
            | none => 0)
        | .unmap _ _ | .queueDestroy _ | .keyBind _ | .keyDestroy _ | .group _ | .ckpt _ | .ckptRead _ | .opt | .suspend
        | .reset | .destroy | .pin _ _ | .links _ _ | .groupEnd _ | .firmware => 0
      ({ s with ledger := s.ledger.expire tag s.hub.timer } : State).finish w { status := .timeout, arg0 := v }
    else s
  | _, _ => s

/-- FENCE_WAIT_TIMEOUT. -/
def execFenceWaitTimeout (tag : Nat) (s : State) : Host.Outcome State Fault Refusal :=
  .next (if s.alive then doFenceWaitTimeout tag s else s)

/-- FENCE_DESTROY (R366). A handle that the context does not reference gives STALE_GENERATION (R343). -/
def doFenceDestroy (m : Msg) : State → Session → State × Option Reply :=
  withCtx m fun s _ c =>
    let w := ofLe (slice m.payload 0 8)
    match firstOf [(decide (m.length ≠ 8), Status.badLength), (anySet w 63 32, .reservedSet)] with
    | some st => refuse s st
    | none =>
      match s.heldFence c (field w 31 0) with
      | none => refuse s .staleGeneration
      | some f => okay (s.dropFence c.id f.index)

/-- FENCE_DESTROY. -/
def execFenceDestroy (m : Msg) (s : State) : Host.Outcome State Fault Refusal :=
  .next (if s.draining m.ctx then s else s.request .fenceDestroy m (doFenceDestroy m))

end Sys2Proof.Machine
end

