-- ==== Sys2Proof/Machine/Place.lean ====
section
/-!
DEFINITION. Machine/Place.lean: the shared operations of the placement engine: windows (R173, R174), the choice of a core
(R209, R210), page moves (R205), and the records that they leave (R220).
-/
namespace Sys2Proof.Machine

/-! ### Windows -/

/-- The windows bound to a core: base and size in MiB. -/
def State.windowsOn (s : State) (core : Nat) : List (Nat × Nat) :=
  s.ctxs.flatMap (fun c => (c.queues.filter (fun q => q.home == some core)).map (fun q => (q.base, q.window)))

/-- Free window space of a core, in MiB. -/
def State.windowFree (s : State) (core : Nat) : Nat := 32 - ((s.windowsOn core).map (fun w => w.2)).sum

/-- Homes bound to a core. -/
def State.homes (s : State) (core : Nat) : Nat := (s.windowsOn core).length

/-- A base at which `size` MiB are free of every window of the core (R173): the lowest. -/
def State.windowBase (s : State) (core size : Nat) : Option Nat :=
  (List.range 33).find? (fun b => decide (b + size ≤ 32) &&
    (s.windowsOn core).all (fun w => decide (b + size ≤ w.1) || decide (w.1 + w.2 ≤ b)))

/-- The cores in service for placement: active, not suspended, not under test, not held for one. -/
def State.placeable (s : State) : List Nat :=
  (List.range 96).filter (fun n => match s.core? n with
    | some c => c.eligible
    | none => false)

/-- The home core for a window among cores that meet a test (R209): most free window space, fewest homes, lower tile temperature, lower
number. -/
def State.chooseHome (s : State) (size : Nat) (ok : Nat → Bool) : Option Nat :=
  leastBy (fun n => ((32 - s.windowFree n) * 65536 + s.homes n) * 2 ^ 17 + (s.tileTemp (tileOf n) + 65536).toNat)
    (s.placeable.filter (fun n => ok n && (s.windowBase n size).isSome))

/-- Is a core's tile below 100 °C? One at or above it receives no promotion and no home that leaves another core (R203, R209). -/
def State.cool (s : State) (n : Nat) : Bool := decide (s.tileTemp (tileOf n) < 800)

/-- Zero a window's bytes and poison (R174). -/
def State.zeroWindow (s : State) (core base size : Nat) : State :=
  let a := scratchBase core + base * 2 ^ 20
  s.modMem (fun m => { m with cells := clearCells m.cells a (size * 2 ^ 20),
                              pieces := m.pieces.filter (fun p => !within (p * 64) a (size * 2 ^ 20)) })

/-! ### Which core runs a command -/

/-- The core of a list for a command (R210): operand pages in its slice, least load, higher beat rate, lower number. -/
def State.chooseAmong (s : State) (c : Ctx) (x : Queue) (r : Rec) (cores : List Nat) : Option Nat :=
  let pages := s.firstPages c x r
  let key (n : Nat) : Nat :=
    let load := match s.core? n with
      | some x => x.load
      | none => 0
    let rate := match s.power.tiles[tileOf n]? with
      | some t => t.rate
      | none => 0
    ((16 - s.nearPages c pages n) * 2 ^ 60 + min load (2 ^ 60 - 1)) * 65536 + (65535 - min rate 65535)
  leastBy key cores

/-- The cores that R210 permits: those on a tile at 100 °C or more only when no other qualifies. -/
def State.permitted (s : State) : List Nat :=
  let cool := s.placeable.filter s.cool
  if cool.isEmpty then s.placeable else cool

/-! ### Loaded KeyIDs (R408, R414) -/

/-- Destroy a loaded KeyID (R408): its slot and number are free, and every page bound to it reads POISONED until it is unmapped, in the objects
published from such pages too. -/
def State.destroyKey (s : State) (k : Nat) : State :=
  match s.key? k with
  | none => s
  | some x =>
    let kill (p : Page) : Page := if p.keyId = k then { p with lost := true } else p
    let dead := (s.ctxs.filter (fun c => c.id == x.ctx)).flatMap (fun c => (c.pages.filter (fun p => p.keyId == k)).flatMap (fun p => p.share.toList))
    let s1 := { s with vault := { s.vault with slots := s.vault.slots.filter (fun y => y.keyId != k),
                                               freed := s.vault.freed ++ [(k, s.hub.timer)] } }
    let s2 := s1.modCtx x.ctx (fun c => { c with pages := c.pages.map kill })
    dead.foldl (fun s y => s.modShare y.1 (fun z =>
      if z.ctx = x.ctx then { z with pages := modAt z.pages y.2 (fun q => { q with lost := true }) } else z)) s2

/-- Answer the bindings of a context that have ended, and the destructions that waited for one (R414). -/
def State.settleKeys (s : State) (id : Nat) : State :=
  (s.waits.filter (fun w => w.ctx == id)).foldl (fun s w => match w.what with
    | .keyBind k => if s.moves.any (fun m => m.ctx == id && m.keyId == k) then s else s.finish w { status := .ok, arg0 := k }
    | .keyDestroy k => if s.moves.any (fun m => m.ctx == id && m.keyId == k) then s else (s.destroyKey k).finish w (.of .ok)
    | _ => s) s

/-! ### Page moves -/

/-- Take and zero a tier frame. -/
def State.takeTier (s : State) (f : Nat) : State := s.modMem (fun m => { m with tierUse := f :: m.tierUse })

/-- Free a tier frame: it is zeroed before reuse (R199). -/
def State.dropTier (s : State) (f : Nat) : State :=
  s.modMem (fun m => { m with tierUse := m.tierUse.filter (fun x => x != f), cells := clearCells m.cells (physAt f 0) pageSize,
                              pieces := m.pieces.filter (fun p => !within (p * 64) (physAt f 0) pageSize) })

/-- Count a move in the context's open period (Table 07-7). -/
def Period.count (p : Period) (src dst : Option Nat) : Period :=
  let f := (frameCode src).1
  let t := (frameCode dst).1
  { p with promoted := p.promoted + (if t = 1 then 1 else 0), demoted := p.demoted + (if f = 1 && t ≠ 1 then 1 else 0),
           lent := p.lent + (if f = 2 || t = 2 then 1 else 0) }

/-- A move of a context's page has ended: it is counted, and recorded (R220). -/
def State.noteMove (s : State) (c : Ctx) (vp : Nat) (src dst : Option Nat) (why : Reason) : State :=
  (s.modCtx c.id (fun d => { d with period := d.period.count src dst })).logMove c vp src dst why

/-- Switch a page to a frame (R205): content and poison copied, old frame freed, counters of an HBM destination stepped (R403). A local page
keeps its HBM frame reserved while it lives in tier SRAM (R195). -/
def State.switchPage (s : State) (id vp dest : Nat) (why : Reason) : State :=
  match s.ctx? id with
  | none => s
  | some c => match c.page? vp with
    | none => s
    | some p => match p.frame with
      | none => s
      | some src =>
        -- the move re-encrypts 8,192 blocks under the page's key (R205, R405)
        if src = dest || (isHbm dest && (s.useKey (keyOf c p) 8192).isNone) then s
        else
          let s1 := if isHbm dest then s.useAnyway (keyOf c p) 8192 else s
          let s2 := s1.copyPage (keyOf c p) src dest
          let s3 := s2.modPage id vp (fun q =>
            if isTier dest then { q with tier := some dest }
            else if isHbm dest then { q with tier := none, lease := none, hbm := some dest }
            else { q with tier := none, lease := some dest, hbm := none })
          let s4 := if isTier src then s3.dropTier src
            else if isHbm src && !isTier dest then s3.freeFrame src
            else s3.modCells (fun cs => clearCells cs (physAt src 0) pageSize)
          -- a destination whose major counter is exhausted gives the page up again, and is retired (R402)
          let s5 := if isHbm dest && s.mem.worn dest then s4.retireFrame dest else s4
          s5.noteMove c vp (some src) (some dest) why

/-! ### Budgets and the start of moves (R204) -/

/-- The tile that a move counts against: the one that receives the page, or that gives it up (R204). -/
def moveTile (src : Option Nat) (dest : Nat) : Nat :=
  if isTier dest then tileOf (tierCore dest)
  else match src with
    | some f => if isTier f then tileOf (tierCore f) else if isHbm f then stackOf f / 2 else if isHbm dest then stackOf dest / 2 else 0
    | none => if isHbm dest then stackOf dest / 2 else 0

/-- The review period of this moment (R201). -/
def State.period (s : State) : Nat := s.hub.timer / 2 ^ 18

/-- A new review period begins with full budgets (R204). -/
def State.freshBudget (s : State) : State :=
  if s.budgetPeriod = s.period then s else { s with budget := [], budgetPeriod := s.period }

/-- Moves left in a tile's budget. -/
def State.budgetLeft (s : State) (tile : Nat) : Nat := if s.budgetPeriod = s.period then 64 - sparse s.budget tile else 64

/-- Spend one move of a tile's budget. -/
def State.spend (s : State) (tile : Nat) : State :=
  let s1 := s.freshBudget
  { s1 with budget := setSparse s1.budget tile (sparse s1.budget tile + 1) }

/-- Where a page lives, for a move: a shared page in a pinned copy or not at all. -/
def State.liveFrame (s : State) (p : Page) : Option Nat := match p.share with
  | some (i, k) => (match s.share? i with
    | some x => (x.pages[k]?).bind (fun y => y.tier)
    | none => none)
  | none => p.frame

/-- Does a page live in tier SRAM? -/
def State.inTier (s : State) (p : Page) : Bool := match s.liveFrame p with
  | some f => isTier f
  | none => false

/-- Moves of a tile in flight. -/
def State.inFlight (s : State) (tile : Nat) : Nat := (s.moves.filter (fun m => m.going && m.keyId == 0 && m.tile == tile)).length

/-- The lease that a move goes to or comes from. -/
def State.moveLease (s : State) (m : Move) : Option Lease :=
  let f := if 2 ^ 25 ≤ m.dest then some m.dest else ((s.ctx? m.ctx).bind (fun c => c.page? m.va)).bind (fun p => p.lease)
  f.bind (fun f => s.links.leases.find? (fun l => l.slot == (f - 2 ^ 25) / 512))

/-- A move takes flight when its tile's budget allows it and fewer than eight of the tile are in flight (R204). One to or from a lease sends
its transfers, and waits for the last of them under an entry of the hub's part of the Ledger (R160–R162). A page that a KeyID takes over moves
nowhere and counts against no budget (R414). -/
def State.launch (s : State) (m : Move) : State :=
  let fly (s : State) : State := { s with moves := s.moves.map (fun x => if x = m then { x with paid := true, going := true } else x) }
  if m.going then s
  else if m.keyId != 0 then fly s
  else if 8 ≤ s.inFlight m.tile || (!m.paid && s.budgetLeft m.tile == 0) then s
  else
    let s1 := if m.paid then s else s.spend m.tile
    match s1.moveLease m with
    | none => fly s1
    | some l => match s1.crossPage l m.va (2 ^ 25 ≤ m.dest) with
      | none => s
      | some s2 => fly s2

/-- Let every move take flight that may, in the order in which they were asked for. -/
def State.pumpMoves (s : State) : State := s.moves.foldl (fun s m => s.launch m) s

/-- Ask for the move of a page (R205); `paid` when its move of the budget is already spent. -/
def State.startMove (s : State) (id vp dest : Nat) (why : Reason) (key : Nat) (paid : Bool) : State :=
  let src := ((s.ctx? id).bind (fun c => c.page? vp)).bind s.liveFrame
  ({ s with moves := s.moves ++ [{ ctx := id, va := vp, dest := dest, reason := why, keyId := key, tile := moveTile src dest, paid := paid }] }
    : State).pumpMoves

/-- Is the page a snapshot page that no move of the placement engine may take? (R485) -/
def State.snapshotPage (s : State) (id vp : Nat) : Bool := match (s.ctx? id).bind (fun c => c.page? vp) with
  | some p => p.snap
  | none => false

/-- The move of a page to another frame, if one is asked for. -/
def State.moveOf (s : State) (id vp : Nat) : Option Move := s.moves.find? (fun m => m.ctx == id && m.va == vp && m.keyId == 0)

/-- Is a move of the page in progress, or the page held in place by a snapshot? -/
def State.moving (s : State) (id vp : Nat) : Bool := s.moves.any (fun m => m.ctx == id && m.va == vp) || s.snapshotPage id vp

/-- Give up moves that will not be made: the frames set aside for them are free again. -/
def State.cancelMoves (s : State) (p : Move → Bool) : State :=
  let gone := s.moves.filter p
  let s1 := { s with moves := s.moves.filter (fun m => !p m) }
  gone.foldl (fun s m =>
    if m.keyId != 0 then s
    else if isTier m.dest then s.dropTier m.dest
    else if isHbm m.dest && !s.ctxs.any (fun c => c.pages.any (fun q => q.hbm == some m.dest)) then s.freeFrame m.dest
    else s) s1

/-- Start the move of a page into a core's slice. -/
def State.moveToTier (s : State) (c : Ctx) (p : Page) (core : Nat) (why : Reason) (paid : Bool) : State :=
  match s.freeTierOf core with
  | none => s
  | some f => (s.takeTier f).startMove c.id p.va f why 0 paid

/-- Start the demotion of a page that lives in tier SRAM to its reserved HBM frame. -/
def State.moveToHbm (s : State) (c : Ctx) (p : Page) (why : Reason) (paid : Bool) : State :=
  match p.tier, p.hbm with
  | some _, some h => s.startMove c.id p.va h why 0 paid
  | _, _ => s

/-! ### Tier SRAM: holdings, allowance and slices -/

/-- Tier SRAM frames in service (R196). -/
def State.tierService (s : State) : Nat := 24576 - s.mem.tierRetired.length

/-- Tier frames that a context holds: those of its own pages, and the copies of attached pages that it pins (R208). -/
def State.tierHeld (s : State) (c : Ctx) : Nat := (c.pages.filter (fun p => s.inTier p && (p.share.isNone || p.pin))).length

/-- Pages of a context that live in tier SRAM, or are on their way, less those on their way out. -/
def State.tierPlanned (s : State) (c : Ctx) : Nat :=
  (c.pages.filter (fun p => match s.moveOf c.id p.va with
    | some m => isTier m.dest
    | none => s.inTier p && (p.share.isNone || p.pin))).length

/-- Pinned pages of a context. -/
def Ctx.pinned (c : Ctx) : Nat := (c.pages.filter (fun p => p.pin)).length

/-- A page's heat (R203). -/
def Page.heatSum (p : Page) : Nat := p.heat.sum

/-- Tier frames planned beyond the sum of the limits that stand for them (R202). -/
def State.surplusHeld (s : State) : Nat := (s.ctxs.map (fun c => s.tierPlanned c - c.limits.sramMax)).sum

/-- The surplus of R202. -/
def State.surplus (s : State) : Nat := s.tierService - 512 - (s.ctxs.map (fun c => c.limits.sramMax)).sum

/-- The allowance of a context (R202). -/
def State.allowance (s : State) (c : Ctx) : Nat :=
  if s.conf then c.limits.sramMax
  else
    let heatOf (d : Ctx) : Nat := ((d.pages.filter (fun p => !p.pin)).map Page.heatSum).sum
    let total := ((s.ctxs.filter (fun d => d.res.state == .resident)).map heatOf).sum
    c.limits.sramMax + (if total = 0 then 0 else s.surplus * heatOf c / total)

/-- The unpinned page of a context that leaves tier SRAM first, among those that stay so far: least heat, then the lower address. -/
def State.coldest (s : State) (c : Ctx) : Option Page :=
  leastBy (fun p => p.heatSum * 2 ^ 27 + p.va) (c.pages.filter (fun p => p.tier.isSome && !p.pin && !s.moving c.id p.va))

/-- Start the demotion of the coldest page of a context. -/
def State.giveUp (s : State) (c : Ctx) (why : Reason) : State := match s.coldest c with
  | some p => s.moveToHbm c p why false
  | none => s

/-- Demote surplus pages while more are planned than the surplus holds (R202): `fuel` at most. -/
def State.trimSurplus (s : State) : Nat → State
  | 0 => s
  | fuel + 1 =>
    if s.surplusHeld ≤ s.surplus then s
    else match s.ctxs.find? (fun c => decide (c.limits.sramMax < s.tierPlanned c) && (s.coldest c).isSome) with
      | none => s
      | some c => (s.giveUp c .surplus).trimSurplus fuel

/-- The slice of a tile for a page: the last toucher's when it has a free frame, else the one with the most free frames, the lower
core number on a tie (R203). -/
def State.sliceIn (s : State) (t : Nat) (p : Page) : Option Nat :=
  if tileOf p.toucher = t && 0 < s.tierFree p.toucher then some p.toucher
  else leastBy (fun n => 256 - s.tierFree n) (((List.range 16).map (fun i => t * 16 + i)).filter
    (fun n => decide (0 < s.tierFree n)))

/-- The slice for a page (R203): on the tile with the largest count, the lower on a tie. A tile at 100 °C receives none. -/
def State.targetSlice (s : State) (p : Page) : Option Nat :=
  match leastBy (fun t => 65536 - p.heat.getD t 0) (List.range 6) with
  | none => none
  | some t => if s.tileTemp t < 800 then s.sliceIn t p else none

/-- The slice that a page's affinity names: that of the home core of its queue, when it can take a page (R208). -/
def State.homeSlice (s : State) (c : Ctx) (p : Page) : Option Nat :=
  match (p.affinity.bind (fun q => c.queue? q)).bind (fun x => x.home) with
  | some n => if s.cool n && decide (0 < s.tierFree n) then some n else none
  | none => none

/-- The slice for a page with its hints (R208), and why. -/
def State.sliceFor (s : State) (c : Ctx) (p : Page) : Option (Nat × Reason) :=
  match s.homeSlice c p with
  | some n => some (n, .affinity)
  | none => (s.targetSlice p).map (fun n => (n, .heat))

/-- A slice with room for a page that is pinned: the one of the page's target first, then one on a tile below 100 °C, then any, since a
pin binds (R196, R208). -/
def State.anySlice (s : State) (c : Ctx) (p : Page) : Option Nat :=
  match s.sliceFor c p with
  | some n => some n.1
  | none => match (List.range 96).find? (fun n => decide (0 < s.tierFree n) && s.cool n) with
    | some n => some n
    | none => (List.range 96).find? (fun n => decide (0 < s.tierFree n))

/-- Is a frame of tier SRAM about to be given up? -/
def State.vacating (s : State) : Bool := s.moves.any (fun m => m.keyId == 0 && !isTier m.dest && (match (s.ctx? m.ctx).bind (fun c => c.page? m.va) with
  | some p => s.inTier p
  | none => false))

/-- Room for one more pinned page (R202): beyond its allowance an unpinned page of the context leaves; while no slice has a free frame, a surplus
page does. -/
def State.makeRoom (s : State) (id : Nat) : State :=
  match s.ctx? id with
  | none => s
  | some c =>
    let s1 := if s.allowance c ≤ s.tierPlanned c then s.giveUp c .pin else s
    if (List.range 96).any (fun n => decide (0 < s1.tierFree n)) || s1.vacating then s1
    else match s1.ctxs.find? (fun d => decide (d.limits.sramMax < s1.tierPlanned d) && (s1.coldest d).isSome) with
      | none => s1
      | some d => s1.giveUp d .surplus

/-- Start the move that a pin calls for, of a page that neither lives in tier SRAM nor is on its way; it waits while no frame is free. -/
def State.pinMove (s : State) (id vp : Nat) (why : Reason) : State :=
  match (s.ctx? id).bind (fun c => c.page? vp) with
  | none => s
  | some p =>
    if s.inTier p || (s.moveOf id vp).isSome then s
    else
      let s1 := s.makeRoom id
      match s1.ctx? id with
      | none => s1
      | some c => match s1.anySlice c p with
        | none => s1
        | some n => s1.moveToTier c p n why false

/-- Start the moves of the pinned pages of the contexts that hold tier SRAM (R201, R208). -/
def State.retryPins (s : State) : State :=
  (s.ctxs.filter (fun c => c.res.state == .resident && c.res.leaving == .stays)).foldl (fun s c =>
    (c.pages.filter (fun p => p.pin)).foldl (fun s p => s.pinMove c.id p.va (if c.res.pinning then .residency else .pin)) s) s

/-- Are all pages of a range in tier SRAM? -/
def State.allInTier (s : State) (c : Ctx) (vp n : Nat) : Bool :=
  (c.pages.filter (fun p => decide (vp ≤ p.va) && decide (p.va < vp + n))).all s.inTier

/-- Do all pinned pages of a context live in tier SRAM? -/
def State.pinsStand (s : State) (c : Ctx) : Bool := (c.pages.filter (fun p => p.pin)).all s.inTier

/-- Contexts whose pinned pages are all back may dispatch (R201). -/
def State.settlePinning (s : State) : State :=
  { s with ctxs := s.ctxs.map (fun c => if c.res.pinning && s.pinsStand c then { c with res := { c.res with pinning := false } } else c) }

/-- The pages in the tier slice of a core that a context pins. -/
def State.pinsOn (s : State) (c : Ctx) (core : Nat) : List Page :=
  c.pages.filter (fun p => p.pin && (match s.liveFrame p with
    | some f => isTier f && tierCore f == core
    | none => false))

/-- Pinned pages follow from one core's slice into another, where it has room (R211). -/
def State.movePins (s : State) (id core core2 : Nat) (why : Reason) : State :=
  match s.ctx? id with
  | none => s
  | some c => (s.pinsOn c core).foldl (fun s p => if s.moving id p.va then s else s.moveToTier c p core2 why false) s

/-! ### Homes that move (R174, R209) -/

/-- Move a queue's window, with its content, to another core (R174). -/
def State.moveHome (s : State) (ctx q : Nat) (core2 : Nat) : State :=
  match s.ctx? ctx with
  | none => s
  | some c => match c.queue? q with
    | none => s
    | some x => match x.home, s.windowBase core2 x.window with
      | some core, some b =>
        let src := scratchBase core + x.base * 2 ^ 20
        let dst := scratchBase core2 + b * 2 ^ 20
        let size := x.window * 2 ^ 20
        let s1 := s.modCells (fun cs => clearCells (copyCells cs src dst size) src size)
        -- poisoned pieces move with the content; those that stood in the new place are written over (R177)
        let s2 := s1.modMem (fun m => { m with pieces := (m.pieces.filter (fun p => !within (p * 64) dst size)).map (fun p =>
          if within (p * 64) src size then (p * 64 - src + dst) / 64 else p) })
        let s3 := s2.modQueue ctx q (fun y =>
          { y with home := some core2, base := b,
                   rep := y.rep.map (fun p => { p with cores := p.cores.map (fun z => if z.2 = core then (z.1, core2) else z) }) })
        -- under generation mode the pinned pages of the core follow (R211)
        if x.genMode then s3.movePins ctx core core2 .homeMoved else s3
      | _, _ => s


/-- May the window of a queue move? Only between two of its commands (R174). -/
def Queue.movable (x : Queue) : Bool := !x.recs.any (fun r => r.phase == .running)

/-- Move a queue's home to the core that R209 would choose now among those that meet a test, when it may move and a core has room. While no
core has room, the window stays where it is, on a core out of service too, and the commands of the queue wait for one (DESIGN CHOICE LOG 22: R174
and R209 are silent). -/
def State.rehome (s : State) (id : Nat) (x : Queue) (ok : Nat → Bool) : State :=
  if x.movable then
    match s.chooseHome x.window ok with
    | some n => s.moveHome id x.number n
    | none => s
  else s

/-- Does the core serve: active and not suspended? (R458) -/
def State.serving (s : State) (n : Nat) : Bool := match s.core? n with
  | some k => k.status == .active && !k.suspended
  | none => false

/-- Does a home call for another core: its own has left service, is hot, or has carried too much load for four reviews? (R209) -/
def State.homeFails (s : State) (x : Queue) (n : Nat) : Bool := !s.serving n || !s.cool n || decide (4 ≤ x.overload)

/-- A queue whose home must move does so as soon as none of its commands runs (R174, R209, R458, R459); away from heat or load it goes to a cool
core other than its own (DEDUCED LOG 22), and its count of loaded reviews begins anew. -/
def State.settleHome (s : State) (id q : Nat) : State :=
  match s.ctx? id with
  | none => s
  | some c => match c.queue? q with
    | none => s
    | some x => match x.home with
      | none => s
      | some n =>
        if !s.homeFails x n then s
        else
          let s1 := s.rehome id x (if s.serving n then fun k => k != n && s.cool k else fun _ => true)
          match ((s1.ctx? id).bind (fun d => d.queue? q)).bind (fun y => y.home) with
          | some m => if m = n then s1 else s1.modQueue id q (fun y => { y with overload := 0 })
          | none => s1

end Sys2Proof.Machine
end

