-- ==== Sys2Proof/Machine/Params.lean ====
section
/-!
DEFINITION. Machine/Params.lean: parameter records (R231, R232) and the regions that they name.
-/
namespace Sys2Proof.Machine

/-- A parameter record (Table 08-4). -/
structure Param where
  gradAddr : Nat
  gradSpace : Nat
  gradQueue : Nat
  workFmt : Nat
  opt : Nat
  frozen : Bool
  master : Nat
  tailOff : Nat
  count : Nat
  mAddr : Nat
  vAddr : Nat
  workAddr : Nat
  workSlot : Nat
  lrMul : Nat
  wd : Nat
  lo : Nat
  hi : Nat
  workFence : Nat
  tensor : Nat
  ndim : Nat
  ext : List Nat
  off : List Nat
  shp : List Nat
  /-- a reserved field or value is set -/
  rsvd : Bool
  deriving DecidableEq, Repr

/-- Four 32-bit fields from a bit. -/
def quad (w lo : Nat) : List Nat := (List.range 4).map (fun d => field w (lo + 32 * d + 31) (lo + 32 * d))

/-- The fields of a record. A field that `opt` or `work_fmt` does not use is reserved (R231). -/
def paramOf (bs : Bytes) : Param :=
  let w := ofLe (slice bs 0 128)
  let workFmt := field w 59 56
  let opt := field w 61 60
  { gradAddr := field w 47 0, gradSpace := field w 48 48, gradQueue := field w 54 49, workFmt := workFmt, opt := opt, frozen := flag w 62,
    master := field w 111 64, tailOff := field w 159 128, count := field w 191 160, mAddr := field w 239 192, vAddr := field w 303 256,
    workAddr := field w 367 320, workSlot := field w 383 368, lrMul := field w 415 384, wd := field w 447 416, lo := field w 463 448,
    hi := field w 479 464, workFence := field w 511 480, tensor := field w 543 512, ndim := field w 545 544, ext := quad w 576, off := quad w 704,
    shp := quad w 832,
    rsvd := flag w 55 || flag w 63 || anySet w 127 112 || anySet w 255 240 || anySet w 319 304 || anySet w 575 546 || anySet w 1023 960
      || decide (4 ≤ workFmt) || decide (2 ≤ opt) || (opt == 1 && anySet w 303 256) || (workFmt == 3 && anySet w 367 320)
      || (decide (2 ≤ workFmt) && anySet w 383 368) }

/-- Bytes of an element of the working copy. -/
def Param.workBytes (p : Param) : Nat := if p.workFmt = 2 then 2 else 1

/-- The regions of a record in context space: address, bytes, and whether the step writes it. -/
def Param.regions (p : Param) : List (Nat × Nat × Bool) :=
  (if p.gradSpace = 0 then [(p.gradAddr, 4 * p.count, true)] else [])
    ++ [(p.master, 2 * p.count, true), (p.master + p.tailOff, 2 * p.count, true), (p.mAddr, 2 * p.count, true)]
    ++ (if p.opt = 0 then [(p.vAddr, 2 * p.count, true)] else [])
    ++ (if p.workFmt < 3 then [(p.workAddr, p.workBytes * p.count, true)] else [])

/-- The region whose reads a phase 1 holds (R240): the working copy, or the head plane. -/
def Param.workRegion (p : Param) : Nat × Nat :=
  if p.workFmt < 3 then (p.workAddr, p.workBytes * p.count) else (p.master, 2 * p.count)

/-- Pages that hold a record's master copy and moments (R246). -/
def Param.statePages (p : Param) : List Nat :=
  ((p.regions.filter (fun r => r.1 == p.master || r.1 == p.master + p.tailOff || r.1 == p.mAddr || (p.opt == 0 && r.1 == p.vAddr))).flatMap
    (fun r => (piecesOf r.1 r.2.1).map (fun x => x.1))).eraseDups

/-- Is the record consistent? (R232) -/
def State.consistent (s : State) (c : Ctx) (p : Param) : Bool :=
  let dims := List.range 4
  let get (l : List Nat) (d : Nat) : Nat := l.getD d 0
  p.count == ((List.range (p.ndim + 1)).map (get p.shp)).foldl (fun a b => a * b) 1
    && dims.all (fun d => decide (get p.off d + get p.shp d ≤ get p.ext d))
    && dims.all (fun d => decide (d ≤ p.ndim) || (get p.ext d == 1 && get p.off d == 0 && get p.shp d == 1))
    && [p.gradAddr, p.master, p.tailOff, p.mAddr, p.vAddr, p.workAddr].all (fun a => a % 64 == 0)
    && w32Finite (BitVec.ofNat 32 p.lrMul) && w32Finite (BitVec.ofNat 32 p.wd)
    && (decide (2 ≤ p.workFmt) || (decide (p.workSlot < c.scaleN) && (s.peekSlot c.id p.workSlot).fmt == p.workFmt))
    && (p.gradSpace == 0 || (match c.queue? p.gradQueue with
        | some q => q.window != 0
        | none => false))

/-- Does the record name a scale slot whose format is reserved? (R56) -/
def State.slotReserved (s : State) (c : Ctx) (p : Param) : Bool :=
  decide (p.workFmt < 2) && decide (p.workSlot < c.scaleN) && decide (3 ≤ (s.peekSlot c.id p.workSlot).fmt)

/-- Does the record's accumulation region lie in its queue's window? -/
def Ctx.gradInWindow (c : Ctx) (p : Param) : Bool :=
  p.gradSpace == 0 || (match c.queue? p.gradQueue with
    | some q => decide (p.gradAddr + 4 * p.count ≤ q.window * 2 ^ 20)
    | none => false)

/-- Poison every page that a byte range of a context touches (R250): each block of an HBM frame, each piece of a tier frame. -/
def State.poisonRange (s : State) (id va n : Nat) : State :=
  (piecesOf va n).foldl (fun s x => match s.ctx? id with
    | none => s
    | some c => match c.page? x.1 with
      | none => s
      | some p => match s.placeOf p none with
        | .hbm f =>
          s.modMem (fun m =>
            let g := m.meta f
            let k := keyOf c p
            let words : List Poison := (List.range 8192).map (fun b =>
              { block := b, lastMinor := sparse g.minors b, key := k.2, kspace := k.1, cause := 0 })
            m.setMeta { g with poison := words })
        | .tier f => s.modMem (fun m => { m with pieces := ((List.range 32768).map (fun i => physAt f 0 / 64 + i)) ++ m.pieces })
        | .lease _ => s.modPage id x.1 (fun q => { q with lost := true })
        | .lost => s) s

/-- Are the release windows held, and does one of some regions lie in them? Writes wait while a proposal is open (R380). -/
def Ctx.heldRelease (c : Ctx) (rs : List Region) : Bool := match c.policy with
  | none => false
  | some p => p.proposal.isSome && rs.any (fun r => r.space == 0 && p.windows.any (fun w =>
      w.kind == 3 && r.bytes != 0 && decide (r.addr < w.va + w.pages * pageSize) && decide (w.va < r.addr + r.bytes)))

/-- Record `i` of a range that begins at `first`, as the phase read it (R235). -/
def OptRun.param (r : OptRun) (first i : Nat) : Param := paramOf (slice r.recs (128 * (i - first)) 128)

/-- The payload of the final answer to an OPT_STEP (Table 08-7); `c` is the clip factor. -/
def OptRun.answer (r : OptRun) (c dpSteps : Nat) : Bytes :=
  toLe 4 r.nan ++ toLe 4 r.inf ++ toLe 4 r.fin ++ toLe 4 c
    ++ toLe 4 (r.finished % 2 ^ 24 + r.skipped.toNat * 2 ^ 24 + (r.flags % 64) * 2 ^ 25) ++ toLe 4 (r.shippedN % 2 ^ 24) ++ toLe 4 dpSteps
    ++ toLe 4 0

/-- The payload of the final answer to a request of a context: 1.0 in phase 0, and a free number where phase 1 ended before *c* was formed
(R242; LOG 12). -/
def State.optAnswer (s : State) (id : Nat) (o : OptReq) (r : OptRun) : State × Bytes :=
  let dps := match s.ctx? id with
    | some c => c.dpSteps
    | none => 0
  if o.kind = 0 then (s, r.answer w32One.toNat dps)
  else match r.clip with
    | some c => (s, r.answer c dps)
    | none =>
      let t := s.freeNat
      (t.1, r.answer (t.2 % 2 ^ 32) dps)

/-- Are reads of some regions held? From the start of a record's phase 1 until its work fence is signalled, reads of its working-copy pages
wait (R240): here while a lender updates the record, or an audit holds its fence. -/
def Ctx.heldReads (c : Ctx) (rs : List Region) : Bool :=
  c.opt.any (fun o => match o.run with
    | none => false
    | some r =>
      o.kind == 1 && (r.away.map (fun a => a.1) ++ r.audit).any (fun i =>
        let w := (r.param (field (ofLe (slice o.payload 0 12)) 87 64) i).workRegion
        w.2 != 0 && rs.any (fun g => g.space == 0 && g.bytes != 0 && decide (vpage g.addr ≤ vpage (w.1 + w.2 - 1))
          && decide (vpage w.1 ≤ vpage (g.addr + g.bytes - 1)))))

/-- The tensors of a record as its step writes them (R241). -/
def Param.guards (p : Param) (va : Nat) : List Guarded :=
  let g (space addr n : Nat) : Guarded := { va := va, space := space, queue := p.gradQueue, addr := addr, bytes := n }
  ((if p.gradSpace = 1 then [g 1 p.gradAddr (4 * p.count)] else []) ++ p.regions.map (fun r => g 0 r.1 r.2.1)).filter (fun x => x.bytes != 0)

end Sys2Proof.Machine
end

