-- ==== Sys2Proof/Machine/Plan.lean ====
section
/-!
DEFINITION. Machine/Plan.lean: what each member of a group does in an instance, step by step: operations (Table 09-9),
algorithms (R290), and the combination of contributions (R287).
-/
namespace Sys2Proof.Machine

/-- The argument block of a COLLECTIVE (Table 09-8). -/
structure CollArgs where
  coll : Nat
  alg : Nat
  srcFmt : Nat
  dstFmt : Nat
  group : Nat
  gen : Nat
  root : Nat
  src : Nat
  srcSpace : Nat
  dst : Nat
  dstSpace : Nat
  count : Nat
  rsvd : Bool
  deriving DecidableEq, Repr

/-- The fields of an argument block. -/
def collArgs (w : Nat) : CollArgs :=
  { coll := field w 3 0, alg := field w 5 4, srcFmt := field w 11 8, dstFmt := field w 15 12, group := field w 31 16, gen := field w 39 32,
    root := field w 63 48, src := field w 111 64, srcSpace := field w 113 112, dst := field w 175 128, dstSpace := field w 177 176,
    count := field w 231 192,
    rsvd := anySet w 7 6 || anySet w 47 40 || anySet w 127 114 || anySet w 191 178 || anySet w 511 232 }

/-- Format codes of Table 03-4 that name P32I pairs and BF16. -/
def codeP32I : Nat := 7
def codeBF16 : Nat := 5

/-- Bytes of an element of a format code, for the formats of Table 09-9. -/
def collElem (fmt : Nat) : Nat := match Fmt.ofCode fmt with
  | some f => f.half / 2
  | none => 0

/-- Elements read and written by a member (Table 09-9). -/
def CollArgs.reads (a : CollArgs) (n rank : Nat) : Nat := match a.coll with
  | 1 => n * a.count
  | 4 => if rank = a.root then a.count else 0
  | 7 => 0
  | _ => a.count
/-- Elements written. -/
def CollArgs.writes (a : CollArgs) (n rank : Nat) : Nat := match a.coll with
  | 2 => n * a.count
  | 3 => if rank = a.root then a.count else 0
  | 6 => 0
  | _ => a.count

/-- Operations that sum. -/
def CollArgs.sums (a : CollArgs) : Bool := a.coll == 0 || a.coll == 1 || a.coll == 3 || a.coll == 5

/-- Operations that end with the comparison of result tallies (R294). -/
def CollArgs.tallied (a : CollArgs) : Bool := a.coll == 0 || a.coll == 2

/-- The call signature of R285, in one number: the spec gives its content and no encoding (LOG 33). SEND and RECV match. -/
def CollArgs.signature (a : CollArgs) : Nat :=
  tally (toLe 1 (if a.coll = 7 then 6 else a.coll) ++ toLe 1 a.alg ++ toLe 1 a.srcFmt ++ toLe 1 a.dstFmt ++ toLe 2 a.root ++ toLe 5 a.count)

/-- One step of a member: it sends a range of its running result to a rank, or takes a contribution of one of some ranks into a range,
or both. `add`: the contribution is combined, else it is copied. Ranges are in elements: first, number. -/
structure PlanStep where
  dest : Option Nat := none
  sendLo : Nat := 0
  sendN : Nat := 0
  frm : List Nat := []
  recvLo : Nat := 0
  recvN : Nat := 0
  add : Bool := false
  deriving DecidableEq, Repr

/-- Children of a rank in a tree of `n` (the parent of `r` is ⌊(r − 1)/2⌋). -/
def childrenOf (n r : Nat) : List Nat := [2 * r + 1, 2 * r + 2].filter (fun c => decide (c < n))

/-- Block `b` of `total` elements cut into `n`: first, number. -/
def blockOf (total n b : Nat) : Nat × Nat :=
  let k := ceilDiv total n
  (min total (b * k), min total ((b + 1) * k) - min total (b * k))

/-- Send a range, when it is not empty. -/
def sendStep (d lo n : Nat) : List PlanStep := if n = 0 then [] else [{ dest := some d, sendLo := lo, sendN := n }]
/-- Take a range, when it is not empty. -/
def recvStep (frm : List Nat) (lo n : Nat) (add : Bool) : List PlanStep := if n = 0 then [] else [{ frm := frm, recvLo := lo, recvN := n, add := add }]

/-- Reduce up a tree and broadcast down, over one range, among the ranks that `name` gives to positions. A fixed order of children is
kept under NORM (R289); else contributions combine as they arrive (R287). -/
def treeRange (name : Nat → Nat) (n pos lo k : Nat) (ordered : Bool) : List PlanStep :=
  let kids := (childrenOf n pos).map name
  let up := if ordered then kids.flatMap (fun c => recvStep [c] lo k true) else kids.flatMap (fun _ => recvStep kids lo k true)
  let parent := name ((pos - 1) / 2)
  up ++ (if pos = 0 then [] else sendStep parent lo k ++ recvStep [parent] lo k false) ++ kids.flatMap (fun c => sendStep c lo k)

/-- Reduce up a tree alone. -/
def treeUp (name : Nat → Nat) (n pos lo k : Nat) : List PlanStep :=
  let kids := (childrenOf n pos).map name
  kids.flatMap (fun _ => recvStep kids lo k true) ++ (if pos = 0 then [] else sendStep (name ((pos - 1) / 2)) lo k)

/-- Broadcast down a tree alone. -/
def treeDown (name : Nat → Nat) (n pos lo k : Nat) : List PlanStep :=
  (if pos = 0 then [] else recvStep [name ((pos - 1) / 2)] lo k false) ++ ((childrenOf n pos).map name).flatMap (fun c => sendStep c lo k)

/-- Cut a range of elements into chunks of 64 KiB (Table 09-10). -/
def chunksOf (lo total chunk : Nat) : List (Nat × Nat) :=
  (List.range (ceilDiv total (max 1 chunk))).map (fun i => (lo + i * chunk, min chunk (total - i * chunk)))

/-- The ranks at or below a position of a tree, nearest first. -/
def subtree (n : Nat) : Nat → Nat → List Nat
  | 0, _ => []
  | fuel + 1, p => if p < n then p :: (subtree n fuel (2 * p + 1) ++ subtree n fuel (2 * p + 2)) else []

/-- Gather what each position holds up a tree and send all of it down; `held` gives the ranges of a position. -/
def treeGather (name : Nat → Nat) (n pos : Nat) (held : Nat → List (Nat × Nat)) : List PlanStep :=
  let kids := childrenOf n pos
  let parent := name ((pos - 1) / 2)
  let sendAll (d : Nat) (ps : List Nat) : List PlanStep := ps.flatMap (fun b => (held b).flatMap (fun x => sendStep d x.1 x.2))
  let recvAll (d : Nat) (ps : List Nat) : List PlanStep := ps.flatMap (fun b => (held b).flatMap (fun x => recvStep [d] x.1 x.2 false))
  kids.flatMap (fun k => recvAll (name k) (subtree n n k))
    ++ (if pos = 0 then [] else sendAll parent (subtree n n pos) ++ recvAll parent (List.range n))
    ++ kids.flatMap (fun k => sendAll (name k) (List.range n))

/-- One ring over the ranks base … base + n − 1, on a range, in one direction: the reduce-scatter phase. -/
def ringScatter (base n r lo total : Nat) (fwd : Bool) : List PlanStep :=
  let next := base + (if fwd then r + 1 else r + n - 1) % n
  let prev := base + (if fwd then r + n - 1 else r + 1) % n
  (List.range (n - 1)).flatMap (fun s =>
    let sb := if fwd then (r + n - s) % n else (r + s) % n
    let rb := if fwd then (r + 2 * n - s - 1) % n else (r + s + 1) % n
    let a := blockOf total n sb
    let b := blockOf total n rb
    sendStep next (lo + a.1) a.2 ++ recvStep [prev] (lo + b.1) b.2 true)

/-- The all-gather phase of a ring: what each member starts with, the ranges that `held` gives, goes round. -/
def ringPass (base n r : Nat) (fwd : Bool) (held : Nat → List (Nat × Nat)) : List PlanStep :=
  let next := base + (if fwd then r + 1 else r + n - 1) % n
  let prev := base + (if fwd then r + n - 1 else r + 1) % n
  (List.range (n - 1)).flatMap (fun s =>
    let mine := if fwd then (r + n - s) % n else (r + s) % n
    let theirs := if fwd then (r + 2 * n - s - 1) % n else (r + s + 1) % n
    (held mine).flatMap (fun x => sendStep next x.1 x.2) ++ (held theirs).flatMap (fun x => recvStep [prev] x.1 x.2 false))

/-- The all-gather phase after a reduce-scatter: a member starts with the block that `own` gives it. -/
def ringGather (base n r lo total : Nat) (fwd : Bool) (own : Nat → Nat) : List PlanStep :=
  ringPass base n r fwd (fun b => [(lo + (blockOf total n (own b)).1, (blockOf total n (own b)).2)])

/-- A broadcast along a ring, one way, on a range: position 0 is the root. -/
def ringSpread (name : Nat → Nat) (n pos lo k : Nat) : List PlanStep :=
  (if pos = 0 then [] else recvStep [name (pos - 1)] lo k false) ++ (if pos + 1 < n then sendStep (name (pos + 1)) lo k else [])

/-- After the reduce-scatter phase member `r` holds block r + 1 (or r − 1 the other way). -/
def heldBlock (n : Nat) (fwd : Bool) (r : Nat) : Nat := if fwd then (r + 1) % n else (r + n - 1) % n

/-- Two counter-rotating rings, each over half of the data (Table 09-10). -/
def twoRings (total : Nat) (ring : Nat → Nat → Bool → List PlanStep) : List PlanStep :=
  let h := ceilDiv total 2
  ring 0 h true ++ ring h (total - h) false

/-- Sum everywhere. -/
def planSum (kind n r total : Nat) : List PlanStep :=
  match kind with
  | 0 => (chunksOf 0 total 16384).flatMap (fun c => treeRange (fun p => p) n r c.1 c.2 false)
  | 1 => twoRings total (fun lo k fwd => ringScatter 0 n r lo k fwd ++ ringGather 0 n r lo k fwd (heldBlock n fwd))
  | _ =>
    -- a ring in each run of 64, a tree across the runs, a ring in each run
    let base := r / 64 * 64
    let p := r % 64
    let blk := blockOf total 64 (heldBlock 64 true p)
    ringScatter base 64 p 0 total true ++ treeRange (fun q => q * 64 + p) (n / 64) (r / 64) blk.1 blk.2 false
      ++ ringGather base 64 p 0 total true (heldBlock 64 true)

/-- The algorithm of an instance (R290): 0 tree, 1 ring, 2 rings and tree. `alg` 1 and 2 name ring and tree. -/
def algOf (alg n bytes : Nat) : Nat :=
  if alg = 1 then 1 else if alg = 2 then 0
  else if bytes < 2 ^ 20 then 0 else if n ≤ 256 then 1 else if n % 64 = 0 then 2 else 0

/-- All-gather of blocks of `c` elements. A ring moves half of every block each way. Across runs of 64, members at equal positions gather their
blocks by a tree, and a ring in each run passes them on: the first ring of the row moves nothing (DEDUCED LOG 33). -/
def planGather (kind n r c chunk : Nat) : List PlanStep :=
  match kind with
  | 0 => treeGather (fun p => p) n r (fun b => chunksOf (b * c) c chunk)
  | 1 => twoRings c (fun lo k fwd => ringPass 0 n r fwd (fun b => [(b * c + lo, k)]))
  | _ => treeGather (fun q => q * 64 + r % 64) (n / 64) (r / 64) (fun q => chunksOf ((q * 64 + r % 64) * c) c chunk)
      ++ ringPass (r / 64 * 64) 64 (r % 64) true (fun p => (List.range (n / 64)).map (fun q => ((q * 64 + p) * c, c)))

/-- Broadcast of `c` elements from a root: down the tree; half each way along the ring; or along the root's run, down the trees of equal
positions with a block each, and round the other runs (DEDUCED LOG 33). -/
def planBroadcast (kind n r root c chunk : Nat) : List PlanStep :=
  match kind with
  | 0 => (chunksOf 0 c chunk).flatMap (fun x => treeDown (fun p => (p + root) % n) n ((r + n - root % n) % n) x.1 x.2)
  | 1 => twoRings c (fun lo k fwd =>
      if fwd then ringSpread (fun p => (root + p) % n) n ((r + n - root % n) % n) lo k
      else ringSpread (fun p => (root + n - p % n) % n) n ((root + n - r % n) % n) lo k)
  | _ =>
    let m := n / 64
    let run := root / 64
    let p := r % 64
    let blk := blockOf c 64 p
    let home := r / 64 == run
    let near := twoRings c (fun lo k fwd =>
      if fwd then ringSpread (fun q => run * 64 + (root % 64 + q) % 64) 64 ((p + 64 - root % 64) % 64) lo k
      else ringSpread (fun q => run * 64 + (root % 64 + 64 - q % 64) % 64) 64 ((root % 64 + 64 - p) % 64) lo k)
    (if home then near else []) ++ treeDown (fun q => (q + run) % m * 64 + p) m ((r / 64 + m - run) % m) blk.1 blk.2
      ++ (if home then [] else ringGather (r / 64 * 64) 64 p 0 c true (fun b => b))

/-- The steps of a member. For operations that Table 09-10 leaves to the reader, a tree or ring is built on the same ranks (DEDUCED
LOG 33). -/
def planOf (a : CollArgs) (n r : Nat) : List PlanStep :=
  let k := algOf a.alg n (a.count * collElem a.srcFmt)
  let chunk := max 1 (65536 / max 1 (collElem a.srcFmt))
  let shift (p : Nat) : Nat := (p + a.root) % n
  let pos := (r + n - a.root % n) % n
  match a.coll with
  | 0 => planSum k n r a.count
  | 1 => planSum k n r (n * a.count)
  | 2 => planGather k n r a.count chunk
  | 3 => if k = 0 then (chunksOf 0 a.count 16384).flatMap (fun c => treeUp shift n pos c.1 c.2) else planSum k n r a.count
  | 4 => planBroadcast k n r a.root a.count chunk
  | 5 => treeRange (fun p => p) n r 0 1 true
  | 6 => sendStep (1 - r) 0 a.count
  | _ => recvStep [1 - r] 0 a.count false

/-- Ranks that send to a member in its plan. -/
def sendersOf (steps : List PlanStep) : List Nat := (steps.flatMap (fun p => p.frm)).eraseDups

/-- Add two P32I runs, pair by pair (R287): p32_round of each sum. Answers the flags. -/
def addPairs : Nat → Bytes → Bytes → Bytes × Flags
  | 0, _, _ => ([], {})
  | n + 1, x, y =>
    let p := Pair.ofWord (ofLe (x.take 4))
    let q := Pair.ofWord (ofLe (y.take 4))
    let r := p.add q.val
    let rest := addPairs n (x.drop 4) (y.drop 4)
    (toLe 4 r.1.word ++ rest.1, r.2.or rest.2)

/-- A sum of one contribution: a NaN gives the canonical NaN and NAN_IN, any other pair stands (R287, Table 02-6). -/
def solePairs : Nat → Bytes → Bytes × Flags
  | 0, _ => ([], {})
  | n + 1, x =>
    let p := Pair.ofWord (ofLe (x.take 4))
    let rest := solePairs n (x.drop 4)
    match p.val with
    | .nan => (toLe 4 (p32Round .nan).1.word ++ rest.1, Flags.or { nanIn := true } rest.2)
    | .inf _ | .num _ _ _ => (x.take 4 ++ rest.1, rest.2)

/-- A BF16 contribution as P32I pairs, exactly (R287). -/
def pairsOfBf16 : Nat → Bytes → Bytes
  | 0, _ => []
  | n + 1, bs => bs.take 2 ++ [0, 0] ++ pairsOfBf16 n (bs.drop 2)

/-- Replace a range of bytes. -/
def putBytes (bs : Bytes) (off : Nat) (new : Bytes) : Bytes := bs.take off ++ new ++ bs.drop (off + new.length)

end Sys2Proof.Machine
end

