-- ==== Sys2Proof/Machine/Queues.lean ====
section
/-!
DEFINITION. Machine/Queues.lean: queues and rings (R141–R149), intake (R143, R157), dispatch (R150–R153), completion
(R152–R156), NOP, and REPEAT (R164, R165).
-/
namespace Sys2Proof.Machine

/-! ### QUEUE_CREATE, DOORBELL -/

/-- Bytes of a ring (R143). -/
def ringBytes (log2 : Nat) : Nat := 128 * 2 ^ log2

/-- QUEUE_CREATE (R141, R142). -/
def doQueueCreate (m : Msg) : State → Session → State × Option Reply :=
  withCtx m fun s x c =>
    let w := ofLe (slice m.payload 0 16)
    let q := field w 5 0
    let log2 := field w 12 8
    let audit := flag w 13
    let gen := flag w 14
    let addr := field w 79 32
    let win := field w 101 96
    let home := s.chooseHome win (fun _ => true)
    match firstOf [
        (decide (m.length ≠ 16), Status.badLength),
        (anySet w 7 6 || anySet w 31 16 || anySet w 95 80 || anySet w 127 102 || decide (log2 < 6) || decide (16 < log2),
          .reservedSet),
        ((c.queue? q).isSome || (audit && !x.has fAudit) || (gen && !x.has fGenMode) || (gen && c.queues.any (fun y => y.genMode)),
          .denied),
        (decide (32 < win) || decide (addr % 4096 ≠ 0) || !c.mapped addr (ringBytes log2), .extent),
        (win != 0 && home.isNone, .noSlot)] with
    | some st => refuse s st
    | none =>
      let g := (sparse c.queueGens q + 1) % 256
      let base : Nat × Option Nat := match home with
        | some n => if win = 0 then (0, none) else ((s.windowBase n win).getD 0, some n)
        | none => (0, none)
      let s1 := match base.2 with
        | some n => s.zeroWindow n base.1 win
        | none => s
      okay (s1.modCtx c.id (fun d =>
        { d with queueGens := setSparse d.queueGens q g,
                 queues := d.queues ++ [{ number := q, gen := g, ringLog2 := log2, ringAddr := addr, audit := audit,
                                          genMode := gen, stopOnError := flag w 15, window := win, home := base.2,
                                          base := base.1 }] }))

/-- QUEUE_CREATE. -/
def execQueueCreate (m : Msg) (s : State) : Host.Outcome State Fault Refusal :=
  .next (s.request .queueCreate m (doQueueCreate m))

/-- End a record that is not complete, when it has not ended by itself. -/
def Rec.stop (r : Rec) (st : Status) : Rec := match r.phase with
  | .ended _ _ _ _ => r
  | .waiting | .running => { r with phase := .ended st 0 0 true }

/-- Remove a queue whose records are all complete: its window is zeroed (R174) and its number is free again (R149). -/
def State.removeQueue (s : State) (id q : Nat) : State :=
  match s.ctx? id with
  | none => s
  | some c => match c.queue? q with
    | none => s
    | some x =>
      let s1 := match x.home with
        | some n => s.zeroWindow n x.base x.window
        | none => s
      -- a binding loses the queue, and ends with its last lead queue (R228)
      let unlead (b : Backfill) : Backfill := { b with leads := b.leads.filter (fun l => l != q) }
      s1.modCtx id (fun d => { d with queues := d.queues.filter (fun y => y.number != q),
                                      backfill := (d.backfill.map unlead).filter (fun b => b.queue != q && !b.leads.isEmpty) })

/-- Is this wait the QUEUE_DESTROY of a queue? -/
def Wait.endsQueue (w : Wait) (id q : Nat) : Bool := w.ctx == id && w.what == .queueDestroy q

/-- Send the final answer to a QUEUE_DESTROY once no record of the queue is left (R149). -/
def State.settleQueue (s : State) (id q : Nat) : State :=
  match s.ctx? id with
  | none => s
  | some c => match c.queue? q with
    | none => s
    | some x =>
      if x.destroying && x.recs.isEmpty then
        (s.removeQueue id q).finishAll (fun w => w.endsQueue id q) (fun _ => .of .ok)
      else s

/-- Free the Ledger entries that a record's fence wait holds. -/
def State.dropWaitTags (s : State) (recs : List Rec) : State :=
  recs.foldl (fun s r => match r.waitTag with
    | some t => s.freeTag t
    | none => s) s

/-- Write inline records into their ring slots, in order, until a write fails (R146). -/
def State.writeSlots (s : State) (id : Nat) (ups : List Upset) (q : Queue) (seq : Nat) (recs : List Bytes) :
    State × Option Status :=
  (List.zip (List.range recs.length) recs).foldl (fun (acc : State × Option Status) ir =>
    match acc.2 with
    | some e => (acc.1, some e)
    | none => acc.1.writeV id none ups (q.ringAddr + ((seq + ir.1) % 2 ^ q.ringLog2) * 128) ir.2) (s, none)

/-- Cut a run of bytes into records of 128 bytes. -/
def recordsOf : Nat → Bytes → List Bytes
  | 0, _ => []
  | n + 1, bs => bs.take 128 :: recordsOf n (bs.drop 128)

/-- Does a READY context want a slot? Records taken in or a REPEAT saved with the queue state count as records beyond *head*
(DEDUCED LOG 27). -/
def State.wants (s : State) (c : Ctx) : Bool :=
  c.res.state == .ready
    && ((!c.destroying && c.queues.any (fun x => decide (x.head < x.tail) || x.recs.any (fun r => r.phase == .waiting) || x.rep.isSome))
        || !c.opt.isEmpty || s.links.insts.any (fun i => i.ctx == c.id))

/-- Note since when a context wants a slot. -/
def State.noteWant (s : State) (id : Nat) : State :=
  match s.ctx? id with
  | none => s
  | some c => if s.wants c && c.res.wantSince.isNone then
      s.modCtx id (fun d => { d with res := { d.res with wantSince := some s.hub.timer } })
    else s

/-- DOORBELL (R145, R146), both forms. -/
def doDoorbell (m : Msg) (ups : List Upset) : State → Session → State × Option Reply :=
  withCtx m fun s _ c =>
    let w := ofLe (slice m.payload 0 16)
    let q := field w 5 0
    let form := field w 7 6
    let count := field w 31 16
    let seq := field w 127 64
    match firstOf [
        (decide (m.length ≠ if form = 0 then 16 + 128 * count else 16), Status.badLength),
        (anySet w 15 8 || anySet w 63 32 || decide (2 ≤ form) || (form == 1 && count != 0), .reservedSet)] with
    | some st => (s, some { status := st, arg0 := match c.queue? q with
        | some x => x.head
        | none => 0 })
    | none =>
      match c.queue? q with
      | none => refuse s .extent
      | some x =>
        let newTail := if form = 0 then seq + count else seq
        match firstOf [
            (x.stopped.isSome || x.destroying, Status.queueStopped),
            ((form == 0 && seq != x.tail) || (form == 1 && decide (seq < x.tail)), .seqMismatch),
            (decide (x.head + 2 ^ x.ringLog2 < newTail), .extent)] with
        | some st => (s, some { status := st, arg0 := if st = .seqMismatch then x.tail else x.head })
        | none =>
          let r := if form = 0 then s.writeSlots c.id ups x seq (recordsOf count (m.payload.drop 16)) else (s, none)
          match r.2 with
          | some st => (r.1, some { status := st, arg0 := x.head })
          | none => ((r.1.modQueue c.id q (fun y => { y with tail := newTail })).noteWant c.id, some { status := .ok, arg0 := x.head })

/-- DOORBELL in inline form. -/
def execDoorbellInline (m : Msg) (ups : List Upset) (s : State) : Host.Outcome State Fault Refusal :=
  .next (s.request .doorbell m (doDoorbell m ups))

/-- DOORBELL in ring form. -/
def execDoorbellRing (m : Msg) (s : State) : Host.Outcome State Fault Refusal :=
  .next (s.request .doorbell m (doDoorbell m []))

/-! ### Intake -/

/-- May the context take in and dispatch? It is resident and not leaving, and no checkpoint drains it (Table 11-5, R483). -/
def Ctx.serves (c : Ctx) : Bool :=
  c.res.state == .resident && c.res.leaving == .stays && !c.destroying && !c.stopMark && c.ckpt.stage != 1

/-- May a record be dispatched? One of an iteration that has begun also while the context leaves residency or is being destroyed
(R357, R371); a COLLECTIVE also while a checkpoint drains (R483, step 1); none before the pinned pages are back (R201). -/
def Ctx.dispatches (c : Ctx) (r : Rec) : Bool :=
  !c.res.pinning && (c.serves || (c.ckpt.stage == 1 && r.op == some .collective && c.res.state == .resident && c.res.leaving == .stays && !c.destroying && !c.stopMark)
    || (c.res.state == .resident && r.iter != 0 && !c.stopMark))

/-- Reserved fields of a record that are set (Tables 05-2, 05-3). -/
def recordReserved (w : Nat) : Bool := anySet w 31 21 || anySet w 63 35 || anySet w 351 336 || anySet w 511 384

/-- A record with `seq`, `fence_in_value` and `fence_out_value` taken as zero (R376). -/
def blankRecord (bs : Bytes) : Bytes := bs.take 8 ++ List.replicate 8 0 ++ (bs.drop 16).take 8 ++ List.replicate 16 0 ++ bs.drop 40

/-- Does the record match its queue's template? A record of a queue without one, or before the policy, does not (R376). -/
def State.matchesTemplate (s : State) (c : Ctx) (q seq : Nat) (bs : Bytes) : Bool :=
  if !c.consortium then true
  else match c.policy with
    | none => false
    | some p => match p.templates.find? (fun t => t.1 == q) with
      | none => false
      | some t => blankRecord bs == blankRecord (s.peekV c.id (p.progAddr + t.2.1 + (seq % t.2.2) * 128) 128)

/-- The status that intake gives a record (R157, R376); `checkSeq` is off at an iteration of a REPEAT (R165). -/
def State.intakeStatus (s : State) (c : Ctx) (q seq : Nat) (checkSeq : Bool) (bs : Bytes) : Option Status :=
  let w := ofLe (bs.take 64)
  firstOf [
    (checkSeq && field w 127 64 != seq, Status.seqMismatch),
    (recordReserved w, .reservedSet),
    ((CmdOp.ofCode (field w 15 0)).isNone, .badOpcode),
    (!s.matchesTemplate c q seq bs, .denied)]

/-- What a fence handle offers a waiting record (R153): its fence, or the status with which the record completes. -/
def State.fenceFor (s : State) (c : Ctx) (h : Nat) : Except Status Fence :=
  match s.heldFence c h with
  | none => .error .staleGeneration
  | some f => if f.abandoned then .error .abandoned else .ok f

/-- The record of an image as intake leaves it. -/
def State.newRec (s : State) (c : Ctx) (q seq iter stride : Nat) (bs : Bytes) (st : Option Status) : Rec :=
  let w := ofLe (bs.take 64)
  let inV := field w 255 192 + iter * stride
  let hot := field w 19 19 == 1 && field w 159 128 != 0 && field w 383 352 == 0
  let late := hot && (match s.fenceFor c (field w 159 128) with
    | .ok f => decide (f.value < inV)
    | .error _ => false)
  let _ := q
  { seq := seq, iter := iter, image := bs, inVal := inV, outVal := field w 319 256 + iter * stride, taken := s.hub.timer,
    phase := match st with
      | some e => .ended e 0 0 false
      | none => .waiting,
    reserved := iter == 0, expired := late }

/-- Take a hub entry of the Ledger for a record that waits on a fence under `tmo` (R161); none while no entry is free. -/
def State.watch (s : State) (id q : Nat) (r : Rec) : Option (State × Rec) :=
  if r.tmo && r.fenceIn != 0 && r.phase == .waiting && !r.expired then
    (s.issue hubTags 4096 (.fenceIn id q r.seq r.iter) (some id) (some (r.taken + r.timeout * 1024))).map (fun t =>
      (t.1, { r with waitTag := some t.2 }))
  else some (s, r)

/-- Bytes that a deferred backfill product holds: those of its A region, element rows and scale array (R225, R80). -/
def Rec.heldBytes (r : Rec) : Nat :=
  if r.op = some .matmul then ((r.matArgs.a.regions r.matArgs.shapeA.1).map (fun g => g.bytes)).sum else 0

/-- The ring slot of a sequence number (R143). -/
def Queue.slotRegion (x : Queue) (seq : Nat) : Region := { space := 0, addr := x.ringAddr + (seq % 2 ^ x.ringLog2) * 128, bytes := 128 }

/-- RECORD_INTAKE (R143, R144, R352): the hub reads the record at *head* and takes it in, reserving an event-ring entry; it waits while the
record needs an entry of the Ledger and none is free (R161). -/
def doRecordIntake (id q : Nat) (ups : List Upset) (s : State) : State :=
  match s.ctx? id with
  | none => s
  | some c => match c.queue? q, c.ring with
    | some x, some ring =>
      if !(s.alive && c.serves && x.stopped.isNone && !x.destroying && decide (x.head < x.tail) && decide (0 < ring.free))
          || c.heldReads [x.slotRegion x.head] then s
      else
        let r := s.readV id none ups (x.ringAddr + (x.head % 2 ^ x.ringLog2) * 128) 128
        let new : Rec := match r.2 with
          | .error e => r.1.newRec c q x.head 0 0 (List.replicate 128 0) (some e)
          | .ok bs => r.1.newRec c q x.head 0 0 bs (r.1.intakeStatus c q x.head true bs)
        match r.1.watch id q new with
        | none => s
        | some t =>
          let s1 := t.1.modCtx id (fun (d : Ctx) =>
            { d with ring := d.ring.map (fun (g : Ring) => { g with reserved := g.reserved + 1 }),
                       res := { d.res with lastWork := s.hub.timer },
                       backfill := d.backfill.map (fun (b : Backfill) =>
                         if b.queue = q then { b with held := b.held + t.2.heldBytes } else b) })
          s1.modQueue id q (fun y => { y with head := y.head + 1, recs := y.recs ++ [t.2] })
    | _, _ => s

/-- RECORD_INTAKE. -/
def execRecordIntake (id q : Nat) (ups : List Upset) (s : State) : Host.Outcome State Fault Refusal :=
  .next (doRecordIntake id q ups s)

/-! ### What a command reaches -/

/-- The source and destination of a COLLECTIVE. -/
def State.collAreas (s : State) (id : Nat) (r : Rec) : List Region :=
  let a := collArgs (r.arg 511 0)
  match s.links.groups.find? (fun g => g.ctx == id && g.id == a.group) with
  | none => []
  | some g =>
    let n := g.members.length
    [{ space := 0, addr := a.src, bytes := a.reads n g.rank * collElem a.srcFmt }, { space := 0, addr := a.dst, bytes := a.writes n g.rank * collElem a.dstFmt }]

/-- The regions that a command can reach (R80, R114, R157). -/
def State.areas (s : State) (c : Ctx) (x : Queue) (r : Rec) : List Region :=
  match r.op with
  | some .copy => [r.moverArgs.src, r.moverArgs.dst]
  | some .fill => [r.moverArgs.dst]
  | some .matmul =>
    let g := r.matArgs
    g.a.regions g.shapeA.1 ++ g.b.regions g.shapeB.1 ++ g.c.regions g.m ++ g.groupRegion
  | some .vector => r.chainRegion :: (let g := chainOf (s.chainBytes c x r)
                                      g.uses.flatMap g.reach)
  | some .collective => s.collAreas c.id r
  | some .nop | some .repeatOp | some .scaleSet | none => []

/-- The bytes that a command writes. -/
def State.stores (s : State) (c : Ctx) (x : Queue) (r : Rec) : List Region :=
  match r.op with
  | some .copy | some .fill => r.moverArgs.outputs
  | some .matmul => r.matArgs.outputs
  | some .vector => (chainOf (s.chainBytes c x r)).outputs
  | some .collective => (s.collAreas c.id r).drop 1
  | some .nop | some .repeatOp | some .scaleSet | none => []

/-- Byte ranges of context space that a command can reach (R159): first byte and bytes. -/
def State.reach (s : State) (c : Ctx) (x : Queue) (r : Rec) : List (Nat × Nat) :=
  ((s.areas c x r).filter (fun g => g.space == 0)).map (fun g => (g.addr, g.bytes))

/-- The engine that a command runs on: its kind, by core; the Clearing engine has none. -/
def Rec.engine (r : Rec) : Option (CmdOp × Option Nat) := match r.op with
  | some .matmul => some (.matmul, r.core)
  | some .vector => some (.vector, r.core)
  | some .copy | some .fill => some (.copy, r.core)
  | some .collective => some (.collective, none)
  | some .nop | some .repeatOp | some .scaleSet | none => none

/-- Do two commands run on different engines? The two movers of a core share one order of dispatch (R138), and may run at once. -/
def Rec.apart (a b : Rec) : Bool := match a.engine, b.engine with
  | some x, some y => x != y || (x.1 == .copy && !(a.seq == b.seq && a.iter == b.iter))
  | _, _ => false

/-- Do the regions of one command meet the bytes that another writes? Windows of two queues are apart. -/
def State.meets (s : State) (c : Ctx) (x : Queue) (r : Rec) (y : Queue) (w : Rec) : Bool :=
  (s.areas c x r).any (fun a => (s.stores c y w).any (fun b => a.overlaps b && (a.space == 0 || x.number == y.number)))

/-- Does another engine write a region of a running command while it runs? Its outputs are then unspecified (R81, R102). A write counts when
both commands run at one time, in whatever order they end (DEDUCED LOG 27). -/
def State.entangled (s : State) (c : Ctx) (x : Queue) (r : Rec) : Bool :=
  r.tangled || c.queues.any (fun y => y.recs.any (fun w => w.phase == .running && w.apart r && s.meets c x r y w))

/-- A command of a context has written: the running commands of other engines whose regions it wrote. -/
def State.tangle (s : State) (id q : Nat) (w : Rec) : State :=
  match s.ctx? id with
  | none => s
  | some c => match c.queue? q with
    | none => s
    | some y =>
      let hit (x : Queue) (r : Rec) : Bool := r.phase == .running && w.apart r && s.meets c x r y w
      if !c.queues.any (fun x => x.recs.any (fun r => hit x r)) then s
      else s.modCtx id (fun d => { d with queues := d.queues.map (fun x =>
        { x with recs := x.recs.map (fun r => if hit x r then { r with tangled := true } else r) }) })

/-! ### Dispatch -/

/-- The record at the head of a queue's dispatch order: the first that waits; under a REPEAT, of its iterations alone (R164). -/
def Queue.front (x : Queue) : Option Rec :=
  x.recs.find? (fun r => r.phase == .waiting && (x.rep.isNone || r.iter != 0))

/-- Records of the queue that stand before one in its order. -/
def Queue.before (x : Queue) (r : Rec) : List Rec :=
  (x.recs.takeWhile (fun y => !(y.seq == r.seq && y.iter == r.iter))).filter (fun y => r.iter == 0 || y.iter == r.iter)

/-- Does the barrier hold the record? REPEAT acts as if `bar` were 1, and holds every later record until it has completed (R151,
R164). -/
def Queue.barred (x : Queue) (r : Rec) : Bool :=
  ((r.bar || r.op == some .repeatOp) && !(x.before r).isEmpty)
    || (r.iter == 0 && (x.before r).any (fun y => y.iter == 0 && y.op == some .repeatOp))


/-- Does the opcode run on a core? -/
def onCore : CmdOp → Bool
  | .matmul | .vector | .copy | .fill => true
  | .nop | .collective | .repeatOp | .scaleSet => false

/-- Is the command at the head of a queue ready: do its fence and barrier conditions hold? (R226) -/
def State.headReady (s : State) (c : Ctx) (q : Nat) : Bool :=
  match c.queue? q with
  | none => false
  | some x => match x.front with
    | none => false
    | some r =>
      let open_ := match s.fenceFor c r.fenceIn with
        | .error _ => true
        | .ok f => r.expired || (decide (r.inVal ≤ f.value) && decide (r.inVal < 2 ^ 64))
      x.stopped.isNone && !x.destroying && c.dispatches r && !x.barred r && (r.fenceIn == 0 || open_)

/-- Do the held bytes of a binding exceed its bound? (R225, R226) -/
def Backfill.over (b : Backfill) : Bool := decide (b.bound < b.held)

/-- Does a backfill binding hold the head of a queue back? (R226) -/
def State.heldByBinding (s : State) (c : Ctx) (q : Nat) : Bool :=
  c.backfill.any (fun b =>
    (b.queue == q && !b.over && b.leads.any (fun l => s.headReady c l))
      || (b.leads.contains q && b.over && s.headReady c b.queue))

/-- Cores whose matrix engine has no operation running or dispatched (R227). -/
def State.idleArrays (s : State) : List Nat :=
  s.placeable.filter (fun n => !s.ctxs.any (fun c => c.queues.any (fun x => x.recs.any (fun r =>
    r.phase == .running && r.core == some n && r.op == some .matmul))))

/-- The core for a record: its queue's home (R173), the core of its first iteration (R211), or by R210. -/
def State.coreFor (s : State) (c : Ctx) (x : Queue) (r : Rec) : Option Nat :=
  match x.home with
  | some n => if s.serving n then some n else none
  | none =>
    let fixed := match x.rep with
      | some p => (match p.cores.find? (fun (y : Nat × Nat) => y.1 == r.seq) with
        | some y => (match s.core? y.2 with
          | some k => if k.eligible then some y.2 else none
          | none => none)
        | none => none)
      | none => none
    match fixed with
    | some n => some n
    | none =>
      -- a backfill product goes to an idle array, among the cores that R210 permits (R227)
      let idle := s.permitted.filter (fun n => s.idleArrays.contains n)
      if r.op == some CmdOp.matmul && c.backfill.any (fun (b : Backfill) => b.queue == x.number) && !idle.isEmpty then s.chooseAmong c x r idle
      else s.chooseAmong c x r s.permitted

/-- The feature map that judges a context's commands: that of its owning session (R539). -/
def State.featuresOf (s : State) (c : Ctx) : Nat := match s.sessions.find? (fun x => x.owns c) with
  | some x => x.features
  | none => 0

/-- The class that a command runs at: the lower of its own and its slot's (R135). -/
def Ctx.classOf (c : Ctx) (r : Rec) : Nat := min (r.hdr 34 32) c.assign.qos

/-- The command at the head of a queue that could be dispatched now to a core: its fence is reached, and nothing holds it. -/
def State.claimant (s : State) (d : Ctx) (y : Queue) (n : Nat) : Option Rec :=
  match y.front with
  | none => none
  | some r =>
    let reached := r.fenceIn == 0 || (!r.expired && (match s.fenceFor d r.fenceIn with
      | .ok f => decide (r.inVal ≤ f.value)
      | .error _ => false))
    let unit := match r.op with
      | some op => onCore op
      | none => false
    if unit && reached && s.headReady d y.number && !s.heldByBinding d y.number && s.coreFor d y r == some n then some r else none

/-- How far a slot stands behind the turn of a class on a core. -/
def Core.behind (k : Core) (cls slot : Nat) : Nat := (slot + 64 - sparse k.turn cls % 64) % 64

/-- Does a command give way on its core to one of another slot: of a higher class, or next in the round of its class? (Table 11-7) -/
def State.givesWay (s : State) (c : Ctx) (r : Rec) (n : Nat) : Bool :=
  match c.res.slot, s.core? n with
  | some i, some k => s.ctxs.any (fun d => d.id != c.id && (match d.res.slot with
      | some j => d.queues.any (fun y => match s.claimant d y n with
        | some h => decide (c.classOf r < d.classOf h)
            || (c.classOf r == d.classOf h && decide (k.behind (c.classOf r) j < k.behind (c.classOf r) i))
        | none => false)
      | none => false))
  | _, _ => false

/-- Hand a record to its unit. -/
def State.dispatchRec (s : State) (c : Ctx) (x : Queue) (r : Rec) : State :=
  let base := match r.waitTag with
    | some t => s.freeTag t
    | none => s
  let go (s : State) (core tag : Option Nat) (beats : Nat) : State :=
    (s.modHub (fun h => { h with dispatched := h.dispatched + 1 })).modRec c.id x.number r.seq r.iter (fun y =>
      { y with phase := .running, core := core, tag := tag, beats := beats, order := s.hub.dispatched, waitTag := none, dispatched := true,
               features := s.featuresOf c })
  match r.op with
  | none => s
  | some op =>
    if !onCore op then go base none none 0
    else match s.coreFor c x r with
      | none => s
      | some n =>
        if s.givesWay c r n then s
        else match base.issue (tileTags (tileOf n)) 2048 (.command c.id x.number r.seq r.iter) (some c.id) none with
        | none => s
        | some (s1, t) =>
          let beats := s.estimate c x n r
          let s2 := s1.modCore n (fun k => { k with lastDispatch := s.hub.timer, load := k.load + beats,
                                                    turn := setSparse k.turn (c.classOf r) (c.res.slot.getD 0 + 1) })
          let s3 := match x.rep with
            | some p => if p.next = 2 && !p.cores.any (fun y => y.1 == r.seq) then
                s2.modQueue c.id x.number (fun y => { y with rep := some { p with cores := (r.seq, n) :: p.cores } })
              else s2
            | none => s2
          go s3 (some n) (some t) beats

/-- End a waiting record with a status, without work (R153). -/
def State.endWaiting (s : State) (id q : Nat) (r : Rec) (st : Status) (signals : Bool) : State :=
  let s1 := match r.waitTag with
    | some t => if st = Status.timeout then { s with ledger := s.ledger.expire t s.hub.timer } else s.freeTag t
    | none => s
  s1.modRec id q r.seq r.iter (fun y => { y with phase := .ended st 0 0 signals, waitTag := none })

/-- Dispatch a record, after its queue's home has left a core out of service (R174, R458). -/
def State.dispatchNow (s : State) (id q : Nat) (r : Rec) : State :=
  let s1 := s.settleHome id q
  match s1.ctx? id with
  | none => s1
  | some c => match c.queue? q with
    | none => s1
    | some x => s1.dispatchRec c x r

/-- May the outcome of its fence end a record at the front? Its earlier commands are dispatched; a barrier or a binding does not delay it,
but a REPEAT before it does (R153, R164). -/
def Ctx.mayLapse (c : Ctx) (x : Queue) (r : Rec) : Bool :=
  c.dispatches r && !(r.iter == 0 && (x.before r).any (fun y => y.iter == 0 && y.op == some .repeatOp))

/-- COMMAND_DISPATCH (R150–R153, R135, R210, R543): the record at the head goes to its unit, or completes with the outcome of
its fence, or stays. A failed read of `adv_slot` ends it (R136, R543), and so does a slot of a reserved format (R56). -/
def doCommandDispatch (id q : Nat) (ups : List Upset) (s : State) : State :=
  match s.ctx? id with
  | none => s
  | some c => match c.queue? q with
    | none => s
    | some x =>
      if !(s.alive && x.stopped.isNone && !x.destroying) then s
      else match x.front with
        | none => s
        | some r =>
          if !c.mayLapse x r then s
          else
            let start (s : State) : State :=
              if x.barred r || s.heldByBinding c q then s
              else if r.adv && decide (r.advSlot < c.scaleN) then
                let t := s.readSlot id ups r.advSlot
                match t.2 with
                | .error e => t.1.endWaiting id q r e false
                | .ok y => if 3 ≤ y.fmt then t.1.endWaiting id q r .reservedSet true else t.1.dispatchNow id q r
              else s.dispatchNow id q r
            if r.fenceIn = 0 then start s
            else if r.expired then s.endWaiting id q r .timeout true
            else match s.fenceFor c r.fenceIn with
              | .error e => s.endWaiting id q r e true
              | .ok f => if r.inVal ≤ f.value ∧ r.inVal < 2 ^ 64 then start s else s

/-- COMMAND_DISPATCH. -/
def execCommandDispatch (id q : Nat) (ups : List Upset) (s : State) : Host.Outcome State Fault Refusal :=
  .next (doCommandDispatch id q ups s)

/-- FENCE_IN_TIMEOUT (R153, R163): the wait of a record under `tmo` expires; the record completes with TIMEOUT at the head of
its queue, and the expiry of any other is kept until it reaches the head. -/
def doFenceInTimeout (id q : Nat) (s : State) : State :=
  match s.ctx? id with
  | none => s
  | some c => match c.queue? q with
    | none => s
    | some x =>
      let due (r : Rec) : Bool := r.phase == .waiting && r.tmo && r.fenceIn != 0 && !r.expired
        && decide (r.taken + r.timeout * 1024 ≤ s.hub.timer)
        && (match s.fenceFor c r.fenceIn with
            | .ok f => decide (f.value < r.inVal)
            | .error _ => false)
      if !s.alive then s
      else
        let s1 := (x.recs.filter due).foldl (fun s r => match r.waitTag with
          | some t => { s with ledger := s.ledger.expire t s.hub.timer }
          | none => s) s
        let s2 := s1.modQueue id q (fun y => { y with recs := y.recs.map (fun r =>
          if due r then { r with expired := true, waitTag := none } else r) })
        match x.front with
        | none => s2
        | some r =>
          if (due r || r.expired) && c.mayLapse x r then
            s2.modRec id q r.seq r.iter (fun y => { y with phase := .ended .timeout 0 0 true })
          else s2

/-- FENCE_IN_TIMEOUT. -/
def execFenceInTimeout (id q : Nat) (s : State) : Host.Outcome State Fault Refusal :=
  .next (doFenceInTimeout id q s)

/-! ### Completion -/

/-- `done` passes every record below which all are delivered (R143). -/
def advanceDone : Nat → Nat → List Nat → Nat
  | 0, d, _ => d
  | n + 1, d, l => if l.contains d then advanceDone n (d + 1) l else d

/-- The unit field of a completion record (Table 05-8). -/
def unitField (conf : Bool) (core : Option Nat) : Nat := match core with
  | some n => if conf then 0xFFFF else (n % 16) + (n / 16) * 16
  | none => 0xFFFF

/-- A completion record (Table 05-8). -/
def State.completionRecord (s : State) (q : Nat) (r : Rec) (st : Status) (res0 res1 done : Nat) : Bytes :=
  toLe 8 r.seq ++ toLe 2 q ++ toLe 2 st.code ++ toLe 2 (r.hdr 15 0) ++ toLe 2 (unitField s.conf r.core)
    ++ toLe 8 res0 ++ toLe 8 res1 ++ toLe 8 s.hub.timer ++ toLe 4 s.otp.bootEpoch ++ toLe 4 r.iter ++ toLe 8 done ++ toLe 8 0

/-- Does a dispatched and not completed command of the context hold one of the pages? (R159) -/
def State.pagesHeld (s : State) (c : Ctx) (vp n : Nat) : Bool :=
  c.queues.any (fun x => x.recs.any (fun r =>
    r.dispatched && (s.reach c x r).any (fun a =>
      a.2 != 0 && decide (a.1 < (vp + n) * pageSize) && decide (vp * pageSize < a.1 + a.2))))

/-- Free the frames of a page that leaves a context for good (R199, R213). A shared page leaves its object alone. -/
def State.releasePage (s : State) (id : Nat) (p : Page) : State :=
  if p.share.isSome then s
  else
    let s1 := match p.tier with
      | some t => s.dropTier t
      | none => s
    let s2 := match p.hbm with
      | some h =>
        -- the frame of a snapshot page is freed once it has been copied (R485)
        if p.snap then (s1.modMem (fun m => m.takeHbm h (.snapshot id))).modCtx id (fun d =>
          { d with ckpt := { d.ckpt with torn := d.ckpt.torn || s.pageBad p } })
        else s1.freeFrame h
      | none => s1
    match p.lease with
    | some l => s2.modCells (fun cs => clearCells cs (physAt l 0) pageSize)
    | none => s2

/-- An object that nothing maps any more: its frames are freed and its handle is freed (R199, R346). -/
def State.reapShare (s : State) (i : Nat) : State :=
  match s.share? i with
  | none => s
  | some x =>
    if !x.maps.isEmpty then s
    else
      let fs := x.pages.flatMap (fun p => p.first :: p.mirror.toList)
      let s1 := (x.pages.flatMap (fun p => p.tier.toList)).foldl (fun s t => s.dropTier t) s
      let s2 := { s1 with shares := s1.shares.filter (fun y => y.index != i),
                          sharesFreed := s1.sharesFreed ++ [(x.index, x.gen, s.hub.timer)] }
      fs.foldl (fun s f => s.freeFrame f) s2

/-- Remove a range of pages from a context (R199). -/
def State.unmapPages (s : State) (id vp n : Nat) : State :=
  match s.ctx? id with
  | none => s
  | some c =>
    let inR (p : Page) : Bool := decide (vp ≤ p.va) && decide (p.va < vp + n)
    let gone := c.pages.filter inR
    let s1 := s.cancelMoves (fun mv => mv.ctx == id && decide (vp ≤ mv.va) && decide (mv.va < vp + n))
    let inUnit (u : List Nat) : Bool := u.any (fun v => decide (vp ≤ v) && decide (v < vp + n))
    let s2 := s1.modCtx id (fun d =>
      { d with pages := d.pages.filter (fun p => !inR p), units := d.units.filter (fun u => !inUnit u) })
    let s3 := gone.foldl (fun s p => s.releasePage id p) s2
    let ids := gone.flatMap (fun p => (p.share.map (fun x => x.1)).toList)
    let s4 := ids.eraseDups.foldl (fun s i =>
      let left : List Page := match s.ctx? id with
        | some d => d.pages.filter (fun (p : Page) => match p.share with
            | some x => x.1 == i
            | none => false)
        | none => []
      let stays (x : Share) (v : Nat) : Bool := left.any (fun p => decide (v ≤ p.va) && decide (p.va < v + x.pages.length))
      ((s.modShare i (fun x =>
        { x with maps := x.maps.filter (fun y => y.1 != id || stays x y.2),
                 own := if x.ctx = id then x.own.filter (fun v => stays x v) else x.own })).reapShare i)) s3
    s4.settleKeys id

/-- Let every UNMAP that waits take effect once no dispatched command holds its pages (R159). -/
def State.settleUnmaps (s : State) (id : Nat) : State :=
  (s.waits.filter (fun w => w.ctx == id)).foldl (fun s w => match w.what with
    | .unmap va n =>
      (match s.ctx? id with
       | some c => if s.pagesHeld c va n then s else (s.unmapPages id va n).finish w (.of .ok)
       | none => s)
    | _ => s) s

/-- Stop a queue at its first failing completion (R148). -/
def State.stopQueue (s : State) (c : Ctx) (q : Nat) (st : Status) : State :=
  let waiting := match (s.ctx? c.id).bind (fun d => d.queue? q) with
    | some y => y.recs.filter (fun r => r.phase == .waiting)
    | none => []
  let s1 := (s.dropWaitTags waiting).modQueue c.id q (fun y =>
    { y with stopped := some st, rep := none,
             recs := y.recs.map (fun r =>
               if r.phase = .waiting then { r with phase := .ended .queueStopped 0 0 true, waitTag := none }
               else if r.op = some .repeatOp && r.phase = .running then { r with phase := .ended .queueStopped 0 0 true }
               else r) })
  let d := 9 + q * 65536
  s1.file { cls := .notice, status := st, ctx := c.id, ctxGen := c.gen, queue := q, detail := d, detailCtx := d }

/-- Write a completion record into the event ring (R156, R352); a reserved entry is used up. -/
def Ctx.deliver (c : Ctx) (reserved : Bool) (due : Bool) (st : Status) (body : Bytes) : Ctx :=
  match c.ring with
  | none => c
  | some g =>
    let g1 := if reserved then { g with reserved := g.reserved - 1 } else g
    if due then { c with ring := some (g1.push { rseq := 0, event := .completion, status := st, body := body }) }
    else { c with ring := some g1 }

/-- COMMAND_COMPLETE (R152, R154, R156, R136, R148, R149, R159): the operation has ended; with a final status of OK its slot advances;
then its fence is signalled, its record is written, and only then *done* advances. -/
def doCommandComplete (id q seq iter : Nat) (s : State) : State :=
  match s.ctx? id with
  | none => s
  | some c => match c.queue? q, c.ring with
    | some x, some ring => match x.rec? seq iter with
      | some r => match r.phase with
        | .ended st res0 res1 signals =>
          if !s.alive || c.res.state == .resetting || (iter != 0 && (st != .ok || r.notify) && ring.free == 0) then s
          else
            let signals := r.fenceOut != 0 && (st == .ok || (r.sigAlways && signals))
            let st1 := (if signals then (s.signal id r.fenceOut r.outVal).2 else none).getD st
            let s1 := if r.adv && st1 == .ok then s.advanceSlot id r.advSlot else s
            let sig := if signals then s1.signal id r.fenceOut r.outVal else (s1, none)
            let due := st1 != .ok || r.notify
            let delivered := if iter = 0 then seq :: x.delivered else x.delivered
            let done := advanceDone (delivered.length + 1) x.done delivered
            let body := sig.1.completionRecord q r st1 res0 res1 done
            let s2 := (sig.1.modCtx id (fun d =>
              { d.deliver r.reserved due st1 body with
                res := { d.res with lastWork := s.hub.timer },
                backfill := d.backfill.map (fun b => if b.queue = q then { b with held := b.held - r.heldBytes } else b) })).writeRing id
                  (sig.1.ringNext id)
            let s3 := s2.modQueue id q (fun y =>
              { y with recs := y.recs.filter (fun z => !(z.seq == seq && z.iter == iter)),
                       done := done, delivered := delivered.filter (fun z => decide (done ≤ z)) })
            let s4 := match r.tag with
              | some t => s3.freeTag t
              | none => s3
            let s5 := match r.core with
              | some n => s4.modCore n (fun k => { k with load := k.load - r.beats })
              | none => s4
            let s6 := s5.returnLeave id q seq iter
            let s7 := if st1 != .ok && x.stopOnError && x.stopped.isNone && !x.destroying then s6.stopQueue c q st1 else s6
            ((((s7.settleUnmaps id).settleHome id q).settleQueue id q).reapFences).dueProbes
        | .waiting | .running => s
      | none => s
    | _, _ => s

/-- COMMAND_COMPLETE. -/
def execCommandComplete (id q seq iter : Nat) (ups : List Upset) (s : State) : Host.Outcome State Fault Refusal :=
  let _ := ups
  .next (doCommandComplete id q seq iter s)

/-! ### The hub's own commands -/

/-- End a running record with its results. -/
def State.endRec (s : State) (id q seq iter : Nat) (st : Status) (res0 res1 : Nat) (signals : Bool) : State :=
  s.modRec id q seq iter (fun y => { y with phase := .ended st res0 res1 signals })

/-- The running record of a step, with its context and queue. -/
def State.running? (s : State) (id q seq iter : Nat) (op : CmdOp) : Option (Ctx × Queue × Rec) :=
  if !s.alive then none
  else match s.ctx? id with
    | none => none
    | some c => if c.res.state = .resetting then none else match c.queue? q with
      | none => none
      | some x => match x.rec? seq iter with
        | none => none
        | some r => if r.phase = .running ∧ r.op = some op then some (c, x, r) else none

/-- NOP (R137): every argument bit is reserved. -/
def doNop (id q seq iter : Nat) (s : State) : State :=
  match s.running? id q seq iter .nop with
  | none => s
  | some (_, _, r) =>
    s.endRec id q seq iter (if allZero (r.image.drop 64) then .ok else .reservedSet) 0 0 true

/-- NOP. -/
def execNop (id q seq iter : Nat) (s : State) : Host.Outcome State Fault Refusal :=
  .next (doNop id q seq iter s)

/-- The slots of a SCALE_SET run. -/
def State.setSlots (s : State) (id slot : Nat) (w : ScaleWrite) : Nat → State × Option Status
  | 0 => (s, none)
  | n + 1 =>
    let r := s.setSlots id slot w n
    match r.2 with
    | some e => (r.1, some e)
    | none => r.1.putSlot id (slot + n) ((r.1.peekSlot id (slot + n)).set w)

/-- Read every slot of a run, with the checks of its memory. -/
def State.readSlots (s : State) (id slot : Nat) (ups : List Upset) : Nat → State × Option Status
  | 0 => (s, none)
  | n + 1 =>
    let r := s.readSlots id slot ups n
    match r.2 with
    | some e => (r.1, some e)
    | none =>
      let t := r.1.readSlot id ups (slot + n)
      (t.1, match t.2 with
            | .error e => some e
            | .ok _ => none)

/-- SCALE_SET (R140, R157, R351). -/
def doScaleSet (id q seq iter : Nat) (ups : List Upset) (s : State) : State :=
  match s.running? id q seq iter .scaleSet with
  | none => s
  | some (c, _, r) =>
    let slot := r.arg 15 0
    let count := r.arg 39 16
    let w : ScaleWrite := { scaleExp := r.arg 71 64, fmt := r.arg 74 72, margin := r.arg 76 75, frozen := r.arg 77 77 == 1,
                            wmask := r.arg 83 80, clearHist := r.arg 84 84 == 1 }
    match firstOf [
        (r.arg 63 40 != 0 || r.arg 79 78 != 0 || r.arg 511 85 != 0 || decide (2 < w.fmt), some Status.reservedSet),
        (count == 0, none),
        (decide (c.scaleN < slot + count), some Status.extent)] with
    | some (some st) => s.endRec id q seq iter st 0 0 true
    | some none => s.endRec id q seq iter .ok 0 0 true
    | none =>
      let t := s.readSlots id slot ups count
      match t.2 with
      | some e => t.1.endRec id q seq iter e 0 0 false
      | none =>
        let u := if w.wmask = 0 && !w.clearHist then (t.1, none) else t.1.setSlots id slot w count
        u.1.endRec id q seq iter (u.2.getD .ok) 0 0 true

/-- SCALE_SET. -/
def execScaleSet (id q seq iter : Nat) (ups : List Upset) (s : State) : Host.Outcome State Fault Refusal :=
  .next (doScaleSet id q seq iter ups s)

/-- Does the span before a record hold a REPEAT? -/
def State.spanHasRepeat (s : State) (id : Nat) (x : Queue) (seq span : Nat) : Bool :=
  (List.range span).any (fun i =>
    CmdOp.ofCode (ofLe (s.peekV id (x.ringAddr + ((seq - span + i) % 2 ^ x.ringLog2) * 128) 2)) == some .repeatOp)

/-- REPEAT (R164): the checks of R157, then the iterations begin; a `count` of 0 is a no-op. One that an iteration finds in its span
is the span's REPEAT of R164 (DEDUCED LOG 27). -/
def doRepeat (id q seq iter : Nat) (s : State) : State :=
  match s.running? id q seq iter .repeatOp with
  | none => s
  | some (_, x, r) =>
    let count := r.arg 31 0
    let span := r.arg 47 32
    if iter ≠ 0 then s.endRec id q seq iter .badOperand 0 0 true
    else if x.rep.isSome then s
    else match firstOf [
        (r.arg 63 48 != 0 || r.arg 511 128 != 0, some Status.reservedSet),
        (!x.genMode, some .denied),
        (span == 0 || decide (2 ^ x.ringLog2 - 1 < span) || decide (seq < span) || s.spanHasRepeat id x seq span,
          some .badOperand),
        (count == 0, none)] with
      | some (some st) => s.endRec id q seq iter st 0 0 true
      | some none => s.endRec id q seq iter .ok 0 0 true
      | none => s.modQueue id q (fun y => { y with rep := some { seq := seq, count := count, span := span, stride := r.arg 127 64 } })

/-- REPEAT. -/
def execRepeat (id q seq iter : Nat) (ups : List Upset) (s : State) : Host.Outcome State Fault Refusal :=
  let _ := ups
  .next (doRepeat id q seq iter s)

/-- Read the span's slots of one iteration into records (R165, R543); none while one of them waits for an entry of the Ledger (R161). -/
def State.spanRecs (s : State) (c : Ctx) (x : Queue) (p : RepeatRun) (ups : List Upset) : Nat → Option (State × List Rec)
  | 0 => some (s, [])
  | n + 1 => match s.spanRecs c x p ups n with
    | none => none
    | some t =>
      let seq := p.seq - p.span + n
      let r := t.1.readV c.id none ups (x.ringAddr + (seq % 2 ^ x.ringLog2) * 128) 128
      let new := match r.2 with
        | .error e => r.1.newRec c x.number seq p.next p.stride (List.replicate 128 0) (some e)
        | .ok bs => r.1.newRec c x.number seq p.next p.stride bs (r.1.intakeStatus c x.number seq false bs)
      (r.1.watch c.id x.number new).map (fun w => (w.1, t.2 ++ [w.2]))

/-- Move each pinned page into the slice of the core that first ran a command of the span on it, where there is room (R211). -/
def State.pinMoves (s : State) (c : Ctx) (x : Queue) (p : RepeatRun) : State :=
  (c.pages.filter (fun g => g.pin)).foldl (fun s g =>
    let first := (List.range p.span).findSome? (fun i =>
      let seq := p.seq - p.span + i
      let img := s.peekV c.id (x.ringAddr + (seq % 2 ^ x.ringLog2) * 128) 128
      let r : Rec := { seq := seq, image := img }
      if (s.reach c x r).any (fun a => a.2 != 0 && decide (a.1 < (g.va + 1) * pageSize) && decide (g.va * pageSize < a.1 + a.2))
      then (p.cores.find? (fun y => y.1 == seq)).map (fun y => y.2) else none)
    match first with
    | some n => if (s.pinsOn c n).any (fun h => h.va == g.va) || s.moving c.id g.va then s else s.moveToTier c g n .genMode false
    | none => s) s

/-- REPEAT_ITERATION (R165, R211): once the iteration before is complete, the span is read again and its executions wait for
dispatch; after the last, REPEAT itself ends. A REPEAT that runs goes on while a checkpoint drains (R483, step 2). -/
def doRepeatIteration (id q : Nat) (ups : List Upset) (s : State) : State :=
  match s.ctx? id with
  | none => s
  | some c => match c.queue? q with
    | none => s
    | some x => match x.rep with
      | none => s
      | some p =>
        let goes := c.serves || ((c.destroying || (c.ckpt.stage == 1 && c.res.leaving == .stays)) && c.res.state == .resident && !c.stopMark)
        if !(s.alive && goes && x.stopped.isNone && !x.destroying) || x.recs.any (fun r => r.iter != 0)
            || (decide (p.next ≤ p.count) && c.heldReads ((List.range p.span).map (fun i => x.slotRegion (p.seq - p.span + i)))) then s
        else if p.count < p.next then
          (s.modQueue id q (fun y => { y with rep := none })).endRec id q p.seq 0 .ok 0 0 true
        else
          let s0 := if p.next = 2 ∧ !p.pinned then
              (s.pinMoves c x p).modQueue id q (fun y => { y with rep := y.rep.map (fun r => { r with pinned := true }) }) else s
          -- the second iteration waits for the moves that go before it (R211)
          if p.next = 2 && s0.moves.any (fun m => m.ctx == id && m.reason == .genMode) then s0
          else match s0.spanRecs c x p ups p.span with
            | none => s0
            | some t => t.1.modQueue id q (fun y =>
                { y with recs := y.recs ++ t.2, rep := y.rep.map (fun r => { r with next := r.next + 1 }) })

/-- REPEAT_ITERATION. -/
def execRepeatIteration (id q : Nat) (ups : List Upset) (s : State) : Host.Outcome State Fault Refusal :=
  .next (doRepeatIteration id q ups s)

end Sys2Proof.Machine
end

