-- ==== Sys2Proof/Machine/Health.lean ====
section
/-!
DEFINITION. Machine/Health.lean: evidence against cores, their suspension and fencing (R457–R459), and the repair of SRAM rows
(R452).
-/
namespace Sys2Proof.Machine

/-- The homes of a core leave it (R209, R458). -/
def State.moveHomes (s : State) (n : Nat) : State :=
  s.ctxs.foldl (fun s c => (c.queues.filter (fun x => x.home == some n)).foldl (fun s x => s.rehome c.id x (fun _ => true)) s) s

/-- The core of a span's command in place of one that left service: least load, then the lower number (R210, R211). -/
def State.standIn (s : State) : Option Nat :=
  leastBy (fun n => match s.core? n with
    | some k => k.load
    | none => 0) s.placeable

/-- Under generation mode the commands that a queue without a window ran on a core, and the core's pinned pages, go to another (R211). -/
def State.moveSpans (s : State) (n : Nat) : State :=
  match s.standIn with
  | none => s
  | some k =>
    (s.ctxs.filter (fun c => c.queues.any (fun x => x.genMode && x.home.isNone))).foldl (fun s c =>
      (s.modCtx c.id (fun d => { d with queues := d.queues.map (fun x =>
        { x with rep := x.rep.map (fun p => { p with cores := p.cores.map (fun y => if y.2 = n then (y.1, k) else y) }) }) })).movePins
          c.id n k .fencing) s

/-- Homes, and the pinned pages that follow, leave a core that is suspended or fenced (R211, R458, R459). -/
def State.moveAway (s : State) (n : Nat) : State := (s.moveHomes n).moveSpans n

/-- File the FENCE record of a core and judge R6. -/
def State.fileFence (s : State) (n : Nat) (cause : Nat) : State :=
  let low := decide (s.activeCount < s.otp.grade.floor)
  let d := min 255 s.activeCount + min 255 s.spareCount * 256 + s.otp.grade.floor * 65536 + cause * 2 ^ 24
  let s1 := if low then { s with logs := { s.logs with belowRating := true } } else s
  s1.file { cls := .fence, die := n / 16, core := n % 16, stage := 0, status := if low then .belowRating else .ok,
            action := 3, detail := d, detailCtx := d }

/-- Spares that no fence waits for, in ascending order; one that a round test holds is among them (R4). -/
def State.spares (s : State) : List Nat :=
  (List.range 96).filter (fun n => !s.test.sparing.any (fun w => w.2.2 == n) && (match s.core? n with
    | some c => c.status == .spare
    | none => false))

/-- The spare for service under R459: the lowest that passed the last round it ran; else the lowest of all. -/
def State.nextSpare (s : State) : Option Nat :=
  match s.spares.find? (fun n => match s.core? n with
      | some c => c.roundPassed
      | none => false) with
  | some n => some n
  | none => s.spares.head?

/-- Is a core under test? Only one at a time (R218). -/
def State.testing (s : State) : Bool := s.cores.any (fun k => k.underTest)

/-- A core is lent to the field test: its lanes take their generator states from the round's seed (R53, R218, R460). -/
def State.lendToTest (s : State) (n : Nat) : State :=
  ({ s with test := { s.test with lanes := (List.range 256).map (Config.testLane s.test.seed) } } : State).modCore n (fun c => { c with underTest := true })

/-- Begin the test of the first spare that a fence waits for, ahead of every other core, once no core is under test (R218, R459). -/
def State.testSpare (s : State) : State :=
  if s.testing then s
  else match s.test.sparing with
    | [] => s
    | w :: _ => s.lendToTest w.2.2

/-- Bring a spare into service for a fenced core, or begin its test; the FENCE record follows (R4, R459). -/
def State.serveSpare (s : State) (fenced cause : Nat) : State :=
  match s.nextSpare with
  | none => s.fileFence fenced cause
  | some n =>
    let ready := match s.core? n with
      | some c => c.roundPassed && c.lastRound == some s.test.round
      | none => false
    if ready then (s.modCore n (fun c => { c with status := .active, underTest := false })).fileFence fenced cause
    else ({ s with test := { s.test with sparing := s.test.sparing ++ [(fenced, cause, n)] } } : State).testSpare

/-- The fences that waited for a spare take the next one (R459). -/
def State.serveOthers (s : State) (n : Nat) : State :=
  (s.test.sparing.filter (fun w => w.2.2 == n)).foldl (fun s w => s.serveSpare w.1 w.2.1)
    { s with test := { s.test with sparing := s.test.sparing.filter (fun w => w.2.2 != n) } }

/-- Fence a core (R459). A spare that fails is fenced without step 4; a fence that waited for it takes the next spare. -/
def State.fenceCore (s : State) (n : Nat) (cause : RecClass) : State :=
  match s.core? n with
  | none => s
  | some c =>
    if c.status = .fenced || c.status = .notGood then s
    else
      let s1 := (s.modCore n (fun k => { k with status := .fenced, suspended := false, underTest := false })).burnRepair 1 (n / 16) (n % 16) 0
      let s2 := s1.moveAway n
      if c.status = .spare then (s2.fileFence n cause.code).serveOthers n else s2.serveSpare n cause.code

/-- Suspend a core (R458). -/
def State.suspendCore (s : State) (n : Nat) : State :=
  match s.core? n with
  | none => s
  | some c =>
    if c.suspended || c.status ≠ .active then s
    else (s.modCore n (fun k => { k with suspended := true, passed := 0 })).moveAway n

/-- Judge a core on a record filed against it (Table 14-4). -/
def State.accuse (s : State) (n : Nat) (cls : RecClass) : State :=
  match s.core? n with
  | none => s
  | some c =>
    let relapse := match c.returned with
      | some t => decide (s.hub.timer < t + 2 ^ 40)
      | none => false
    match cls with
    | .corrected =>
      let seen := s.hub.timer :: c.corrected.filter (fun t => decide (s.hub.timer < t + 2 ^ 34))
      if 64 ≤ seen.length then (s.modCore n (fun k => { k with corrected := [] })).suspendCore n
      else s.modCore n (fun k => { k with corrected := seen })
    | .uncorrected | .sdc => if relapse then s.fenceCore n cls else s.suspendCore n
    | .divergence => s.suspendCore n
    | .testFail => s.fenceCore n cls
    | .integrity | .link | .repair | .fence | .notice => s

/-- File a record of an engine against its core, for a command, and judge the core (R457, R466). -/
def State.fileCore (s : State) (n stage : Nat) (cls : RecClass) (st : Status) (c : Ctx) (q seq action detail : Nat) : State :=
  (s.file { cls := cls, die := n / 16, core := n % 16, stage := stage, status := st, ctx := c.id, ctxGen := c.gen, seq := seq,
            queue := q, action := action, detail := detail, detailCtx := detail }).accuse n cls

/-! ### Rows of SRAM (R452) -/

/-- Rows with two errors within one patrol period. -/
def Memory.badRows (m : Memory) (now : Nat) : List Nat :=
  (m.rowErrors.filter (fun x => decide (2 ≤ (m.rowErrors.filter (fun y => y.1 == x.1 && decide (now < y.2 + 2 ^ 34))).length))).map
    (fun x => x.1)

/-- The bank or subarray of a row's key. -/
def rowUnit (k : Nat) : Nat := k - (field k 39 16) * 2 ^ 16

/-- Pages leave a tier frame that is retired (R452): a pinned one for another slice, any other for its HBM frame; moves to the frame are given
up, and a pinned copy of a shared page is made anew. -/
def State.leaveFrame (s : State) (pfn : Nat) : State :=
  let s1 := s.cancelMoves (fun m => m.dest == pfn && m.keyId == 0)
  let s2 := s1.ctxs.foldl (fun s c => (c.pages.filter (fun p => p.tier == some pfn && !s.moving c.id p.va)).foldl (fun s p =>
    match if p.pin then s.anySlice c p else none with
    | some n => s.moveToTier c p n .repair false
    | none => s.moveToHbm c p .repair false) s) s1
  let drop (y : SharePage) : SharePage := { y with tier := y.tier.filter (fun f => f != pfn) }
  if s2.shares.any (fun x => x.pages.any (fun y => y.tier == some pfn)) then
    (({ s2 with shares := s2.shares.map (fun x => { x with pages := x.pages.map drop }) } : State).dropTier pfn).retryPins
  else s2

/-- Repair one row: a spare row while one remains; else its frame is retired, or its core fenced (R452). -/
def State.repairSramRow (s : State) (k : Nat) : State :=
  let core := field k 47 40
  let row := field k 39 16
  let unit := field k 15 0
  let scratch := field k 51 48 == 2
  let used := sparse s.mem.rowSpares (rowUnit k)
  let s0 := { s with mem := { s.mem with rowErrors := s.mem.rowErrors.filter (fun x => x.1 != k) } }
  let die := if scratch then core / 16 else 6 + 4 * (core / 16) + field k 55 52
  if used < 16 then
    let s1 := s0.modMem (fun m => { m with rowSpares := setSparse m.rowSpares (rowUnit k) (used + 1) })
    let s2 := if scratch then s1.burnRepair 2 die (core % 16) (unit + row * 64) else s1.burnRepair 3 die 0 (unit + row * 2048)
    s2.file { cls := .repair, die := die, core := core % 16, stage := if scratch then 5 else 6, action := 4,
              detail := 2 ^ 56, detailCtx := 2 ^ 56 }
  else if scratch then s0.fenceCore core .corrected
  else
    -- the row of 512 bytes of one tier covers 2 KiB of the slice
    let o := ((unit % 128) * 2 ^ 20 + row * 512) * 4
    let pfn := tierFrame core (o / pageSize)
    (s0.modMem (fun m => { m with tierRetired := pfn :: m.tierRetired })).leaveFrame pfn |>.burnRepair 4 (core / 16) (core % 16) (o / pageSize)

/-- Repair every row that two errors have marked. -/
def State.repairRows (s : State) : State := (s.mem.badRows s.hub.timer).eraseDups.foldl (fun s k => s.repairSramRow k) s

end Sys2Proof.Machine
end

