-- ==== Sys2Proof/Machine/Operands.lean ====
section
/-!
DEFINITION. Machine/Operands.lean: operand forms of the engine commands: the two address spaces of a command, rows, regions,
stored elements, the order of an engine's work, and leave for the heavy operations.
-/
namespace Sys2Proof.Machine

/-! ### Spaces: 0 is the context's virtual space, 1 the scratchpad window of the issuing queue -/

/-- Where a step of an engine runs, and what its reads meet. -/
structure Site where
  ctx : Nat
  queue : Nat
  core : Nat
  ups : List Upset
  deriving DecidableEq, Repr

/-- Is a byte range of a space backed? (R80, R114, R157) -/
def inSpace (c : Ctx) (x : Queue) (space addr n : Nat) : Bool :=
  if space = 0 then c.mapped addr n else n == 0 || decide (addr + n ≤ x.window * 2 ^ 20)

/-- Is a byte range of a space backed for writing? (R200) -/
def outSpace (c : Ctx) (x : Queue) (space addr n : Nat) : Bool :=
  if space = 0 then c.writable addr n else inSpace c x space addr n

/-- Read bytes of a space. -/
def State.readS (s : State) (e : Site) (space addr n : Nat) : State × Except Status Bytes :=
  if space = 0 then s.readV e.ctx (some e.core) e.ups addr n
  else match s.ctx? e.ctx with
    | none => (s, .error .staleGeneration)
    | some c => match c.queue? e.queue with
      | none => (s, .error .extent)
      | some x => if n = 0 then (s, .ok []) else s.readW c x e.core e.ups addr n

/-- Write bytes of a space. -/
def State.writeS (s : State) (e : Site) (space addr : Nat) (bs : Bytes) : State × Option Status :=
  if space = 0 then s.writeV e.ctx (some e.core) e.ups addr bs
  else match s.ctx? e.ctx with
    | none => (s, some .staleGeneration)
    | some c => match c.queue? e.queue with
      | none => (s, some .extent)
      | some x => if bs.isEmpty then (s, none) else s.writeW x e.core addr bs

/-- Put bytes where a context's range lies, without checks or counters: for contents that the spec calls unspecified. -/
def State.pokeV (s : State) (id va : Nat) (bs : Bytes) : State :=
  ((piecesOf va bs.length).foldl (fun (acc : State × Bytes) pc =>
    let s := acc.1
    let b := acc.2.take pc.2.2
    let s1 := match s.ctx? id with
      | none => s
      | some c => match c.page? pc.1 with
        | none => s
        | some p => match s.placeOf p none with
          | .hbm f | .tier f | .lease f => s.modCells (fun cs => writeCells cs (physAt f pc.2.1) b)
          | .lost => s
    (s1, acc.2.drop pc.2.2)) (s, bs)).1

/-- Put bytes in a space without checks. -/
def State.pokeS (s : State) (e : Site) (space addr : Nat) (bs : Bytes) : State :=
  if space = 0 then s.pokeV e.ctx addr bs
  else match s.ctx? e.ctx with
    | none => s
    | some c => match c.queue? e.queue with
      | none => s
      | some x => s.modCells (fun cs => writeCells cs (windowAddr x e.core addr) bs)

/-- Leave the content of regions unspecified (R93, R94, R128): free values (LOG 12). -/
def State.scramble (s : State) (e : Site) (rs : List Region) : State :=
  rs.foldl (fun s r =>
    let t := s.freeBytes r.bytes
    t.1.pokeS e r.space r.addr t.2) s

/-- Bytes of a space as they stand, without checks or counters. -/
def State.peekS (s : State) (e : Site) (space addr n : Nat) : Bytes :=
  if space = 0 then s.peekV e.ctx addr n
  else match s.ctx? e.ctx with
    | none => []
    | some c => match c.queue? e.queue with
      | none => []
      | some x => readCells s.mem.cells (windowAddr x e.core addr) n

/-- A command of a context has written. A tensor of a step that it wrote before the work fence of its record holds unspecified values (R241;
LOG 12). -/
def State.trespass (s : State) (id q : Nat) (w : Rec) : State :=
  match s.ctx? id with
  | none => s
  | some c => match c.queue? q with
    | none => s
    | some y =>
      let hit (g : Guarded) : Bool := (s.stores c y w).any (fun b => b.overlaps { space := g.space, addr := g.addr, bytes := g.bytes }
        && (g.space == 0 || g.queue == q))
      (c.guarded.filter hit).foldl (fun s g =>
        s.scramble { ctx := id, queue := g.queue, core := y.home.getD 0, ups := [] } [{ space := g.space, addr := g.addr, bytes := g.bytes }]) s

/-- A command has written: what it wrote may meet the work of other engines (R81) and the tensors of a step (R241). -/
def State.wrote (s : State) (id q : Nat) (w : Rec) : State := (s.tangle id q w).trespass id q w

/-- Does a region of a context lie on a lease in part? -/
def onLeases (c : Ctx) (r : Region) : Bool := r.space == 0 && (c.pagesIn r.addr r.bytes).any (fun p => p.lease.isSome)

/-- Does an engine wait for an entry of the Ledger? It needs one for each transfer: of its tile's part for an operand away from its core's slice,
and of the hub's part for one on a lease (R160, R161). -/
def State.starved (s : State) (c : Ctx) (core : Nat) (rs : List Region) : Bool :=
  (s.tileFull core && rs.any (fun r => r.space == 0 && decide (s.sliceBytes c core r.addr r.bytes < r.bytes)))
    || ((s.ledger.freeTag hubTags 4096).isNone && rs.any (onLeases c))

/-- Read rows of `len` bytes at a stride, in ascending order; the first failure ends the read. -/
def State.readRows (s : State) (e : Site) (space addr stride len : Nat) : Nat → State × Except Status (List Bytes)
  | 0 => (s, .ok [])
  | n + 1 =>
    let t := s.readRows e space addr stride len n
    match t.2 with
    | .error st => (t.1, .error st)
    | .ok rows =>
      let r := t.1.readS e space (addr + n * stride) len
      (r.1, match r.2 with
            | .error st => .error st
            | .ok bs => .ok (rows ++ [bs]))

/-- Write rows at a stride, in ascending order; the first failure ends the writes. -/
def State.writeRows (s : State) (e : Site) (space addr stride : Nat) : List Bytes → State × Option Status
  | [] => (s, none)
  | bs :: rest =>
    let r := s.writeS e space addr bs
    match r.2 with
    | some st => (r.1, some st)
    | none => r.1.writeRows e space (addr + stride) stride rest

/-! ### Stored elements -/

/-- The word of element `i` of a stored row (R40 for E2M1). -/
def elemWord (f : Fmt) (row : Bytes) (i : Nat) : Nat :=
  match f.half with
  | 1 => let b := (row.getD (i / 2) 0).toNat
         if i % 2 = 0 then b % 16 else b / 16
  | 2 => (row.getD i 0).toNat
  | 4 => ofLe (slice row (2 * i) 2)
  | _ => ofLe (slice row (4 * i) 4)

/-- The value of an MX element under its block's scale (R41). -/
def mxVal (f : Fmt) (word scale : Nat) : XVal :=
  if scale = 0xFF then .nan else (f.elem.decode word).shift ((scale : Int) - 127)

/-! ### The order of an engine's work, and the gates -/

/-- Records that run on a core under a test and were dispatched before a given one (R69, R102). -/
def State.ahead (s : State) (core : Nat) (unit : CmdOp → Bool) (order : Nat) : Nat :=
  (s.ctxs.flatMap (fun c => c.queues.flatMap (fun x => x.recs.filter (fun r =>
    r.phase == .running && r.core == some core && decide (r.order < order) && (match r.op with
      | some op => unit op
      | none => false))))).length

/-- Are the gates of a tile closed? (R501, R503, R516) -/
def State.gateClosed (s : State) (tile : Nat) : Bool :=
  s.hub.brakePin || (match s.power.tiles[tile]? with
    | some t => t.brake || t.underVolt != 0
    | none => false)

/-- Ask the tile's Teller for leave, once (R494, R497). -/
def State.askLeave (s : State) (id : Nat) (q : Nat) (r : Rec) (core : Nat) (vector : Bool) : State :=
  if r.asked then s
  else (s.modTile (tileOf core) (fun (t : Tile) =>
      { t with teller := { t.teller with queue := t.teller.queue ++ [.command id q r.seq r.iter vector] } })).modRec id q r.seq r.iter
    (fun y => { y with asked := true })

/-- The number of checks of an engine that failed and agreed on the re-run, and whether one failed again (R99, R131). -/
def retries (ups : List Upset) : Nat × Bool :=
  ((ups.filter (fun u => u == .check true)).length, ups.contains (.check false))

end Sys2Proof.Machine
end

