-- ==== Sys2Proof/Machine/Power.lean ====
section
/-!
DEFINITION. Machine/Power.lean: the brake, voltage requests, thermal actions, leave and the board's power events (R34,
R494–R510, R516, R517, R522), refresh (R184–R187), the drain of writes (R181), and POWER_CONFIG (R499, R500).
-/
namespace Sys2Proof.Machine

/-! ### Events -/

/-- Body of a BRAKE event (Table 16-4). -/
def State.brakeBody (s : State) (count longest : Nat) : Bytes :=
  toLe 8 s.power.brakeAt ++ toLe 4 s.otp.bootEpoch ++ toLe 4 (min count (2 ^ 32 - 1)) ++ toLe 4 (min longest (2 ^ 32 - 1))
    ++ toLe 4 s.hub.brakePin.toNat ++ toLe 40 0

/-- Raise a BRAKE event and begin its interval (R503). -/
def State.brakeEvent (s : State) : State :=
  let now := if s.hub.brakePin then s.hub.timer - s.power.brakeAt else 0
  { s.raiseDevice .brake .ok (s.brakeBody s.power.brakeCount (max s.power.brakeLongest now)) with
    power := { s.power with brakeCount := 0, brakeLongest := 0, brakeUntil := some (s.hub.timer + 2 ^ 20) } }

/-- Body of a THERMAL event (Table 16-7). -/
def State.thermalBody (s : State) (die level : Nat) (rising : Bool) (temp : Int) : Bytes :=
  let limit := match (if die < 6 then s.power.tiles[die]? else if die < 30 then s.power.tiles[(die - 6) / 4]?
      else if die < 33 then none else s.power.tiles[(die - 33) / 2]?) with
    | some t => t.thermal
    | none => 0
  toLe 8 s.hub.timer ++ toLe 4 s.otp.bootEpoch ++ toLe 1 die ++ toLe 1 (level + rising.toNat * 16)
    ++ toLe 2 (if s.conf then 0 else wordOf 16 temp) ++ toLe 2 limit ++ toLe 46 0

/-- Raise a THERMAL event for a change of level (R508). -/
def State.thermalEvent (s : State) (die old new : Nat) (temp : Int) : State :=
  if old = new then s else s.raiseDevice .thermal .ok (s.thermalBody die new (decide (old < new)) temp)

/-! ### The brake -/

/-- PWR_BRAKE_ASSERT (R501, R503). An assertion shorter than 10 ns is one that the filter may ignore, and it is ignored
(DESIGN CHOICE LOG 29); none has effect while RESET_N is asserted (R519). -/
def doPwrBrakeAssert (ns : Nat) (s : State) : State :=
  if s.hub.inReset || s.hub.brakePin || decide (ns < 10) then s
  else
    let s1 := (s.modHub (fun h => { h with brakePin := true })).revokeAll
    let s2 := { s1 with power := { s1.power with brakes := hold 0xFFFF (s1.power.brakes + 1),
                                                 brakeCount := s1.power.brakeCount + 1, brakeAt := s.hub.timer } }
    if s.alive && (match s.power.brakeUntil with
      | some t => decide (t ≤ s.hub.timer)
      | none => true) then s2.brakeEvent
    else s2

/-- PWR_BRAKE_ASSERT. -/
def execPwrBrakeAssert (ns : Nat) (s : State) : Host.Outcome State Fault Refusal := .next (doPwrBrakeAssert ns s)

/-- PWR_BRAKE_RELEASE (R502). -/
def doPwrBrakeRelease (s : State) : State :=
  if !s.hub.brakePin then s
  else
    let s1 := s.modHub (fun h => { h with brakePin := false })
    let s2 := { s1 with power := { s1.power with brakeLongest := max s1.power.brakeLongest (s.hub.timer - s.power.brakeAt) } }
    (List.range 2).foldl (fun s n => s.modLinkTeller n Teller.reask) ((List.range 6).foldl (fun s n => s.reaskTile n) s2)

/-- PWR_BRAKE_RELEASE. -/
def execPwrBrakeRelease (s : State) : Host.Outcome State Fault Refusal := .next (doPwrBrakeRelease s)

/-- BRAKE_EVENT_INTERVAL (R503): the interval ends; assertions that fell in it are told in one event. -/
def doBrakeEventInterval (s : State) : State :=
  match s.power.brakeUntil with
  | none => s
  | some t =>
    if !s.alive || decide (s.hub.timer < t) then s
    else if s.power.brakeCount = 0 then { s with power := { s.power with brakeUntil := none } }
    else s.brakeEvent

/-- BRAKE_EVENT_INTERVAL. -/
def execBrakeEventInterval (s : State) : Host.Outcome State Fault Refusal := .next (doBrakeEventInterval s)

/-! ### Faults of the supply and of the clock -/

/-- The device stops until the next cold reset, with ALERT_N asserted. -/
def State.haltFor (s : State) (h : Halt) : State := s.modHub (fun x => { x with halt := some h, alertN := true })

/-- REFCLK_MISSING (R34): after 1 µs. -/
def doRefclkMissing (ns : Nat) (s : State) : State :=
  if s.hub.inReset || decide (ns < 1000) then s
  else (s.haltFor .refclk).modHub (fun h => { h with timerHeld := true })

/-- REFCLK_MISSING. -/
def execRefclkMissing (ns : Nat) (s : State) : Host.Outcome State Fault Refusal := .next (doRefclkMissing ns s)

/-- RAIL_OUT_OF_RANGE (R517): after 1 µs. -/
def doRailOutOfRange (ns : Nat) (s : State) : State :=
  if s.hub.inReset || decide (ns < 1000) then s
  else (s.haltFor .rail).modHub (fun h => { h with selfRefresh := true })

/-- RAIL_OUT_OF_RANGE. The rules name no effect that depends on which monitored rail left its range. -/
def execRailOutOfRange (rail ns : Nat) (s : State) : Host.Outcome State Fault Refusal :=
  let _ := rail
  .next (doRailOutOfRange ns s)

/-- Is this record an operation in flight on the tile? -/
def Rec.onTile (r : Rec) (n : Nat) : Bool := r.phase == .running && (match r.core with
  | some k => tileOf k == n
  | none => false)

/-! ### Temperature -/

/-- Level of a temperature, with the hysteresis of R508: lower limits of the levels, in 0.125 °C. -/
def levelOf (limits : List (Nat × Int)) (old : Nat) (temp : Int) : Nat :=
  (limits.filter (fun l => decide (l.2 ≤ temp) || (decide (l.1 ≤ old) && decide (l.2 - 16 < temp)))).foldl (fun a l => max a l.1) 0

/-- Limits of a logic die (Table 16-6). -/
def logicLimits : List (Nat × Int) := [(1, 760), (2, 800), (3, 840), (4, 880)]
/-- Level of a stack: levels 1 and 3 are those above 85 °C and 95 °C, and level 3 is left where the cap is lifted (Table 16-6, R184, R187). -/
def stackLevelOf (old : Nat) (temp : Int) : Nat :=
  if 800 ≤ temp || (decide (4 ≤ old) && decide (784 < temp)) then 4
  else if 760 < temp || (decide (3 ≤ old) && decide (744 < temp)) then 3
  else if 680 < temp || (decide (1 ≤ old) && decide (664 < temp)) then 1 else 0

/-- A sensor after a reading: temperature, level, invalid, valid readings in succession (R510). -/
def senseLogic (temp : Int) (level : Nat) (invalid : Bool) (valid : Nat) (reading : Option Int) : Int × Nat × Bool × Nat :=
  match reading with
  | none => (temp, max 3 level, true, 0)
  | some t =>
    let l := levelOf logicLimits level t
    if invalid && valid = 0 then (t, max 3 l, true, 1) else (t, l, false, 0)

/-- THERMAL_BRAKE_COMPARATOR (R508): at 105 °C the tile brakes at once. -/
def doThermalBrake (n : Nat) (temp : Int) (s : State) : State :=
  if s.hub.inReset || decide (temp < 840) || (s.power.tiles[n]?).isNone then s
  else (s.revokeTile n).modTile n (fun t => { t with brake := true })

/-- THERMAL_BRAKE_COMPARATOR. -/
def execThermalBrakeComparator (tile : Nat) (temp : Int) (s : State) : Host.Outcome State Fault Refusal :=
  .next (doThermalBrake tile temp s)

/-- Is a die position that of a logic die: a compute, hub or link die (Table 13-8)? -/
def logicDie (die : Nat) : Bool := decide (die < 6) || (decide (30 ≤ die) && decide (die < 33))

/-- THERM_TRIP_COMPARATOR (R522): a logic die at 112 °C asserts THERM_TRIP_N, even while RESET_N is asserted. -/
def execThermTripComparator (die : Nat) (temp : Int) (s : State) : Host.Outcome State Fault Refusal :=
  .next (if logicDie die && decide (896 ≤ temp) then s.modHub (fun h => { h with thermTripN := true }) else s)

/-- Refresh multiple of a stack for a temperature, with hysteresis (R184). -/
def refreshOf (old : Nat) (temp : Int) : Nat :=
  if 760 < temp || (old == 4 && decide (744 < temp)) then 4
  else if 680 < temp || (2 ≤ old && decide (664 < temp)) then 2 else 1

/-- The level of a stack that the Bursar reads: one with an invalid sensor acts as above 95 °C (R185). -/
def Stack.levelNow (x : Stack) : Nat := if x.invalid then max 3 (stackLevelOf x.level x.temp) else stackLevelOf x.level x.temp

/-- A report of a stack's sensor (R184, R185, R187). -/
def Stack.report (x : Stack) (reading : Option Int) : Stack :=
  match reading with
  | none => { x with invalid := true, valid := 0, refresh := 4, capped := true }
  | some t =>
    if x.invalid && x.valid = 0 then { x with temp := t, valid := 1 }
    else
      let r := refreshOf x.refresh t
      { x with temp := t, invalid := false, valid := 0, refresh := r, capped := r == 4 }

/-- STACK_TEMP_REPORT: the controller acts, and on a running device a THERMAL event follows at once when the bandwidth cap comes or goes
(R187, Table 06-8). -/
def doStackTempReport (k : Nat) (temp : Option Int) (s : State) : State :=
  match s.hbmStacks[k]? with
  | none => s
  | some x =>
    let y := x.report temp
    if s.hub.inReset then s
    else if x.capped = y.capped ∨ s.alive = false then s.modStack k (fun _ => y)
    else (s.modStack k (fun _ => { y with level := y.levelNow })).thermalEvent (dieStack k) x.level y.levelNow y.temp

/-- STACK_TEMP_REPORT. -/
def execStackTempReport (stack : Nat) (temp : Option Int) (s : State) : Host.Outcome State Fault Refusal :=
  .next (doStackTempReport stack temp s)

/-! ### The sample period -/

/-- Ask a regulator for a voltage: at once, or when the recharge of its held leave fits (R505). -/
def State.askVoltage (s : State) (n mv : Nat) : State :=
  (s.modTile n (fun t => { t with raise := some mv })).sendRaise n

/-- The voltage request of R504 and Table 16-6 for a tile, if one falls due: at most one in a period, 550 mV to `vmax`. -/
def Tile.wanted (t : Tile) (cfg : PowerCfg) : Option Nat :=
  if 2 ≤ t.level then (if 550 < t.mv then some (max 550 (t.mv - 10)) else none)
  else if t.rate * 100 < cfg.rateTarget * 99 then
    (if t.mv < cfg.vmax && t.level = 0 && !t.silent then some (min cfg.vmax (t.mv + 5)) else none)
  else if cfg.rateTarget * 102 < t.rate * 100 && 550 < t.mv then some (max 550 (t.mv - 5))
  else none

/-- The cap limit after a period (R504). -/
def capAfter (cap budget watts deviceCap : Nat) : Nat :=
  if deviceCap < watts then max 256 (cap - budget / 16)
  else if watts * 100 < deviceCap * 95 then min budget (cap + budget / 16) else cap

/-- The thermal limit after a period (R508): tile level, highest level of its stacks. -/
def thermalAfter (old budget level hot : Nat) : Nat :=
  let a := if level ≤ 1 && hot ≤ 1 then budget
    else if level = 2 then (if 360 < old then max 360 (old - budget / 8) else old)
    else if 3 ≤ level then (if 360 < old then max 360 (old - budget / 8) else old)
    else old
  let b := if 3 ≤ level then min 180 a else a
  if 3 ≤ hot then min 540 b else b

/-- One tile in a sample period: readings, level, limits, undervoltage hold. -/
def Tile.sample (t : Tile) (cfg : PowerCfg) (r : TileReading) (watts hot : Nat) : Tile :=
  let q := senseLogic t.temp t.level t.invalid t.valid r.temp
  let hold := if t.underVolt = 0 then 0 else if 550 ≤ r.mv then t.underVolt - 1 else 1
  { t with temp := q.1, level := q.2.1, invalid := q.2.2.1, valid := q.2.2.2, rate := r.beatRate, seenMv := r.mv, amps := r.amps,
           coinsSeen := t.teller.held t.band, cap := capAfter t.cap cfg.budget watts cfg.deviceCap,
           thermal := thermalAfter t.thermal cfg.budget q.2.1 hot, underVolt := hold }

/-- The highest level of a tile's two stacks. -/
def State.stackLevel (s : State) (tile : Nat) : Nat :=
  ((List.range 2).map (fun i => match s.hbmStacks[2 * tile + i]? with
    | some x => x.level
    | none => 0)).foldl max 0


/-- The Bursar reads every stack. -/
def State.sampleStacks (s : State) : State :=
  (List.range 12).foldl (fun s k => match s.hbmStacks[k]? with
    | none => s
    | some x => (s.modStack k (fun y => { y with level := x.levelNow })).thermalEvent (dieStack k) x.level x.levelNow x.temp) s

/-- The Bursar samples a tile. -/
def State.sampleTile (s : State) (n watts : Nat) (r : TileReading) : State :=
  match s.power.tiles[n]? with
  | none => s
  | some old =>
    let new := old.sample s.power.cfg r watts (s.stackLevel n)
    let s1 := (s.modTile n (fun _ => new)).thermalEvent n old.level new.level new.temp
    -- the thermal brake of level 3 comes and goes with the level
    let s2 := if 3 ≤ new.level then (s1.revokeTile n).modTile n (fun t => { t with brake := true })
      else if (old.brake || old.underVolt != 0) && new.underVolt = 0 then
        (let s' := s1.modTile n (fun t => { t with brake := false })
         if s'.hub.brakePin then s' else s'.reaskTile n)
      else s1.modTile n (fun t => { t with brake := false })
    match new.wanted s.power.cfg with
    | some v => s2.askVoltage n v
    | none => s2.sendRaise n

/-- The Bursar samples a sensor of the hub or of a link die. -/
def Sensor.sample (x : Sensor) (reading : Option Int) : Sensor :=
  let q := senseLogic x.temp x.level x.invalid x.valid reading
  { x with temp := q.1, level := q.2.1, invalid := q.2.2.1, valid := q.2.2.2 }

/-- The hub and the link dies in a sample period. -/
def State.sampleHub (s : State) (r : Readings) : State :=
  let h := s.power.hubSensor
  let s1 := ({ s with power := { s.power with hubSensor := h.sample r.hub } } : State).thermalEvent dieHub h.level (h.sample r.hub).level
    (h.sample r.hub).temp
  (List.range 2).foldl (fun s n => match s.power.linkSensors[n]? with
    | none => s
    | some x =>
      let y := x.sample (r.links.getD n none)
      ({ s with power := { s.power with linkSensors := modAt s.power.linkSensors n (fun _ => y) } } : State).thermalEvent (dieLink n)
        x.level y.level y.temp) s1

/-- Is any die at level 4? -/
def State.tripping (s : State) : Bool :=
  s.power.tiles.any (fun t => decide (4 ≤ t.level)) || decide (4 ≤ s.power.hubSensor.level)
    || s.power.linkSensors.any (fun x => decide (4 ≤ x.level)) || s.hbmStacks.any (fun x => decide (4 ≤ x.level))

/-- The thermal trip (R509). -/
def State.trip (s : State) : State :=
  ((s.revokeAll).haltFor .trip).modHub (fun h => { h with selfRefresh := true, thermTripN := true })

/-- SAMPLE_PERIOD (R504, R506, R508–R510, R516): once 2^14 counts have passed since the last. -/
def doSamplePeriod (r : Readings) (s : State) : State :=
  if !s.alive || decide (s.hub.timer < s.power.lastSample + 2 ^ 14) then s
  else
    let h := s.power.history ++ [r.watts]
    let s1 := { s with power := { s.power with cfg := { s.power.next with budget := s.power.cfg.budget }, watts := r.watts,
                                               history := if h.length ≤ 16384 then h else h.drop 1, lastSample := s.hub.timer } }
    let s2 := (List.range 6).foldl (fun s n => s.sampleTile n r.watts (r.tiles.getD n { temp := none })) s1.sampleStacks
    let s3 := s2.sampleHub r
    if s3.tripping then s3.trip else s3

/-- SAMPLE_PERIOD. -/
def execSamplePeriod (r : Readings) (s : State) : Host.Outcome State Fault Refusal := .next (doSamplePeriod r s)

/-- AVSBUS_SILENT (R505): 2^16 counts without an answer; the tile stays at the band of its last confirmed voltage. -/
def doAvsbusSilent (n : Nat) (s : State) : State :=
  match s.power.tiles[n]? with
  | none => s
  | some t => match t.asked with
    | none => s
    | some a =>
      if !s.alive || decide (s.hub.timer < a + 2 ^ 16) then s
      else (s.modTile n (fun t => { t with mv := t.confirmed, raise := none, asked := none, silent := true })).notice 3 0 .ok n

/-- AVSBUS_SILENT. -/
def execAvsbusSilent (tile : Nat) (s : State) : Host.Outcome State Fault Refusal := .next (doAvsbusSilent tile s)

/-- VOLTAGE_CONFIRMED (R495, R505): the regulator reports the voltage last requested. -/
def doVoltageConfirmed (n mv : Nat) (s : State) : State :=
  match s.power.tiles[n]? with
  | none => s
  | some t =>
    if s.alive && t.asked.isSome && t.mv == mv then
      (s.modTile n (fun t => { t with confirmed := mv, asked := none, silent := false })).sendRaise n
    else s

/-- VOLTAGE_CONFIRMED. -/
def execVoltageConfirmed (tile mv : Nat) (s : State) : Host.Outcome State Fault Refusal := .next (doVoltageConfirmed tile mv s)

/-! ### Leave -/

/-- LEAVE_GRANT (R496–R498) on a tile: gates open, oldest request first. -/
def State.grantTile (s : State) (n : Nat) : State :=
  match s.power.tiles[n]? with
  | none => s
  | some t =>
    if s.gateClosed n then s
    else
      let g := t.teller.grant t.band (t.budget s.power.cfg.budget)
      match g.2 with
      | none => s
      | some l => (s.modTile n (fun t => { t with teller := g.1 })).setLeave l true

/-- LEAVE_GRANT on a link die: a port that is granted its wake begins to train (R259). -/
def State.grantLink (s : State) (n : Nat) : State :=
  match s.power.linkTellers[n]? with
  | none => s
  | some t =>
    if s.hub.brakePin then s
    else
      let g := t.grant 0 s.power.cfg.linkBudget
      match g.2 with
      | none => s
      | some l =>
        let s1 := s.modLinkTeller n (fun _ => g.1)
        match l with
        | .port p => { s1 with links := { s1.links with ports := modAt s1.links.ports p (fun x =>
            if x.isUp then x else { x with training := some s.hub.timer }) } }
        | .command _ _ _ _ _ | .train _ => s1

/-- LEAVE_GRANT. -/
def execLeaveGrant (unit : LeaveUnit) (s : State) : Host.Outcome State Fault Refusal :=
  .next (if !s.alive then s else match unit with
    | .tile n => s.grantTile n
    | .link n => s.grantLink n)

/-- PACING_WINDOW (R498). -/
def execPacingWindow (unit : LeaveUnit) (s : State) : Host.Outcome State Fault Refusal :=
  .next (if !s.alive then s else match unit with
    | .tile n => s.modTile n (fun t => { t with teller := { t.teller with window := 0 } })
    | .link n => s.modLinkTeller n (fun t => { t with window := 0 }))

/-- HBM_TRAIN_IDLE (R494): 2^8 counts without a request return the train's coins. -/
def doHbmTrainIdle (k : Nat) (s : State) : State :=
  match s.hbmStacks[k]? with
  | none => s
  | some x =>
    if s.alive && x.train && decide (x.lastReq + 2 ^ 8 ≤ s.hub.timer) then
      (s.modStack k (fun y => { y with train := false })).returnCoins (k / 2) (fun l => l == .train k)
    else s

/-- HBM_TRAIN_IDLE. -/
def execHbmTrainIdle (stack : Nat) (s : State) : Host.Outcome State Fault Refusal := .next (doHbmTrainIdle stack s)

/-- HBM_WRITE_DRAIN (R181): a batch of at least sixteen leaves the buffer. Reads and their order see no difference. -/
def Stack.drain (x : Stack) (ch : Nat) : Stack :=
  if 16 ≤ (x.writes.filter (fun w => w.1 == ch)).length then { x with writes := x.writes.filter (fun w => w.1 != ch) } else x

/-- HBM_WRITE_DRAIN. -/
def execHbmWriteDrain (stack channel : Nat) (s : State) : Host.Outcome State Fault Refusal :=
  .next (if !s.alive || s.hub.selfRefresh then s else s.modStack stack (fun x => x.drain channel))

/-! ### POWER_CONFIG -/


/-- The configuration of a payload. -/
def powerCfgOf (w : Nat) : PowerCfg :=
  { budget := field w 15 0, vmax := field w 31 16, rateTarget := field w 47 32, deviceCap := field w 63 48, linkBudget := field w 79 64 }

/-- Is a number between two? -/
def between (lo v hi : Nat) : Bool := decide (lo ≤ v) && decide (v ≤ hi)

/-- The ranges of Table 16-3, with those of debug right 5 in OPEN mode. -/
def PowerCfg.inRange (p : PowerCfg) (debug : Bool) : Bool :=
  between 64 p.budget (if debug then 1023 else 800) && between 550 p.vmax 850 && between 1300 p.rateTarget 2500
    && between 1000 p.deviceCap (if debug then 3500 else 2800) && between 192 p.linkBudget 400

/-- A new budget counts at once (R500); a thermal or cap limit that stood at the old budget, and so limited nothing, stands at the new one
(R496; DEDUCED LOG 29). -/
def Tile.rebudget (old new : Nat) (t : Tile) : Tile :=
  { t with cap := if old ≤ t.cap then new else t.cap, thermal := if old ≤ t.thermal then new else t.thermal }

/-- POWER_CONFIG (R500). A session that is not the management session is refused by its role first (Table 10-9). The answer
carries the values that the Bursar holds: the new ones, also before the sample period from which the other fields act (DEDUCED LOG 29). -/
def doPowerConfig (m : Msg) (s : State) (x : Session) : State × Option Reply :=
  let p := powerCfgOf (ofLe m.payload)
  let ans (s : State) (st : Status) : State × Option Reply := (s, some { status := st, payload := s.power.next.bytes })
  match firstOf [
      (x.role != .management, Status.denied),
      (m.length != 0 && m.length != 16, .badLength),
      (m.length == 16 && anySet (ofLe m.payload) 127 80, .reservedSet),
      (m.length == 16 && !p.inRange (!s.conf && flag s.life.rights 5), .denied)] with
  | some st => ans s st
  | none =>
    if m.length = 0 then ans s .ok
    else ans { s with power := { s.power with
      cfg := { s.power.cfg with budget := p.budget }, next := p,
      tiles := s.power.tiles.map (Tile.rebudget s.power.cfg.budget p.budget) } } .ok

/-- POWER_CONFIG. -/
def execPowerConfig (m : Msg) (s : State) : Host.Outcome State Fault Refusal :=
  .next (s.request .powerConfig m (doPowerConfig m))

end Sys2Proof.Machine
end

