-- ==== Sys2Proof/Machine/Placement.lean ====
section
/-!
DEFINITION. Machine/Placement.lean: MAP_GRANT, UNMAP, PAGE_HINT, REGULATE, PLACE_LOG, reviews and page moves
(R191, R194–R208, R219, R220).
-/
namespace Sys2Proof.Machine

/-! ### Holdings and limits -/

/-- Local reservations of a context: its HBM frames, and both frames of each page that it published and still maps as its own; attached pages
count for nothing (R194, R198). -/
def State.localHeld (s : State) (c : Ctx) : Nat :=
  (c.pages.map (fun p =>
    if p.hbm.isSome then 1
    else match p.share with
      | none => 0
      | some (i, k) => (match s.share? i with
        | some x => if x.ctx = c.id ∧ (x.own.map (fun v => v + k)) = some p.va then 2 else 0
        | none => 0))).sum

/-- Pages on the neighbour tier. -/
def Ctx.nbrHeld (c : Ctx) : Nat := (c.pages.filter (fun p => p.lease.isSome)).length

/-- HBM frames that can be granted (R196). -/
def State.grantable (s : State) : Nat :=
  380928 - 256 - s.mem.countUse (fun u => u == .retired) - s.mem.countUse (fun u => match u with
    | .lent _ => true
    | .page | .mirror | .reserve | .withdrawn | .retired | .snapshot _ => false)

/-- Frames of a lease that no page and no move uses. -/
def State.leaseFree (s : State) (l : Nat) : List Nat :=
  ((List.range 512).map (leaseFrame l)).filter (fun f =>
    !s.ctxs.any (fun c => c.pages.any (fun p => p.lease == some f)) && !s.moves.any (fun m => m.dest == f))

/-- Free frames of the leases of a context. -/
def State.leaseRoom (s : State) (id : Nat) : List Nat :=
  (s.links.leases.filter (fun l => l.ctx == id && !l.broken)).flatMap (fun l => s.leaseFree l.slot)

/-! ### MAP_GRANT -/

/-- The payload of MAP_GRANT (Table 07-1). -/
structure Grant where
  kind : Nat
  nbr : Bool
  va : Nat
  pages : Nat
  a : Nat
  b : Nat
  d : Nat
  rsvd : Bool
  deriving DecidableEq, Repr

/-- The fields of a payload, with the reserved ones of its kind. -/
def grantOf (w : Nat) : Grant :=
  let kind := field w 1 0
  { kind := kind, nbr := flag w 2, va := field w 79 32, pages := field w 119 96, a := field w 159 128, b := field w 191 160,
    d := field w 223 192,
    rsvd := anySet w 31 3 || anySet w 95 80 || anySet w 127 120 || anySet w 255 224 || (kind != 0 && flag w 2)
      || (kind == 1 && field w 79 32 != 0) || (1 ≤ kind && kind != 2 && field w 119 96 != 0)
      || ((kind == 0 || kind == 2) && anySet w 223 128) }

/-- The object that kind 3 names, and whether its generation is the one presented. -/
def State.shareNamed (s : State) (g : Grant) : Option Share :=
  match s.share? (g.a % 65536) with
  | some x => if x.key = g.b + g.d * 2 ^ 32 then some x else none
  | none => none

/-- Pages that the request maps or names. -/
def State.grantPages (s : State) (g : Grant) : Nat :=
  if g.kind = 3 then (match s.shareNamed g with
    | some x => x.pages.length
    | none => 0)
  else if g.kind = 1 then 0 else g.pages

/-- Is any page of a range mapped? -/
def Ctx.anyMapped (c : Ctx) (vp n : Nat) : Bool := c.pages.any (fun p => decide (vp ≤ p.va) && decide (p.va < vp + n))

/-- The pages of a range. -/
def Ctx.rangePages (c : Ctx) (vp n : Nat) : List Page := c.pages.filter (fun p => decide (vp ≤ p.va) && decide (p.va < vp + n))

/-- Pages of kind 0 that take a local reservation; the rest take neighbour reservations (R198). -/
def State.localPart (s : State) (c : Ctx) (n : Nat) : Nat := min n (c.limits.localMax - s.localHeld c)

/-- The conflicts of case 4. -/
def State.grantConflict (s : State) (x : Session) (c : Ctx) (g : Grant) : Bool :=
  let vp := g.va / pageSize
  match g.kind with
  | 0 => (g.nbr && !x.has fLender) || c.anyMapped vp g.pages
  | 1 => false
  | 2 => (c.rangePages vp g.pages).length != g.pages
      || (c.rangePages vp g.pages).any (fun p => p.lease.isSome || p.pin || p.share.isSome)
  | _ => (match s.shareNamed g with
    | none => true
    | some y => c.anyMapped vp y.pages.length)

/-- Frames held for copy-on-write (Table 15-1), and what a context counts in the admission of R196 (R478). -/
def Ctx.cowMax (c : Ctx) : Nat := field (ofLe c.ckpt.cfg) 215 192
def Ctx.admitted (c : Ctx) : Nat := c.limits.localMax + c.cowMax

/-- The limits of case 6. -/
def State.grantQuota (s : State) (c : Ctx) (g : Grant) : Bool :=
  match g.kind with
  | 0 =>
    let rest := g.pages - s.localPart c g.pages
    rest != 0 && !(g.nbr && decide (c.nbrHeld + rest ≤ c.limits.nbrMax) && decide (rest ≤ (s.leaseRoom c.id).length))
  | 1 =>
    let others (f : Ctx → Nat) : Nat := ((s.ctxs.filter (fun d => d.id != c.id)).map f).sum
    decide (s.grantable < others (fun d => d.admitted) + g.a + c.cowMax)
      || decide (s.tierService - 512 < others (fun d => d.limits.sramMax) + g.b)
      || decide (g.a < s.localHeld c) || decide (g.b < max c.pinned (min (s.tierHeld c) c.limits.sramMax)) || decide (g.d < c.nbrHeld)
  | 2 => decide (c.limits.localMax < s.localHeld c + g.pages)
  | _ => false

/-- The checks of R198. -/
def State.grantCheck (s : State) (x : Session) (c : Ctx) (length : Nat) (g : Grant) : Option Status :=
  firstOf [
    (decide (length ≠ 32), Status.badLength),
    (g.rsvd, .reservedSet),
    (g.kind != 1 && (decide (g.va % pageSize ≠ 0) || decide (2 ^ 27 < g.va / pageSize + s.grantPages g)), .extent),
    (s.grantConflict x c g, .denied),
    (g.kind == 3 && (match s.shareNamed g with
      | some y => y.gen != g.a / 65536
      | none => false), .staleGeneration),
    (s.grantQuota c g, .quota)]

/-- Grant one page a zeroed HBM frame: each sector is written whole under the context key (R403), which the buffers take and its partition pays
(R181, R188). -/
def State.grantPage (s : State) (id vp : Nat) : State :=
  match s.freeHbm 0 with
  | none => s
  | some f =>
    let s1 := (((s.useAnyway (true, id) 8192).notePage (physAt f 0)).chargeCtx id 8192).modMem (fun m =>
      let m1 := { m.takeHbm f .page with cells := clearCells m.cells (physAt f 0) pageSize }
      match (m1.meta f).stepAll with
      | some g => m1.setMeta g
      | none => m1)
    s1.modCtx id (fun c => { c with pages := c.pages ++ [{ va := vp, hbm := some f }] })

/-- Map one page with a neighbour reservation: it reads as zero. -/
def State.grantLent (s : State) (c : Ctx) (vp : Nat) : State :=
  match (s.leaseRoom c.id).head? with
  | none => s
  | some f =>
    ((s.modCells (fun cs => clearCells cs (physAt f 0) pageSize)).modCtx c.id
      (fun d => { d with pages := d.pages ++ [{ va := vp, lease := some f }] })).logMove c vp none (some f) .lease


/-- A free HBM frame off a tile for a mirror (R212): one that is free, or that of a page of some context that gives it up for a free frame of
that tile (DEDUCED LOG 22: no context sees which frame backs a page). -/
def State.frameOff (s : State) (tile : Nat) : Option (State × Nat) :=
  match s.freeHbmOff tile, s.freeHbm 0 with
  | some g, _ => some (s, g)
  | none, none => none
  | none, some f =>
    let frames := s.ctxs.flatMap (fun c => c.pages.flatMap (fun p => if s.moving c.id p.va then [] else p.hbm.toList))
    (frames.find? (fun h => stackOf h / 2 != tile)).map (fun h =>
      ((({ s with mem := s.mem.takeHbm f .page } : State).swapFrame h f).modMem (fun m => m.dropHbm h), h))

/-- Publish one page (R198, R212): back in HBM at once, since the answer waits for both copies (DEDUCED LOG 22), and its second frame written.
Answers the page of the object; none when no frame of another tile can be had. -/
def State.publishPage (s : State) (c : Ctx) (p : Page) (index k : Nat) : Option (State × SharePage) :=
  let s1 := match p.tier, p.hbm with
    | some _, some h => s.switchPage c.id p.va h .mirror
    | _, _ => s
  match (s1.ctx? c.id).bind (fun d => (d.page? p.va).bind (fun q => q.hbm)) with
  | none => none
  | some f => (s1.frameOff (stackOf f / 2)).map (fun r =>
      let s2 := ((r.1.useAnyway (keyOf c p) 8192).modMem (fun m => m.takeHbm r.2 .mirror)).copyPage (keyOf c p) f r.2
      ((s2.modPage c.id p.va (fun q => { q with hbm := none, tier := none, ro := true, share := some (index, k) })).logMove c p.va none
        (some r.2) .mirror, { first := f, mirror := some r.2 }))

/-- Publish pages in order; none when one of them finds no mirror. -/
def State.publishPages (s : State) (c : Ctx) (index : Nat) : List (Page × Nat) → Option (State × List SharePage)
  | [] => some (s, [])
  | (p, k) :: rest => match s.publishPage c p index k with
    | none => none
    | some r => (r.1.publishPages c index rest).map (fun t => (t.1, r.2 :: t.2))

/-- Publish a range of pages. -/
def State.publish (s : State) (c : Ctx) (vp n : Nat) : State × Option Reply :=
  match pickId 65536 (s.shares.map (fun x => x.index)) s.sharesFreed s.hub.timer (fun _ => false) with
  | none => refuse s .noSlot
  | some (i, g0) =>
    let g := nextGen 16 g0
    let d := (s.cancelMoves (fun m => m.ctx == c.id && decide (vp ≤ m.va) && decide (m.va < vp + n))).draw 8
    let ps := (List.range n).flatMap (fun k => ((c.page? (vp + k)).map (fun p => (p, k))).toList)
    let keyId := match ps.head? with
      | some p => p.1.keyId
      | none => 0
    match d.1.publishPages c i ps with
    | none => refuse s .quota
    | some r =>
      let x : Share := { index := i, gen := g, key := ofLe d.2, ctx := c.id, keyId := keyId, pages := r.2, maps := [(c.id, vp)],
                         own := some vp }
      ({ r.1 with shares := r.1.shares ++ [x], sharesFreed := r.1.sharesFreed.filter (fun f => f.1 != i) },
        some { status := .ok, payload := toLe 2 i ++ toLe 2 g ++ toLe 4 0 ++ d.2 })

/-- Attach an object (R198). -/
def State.attach (s : State) (c : Ctx) (x : Share) (vp : Nat) : State :=
  let new : List Page := (List.range x.pages.length).map (fun k => { va := vp + k, ro := true, share := some (x.index, k) })
  (s.modCtx c.id (fun d => { d with pages := d.pages ++ new })).modShare x.index
    (fun y => { y with maps := y.maps ++ [(c.id, vp)] })

/-- MAP_GRANT (R197, R198), every kind. A `pages` of 0 is a no-op (R17). -/
def doMapGrant (m : Msg) : State → Session → State × Option Reply :=
  withCtx m fun s x c =>
    let g := grantOf (ofLe (slice m.payload 0 32))
    let vp := g.va / pageSize
    match s.grantCheck x c m.length g with
    | some st => refuse s st
    | none =>
      match g.kind with
      | 0 =>
        let n := s.localPart c g.pages
        let s1 := (List.range n).foldl (fun s k => s.grantPage c.id (vp + k)) s
        okay ((List.range (g.pages - n)).foldl (fun s k => s.grantLent c (vp + n + k)) s1)
      | 1 =>
        let s1 := s.modCtx c.id (fun d => { d with limits := { localMax := g.a, sramMax := g.b, nbrMax := g.d } })
        okay (s1.trimSurplus 24576)
      | 2 => if g.pages = 0 then okay s else s.publish c vp g.pages
      | _ => match s.shareNamed g with
        | none => refuse s .denied
        | some y => okay (s.attach c y vp)

/-- MAP_GRANT kind 0. -/
def execMapGrantMap (m : Msg) (s : State) : Host.Outcome State Fault Refusal := .next (s.request .mapGrant m (doMapGrant m))
/-- MAP_GRANT kind 1. -/
def execMapGrantLimits (m : Msg) (s : State) : Host.Outcome State Fault Refusal := .next (s.request .mapGrant m (doMapGrant m))
/-- MAP_GRANT kind 2. -/
def execMapGrantPublish (m : Msg) (s : State) : Host.Outcome State Fault Refusal := .next (s.request .mapGrant m (doMapGrant m))
/-- MAP_GRANT kind 3. -/
def execMapGrantAttach (m : Msg) (s : State) : Host.Outcome State Fault Refusal := .next (s.request .mapGrant m (doMapGrant m))

/-! ### UNMAP -/

/-- Does the range cut an attached object? The publisher's own pages may go one by one; a mapping that it attached may not. A range of no pages
cuts nothing (R17). -/
def State.cutsObject (s : State) (c : Ctx) (vp n : Nat) : Bool :=
  n != 0 && s.shares.any (fun x => (x.attached c.id).any (fun v =>
    decide (v < vp + n) && decide (vp < v + x.pages.length) && !(decide (vp ≤ v) && decide (v + x.pages.length ≤ vp + n))))

/-- UNMAP (R159, R199). -/
def doUnmap (m : Msg) : State → Session → State × Option Reply :=
  withCtx m fun s x c =>
    let w := ofLe (slice m.payload 0 16)
    let va := field w 47 0
    let n := field w 87 64
    let vp := va / pageSize
    match firstOf [
        (decide (m.length ≠ 16), Status.badLength),
        (anySet w 63 48 || anySet w 127 88, .reservedSet),
        (decide (va % pageSize ≠ 0) || decide (2 ^ 27 < vp + n), .extent),
        (!c.mappedPages vp n, .extent),
        (s.cutsObject c vp n, .denied)] with
    | some st => refuse s st
    | none =>
      if n = 0 then okay s
      else if s.pagesHeld c vp n then (s.await x .unmap m (.unmap vp n), some (.of .pending))
      else okay (s.unmapPages c.id vp n)

/-- UNMAP. -/
def execUnmap (m : Msg) (s : State) : Host.Outcome State Fault Refusal := .next (s.request .unmap m (doUnmap m))

/-! ### PAGE_HINT -/

/-- The pinned copy of a shared page leaves tier SRAM; the mirrors stand. -/
def State.dropCopy (s : State) (c : Ctx) (p : Page) (i k : Nat) (why : Reason) : State :=
  match (s.share? i).bind (fun x => x.pages[k]?) with
  | none => s
  | some y => match y.tier with
    | none => s
    | some f => ((s.dropTier f).modShare i (fun x => { x with pages := modAt x.pages k (fun z => { z with tier := none }) })).noteMove c p.va
        (some f) (some y.first) why

/-- An attached page that no context pins any more gives up its pinned copy, and a move that would make one. -/
def State.dropPinnedCopy (s : State) (c : Ctx) (p : Page) : State :=
  match p.share with
  | none => s
  | some (i, k) =>
    let s := s.cancelMoves (fun m => m.ctx == c.id && m.va == p.va && isTier m.dest)
    if s.ctxs.any (fun c => c.pages.any (fun q => q.share == some (i, k) && q.pin)) then s else s.dropCopy c p i k .pin

/-- PAGE_HINT (R206–R208). The answer to a pin follows its last page; while the context is not resident it holds no tier SRAM (R201), and the
answer waits for its return. -/
def doPageHint (m : Msg) : State → Session → State × Option Reply :=
  withCtx m fun s x c =>
    let w := ofLe (slice m.payload 0 16)
    let va := field w 47 0
    let n := field w 87 64
    let vp := va / pageSize
    let pin := flag w 96
    let once := flag w 97
    let cold := flag w 98
    let aff := flag w 99
    let q := field w 105 100
    let range := c.rangePages vp n
    match firstOf [
        (decide (m.length ≠ 16), Status.badLength),
        (anySet w 63 48 || anySet w 95 88 || anySet w 127 106, .reservedSet),
        (decide (va % pageSize ≠ 0) || !c.mappedPages vp n, .extent),
        ((pin && (once || cold)) || (aff && (match c.queue? q with
            | some y => y.window == 0
            | none => true)) || (pin && range.any (fun p => p.lease.isSome)), .denied),
        (pin && decide (c.limits.sramMax < c.pinned + (range.filter (fun p => !p.pin)).length), .quota)] with
    | some st => refuse s st
    | none =>
      let s1 := s.modCtx c.id (fun d => { d with pages := d.pages.map (fun p =>
        if vp ≤ p.va ∧ p.va < vp + n then
          (if p.share.isSome then { p with pin := pin, affinity := if aff then some q else none }
           else { p with pin := pin, streamOnce := once, cold := cold, affinity := if aff then some q else none })
        else p) })
      let s2 := if pin then s1.retryPins else range.foldl (fun s p => s.dropPinnedCopy c p) s1
      match s2.ctx? c.id with
      | none => okay s2
      | some d => if !pin || n = 0 || s2.allInTier d vp n then okay s2 else (s2.await x .pageHint m (.pin vp n), none)

/-- PAGE_HINT. -/
def execPageHint (m : Msg) (s : State) : Host.Outcome State Fault Refusal := .next (s.request .pageHint m (doPageHint m))

/-! ### The end of a move -/

/-- Answer the pins whose pages all lie in tier SRAM. -/
def State.settlePins (s : State) : State :=
  s.waits.foldl (fun s w => match w.what with
    | .pin vp n => (match s.ctx? w.ctx with
      | some c => if s.allInTier c vp n then s.finish w (.of .ok) else s
      | none => s)
    | _ => s) s

/-- Re-encrypt a page in place under a KeyID (R414), with the mirror of one that the context published. A page in tier SRAM takes the KeyID at
once. -/
def State.bindPage (s : State) (id vp k : Nat) : State :=
  match s.ctx? id with
  | none => s
  | some c => match c.page? vp with
    | none => s
    | some p =>
      let frames := match p.share, p.tier with
        | some (i, j), _ => (match (s.share? i).bind (fun x => x.pages[j]?) with
          | some y => y.first :: y.mirror.toList
          | none => [])
        | none, none => p.hbm.toList
        | none, some _ => []
      let s1 := frames.foldl (fun s h =>
        (((s.useAnyway (false, k) 8192).notePage (physAt h 0)).chargeCtx id 16384).modMem (fun m => m.rewrite (false, k) h (m.poisonOf h))) s
      -- a frame that cannot be written whole again gives its page up, and is retired (R402)
      (frames.filter (fun h => s.mem.worn h)).foldl (fun s h => s.retireFrame h) (s1.modPage id vp (fun q => { q with keyId := k }))

/-- Put the pinned copy of a shared page in tier SRAM (R208), in place of the one it has, if any. -/
def State.pinShared (s : State) (c : Ctx) (vp i k dest : Nat) (why : Reason) : State :=
  match (s.share? i).bind (fun x => x.pages[k]?) with
  | none => s
  | some y =>
    let src := y.tier.getD y.first
    let s1 := (s.copyPage (s.keyOfFrame y.first) src dest).modShare i
      (fun z => { z with pages := modAt z.pages k (fun q => { q with tier := some dest }) })
    (match y.tier with
      | some f => s1.dropTier f
      | none => s1).noteMove c vp (some src) (some dest) why

/-- The moves that wait take flight, pins find the frames that are free now, and their answers go (R204, R208). -/
def State.settleMoves (s : State) : State := (s.pumpMoves.retryPins.settlePinning).settlePins

/-- Carry out a move (R205). -/
def State.endMove (s : State) (mv : Move) : State :=
  let s1 := { s with moves := dropFirst mv s.moves }
  match s1.ctx? mv.ctx with
  | none => s1
  | some c => match c.page? mv.va with
    | none => s1
    | some p =>
      if mv.keyId != 0 then (s1.bindPage mv.ctx mv.va mv.keyId).settleKeys mv.ctx
      else match p.share with
        | some (i, k) => s1.pinShared c mv.va i k mv.dest mv.reason
        | none => s1.switchPage mv.ctx mv.va mv.dest mv.reason

/-- PAGE_MOVE_SWITCH (R160, R204, R205): the move of a page that is in flight ends; one to or from a lease once the lender has answered, and one
of a snapshot page once it has been copied (R485). The moves that wait follow. -/
def doPageMoveSwitch (id vp : Nat) (s : State) : State :=
  if !s.alive || s.life.trial.isSome then s
  else
    let s0 := s.pumpMoves
    let busy := s0.ledger.entries.any (fun e => e.quarantine.isNone && (match e.holder with
      | .transfer c _ v => c == id && v == vp
      | _ => false)) || s0.snapshotPage id vp
    match s0.moves.find? (fun m => m.ctx == id && m.va == vp && m.going) with
    | none => s0
    | some mv => if busy then s0 else (s0.endMove mv).settleMoves

/-- PAGE_MOVE_SWITCH. -/
def execPageMoveSwitch (ctx va : Nat) (s : State) : Host.Outcome State Fault Refusal := .next (doPageMoveSwitch ctx va s)

/-! ### Reviews -/

/-- Does a page take part in a review? (R203) -/
def Page.reviewable (p : Page) : Bool := !p.pin && p.share.isNone && !p.streamOnce && !p.cold && p.lease.isNone

/-- The first page of a list that the budget of its tile lets go, and the others. -/
def State.takeOut (s : State) : List Page → Option (Page × List Page)
  | [] => none
  | p :: rest =>
    if s.budgetLeft (moveTile p.tier 0) = 0 then (s.takeOut rest).map (fun r => (r.1, p :: r.2)) else some (p, rest)

/-- Start a demotion of a review: one move of the budget. -/
def State.reviewOut (s : State) (c : Ctx) (p : Page) (why : Reason) : State := (s.spend (moveTile p.tier 0)).moveToHbm c p why true

/-- Start a promotion of a review: one move of the budget. -/
def State.reviewIn (s : State) (c : Ctx) (p : Page) (core : Nat) (why : Reason) : State := (s.spend (tileOf core)).moveToTier c p core why true

/-- Start the promotions of a review, hottest first; `out` holds the pages to give up, coldest first. A page whose tile has no budget left to give
it up is passed over (R204; DEDUCED LOG 22). -/
def State.promoteWanted (s : State) (id allow : Nat) : List Page → List Page → State
  | [], _ => s
  | p :: rest, out =>
    match s.ctx? id with
    | none => s
    | some c =>
      match s.sliceFor c p with
      | none => s.promoteWanted id allow rest out
      | some (n, why) =>
        if s.budgetLeft (tileOf n) = 0 || s.moving id p.va || p.tier.isSome then s.promoteWanted id allow rest out
        else if s.tierPlanned c < allow then (s.reviewIn c p n why).promoteWanted id allow rest out
        else if out.isEmpty then s
        else match s.takeOut out with
          | none => s.promoteWanted id allow rest out
          | some (o, more) => ((s.reviewOut c o .heat).reviewIn c p n why).promoteWanted id allow rest more

/-- The pages of a context that lie in another slice than that of their queue's home core follow it, within the budget (R208). -/
def State.followHomes (s : State) (id : Nat) : State :=
  match s.ctx? id with
  | none => s
  | some c => (c.pages.filter (fun p => p.affinity.isSome && s.inTier p && (p.share.isNone || p.pin))).foldl (fun s p =>
      match s.homeSlice c p, s.liveFrame p with
      | some n, some f => if tierCore f = n || s.moving id p.va || s.budgetLeft (tileOf n) = 0 then s else s.reviewIn c p n .homeMoved
      | _, _ => s) s

/-- Watch the load of a queue's home core, and move a home that load or heat drives away (R209). -/
def State.reviewHome (s : State) (id : Nat) (x : Queue) : State :=
  match x.home with
  | none => s
  | some n =>
    let load (k : Nat) : Nat := match s.core? k with
      | some c => c.load
      | none => 0
    let tile := (List.range 16).map (fun i => load (tileOf n * 16 + i))
    let high := decide (2 * tile.sum < 16 * load n)
    (s.modQueue id x.number (fun y => { y with overload := if high then y.overload + 1 else 0 })).settleHome id x.number

/-- The review of a context's pages (R203) and of its homes (R209). -/
def State.reviewPages (s : State) (id : Nat) : State :=
  match s.ctx? id with
  | none => s
  | some c =>
    let allow := s.allowance c
    let elig := c.pages.filter Page.reviewable
    let ranked := sortBy (fun p => (2 ^ 20 - min p.heatSum (2 ^ 20)) * 2 ^ 27 + p.va) elig
    let want := (ranked.take (allow - c.pinned)).filter (fun p => decide (16 ≤ p.heatSum))
    let out := (elig.filter (fun p => p.tier.isSome && !s.moving id p.va && !want.any (fun w => w.va == p.va))).foldr (fun p l =>
      insertBy (fun (q : Page) => q.heatSum) p l) []
    let s1 := s.promoteWanted id allow want out
    let s2 := (c.pages.filter (fun p => (p.cold || p.streamOnce) && p.tier.isSome && p.share.isNone)).foldl
      (fun s p => if s.moving id p.va || s.budgetLeft (moveTile p.tier 0) = 0 then s else s.reviewOut c p .cold) s1
    let s3 := s2.followHomes id
    let cool (p : Page) : Page := { p with heat := p.heat.map (fun h => h / 2) }
    let s4 := s3.modCtx id (fun d => { d with reviewed := some s.period, pages := d.pages.map cool })
    c.queues.foldl (fun s x => s.reviewHome id x) s4

/-! ### REGULATE -/


/-- The sixteen control words of a payload. -/
def partitionsOf (bs : Bytes) : List Partition :=
  (List.range 16).map (fun i =>
    let w := ofLe (slice bs (4 * i) 4)
    { share := field w 8 0, ceiling := field w 24 16 })

/-- REGULATE (R189, R191). -/
def doRegulate (m : Msg) (s : State) (x : Session) : State × Option Reply :=
  let ps := partitionsOf m.payload
  let ans (s : State) (st : Status) : State × Option Reply := (s, some { status := st, payload := s.partitionBytes })
  match firstOf [
      (x.role != .management, Status.denied),
      (m.length != 0 && m.length != 64, .badLength),
      (m.length == 64 && (List.range 16).any (fun i =>
        let w := ofLe (slice m.payload (4 * i) 4)
        anySet w 15 9 || anySet w 31 25), .reservedSet),
      (m.length == 64 && (ps.any (fun p => decide (252 < p.share) || decide (256 < p.ceiling) || decide (p.ceiling < p.share))
        || decide (252 < (ps.map (fun p => p.share)).sum)
        || (match ps.head? with
            | some p => p.ceiling == 0
            | none => true)
        || s.ctxs.any (fun c => (match ps[c.assigned.part]? with
            | some p => p.ceiling == 0
            | none => true))), .denied)] with
  | some st => ans s st
  | none => if m.length = 0 then ans s .ok else ans (s.modMem (fun k => { k with partitions := ps })) .ok

/-- REGULATE. -/
def execRegulate (m : Msg) (s : State) : Host.Outcome State Fault Refusal := .next (s.request .regulate m (doRegulate m))

/-! ### PLACE_LOG -/

/-- PLACE_LOG (R219, R220), both forms: up to `max` records leave their log, oldest first. -/
def doPlaceLog (m : Msg) (s : State) (x : Session) : State × Option Reply :=
  let w := ofLe (slice m.payload 0 8)
  let form := field w 1 0
  let max := field w 31 16
  let named := s.ctxs.find? (fun c => c.id == m.ctx && c.gen == m.ctxGen && m.ctxGen != 0)
  match firstOf [
      (decide (m.length ≠ 8), Status.badLength),
      (anySet w 15 2 || anySet w 63 32 || decide (2 ≤ form), .reservedSet),
      ((form == 1 && (s.conf || x.role != .management)) || (form == 0 && (named.isNone || (x.role == .management && s.conf))), .denied),
      ((form == 0 && decide (16 < max)) || (form == 1 && decide (2047 < max)), .extent)] with
  | some st => refuse s st
  | none =>
    if max = 0 then okay s
    else if form = 1 then
      ({ s with logs := { s.logs with moves := s.logs.moves.drop max, movesLost := 0 } },
        some { status := .ok, arg0 := s.logs.movesLost, payload := (s.logs.moves.take max).flatMap (fun b => b) })
    else match named with
      | none => refuse s .denied
      | some c =>
        (s.modCtx c.id (fun d => { d with period := { d.period with records := d.period.records.drop max, lost := 0 } }),
          some { status := .ok, arg0 := c.period.lost, payload := (c.period.records.take max).flatMap (fun b => b) })

/-- PLACE_LOG form 0. -/
def execPlaceLogAggregate (m : Msg) (s : State) : Host.Outcome State Fault Refusal := .next (s.request .placeLog m (doPlaceLog m))
/-- PLACE_LOG form 1. -/
def execPlaceLogMoves (m : Msg) (s : State) : Host.Outcome State Fault Refusal := .next (s.request .placeLog m (doPlaceLog m))

/-- An aggregate record (Table 07-7). -/
def State.aggregate (s : State) (c : Ctx) : Bytes :=
  let p := c.period
  let count (f : Page → Bool) : Bytes := toLe 4 ((c.pages.filter f).length)
  toLe 8 s.hub.timer ++ toLe 4 s.otp.bootEpoch ++ toLe 4 (p.closed + 1) ++ count s.inTier
    ++ count (fun q => !s.inTier q && q.lease.isNone) ++ count (fun q => q.lease.isSome) ++ count (fun q => q.pin)
    ++ toLe 4 p.promoted ++ toLe 4 p.demoted ++ toLe 4 p.lent ++ toLe 4 (min p.heldWrites (2 ^ 32 - 1)) ++ toLe 16 0

/-- AGGREGATE_RECORD_CLOSE (R220): every 2^28 counts; the last 16 records are kept. -/
def doAggregateClose (id : Nat) (s : State) : State :=
  match s.ctx? id with
  | none => s
  | some c =>
    if !s.alive || decide (s.hub.timer < c.period.since + 2 ^ 28) then s
    else
      let rs := c.period.records ++ [s.aggregate c]
      s.modCtx id (fun d => { d with period :=
        { since := s.hub.timer, closed := d.period.closed + 1, records := if rs.length ≤ 16 then rs else rs.drop 1,
          lost := if rs.length ≤ 16 then d.period.lost else d.period.lost + 1 } })

/-- AGGREGATE_RECORD_CLOSE. -/
def execAggregateRecordClose (ctx : Nat) (s : State) : Host.Outcome State Fault Refusal := .next (doAggregateClose ctx s)

end Sys2Proof.Machine
end

