-- ==== Sys2Proof/Machine/Leases.lean ====
section
/-!
DEFINITION. Machine/Leases.lean: lending to a neighbour (R214–R217, R416), transfers and their Ledger entries (R162, R163), and the
reviews of placement (R203, R215).
-/
namespace Sys2Proof.Machine

/-! ### Leases of this device as a borrower -/

/-- Change a lease. -/
def State.modLease (s : State) (slot : Nat) (f : Lease → Lease) : State :=
  s.modLinks (fun l => { l with leases := l.leases.map (fun x => if x.slot = slot then f x else x) })

/-- The lease in a slot. -/
def State.lease? (s : State) (slot : Nat) : Option Lease := s.links.leases.find? (fun l => l.slot == slot)

/-- Is a frame one of the lease in a slot? -/
def onLease (slot : Nat) (pfn : Nat) : Bool := decide (leaseFrame slot 0 ≤ pfn) && decide (pfn < leaseFrame slot 512)

/-- A lease is broken (R216, R250): its pages are poisoned, the context receives a FAULT, records that were shipped to it are lost, and
transfers to it end. -/
def State.breakLease (s : State) (slot : Nat) : State :=
  match s.lease? slot with
  | none => s
  | some l =>
    if l.broken then s
    else
      let s1 := s.modLease slot (fun x => { x with broken := true, probe := none })
      let lose (p : Page) : Page := match p.lease with
        | some f => if onLease slot f then { p with lost := true } else p
        | none => p
      let s2 := s1.modCtx l.ctx (fun c => { c with pages := c.pages.map lose })
      let s3 := { s2 with ledger := { s2.ledger with entries := s2.ledger.entries.filter (fun e => e.quarantine.isSome || (match e.holder with
        | .transfer _ k _ => k != slot
        | .probe k => k != slot
        | _ => true)) } }
      let s4 := s3.cancelMoves (fun m => m.ctx == l.ctx && (s3.moveLease m).any (fun k => k.slot == slot))
      match s4.ctx? l.ctx with
      | none => s4
      | some c =>
        -- the working copies of records shipped and not returned (R250)
        let gone := (c.shipped.filter (fun r => r.slot == slot && !r.lost)).map (fun r => paramOf r.image)
        let s5 := (gone.foldl (fun s p => s.poisonRange c.id p.workRegion.1 p.workRegion.2) s4).modCtx l.ctx (fun d =>
          { d with shipped := d.shipped.map (fun r => if r.slot = slot then { r with lost := true } else r) })
        let fail (r : OptRun) : OptRun :=
          if r.away.any (fun a => a.2 == slot) then { r with away := r.away.filter (fun a => a.2 != slot), failed := true } else r
        let failReq (o : OptReq) : OptReq := { o with run := o.run.map fail }
        let s6 := s5.modCtx l.ctx (fun c => { c with opt := c.opt.map failReq })
        s6.file { cls := .uncorrected, stage := 10, status := .uncorrectable, ctx := c.id, ctxGen := c.gen, detail := 0, detailCtx := 0 }

/-- End a lease: LEND_RELEASE goes to the lender, and its key is destroyed (Table 07-5, R416). -/
def State.endLease (s : State) (l : Lease) : State :=
  let s1 := if l.broken then s else s.sendLeaseCtrl l.lender .lendRelease l.id l.gen []
  let s2 := s1.modCells (fun cs => clearCells cs (physAt (leaseFrame l.slot 0) 0) (512 * pageSize))
  s2.modLinks (fun k => { k with leases := k.leases.filter (fun x => x.slot != l.slot) })

/-- A teardown releases the leases of its context, and no record is shipped any more (R251, Table 07-5). -/
def State.releaseLeases (s : State) (id : Nat) : State :=
  let mine := s.links.leases.filter (fun l => l.ctx == id)
  let s1 := { s with ledger := { s.ledger with entries := s.ledger.entries.filter (fun e => e.quarantine.isSome || (match e.holder with
    | .transfer c _ _ => c != id
    | .probe k => !mine.any (fun l => l.slot == k)
    | _ => true)) } }
  let s2 := mine.foldl (fun s l => s.endLease l) s1
  (s2.modLinks (fun k => { k with asks := k.asks.filter (fun a => a.ctx != id) })).modCtx id (fun c =>
    let gone (p : Page) : Page := if p.lease.isSome then { p with lease := none, lost := true } else p
    { c with shipped := [], guarded := [], pages := c.pages.map gone })

/-! ### Transfers and the Ledger -/

/-- A response offered to its Ledger entry (R163): delivered, dropped as late, or discarded as stale. `status` is the lender's; a lender
that holds no such lease any more answers STALE_GENERATION, which reports its cold reset (R216; DEDUCED LOG 34). -/
def State.respond (s : State) (tag gen status off : Nat) (data : Bytes) : State :=
  match s.ledger.entry? tag with
  | none => { s with ledger := { s.ledger with stale := s.ledger.stale + 1 } }
  | some e =>
    if e.gen ≠ gen then { s with ledger := { s.ledger with stale := s.ledger.stale + 1 } }
    else if e.quarantine.isSome then (match e.ctx with
      | some id => s.modCtx id (fun c => { c with lateDrops := c.lateDrops + 1 })
      | none => s)
    else match e.holder with
      | .probe slot =>
        let s1 := (s.freeTag tag).modLease slot (fun l => { l with probe := none })
        if status = Status.staleGeneration.code then s1.breakLease slot else s1
      | .transfer id slot va =>
        let s1 := s.freeTag tag
        if status = Status.staleGeneration.code then s1.breakLease slot
        else if status ≠ 0 then s1.cancelMoves (fun m => m.ctx == id && m.va == va)
        else (match (s1.ctx? id).bind (fun c => (c.page? va).bind (fun p => p.lease)) with
          | some f => s1.modCells (fun cs => writeCells cs (physAt f off) data)
          | none => s1)
      | .command _ _ _ _ | .fenceIn _ _ _ _ | .fenceWait _ _ | .instance_ _ _ _ | .event _ _ => s

/-- TRANSFER_RESPONSE (R163). The entry that it frees may serve a probe that waits for one (R161). -/
def execTransferResponse (tag gen : Nat) (data : Bytes) (s : State) : Host.Outcome State Fault Refusal :=
  .next (if s.alive then (s.respond tag gen 0 0 data).dueProbes else s)

/-- XRESP (R163, R216): tag and generation stand in `inst`, the lender's status in `arg` (Table 09-5). -/
def execXresp (d : Delivered) (s : State) : Host.Outcome State Fault Refusal :=
  .next (if s.alive then
      ((s.takeIn d).respond (field d.inner.inst 13 0) (field d.inner.inst 21 14) d.inner.arg (d.inner.off * 256) d.inner.data).dueProbes
    else s)

/-- TRANSFER_TIMEOUT (R162, R163, R216): the expiry is granted, the entry enters quarantine, the move that waited is given up, and the
lender is probed. -/
def doTransferTimeout (tag : Nat) (s : State) : State :=
  match s.ledger.entry? tag with
  | none => s
  | some e =>
    if !s.alive || e.quarantine.isSome || !(match e.deadline with
        | some d => decide (d ≤ s.hub.timer)
        | none => false) then s
    else match e.holder with
      | .transfer id slot va =>
        ((({ s with ledger := s.ledger.expire tag s.hub.timer } : State).cancelMoves (fun m => m.ctx == id && m.va == va))).probeLease slot
      | .probe _ | .command _ _ _ _ | .fenceIn _ _ _ _ | .fenceWait _ _ | .instance_ _ _ _ | .event _ _ => s

/-- TRANSFER_TIMEOUT. -/
def execTransferTimeout (tag : Nat) (s : State) : Host.Outcome State Fault Refusal := .next (doTransferTimeout tag s)

/-- LEDGER_QUARANTINE_END (R163): 2^24 counts after a TIMEOUT. -/
def execLedgerQuarantineEnd (tag : Nat) (s : State) : Host.Outcome State Fault Refusal :=
  .next (match s.ledger.entry? tag with
    | some e => (match e.quarantine with
      | some t => if s.alive && decide (t + 2 ^ 24 ≤ s.hub.timer) then (s.freeTag tag).dueProbes else s
      | none => s)
    | none => s)

/-- LEASE_PROBE_TIMEOUT (R216): no answer within 2^20 counts of the probe. -/
def execLeaseProbeTimeout (lease : Nat) (s : State) : Host.Outcome State Fault Refusal :=
  .next (match s.lease? lease with
    | some l => (match l.probe with
      | some t => if s.alive && decide (t + 2 ^ 20 ≤ s.hub.timer) then
          (match s.ledger.entries.find? (fun e => e.holder == .probe lease && e.quarantine.isNone) with
           | some e => ({ s with ledger := s.ledger.expire e.tag s.hub.timer } : State).breakLease lease
           | none => s.breakLease lease)
        else s
      | none => s)
    | none => s)

/-! ### This device as a lender -/

/-- The page and context that stand for a frame of the guest context, for the checks of HBM (R217). -/
def Lent.guestCtx (x : Lent) : Ctx := { id := x.guest, gen := 1, owner := 65536 }

/-- HBM frames that hold pages of resident contexts. -/
def State.residentFrames (s : State) : Nat :=
  ((s.ctxs.filter (fun c => c.res.state == .resident)).map (fun c => s.localHeld c)).sum

/-- Frames that the device could lend: reserved by no context, and an eighth of HBM kept back (R214). -/
def State.lendable (s : State) : Nat :=
  let lent := s.mem.countUse (fun u => match u with
    | .lent _ => true
    | .page | .mirror | .reserve | .withdrawn | .retired | .snapshot _ => false)
  min (s.grantable - (s.ctxs.map (fun c => c.admitted)).sum) (380928 - 380928 / 8 - lent)

/-- Does a session of the device hold F_LENDER? (R214; DEDUCED LOG 34) -/
def State.lenderFeature (s : State) : Bool := s.sessions.any (fun x => x.isOpen && x.has fLender)

/-- Do the conditions stand under which the device offers frames? (R214) -/
def State.mayLend (s : State) : Bool :=
  s.lenderFeature && decide (2 * s.residentFrames < 380928) && decide (s.links.busy < 25) && decide (512 ≤ s.lendable)

/-- LEND_BEACON_SEND (R214, Table 07-5): every 64 review periods; `busy` is the share of the last 16 review periods, in percent, for which the
cores were busy (LOG 19). -/
def doLendBeaconSend (busy : Nat) (s0 : State) : State :=
  let s := s0.modLinks (fun l => { l with busy := busy, beaconAt := some s0.hub.timer })
  let ok := s.mayLend
  let s1 := s.modLinks (fun l => { l with lends := ok })
  if !s.alive || (match s0.links.beaconAt with
      | some t => decide (s.hub.timer < t + 64 * 2 ^ 18)
      | none => false) then s0
  else if !ok then s1
  else (s.directPorts.map (fun d => d.1)).eraseDups.foldl (fun s d => s.sendCtrl d .lendBeacon 0 (toLe 4 (s.lendable / 512 * 512))) s1

/-- LEND_BEACON_SEND. -/
def execLendBeaconSend (busy : Nat) (s : State) : Host.Outcome State Fault Refusal := .next (doLendBeaconSend busy s)

/-- Take `n` free HBM frames for a lease. -/
def State.takeLent (s : State) (lease : Nat) : Nat → State × List Nat
  | 0 => (s, [])
  | n + 1 =>
    let r := s.takeLent lease n
    match r.1.freeHbm 0 with
    | none => r
    | some f =>
      (r.1.modMem (fun m => { m.takeHbm f (.lent lease) with cells := clearCells m.cells (physAt f 0) pageSize }), r.2 ++ [f])

/-- The transcript hash of a lease: both messages, the id and the generation (R416). -/
def leaseHash (first second : Bytes) (id gen : Nat) : Bytes := shake256 (first ++ second ++ toLe 2 id ++ toLe 1 gen) 64

/-- The 64 bytes of a lease key (Table 12-9). -/
def leaseKey (shared hash : Bytes) : Bytes := kmac256 shared hash "LEASE" 64

/-- The answering message of a lease's exchange, before its signature (R415, R416). -/
def State.leaseAnswer (s : State) (rand first : Bytes) : Bytes :=
  exchangeAnswer rand first ++ s.attestPub ++ toLe 4 s.otp.bootEpoch ++ toLe 1 s.modeCode

/-- Does the opening message of a lease's exchange come from a device of the same mode and job? (R214) -/
def State.leasePeer (s : State) (first : Bytes) : Bool :=
  slice first 1685 1 == toLe 1 s.modeCode && slice first 1686 2 == toLe 2 s.links.job

/-- A new key for a lease that stands (R416, R417): it comes into force with the borrower's signature. -/
def State.renewLent (s : State) (x : Lent) (first : Bytes) : State :=
  let r := s.draw 88
  let second := r.1.leaseAnswer r.2 first
  let hash := leaseHash first second x.id x.gen
  let sig := r.1.attestSign hash
  (sig.1.modLinks (fun l => { l with lent := l.lent.map (fun y =>
    if y.id = x.id then { y with next := some (leaseKey (sharedOfAnswer r.2 first) hash, hash, slice first 1624 57) } else y) })).sendCtrl x.borrower
      .lendOffer (x.id + x.gen * 65536) (second ++ sig.2)

/-- The borrower's signature ends the exchange: of the lease, or of its new key. -/
def Lent.sign (x : Lent) (ok : Bytes → Bytes → Bool) : Lent := match x.next with
  | some (k, h, p) => if ok p h then { x with key := k, hash := h, peerKey := p, uses := 0, next := none } else x
  | none => if ok x.peerKey x.hash then { x with keyed := true } else x

/-- LEND_ASK (Table 07-5, R415, R416): the first message creates the guest context and reserves 512 frames; the borrower's signature, which
ends the exchange, comes in a second LEND_ASK that names the lease, and so does the first message of a new key for it (LOG 34). -/
def doLendAsk (src : Nat) (m : Msg) (s : State) : State :=
  s.ctrlMsg src .lendAsk m fun s0 =>
    if m.payload.length = kxFirstLen && m.arg0 != 0 then
      (match s0.links.lent.find? (fun x => x.id + x.gen * 65536 == m.arg0 && x.borrower == src && x.keyed) with
       | some x => if s0.leasePeer m.payload then s0.renewLent x m.payload else s0
       | none => { s0 with ledger := { s0.ledger with stale := s0.ledger.stale + 1 } })
    else if m.payload.length = kxFirstLen then
      if !s0.links.lends || !s0.mayLend || !s0.leasePeer m.payload then s0.sendCtrl src .lendOffer 0 []
      else
        let id := s0.links.leaseIds % 65536
        let gen := (s0.links.leaseIds / 65536 + 1) % 256
        let used := s0.ctxs.map (fun c => c.id) ++ s0.vault.bank.map (fun b => b.ctx)
        match (List.range 4096).find? (fun i => !used.contains i) with
        | none => s0.sendCtrl src .lendOffer 0 []
        | some guest =>
          let r := s0.draw 120
          let second := s0.leaseAnswer (r.2.take 88) m.payload
          let hash := leaseHash m.payload second id gen
          let sig := r.1.attestSign hash
          let fs := sig.1.takeLent id 512
          let x : Lent := { id := id, gen := gen, borrower := src, guest := guest, frames := fs.2,
                            key := leaseKey (sharedOfAnswer (r.2.take 88) m.payload) hash, hash := hash, peerKey := slice m.payload 1624 57 }
          let e : BankEntry := { ctx := guest, gen := 1, limit := 2 ^ 56 - 1, material := r.2.drop 88 }
          (({ fs.1 with vault := { fs.1.vault with bank := e :: fs.1.vault.bank } } : State).modLinks (fun l =>
            { l with lent := l.lent ++ [x], leaseIds := l.leaseIds + 1 })).sendCtrl src .lendOffer (id + gen * 65536) (second ++ sig.2)
    else if m.payload.length = 114 then
      s0.modLinks (fun l => { l with lent := l.lent.map (fun x =>
        if x.id + x.gen * 65536 = m.arg0 ∧ x.borrower = src then x.sign (fun p h => s0.verifies p h m.payload) else x) })
    else s0

/-- LEND_ASK. -/
def execLendAsk (src : Nat) (m : Msg) (s : State) : Host.Outcome State Fault Refusal := .next (doLendAsk src m s)

/-- LEND_RELEASE (Table 07-5, R251): the guest's key is destroyed, staging is discarded, and the frames return to the pool. -/
def doLendRelease (src : Nat) (m : Msg) (s : State) : State :=
  s.ctrlMsg src .lendRelease m fun s0 =>
    match s0.links.lent.find? (fun x => x.id + x.gen * 65536 == m.arg0 && x.borrower == src) with
    | none => { s0 with ledger := { s0.ledger with stale := s0.ledger.stale + 1 } }
    | some x =>
      let s1 := (x.staging.flatMap (fun y => y.frames)).foldl (fun s f => s.dropTier f) (x.frames.foldl (fun s f => s.freeFrame f) s0)
      ({ s1 with vault := { s1.vault with bank := s1.vault.bank.filter (fun b => b.ctx != x.guest) } } : State).modLinks (fun l =>
        { l with lent := l.lent.filter (fun y => y.id != x.id) })

/-- LEND_RELEASE. -/
def execLendRelease (src : Nat) (m : Msg) (s : State) : Host.Outcome State Fault Refusal := .next (doLendRelease src m s)

/-- The answer to a neighbour-tier operation. -/
def State.sendXresp (s : State) (d : Delivered) (st : Status) (data : Bytes) : State :=
  s.sendR none d.src { iop := 0x13, group := d.inner.group, gen := d.inner.gen, inst := d.inner.inst, arg := st.code, data := data }

/-- The lease and frame of an operation: `rank` numbers the page of the lease (LOG 34), `arg` is the offset in the page. -/
def State.lentFrame (s : State) (d : Delivered) : Option (Lent × Nat) :=
  match s.links.lent.find? (fun x => x.id == d.inner.group && x.gen == d.inner.gen && x.borrower == d.src && x.keyed) with
  | none => none
  | some x => (x.frames[d.inner.rank]?).map (fun f => (x, f))

/-- XREAD at a lender (R216, R267): 256 B to 4 KiB from a page of the lease; `off` gives the bytes in units of 256 (LOG 34). -/
def doXread (d : Delivered) (s : State) : State :=
  if !s.alive then s
  else
    let s0 := s.takeIn d
    match s0.lentFrame d with
    | none => s0.sendXresp d .staleGeneration []
    | some (_, f) =>
      let n := min 16 (max 1 d.inner.off) * 256
      if pageSize < d.inner.arg + n then s0.sendXresp d .extent []
      else if !(s0.mem.poisonIn (.hbm f) d.inner.arg n).isEmpty then (s0.noteRequest (stackOf f)).sendXresp d .poisoned []
      else (s0.noteRequest (stackOf f)).sendXresp d .ok (readCells s0.mem.cells (physAt f d.inner.arg) n)

/-- XREAD. -/
def execXread (d : Delivered) (s : State) : Host.Outcome State Fault Refusal := .next (doXread d s)

/-- XWRITE at a lender (R216, R217, R393): the blocks are written under the guest context's key. -/
def doXwrite (d : Delivered) (s : State) : State :=
  if !s.alive then s
  else
    let s0 := s.takeIn d
    match s0.lentFrame d with
    | none => s0.sendXresp d .staleGeneration []
    | some (x, f) =>
      let n := d.inner.data.length
      if pageSize < d.inner.arg + n || n == 0 then s0.sendXresp d .extent []
      else
        let c := x.guestCtx
        let p : Page := { va := 0, hbm := some f }
        let r := (cutAt 256 (n / 256 + 2) d.inner.arg d.inner.data).foldl (fun (acc : State × Option Status) y =>
          match acc.2 with
          | some e => (acc.1, some e)
          | none => acc.1.writeBlock c p [] f y.1 y.2) (s0.noteRequest (stackOf f), none)
        r.1.sendXresp d (r.2.getD .ok) []

/-- XWRITE. -/
def execXwrite (d : Delivered) (s : State) : Host.Outcome State Fault Refusal := .next (doXwrite d s)

/-! ### This device as a borrower: beacons, offers, reviews -/

/-- LEND_BEACON (R214): the offer of a neighbour is kept. -/
def execLendBeacon (src : Nat) (m : Msg) (s : State) : Host.Outcome State Fault Refusal :=
  .next (s.ctrlMsg src .lendBeacon m fun s => s.modLinks (fun l =>
      { l with offers := (src, ofLe (slice m.payload 0 4), s.hub.timer) :: l.offers.filter (fun o => o.1 != src) }))

/-- The ask that an offer answers: for a new key of the lease that it names, else for a lease. -/
def Links.asked (l : Links) (src arg0 : Nat) : Option Ask :=
  match l.asks.find? (fun a => a.lender == src && (match a.renew with
      | some k => l.leases.any (fun x => x.slot == k && x.id + x.gen * 65536 == arg0 && !x.broken)
      | none => false)) with
  | some a => some a
  | none => l.asks.find? (fun a => a.lender == src && a.renew.isNone)

/-- LEND_OFFER (Table 07-5, R416): the exchange ends, and the lease stands, or has its new key. An empty offer withdraws the ask. -/
def doLendOffer (src : Nat) (m : Msg) (s : State) : State :=
  s.ctrlMsg src .lendOffer m fun s0 =>
    match s0.links.asked src m.arg0 with
    | none => s0
    | some a =>
      let s1 := s0.modLinks (fun l => { l with asks := l.asks.filter (fun b => b != a) })
      let second := m.payload.take kxSecondLen
      let hash := leaseHash a.first second (m.arg0 % 65536) (m.arg0 / 65536 % 256)
      match (match a.renew with
        | some k => some k
        | none => (List.range 16).find? (fun i => !s1.links.leases.any (fun l => l.slot == i))) with
      | none => s1
      | some slot =>
        if m.payload.length ≠ kxSecondLen + 114 || !s1.verifies (slice second 1624 57) hash (m.payload.drop kxSecondLen) then s1
        else
          let sig := s1.attestSign hash
          let key := leaseKey (sharedOfOpen a.seed second) hash
          let l : Lease := { slot := slot, id := m.arg0 % 65536, gen := m.arg0 / 65536 % 256, lender := src, ctx := a.ctx, key := key }
          (if a.renew.isSome then sig.1.modLease slot (fun x => { x with key := key, uses := 0 })
           else sig.1.modLinks (fun k => { k with leases := k.leases ++ [l] })).sendCtrl src .lendAsk m.arg0 sig.2

/-- LEND_OFFER. -/
def execLendOffer (src : Nat) (m : Msg) (s : State) : Host.Outcome State Fault Refusal := .next (doLendOffer src m s)

/-- Ask the best offer for a lease: the shortest round trip, read as the fewest hops, then the lowest ordinal (Table 07-5; DEDUCED LOG
34). -/
def State.askLease (s : State) (id : Nat) : State :=
  let direct := s.directPorts.map (fun d => d.1)
  match leastBy (fun (o : Nat × Nat × Nat) => (if direct.contains o.1 then 0 else 65536) + o.1) (s.links.offers.filter (fun o => decide (512 ≤ o.2.1))) with
  | none => s
  | some o =>
    let open_ := s.links.asks.filter (fun a => a.renew.isNone)
    if 16 ≤ s.links.leases.length + open_.length || open_.any (fun a => a.ctx == id || a.lender == o.1) then s
    else
      let r := s.draw 120
      let first := exchangeOpen r.2 ++ s.kxIdentity
      (r.1.modLinks (fun l => { l with asks := l.asks ++ [{ lender := o.1, ctx := id, seed := r.2, first := first }],
                                       offers := l.offers.filter (fun x => x.1 != o.1) })).sendCtrl o.1 .lendAsk 0 first

/-- Ask for a new key for a lease (R416, R417). -/
def State.renewLease (s : State) (l : Lease) : State :=
  let r := s.draw 120
  let first := exchangeOpen r.2 ++ s.kxIdentity
  let a : Ask := { lender := l.lender, ctx := l.ctx, seed := r.2, first := first, renew := some l.slot, since := s.hub.timer }
  (r.1.modLinks (fun k => { k with asks := k.asks.filter (fun b => b.renew != some l.slot) ++ [a] })).sendCtrl l.lender .lendAsk
    (l.id + l.gen * 65536) first

/-- The keys of a context's leases are renewed from 2^47 frames on, and from 2^48 on the exchange is tried again every 2^20 counts (R417); the
Bursar looks at them in the review (DESIGN CHOICE LOG 34). -/
def State.renewLeases (s : State) (id : Nat) : State :=
  (s.links.leases.filter (fun l => l.ctx == id && !l.broken && decide (2 ^ 47 ≤ l.uses))).foldl (fun s l =>
    match s.links.asks.find? (fun a => a.renew == some l.slot) with
    | none => s.renewLease l
    | some a => if decide (2 ^ 48 ≤ l.uses) && decide (a.since + 2 ^ 20 ≤ s.hub.timer) then s.renewLease l else s) s

/-- Start the move of a page to or from a lease: one move of the tile's budget. -/
def State.leaseMove (s : State) (id vp dest tile : Nat) : State := (s.spend tile).startMove id vp dest .lease 0 true

/-- May a page go to a lease now? Cold, with a local reservation, in HBM, not on its way (R215); it keeps its KeyID (R205). -/
def State.lendable? (s : State) (c : Ctx) (v : Nat) : Bool := match c.page? v with
  | some p => p.cold && p.share.isNone && !p.pin && p.hbm.isSome && p.tier.isNone && !s.moving c.id v && !p.lost
  | none => false

/-- The lease that some page of a unit lies on, or is on its way to. -/
def State.unitLease (s : State) (c : Ctx) (u : List Nat) : Option Nat :=
  u.findSome? (fun v =>
    match (c.page? v).bind (fun p => p.lease) with
    | some f => some ((f - 2 ^ 25) / 512)
    | none => (s.moves.find? (fun m => m.ctx == c.id && m.va == v && m.reason == .lease && decide (2 ^ 25 ≤ m.dest))).map (fun m => (m.dest - 2 ^ 25) / 512))

/-- Must the pages of a unit that lie on leases come home? One is cold no longer, they lie on two leases, or a page that is at home cannot follow
them: a unit lies on one lease or on none (R246). -/
def State.unitReturns (s : State) (c : Ctx) (u : List Nat) : Bool :=
  let ps := u.filterMap c.page?
  let out := ps.filter (fun p => p.lease.isSome && !p.lost)
  !out.isEmpty && (out.any (fun p => !p.cold) || decide (1 < ((out.map (fun p => (p.lease.getD 0 - 2 ^ 25) / 512)).eraseDups).length)
    || ps.any (fun p => p.lease.isNone && !s.lendable? c p.va && !s.moving c.id p.va))

/-- Units to move to a lease (R215, R246): the rest of units begun, then whole units; a unit of an OPT_STEP record goes to one lease whole,
over several periods when the budget asks for it, or not at all. -/
def State.lendUnits (s : State) (c : Ctx) : List (List Nat) :=
  let inUnit := c.units.flatMap (fun u => u)
  c.units.filter (fun u => (s.unitLease c u).isSome && !s.unitReturns c u && u.any (s.lendable? c))
    ++ c.units.filter (fun u => u.all (s.lendable? c) && !u.isEmpty)
    ++ ((c.pages.map (fun p => p.va)).filter (fun v => s.lendable? c v && !inUnit.contains v)).map (fun v => [v])

/-- Frames of a lease that pages of units begun still need. -/
def State.leaseOwed (s : State) (c : Ctx) (slot : Nat) : Nat :=
  ((c.units.filter (fun u => s.unitLease c u == some slot)).map (fun u => (u.filter (s.lendable? c)).length)).sum

/-- Move what is left of one unit to its lease, or to one with room for all of it, as far as the budgets go. -/
def State.lendUnit (s : State) (id : Nat) (u : List Nat) : State :=
  match s.ctx? id with
  | none => s
  | some c =>
    let rest := u.filter (s.lendable? c)
    let fits (l : Lease) : Bool := match s.unitLease c u with
      | some k => l.slot == k && decide (rest.length ≤ (s.leaseFree l.slot).length)
      | none => decide (rest.length + s.leaseOwed c l.slot ≤ (s.leaseFree l.slot).length)
    if c.limits.nbrMax < c.nbrHeld + rest.length + (s.moves.filter (fun m => m.ctx == id && m.reason == .lease)).length then s
    else match s.links.leases.find? (fun l => l.ctx == id && !l.broken && fits l) with
      | none => s
      | some l => (rest.zip ((s.leaseFree l.slot).take rest.length)).foldl (fun s x =>
          let tile := match (s.ctx? id).bind (fun c => (c.page? x.1).bind (fun p => p.hbm)) with
            | some h => stackOf h / 2
            | none => 0
          if s.budgetLeft tile = 0 then s else s.leaseMove id x.1 x.2 tile) s

/-- Bring back the lent pages that are cold no longer, and the pages of the units that must come home, while the context has room (R215,
R246). -/
def State.unlend (s : State) (id : Nat) : State :=
  match s.ctx? id with
  | none => s
  | some c =>
    let inUnit := c.units.flatMap (fun u => u)
    let home := (c.units.filter (s.unitReturns c)).flatMap (fun u => u)
    (c.pages.filter (fun p => p.lease.isSome && !p.lost && !s.moving id p.va
        && (if inUnit.contains p.va then home.contains p.va else !p.cold))).foldl (fun s p =>
      match s.freeHbm 0 with
      | some f =>
        let coming := (s.moves.filter (fun m => m.ctx == id && isHbm m.dest && m.reason == .lease)).length
        if c.limits.localMax ≤ s.localHeld c + coming || s.budgetLeft (stackOf f / 2) = 0 then s
        else (s.modMem (fun m => m.takeHbm f .page)).leaseMove id p.va f (stackOf f / 2)
      | none => s) s

/-- The lending part of a review (R215, R539): pages go out and come back, an ask for a lease when pages wait, and the release of a lease
that holds none. -/
def State.reviewLending (s : State) (id : Nat) : State :=
  match s.ctx? id with
  | none => s
  | some c =>
    if !flag (s.featuresOf c) fLender then s
    else
      let units := s.lendUnits c
      let s1 := (units.foldl (fun s u => s.lendUnit id u) s).unlend id
      let waiting := match s1.ctx? id with
        | some d => (s1.lendUnits d).any (fun u => decide (d.nbrHeld + u.length ≤ d.limits.nbrMax))
        | none => false
      let s2 := if waiting then s1.askLease id else s1
      if waiting then s2
      else (s2.links.leases.filter (fun l => l.ctx == id && !l.broken && decide ((s2.leaseFree l.slot).length = 512))).foldl
        (fun s l => s.endLease l) s2

/-- PLACEMENT_REVIEW (R201, R203, R215): one review of a resident context in each period of 2^18 counts; none during a firmware
activation (R438). -/
def doPlacementReview (id : Nat) (s : State) : State :=
  match s.ctx? id with
  | none => s
  | some c =>
    if !s.alive || s.life.trial.isSome || c.res.state != .resident || c.res.leaving != .stays || c.reviewed == some s.period then s
    else ((((s.freshBudget).reviewPages id).reviewLending id).renewLeases id).settleMoves

/-- PLACEMENT_REVIEW. -/
def execPlacementReview (ctx : Nat) (s : State) : Host.Outcome State Fault Refusal := .next (doPlacementReview ctx s)

end Sys2Proof.Machine
end

