-- ==== Sys2Proof/Machine/Matrix.lean ====
section
/-!
DEFINITION. Machine/Matrix.lean: MATMUL (R69–R95, R98–R101): the argument block and its checks, column sums, overflow replay,
commits in native and compatibility order, and the result word.
-/
namespace Sys2Proof.Machine

/-! ### The argument block -/

/-- Does one region of a list overlap another of it, or one of a second list? -/
def clash : List Region → List Region → Bool
  | [], _ => false
  | r :: rest, others => (rest ++ others).any (fun y => r.overlaps y) || clash rest others

/-- R539 for MATMUL: a format or an order of a feature that the session lacks. -/
def MatArgs.barred (g : MatArgs) (features : Nat) : Bool :=
  (!flag features fMxfp4 && (g.a.fmt == 4 || g.b.fmt == 4 || g.c.fmt == 4)) || (!flag features fCompat && g.order == 1)

/-- Step 1 of R80, the slots apart. -/
def Rec.matReserved (r : Rec) : Bool :=
  let g := r.matArgs
  let bad (d : MatDesc) : Bool := decide (2 ≤ d.space) || decide (9 ≤ d.fmt)
  r.arg 463 461 != 0 || r.arg 511 489 != 0 || decide (2 ≤ g.order) || (g.order == 1 && g.cgroup == 3)
    || bad g.a || bad g.b || bad g.c

/-- The slots that an operation names, within its table: read with the checks of memory (R543). -/
def State.namedSlots (s : State) (id : Nat) (ups : List Upset) (scaleN : Nat) : List Nat → State × Except Status (List (Nat × ScaleSlot))
  | [] => (s, .ok [])
  | i :: rest =>
    if scaleN ≤ i then s.namedSlots id ups scaleN rest
    else
      let r := s.readSlot id ups i
      match r.2 with
      | .error e => (r.1, .error e)
      | .ok x =>
        let t := r.1.namedSlots id ups scaleN rest
        (t.1, match t.2 with
              | .error e => .error e
              | .ok l => .ok ((i, x) :: l))

/-- The slot read of a number. -/
def slotIn (l : List (Nat × ScaleSlot)) (i : Nat) : Option ScaleSlot := (l.find? (fun x => x.1 == i)).map (fun x => x.2)

/-- The slot format of an element format (Table 02-5). -/
def slotFmt : Fmt → Option Nat
  | .e4m3 => some 0
  | .e5m2 => some 1
  | .fp16 => some 2
  | .mxE4M3 | .mxE5M2 | .mxfp4 | .bf16 | .p32i | .p32s => none

/-- May an operand be scaled through its slot? -/
def slotFits (f : Fmt) (x : Option ScaleSlot) : Bool := match slotFmt f, x with
  | some k, some y => y.fmt == k
  | some _, none => true
  | none, _ => false

/-- Step 2 of R80. -/
def MatArgs.inconsistent (g : MatArgs) (slots : List (Nat × ScaleSlot)) : Bool :=
  let fa := g.a.form
  let fb := g.b.form
  let fc := g.c.form
  let odd (n : Nat) : Bool := n % 64 != 0
  let one (d : MatDesc) (cols : Nat) : Bool :=
    (d.useSlot && !slotFits d.form (slotIn slots d.slot)) || (!d.form.isMx && d.form != .p32s && d.aux != 0)
      || odd d.addr || odd d.stride || odd d.aux || decide (d.stride < max 64 (rowBytes d.form cols))
  !pairAllowed fa fb || !fc.isPair || g.c.turn || g.c.useSlot || g.c.space != 1
    || (fa.isMx && (g.a.turn || !g.b.turn))
    || one g.a g.shapeA.2 || one g.b g.shapeB.2 || one g.c g.shapeC.2 || (g.grouped && odd g.group)

/-- Step 3 of R80, with R351 and R200. -/
def MatArgs.beyond (g : MatArgs) (c : Ctx) (x : Queue) : Bool :=
  let back (l : List Region) : Bool := l.all (fun r => inSpace c x r.space r.addr r.bytes)
  !(back (g.a.regions g.shapeA.1) && back (g.b.regions g.shapeB.1) && back (g.c.regions g.m) && back g.groupRegion)
    || (g.a.useSlot && decide (c.scaleN ≤ g.a.slot)) || (g.b.useSlot && decide (c.scaleN ≤ g.b.slot))

/-- Step 4 of R80. -/
def MatArgs.collides (g : MatArgs) : Bool :=
  clash (g.c.regions g.m ++ g.groupRegion) (g.a.regions g.shapeA.1 ++ g.b.regions g.shapeB.1)

/-- The checks after the slots are read: the status, or the no-op of R79. -/
def matCheck (c : Ctx) (x : Queue) (g : MatArgs) (slots : List (Nat × ScaleSlot)) : Option (Option Status) :=
  firstOf [
    (slots.any (fun y => decide (3 ≤ y.2.fmt)), some .reservedSet),
    (g.m == 0 || g.n == 0 || g.k == 0, none),
    (g.inconsistent slots, some .badOperand),
    (g.beyond c x, some .extent),
    (g.collides, some .badOperand)]

/-! ### Column sums -/

/-- One product of an output: its exact value without block scales, the exponent of the scales, and what R64 asks of its
elements. -/
structure Term where
  val : XVal
  sh : Int
  nan : Bool
  inf : Bool
  deriving DecidableEq, Repr

/-- The product of two elements, with the scales of their blocks. -/
def termOf (fa fb : Fmt) (wa wb sa sb : Nat) : Term :=
  let x := fa.elem.decode wa
  let y := fb.elem.decode wb
  let mx := fa.isMx
  { val := (x.mul y).1, sh := if mx then (sa : Int) + sb - 254 else 0,
    nan := x.isNan || y.isNan || (mx && (sa == 0xFF || sb == 0xFF)), inf := x.isInf || y.isInf }

/-- The top of the window at level 0 (Table 03-5). -/
def windowTop (fa fb : Fmt) : Int :=
  match fa, fb with
  | .mxfp4, _ => 8
  | .e5m2, .e5m2 | .mxE5M2, .mxE5M2 => 34
  | .e4m3, .e4m3 | .mxE4M3, .mxE4M3 => 20
  | _, _ => 27

/-- A finite value entered in a register whose least unit is `2^u`: the nearest number of units, ties to even, and whether
that changed it (R83). -/
def enter (u : Int) (x : XVal) : Int × Bool :=
  match x with
  | .num neg mag exp =>
    let (n, rem, den) := splitUnits mag exp u
    let k : Nat := if roundsUp .rne n rem den then n + 1 else n
    (if neg then -(k : Int) else k, rem != 0)
  | .nan | .inf _ => (0, false)

/-- The sum of entered values. -/
def enterAll (u : Int) (l : List XVal) : Int × Bool :=
  l.foldl (fun acc x => let e := enter u x
                        (acc.1 + e.1, acc.2 || e.2)) (0, false)

/-- A column sum as it is committed: units, the exponent of one unit, the replay level, and what happened. -/
structure ColSum where
  units : Int := 0
  exp : Int := 0
  level : Nat := 0
  inexact : Bool := false
  sat : Bool := false
  deriving DecidableEq, Repr

/-- The sum at a level of the window. -/
def sumAt (T e : Int) (vals : List XVal) (level : Nat) : ColSum × Bool :=
  let u := e + T - 68 + 8 * level
  let s := enterAll u vals
  ({ units := s.1, exp := u, level := level, inexact := s.2 }, decide (2 ^ 68 ≤ s.1.natAbs))

/-- The shared exponent of a pass for an output (R83): the largest scale of its blocks; 0 without scales. -/
def sharedExp (ts : List Term) : Int := match ts with
  | [] => 0
  | t :: rest => rest.foldl (fun m x => max m x.sh) t.sh

/-- The column sum of R83 with the replay of R87: the finest window in which it does not overflow; at level 2 it saturates. -/
def colSum8 (fa fb : Fmt) (ts : List Term) : ColSum :=
  let T := windowTop fa fb
  let e := sharedExp ts
  let vals := ts.map (fun t => t.val.shift t.sh)
  let s0 := sumAt T e vals 0
  if !s0.2 then s0.1
  else
    let s1 := sumAt T e vals 1
    if !s1.2 then s1.1
    else
      let s2 := sumAt T e vals 2
      if !s2.2 then s2.1
      else { s2.1 with units := if s2.1.units < 0 then -(2 ^ 68 - 1) else 2 ^ 68 - 1, sat := true }

/-- The exponent of the largest of a list of values, if one is not zero. -/
def topExp (l : List XVal) : Option Int := l.foldl (fun acc x => match x with
  | .num _ mag exp => if mag = 0 then acc else
      let k := floorLog2 mag exp
      (match acc with
       | some m => some (max m k)
       | none => some k)
  | .nan | .inf _ => acc) none

/-- The column sum of R85: the window follows the largest product. -/
def colSum16 (ts : List Term) : ColSum :=
  let vals := ts.map (fun t => t.val)
  match topExp vals with
  | none => {}
  | some e =>
    let s := enterAll (e - 56) vals
    { units := s.1, exp := e - 56, inexact := s.2 }

/-- The column sum of a pass. -/
def colSum (fa fb : Fmt) (ts : List Term) : ColSum := if wideFmt fa then colSum16 ts else colSum8 fa fb ts

/-- Is the column one of R84, that takes the result of R64? -/
def special (ts : List Term) : Bool := ts.any (fun t => t.nan || t.inf)

/-- The value of a committed sum, less the exponents of the slots (R86). -/
def ColSum.val (c : ColSum) (slotExp : Int) : XVal := XVal.ofInt c.units (c.exp - slotExp) false

/-- Flags of a column sum. -/
def ColSum.flags (c : ColSum) : Flags := { inx := c.inexact, ovf := c.sat }

/-! ### Orders -/

/-- A partial sum with the flags so far; none: a column of R64 has made it NaN. -/
abbrev Partial := Option Pair × Flags

/-- Commit a value to a partial sum (R86). One that is NaN under R64 stays so. -/
def Partial.commit (acc : Partial) (x : Option XVal) (f : Flags) : Partial :=
  match acc.1, x with
  | some p, some v => let r := p.add v
                      (some r.1, (acc.2.or r.2).or f)
  | _, _ => (none, acc.2.or f)

/-- The column sum of a pass, none for a column of R64. -/
abbrev ColOpt := Option ColSum

/-- Commit a pass. -/
def Partial.pass (slotExp : Int) (acc : Partial) (c : ColOpt) : Partial := match c with
  | some s => acc.commit (some (s.val slotExp)) s.flags
  | none => acc.commit none .none

/-- The chain of commits of a run of passes from a partial sum. -/
def chainCols (slotExp : Int) (acc : Partial) (cols : List ColOpt) : Partial := cols.foldl (Partial.pass slotExp) acc

/-- Cut a list into runs of `n`. -/
def runsOf {α : Type} (n : Nat) : Nat → List α → List (List α)
  | 0, _ => []
  | fuel + 1, l => if l.isEmpty then [] else l.take n :: runsOf n fuel (l.drop n)

/-- Native order (R89): a chain, or groups each summed from +0 and then added. -/
def nativeSum (slotExp : Int) (perGroup : Nat) (c0 : Pair) (cols : List ColOpt) : Partial :=
  if cols.length ≤ perGroup then chainCols slotExp (some c0, .none) cols
  else (runsOf perGroup cols.length cols).foldl (fun (acc : Partial) grp =>
    let g := chainCols slotExp (some .zero, .none) grp
    acc.commit (g.1.map Pair.val) g.2) (some c0, .none)

/-- The transient register of R91: a 32-bit significand and an 11-bit exponent. -/
def fmtCompat : FloatFmt := { expBits := 11, manBits := 31, bias := 1023, special := .ieee }

/-- The pass result of compatibility order: exact group sums in a floating register rounded after each addition (R91). -/
def compatPass (cg : Nat) (ts : List Term) : XVal × Flags :=
  (runsOf cg ts.length ts).foldl (fun (acc : XVal × Flags) grp =>
    let exact := grp.foldl (fun (x : XVal) t => (x.add (t.val.shift t.sh)).1) (XVal.zero false)
    let w := ieeeRound fmtCompat (acc.1.add exact).1
    (fmtCompat.decode w.1, acc.2.or { inx := w.2.inx })) (XVal.zero false, .none)

/-- Compatibility order: one chain of passes at base depth. -/
def compatSum (slotExp : Int) (cg : Nat) (c0 : Pair) (passes : List (List Term)) : Partial :=
  passes.foldl (fun (acc : Partial) ts =>
    if special ts then acc.commit none .none
    else let p := compatPass cg ts
         acc.commit (some (p.1.shift (-slotExp))) p.2) (some c0, .none)

/-! ### The whole product -/

/-- What an operation computes with. -/
structure MatJob where
  g : MatArgs
  /-- the rows of A and B, and their scale rows -/
  a : List Bytes
  sa : List Bytes
  b : List Bytes
  sb : List Bytes
  slotExp : Int
  deriving DecidableEq, Repr

/-- Product `k` of output (i, j). -/
def MatJob.term (w : MatJob) (i j k : Nat) : Term :=
  let g := w.g
  let at2 (rows : List Bytes) (f : Fmt) (x y : Nat) : Nat := elemWord f (rows.getD x []) y
  let sc (rows : List Bytes) (x y : Nat) : Nat := ((rows.getD x []).getD (y / 32) 0).toNat
  let pa := if g.a.turn then (k, i) else (i, k)
  let pb := if g.b.turn then (j, k) else (k, j)
  termOf g.a.form g.b.form (at2 w.a g.a.form pa.1 pa.2) (at2 w.b g.b.form pb.1 pb.2) (sc w.sa pa.1 pa.2) (sc w.sb pb.1 pb.2)

/-- The products of an output, pass by pass at a depth (R72). -/
def MatJob.passes (w : MatJob) (i j depth : Nat) : List (List Term) :=
  runsOf depth (w.g.k / depth + 1) ((List.range w.g.k).map (fun k => w.term i j k))

/-- An output with its flags, and the replay level of its column in each pass (none: not tested, R84). -/
structure MatOut where
  pair : Pair
  flags : Flags
  levels : List (Option (Nat × Bool))
  deriving DecidableEq, Repr

/-- Output (i, j) from an initial content (R64, R89, R91). An output of R64 is NaN; the flags of its other passes stand beside its own. -/
def MatJob.output (w : MatJob) (c0 : Pair) (i j : Nat) : MatOut :=
  let g := w.g
  let depth := g.depth j
  let ps := w.passes i j depth
  let cols := ps.map (fun ts => (special ts, colSum g.a.form g.b.form ts))
  let levels := if g.order = 0 then cols.map (fun c => if c.1 then none else some (c.2.level, c.2.sat)) else []
  let r := if g.order = 0 then nativeSum w.slotExp (groupDepth g.a.form / depth) c0 (cols.map (fun c => if c.1 then none else some c.2))
    else compatSum w.slotExp (4 * 2 ^ g.cgroup) c0 ps
  match r.1 with
  | some p => { pair := p, flags := r.2, levels := levels }
  | none => { pair := (p32Round .nan).1, levels := levels,
              flags := r.2.or (if ps.flatten.any (fun t => t.nan) then .onlyNanIn else .onlyInv) }

/-- What the outputs of a row report. -/
structure MatStat where
  flags : Flags := {}
  replays : Nat := 0
  level : Nat := 0
  sat : Nat := 0
  deriving DecidableEq, Repr

/-- Join two reports. -/
def MatStat.join (a b : MatStat) : MatStat :=
  { flags := a.flags.or b.flags, replays := a.replays + b.replays, level := max a.level b.level, sat := a.sat + b.sat }

/-- Replays of a row in the passes of one panel: in each pass, the highest level that a column of it reached (R87). -/
def rowReplays (outs : List MatOut) : MatStat :=
  let passes := outs.foldl (fun m o => max m o.levels.length) 0
  (List.range passes).foldl (fun (acc : MatStat) q =>
    let ls := outs.filterMap (fun o => (o.levels.getD q none))
    let top := (ls.map (fun l => l.1)).foldl max 0
    acc.join { replays := top, level := top, sat := (ls.filter (fun l => l.2)).length }) {}

/-- A row of outputs with its report. -/
def MatJob.row (w : MatJob) (c0 : Nat → Pair) (i : Nat) : List Pair × MatStat :=
  let outs := (List.range w.g.n).map (fun j => w.output (c0 j) i j)
  let panels := runsOf 256 (w.g.n / 256 + 1) outs
  (outs.map (fun o => o.pair),
   (panels.foldl (fun (acc : MatStat) p => acc.join (rowReplays p)) {}).join { flags := Flags.orAll (outs.map (fun o => o.flags)) })

/-- The initial content of a row of C: what is stored under `acc` 1, else +0. -/
def rowPair (f : Fmt) (heads tails : Bytes) (j : Nat) : Pair :=
  if f = .p32s then { head := BitVec.ofNat 16 (elemWord .p32s heads j), tail := BitVec.ofNat 16 (elemWord .p32s tails j) }
  else Pair.ofWord (elemWord .p32i heads j)

/-! ### The operation -/

/-- The matrix result word (Table 03-9). -/
def matWord (t : MatStat) (re audit : Nat) : Nat :=
  hold 0xFFFFFF t.replays + t.level * 2 ^ 24 + hold 0xFFFF t.sat * 2 ^ 32 + hold 0xFF re * 2 ^ 48 + audit * 2 ^ 56

/-- The end of an operation that failed after it began (R94): its flags and its result word report the work that it did before, a part of the
whole operation's that the spec does not fix (LOG 12). -/
def State.matFails (s : State) (e : Site) (r : Rec) (st : Status) (whole : MatStat) (re audit : Nat) : State :=
  let s1 := s.scramble e r.matArgs.outputs
  let t := s1.freeNat
  let u := t.1.freeNat
  let v := u.1.freeNat
  let n := v.2 % (whole.replays + 1)
  u.1.endRec e.ctx e.queue r.seq r.iter st (whole.flags.word &&& t.2)
    (matWord { replays := n, level := if n = 0 then 0 else 1 + u.2 % whole.level, sat := (u.2 / 2) % (whole.sat + 1) } re audit) true

/-- Read one operand: its element rows and its scale rows. -/
def State.readOperand (s : State) (e : Site) (d : MatDesc) (rows cols : Nat) : State × Except Status (List Bytes × List Bytes) :=
  let t := s.readRows e d.space d.addr d.stride (rowBytes d.form cols) rows
  match t.2 with
  | .error st => (t.1, .error st)
  | .ok els =>
    if d.form.isMx then
      let u := t.1.readRows e d.space (d.addr + d.aux) (d.stride / d.form.scaleDiv) (ceilDiv cols 32) rows
      (u.1, match u.2 with
            | .error st => .error st
            | .ok sc => .ok (els, sc))
    else (t.1, .ok (els, []))

/-- Read C under `acc` 1: heads or pairs, and tails. -/
def State.readC (s : State) (e : Site) (g : MatArgs) : State × Except Status (List Bytes × List Bytes) :=
  if !g.acc then (s, .ok ([], []))
  else
    let len := rowBytes g.c.form g.n
    let t := s.readRows e g.c.space g.c.addr g.c.stride len g.m
    match t.2 with
    | .error st => (t.1, .error st)
    | .ok els =>
      if g.c.form = .p32s then
        let u := t.1.readRows e g.c.space (g.c.addr + g.c.aux) g.c.stride len g.m
        (u.1, match u.2 with
              | .error st => .error st
              | .ok tl => .ok (els, tl))
      else (t.1, .ok (els, []))

/-- Write C. -/
def State.writeC (s : State) (e : Site) (g : MatArgs) (rows : List (List Pair)) : State × Option Status :=
  if g.c.form = .p32s then
    let t := s.writeRows e g.c.space g.c.addr g.c.stride (rows.map (fun r => r.flatMap (fun p => toLe 2 p.head.toNat)))
    match t.2 with
    | some st => (t.1, some st)
    | none => t.1.writeRows e g.c.space (g.c.addr + g.c.aux) g.c.stride (rows.map (fun r => r.flatMap (fun p => toLe 2 p.tail.toNat)))
  else s.writeRows e g.c.space g.c.addr g.c.stride (rows.map (fun r => r.flatMap (fun p => toLe 4 p.word)))

/-- The exponents of the slots of A and B together (R57, R86). -/
def MatArgs.slotExp (g : MatArgs) (slots : List (Nat × ScaleSlot)) : Int :=
  let one (d : MatDesc) : Int := if d.useSlot then (match slotIn slots d.slot with
    | some x => x.exp
    | none => 0) else 0
  one g.a + one g.b

/-- Outputs of every row. -/
def MatJob.rows (w : MatJob) (c : List Bytes × List Bytes) : List (List Pair) × MatStat :=
  let rs := (List.range w.g.m).map (fun i =>
    w.row (fun j => if w.g.acc then rowPair w.g.c.form (c.1.getD i []) (c.2.getD i []) j else .zero) i)
  (rs.map (fun r => r.1), rs.foldl (fun (acc : MatStat) r => acc.join r.2) {})

/-- The product that an operation computes, over its operands as they stand in memory. -/
def State.matJob (s : State) (e : Site) (g : MatArgs) (slots : List (Nat × ScaleSlot)) : MatJob × (List Bytes × List Bytes) :=
  let rows (d : MatDesc) (at_ stride len n : Nat) : List Bytes := (List.range n).map (fun i => s.peekS e d.space (at_ + i * stride) len)
  let els (d : MatDesc) (sh : Nat × Nat) : List Bytes := rows d d.addr d.stride (rowBytes d.form sh.2) sh.1
  let scs (d : MatDesc) (sh : Nat × Nat) : List Bytes :=
    if d.form.isMx then rows d (d.addr + d.aux) (d.stride / d.form.scaleDiv) (ceilDiv sh.2 32) sh.1 else []
  ({ g := g, a := els g.a g.shapeA, sa := scs g.a g.shapeA, b := els g.b g.shapeB, sb := scs g.b g.shapeB, slotExp := g.slotExp slots },
   if !g.acc then ([], []) else (els g.c g.shapeC, if g.c.form = .p32s then rows g.c (g.c.addr + g.c.aux) g.c.stride (rowBytes g.c.form g.n) g.m else []))

/-- Records of the checks of an operation: re-runs that agreed, one that failed, an audit mismatch (R99, R100, R457). -/
def State.matRecords (s : State) (n : Nat) (c : Ctx) (q : Nat) (r : Rec) (agreed : Nat) (failed column : Bool) (sat : Nat) : State :=
  let s1 := (List.range agreed).foldl (fun s _ => s.fileCore n 1 .corrected .ok c q r.seq 1 (2 ^ 64)) s
  let s2 := if failed then s1.fileCore n 1 .uncorrected .uncorrectable c q r.seq 1 (2 ^ 64) else s1
  let s3 := if column && !failed then s2.fileCore n 1 .sdc .uncorrectable c q r.seq 2 0 else s2
  if sat != 0 && !failed && !column then s3.fileCore n 1 .uncorrected .ok c q r.seq 2 (2 ^ 64) else s3

/-- Read A, B and C in this order: the first that fails gives the status. DESIGN CHOICE LOG 27: of operands that both fail the spec does not
say which one decides (R73 and R74 load a block of B before A streams). -/
def State.readMatrix (s : State) (e : Site) (g : MatArgs) (slots : List (Nat × ScaleSlot)) :
    State × Except Status (MatJob × (List Bytes × List Bytes)) :=
  let ta := s.readOperand e g.a g.shapeA.1 g.shapeA.2
  match ta.2 with
  | .error st => (ta.1, .error st)
  | .ok a =>
    let tb := ta.1.readOperand e g.b g.shapeB.1 g.shapeB.2
    match tb.2 with
    | .error st => (tb.1, .error st)
    | .ok b =>
      let tc := tb.1.readC e g
      (tc.1, match tc.2 with
             | .error st => .error st
             | .ok c0 => .ok ({ g := g, a := a.1, sa := a.2, b := b.1, sb := b.2, slotExp := g.slotExp slots }, c0))

/-- The operation itself, after its checks and under leave. A check that failed again, or a column checksum, ends it before any read could: of
two causes that one command meets the spec does not order, DESIGN CHOICE LOG 27; so is the audit value 1 when it ends for a cause other than a
checksum (R100). -/
def State.runMatmul (s : State) (e : Site) (c : Ctx) (x : Queue) (r : Rec) (slots : List (Nat × ScaleSlot)) : State :=
  let g := r.matArgs
  let rowSums := if x.audit then (e.ups.filter (fun u => u == .rowSum true)).length else 0
  let agreed := (retries e.ups).1 + rowSums
  let failed := (retries e.ups).2 || (x.audit && e.ups.contains (.rowSum false))
  let column := x.audit && e.ups.contains .column
  let audit := if !x.audit then 0 else if column then 3 else if rowSums != 0 then 2 else 1
  let job := s.matJob e g slots
  let whole := (job.1.rows job.2).2
  if failed || column then
    (s.matRecords e.core c x.number r agreed failed column 0).matFails e r .uncorrectable whole agreed audit
  else
    let t := s.readMatrix e g slots
    match t.2 with
    | .error st => (t.1.matRecords e.core c x.number r agreed false false 0).matFails e r st whole agreed audit
    | .ok w =>
      let out := w.1.rows w.2
      let u := (t.1.matRecords e.core c x.number r agreed false false out.2.sat).writeC e g out.1
      match u.2 with
      | some st => u.1.matFails e r st out.2 agreed audit
      | none =>
        (u.1.scramble e (if s.entangled c x r then g.outputs else g.groupRegion)).endRec e.ctx e.queue r.seq r.iter .ok out.2.flags.word
          (matWord out.2 agreed audit) true

/-- What MATMUL does with a running record before any data moves (R80, R539, R543): it ends it, or hands on the slots. DESIGN CHOICE LOG 27:
a refusal at dispatch, RESERVED_SET among them, signals `fence_out` under `sig_always` (R154), one at intake signals nothing; and the no-op of
R79 reports audit 0 on an audited queue too. -/
def State.matAdmit (s : State) (e : Site) (c : Ctx) (x : Queue) (r : Rec) : State × Option (List (Nat × ScaleSlot)) :=
  let g := r.matArgs
  let fin (s : State) (st : Status) (sig : Bool) : State × Option (List (Nat × ScaleSlot)) :=
    (s.endRec e.ctx e.queue r.seq r.iter st 0 0 sig, none)
  if g.barred r.features then fin s .denied false
  else if r.matReserved then fin s .reservedSet true
  else
    let t := s.namedSlots e.ctx e.ups c.scaleN ((if g.a.useSlot then [g.a.slot] else []) ++ (if g.b.useSlot then [g.b.slot] else [])
      ++ (if g.c.useSlot then [g.c.slot] else []))
    match t.2 with
    | .error st => fin t.1 st false
    | .ok slots => match matCheck c x g slots with
      | some (some st) => fin t.1 st true
      | some none => fin t.1 .ok true
      | none => (t.1, some slots)

/-- MATMUL (R69, R80, R101): in its turn on the engine; checked; with leave, and open gates, it runs. -/
def doMatmul (id q seq iter : Nat) (ups : List Upset) (s : State) : State :=
  match s.running? id q seq iter .matmul with
  | none => s
  | some (c, x, r) => match r.core with
    | none => s
    | some n =>
      if s.ahead n (fun op => op == .matmul) r.order != 0 then s
      else
        let e : Site := { ctx := id, queue := q, core := n, ups := ups }
        let t := s.matAdmit e c x r
        match t.2 with
        | none => t.1.repairRows
        | some slots =>
          if !r.leave then s.askLeave id q r n false
          else if s.starved c n (r.matArgs.a.regions r.matArgs.shapeA.1 ++ r.matArgs.b.regions r.matArgs.shapeB.1) || s.gateClosed (tileOf n) || c.heldRelease (r.matArgs.c.regions r.matArgs.m)
              || c.heldReads (r.matArgs.a.regions r.matArgs.shapeA.1 ++ r.matArgs.b.regions r.matArgs.shapeB.1 ++ r.matArgs.c.regions r.matArgs.m) then s
          else ((t.1.runMatmul e c x r slots).wrote id q r).repairRows

/-- MATMUL. -/
def execMatmul (id q seq iter : Nat) (ups : List Upset) (s : State) : Host.Outcome State Fault Refusal :=
  .next (doMatmul id q seq iter ups s)

end Sys2Proof.Machine
end

