-- ==== Sys2Proof/Machine/Trans.lean ====
section
/-!
DEFINITION. Machine/Trans.lean: the transcendental stage (R120): each function to 200 binary places, the values that Table 04-10 allows around
it, and the special results.
-/
namespace Sys2Proof.Machine

/-! ### Fixed point: numbers in units of 2^−200 -/

def fixOne : Int := 2 ^ 200

/-- Products and quotients, rounded down. -/
def fixMul (a b : Int) : Int := a * b / 2 ^ 200
def fixDiv (a b : Int) : Int := a * 2 ^ 200 / b

/-- A number as a value. -/
def fixVal (a : Int) (shift : Int) : XVal := .num (decide (a < 0)) a.natAbs (shift - 200)

/-- The series of `e^r`, terms `k` on. -/
def expSeries (r : Int) : (terms k : Nat) → Int
  | 0, _ => fixOne
  | n + 1, k => fixOne + fixMul r (expSeries r n (k + 1)) / (k : Int)

/-- The series Σ (±q)^i / (2i + 1), terms `k` on. -/
def oddSeries (q : Int) : (terms k : Nat) → Int
  | 0, _ => 0
  | n + 1, k => fixOne / ((2 * k + 1 : Nat) : Int) + fixMul q (oddSeries q n (k + 1))

/-- Area tangent and arc tangent of a number of magnitude at most 1/3. -/
def fixAtanh (y : Int) : Int := fixMul y (oddSeries (fixMul y y) 80 0)
def fixAtan (y : Int) : Int := fixMul y (oddSeries (-fixMul y y) 80 0)

def fixLn2 : Int := 2 * fixAtanh (fixOne / 3)
def fixPi : Int := 16 * fixAtan (fixOne / 5) - 4 * fixAtan (fixOne / 239)

/-- `e^x`, as a number and a power of two, for magnitudes up to 2^10. -/
def fixExp (x : Int) : Int × Int :=
  let k := x / fixLn2
  (expSeries (x - k * fixLn2) 70 1, k)

/-- `ln` of a value `mag · 2^exp`: the logarithm of the significand in [1, 2), and the power of two. -/
def fixLn (mag : Nat) (exp : Int) : Int × Int :=
  let m : Int := mag * 2 ^ 200 / 2 ^ Nat.log2 mag
  (2 * fixAtanh (fixDiv (m - fixOne) (m + fixOne)), exp + Nat.log2 mag)

/-- The series of the sine over its argument, and of the cosine, in the square of the argument; terms `k` on, `odd` 1 or 0. -/
def circSeries (q : Int) (odd : Nat) : (terms k : Nat) → Int
  | 0, _ => fixOne
  | n + 1, k => fixOne - fixMul q (circSeries q odd n (k + 1)) / (((2 * k + 1 + odd) * (2 * k + 2 + odd) : Nat) : Int)

/-- The series of `erf` times `e^(x²)` over the argument: Π 2x² / (2i + 3), terms `k` on. -/
def erfSeries (q : Int) : (terms k : Nat) → Int
  | 0, _ => fixOne
  | n + 1, k => fixOne + fixMul (2 * q) (erfSeries q n (k + 1)) / ((2 * k + 3 : Nat) : Int)

/-- A value just below 1. -/
def nearOne : XVal := .num false (2 ^ 100 - 1) (-100)

/-- A function of R120 at a finite, nonspecial argument: its exact value where that is dyadic, else within 2^−40 of its ulp or of the bound that
Table 04-10 gives it. -/
def trnValue (f : Nat) (neg : Bool) (mag : Nat) (exp : Int) : XVal :=
  let x : Int := (if neg then -1 else 1) * (mag * 2 ^ (exp + 200).toNat)
  let big (n : Int) : Bool := decide (n * fixOne ≤ (x.natAbs : Int))
  let sign (v : XVal) : XVal := if neg then v.neg else v
  match f with
  | 0 => if big 300 then .num false 1 (-400) else let k := x / fixOne
                                               fixVal (expSeries (fixMul (x - k * fixOne) fixLn2) 70 1) k
  | 2 => if big 300 then .num false 1 (-400) else let r := fixExp x
                                               fixVal r.1 r.2
  | 1 => let r := fixLn mag exp
         fixVal (fixDiv r.1 fixLn2 + r.2 * fixOne) 0
  | 3 => let r := fixLn mag exp
         fixVal (r.1 + r.2 * fixLn2) 0
  | 4 => divSticky false 1 0 neg mag exp
  | 5 => let h := (exp - (exp % 2)) / 2
         .num false (isqrt (2 ^ 400 / (mag * 2 ^ (exp % 2).toNat))) (-200 - h)
  | 7 =>
    if big 60 then sign nearOne
    else let e := fixExp (2 * (x.natAbs : Int))
         let y := e.1 * 2 ^ e.2.toNat
         sign (fixVal (fixDiv (y - fixOne) (y + fixOne)) 0)
  | 8 =>
    if big 300 then (if neg then .num false 1 (-400) else nearOne)
    else let e := fixExp (-(x.natAbs : Int))
         let y := e.1 / 2 ^ (-e.2).toNat
         if neg then divSticky false e.1.natAbs (e.2 - 200) false (y + fixOne).natAbs (-200) else fixVal (fixDiv fixOne (y + fixOne)) 0
  | 9 =>
    if big 6 then sign nearOne
    else let a : Int := x.natAbs
         let q := fixMul a a
         let e := fixExp (-q)
         let y := e.1 / 2 ^ (-e.2).toNat
         let root : Int := (isqrt (fixPi.natAbs * 2 ^ 200) : Nat)
         sign (fixVal (fixDiv (2 * fixMul a (fixMul (erfSeries q 260 0) y)) root) 0)
  | 10 => let r := x % (2 * fixPi)
          if mag = 0 then .num neg 0 0 else fixVal (fixMul r (circSeries (fixMul r r) 1 70 0)) 0
  | _ => let r := x % (2 * fixPi)
         fixVal (circSeries (fixMul r r) 0 70 0) 0

/-- Words in the order of their values. -/
def wordOrder (w : Word32) : Int := if w.toNat < 2 ^ 31 then w.toNat else (2 ^ 31 : Int) - w.toNat

/-- Is a finite word within `k` ulp of another? -/
def withinUlps (k : Int) (a b : Word32) : Bool :=
  w32Finite b && decide ((wordOrder a - wordOrder b).natAbs ≤ k.natAbs) && (!(w32Val b).isZero || (w32Val a).signBit == (w32Val b).signBit)

/-- Is a word within 2^e of a value? -/
def withinAbs (e : Int) (a : XVal) (b : Word32) : Bool := w32Finite b && (a.add (w32Val b).neg).1.abs.le (.num false 1 e)

/-- Does Table 04-10 allow a result, where the exact value is `a` and its W32 is `ref`? -/
def trnAllowed (f : Nat) (a : XVal) (ref r : Word32) : Bool := match f with
  | 0 | 1 | 4 | 5 => withinUlps 1 ref r
  | 2 | 3 => withinUlps 2 ref r
  | 7 | 8 | 9 => withinUlps 2 ref r || withinAbs (-24) a r
  | _ => withinAbs (-22) a r

/-! ### Special results, exact results -/

/-- Is `r` the exact value of a function at a finite, nonspecial argument? Apart from these points the exact values are no
dyadic numbers. -/
def trnExact (f : Nat) (x r : Word32) : Bool :=
  let v := w32Val x
  let y := w32Val r
  let isV (n : Int) : Bool := y.eqv (XVal.ofInt n 0 false)
  match f with
  | 0 => match v with
    | .num n m e => (match splitUnits m e 0 with
      | (k, rem, _) => rem == 0 && decide (k < 200) && y.eqv (.num false 1 (if n then -(k : Int) else k)))
    | .nan | .inf _ => true
  | 1 => (match y with
    | .num n m e => (match splitUnits m e 0 with
      | (k, rem, _) => rem == 0 && decide (k < 200) && v.eqv (.num false 1 (if n then -(k : Int) else k)))
    | .nan | .inf _ => true)
  | 2 => v.isZero && isV 1
  | 3 => v.eqv (XVal.ofInt 1 0 false) && isV 0
  | 4 => (v.mul y).1.eqv (XVal.ofInt 1 0 false)
  | 5 => (v.mul (y.mul y).1).1.eqv (XVal.ofInt 1 0 false)
  | 8 => v.isZero && y.eqv (.num false 1 (-1))
  | 11 => v.isZero && isV 1
  | _ => v.isZero && y.isZero

/-- The special results of Table 04-10, and what IEEE 754 gives at infinities (R63). -/
def trnSpecial (f : Nat) (x : Word32) : Option (Word32 × Flags) :=
  let v := w32Val x
  let infW (n : Bool) : Word32 := (w32Round (.inf n)).1
  let nanInv : Option (Word32 × Flags) := some (w32Nan, .onlyInv)
  -- the least arguments at which 2^x and e^x, rounded, lie beyond the range of W32
  let beyond : Bool := (XVal.num false (if f = 0 then 2 ^ 24 else 0xB17218) (-17)).le v
  match v with
  | .nan => some (w32Nan, .onlyNanIn)
  | .inf n => match f with
    | 0 | 2 => some (if n then 0 else infW false, .none)
    | 1 | 3 | 6 => if n then nanInv else some (infW false, .none)
    | 4 => some (if n then 0x80000000#32 else 0, .none)
    | 5 => if n then nanInv else some (0, .none)
    | 8 => some (if n then 0 else w32One, .none)
    | 10 | 11 => nanInv
    | _ => some (if n then w32Neg w32One else w32One, .none)
  | .num n m e => match f with
    | 0 | 2 => if beyond then some (infW false, { ovf := true, inx := true }) else none
    | 1 | 3 => if m = 0 then some (infW true, .none) else if n then nanInv else none
    | 4 => if m = 0 then some (infW n, .onlyOvf) else none
    | 5 => if m = 0 then some (infW n, .onlyOvf) else if n then nanInv else none
    | 6 => some (w32Sqrt x)
    | 10 | 11 => if (XVal.num false 1 16).lt (.num false m e) then nanInv else none
    | _ => none

/-- A transcendental (R120): the special results are fixed; elsewhere the value is free within the accuracy of Table 04-10 (LOG 13), and the flags
follow from it and from the exact value. -/
def trn (f : Nat) (x : Word32) : Word32 × Flags :=
  match trnSpecial f x, w32Val x with
  | some r, _ => r
  | none, .num n m e =>
    let a := trnValue f n m e
    let ref := w32Round a
    if (w32Val ref.1).isInf then ref
    else
      let c := Config.transcendental f x
      let r := if trnAllowed f a ref.1 c then c else ref.1
      let exact := trnExact f x r
      let tiny := match a with
        | .num _ m e => m != 0 && decide (floorLog2 m e < -126)
        | .nan | .inf _ => false
      (r, { inx := !exact, unf := !exact && tiny })
  | none, _ => (w32Nan, .none)

end Sys2Proof.Machine
end

