-- ==== Sys2Proof/Machine/Vector.lean ====
section
/-!
DEFINITION. Machine/Vector.lean: the chain of VECTOR: descriptor, stages, streams and their addresses (R104–R112), the checks of
R114, element programs (R116–R119), transcendentals (R120), reduce (R121, R122), round/pack (R123, R124), compress and expand
(R125, R126). The command itself is in Machine/VectorRun.lean.
-/
namespace Sys2Proof.Machine

/-! ### Checks (R114) -/

/-- Is an instruction word one that R114 refuses with RESERVED_SET? (Tables 04-8 and 04-9) -/
def badInstr (w : Nat) : Bool :=
  let opc := field w 7 0
  let c := field w 23 20
  anySet w 31 27
    || !([0x00, 0x01, 0x10, 0x11, 0x12, 0x13, 0x14, 0x15, 0x16, 0x17, 0x18, 0x19, 0x1A, 0x1B, 0x1C, 0x1D, 0x20, 0x21, 0x30, 0x31].contains opc)
    || (opc == 0x18 && decide (5 ≤ c)) || (opc == 0x20 && decide (4 ≤ c))

/-- The instructions that a PRG stage executes. -/
def Chain.program (g : Chain) (t : Stage) : List Nat := (if t.op = 0 then g.prog0 else g.prog1).take t.p0

/-- Step 1 of R114 over the descriptor, the slots apart. -/
def Chain.reserved (g : Chain) : Bool :=
  g.rsvd || decide (16 < g.nStages) || g.stages.any Stage.reserved
    || g.named.any (fun x => x.rsvd || decide (2 ≤ x.space) || decide (9 ≤ x.fmt))
    || g.stages.any (fun t => t.kind == .prg && (g.program t).any badInstr)

/-- Stages of a kind. -/
def Chain.count (g : Chain) (k : StageKind) : Nat := (g.stages.filter (fun t => t.kind == k)).length

/-- The order of R106 after the load level: PAK and ST in pairs, no load. -/
def orderTail : List Stage → Bool
  | [] => true
  | a :: rest => match a.kind with
    | .ld | .exp | .st => false
    | .pak => (match rest with
      | b :: more => b.kind == .st && orderTail more
      | [] => false)
    | .cmp | .prg | .trn | .red => orderTail rest

/-- R105 and R106. -/
def Chain.inOrder (g : Chain) : Bool :=
  orderTail (g.stages.dropWhile (fun t => t.kind == .ld || t.kind == .exp))
    && decide (g.count .ld ≤ 4) && decide (g.count .cmp ≤ 1) && decide (g.count .prg ≤ 2) && decide (g.count .trn ≤ 2)
    && decide (g.count .red ≤ 2) && decide (g.count .pak ≤ 2) && decide (g.count .exp ≤ 1) && decide (g.count .st ≤ 2)

/-- Bytes to which addresses and strides of a format are aligned: `z`, or 1 for half-byte elements; MX blocks apart (R114). -/
def alignOf (f : Fmt) : Nat := max 1 (f.half / 2)

/-- Is one use of a stream inconsistent? (R114, step 2) -/
def Chain.badUse (g : Chain) (slots : List (Nat × ScaleSlot)) (u : StreamUse) : Bool :=
  let x := g.stream u.entry
  let f := x.form
  let dims := if u.role = .space then [1, 2, 3] else (List.range 4).filter (fun d => decide (g.segDims < d))
  let odd (k n : Nat) : Bool := n % k != 0
  let all (k : Nat) : Bool := odd k x.addr || odd k x.s1 || odd k x.s2 || odd k x.s3
  (x.turn && (if u.written then u.role != .perSegment else u.role != .space))
    || (u.written && (x.bcast0 || dims.any (fun d => x.stride d == 0 && decide (1 < g.extent d))))
    || (u.acc && !f.isPair) || (u.role == .perSegment && f != .p32i) || ((u.role == .compact || f.isMx) && x.bcast0)
    || (u.role == .compact && f.isMx)
    || (x.useSlot && !slotFits f (slotIn slots x.slot))
    || all (alignOf f) || odd (alignOf f) x.aux || (f.isMx && all (16 * f.half))
    || (!f.isMx && f != .p32s && x.aux != 0)

/-- Step 2 of R114. An EXP index stream is P32I as its count stream is. -/
def Chain.inconsistent (g : Chain) (addr : Nat) (slots : List (Nat × ScaleSlot)) : Bool :=
  addr % 64 != 0 || !g.inOrder
    || g.stages.any (fun t => t.kind == .prg && (t.p0 == 0 || decide (32 < t.p0)))
    || hasDup ((g.stages.filter (fun t => t.kind == .prg)).map (fun t => t.op))
    || decide (16777216 < g.segLen)
    || decide (1 < (g.named.filter (fun x => x.turn)).length)
    || decide (1 < (g.stages.filter (fun t => t.kind == .ld && (g.stream t.stream).turn)).length)
    || g.uses.any (g.badUse slots)
    || g.stages.any (fun t => t.kind == .exp && (g.stream (field t.p0 2 0)).form != .p32i)

/-- Step 3 of R114, with R200 and R351; the descriptor itself apart. -/
def Chain.beyond (g : Chain) (c : Ctx) (x : Queue) : Bool :=
  g.uses.any (fun u => (g.reach u).any (fun r =>
    if u.written then !outSpace c x r.space r.addr r.bytes else !inSpace c x r.space r.addr r.bytes))
    || g.named.any (fun y => y.useSlot && decide (c.scaleN ≤ y.slot))

/-- R539 for VECTOR. -/
def Chain.barred (g : Chain) (features : Nat) : Bool := !flag features fMxfp4 && g.named.any (fun x => x.fmt == 4)

/-! ### Elements -/

/-- An element on its way: its number in the iteration space, its number and its position in the segment at the stage, and the
lane record. `loaded` marks the registers that hold an unchanged load of a word format (R123). -/
structure Elem where
  idx : Nat
  num : Nat
  seg : Nat
  pos : Nat
  regs : List Word32
  loaded : List Bool
  deriving DecidableEq, Repr

/-- The canonical W32 of a word (R103). -/
def canon (w : Word32) : Word32 := if (w32Val w).isNan then w32Nan else w

/-- A register; one that nothing has written reads +0. -/
def Elem.reg (x : Elem) (i : Nat) : Word32 := x.regs.getD i 0

/-- Write a register. -/
def Elem.put (x : Elem) (i : Nat) (w : Word32) (loaded : Bool) : Elem :=
  { x with regs := x.regs.set i (canon w), loaded := x.loaded.set i loaded }

/-- The elements of an operation, as the load level begins. -/
def Chain.start (g : Chain) : List Elem :=
  (List.range g.elements).map (fun e =>
    { idx := e, num := e, seg := e / g.segLen, pos := e % g.segLen, regs := List.replicate 16 0, loaded := List.replicate 16 false })

/-- Draws of the Mint for an operation: the seed, the core, and the draws taken so far by lane (R53). -/
structure Draws where
  seed : Nat
  core : Nat
  taken : List (Nat × Nat)
  /-- the discarded beats of each re-issue: the first of them, and the draws that they spent by lane (R131) -/
  spent : List (Nat × List Nat) := []
  deriving DecidableEq, Repr

/-- The number of a lane's next draw, for an element of a beat: discarded draws before it are not reused (R131). -/
def Draws.number (d : Draws) (lane beat : Nat) : Nat :=
  sparse d.taken lane + ((d.spent.filter (fun x => decide (x.1 ≤ beat))).map (fun x => x.2.getD lane 0)).sum

/-- One 16-bit draw of the lane of an element. -/
def Draws.next (d : Draws) (num : Nat) : Draws × Nat :=
  let lane := num % 256
  let n := d.number lane (num / 256)
  ({ d with taken := setSparse d.taken lane (sparse d.taken lane + 1) }, (Config.mint d.seed d.core lane n).toNat)

/-- A sample of GAUSS: four draws, and a value within [−8, 8] that R119 does not fix (LOG 14). -/
def Draws.sample (d : Draws) (num : Nat) : Draws × Word32 :=
  let lane := num % 256
  let n := d.number lane (num / 256)
  let u := (Config.gauss d.seed d.core lane n).toNat
  ({ d with taken := setSparse d.taken lane (sparse d.taken lane + 4) }, BitVec.ofNat 32 (u % 2 ^ 31 % 0x41000001 + u / 2 ^ 31 * 2 ^ 31))

/-! ### Programs (R116–R119) -/

/-- The result of an arithmetic instruction; `c` is the third source. -/
def arith (opc cond : Nat) (a b c : Word32) : Word32 × Flags :=
  match opc with
  | 0x10 => w32Add a b
  | 0x11 => w32Sub a b
  | 0x12 => w32Mul a b
  | 0x13 => w32Fma a b c
  | 0x14 => w32Min a b
  | 0x15 => w32Max a b
  | 0x16 => (w32Abs a, .none)
  | 0x17 => (w32Neg a, .none)
  | 0x18 => let r := w32Cmp cond a b
            (if r.1 then w32One else 0, r.2)
  | 0x19 => (if (w32Val c).isZero then b else a, .none)
  | 0x1A => w32Rint a
  | 0x1B => w32Floor a
  | 0x1C => (w32CopySign a b, .none)
  | _ => w32Scale a b

/-- One instruction on one element. -/
def runInstr (g : Chain) (w : Nat) (acc : Elem × Draws × Flags) : Elem × Draws × Flags :=
  let x := acc.1
  let opc := field w 7 0
  let d := field w 11 8
  let cc := field w 23 20
  let src (i : Nat) (k : Bool) : Word32 := if k then g.consts.getD i 0 else x.reg i
  let a := src (field w 15 12) (flag w 24)
  let b := src (field w 19 16) (flag w 25)
  let c := src cc (flag w 26)
  match opc with
  | 0x00 => acc
  | 0x01 => (x.put d a (!flag w 24 && x.loaded.getD (field w 15 12) false), acc.2)
  | 0x20 => (x.put d (w32OfNat (g.index x.idx cc)) false, acc.2)
  | 0x21 => (x.put d (w32OfNat (x.num % 256)) false, acc.2)
  | 0x30 =>
    let t := acc.2.1.next x.num
    (x.put d (w32Round (.num false t.2 (-16))).1 false, t.1, acc.2.2)
  | 0x31 =>
    let t := acc.2.1.sample x.num
    (x.put d t.2 false, t.1, acc.2.2)
  | _ =>
    let r := arith opc cc a b c
    (x.put d r.1 false, acc.2.1, acc.2.2.or r.2)

/-- A program over the elements, in order. -/
def runProgram (g : Chain) (prog : List Nat) (xs : List Elem) (d : Draws) : List Elem × Draws × Flags :=
  xs.foldl (fun acc x =>
    let r := prog.foldl (fun a w => runInstr g w a) (x, acc.2.1, acc.2.2)
    (acc.1 ++ [r.1], r.2)) ([], d, .none)

/-! ### Reduce (R121, R122) -/

/-- A lane accumulator. -/
inductive Lane where
  | sum (p : Pair)
  | top (x : XVal)
  | arg (best : Option (XVal × Nat))
  | count (n : Nat)
  deriving DecidableEq, Repr

/-- The initial value of a function. -/
def laneStart (op : Nat) : Lane :=
  match op with
  | 0 | 1 => .sum .zero
  | 2 => .top (.inf true)
  | 3 => .top (.inf false)
  | 4 => .top (XVal.zero false)
  | 5 => .arg none
  | _ => .count 0

/-- Add to a partial sum; a sum that is NaN already stays so without a further flag. -/
def sumStep (p : Pair) (x : XVal) : Pair × Flags :=
  if p.val.isNan then (p, if x.isNan then .onlyNanIn else .none) else p.add x

/-- Keep one of two values: the larger under MAX, AMAX; the smaller under MIN; −0 below +0 (R63). -/
def pick (op : Nat) (a b : XVal) : XVal := if op = 3 then (if b.minOrder a then b else a) else (if a.minOrder b then b else a)

/-- Keep the larger value, and the lower index of equal ones. -/
def argBest (a b : Option (XVal × Nat)) : Option (XVal × Nat) :=
  match a, b with
  | none, y => y
  | x, none => x
  | some x, some y => if x.1.minOrder y.1 then some y else if y.1.minOrder x.1 then some x else if y.2 < x.2 then some y else some x

/-- The lane step. -/
def laneStep (op : Nat) (acc : Lane) (x : XVal) (pos : Nat) : Lane × Flags :=
  match acc with
  | .sum p => let r := sumStep p (if op = 1 then (x.mul x).1 else x)
              (.sum r.1, r.2)
  | .top y => if x.isNan then (.top y, .onlyNanIn) else (.top (pick op y (if op = 4 then x.abs else x)), .none)
  | .arg b => if x.isNan then (.arg b, .onlyNanIn) else (.arg (argBest b (some (x, pos))), .none)
  | .count n => (.count (if x.isZero then n else n + 1), .none)

/-- Combine two accumulators in the tree. -/
def laneJoin (op : Nat) (a b : Lane) : Lane × Flags :=
  match a, b with
  | .sum p, .sum q =>
    if p.val.isNan || q.val.isNan then (.sum (p32Round .nan).1, .none)
    else let r := p.add q.val
         (.sum r.1, r.2)
  | .top x, .top y => (.top (pick op x y), .none)
  | .arg x, .arg y => (.arg (argBest x y), .none)
  | .count m, .count n => (.count (m + n), .none)
  | x, _ => (x, .none)

/-- One level of the tree: adjacent results are combined. -/
def treeLevel (op : Nat) : List Lane → List Lane × Flags
  | a :: b :: rest =>
    let r := laneJoin op a b
    let t := treeLevel op rest
    (r.1 :: t.1, r.2.or t.2)
  | l => (l, .none)

/-- The eight levels of the tree. -/
def treeAll (op : Nat) : Nat → List Lane × Flags → List Lane × Flags
  | 0, l => l
  | n + 1, l => let t := treeLevel op l.1
                treeAll op n (t.1, l.2.or t.2)

/-- The pair of an accumulator at the end of a segment. -/
def Lane.result : Lane → Pair × Flags
  | .sum p => (p, .none)
  | .top x => p32Round x
  | .arg none => ((p32Round .nan).1, .none)
  | .arg (some b) => p32Round (.num false b.2 0)
  | .count n => p32Round (.num false n 0)

/-- Reduce the elements of one segment (R122). -/
def reduceSeg (op reg : Nat) (xs : List Elem) : Pair × Flags :=
  let init : List Lane × Flags := (List.replicate 256 (laneStart op), .none)
  let l := xs.foldl (fun (acc : List Lane × Flags) x =>
    let lane := x.num % 256
    let r := laneStep op (acc.1.getD lane (laneStart op)) (w32Val (x.reg reg)) x.pos
    (acc.1.set lane r.1, acc.2.or r.2)) init
  let t := treeAll op 8 l
  let r := (t.1.getD 0 (laneStart op)).result
  (r.1, t.2.or r.2)

/-! ### Compress (R125) -/

/-- Number the elements afresh: in their order over the operation, and within their segments. -/
def renumber : Nat → List (Nat × Nat) → List Elem → List Elem
  | _, _, [] => []
  | n, seen, x :: rest =>
    { x with num := n, pos := sparse seen x.seg } :: renumber (n + 1) (setSparse seen x.seg (sparse seen x.seg + 1)) rest

/-- The CMP stage: the kept elements, each with its index in the segment, numbered afresh. -/
def compress (t : Stage) (xs : List Elem) : List Elem :=
  let kept := xs.filter (fun x => !(w32Val (x.reg t.src)).isZero)
  renumber 0 [] (kept.map (fun x => x.put t.dst (w32OfNat x.pos) false))

/-! ### Round and pack (R65, R123, R124) -/

/-- Counts of the clamp step. -/
structure ClampCounts where
  nan : Nat := 0
  inf : Nat := 0
  fin : Nat := 0
  deriving DecidableEq, Repr

/-- The clamp step (R65). A zero beside a zero bound of the other sign is left as it is, without CLAMP: DESIGN CHOICE LOG 27, the spec does not
say whether max and min order the zeros here. -/
def clampVal (lo hi : XVal) (x : XVal) : XVal × Flags × ClampCounts :=
  let up (y : XVal) : XVal := if hi.isNan then y else if hi.lt y then hi else y
  let down (y : XVal) : XVal := if lo.isNan then y else if y.lt lo then lo else y
  match x with
  | .nan => (XVal.zero false, .onlyNanIn, { nan := 1 })
  | .inf _ =>
    let y := up (down x)
    if y.eqv x then (x, .none, {}) else (y, .onlyClamp, { inf := 1 })
  | .num .. =>
    let y := up (down x)
    if y.eqv x then (x, .none, {}) else (y, .onlyClamp, { fin := 1 })

/-- Narrow a quotient into an MX element: as Table 02-7, without OVF for saturation (R43). -/
def narrowMx (f : FloatFmt) (r : Rounding) (x : XVal) : Nat × Flags :=
  let w := narrow f r x
  (w.1, { w.2 with ovf := false })

/-- The scale of a block that holds finite values (R43). -/
def blockScale (f : Fmt) (xs : List XVal) : Nat :=
  let k := xs.foldl (fun (acc : Option Int) x => match x with
    | .num _ m e => if m = 0 then acc else some (max (floorLog2 m e) (acc.getD (floorLog2 m e)))
    | .nan | .inf _ => acc) none
  match k with
  | none => 0
  | some v => (max (-127) (min 127 (v - f.emax)) + 127).toNat

/-- A packed block: its scale and its words, one draw for each value (R43, R52). -/
def packBlock (f : Fmt) (xs : List (XVal × Nat)) : Nat × List Nat × Flags :=
  let vals := xs.map (fun x => x.1)
  if vals.any (fun x => x.isNan || x.isInf) then
    (0xFF, List.replicate 32 0, { nanIn := vals.any (fun x => x.isNan), ovf := vals.any (fun x => x.isInf) })
  else
    let sc := blockScale f vals
    let ws := xs.map (fun x => narrowMx f.elem (.sr x.2) (x.1.shift (127 - (sc : Int))))
    (sc, ws.map (fun w => w.1) ++ List.replicate (32 - ws.length) 0, Flags.orAll (ws.map (fun w => w.2)))

/-- Bytes of the words of a block. -/
def wordBytes (f : Fmt) (ws : List Nat) : Bytes :=
  match f.half with
  | 1 => (runsOf 2 ws.length ws).map (fun p => BitVec.ofNat 8 (p.getD 0 0 + 16 * p.getD 1 0))
  | 2 => ws.map (fun w => BitVec.ofNat 8 w)
  | 4 => ws.flatMap (toLe 2)
  | _ => ws.flatMap (toLe 4)

end Sys2Proof.Machine
end

