-- ==== Sys2Proof/Machine/VectorRun.lean ====
section
/-!
DEFINITION. Machine/VectorRun.lean: VECTOR: its loads, its stages in order, its stores, and the result word (R102–R132).
-/
namespace Sys2Proof.Machine

/-! ### Loads -/

/-- A stored row as read: its offset, its elements, its scales, its tails. -/
structure Row where
  off : Nat
  els : Bytes
  scales : Bytes
  tails : Bytes
  deriving DecidableEq, Repr

/-- Read a run of `n` elements of a stream at an offset, with its scales or tails. -/
def State.readRun (s : State) (e : Site) (x : Stream) (off n : Nat) : State × Except Status Row :=
  let f := x.form
  let a := s.readS e x.space (x.addr + off) (runBytes f n)
  match a.2 with
  | .error st => (a.1, .error st)
  | .ok els =>
    if f.isMx then
      let b := a.1.readS e x.space (x.addr + x.aux + off / f.scaleDiv) (ceilDiv n 32)
      (b.1, match b.2 with
            | .error st => .error st
            | .ok sc => .ok { off := off, els := els, scales := sc, tails := [] })
    else if f = .p32s then
      let b := a.1.readS e x.space (x.addr + x.aux + off) (runBytes f n)
      (b.1, match b.2 with
            | .error st => .error st
            | .ok tl => .ok { off := off, els := els, scales := [], tails := tl })
    else (a.1, .ok { off := off, els := els, scales := [], tails := [] })

/-- Read the stored rows of a stream in the iteration space; a row that several elements share is read once. -/
def State.readStream (s : State) (e : Site) (g : Chain) (x : Stream) : List Nat → State × Except Status (List Row)
  | [] => (s, .ok [])
  | o :: rest =>
    let t := s.readRun e x o (g.rowLength x)
    match t.2 with
    | .error st => (t.1, .error st)
    | .ok r =>
      let u := t.1.readStream e g x rest
      (u.1, match u.2 with
            | .error st => .error st
            | .ok l => .ok (r :: l))

/-- The value at a position of a row (R41, R44), divided by the scale of its slot (R57), as W32. DESIGN CHOICES LOG 27: a value that leaves the range
of W32 is rounded as IEEE 754 does, to an infinity with OVF; and the load of a NaN element raises no NAN_IN by itself. -/
def Row.value (r : Row) (f : Fmt) (slotExp : Int) (p : Nat) : Word32 × Flags :=
  let v := if f.isMx then mxVal f (elemWord f r.els p) (r.scales.getD (p / 32) 0).toNat
    else if f.isPair then (rowPair f r.els r.tails p).val
    else f.elem.decode (elemWord f r.els p)
  let w := w32Round (v.shift (-slotExp))
  (canon w.1, w.2)

/-- Exponent of the scale of a stream's slot. -/
def slotExpOf (slots : List (Nat × ScaleSlot)) (x : Stream) : Int :=
  if x.useSlot then (match slotIn slots x.slot with
    | some y => y.exp
    | none => 0) else 0

/-- The LD stage over the elements (R105, R111). -/
def State.runLd (s : State) (e : Site) (g : Chain) (slots : List (Nat × ScaleSlot)) (t : Stage) (xs : List Elem) :
    State × Except Status (List Elem × Flags) :=
  let x := g.stream t.stream
  let r := s.readStream e g x (g.rowOffsets x).eraseDups
  match r.2 with
  | .error st => (r.1, .error st)
  | .ok rows =>
    let vals := xs.map (fun y =>
      let pl := g.place x y.idx
      let row := (rows.find? (fun q => q.off == pl.1)).getD { off := 0, els := [], scales := [], tails := [] }
      let v := row.value x.form (slotExpOf slots x) pl.2
      (y.put t.dst v.1 x.form.isWord, v.2))
    (r.1, .ok (vals.map (fun v => v.1), Flags.orAll (vals.map (fun v => v.2))))

/-- The count of an EXP segment (R126): an integer within the segment, else rounded down and held, with INV. -/
def expCount (len : Nat) (x : XVal) : Nat × Flags :=
  match x with
  | .nan => (0, .onlyInv)
  | .inf n => (if n then 0 else len, .onlyInv)
  | .num n m e =>
    let (k, rem, _) := splitUnits m e 0
    if m = 0 then (0, .none)
    else if n then (0, .onlyInv)
    else if rem = 0 && k ≤ len then (k, .none) else (min k len, .onlyInv)

/-- The indices of an EXP segment: the place of each accepted one, and the number dropped (R126). -/
def expIndices (len : Nat) : Option Nat → Nat → List XVal → List (Nat × Nat) × Nat
  | _, _, [] => ([], 0)
  | last, k, x :: rest =>
    let good : Option Nat := match x with
      | .num n m e =>
        let (i, rem, _) := splitUnits m e 0
        if rem != 0 || (n && m != 0) || len ≤ i then none
        else (match last with
          | some l => if l < i then some i else none
          | none => some i)
      | .nan | .inf _ => none
    match good with
    | some i => let r := expIndices len (some i) (k + 1) rest
                ((i, k) :: r.1, r.2)
    | none => let r := expIndices len last (k + 1) rest
              (r.1, r.2 + 1)

/-- What EXP produces for one segment: the value of each named position. -/
def State.expSeg (s : State) (e : Site) (g : Chain) (slots : List (Nat × ScaleSlot)) (t : Stage) (seg : Nat) :
    State × Except Status (List (Nat × Word32) × Flags × Nat) :=
  let vx := g.stream t.stream
  let ix := g.stream (field t.p0 2 0)
  let cx := g.stream (field t.p0 6 4)
  let c := s.readRun e cx (g.base cx seg) 1
  match c.2 with
  | .error st => (c.1, .error st)
  | .ok cr =>
    let n := expCount g.segLen (rowPair .p32i cr.els [] 0).val
    let i := c.1.readRun e ix (g.base ix seg) n.1
    match i.2 with
    | .error st => (i.1, .error st)
    | .ok ir =>
      let v := i.1.readRun e vx (g.base vx seg) n.1
      match v.2 with
      | .error st => (v.1, .error st)
      | .ok vr =>
        let idx := expIndices g.segLen none 0 ((List.range n.1).map (fun k => (rowPair .p32i ir.els [] k).val))
        let vals := idx.1.map (fun p => (p.1, vr.value vx.form (slotExpOf slots vx) p.2))
        (v.1, .ok (vals.map (fun p => (p.1, p.2.1)),
          (Flags.orAll (vals.map (fun p => p.2.2))).or (n.2.or { inv := idx.2 != 0 }), idx.2))

/-- The EXP stage over the elements: segment by segment, in ascending order. -/
def State.runExp (s : State) (e : Site) (g : Chain) (slots : List (Nat × ScaleSlot)) (t : Stage) (xs : List Elem) :
    Nat → State × Except Status (List Elem × Flags × Nat)
  | 0 => (s, .ok (xs, .none, 0))
  | n + 1 =>
    let r := s.runExp e g slots t xs n
    match r.2 with
    | .error st => (r.1, .error st)
    | .ok (ys, f, drops) =>
      let q := r.1.expSeg e g slots t n
      match q.2 with
      | .error st => (q.1, .error st)
      | .ok (vals, f2, d) =>
        let zs := ys.map (fun y => if y.seg = n then y.put t.dst (match vals.find? (fun v => v.1 == y.pos) with
          | some v => v.2
          | none => BitVec.ofNat 32 t.p1) false else y)
        (q.1, .ok (zs, f.or f2, drops + d))

/-! ### Stages after the load level -/

/-- What an item of output puts at its element's address. -/
inductive Body where
  | bytes (l : List (Nat × Bytes))
  | pair (p : Pair)
  | accum (x : XVal)
  deriving DecidableEq, Repr

/-- An item of output, with its place in the order of elements and stages. -/
structure Item where
  key : Nat
  entry : Nat
  addr : Nat
  body : Body
  deriving DecidableEq, Repr

/-- The elements in flight and all that the operation has gathered. -/
structure Flow where
  xs : List Elem
  draws : Draws
  flags : Flags := {}
  clamps : ClampCounts := {}
  items : List Item := []
  kept : Nat := 0
  drops : Nat := 0
  /-- largest magnitude and overflow by slot (R57, R60) -/
  amax : List (Nat × Nat × Bool) := []
  deriving DecidableEq, Repr

/-- Add two clamp counts. -/
def ClampCounts.add (a b : ClampCounts) : ClampCounts := { nan := a.nan + b.nan, inf := a.inf + b.inf, fin := a.fin + b.fin }

/-- One P32I result per segment, after every element (R111). -/
def segItems (g : Chain) (entry stage : Nat) (ps : List Pair) : List Item :=
  let x := g.stream entry
  (List.zip (List.range ps.length) ps).map (fun ip =>
    { key := (g.elements + ip.1) * 32 + stage, entry := entry, addr := x.addr + g.base x ip.1, body := .pair ip.2 })

/-- A value as a PAK stage sees it: clamped. -/
def pakIn (t : Stage) (w : Word32) : XVal × Flags × ClampCounts :=
  if flag t.op 0 then clampVal (fmtBF16.decode (field t.p0 15 0)) (fmtBF16.decode (field t.p0 31 16)) (w32Val w) else (w32Val w, .none, {})

/-- Does the PAK stage convert this register with RNE? (R123) -/
def pakRne (t : Stage) (f : Fmt) (x : Elem) : Bool := f.isWord && x.loaded.getD t.src false && !flag t.op 2

/-- The address of an element of a PAK stream: in the iteration space, or compact after a CMP stage. -/
def Chain.pakAddr (g : Chain) (x : Stream) (compact : Bool) (y : Elem) : Nat :=
  if compact then x.addr + g.base x y.seg + y.pos * x.form.half / 2
  else let pl := g.place x y.idx
       x.addr + pl.1 + pl.2 * x.form.half / 2

/-- Pack one element to a word or a pair. DESIGN CHOICE LOG 27: an infinity that narrows to ±448 raises OVF (Table 02-7) and leaves `ovf_seen`, of
which R60 speaks for a value above the largest finite one. -/
def packOne (g : Chain) (t : Stage) (stage : Nat) (x : Stream) (slotExp : Int) (compact : Bool) (fl : Flow) (y : Elem) : Flow :=
  let v := pakIn t (y.reg t.src)
  let item (b : Body) : Item := { key := y.idx * 32 + stage, entry := t.stream, addr := g.pakAddr x compact y, body := b }
  let fl := { fl with flags := fl.flags.or v.2.1, clamps := fl.clamps.add v.2.2 }
  if x.form.isPair then
    if flag t.op 1 then { fl with items := item (.accum v.1) :: fl.items }
    else let p := p32Round v.1
         { fl with flags := fl.flags.or (p.2.or (if v.1.isNan then .onlyNanIn else .none)), items := item (.pair p.1) :: fl.items }
  else
    let d : Draws × Rounding := if pakRne t x.form y then (fl.draws, .rne)
      else let n := fl.draws.next y.num
           (n.1, .sr n.2)
    let w := narrow x.form.elem d.2 (v.1.shift slotExp)
    let bs := toLe (x.form.half / 2) w.1
    let ovf2 := w.2.ovf && (match v.1 with
      | .num .. => true
      | .nan | .inf _ => false)
    let amax := if x.useSlot then (match v.1 with
      | .num _ m e => (x.slot, bf16Ceil m e, ovf2) :: fl.amax
      | .nan | .inf _ => fl.amax) else fl.amax
    { fl with draws := d.1, flags := fl.flags.or w.2, amax := amax,
              items := item (.bytes [(g.pakAddr x compact y, bs)]) :: fl.items }

/-- Pack one block of a row to an MX stream (R43, R123). -/
def packMxBlock (g : Chain) (t : Stage) (stage : Nat) (x : Stream) (fl : Flow) (ys : List Elem) : Flow :=
  match ys with
  | [] => fl
  | y :: _ =>
    let f := x.form
    let pl := g.place x y.idx
    let r := ys.foldl (fun (acc : Flow × List (XVal × Nat)) z =>
      let v := pakIn t (z.reg t.src)
      let n := acc.1.draws.next z.num
      ({ acc.1 with draws := n.1, flags := acc.1.flags.or v.2.1, clamps := acc.1.clamps.add v.2.2 }, acc.2 ++ [(v.1, n.2)])) (fl, [])
    let b := packBlock f r.2
    let a := x.addr + pl.1 + pl.2 * f.half / 2
    let sa := x.addr + x.aux + pl.1 / f.scaleDiv + pl.2 / 32
    { r.1 with flags := r.1.flags.or b.2.2,
               items := { key := y.idx * 32 + stage, entry := t.stream, addr := a,
                          body := .bytes [(a, wordBytes f b.2.1), (sa, [BitVec.ofNat 8 b.1])] } :: r.1.items }

/-- The blocks of the rows of the iteration space. -/
def Chain.blocks (g : Chain) (xs : List Elem) : List (List Elem) :=
  (runsOf g.n0 xs.length xs).flatMap (fun row => runsOf 32 row.length row)

/-- One stage after the load level. -/
def runStage (g : Chain) (slots : List (Nat × ScaleSlot)) (compact : Bool) (stage : Nat) (t : Stage) (fl : Flow) : Flow :=
  match t.kind with
  | .cmp =>
    let ys := compress t fl.xs
    let counts := (List.range g.segments).map (fun k => (p32Round (.num false (ys.filter (fun y => y.seg == k)).length 0)).1)
    { fl with xs := ys, kept := ys.length, items := segItems g t.stream stage counts ++ fl.items }
  | .prg =>
    let r := runProgram g (g.program t) fl.xs fl.draws
    { fl with xs := r.1, draws := r.2.1, flags := fl.flags.or r.2.2 }
  | .trn =>
    let rs := fl.xs.map (fun y => (y, trn t.op (y.reg t.src)))
    { fl with xs := rs.map (fun r => r.1.put t.dst r.2.1 false), flags := fl.flags.or (Flags.orAll (rs.map (fun r => r.2.2))) }
  | .red =>
    let rs := (List.range g.segments).map (fun k => reduceSeg t.op t.src (fl.xs.filter (fun y => y.seg == k)))
    { fl with flags := fl.flags.or (Flags.orAll (rs.map (fun r => r.2))), items := segItems g t.stream stage (rs.map (fun r => r.1)) ++ fl.items }
  | .pak =>
    let x := g.stream t.stream
    if x.form.isMx then (g.blocks fl.xs).foldl (packMxBlock g t stage x) fl
    else fl.xs.foldl (packOne g t stage x (slotExpOf slots x) compact) fl
  | .ld | .exp | .st => fl

/-- The stages after the load level, in order. -/
def runStages (g : Chain) (slots : List (Nat × ScaleSlot)) : Bool → Nat → List Stage → Flow → Flow
  | _, _, [], fl => fl
  | compact, k, t :: rest, fl =>
    runStages g slots (compact || t.kind == .cmp) (k + 1) rest (runStage g slots compact k t fl)

/-- The load level: LD and EXP side by side (R106). DESIGN CHOICE LOG 27: of two stages that name one register the later in the chain prevails. -/
def State.loadLevel (s : State) (e : Site) (g : Chain) (slots : List (Nat × ScaleSlot)) : List Stage → Flow → State × Except Status Flow
  | [], fl => (s, .ok fl)
  | t :: rest, fl =>
    match t.kind with
    | .ld =>
      let r := s.runLd e g slots t fl.xs
      (match r.2 with
       | .error st => (r.1, .error st)
       | .ok (xs, f) => r.1.loadLevel e g slots rest { fl with xs := xs, flags := fl.flags.or f })
    | .exp =>
      let r := s.runExp e g slots t fl.xs g.segments
      (match r.2 with
       | .error st => (r.1, .error st)
       | .ok (xs, f, d) => r.1.loadLevel e g slots rest { fl with xs := xs, flags := fl.flags.or f, drops := fl.drops + d })
    | .cmp | .prg | .trn | .red | .pak | .st => (s, .ok fl)

/-! ### Stores -/

/-- The pair that stands at an address of a stream. -/
def State.readPair (s : State) (e : Site) (x : Stream) (addr : Nat) : State × Except Status Pair :=
  let r := s.readRun e x (addr - x.addr) 1
  (r.1, match r.2 with
        | .error st => .error st
        | .ok row => .ok (rowPair x.form row.els row.tails 0))

/-- Pairs written so far: entry, address, pair. -/
abbrev Overlay := List (Nat × Nat × Pair)

/-- Apply the items in order: pairs gather in the overlay, where an accumulating pack reads what stands (R124). -/
def State.applyItems (s : State) (e : Site) (g : Chain) : List Item → Overlay × List (Nat × Nat × Bytes) × Flags →
    State × Except Status (Overlay × List (Nat × Nat × Bytes) × Flags)
  | [], acc => (s, .ok acc)
  | it :: rest, (ov, ws, f) =>
    let x := g.stream it.entry
    let keep (p : Pair) : Overlay := (it.entry, it.addr, p) :: ov.filter (fun o => !(o.1 == it.entry && o.2.1 == it.addr))
    match it.body with
    | .bytes l => s.applyItems e g rest (ov, ws ++ l.map (fun b => (x.space, b.1, b.2)), f)
    | .pair p => s.applyItems e g rest (keep p, ws, f)
    | .accum v =>
      (match ov.find? (fun o => o.1 == it.entry && o.2.1 == it.addr) with
       | some o =>
         let r := o.2.2.add v
         s.applyItems e g rest (keep r.1, ws, f.or r.2)
       | none =>
         let q := s.readPair e x it.addr
         (match q.2 with
          | .error st => (q.1, .error st)
          | .ok p =>
            let r := p.add v
            q.1.applyItems e g rest (keep r.1, ws, f.or r.2)))

/-- The bytes of a pair in its stream. -/
def pairWrites (x : Stream) (addr : Nat) (p : Pair) : List (Nat × Nat × Bytes) :=
  if x.form = .p32s then [(x.space, addr, toLe 2 p.head.toNat), (x.space, addr + x.aux, toLe 2 p.tail.toNat)]
  else [(x.space, addr, toLe 4 p.word)]

/-- Join writes that follow one another; of two at one address the later stands. -/
def joinWrites : List (Nat × Nat × Bytes) → List (Nat × Nat × Bytes)
  | [] => []
  | w :: rest =>
    match joinWrites rest with
    | [] => [w]
    | v :: more =>
      if w.1 = v.1 ∧ w.2.1 = v.2.1 then v :: more
      else if w.1 = v.1 ∧ w.2.1 + w.2.2.length = v.2.1 then (w.1, w.2.1, w.2.2 ++ v.2.2) :: more
      else w :: v :: more

/-- Carry out writes; the first that is refused ends them. -/
def State.putWrites (s : State) (e : Site) : List (Nat × Nat × Bytes) → State × Option Status
  | [] => (s, none)
  | w :: rest =>
    let r := s.writeS e w.1 w.2.1 w.2.2
    match r.2 with
    | some st => (r.1, some st)
    | none => r.1.putWrites e rest

/-- Bytes of a written stream that another entry's stream reaches too (R115). -/
def Chain.overlapped (g : Chain) : List Region :=
  (g.uses.filter (fun u => u.written)).flatMap (fun u => (g.uses.filter (fun v => v.entry != u.entry)).flatMap (fun v =>
    (g.reach u).flatMap (fun a => ((g.reach v).filter (fun b => a.overlaps b)).map (fun b =>
      let lo := max a.addr b.addr
      { space := a.space, addr := lo, bytes := min (a.addr + a.bytes) (b.addr + b.bytes) - lo }))))

/-! ### The operation -/

/-- The vector result word (Table 04-14): bits [63:0] and bits [127:64]. -/
def vecWord (fl : Flow) (re : Nat) : Nat × Nat :=
  (fl.flags.word + hold 0xFFFF fl.clamps.nan * 2 ^ 16 + hold 0xFFFF fl.clamps.inf * 2 ^ 32 + hold 0xFFFF fl.clamps.fin * 2 ^ 48,
   hold 0xFFFFFF fl.kept + hold 0xFFFFFF fl.drops * 2 ^ 24 + hold 0xFF re * 2 ^ 48)

/-- The end of an operation that failed after it began (R128); what its partial work reports is unspecified. -/
def State.vecFails (s : State) (e : Site) (g : Chain) (r : Rec) (st : Status) (re : Nat) : State :=
  let s1 := s.scramble e g.outputs
  let t := s1.freeNat
  let u := t.1.freeNat
  let w0 := t.2 % 2 ^ 64
  u.1.endRec e.ctx e.queue r.seq r.iter st (w0 - field w0 15 6 * 64) (u.2 % 2 ^ 48 + hold 0xFF re * 2 ^ 48) true

/-- The draws of the Mint that a context's lanes of a core have taken. -/
def Ctx.drawsOn (c : Ctx) (core : Nat) : Draws :=
  { seed := c.seed, core := core, taken := (c.draws.filter (fun d => d.1 == core)).map (fun d => (d.2.1, d.2.2)) }

/-- Keep the draws, those of discarded beats with them. -/
def State.keepDraws (s : State) (id : Nat) (d : Draws) : State :=
  let all := ((List.range 256).map (fun l => (d.core, l, sparse d.taken l + (d.spent.map (fun x => x.2.getD l 0)).sum))).filter (fun x => x.2.2 != 0)
  s.modCtx id (fun c => { c with draws := all ++ c.draws.filter (fun x => x.1 != d.core) })

/-- Draws that one element takes at most: those of the programs, and one for each PAK. -/
def Chain.drawsPer (g : Chain) : Nat :=
  (g.stages.map (fun t => match t.kind with
    | .prg => ((g.program t).map (fun w => if field w 7 0 = 0x30 then 1 else if field w 7 0 = 0x31 then 4 else 0)).sum
    | .pak => 1
    | .ld | .cmp | .trn | .red | .exp | .st => 0)).sum

/-- Free numbers up to a bound. -/
def State.freeUpTo (s : State) (bound : Nat) : Nat → State × List Nat
  | 0 => (s, [])
  | n + 1 =>
    let a := s.freeNat
    let b := a.1.freeUpTo bound n
    (b.1, a.2 % (bound + 1) :: b.2)

/-- The discarded beats of `n` re-issues (R131): at each the failing beat and at most Λ behind it, whose draws are spent; which beats, and what
each lane had drawn in them, the spec does not fix (LOG 14). -/
def State.reissues (s : State) (g : Chain) : Nat → State × List (Nat × List Nat)
  | 0 => (s, [])
  | n + 1 =>
    let a := s.freeNat
    let b := a.1.freeUpTo ((g.latency + 1) * g.drawsPer) (if g.drawsPer = 0 then 0 else 256)
    let c := b.1.reissues g n
    (c.1, (a.2, b.2) :: c.2)

/-- The draws of a failed operation: what its lanes had drawn before it ended is spent, and the spec does not fix how much (R131, LOG 14). -/
def State.spendSome (s : State) (c : Ctx) (core : Nat) (g : Chain) (re : Nat) : State :=
  let b := s.freeUpTo ((ceilDiv g.elements 256 + (re + 1) * (g.latency + 1)) * g.drawsPer) (if g.drawsPer = 0 then 0 else 256)
  b.1.keepDraws c.id { c.drawsOn core with spent := [(0, b.2)] }

/-- Merge what was written through slots. -/
def State.mergeAmax (s : State) (id : Nat) (l : List (Nat × Nat × Bool)) : State :=
  ((l.map (fun x => x.1)).eraseDups).foldl (fun s slot =>
    let mine := l.filter (fun x => x.1 == slot)
    s.mergeSlot id slot ((mine.map (fun x => x.2.1)).foldl max 0) (mine.any (fun x => x.2.2))) s

/-- The operation itself, after its checks. -/
def State.runVector (s : State) (e : Site) (c : Ctx) (x : Queue) (r : Rec) (g : Chain) (slots : List (Nat × ScaleSlot)) : State :=
  let re := retries e.ups
  let s0 := (List.range re.1).foldl (fun s _ => s.fileCore e.core 2 .corrected .ok c x.number r.seq 1 (2 ^ 64)) s
  if re.2 then
    ((s0.fileCore e.core 2 .uncorrected .uncorrectable c x.number r.seq 1 (2 ^ 64)).spendSome c e.core g (re.1 + 1)).vecFails e g r
      .uncorrectable re.1
  else
    let d := s0.reissues g re.1
    let t := (d.1.scramble e g.overlapped).loadLevel e g slots g.stages { xs := g.start, draws := { c.drawsOn e.core with spent := d.2 } }
    match t.2 with
    | .error st => (t.1.spendSome c e.core g re.1).vecFails e g r st re.1
    | .ok fl0 =>
      let fl := runStages g slots false 0 g.stages fl0
      let a := t.1.applyItems e g (sortBy (fun (i : Item) => i.key) fl.items.reverse) ([], [], .none)
      match a.2 with
      | .error st => (a.1.spendSome c e.core g re.1).vecFails e g r st re.1
      | .ok (ov, ws, f) =>
        let all := ws ++ ov.flatMap (fun o => pairWrites (g.stream o.1) o.2.1 o.2.2)
        let u := a.1.putWrites e (joinWrites (sortBy (fun w => w.1 * 2 ^ 64 + w.2.1) all))
        match u.2 with
        | some st => (u.1.spendSome c e.core g re.1).vecFails e g r st re.1
        | none =>
          let w := vecWord { fl with flags := fl.flags.or f } re.1
          (((u.1.scramble e (if s.entangled c x r then g.outputs else g.overlapped)).mergeAmax e.ctx fl.amax).keepDraws e.ctx fl.draws).endRec
            e.ctx e.queue r.seq r.iter .ok w.1 w.2 true

/-- Read the parts of a chain descriptor that the engine reads (R108): the header, the stages, the streams that they name, the instructions of
their programs, the constants. The rest stands as zeros. -/
def State.readParts (s : State) (e : Site) (space addr : Nat) : List (Nat × Nat) → Bytes → State × Except Status Bytes
  | [], img => (s, .ok img)
  | p :: rest, img =>
    let d := s.readS e space (addr + p.1) p.2
    match d.2 with
    | .error st => (d.1, .error st)
    | .ok bs => d.1.readParts e space addr rest (img.take p.1 ++ bs ++ img.drop (p.1 + p.2))

/-- Read a chain descriptor, once (R108). -/
def State.readChain (s : State) (e : Site) (space addr : Nat) : State × Except Status Bytes :=
  let h := s.readParts e space addr [(0, 64)] (List.replicate 896 0)
  match h.2 with
  | .error st => (h.1, .error st)
  | .ok img =>
    let t := h.1.readParts e space addr [(64, 16 * (chainOf img).stages.length)] img
    match t.2 with
    | .error st => (t.1, .error st)
    | .ok img =>
      let g := chainOf img
      let count (op : Nat) : Nat := (g.stages.filter (fun t => t.kind == .prg && t.op == op)).foldl (fun n t => max n (min t.p0 32)) 0
      t.1.readParts e space addr ((((g.uses.map (fun u => u.entry)).eraseDups).map (fun i => (320 + 32 * i, 32)))
        ++ [(576, 4 * count 0), (704, 4 * count 1), (832, 64)]) img

/-- The checks of a chain after its slots are read: the status, or the no-op of R113. -/
def vecCheck (c : Ctx) (x : Queue) (addr : Nat) (g : Chain) (slots : List (Nat × ScaleSlot)) : Option (Option Status) :=
  firstOf [
    (slots.any (fun y => decide (3 ≤ y.2.fmt)), some .reservedSet),
    (g.nStages == 0 || g.n0 == 0 || g.n1 == 0 || g.n2 == 0 || g.n3 == 0, none),
    (g.inconsistent addr slots, some .badOperand),
    (g.beyond c x, some .extent)]

/-- The slots that a chain names, read; then what its checks say. -/
def State.vecSlots (s : State) (e : Site) (c : Ctx) (x : Queue) (r : Rec) (g : Chain) : State × Option (Chain × List (Nat × ScaleSlot)) :=
  let fin (s : State) (st : Status) (sig : Bool) : State × Option (Chain × List (Nat × ScaleSlot)) :=
    (s.endRec e.ctx e.queue r.seq r.iter st 0 0 sig, none)
  let t := s.namedSlots e.ctx e.ups c.scaleN ((g.named.filter (fun y => y.useSlot)).map (fun y => y.slot))
  match t.2 with
  | .error st => fin t.1 st false
  | .ok slots => match vecCheck c x (r.arg 47 0) g slots with
    | some (some st) => fin t.1 st true
    | some none => fin t.1 .ok true
    | none => (t.1, some (g, slots))

/-- What VECTOR does with a running record before any data moves (R114, R539, R543): it ends it, or hands on the chain and the
slots. A descriptor that no memory backs fails at step 2 or 3; one that was read when the operation started is not read again (R108). -/
def State.vecAdmit (s : State) (e : Site) (c : Ctx) (x : Queue) (r : Rec) : State × Option (Chain × List (Nat × ScaleSlot)) :=
  let addr := r.arg 47 0
  let space := r.arg 49 48
  let fin (s : State) (st : Status) (sig : Bool) : State × Option (Chain × List (Nat × ScaleSlot)) :=
    (s.endRec e.ctx e.queue r.seq r.iter st 0 0 sig, none)
  if r.chain.isSome then s.vecSlots e c x r (chainOf (r.chain.getD []))
  else if 2 ≤ space then fin s .reservedSet true
  else if !inSpace c x space addr 896 then
    fin s (if r.arg 511 50 != 0 then .reservedSet else if addr % 64 != 0 then .badOperand else .extent) true
  else
    let d := s.readChain e space addr
    match d.2 with
    | .error st => fin d.1 st false
    | .ok bs =>
      let g := chainOf bs
      -- the descriptor of a consortium context lies in the program region (R376)
      if g.barred r.features || !c.inProgram space addr 896 then fin d.1 .denied false
      else if r.arg 511 50 != 0 || g.reserved then fin d.1 .reservedSet true
      else (d.1.modRec e.ctx e.queue r.seq r.iter (fun y => { y with chain := some bs })).vecSlots e c x r g

/-- VECTOR (R102, R114, R132): in its turn on the engine; checked; with leave when it has more than 65,536 elements, and open
gates, it runs. -/
def doVector (id q seq iter : Nat) (ups : List Upset) (s : State) : State :=
  match s.running? id q seq iter .vector with
  | none => s
  | some (c, x, r) => match r.core with
    | none => s
    | some n =>
      if s.ahead n (fun op => op == .vector) r.order != 0 then s
      else
        let e : Site := { ctx := id, queue := q, core := n, ups := ups }
        if r.chain.isNone && c.heldReads [r.chainRegion] then s else
        let t := s.vecAdmit e c x r
        match t.2 with
        | none => t.1.repairRows
        | some (g, slots) =>
          if 65536 < g.elements && !r.leave then t.1.askLeave id q r n true
          else if s.starved c n (g.uses.flatMap g.reach) || s.gateClosed (tileOf n) || c.heldRelease g.outputs
              || c.heldReads (g.uses.flatMap g.reach) then t.1
          else
            -- the record as it stands, with the chain that was read
            let now := ((t.1.ctx? id).bind (fun d => d.queue? q)).bind (fun y => y.rec? seq iter)
            ((t.1.runVector e c x r g slots).wrote id q (now.getD r)).repairRows

/-- VECTOR. -/
def execVector (id q seq iter : Nat) (ups : List Upset) (s : State) : Host.Outcome State Fault Refusal :=
  .next (doVector id q seq iter ups s)

end Sys2Proof.Machine
end

