-- ==== Sys2Proof/Machine/Optim.lean ====
section
/-!
DEFINITION. Machine/Optim.lean: the arithmetic of the optimiser step (R236–R239), the tensors of a record, the end of a record's phase 1
(R240), and the step of a record on a lender (R246–R250).
-/
namespace Sys2Proof.Machine

/-! ### OPT_STEP payload -/

/-- The payload of OPT_STEP (Table 08-5). -/
structure OptArgs where
  table : Nat
  update : Bool
  clip : Bool
  dp : Bool
  first : Nat
  records : Nat
  fenceIn : Nat
  fenceOut : Nat
  inVal : Nat
  outVal : Nat
  norm : Nat
  step : Nat
  lr : Word32
  b1 : Word32
  b2 : Word32
  eps : Word32
  maxNorm : Word32
  bound : Word32
  scale : Word32
  sigma : Word32
  rsvd : Bool
  deriving DecidableEq, Repr

/-- A W32 field. -/
def word32 (w lo : Nat) : Word32 := BitVec.ofNat 32 (w >>> lo)

/-- The fields of a payload. -/
def optArgs (bs : Bytes) : OptArgs :=
  let w := ofLe (slice bs 0 96)
  { table := field w 47 0, update := flag w 48, clip := flag w 49, dp := flag w 50, first := field w 87 64, records := field w 111 88,
    fenceIn := field w 159 128, fenceOut := field w 191 160, inVal := field w 255 192, outVal := field w 319 256, norm := field w 367 320,
    step := field w 415 384, lr := word32 w 416, b1 := word32 w 448, b2 := word32 w 480, eps := word32 w 512, maxNorm := word32 w 544,
    bound := word32 w 576, scale := word32 w 608, sigma := word32 w 640,
    rsvd := anySet w 63 51 || anySet w 127 112 || anySet w 383 368 || anySet w 767 672 }

/-- Address of a record. -/
def recordAt (table i : Nat) : Nat := table + 128 * i

/-! ### Phase 0 (R236, Table 08-6) -/

/-- What a run of elements has gathered: draws of the Mint, flags, clamps, and magnitudes written through the slot. -/
structure Tallied where
  draws : Draws
  flags : Flags := {}
  clamps : ClampCounts := {}
  amax : Nat := 0
  ovf : Bool := false
  deriving DecidableEq, Repr

/-- Add flags. -/
def Tallied.flag (t : Tallied) (f : Flags) : Tallied := { t with flags := t.flags.or f }

/-- Clamp a value between bounds, counting (R65, Table 08-6). -/
def Tallied.clamp (t : Tallied) (lo hi x : XVal) : XVal × Tallied :=
  let c := clampVal lo hi x
  (c.1, { t with flags := t.flags.or c.2.1, clamps := t.clamps.add c.2.2 })

/-- One gradient element in phase 0: scaled exactly and held as a pair, cleaned, noised and held, written with p32_round. -/
def prepElem (q : OptArgs) (lane : Nat) (t : Tallied) (g : Pair) : Pair × Tallied :=
  let b := w32Val q.bound
  let x := (w32Val q.scale).mul g.val
  let p := p32Round x.1
  let c := (t.flag (x.2.or p.2)).clamp b.neg b p.1.val
  let n : XVal × Tallied :=
    if q.dp then
      let d := c.2.draws.sample lane
      let y := (c.1.add ((w32Val q.sigma).mul (w32Val d.2)).1).1
      ({ c.2 with draws := d.1 } : Tallied).clamp b.neg b y
    else c
  let r := p32Round n.1
  (r.1, n.2.flag r.2)

/-- A gradient in phase 0: the lane of element `e` is `e` mod 256 (DEDUCED LOG 35). -/
def prepAll (q : OptArgs) (t : Tallied) (gs : List Pair) : List Pair × Tallied :=
  let r := gs.foldl (fun (acc : List Pair × Tallied × Nat) g =>
    let x := prepElem q (acc.2.2 % 256) acc.2.1 g
    (x.1 :: acc.1, x.2, acc.2.2 + 1)) ([], t, 0)
  (r.1.reverse, r.2.1)

/-- The sum of squares of a record: lanes and tree as the SUMSQ reduction has them (Table 04-11; DEDUCED LOG 35). -/
def sumSquares (gs : List Pair) : Pair × Flags :=
  let l := gs.foldl (fun (acc : List Lane × Flags × Nat) g =>
    let lane := acc.2.2 % 256
    let r := laneStep 1 (acc.1.getD lane (laneStart 1)) g.val 0
    (acc.1.set lane r.1, acc.2.1.or r.2, acc.2.2 + 1)) (List.replicate 256 (laneStart 1), .none, 0)
  let t := treeAll 1 8 (l.1, l.2.1)
  let r := (t.1.getD 0 (laneStart 1)).result
  (r.1, t.2.or r.2)

/-- A list in an order that a number chooses. -/
def reorder {α : Type} [BEq α] : Nat → Nat → List α → List α
  | 0, _, _ => []
  | n + 1, k, l => match l[k % l.length]? with
    | some x => x :: reorder n (k / l.length) (l.eraseIdx (k % l.length))
    | none => []

/-! ### Phase 1 (R237–R239) -/

/-- 1 − b^t, rounded once to W32 (R238). -/
def biasFactor (b : Word32) (t : Nat) : Word32 :=
  let p : XVal := match w32Val b with
    | .num n m e => .num (n && t % 2 == 1) (m ^ t) (e * t)
    | x => x
  (w32Round ((XVal.ofInt 1 0 false).add p.neg).1).1

/-- What every element of a request shares: the clip factor, the hyperparameters and the bias factors. -/
structure Hyper where
  c : Word32
  step : Nat
  lr : Word32
  b1 : Word32
  b2 : Word32
  eps : Word32
  skip : Bool
  k1 : Word32
  k2 : Word32
  deriving DecidableEq, Repr

/-- The hyperparameters of a request under a clip factor. -/
def hyperOf (c : Word32) (skip : Bool) (step : Nat) (lr b1 b2 eps : Word32) : Hyper :=
  { c := c, skip := skip, step := step, lr := lr, b1 := b1, b2 := b2, eps := eps, k1 := biasFactor b1 step, k2 := biasFactor b2 step }

/-- The clip factor of R237, and whether the step is skipped: a skipped step forms its factor too, as the answer reports it. -/
def clipFactor (clip : Bool) (maxNorm : Word32) (sum : Pair) : Word32 × Bool :=
  (if !clip || sum.val.isZero then w32One else (w32Min w32One (w32Div maxNorm (w32Sqrt (w32Round sum.val).1).1).1).1,
    sum.val.isNan || sum.val.isInf)

/-- An element with its state: gradient and master pairs, moments as BF16 words. -/
structure OptElem where
  g : Pair
  w : Pair
  m : Nat
  v : Nat
  deriving DecidableEq, Repr

/-- The W32 of a BF16 word. -/
def ofBf16 (h : Nat) : Word32 := (w32Round (fmtBF16.decode h)).1

/-- A stochastic narrowing with one draw of a lane (R51, R52). -/
def Tallied.narrowSr (t : Tallied) (f : FloatFmt) (lane : Nat) (x : XVal) : Nat × Tallied :=
  let d := t.draws.next lane
  let w := narrow f (.sr d.2) x
  (w.1, { t with draws := d.1, flags := t.flags.or w.2 })

/-- The working copy of a master value: narrowed through `work_slot` in E4M3 or E5M2, or to BF16 (the last line of R238; R57). -/
def Tallied.work (t : Tallied) (workFmt : Nat) (slotExp : Int) (lane : Nat) (w : Pair) : Nat × Tallied :=
  match workFmt with
  | 2 => t.narrowSr fmtBF16 lane w.val
  | _ =>
    let d := t.draws.next lane
    let n := narrow (if workFmt = 0 then fmtE4M3 else fmtE5M2) (.sr d.2) (w.val.shift slotExp)
    let a := match w.val with
      | .num _ m e => bf16Ceil m e
      | .nan | .inf _ => 0
    let ovf2 := n.2.ovf && !w.val.isInf && !w.val.isNan
    (n.1, { t with draws := d.1, flags := t.flags.or n.2, amax := max t.amax a, ovf := t.ovf || ovf2 })

/-- Take a result and its flags. -/
def Tallied.use (t : Tallied) (r : Word32 × Flags) : Word32 × Tallied := (r.1, t.flag r.2)

/-- The update of one element (R238): new element, and its working copy. -/
def updateElem (h : Hyper) (p : Param) (slotExp : Int) (lane : Nat) (t : Tallied) (x : OptElem) : OptElem × Nat × Tallied :=
  let lrMul : Word32 := BitVec.ofNat 32 p.lrMul
  let wd : Word32 := BitVec.ofNat 32 p.wd
  let (g0, t) := t.use (w32Round x.g.val)
  let (g, t) := t.use (w32Mul h.c g0)
  let (m0, t) := t.use (w32Mul h.b1 (ofBf16 x.m))
  let prod := (w32Val wd).mul x.w.val
  let (wdw, t) := (t.flag prod.2).use (w32Round prod.1)
  let (ll, t) := t.use (w32Mul h.lr lrMul)
  if p.opt = 0 then
    let (o1, t) := t.use (w32Sub w32One h.b1)
    let (g1, t) := t.use (w32Mul o1 g)
    let (m, t) := t.use (w32Add m0 g1)
    let (v0, t) := t.use (w32Mul h.b2 (ofBf16 x.v))
    let (o2, t) := t.use (w32Sub w32One h.b2)
    let (g2, t) := t.use (w32Mul o2 g)
    let (g3, t) := t.use (w32Mul g2 g)
    let (v, t) := t.use (w32Add v0 g3)
    let (ms, t) := t.narrowSr fmtBF16 lane (w32Val m)
    let (vs, t) := t.narrowSr fmtBF16 lane (w32Val v)
    let (mh, t) := t.use (w32Div m h.k1)
    let (vh, t) := t.use (w32Div v h.k2)
    let (sq, t) := t.use (w32Sqrt vh)
    let (den, t) := t.use (w32Add sq h.eps)
    let (r, t) := t.use (w32Div mh den)
    let (sum, t) := t.use (w32Add r wdw)
    let (u, t) := t.use (w32Mul ll sum)
    finish t ms vs u
  else
    let (m, t) := t.use (w32Add m0 g)
    let (ms, t) := t.narrowSr fmtBF16 lane (w32Val m)
    let (sum, t) := t.use (w32Add m wdw)
    let (u, t) := t.use (w32Mul ll sum)
    finish t ms x.v u
where
  /-- The subtraction into the master copy, its clamp, and the working copy. -/
  finish (t : Tallied) (ms vs : Nat) (u : Word32) : OptElem × Nat × Tallied :=
    let d := x.w.val.add (w32Val u).neg
    let c := (t.flag d.2).clamp (fmtBF16.decode p.lo) (fmtBF16.decode p.hi) d.1
    let w := p32Round c.1
    let t := c.2.flag w.2
    let k := if p.workFmt = 3 then (0, t) else t.work p.workFmt slotExp lane w.1
    ({ g := .zero, w := w.1, m := ms, v := vs }, k.1, k.2)

/-- The elements of a record: new elements and working copies. -/
def updateAll (h : Hyper) (p : Param) (slotExp : Int) (t : Tallied) (xs : List OptElem) : List OptElem × List Nat × Tallied :=
  let r := xs.foldl (fun (acc : List OptElem × List Nat × Tallied × Nat) x =>
    let y := updateElem h p slotExp (acc.2.2.2 % 256) acc.2.2.1 x
    (y.1 :: acc.1, y.2.1 :: acc.2.1, y.2.2, acc.2.2.2 + 1)) ([], [], t, 0)
  (r.1.reverse, r.2.1.reverse, r.2.2.1)

/-! ### Tensors of a record -/

/-- `n` words of `k` bytes. -/
def wordsOf (k : Nat) : Nat → Bytes → List Nat
  | 0, _ => []
  | n + 1, bs => ofLe (bs.take k) :: wordsOf k n (bs.drop k)

/-- Bytes of words. -/
def bytesOf (k : Nat) (l : List Nat) : Bytes := l.flatMap (toLe k)

/-- The state planes of a record: head, tail, *m*, and *v* under AdamW: address and bytes. -/
def Param.planes (p : Param) : List (Nat × Nat) :=
  [(p.master, 2 * p.count), (p.master + p.tailOff, 2 * p.count), (p.mAddr, 2 * p.count)] ++ (if p.opt = 0 then [(p.vAddr, 2 * p.count)] else [])

/-- Elements from the planes of a record and its gradient. -/
def elemsOf (p : Param) (grad : List Pair) (planes : List Bytes) : List OptElem :=
  let ws := planes.map (wordsOf 2 p.count)
  let at_ (k i : Nat) : Nat := (ws.getD k []).getD i 0
  (List.zip (List.range p.count) grad).map (fun x =>
    { g := x.2, w := { head := BitVec.ofNat 16 (at_ 0 x.1), tail := BitVec.ofNat 16 (at_ 1 x.1) }, m := at_ 2 x.1, v := at_ 3 x.1 })

/-- The planes of a record from its elements. -/
def planesOf (p : Param) (xs : List OptElem) : List Bytes :=
  [bytesOf 2 (xs.map (fun x => x.w.head.toNat)), bytesOf 2 (xs.map (fun x => x.w.tail.toNat)), bytesOf 2 (xs.map (fun x => x.m))]
    ++ (if p.opt = 0 then [bytesOf 2 (xs.map (fun x => x.v))] else [])

/-- Read several regions of context space; the first failure ends the reads. -/
def State.readAll (s : State) (e : Site) : List (Nat × Nat) → State × Except Status (List Bytes)
  | [] => (s, .ok [])
  | r :: rest =>
    let t := s.readS e 0 r.1 r.2
    match t.2 with
    | .error st => (t.1, .error st)
    | .ok bs =>
      let u := t.1.readAll e rest
      (u.1, match u.2 with
            | .error st => .error st
            | .ok l => .ok (bs :: l))

/-- Write several regions of context space; the first failure ends the writes. -/
def State.writeAll (s : State) (e : Site) : List (Nat × Bytes) → State × Option Status
  | [] => (s, none)
  | r :: rest =>
    let t := s.writeS e 0 r.1 r.2
    match t.2 with
    | some st => (t.1, some st)
    | none => t.1.writeAll e rest

/-- The scale exponent of a record's working copy. -/
def State.workExp (s : State) (id : Nat) (p : Param) : Int := if p.workFmt < 2 then (s.peekSlot id p.workSlot).exp else 0

/-! ### The end of a record's phase 1 (R240) -/

/-- Change the run of an OPT_STEP. -/
def State.modRun (s : State) (id tag : Nat) (f : OptRun → OptRun) : State :=
  s.modCtx id (fun c =>
    let on (o : OptReq) : OptReq := if o.tag = tag ∧ o.kind ≠ 2 then { o with run := o.run.map f } else o
    { c with opt := c.opt.map on })

/-- Add what a record counted (Table 08-7). -/
def OptRun.count (r : OptRun) (c : ClampCounts) (flags : Nat) : OptRun :=
  { r with nan := hold 0xFFFFFFFF (r.nan + c.nan), inf := hold 0xFFFFFFFF (r.inf + c.inf), fin := hold 0xFFFFFFFF (r.fin + c.fin),
           flags := r.flags ||| flags }

/-- Signal the work fence of a record (R240, step 3); a refusal marks the request (R235). Its tensors are the driver's again (R241). -/
def State.signalWork (s : State) (id tag va : Nat) (p : Param) (step : Nat) : State :=
  let s0 := s.modCtx id (fun c => { c with guarded := c.guarded.filter (fun g => g.va != va) })
  if p.workFence = 0 then s0
  else
    let t := s0.signal id p.workFence step
    if t.2.isSome then t.1.modRun id tag (fun r => { r with regressed := true }) else t.1

/-- Steps 1 to 3 of R240 for a record that has been written: the slot advances, and the fence is signalled, unless the audit holds it
(R472). -/
def State.endRecord (s : State) (id tag : Nat) (p : Param) (table step idx : Nat) (slot held : Bool) : State :=
  let s1 := if slot && decide (p.workFmt < 2) then s.advanceSlot id p.workSlot else s
  let s2 := s1.modRun id tag (fun r => { r with finished := r.finished + 1, audit := if held then r.audit ++ [idx] else r.audit })
  if held then s2 else s2.signalWork id tag (recordAt table idx) p step

/-! ### Records on a lender: the borrower's side (R246–R250) -/

/-- The lease on which every state page of a record lies, if there is one (R247). DESIGN CHOICE LOG 34: a record whose gradient is larger than
what R249 allows in staging could never be shipped; it is updated here. -/
def State.leaseOf (s : State) (c : Ctx) (p : Param) : Option Lease :=
  let slots := p.statePages.map (fun v => match c.page? v with
    | some g => g.lease.map (fun f => (f - 2 ^ 25) / 512)
    | none => none)
  match slots with
  | some k :: _ => if p.count != 0 && decide (4 * p.count ≤ 2 ^ 28) && slots.all (fun x => x == some k) then
      s.links.leases.find? (fun l => l.slot == k && l.ctx == c.id && !l.broken) else none
  | _ => none

/-- The name of a record in the exchange (LOG 34). -/
def shipName (va : Nat) : Nat := va / 64 % 2 ^ 32

/-- Bytes of gradient that a context has in the staging of a lender (R249). -/
def State.stagedBytes (s : State) (c : Ctx) (lender : Nat) : Nat :=
  ((c.shipped.filter (fun x => !x.lost && s.links.leases.any (fun l => l.slot == x.slot && l.lender == lender))).map
    (fun x => 4 * (paramOf x.image).count)).sum

/-- Send a contribution of a shipping exchange (R267, R293; LOG 34): frames of 4 KiB, the last with the tally. -/
def State.sendBulk (s : State) (ctx : Option Nat) (dest id gen name : Nat) (data : Bytes) : State :=
  (List.range (ceilDiv data.length 4096)).foldl (fun s i =>
    let last := i + 1 == ceilDiv data.length 4096
    s.sendR ctx dest { iop := 1, group := id, gen := gen, inst := name, off := i * 16, last := last,
                       tally := if last then tally data else 0, data := (data.drop (i * 4096)).take 4096 }) s

/-- OPT_SHIP (Table 08-8, order 1): the record, where its state pages lie in the lease, and the gradient as a contribution. -/
def State.shipRecord (s : State) (c : Ctx) (l : Lease) (va : Nat) (image grad : Bytes) : State :=
  let pages := (paramOf image).statePages.map (fun v => (v, match c.page? v with
    | some g => (g.lease.getD 0) - leaseFrame l.slot 0
    | none => 0))
  let msg := toLe 4 (shipName va) ++ image ++ toLe 4 pages.length ++ pages.flatMap (fun x => toLe 4 x.1 ++ toLe 2 x.2)
  ((s.sendLeaseCtrl l.lender .optShip l.id l.gen msg).sendBulk (some l.ctx) l.lender l.id l.gen (shipName va) grad).modCtx c.id (fun d =>
    { d with shipped := d.shipped.filter (fun x => x.va != va) ++ [{ va := va, image := image, slot := l.slot }] })

/-- The record of a context that an exchange names. -/
def Ctx.shippedAs (c : Ctx) (slot name : Nat) : Option Shipped := c.shipped.find? (fun x => shipName x.va == name && x.slot == slot && !x.lost)

/-- The core on which a record's accumulation region lies (R230). -/
def Ctx.gradHome (c : Ctx) (p : Param) : Nat := ((c.queue? p.gradQueue).bind (fun x => x.home)).getD 0

/-- Order 3 of Table 08-8: the gradient is in staging, and the record's own is zeroed. -/
def State.shipAcked (s : State) (l : Lease) (name : Nat) : State :=
  match s.ctx? l.ctx with
  | none => s
  | some c => match c.shippedAs l.slot name with
    | none => s
    | some x =>
      if x.acked then s
      else
        let p := paramOf x.image
        ((s.writeS { ctx := c.id, queue := p.gradQueue, core := c.gradHome p, ups := [] } p.gradSpace p.gradAddr (List.replicate (4 * p.count) 0)).1).modCtx
          c.id (fun d => { d with shipped := d.shipped.map (fun y => if y.va = x.va then { y with acked := true } else y) })

/-- RETRY of a gradient (R293): it is read and sent once more. A second one loses the record (DEDUCED LOG 34). -/
def State.shipRetried (s : State) (l : Lease) (name : Nat) : State :=
  match s.ctx? l.ctx with
  | none => s
  | some c => match c.shippedAs l.slot name with
    | none => s
    | some x =>
      let p := paramOf x.image
      let on (f : Shipped → Shipped) (s : State) : State :=
        s.modCtx c.id (fun d => { d with shipped := d.shipped.map (fun y => if y.va = x.va then f y else y) })
      if x.resent then on (fun y => { y with lost := true }) s
      else
        let r := s.readS { ctx := c.id, queue := p.gradQueue, core := c.gradHome p, ups := [] } p.gradSpace p.gradAddr (4 * p.count)
        match r.2 with
        | .error _ => on (fun y => { y with lost := true }) r.1
        | .ok bs => (on (fun y => { y with resent := true }) r.1).sendBulk (some l.ctx) l.lender l.id l.gen name bs

/-- Is the record of an address audited on this request? (R472) -/
def Ctx.audited (c : Ctx) (q : OptArgs) (va : Nat) : Bool := match c.audit with
  | [every, _, _, table, first, n] =>
    q.update && every != 0 && decide (q.step % every = 0) && decide (recordAt table first ≤ va) && decide (va < recordAt table (first + n))
      && decide ((va - table) % 128 = 0)
  | _ => false

/-- Step 7 of Table 08-8: the working copy is written, its magnitude merged, and R240 follows. A copy that fails to be written, or that the
lender marks as failed, fails the record (R250; DEDUCED LOG 34). -/
def State.returned (s : State) (slot name : Nat) (msg work : Bytes) : State :=
  match s.links.leases.find? (fun l => l.slot == slot) with
  | none => s
  | some l => match s.ctx? l.ctx with
    | none => s
    | some c => match c.shippedAs slot name, c.opt.find? (fun o => match o.run with
        | some r => r.away.any (fun a => a.2 == slot && shipName (recordAt (optArgs o.payload).table a.1) == name)
        | none => false) with
      | some x, some o =>
        let va := x.va
        let q := optArgs o.payload
        let idx := (va - q.table) / 128
        let p := match o.run with
          | some r => r.param q.first idx
          | none => paramOf x.image
        let w := ofLe (slice msg 0 24)
        let bad := flag w 144
        let none_ := work.isEmpty
        let held := c.audited q va
        let skipped := match o.run with
          | some r => r.skipped
          | none => false
        let s1 := s.modCtx c.id (fun d => { d with shipped := d.shipped.filter (fun x => x.va != va) })
        let s2 := s1.modRun c.id o.tag (fun r =>
          { r.count { nan := field w 31 0, inf := field w 63 32, fin := field w 95 64 } (field w 103 96) with
            away := r.away.filter (fun a => a.1 != idx), shippedN := r.shippedN + 1, ran := r.ran ++ [(idx, 65536 + l.lender)],
            failed := r.failed || bad })
        -- the lender's update leaves what the lender's memory holds (LOG 34)
        let s3 := if none_ then s2 else p.planes.foldl (fun s g =>
          let t := s.freeBytes g.2
          t.1.pokeV c.id g.1 t.2) s2
        let t := if none_ || bad then (s3, none) else if p.workFmt = 3 then (s3.pokeV c.id p.master work, none)
          else s3.writeV c.id none [] p.workAddr work
        if bad then t.1
        else if t.2.isSome then t.1.modRun c.id o.tag (fun r => { r with failed := true })
        else
          let s4 := if p.workFmt < 2 && !none_ then t.1.mergeSlot c.id p.workSlot (field w 135 120) (flag w 136) else t.1
          s4.endRecord c.id o.tag p q.table q.step idx (!skipped) held
      | _, _ => s

/-- A message of OPT_RETURN and its working copy have both come: the record is back. A copy whose tally disagrees is asked for again (R293). -/
def State.tryReturn (s : State) (slot name : Nat) : State :=
  match s.links.leases.find? (fun l => l.slot == slot) with
  | none => s
  | some l => match l.returns.find? (fun x => x.1 == name) with
    | none => s
    | some (_, msg) =>
      let n := ofLe (slice msg 20 4)
      let bulk := ((l.bulk.find? (fun x => x.1 == name)).map (fun x => x.2)).getD []
      if bulk.length < n then s
      else (s.modLease slot (fun l => { l with returns := l.returns.filter (fun x => x.1 != name), bulk := l.bulk.filter (fun x => x.1 != name) })).returned
        slot name msg bulk

/-! ### Records on a lender: the lender's side -/

/-- The frames of the lease that an OPT_SHIP names: virtual page, frame. -/
def Lent.pagesOf (x : Lent) : Nat → Bytes → List (Nat × Nat)
  | 0, _ => []
  | n + 1, bs => (ofLe (slice bs 0 4), x.frames.getD (ofLe (slice bs 4 2)) 0) :: x.pagesOf n (bs.drop 6)

/-- Read a region of the borrower's space from the lender's frames; none when a block is poisoned. -/
def State.readLent (s : State) (pages : List (Nat × Nat)) (va n : Nat) : Option Bytes :=
  let ps := piecesOf va n
  let frame (v : Nat) : Option Nat := (pages.find? (fun x => x.1 == v)).map (fun x => x.2)
  if ps.all (fun x => match frame x.1 with
    | some f => (s.mem.poisonIn (.hbm f) x.2.1 x.2.2).isEmpty
    | none => false) then
    some (ps.flatMap (fun x => readCells s.mem.cells (physAt ((frame x.1).getD 0) x.2.1) x.2.2))
  else none

/-- Write a region of the borrower's space to the lender's frames, under the guest's key (R217, R393). -/
def State.writeLent (s : State) (x : Lent) (pages : List (Nat × Nat)) (va : Nat) (bs : Bytes) : State :=
  ((piecesOf va bs.length).foldl (fun (acc : State × Bytes) pc =>
    let f := ((pages.find? (fun y => y.1 == pc.1)).map (fun y => y.2)).getD 0
    let p : Page := { va := 0, hbm := some f }
    let s1 := (cutAt 256 (pc.2.2 / 256 + 2) pc.2.1 (acc.2.take pc.2.2)).foldl (fun s y => (s.writeBlock x.guestCtx p [] f y.1 y.2).1) acc.1
    (s1, acc.2.drop pc.2.2)) (s, bs)).1

/-- The scale exponent that an OPT_CLIP gives a record, if the clip serves it (LOG 34). -/
def clipExp (name : Nat) : Nat → Bytes → Option Int
  | 0, _ => none
  | n + 1, bs => if ofLe (slice bs 0 4) = name then some ((ofLe (slice bs 4 1) : Int) - 127) else clipExp name n (bs.drop 5)

/-- Change the frames lent under an id. -/
def State.modLent (s : State) (id : Nat) (f : Lent → Lent) : State :=
  s.modLinks (fun l => { l with lent := l.lent.map (fun y => if y.id = id then f y else y) })

/-- Answer a record with OPT_RETURN: its counts, the flags, the magnitude, and the working copy as a contribution, kept until its ACK. -/
def State.sendReturn (s : State) (x : Lent) (name : Nat) (t : Tallied) (bad : Bool) (work : Bytes) : State :=
  let msg := toLe 4 t.clamps.nan ++ toLe 4 t.clamps.inf ++ toLe 4 t.clamps.fin ++ toLe 3 t.flags.word ++ toLe 2 t.amax ++ toLe 1 t.ovf.toNat
    ++ toLe 1 bad.toNat ++ toLe 1 0 ++ toLe 4 work.length
  ((s.sendLeaseCtrl x.borrower .optReturn x.id x.gen (toLe 4 name ++ msg)).sendBulk none x.borrower x.id x.gen name work).modLent x.id (fun y =>
    { y with back := y.back.filter (fun z => z.1 != name) ++ (if work.isEmpty then [] else [(name, work)]) })

/-- Free frames of tier SRAM, `n` of them, for a gradient in staging. -/
def State.freeStaging (s : State) (n : Nat) : List Nat :=
  ((((List.range 96).flatMap (fun k => (List.range 256).map (tierFrame k))).filter
    (fun f => !s.mem.tierUse.contains f && !s.mem.tierRetired.contains f)).take n)

/-- Order 2 of Table 08-8: a gradient that has come whole is placed in tier SRAM and acknowledged; it waits for frames. -/
def State.placeStaged (s : State) (x : Lent) (y : Staged) : State :=
  let n := ceilDiv y.data.length pageSize
  let fs := s.freeStaging n
  if y.tally.isNone || !y.frames.isEmpty || decide (fs.length < n) then s
  else
    let s1 := (fs.foldl (fun s f => s.takeTier f) s).modCells (fun cs =>
      ((List.range n).zip fs).foldl (fun cs p => writeCells cs (physAt p.2 0) ((y.data.drop (p.1 * pageSize)).take pageSize)) cs)
    (s1.modLent x.id (fun z => { z with staging := z.staging.map (fun w =>
      if w.name = y.name then { w with frames := fs, bytes := y.data.length, data := [] } else w) })).sendR none x.borrower
        { iop := 3, group := x.id, gen := x.gen, inst := y.name }

/-- The bytes of a gradient in tier SRAM. -/
def State.stagedGrad (s : State) (y : Staged) : Bytes := (y.frames.flatMap (fun f => readCells s.mem.cells (physAt f 0) pageSize)).take y.bytes

/-- Order 5: the staging of a record is free. -/
def State.dropStaged (s : State) (id : Nat) (ys : List Staged) : State :=
  (ys.flatMap (fun y => y.frames)).foldl (fun s f => s.dropTier f)
    (s.modLent id (fun z => { z with staging := z.staging.filter (fun w => !ys.any (fun y => y.name == w.name)) }))

/-- Update one record in a lease's guest context (Table 08-8, orders 5 and 6). The draws are those of the guest's Mint, with a seed of its
own (LOG 34). -/
def State.updateLent (s : State) (x : Lent) (y : Staged) (ship : Bytes) (slotExp : Int) : State :=
  let name := y.name
  let grad := s.stagedGrad y
  let p := paramOf (slice ship 4 128)
  let pages := x.pagesOf (ofLe (slice ship 132 4)) (ship.drop 136)
  let w := ofLe (slice x.clip 0 25)
  let h := hyperOf (word32 w 0) (flag w 192) (field w 63 32) (word32 w 64) (word32 w 96) (word32 w 128) (word32 w 160)
  let drop (s : State) : State := (s.dropStaged x.id [y]).modLent x.id (fun y =>
    { y with ships := y.ships.filter (fun z => z.1 != name), clipLeft := y.clipLeft - 1, clip := if y.clipLeft ≤ 1 then [] else y.clip })
  let seed := s.freeNat
  let t0 : Tallied := { draws := { seed := seed.2, core := (s.placeable.head?).getD 0, taken := [] } }
  if h.skip || p.frozen then (drop seed.1).sendReturn x name t0 false []
  else
    let planes := p.planes.map (fun g => s.readLent pages g.1 g.2)
    if planes.any (fun b => b.isNone) then (drop seed.1).sendReturn x name t0 true []
    else
      let gs := (wordsOf 4 p.count grad).map Pair.ofWord
      let r := updateAll h p slotExp t0 (elemsOf p gs (planes.map (fun b => b.getD [])))
      let s1 := (List.zip p.planes (planesOf p r.1)).foldl (fun s y => s.writeLent x pages y.1.1 y.2) seed.1
      (drop s1).sendReturn x name r.2.2 false (if p.workFmt = 3 then planesOf p r.1 |>.headD [] else bytesOf p.workBytes r.2.1)

/-- Place what waits for staging, and update every shipped record of a lease whose gradient is in staging and that a clip serves. -/
def State.serveShips (s : State) (id : Nat) : Nat → State
  | 0 => s
  | fuel + 1 =>
    let s : State := match s.links.lent.find? (fun x => x.id == id) with
      | some x => x.staging.foldl (fun (s : State) (y : Staged) => s.placeStaged x y) s
      | none => s
    match s.links.lent.find? (fun x => x.id == id) with
    | none => s
    | some x =>
      let n := ofLe (slice x.clip 25 4)
      let ready := x.ships.findSome? (fun y =>
        let p := paramOf (slice y.2 4 128)
        match clipExp y.1 n (x.clip.drop 29), x.staging.find? (fun z => z.name == y.1) with
        | some e, some g => if x.clipLeft != 0 && !g.frames.isEmpty && g.bytes == 4 * p.count then some (y.2, g, e) else none
        | _, _ => none)
      match ready with
      | none => s
      | some (ship, g, e) => (s.updateLent x g ship e).serveShips id fuel

/-- A frame of a gradient on its way into staging: the first of it starts anew. -/
def Staged.take (y : Staged) (i : Inner) : Staged :=
  { y with data := (if i.off = 0 then [] else y.data) ++ i.data, tally := if i.last then some i.tally else none }

/-- Bulk data of a shipping exchange: a gradient for the lender's staging, or a working copy for the borrower (R248, R267). Its tally is held
against the one that came with its last frame: ACK or RETRY follows (R293). -/
def State.takeBulk (s : State) (d : Delivered) : State :=
  let i := d.inner
  match s.links.lent.find? (fun x => x.id == i.group && x.gen == i.gen && x.borrower == d.src) with
  | some x =>
    let y := ((x.staging.find? (fun z => z.name == i.inst)).getD { name := i.inst })
    if !y.frames.isEmpty then s
    else
      let z := y.take i
      let put (z : List Staged) (s : State) : State :=
        s.modLent x.id (fun l => { l with staging := l.staging.filter (fun w => w.name != i.inst) ++ z })
      if i.last && tally z.data != i.tally then (put [] s).sendR none x.borrower { iop := 4, group := x.id, gen := x.gen, inst := i.inst }
      else (put [z] s).serveShips x.id 1024
  | none => match s.links.leases.find? (fun x => x.id == i.group && x.gen == i.gen && x.lender == d.src) with
    | none => s.countStale d.port
    | some l =>
      let had := ((l.bulk.find? (fun y => y.1 == i.inst)).map (fun y => y.2)).getD []
      let data := (if i.off = 0 then [] else had) ++ i.data
      let put (z : List (Nat × Bytes)) (s : State) : State :=
        s.modLease l.slot (fun x => { x with bulk := x.bulk.filter (fun y => y.1 != i.inst) ++ z })
      let reply (op : Nat) (s : State) : State := s.sendR (some l.ctx) l.lender { iop := op, group := l.id, gen := l.gen, inst := i.inst }
      if !i.last then put [(i.inst, data)] s
      else if tally data != i.tally then reply 4 (put [] s)
      else reply 3 ((put [(i.inst, data)] s).tryReturn l.slot i.inst)

/-- ACK of a contribution of a shipping exchange: a gradient is in staging, or a working copy has arrived. -/
def State.bulkAcked (s : State) (d : Delivered) : State :=
  let i := d.inner
  match s.links.leases.find? (fun x => x.id == i.group && x.gen == i.gen && x.lender == d.src && !x.broken) with
  | some l => s.shipAcked l i.inst
  | none => s.modLent i.group (fun y => if y.gen = i.gen ∧ y.borrower = d.src then { y with back := y.back.filter (fun z => z.1 != i.inst) } else y)

/-- RETRY of one: it goes again (R293). -/
def State.bulkRetried (s : State) (d : Delivered) : State :=
  let i := d.inner
  match s.links.leases.find? (fun x => x.id == i.group && x.gen == i.gen && x.lender == d.src && !x.broken) with
  | some l => s.shipRetried l i.inst
  | none => match (s.links.lent.find? (fun y => y.id == i.group && y.gen == i.gen && y.borrower == d.src)).bind (fun y =>
      (y.back.find? (fun z => z.1 == i.inst)).map (fun z => (y, z.2))) with
    | some (y, bs) => s.sendBulk none y.borrower y.id y.gen i.inst bs
    | none => s.countDiscard d.port

/-- Is a DATA frame part of a shipping exchange? -/
def State.isBulk (s : State) (d : Delivered) : Bool :=
  s.links.lent.any (fun x => x.id == d.inner.group && x.gen == d.inner.gen && x.borrower == d.src)
    || s.links.leases.any (fun x => x.id == d.inner.group && x.gen == d.inner.gen && x.lender == d.src && !x.broken)

end Sys2Proof.Machine
end

