-- ==== Sys2Proof/Machine/Collectives.lean ====
section
/-!
DEFINITION. Machine/Collectives.lean: collective groups (R278–R281), instances (R284–R297), contributions and their tallies
(R293), the vote and its repair (R294, R470, R471).
-/
namespace Sys2Proof.Machine

/-! ### Groups -/

/-- A group of a context. -/
def State.group? (s : State) (ctx gid : Nat) : Option Group := s.links.groups.find? (fun g => g.ctx == ctx && g.id == gid)

/-- Change a group. -/
def State.modGroup (s : State) (ctx gid : Nat) (f : Group → Group) : State :=
  s.modLinks (fun l => { l with groups := l.groups.map (fun g => if g.ctx = ctx ∧ g.id = gid then f g else g) })

/-- Send a DATA operation to a rank of a group. ABORT goes outside the link regulator (LOG 16). -/
def State.sendRank (s : State) (g : Group) (rank : Nat) (i : Inner) : State :=
  match g.members[rank]? with
  | some d => s.sendR (if i.iop = 6 then none else some g.ctx) d { i with group := g.id, gen := g.gen, rank := g.rank }
  | none => s

/-- The group that a received DATA frame names: id, generation, and the sender at its rank. -/
def State.groupOf (s : State) (d : Delivered) : Option Group :=
  s.links.groups.find? (fun g => g.id == d.inner.group && g.gen == d.inner.gen && g.members[d.inner.rank]? == some d.src)

/-- Remove a group that never became live, with its final answer (R279). -/
def State.dropForming (s : State) (ctx gid : Nat) (st : Status) : State :=
  (s.modLinks (fun l => { l with groups := l.groups.filter (fun g => !(g.ctx == ctx && g.id == gid)) })).finishAll
    (fun w => w.ctx == ctx && w.what == .group gid) (fun _ => .of st)

/-- The comparison has ended with a least and a greatest tally: pass them down, and answer (R279). -/
def State.formed (s : State) (g : Group) (lo hi : Nat) : State :=
  let s1 := (childrenOf g.members.length g.rank).foldl (fun s c =>
    s.sendRank g c { iop := 5, last := true, tally := lo, arg := hi }) s
  if lo = hi then
    (s1.modGroup g.ctx g.id (fun g => { g with state := .live })).finishAll (fun w => w.ctx == g.ctx && w.what == .group g.id) (fun _ => .of .ok)
  else s1.dropForming g.ctx g.id .digestMismatch

/-- Advance a formation: when every child has been heard, the least and greatest tallies go up, or end at rank 0. -/
def State.formStep (s : State) (ctx gid : Nat) : State :=
  match s.group? ctx gid with
  | none => s
  | some g =>
    let kids := childrenOf g.members.length g.rank
    if g.state != .forming || g.sentUp || !kids.all (fun k => g.heard.any (fun h => h.1 == k)) then s
    else
      let lo := g.heard.foldl (fun a h => min a h.2.1) g.form
      let hi := g.heard.foldl (fun a h => max a h.2.2) g.form
      if g.rank = 0 then s.formed g lo hi
      else (s.modGroup ctx gid (fun g => { g with sentUp := true })).sendRank g ((g.rank - 1) / 2) { iop := 5, tally := lo, arg := hi }

/-- A member list: 16-bit ordinals. -/
def ordinalsOf : Nat → Bytes → List Nat
  | 0, _ => []
  | n + 1, bs => ofLe (bs.take 2) :: ordinalsOf n (bs.drop 2)

/-- GROUP_CREATE, the creating form (R278, R279, R376). The read of the list may fail; its status is the answer (DEDUCED LOG 33). -/
def createGroup (m : Msg) (ups : List Upset) (s : State) (x : Session) (c : Ctx) : State × Option Reply :=
  let w := ofLe (slice m.payload 0 32)
  let gid := field w 15 0
  let gen := field w 23 16
  let n := field w 63 32
  let addr := field w 111 64
  let tmo := field w 143 128
  if n == 0 || decide (65536 < n) || decide (addr % 64 ≠ 0) || !c.mapped addr (2 * n) then refuse s .extent
  else if c.consortium && (match c.policy with
      | some p => !(decide (p.progAddr ≤ addr) && decide (addr + 2 * n ≤ p.progAddr + p.progPages * pageSize))
      | none => true) then refuse s .denied
  else
    let r := s.readV c.id none ups addr (2 * n)
    match r.2 with
    | .error e => refuse r.1 e
    | .ok bs =>
      let s1 := r.1
      let ms := ordinalsOf n bs
      match firstOf [
          (hasDup ms || !ms.contains s.links.ordinal || ms.any (fun o => decide (s.links.sizeM1 < o)) || tmo == 0
            || s.links.groups.any (fun g => g.ctx == c.id && g.id == gid), Status.denied),
          (s.links.groupGens.any (fun g => g.1 == c.id && g.2.1 == gid && g.2.2 == gen), .staleGeneration),
          (decide (1024 ≤ (s.links.groups.filter (fun g => g.state != .forming)).length), .noSlot)] with
      | some st => refuse s1 st
      | none =>
        let form := tally (m.payload.take 8 ++ List.replicate 6 0 ++ (slice m.payload 14 18) ++ bs)
        let rank := (ms.findIdx? (fun o => o == s.links.ordinal)).getD 0
        let mine := s1.links.early.filter (fun e => e.1 == gid && e.2.1 == gen)
        let g : Group := { ctx := c.id, ctxGen := c.gen, id := gid, gen := gen, members := ms, rank := rank, tmo := tmo,
                           created := s.hub.timer, form := form, heard := mine.map (fun e => e.2.2) }
        let s2 := s1.modLinks (fun l =>
          { l with groups := l.groups ++ [g], early := l.early.filter (fun e => !(e.1 == gid && e.2.1 == gen)),
                   groupGens := (c.id, gid, gen) :: l.groupGens.filter (fun y => !(y.1 == c.id && y.2.1 == gid)) })
        (s2.await x .groupCreate m (.group gid), some (.of .pending))

/-- Instances of a group. -/
def State.groupInsts (s : State) (ctx gid : Nat) : List Inst := s.links.insts.filter (fun i => i.ctx == ctx && i.group == gid)

/-- Destroy a group whose instances have all completed (R280). -/
def State.settleGroup (s : State) (ctx gid : Nat) : State :=
  match s.group? ctx gid with
  | none => s
  | some g =>
    if g.state != .destroying || !(s.groupInsts ctx gid).isEmpty then s
    else
      (s.modLinks (fun l => { l with groups := l.groups.filter (fun y => !(y.ctx == ctx && y.id == gid)) })).finishAll
        (fun w => w.ctx == ctx && w.what == .groupEnd gid) (fun _ => .of .ok)

/-- GROUP_CREATE, the destroying form (R280); a group that is not in force with that generation gives STALE_GENERATION (R343). -/
def destroyGroup (m : Msg) (s : State) (x : Session) (c : Ctx) : State × Option Reply :=
  let w := ofLe (slice m.payload 0 32)
  match s.group? c.id (field w 15 0) with
  | none => refuse s .staleGeneration
  | some g =>
    if g.gen ≠ field w 23 16 ∨ g.state = .forming ∨ g.state = .destroying then refuse s .staleGeneration
    else
      let s1 := s.modGroup c.id g.id (fun g => { g with state := .destroying })
      if (s.groupInsts c.id g.id).isEmpty then okay (s1.settleGroup c.id g.id)
      else (s1.await x .groupCreate m (.groupEnd g.id), none)

/-- GROUP_CREATE, both forms. -/
def doGroupCreate (m : Msg) (ups : List Upset) : State → Session → State × Option Reply :=
  withCtx m fun s x c =>
    let w := ofLe (slice m.payload 0 32)
    match firstOf [
        (decide (m.length ≠ 32), Status.badLength),
        (anySet w 31 25 || anySet w 127 112 || anySet w 255 144, .reservedSet)] with
    | some st => refuse s st
    | none => if flag w 24 then destroyGroup m s x c else createGroup m ups s x c

/-- GROUP_CREATE, creating. -/
def execGroupCreate (m : Msg) (upsets : List Upset) (s : State) : Host.Outcome State Fault Refusal :=
  .next (s.requestThen .groupCreate m (doGroupCreate m upsets) (fun t => t.formStep m.ctx (field (ofLe (slice m.payload 0 2)) 15 0)))

/-- GROUP_CREATE, destroying. -/
def execGroupDestroy (m : Msg) (s : State) : Host.Outcome State Fault Refusal :=
  .next (s.requestThen .groupCreate m (doGroupCreate m []) (fun t => t.formStep m.ctx (field (ofLe (slice m.payload 0 2)) 15 0)))

/-- GROUP_FORM_TIMEOUT (R279). -/
def execGroupFormTimeout (ctx group : Nat) (s : State) : Host.Outcome State Fault Refusal :=
  .next (match s.group? ctx group with
    | some g => if s.alive && g.state == .forming && decide (g.created + g.tmo * 2 ^ 20 ≤ s.hub.timer) then s.dropForming ctx group .timeout
                else s
    | none => s)

/-! ### Instances -/

/-- An instance in progress. -/
def State.inst? (s : State) (ctx gid n : Nat) : Option Inst :=
  s.links.insts.find? (fun i => i.ctx == ctx && i.group == gid && i.inst == n)

/-- Change an instance. -/
def State.modInst (s : State) (i : Inst) (f : Inst → Inst) : State :=
  s.modLinks (fun l => { l with insts := l.insts.map (fun j => if j.ctx = i.ctx ∧ j.group = i.group ∧ j.inst = i.inst then f j else j) })

/-- Send ABORT for an instance to every other member (R295). -/
def State.sendAbort (s : State) (g : Group) (n : Nat) : State :=
  (List.range g.members.length).foldl (fun s r => if r = g.rank then s else s.sendRank g r { iop := 6, inst := n }) s

/-- Break a group (R295). -/
def State.breakGroup (s : State) (ctx gid n : Nat) : State :=
  match s.group? ctx gid with
  | none => s
  | some g => (s.modGroup ctx gid (fun g => { g with broken := true })).sendAbort g n

/-- The fields of Table 09-11. -/
def Inst.res1 (i : Inst) (rank : Nat) (none_ : Bool) : Nat :=
  i.flags + i.inst * 2 ^ 8 + min i.dissent.length 0xFFFF * 2 ^ 40 + (if i.dissent.contains rank then 2 ^ 56 else 0) + (if none_ then 2 ^ 57 else 0)

/-- Does `res0` carry a tally? (Table 09-11) -/
def Inst.carries (i : Inst) (st : Status) : Bool :=
  let a := collArgs i.args
  (st == .ok || st == .divergence) && a.coll != 6 && !(a.coll == 3 && i.rank != a.root)

/-- What an instance writes at its member (Table 09-9); an audit of OPT_STEP writes nothing. -/
def Inst.target (i : Inst) : List Region :=
  let a := collArgs i.args
  let n := a.writes i.members.length i.rank * collElem a.dstFmt
  if i.audit.isSome || n == 0 then [] else [{ space := 0, addr := a.dst, bytes := n }]

/-- The destination of an instance that ends with another status than OK and DIVERGENCE is unspecified (R296): free bytes. -/
def State.spoilTarget (s : State) (i : Inst) (st : Status) : State :=
  if st == .ok || st == .divergence then s
  else s.scramble { ctx := i.ctx, queue := i.queue, core := 0, ups := [] } i.target

/-- End an instance with a status: its Ledger entry is free, its record ends, or its OPT_STEP hears the verdict (R295–R297, R472). -/
def State.endInst (s : State) (i : Inst) (st : Status) : State :=
  let s0 := s.spoilTarget i st
  let s1 := if st = .timeout then { s0 with ledger := s0.ledger.expire i.tag s0.hub.timer } else s0.freeTag i.tag
  let s2 := s1.modLinks (fun l => { l with insts := l.insts.filter (fun j => !(j.ctx == i.ctx && j.group == i.group && j.inst == i.inst)) })
  let s3 : State := match i.audit with
    | none => s2.endRec i.ctx i.queue i.seq i.iter st (if i.carries st then i.result else 0)
        (i.res1 i.rank (st == Status.divergence && i.winner.isNone && !i.votes.isEmpty)) true
    | some t => s2.modCtx i.ctx (fun c =>
        let told (r : OptRun) : OptRun :=
          { r with verdict := some st, auditing := false, split := st == Status.divergence && i.winner.isNone,
                   copies := if i.dissent.contains i.rank then i.acc else [] }
        let hear (o : OptReq) : OptReq := if o.tag = t then { o with run := o.run.map told } else o
        { c with opt := c.opt.map hear })
  s3.settleGroup i.ctx i.group

/-- End an instance and break its group. -/
def State.failInst (s : State) (i : Inst) (st : Status) : State := (s.breakGroup i.ctx i.group i.inst).endInst i st

/-- Cut a contribution into frames of at most 4,096 bytes (R293): the last carries the tally. -/
def chunkFrames (n num tal : Nat) : Nat → Nat → Bytes → List Inner
  | 0, _, _ => []
  | fuel + 1, off, bs =>
    let rest := bs.drop 4096
    let f : Inner := { iop := 1, inst := n, off := off, last := rest.isEmpty, tally := if rest.isEmpty then tal else 0, arg := num,
                       data := bs.take 4096 }
    if rest.isEmpty then [f] else f :: chunkFrames n num tal fuel (off + 16) rest

/-- Send the frames of a contribution. -/
def State.sendFrames (s : State) (g : Group) (rank n num : Nat) (data : Bytes) : State :=
  (chunkFrames n num (tally data) (data.length / 4096 + 1) 0 data).foldl (fun s f => s.sendRank g rank f) s

/-- Send a contribution to a rank (R293); it is kept until its ACK. -/
def State.contribute (s : State) (i : Inst) (rank : Nat) (data : Bytes) : State :=
  match s.group? i.ctx i.group with
  | none => s
  | some g =>
    let num := sparse i.sent rank
    (s.modInst i (fun i => { i with sent := setSparse i.sent rank (num + 1),
                                    sending := i.sending ++ [{ peer := rank, num := num, data := data, sentAt := s.hub.timer }] })).sendFrames
      g rank i.inst num data

/-- Bytes of an element of the running result. -/
def CollArgs.unitBytes (a : CollArgs) : Nat := if a.sums then 4 else collElem a.srcFmt

/-- Bytes that a member writes at its destination; none where Table 09-9 writes nothing. -/
def Inst.output (i : Inst) : Bytes :=
  let a := collArgs i.args
  match a.coll with
  | 1 => slice i.acc (i.rank * a.count * 4) (a.count * 4)
  | 3 => if i.rank = a.root then i.acc else []
  | 6 => []
  | _ => i.acc

/-- Tree neighbours of a rank. -/
def treeNeighbours (n r : Nat) : List Nat := childrenOf n r ++ (if r = 0 then [] else [(r - 1) / 2])

/-- The call signature of an instance (R285); an audit's stands in its place. -/
def Inst.sign (i : Inst) : Nat := if i.audit.isSome then i.args else (collArgs i.args).signature

/-- Steps of the comparison of result tallies (R294): ranges come from the children, go up, come down, and go on. -/
def rangeSteps (n r : Nat) : List PlanStep :=
  (childrenOf n r).map (fun c => { frm := [c], recvN := 1 })
    ++ (if r = 0 then [] else [{ dest := some ((r - 1) / 2), sendN := 1 }, { frm := [(r - 1) / 2], recvN := 2 }])
    ++ (childrenOf n r).map (fun c => { dest := some c, sendN := 1 })

/-- The pair of least and greatest tally as a contribution. -/
def rangeBytes (lo hi : Nat) : Bytes := toLe 8 lo ++ toLe 8 hi

/-- How many votes a tally has. -/
def votesFor (vs : List (Nat × Nat)) (t : Nat) : Nat := (vs.filter (fun v => v.2 == t)).length

/-- The tally that most members hold, if no other has as many (R294). -/
def majority (vs : List (Nat × Nat)) : Option Nat :=
  match leastBy (fun v => vs.length - votesFor vs v.2) vs with
  | none => none
  | some v => if vs.any (fun w => w.2 != v.2 && votesFor vs w.2 == votesFor vs v.2) then none else some v.2

/-- The result of a vote as rank 0 sends it down: majority mark and tally, then every vote (LOG 33). -/
def voteBytes (vs : List (Nat × Nat)) : Bytes :=
  vs.flatMap (fun v => toLe 2 v.1 ++ toLe 8 v.2)

/-- Read a vote. -/
def votesOf : Nat → Bytes → List (Nat × Nat)
  | 0, _ => []
  | n + 1, bs => (ofLe (bs.take 2), ofLe (slice bs 2 8)) :: votesOf n (bs.drop 10)

/-- First differing piece of 1 MiB of two runs of bytes, as an offset. -/
def firstDiffer (a b : Bytes) : Nat :=
  ((List.range (a.length / 2 ^ 20 + 1)).find? (fun k => slice a (k * 2 ^ 20) (2 ^ 20) != slice b (k * 2 ^ 20) (2 ^ 20))).getD 0 * 2 ^ 20

/-- File the DIVERGENCE record of a member (Table 14-8). `peer`: ordinal, die and core of the unit that differs. -/
def State.fileDivergence (s : State) (i : Inst) (die peer peerDie peerCore : Nat) (none_ : Bool) : State :=
  match s.ctx? i.ctx with
  | none => s
  | some c =>
    let d := s.links.ordinal + i.group * 2 ^ 16 + min i.dissent.length 0xFFFF * 2 ^ 32 + peer * 2 ^ 48 + peerDie * 2 ^ 64 + peerCore * 2 ^ 72
      + (if none_ then 2 ^ 80 else 0)
    s.file { cls := .divergence, die := die, stage := 11, status := .divergence, ctx := c.id, ctxGen := c.gen, seq := i.seq, queue := i.queue,
             detail := d, detailCtx := d }

/-- The link die whose Clearing engine wrote a piece: the engines share every instance and no rule says which wrote it, so it is free
(LOG 12). -/
def State.writerDie (s : State) : State × Nat := let r := s.freeNat; (r.1, 31 + r.2 % 2)

/-- The instance has its vote (R294, R470, R471): a majority sends its destination to the members that dissent; without one every member
names its unit to its peer. -/
def State.applyVote (s : State) (i : Inst) (vs : List (Nat × Nat)) : State :=
  let win := majority vs
  let out := match win with
    | some t => (vs.filter (fun v => v.2 != t)).map (fun v => v.1)
    | none => []
  let i1 : Inst := { i with votes := vs, winner := win, dissent := out }
  let s0 := s.modInst i (fun j => { j with votes := vs, winner := win, dissent := out })
  match win with
  | some t =>
    let first := (leastBy (fun v => v.1) (vs.filter (fun v => v.2 == t))).map (fun v => v.1)
    if out.contains i.rank then
      -- the copy comes after this member's READY (R285)
      (match s0.group? i.ctx i.group, first with
       | some g, some r => s0.sendRank g r { iop := 2, inst := i.inst, arg := i.sign }
       | _, _ => s0).modInst i (fun j => { j with stage := 3, peer := first })
    else
      let s2 := if i.audit.isSome then s0 else s0.fileDivergence i1 0xFF ((leastBy (fun r => r) out).map (fun r => i.members.getD r 0) |>.getD 0) 0xFF 0xFF false
      s2.modInst i (fun j => { j with stage := 5, result := t, owed := if first = some i.rank then out else [] })
  | none =>
    let peer := (leastBy (fun v => v.1) (vs.filter (fun v => v.2 != i.result))).map (fun v => v.1)
    let w := s0.writerDie
    let lowest := (leastBy (fun v => v.1) (vs.filter (fun v => v.2 == i.result))).map (fun v => v.1) == some i.rank
    let tell := ((if lowest then (vs.filter (fun v => v.2 != i.result)).map (fun v => v.1) else []) ++ peer.toList).eraseDups
    let s1 := match w.1.group? i.ctx i.group with
      | some g => tell.foldl (fun (s : State) r => s.sendRank g r { iop := 5, inst := i.inst, last := true, arg := w.2, off := i.rank }) w.1
      | none => w.1
    s1.modInst i (fun j => { j with stage := 4, unit := w.2, peer := peer })

/-- Take the contribution of one of some ranks that came first, those of one rank in the order of their numbers: one that overtook a lost one
waits for it (R293). -/
def Inst.take (i : Inst) (frm : List Nat) : Option ((Nat × Bytes) × Inst) :=
  match i.parts.find? (fun p => frm.contains p.1 && p.2.1 == sparse i.got p.1) with
  | none => none
  | some p => some ((p.1, p.2.2), { i with parts := dropFirst p i.parts, got := setSparse i.got p.1 (p.2.1 + 1) })

/-- A collective writes its destination; what it wrote may meet the work of other engines (R81) and the tensors of a step (R241). -/
def State.collWrite (s : State) (i : Inst) (data : Bytes) : State × Option Status :=
  let w := s.writeV i.ctx none [] (collArgs i.args).dst data
  match (s.ctx? i.ctx).bind (fun c => (c.queue? i.queue).bind (fun x => x.rec? i.seq i.iter)) with
  | some r => (w.1.wrote i.ctx i.queue r, w.2)
  | none => w

/-- The algorithm has ended: the destination is written and read back (R294, R297). -/
def State.finishMain (s : State) (i : Inst) : State :=
  let a := collArgs i.args
  let out := i.output
  let w := if out.isEmpty then (s, none) else s.collWrite i out
  match w.2 with
  | some e => w.1.endInst i e
  | none =>
    let r := if out.isEmpty then (w.1, Except.ok []) else w.1.readV i.ctx none [] a.dst out.length
    match r.2 with
    | .error e => r.1.endInst i e
    | .ok bs =>
      let t := tally bs
      let s1 := r.1.modInst i (fun j => { j with result := t, least := t, most := t, step := 0, stage := if a.tallied then 1 else 5 })
      s1

/-- Does the destination of an instance lie in release windows that are held? (R380) -/
def State.heldOutput (s : State) (i : Inst) : Bool := match s.ctx? i.ctx with
  | some c => c.heldRelease [{ space := 0, addr := (collArgs i.args).dst, bytes := i.output.length }]
  | none => false

/-- One step of an instance, when it can take one: none when it waits. -/
def State.stepInst (s : State) (i : Inst) : Option State :=
  let a := collArgs i.args
  let n := i.members.length
  let steps := if i.stage = 0 then planOf a n i.rank else rangeSteps n i.rank
  match i.stage with
  | 0 | 1 =>
    (match steps[i.step]? with
     | none =>
       if !i.sending.isEmpty || (i.stage = 0 && s.heldOutput i) then none
       else if i.stage = 0 then some (s.finishMain i)
       else if i.least = i.most then some (s.endInst i .ok)
       else
         let s1 := s.modInst i (fun j => { j with stage := 2, step := 0, votes := if i.rank = 0 then [(0, i.result)] ++ j.votes else j.votes })
         some (if i.rank = 0 then s1 else match s1.group? i.ctx i.group with
           | some g => s1.sendRank g ((i.rank - 1) / 2) { iop := 5, inst := i.inst, off := i.rank, tally := i.result }
           | none => s1)
     | some p =>
       match p.dest with
       | some t =>
         if !i.ready.contains t then none
         else
           let data := if i.stage = 0 then slice i.acc (p.sendLo * a.unitBytes) (p.sendN * a.unitBytes) else rangeBytes i.least i.most
           some ((s.contribute i t data).modInst i (fun j => { j with step := j.step + 1 }))
       | none => match i.take p.frm with
         | none => none
         | some ((_, data), j) =>
           if i.stage = 1 then
             let lo := ofLe (slice data 0 8)
             let hi := ofLe (slice data 8 8)
             some (s.modInst i (fun _ =>
               { j with step := i.step + 1, least := if p.recvN = 2 then lo else min i.least lo, most := if p.recvN = 2 then hi else max i.most hi }))
           else if data.length ≠ p.recvN * a.unitBytes then some (s.failInst i .digestMismatch)
           else
             let old := slice i.acc (p.recvLo * a.unitBytes) data.length
             let r := if p.add then addPairs p.recvN old data else (data, {})
             some (s.modInst i (fun _ => { j with step := i.step + 1, acc := putBytes i.acc (p.recvLo * a.unitBytes) r.1,
                                                  flags := i.flags ||| r.2.word })))
  | 2 =>
    if i.rank = 0 then
      (if i.votes.length < n then none
       else
         let vs := sortBy (fun (v : Nat × Nat) => v.1) i.votes
         let s1 := (childrenOf n 0).foldl (fun s c => match s.inst? i.ctx i.group i.inst with
           | some j => s.contribute j c (voteBytes vs)
           | none => s) s
         match s1.inst? i.ctx i.group i.inst with
         | some j => some (s1.applyVote j vs)
         | none => none)
    else match i.take [(i.rank - 1) / 2] with
      | none => none
      | some ((_, data), j) =>
        let vs := votesOf n data
        let s0 := s.modInst i (fun _ => j)
        let s1 := (childrenOf n i.rank).foldl (fun s c => match s.inst? i.ctx i.group i.inst with
          | some k => s.contribute k c data
          | none => s) s0
        match s1.inst? i.ctx i.group i.inst with
        | some k => some (s1.applyVote k vs)
        | none => none
  | 3 =>
    -- the copy from the majority (R470); the copy of an audit is taken by its OPT_STEP (R473)
    (match i.take i.peer.toList with
     | none => none
     | some ((_, data), j) =>
       let s0 := s.modInst i (fun _ => j)
       if i.audit.isSome then some (s0.modInst i (fun k => { k with stage := 5, acc := data }))
       else
         let old := s.peekV i.ctx a.dst i.output.length
         let w := s0.collWrite i data
         let t := tally (w.1.peekV i.ctx a.dst i.output.length)
         match s.ctx? i.ctx with
         | none => some w.1
         | some c =>
           if some t = i.winner then
             let d := w.1.writerDie
             let det := 1 + i.group * 2 ^ 32 + 0xFFFF * 2 ^ 48
             let s1 := d.1.file { cls := .sdc, die := d.2, stage := 11, status := .divergence, ctx := c.id, ctxGen := c.gen, seq := i.seq,
                                  queue := i.queue, action := 8, detail := det, detailCtx := det + (a.dst + firstDiffer old data) * 2 ^ 64 }
             let s2 := s1.fileDivergence i 0xFF (i.members.getD (i.peer.getD 0) 0) 0xFF 0xFF false
             some (s2.modInst i (fun k => { k with stage := 5, result := t }))
           else
             some ((w.1.fileDivergence i 0xFF (i.members.getD (i.peer.getD 0) 0) 0xFF 0xFF false).failInst { j with result := t } .divergence))
  | 4 =>
    -- both units are known (R471)
    (match i.peer.bind (fun r => i.units.find? (fun u => u.1 == r)) with
     | some u => some ((s.fileDivergence i i.unit (i.members.getD u.1 0) u.2 0xFF true).endInst i .divergence)
     | none => none)
  | _ => match i.owed.find? (fun r => i.ready.contains r) with
    | some r =>
      some ((s.contribute i r (if i.audit.isSome then i.acc else s.peekV i.ctx a.dst i.output.length)).modInst i (fun j =>
        { j with owed := j.owed.filter (fun x => x != r) }))
    | none =>
      if i.sending.isEmpty && i.owed.isEmpty then some (s.endInst i (if i.votes.isEmpty then .ok else .divergence)) else none

/-- The first instance of a group that is not complete: the engines run them in order (R286). -/
def State.firstInst (s : State) (ctx gid : Nat) : Option Inst := leastBy (fun i => i.inst) (s.groupInsts ctx gid)

/-- Run a group's instances as far as what has arrived allows. -/
def State.runGroup (s : State) (ctx gid : Nat) : Nat → State
  | 0 => s
  | fuel + 1 => match s.firstInst ctx gid with
    | none => s
    | some i => match s.stepInst i with
      | none => s
      | some s1 => s1.runGroup ctx gid fuel

/-- Steps enough for what one arrival can set off. -/
def instFuel : Nat := 2 ^ 20

/-- Run the group of an instance. -/
def State.runInst (s : State) (i : Inst) : State := s.runGroup i.ctx i.group instFuel

/-! ### COLLECTIVE -/

/-- Are the formats those of Table 09-9? -/
def CollArgs.formatsOk (a : CollArgs) : Bool :=
  if a.coll = 5 then a.srcFmt == codeP32I && a.dstFmt == codeP32I
  else if a.sums then (a.srcFmt == codeBF16 || a.srcFmt == codeP32I) && a.dstFmt == codeP32I
  else a.srcFmt == a.dstFmt && [0, 1, 5, 6, 7].contains a.srcFmt

/-- Do the regions overlap other than in place? (R283) -/
def CollArgs.overlaps (a : CollArgs) (rd wr rank : Nat) : Bool :=
  rd != 0 && wr != 0 && decide (a.src < a.dst + wr) && decide (a.dst < a.src + rd)
    && !(a.coll == 0 && a.src == a.dst) && !(a.coll == 2 && a.src == a.dst + rank * a.count * collElem a.srcFmt)

/-- The checks of R284 in their order, after the reserved fields and the no-op. -/
def State.collCheck (s : State) (c : Ctx) (q : Nat) (a : CollArgs) : Except Status Group :=
  match s.links.groups.find? (fun g => g.ctx == c.id && g.id == a.group && g.gen == a.gen && g.state != .forming) with
  | none => .error .staleGeneration
  | some g =>
    let n := g.members.length
    let rd := a.reads n g.rank * collElem a.srcFmt
    let wr := a.writes n g.rank * collElem a.dstFmt
    match firstOf [
        (g.state == .destroying, Status.staleGeneration),
        (g.queue.isSome && g.queue != some q, .denied),
        (g.broken, .abandoned),
        (!a.formatsOk || decide (n ≤ a.root) || ((a.coll == 6 || a.coll == 7) && n != 2) || (a.coll == 5 && a.count != 1)
          || a.srcSpace == 1 || a.dstSpace == 1 || (rd != 0 && a.src % 64 != 0) || (wr != 0 && a.dst % 64 != 0) || a.overlaps rd wr g.rank,
          .badOperand),
        (!c.mapped a.src rd || !c.writable a.dst wr, .extent)] with
    | some e => .error e
    | none => .ok g

/-- The running result of a member at dispatch, and its flags. -/
def CollArgs.start (a : CollArgs) (n rank : Nat) (src : Bytes) : Bytes × Flags :=
  let els := if a.coll = 2 then n * a.count else if a.coll = 1 then n * a.count else a.count
  let x := if a.sums && a.srcFmt == codeBF16 then pairsOfBf16 (src.length / 2) src else src
  if a.coll = 2 then (putBytes (List.replicate (els * a.unitBytes) 0) (rank * a.count * a.unitBytes) x, {})
  else if a.sums && n == 1 then solePairs els x
  else (slice x 0 (els * a.unitBytes), {})

/-- Begin an instance: READY to every member that will send to this one, and to one whose signature differs, so that both know of it (R285;
DESIGN CHOICE LOG 33). -/
def State.beginInst (s : State) (g : Group) (i : Inst) (sig : Nat) (from_ : List Nat) : State :=
  let early := g.early.filter (fun e => e.2.1 == i.inst)
  let s1 := (s.modLinks (fun l => { l with insts := l.insts ++ [{ i with ready := (early.filter (fun e => e.2.2 == sig)).map (fun e => e.1) }] })).modGroup
    g.ctx g.id (fun g => { g with nextInst := g.nextInst + 1, early := g.early.filter (fun e => e.2.1 != i.inst) })
  let told := from_ ++ ((early.filter (fun e => e.2.2 != sig)).map (fun e => e.1)).filter (fun r => !from_.contains r)
  let s2 := told.foldl (fun s r => s.sendRank g r { iop := 2, inst := i.inst, arg := sig }) s1
  match s2.inst? i.ctx i.group i.inst with
  | none => s2
  | some j =>
    if early.any (fun e => e.2.2 != sig) then s2.failInst j .digestMismatch
    else if g.aborts.contains i.inst then s2.endInst j .abandoned
    else s2.runInst j

/-- COLLECTIVE at dispatch (R281, R284–R290, R295, R539). With no entry of the Ledger free, or 64 instances in progress, it waits
(R161, R286). -/
def doCollective (code id q seq iter : Nat) (ups : List Upset) (s : State) : State :=
  match s.running? id q seq iter .collective with
  | none => s
  | some (c, x, r) =>
    let w := ofLe (r.image.drop 64)
    let a := collArgs w
    if (a.coll != code && decide (a.coll < 8)) || s.links.insts.any (fun i => i.ctx == id && i.audit.isNone && i.queue == q && i.seq == seq && i.iter == iter) then s
    else if !flag r.features fMxfp4 && (a.srcFmt == 4 || a.dstFmt == 4) then s.endRec id q seq iter .denied 0 0 false
    else if a.rsvd || decide (8 ≤ a.coll) || a.alg == 3 || decide (2 ≤ a.srcSpace) || decide (2 ≤ a.dstSpace) then s.endRec id q seq iter .reservedSet 0 0 true
    else if a.count = 0 then s.endRec id q seq iter .ok 0 0 true
    else match s.collCheck c x.number a with
      | .error e => s.endRec id q seq iter e 0 0 true
      | .ok g =>
        let rd := a.reads g.members.length g.rank * collElem a.srcFmt
        if decide (64 ≤ s.links.insts.length) || c.heldReads [{ space := 0, addr := a.src, bytes := rd }] then s
        else
          let n := g.members.length
          match s.issue hubTags 4096 (.instance_ id g.id g.nextInst) (some id) (some (s.hub.timer + g.tmo * 2 ^ 20)) with
          | none => s
          | some (s1, t) =>
            let src := if rd = 0 then (s1, Except.ok []) else s1.readV id none ups a.src rd
            let s2 := src.1.modGroup id g.id (fun g => { g with queue := some x.number })
            match src.2 with
            | .error e => ((s2.modGroup id g.id (fun g => { g with nextInst := g.nextInst + 1 })).freeTag t).endRec id q seq iter e 0 (g.nextInst * 256) true
            | .ok bs =>
              let i : Inst := { ctx := id, group := g.id, gen := g.gen, inst := g.nextInst, queue := q, seq := seq, iter := iter, args := w,
                                rank := g.rank, members := g.members, tag := t, deadline := s.hub.timer + g.tmo * 2 ^ 20,
                                acc := (a.start n g.rank bs).1, flags := (a.start n g.rank bs).2.word }
              let from_ := (sendersOf (planOf a n g.rank) ++ (if a.tallied then treeNeighbours n g.rank else [])).eraseDups
              s2.beginInst { g with queue := some x.number } i a.signature from_

/-- COLLECTIVE ALL_REDUCE. -/
def execCollectiveAllReduce (id q seq iter : Nat) (ups : List Upset) (s : State) : Host.Outcome State Fault Refusal :=
  .next (doCollective 0 id q seq iter ups s)
/-- COLLECTIVE REDUCE_SCATTER. -/
def execCollectiveReduceScatter (id q seq iter : Nat) (ups : List Upset) (s : State) : Host.Outcome State Fault Refusal :=
  .next (doCollective 1 id q seq iter ups s)
/-- COLLECTIVE ALL_GATHER. -/
def execCollectiveAllGather (id q seq iter : Nat) (ups : List Upset) (s : State) : Host.Outcome State Fault Refusal :=
  .next (doCollective 2 id q seq iter ups s)
/-- COLLECTIVE REDUCE. -/
def execCollectiveReduce (id q seq iter : Nat) (ups : List Upset) (s : State) : Host.Outcome State Fault Refusal :=
  .next (doCollective 3 id q seq iter ups s)
/-- COLLECTIVE BROADCAST. -/
def execCollectiveBroadcast (id q seq iter : Nat) (ups : List Upset) (s : State) : Host.Outcome State Fault Refusal :=
  .next (doCollective 4 id q seq iter ups s)
/-- COLLECTIVE NORM. -/
def execCollectiveNorm (id q seq iter : Nat) (ups : List Upset) (s : State) : Host.Outcome State Fault Refusal :=
  .next (doCollective 5 id q seq iter ups s)
/-- COLLECTIVE SEND. -/
def execCollectiveSend (id q seq iter : Nat) (ups : List Upset) (s : State) : Host.Outcome State Fault Refusal :=
  .next (doCollective 6 id q seq iter ups s)
/-- COLLECTIVE RECV. -/
def execCollectiveRecv (id q seq iter : Nat) (ups : List Upset) (s : State) : Host.Outcome State Fault Refusal :=
  .next (doCollective 7 id q seq iter ups s)

/-! ### What arrives -/

/-- A frame of an instance that has timed out here, while its entry of the Ledger stands in quarantine, is a late response: its context counts
it (R163). -/
def State.lateInst (s : State) (g : Group) (n : Nat) : State :=
  if s.ledger.entries.any (fun e => e.quarantine.isSome && e.holder == .instance_ g.ctx g.id n) then
    s.modCtx g.ctx (fun c => { c with lateDrops := c.lateDrops + 1 })
  else s

/-- A frame of an instance is discarded. -/
def State.dropFrame (s : State) (g : Group) (d : Delivered) : State := (s.countDiscard d.port).lateInst g d.inner.inst

/-- A DATA frame for a group that is live here; otherwise it is discarded and counted (R280, R295). -/
def State.withGroup (s : State) (d : Delivered) (f : State → Group → State) : State :=
  match s.groupOf d with
  | none => s.countStale d.port
  | some g => if g.broken then s.dropFrame g d else f s g

/-- READY (R285). One for an instance not dispatched yet is kept; a different signature ends the instance at both, and the sender is told of
this member's. -/
def doReady (d : Delivered) (s : State) : State :=
  if !s.alive then s
  else (s.takeIn d).withGroup d fun s g =>
    match s.inst? g.ctx g.id d.inner.inst with
    | some i =>
      if d.inner.arg ≠ i.sign then
        (s.sendRank g d.inner.rank { iop := 2, inst := i.inst, arg := i.sign }).failInst i .digestMismatch
      else (s.modInst i (fun i => { i with ready := i.ready ++ [d.inner.rank] })).runInst i
    | none =>
      if d.inner.inst < g.nextInst then s.dropFrame g d
      else s.modGroup g.ctx g.id (fun g => { g with early := g.early ++ [(d.inner.rank, d.inner.inst, d.inner.arg)] })

/-- READY. -/
def execReady (d : Delivered) (s : State) : Host.Outcome State Fault Refusal := .next (doReady d s)

/-- A contribution of a rank is whole: its tally decides between ACK and RETRY (R293). -/
def State.judgePart (s : State) (d : Delivered) (g : Group) (i : Inst) (r : Receiving) : State :=
  if tally r.data = d.inner.tally then
    let s1 := (s.modInst i (fun i => { i with receiving := i.receiving.filter (fun x => !(x.peer == r.peer && x.num == r.num)),
                                              parts := i.parts ++ [(r.peer, r.num, r.data)] })).sendRank g r.peer
      { iop := 3, inst := i.inst, arg := d.inner.arg }
    s1.runInst i
  else if r.failed then
    let det := d.port + (g.members.getD r.peer 0) * 2 ^ 64
    (s.file { cls := .link, die := portDie d.port, stage := 10, status := .digestMismatch, detail := det, detailCtx := det }).failInst i
      .digestMismatch
  else
    let again (x : Receiving) : Receiving := if x.peer = r.peer ∧ x.num = r.num then { x with data := [], failed := true } else x
    (s.modInst i (fun i => { i with receiving := i.receiving.map again })).sendRank
      g r.peer { iop := 4, inst := i.inst, arg := d.inner.arg }

/-- A CHUNK of a group's instance (R285, R293). A member buffers none for an instance that it has not started; a contribution that is whole
already is acknowledged again. -/
def State.takeChunk (s : State) (d : Delivered) (g : Group) : State :=
  match s.inst? g.ctx g.id d.inner.inst with
  | none => s.dropFrame g d
  | some i =>
    let p := d.inner.rank
    if d.inner.arg < sparse i.got p || i.parts.any (fun x => x.1 == p && x.2.1 == d.inner.arg) then
      (if d.inner.last then s.sendRank g p { iop := 3, inst := i.inst, arg := d.inner.arg } else s)
    else
      let r : Receiving := (i.receiving.find? (fun x => x.peer == p && x.num == d.inner.arg)).getD { peer := p, num := d.inner.arg }
      if d.inner.off * 256 ≠ r.data.length then s
      else
        let r1 : Receiving := { r with data := r.data ++ d.inner.data }
        let s1 := s.modInst i (fun i => { i with receiving := r1 :: i.receiving.filter (fun x => !(x.peer == p && x.num == r.num)) })
        if d.inner.last then s1.judgePart d g i r1 else s1

/-- CHUNK (R293), of a group's instance or of a shipping exchange (R248, R267). -/
def doChunk (d : Delivered) (s : State) : State :=
  if !s.alive then s
  else
    let s0 := s.takeIn d
    if s0.isBulk d && (s0.groupOf d).isNone then s0.takeBulk d
    else s0.withGroup d fun s g => s.takeChunk d g

/-- CHUNK. -/
def execChunk (d : Delivered) (s : State) : Host.Outcome State Fault Refusal := .next (doChunk d s)

/-- ACK (R293): the source of the contribution is free. -/
def doAck (d : Delivered) (s : State) : State :=
  if !s.alive then s
  else if s.isBulk d && (s.groupOf d).isNone then (s.takeIn d).bulkAcked d
  else (s.takeIn d).withGroup d fun s g =>
    match s.inst? g.ctx g.id d.inner.inst with
    | none => s.dropFrame g d
    | some i => (s.modInst i (fun i => { i with sending := i.sending.filter (fun x => !(x.peer == d.inner.rank && x.num == d.inner.arg)) })).runInst i

/-- ACK. -/
def execAck (d : Delivered) (s : State) : Host.Outcome State Fault Refusal := .next (doAck d s)

/-- RETRY (R293): the contribution goes again. -/
def doRetry (d : Delivered) (s : State) : State :=
  if !s.alive then s
  else if s.isBulk d && (s.groupOf d).isNone then (s.takeIn d).bulkRetried d
  else (s.takeIn d).withGroup d fun s g =>
    match s.inst? g.ctx g.id d.inner.inst with
    | none => s.dropFrame g d
    | some i => match i.sending.find? (fun x => x.peer == d.inner.rank && x.num == d.inner.arg) with
      | none => s
      | some x =>
        (s.modInst i (fun i => { i with sending := i.sending.map (fun y => if y.peer = x.peer ∧ y.num = x.num then { y with sentAt := s.hub.timer } else y) })).sendFrames
          g x.peer i.inst x.num x.data

/-- RETRY. -/
def execRetry (d : Delivered) (s : State) : Host.Outcome State Fault Refusal := .next (doRetry d s)

/-- RTALLY: of a group's formation (instance 0, R279), a vote on its way up (R294), or a peer's unit (R471). -/
def doRtally (d : Delivered) (s : State) : State :=
  if !s.alive then s
  else
    let s0 := s.takeIn d
    let i := d.inner
    match s0.groupOf d with
    | none =>
      -- a tally for a group that this member has not created yet is kept
      if i.inst = 0 ∧ !i.last then s0.modLinks (fun l => { l with early := l.early ++ [(i.group, i.gen, i.rank, i.tally, i.arg)] })
      else s0.countStale d.port
    | some g =>
      if g.broken then s0.dropFrame g d
      else if i.inst = 0 then
        (if g.state != .forming then s0.countDiscard d.port
         else if i.last then s0.formed g i.tally i.arg
         else (s0.modGroup g.ctx g.id (fun g => { g with heard := g.heard ++ [(i.rank, i.tally, i.arg)] })).formStep g.ctx g.id)
      else match s0.inst? g.ctx g.id i.inst with
        | none => s0.dropFrame g d
        | some n =>
          if i.last then (s0.modInst n (fun n => { n with units := n.units ++ [(i.off, i.arg % 256)] })).runInst n
          else if g.rank = 0 then (s0.modInst n (fun n => { n with votes := n.votes ++ [(i.off, i.tally)] })).runInst n
          else s0.sendRank g ((g.rank - 1) / 2) { iop := 5, inst := i.inst, off := i.off, tally := i.tally }

/-- RTALLY. -/
def execRtally (d : Delivered) (s : State) : Host.Outcome State Fault Refusal := .next (doRtally d s)

/-- ABORT (R295): the named instance ends with ABANDONED, now or when it is dispatched, and the group is broken. -/
def doAbort (d : Delivered) (s : State) : State :=
  if !s.alive then s
  else (s.takeIn d).withGroup d fun s g =>
    let s1 := s.modGroup g.ctx g.id (fun g => { g with broken := true })
    match s1.inst? g.ctx g.id d.inner.inst with
    | some i => s1.endInst i .abandoned
    | none => if d.inner.inst < g.nextInst then s1 else s1.modGroup g.ctx g.id (fun g => { g with aborts := d.inner.inst :: g.aborts })

/-- ABORT. -/
def execAbort (d : Delivered) (s : State) : Host.Outcome State Fault Refusal := .next (doAbort d s)

/-- COLLECTIVE_TIMEOUT (R163, R295). -/
def execCollectiveTimeout (ctx group inst : Nat) (s : State) : Host.Outcome State Fault Refusal :=
  .next (match s.inst? ctx group inst with
    | some i => if s.alive && decide (i.deadline ≤ s.hub.timer) then s.failInst i .timeout else s
    | none => s)

/-- CONTRIBUTION_RESEND_TIMEOUT (R293): once, 2^18 counts after it was sent. -/
def doContributionResend (ctx group inst peer : Nat) (s : State) : State :=
  match s.inst? ctx group inst, s.group? ctx group with
  | some i, some g =>
    (match i.sending.find? (fun x => x.peer == peer && !x.resent && decide (x.sentAt + 2 ^ 18 ≤ s.hub.timer)) with
     | none => s
     | some x =>
       if !s.alive then s
       else
         (s.modInst i (fun i => { i with sending := i.sending.map (fun y => if y.peer = x.peer ∧ y.num = x.num then { y with resent := true } else y) })).sendFrames
           g peer inst x.num x.data)
  | _, _ => s

/-- CONTRIBUTION_RESEND_TIMEOUT. -/
def execContributionResendTimeout (ctx group inst peer : Nat) (s : State) : Host.Outcome State Fault Refusal :=
  .next (doContributionResend ctx group inst peer s)

/-- A reset of the context sends ABORT for each of its groups and ends its instances with CONTEXT_RESET (R296). -/
def State.endInsts (s : State) (id : Nat) : State :=
  let mine := s.links.insts.filter (fun i => i.ctx == id)
  let s1 := (s.links.groups.filter (fun g => g.ctx == id)).foldl (fun s g =>
    let n := ((mine.filter (fun i => i.group == g.id)).head?.map (fun i => i.inst)).getD g.nextInst
    s.breakGroup id g.id n) s
  mine.foldl (fun s i => s.endInst i .contextReset) s1

end Sys2Proof.Machine
end

