-- ==== Sys2Proof/Machine/Movers.lean ====
section
/-!
DEFINITION. Machine/Movers.lean: COPY and FILL (R138, R139, R157, R158).
-/
namespace Sys2Proof.Machine

/-- Reserved bits of both mover commands, and those of one of them. -/
def Rec.moverReserved (r : Rec) (copy : Bool) : Bool :=
  let g := r.moverArgs
  r.arg 63 50 != 0 || r.arg 127 114 != 0 || r.arg 191 184 != 0 || r.arg 511 288 != 0 || decide (2 ≤ g.dstSpace)
    || (if copy then decide (2 ≤ g.srcSpace) || g.pattern != 0
        else g.srcAddr != 0 || g.srcSpace != 0 || g.srcStride != 0)

/-- The checks of a mover command, in the order of R157; `some none` is the no-op of R17. -/
def moverCheck (c : Ctx) (x : Queue) (r : Rec) (copy : Bool) : Option (Option Status) :=
  let g := r.moverArgs
  firstOf [
    (r.moverReserved copy, some .reservedSet),
    (g.len == 0 || g.rows == 0, none),
    ((copy && g.src.overlaps g.dst) || (decide (1 < g.rows) && (decide (g.dstStride < g.len) || (copy && decide (g.srcStride < g.len)))),
      some .badOperand),
    ((copy && !inSpace c x g.src.space g.src.addr g.src.bytes) || !outSpace c x g.dst.space g.dst.addr g.dst.bytes,
      some .extent)]

/-- A row of FILL: byte 0 of the row takes byte 0 of the pattern (R138). -/
def fillRow (pattern len : Nat) : Bytes := (List.range len).map (fun i => BitVec.ofNat 8 (pattern / 256 ^ (i % 4)))

/-- The end of a mover command that failed: its outputs and its byte count are unspecified (R162, Table 05-9). -/
def State.moverFails (s : State) (e : Site) (r : Rec) (st : Status) : State :=
  let g := r.moverArgs
  let s1 := s.scramble e g.outputs
  let t := s1.freeNat
  t.1.endRec e.ctx e.queue r.seq r.iter st (t.2 % 2 ^ 64) 0 true

/-- COPY row by row: each row is read and then written. -/
def State.copyRows (s : State) (e : Site) (g : MoverArgs) : Nat → State × Option Status
  | 0 => (s, none)
  | n + 1 =>
    let t := s.copyRows e g n
    match t.2 with
    | some st => (t.1, some st)
    | none =>
      let r := t.1.readS e g.srcSpace (g.srcAddr + n * g.srcStride) g.len
      match r.2 with
      | .error st => (r.1, some st)
      | .ok bs => r.1.writeS e g.dstSpace (g.dstAddr + n * g.dstStride) bs

/-- A mover of the core may take the record: fewer than two commands for the movers stand before it (R138, R160). -/
def State.moverTurn (s : State) (core : Nat) (r : Rec) : Bool :=
  decide (s.ahead core (fun op => op == .copy || op == .fill) r.order < 2)

/-- Run a mover command: its checks, its work, its end. -/
def State.runMover (s : State) (e : Site) (c : Ctx) (x : Queue) (r : Rec) (copy : Bool)
    (work : State → State × Option Status) : State :=
  let g := r.moverArgs
  match moverCheck c x r copy with
  | some (some st) => s.endRec e.ctx e.queue r.seq r.iter st 0 0 true
  | some none => s.endRec e.ctx e.queue r.seq r.iter .ok 0 0 true
  | none =>
    let t := work s
    if c.heldRelease [g.dst] || (copy && c.heldReads [g.src]) then s
    else match t.2 with
    | some st => (t.1.moverFails e r st).wrote e.ctx e.queue r
    | none =>
      ((if s.entangled c x r then t.1.scramble e g.outputs else t.1).endRec e.ctx e.queue r.seq r.iter .ok (g.rows * g.len) 0 true).wrote
        e.ctx e.queue r

/-- COPY (R138, R139). -/
def doCopy (id q seq iter : Nat) (ups : List Upset) (s : State) : State :=
  match s.running? id q seq iter .copy with
  | none => s
  | some (c, x, r) => match r.core with
    | none => s
    | some n =>
      if !s.moverTurn n r || s.starved c n [r.moverArgs.src, r.moverArgs.dst] then s
      else
        let e : Site := { ctx := id, queue := q, core := n, ups := ups }
        (s.runMover e c x r true (fun s => s.copyRows e r.moverArgs r.moverArgs.rows)).repairRows

/-- COPY. -/
def execCopy (id q seq iter : Nat) (ups : List Upset) (s : State) : Host.Outcome State Fault Refusal :=
  .next (doCopy id q seq iter ups s)

/-- FILL (R138). -/
def doFill (id q seq iter : Nat) (ups : List Upset) (s : State) : State :=
  match s.running? id q seq iter .fill with
  | none => s
  | some (c, x, r) => match r.core with
    | none => s
    | some n =>
      if !s.moverTurn n r || s.starved c n [r.moverArgs.dst] then s
      else
        let e : Site := { ctx := id, queue := q, core := n, ups := ups }
        let g := r.moverArgs
        (s.runMover e c x r false (fun s => s.writeRows e g.dstSpace g.dstAddr g.dstStride
          (List.replicate g.rows (fillRow g.pattern g.len)))).repairRows

/-- FILL. -/
def execFill (id q seq iter : Nat) (ups : List Upset) (s : State) : Host.Outcome State Fault Refusal :=
  .next (doFill id q seq iter ups s)

end Sys2Proof.Machine
end

