-- ==== Sys2Proof/Machine/Aborts.lean ====
section
/-!
DEFINITION. Machine/Aborts.lean: work that is aborted (R368): its outputs are unspecified (R94, R128); QUEUE_DESTROY (R149);
VCORE_UNDERVOLTAGE (R516).
-/
namespace Sys2Proof.Machine

/-- The slots of some numbers, as they stand. -/
def State.slotsNamed (s : State) (c : Ctx) (l : List Nat) : List (Nat × ScaleSlot) :=
  (l.filter (fun i => decide (i < c.scaleN))).map (fun i => (i, s.peekSlot c.id i))

/-- The chain of a dispatched vector operation, when its checks pass. -/
def State.chainRunning (s : State) (c : Ctx) (x : Queue) (r : Rec) : Option Chain :=
  let addr := r.arg 47 0
  let space := r.arg 49 48
  let image : Option Bytes := match r.chain with
    | some bs => some bs
    | none => (s.readChain { ctx := c.id, queue := x.number, core := r.core.getD 0, ups := [] } space addr).2.toOption
  if 2 ≤ space ∨ inSpace c x space addr 896 = false ∨ r.arg 511 50 ≠ 0 ∨ c.inProgram space addr 896 = false then none
  else match image with
    | none => none
    | some bs =>
      let g := chainOf bs
      let slots := s.slotsNamed c ((g.named.filter (fun y => y.useSlot)).map (fun y => y.slot))
      if g.barred r.features || g.reserved || (vecCheck c x addr g slots).isSome then none else some g

/-- Do the checks of a dispatched matrix operation pass? -/
def State.matRuns (s : State) (c : Ctx) (x : Queue) (r : Rec) : Bool :=
  let g := r.matArgs
  let slots := s.slotsNamed c ((if g.a.useSlot then [g.a.slot] else []) ++ (if g.b.useSlot then [g.b.slot] else [])
    ++ (if g.c.useSlot then [g.c.slot] else []))
  !g.barred r.features && !r.matReserved && (matCheck c x g slots).isNone

/-- End a dispatched operation at a boundary with a status (R368): what it writes and reports is unspecified (R94, R128, Table 05-9),
unless its checks would have refused it, or it writes nothing. -/
def State.abortRun (s : State) (c : Ctx) (x : Queue) (st : Status) (r : Rec) : State :=
  let e : Site := { ctx := c.id, queue := x.number, core := r.core.getD 0, ups := [] }
  let plain := s.endRec c.id x.number r.seq r.iter st 0 0 true
  match r.op with
  | some .copy => if (moverCheck c x r true).isSome then plain else s.moverFails e r st
  | some .fill => if (moverCheck c x r false).isSome then plain else s.moverFails e r st
  | some .matmul =>
    if s.matRuns c x r then
      let g := r.matArgs
      let job := s.matJob e g (s.slotsNamed c ((if g.a.useSlot then [g.a.slot] else []) ++ (if g.b.useSlot then [g.b.slot] else [])))
      s.matFails e r st (job.1.rows job.2).2 0 x.audit.toNat
    else plain
  | some .vector => match s.chainRunning c x r with
    | none => plain
    | some g => (s.spendSome c e.core g 0).vecFails e g r st 0
  | some .collective | some .nop | some .repeatOp | some .scaleSet | none => plain

/-- Abort the running ones among some records. -/
def State.abortRuns (s : State) (c : Ctx) (x : Queue) (st : Status) (recs : List Rec) : State :=
  (recs.filter (fun r => r.phase == .running)).foldl (fun s r => s.abortRun c x st r) s

/-- End the instances of a queue's COLLECTIVE commands at a boundary (R149, R368). Nothing is said to the other members: their
instances run on, or out of time (DEDUCED LOG 26). -/
def State.stopInsts (s : State) (id q : Nat) (st : Status) : State :=
  (s.links.insts.filter (fun i => i.ctx == id && i.queue == q && i.audit.isNone)).foldl (fun s i => s.endInst i st) s

/-- Abort a queue: every record that is not complete ends with a status. -/
def Queue.abort (x : Queue) (st : Status) : Queue := { x with recs := x.recs.map (fun r => r.stop st) }

/-- QUEUE_DESTROY (R149). -/
def doQueueDestroy (m : Msg) : State → Session → State × Option Reply :=
  withCtx m fun s x c =>
    let q := field m.arg0 5 0
    match firstOf [
        (decide (m.length ≠ 0), Status.badLength),
        (anySet m.arg0 63 6, .reservedSet)] with
    | some st => refuse s st
    | none => match c.queue? q with
      | none => refuse s .extent
      | some y =>
        if y.destroying then refuse s .queueStopped
        else
          let s1 := (s.abortRuns c y .queueStopped (y.recs.filter (fun r => r.op != some .collective))).stopInsts c.id q .queueStopped
          let s2 := (s1.dropWaitTags y.recs).modQueue c.id q (fun z => { z.abort .queueStopped with destroying := true, rep := none })
          (s2.await x .queueDestroy m (.queueDestroy q), some (.of .pending))

/-- QUEUE_DESTROY. When no record waits for its completion, the final answer follows at once. -/
def execQueueDestroy (m : Msg) (s : State) : Host.Outcome State Fault Refusal :=
  .next (s.requestThen .queueDestroy m (doQueueDestroy m) (fun t => t.settleQueue m.ctx (field m.arg0 5 0)))

/-- VCORE_UNDERVOLTAGE (R516): gates closed, operations in flight ended with UNCORRECTABLE (their results free, LOG 12), the
NOTICE filed, and no new leave until the hold ends. -/
def doVcoreUndervoltage (n : Nat) (s : State) : State :=
  if !s.alive || (s.power.tiles[n]?).isNone then s
  else
    let hit := s.ctxs.flatMap (fun c => c.queues.flatMap (fun x => (x.recs.filter (fun r => r.onTile n)).map (fun r => (c, x, r))))
    let s1 := hit.foldl (fun s h =>
      (s.abortRun h.1 h.2.1 .uncorrectable h.2.2).returnLeave h.1.id h.2.1.number h.2.2.seq h.2.2.iter) s
    ((s1.revokeTile n).modTile n (fun t => { t with underVolt := 2 })).notice 4 0 .uncorrectable n

/-- VCORE_UNDERVOLTAGE. -/
def execVcoreUndervoltage (tile : Nat) (s : State) : Host.Outcome State Fault Refusal := .next (doVcoreUndervoltage tile s)

end Sys2Proof.Machine
end

