-- ==== Sys2Proof/Machine/Contexts.lean ====
section
/-!
DEFINITION. Machine/Contexts.lean: contexts: creation, readying, residency and rotation, suspension, reset, destruction and
teardown (R341–R371, R541).
-/
namespace Sys2Proof.Machine

/-! ### CTX_CREATE -/

/-- Uses that a memory key allows (Table 12-11). -/
def memoryKeyLimit : Nat := 2 ^ 56 - 1

/-- Where the count of issues of a bank entry stands among those of the KeyIDs (Table 12-9). -/
def bankIssue (id : Nat) : Nat := 4096 + id

/-- CTX_CREATE (R347, R348, R406, R420). -/
def doCtxCreate (m : Msg) (s : State) (x : Session) : State × Option Reply :=
  let w := ofLe (slice m.payload 0 48)
  let cons := flag w 0
  let seeded := flag w 1
  let id? := pickId 4096 (s.ctxs.map (fun c => c.id) ++ s.links.lent.map (fun x => x.guest)) s.ctxsFreed s.hub.timer (fun i => s.ledger.entries.any (fun e => e.ctx == some i))
  match firstOf [
      (decide (m.length ≠ 48), Status.badLength),
      (anySet w 127 2 || (!seeded && anySet w 383 128), .reservedSet),
      ((seeded && s.conf) || (cons && (!s.conf || !x.has fConsortium)), .denied),
      (cons && (s.life.inForce == .maker || s.life.inForce == .integrator), .lifecycle),
      (id?.isNone, .noSlot)] with
  | some st => refuse s st
  | none =>
    match id? with
    | none => refuse s .noSlot
    | some (i, g0) =>
      let g := nextGen 16 g0
      let a := s.draw (if seeded then 0 else 32)
      let k := a.1.draw 32
      let c : Ctx := { id := i, gen := g, owner := x.number, ownerGen := x.gen, consortium := cons,
                       seed := if seeded then field w 383 128 else ofLe a.2, period := { since := s.hub.timer },
                       res := { lastWork := s.hub.timer } }
      let n := sparse k.1.vault.issues (bankIssue i) + 1
      let e : BankEntry := { ctx := i, gen := g, limit := memoryKeyLimit, issue := n, material := k.2 }
      ({ k.1 with ctxs := k.1.ctxs ++ [c], ctxsFreed := k.1.ctxsFreed.filter (fun f => f.1 != i),
                  vault := { k.1.vault with bank := e :: k.1.vault.bank.filter (fun b => b.ctx != i),
                                            issues := setSparse k.1.vault.issues (bankIssue i) n } },
        some { status := .ok, named := some (i, g) })

/-- CTX_CREATE. -/
def execCtxCreate (m : Msg) (s : State) : Host.Outcome State Fault Refusal := .next (s.request .ctxCreate m (doCtxCreate m))

/-! ### CTX_RESUME -/

/-- The payload of CTX_RESUME (Table 11-4). -/
structure Resume where
  form : Nat
  assign : Assign
  evrAddr : Nat
  evrLog2 : Nat
  scaleAddr : Nat
  scaleN : Nat
  rsvd : Bool
  deriving DecidableEq, Repr

/-- The fields of a payload, with the reserved ones of its form. -/
def resumeOf (w : Nat) : Resume :=
  let form := field w 1 0
  { form := form,
    assign := { qos := field w 10 8, part := field w 19 16, linkShare := field w 31 24, linkCeil := field w 39 32 },
    evrAddr := field w 111 64, evrLog2 := field w 115 112, scaleAddr := field w 175 128, scaleN := field w 208 192,
    rsvd := anySet w 7 2 || anySet w 15 11 || anySet w 23 20 || anySet w 63 40 || anySet w 127 116 || anySet w 191 176
      || anySet w 255 209 || form == 3 || (form != 2 && anySet w 39 8) || (form != 0 && anySet w 255 64) }

/-- Bytes of a ring and of a table. -/
def Resume.ringBytes (r : Resume) : Nat := 80 * 2 ^ r.evrLog2
def Resume.tableBytes (r : Resume) : Nat := 64 * r.scaleN

/-- Case 3 of R350; `evr_log2` has four bits, so that 16 cannot be named. -/
def State.resumeDenied (s : State) (x : Session) (c : Ctx) (r : Resume) : Bool :=
  match r.form with
  | 0 => !x.owns c || c.ring.isSome || (c.consortium && c.policy.isNone) || decide (r.evrLog2 < 10) || decide (65536 < r.scaleN)
  | 1 => c.ring.isNone
  | _ => x.role != .management
      || (match s.mem.partitions[r.assign.part]? with
          | some p => p.ceiling == 0
          | none => true)
      || decide (r.assign.linkCeil + 1 < r.assign.linkShare)
      || decide (248 < r.assign.linkShare + ((s.ctxs.filter (fun d => d.id != c.id)).map (fun d => d.assigned.linkShare)).sum)

/-- Case 4 of R350. -/
def Ctx.resumeBeyond (c : Ctx) (r : Resume) : Bool :=
  r.form == 0 && (decide (r.evrAddr % pageSize ≠ 0) || decide (r.scaleAddr % 64 ≠ 0) || !c.writable r.evrAddr r.ringBytes
    || !c.writable r.scaleAddr r.tableBytes
    || (r.tableBytes != 0 && decide (r.evrAddr < r.scaleAddr + r.tableBytes) && decide (r.scaleAddr < r.evrAddr + r.ringBytes)))

/-- Form 0 (R350): the slots take the values of R55, the ring is empty, and the pages of both become read-only. -/
def State.ready (s : State) (c : Ctx) (r : Resume) (ups : List Upset) : State × Option Reply :=
  let t := s.writeV c.id none ups r.scaleAddr ((List.range r.scaleN).flatMap (fun _ => ScaleSlot.new.bytes))
  match t.2 with
  | some st => refuse t.1 st
  | none =>
    let inside (a n : Nat) (p : Page) : Bool := n != 0 && decide (vpage a ≤ p.va) && decide (p.va ≤ vpage (a + n - 1))
    let close (p : Page) : Page :=
      if inside r.evrAddr r.ringBytes p || inside r.scaleAddr r.tableBytes p then { p with ro := true } else p
    okay ((t.1.modCtx c.id (fun d =>
      { d with ring := some { addr := r.evrAddr, log2 := r.evrLog2 }, scaleAddr := r.scaleAddr, scaleN := r.scaleN,
               pages := d.pages.map close, res := { d.res with state := .ready } })).noteWant c.id)

/-- Form 1 (R349, R362): a suspension ends; a context that is leaving residency will be READY. -/
def Residency.lift (r : Residency) : Residency :=
  if r.state = .suspended then { r with state := .ready }
  else if r.leaving = .suspend then { r with leaving := .rotate } else r

/-- CTX_RESUME (R349, R350, R361), every form. -/
def doCtxResume (m : Msg) (ups : List Upset) : State → Session → State × Option Reply :=
  withCtx m fun s x c =>
    let r := resumeOf (ofLe (slice m.payload 0 32))
    match firstOf [
        (decide (m.length ≠ 32), Status.badLength),
        (r.rsvd, .reservedSet),
        (s.resumeDenied x c r, .denied),
        (c.resumeBeyond r, .extent)] with
    | some st => refuse s st
    | none =>
      match r.form with
      | 0 => s.ready c r ups
      | 1 => okay ((s.modCtx c.id (fun d => { d with res := d.res.lift })).noteWant c.id)
      | _ => okay (s.modCtx c.id (fun d =>
          { d with assigned := r.assign, assign := if d.res.state = .resident then r.assign else d.assign }))

/-- CTX_RESUME form 0. -/
def execCtxResumeReady (m : Msg) (ups : List Upset) (s : State) : Host.Outcome State Fault Refusal :=
  .next (s.request .ctxResume m (doCtxResume m ups))
/-- CTX_RESUME form 1. -/
def execCtxResumeResume (m : Msg) (s : State) : Host.Outcome State Fault Refusal :=
  .next (s.request .ctxResume m (doCtxResume m []))
/-- CTX_RESUME form 2. -/
def execCtxResumeAssign (m : Msg) (s : State) : Host.Outcome State Fault Refusal :=
  .next (s.request .ctxResume m (doCtxResume m []))

/-! ### Entering and leaving residency -/

/-- Slots in use (R354). -/
def State.slotsUsed (s : State) : List Nat := s.ctxs.filterMap (fun c => c.res.slot)

/-- The lowest free slot. -/
def State.freeSlot (s : State) : Option Nat := (List.range 48).find? (fun i => !s.slotsUsed.contains i)

/-- The context that is next for a slot (R355): descending class, then the first that wanted. The class is the one assigned last
(DEDUCED LOG 27). -/
def State.nextWanting (s : State) : Option Ctx :=
  leastBy (fun c => (7 - min 7 c.assigned.qos) * 2 ^ 70 + min (c.res.wantSince.getD (2 ^ 66)) (2 ^ 69)) (s.ctxs.filter (fun c => s.wants c))

/-- Bring a saved window back to a core (R174, R209). -/
def State.restoreWindow (s : State) (id : Nat) (x : Queue) : State :=
  match x.savedWindow, s.chooseHome x.window (fun _ => true) with
  | some cells, some n =>
    let b := (s.windowBase n x.window).getD 0
    let a := scratchBase n + b * 2 ^ 20
    (s.modMem (fun m => { m with cells := replaceCells m.cells a (x.window * 2 ^ 20) (cells.map (fun c => (c.1 + a, c.2))),
                                 pieces := m.pieces.filter (fun p => !within (p * 64) a (x.window * 2 ^ 20))
                                   ++ x.savedPieces.map (fun p => a / 64 + p) })).modQueue id x.number
      (fun y => { y with home := some n, base := b, savedWindow := none, savedPieces := [] })
  | _, _ => s

/-- SLOT_ADMIT (R354, R355, R357): the context next in line takes the lowest free slot; windows return, the moves of its pinned pages begin,
which go before its first command (R201), and its Rasovi frames that waited may go (R360). -/
def doSlotAdmit (id : Nat) (s : State) : State :=
  match s.ctx? id, s.freeSlot with
  | some c, some slot =>
    let first := match s.nextWanting with
      | some d => d.id == id
      | none => false
    if !(s.alive && s.wants c && first) then s
    else
      let s1 := c.queues.foldl (fun s x => if x.savedWindow.isSome then s.restoreWindow id x else s) s
      let ready := match s1.ctx? id with
        | some d => d.queues.all (fun x => x.savedWindow.isNone)
        | none => false
      if !ready then s
      else (s1.modCtx id (fun d =>
        { d with assign := d.assigned,
                 res := { state := .resident, slot := some slot, leaving := .stays, wantSince := none, since := s.hub.timer,
                          lastWork := s.hub.timer, pinning := true } })).settleMoves.pumpPorts
  | _, _ => s

/-- SLOT_ADMIT. -/
def execSlotAdmit (ctx : Nat) (s : State) : Host.Outcome State Fault Refusal := .next (doSlotAdmit ctx s)

/-- May the context be rotated out at all? (R356; a PARAM_EXPORT that runs ends first, Table 11-6, step 2) -/
def State.rotatable (s : State) (c : Ctx) : Bool :=
  c.res.state == .resident && c.res.leaving == .stays && !c.destroying && c.opt.all (fun o => o.kind == 2) && c.ckpt.stage == 0
    && !s.links.insts.any (fun i => i.ctx == c.id) && !c.queues.any (fun x => x.rep.isSome)

/-- The context that rotation takes (R356). -/
def State.rotation (s : State) : Option Ctx :=
  match s.nextWanting, s.freeSlot with
  | some w, none =>
    let key (c : Ctx) : Nat := c.assign.qos * 2 ^ 64 + min c.res.since (2 ^ 64 - 1)
    let idle := s.ctxs.filter (fun c => s.rotatable c && c.queues.all (fun x => x.recs.isEmpty)
      && decide (c.res.lastWork + 2 ^ 20 ≤ s.hub.timer))
    (match leastBy key idle with
     | some c => some c
     | none =>
       if w.res.wantSince.getD s.hub.timer + 2 ^ 24 ≤ s.hub.timer then
         leastBy key (s.ctxs.filter (fun c => s.rotatable c && decide (c.assign.qos ≤ w.assigned.qos)
           && decide (c.res.since + 2 ^ 24 ≤ s.hub.timer)))
       else none)
  | _, _ => none

/-- ROTATE_OUT (R356, R357, step 1); rotations wait during a firmware activation (R438). -/
def doRotateOut (id : Nat) (s : State) : State :=
  match s.rotation with
  | none => s
  | some c =>
    if s.alive && s.life.trial.isNone && c.id == id then
      s.modCtx id (fun d => { d with res := { d.res with leaving := .rotate } })
    else s

/-- ROTATE_OUT. -/
def execRotateOut (ctx : Nat) (s : State) : Host.Outcome State Fault Refusal := .next (doRotateOut ctx s)

/-- Save the window of a queue (R174). -/
def State.saveWindow (s : State) (id : Nat) (x : Queue) : State :=
  match x.home with
  | none => s
  | some n =>
    let a := scratchBase n + x.base * 2 ^ 20
    let size := x.window * 2 ^ 20
    let cells := (cellsIn s.mem.cells a size).map (fun c => (c.1 - a, c.2))
    let ps := (s.mem.pieces.filter (fun p => within (p * 64) a size)).map (fun p => p - a / 64)
    (s.zeroWindow n x.base x.window).modQueue id x.number
      (fun y => { y with home := none, savedWindow := some cells, savedPieces := ps })

/-- Every page of a context leaves tier SRAM (R201): moves into it are given up, and demotions begin. A pinned copy that another resident context
pins stays. -/
def State.leaveTier (s : State) (id : Nat) : State :=
  match s.ctx? id with
  | none => s
  | some c =>
    let s0 := s.cancelMoves (fun m => m.ctx == id && m.keyId == 0 && isTier m.dest)
    c.pages.foldl (fun s p => match p.share with
      | none => if s.moving id p.va then s else s.moveToHbm c p .residency false
      | some (i, k) =>
        if s.ctxs.any (fun d => d.id != id && d.res.state == .resident && d.pages.any (fun q => q.share == some (i, k) && q.pin)) then s
        else s.dropCopy c p i k .residency) s0

/-- Does a context still hold tier SRAM, or move a page? -/
def State.holdsTier (s : State) (c : Ctx) : Bool := c.pages.any (fun p => p.tier.isSome) || s.moves.any (fun m => m.ctx == c.id && m.keyId == 0)

/-- Have the dispatched commands and instances of a context ended? -/
def State.quiet (s : State) (c : Ctx) : Bool :=
  c.queues.all (fun x => x.recs.all (fun r => r.phase == .waiting && r.iter == 0 || (r.phase == .running && r.op == some .repeatOp)))
    && !s.links.insts.any (fun i => i.ctx == c.id) && c.opt.all (fun o => o.run.isNone)

/-- Does the Ledger hold an entry for work of the slot: a command, an instance, a transfer, free again only after its quarantine? (Table 11-6,
step 5) Waits for fences are served without a slot (R358; DEDUCED LOG 27). -/
def State.slotEntry (s : State) (id : Nat) : Bool := s.ledger.entries.any (fun e => e.ctx == some id && (match e.holder with
  | .command _ _ _ _ | .instance_ _ _ _ | .transfer _ _ _ => true
  | .fenceIn _ _ _ _ | .fenceWait _ _ | .probe _ | .event _ _ => false))

/-- RESIDENCY_EXIT_DONE (R357, R358): steps 3 to 7 of Table 11-6, once its last page has left tier SRAM and its Ledger entries are free; before
that, the demotions begin (R201). -/
def doResidencyExit (id : Nat) (s : State) : State :=
  match s.ctx? id with
  | none => s
  | some c =>
    if !(s.alive && c.res.state == .resident && c.res.leaving != .stays && s.quiet c) then s
    else
      let s0 := s.leaveTier id
      let stays := s0.slotEntry id || (match s0.ctx? id with
        | some d => s0.holdsTier d
        | none => false)
      if stays then s0
      else
      let s1 := c.queues.foldl (fun s x => s.saveWindow id x) s0
      -- what was sent and not consumed is sent again at the next residency (R353)
      let again (g : Ring) : Ring := { g with sent := [] }
      let s2 := s1.modCtx id (fun d =>
        { d with ring := d.ring.map again,
                 res := { d.res with state := if c.res.leaving = .suspend then .suspended else .ready, slot := none, leaving := .stays,
                                     wantSince := none, pinning := false } })
      (s2.finishAll (fun w => w.ctx == id && w.what == .suspend) (fun _ => .of .ok)).noteWant id

/-- RESIDENCY_EXIT_DONE. -/
def execResidencyExitDone (ctx : Nat) (s : State) : Host.Outcome State Fault Refusal := .next (doResidencyExit ctx s)

/-- CTX_SUSPEND (R358, R362). -/
def doCtxSuspend (m : Msg) : State → Session → State × Option Reply :=
  withCtx m fun s x c =>
    if m.length ≠ 0 then refuse s .badLength
    else match c.res.state with
      | .suspended => okay s
      | .ready =>
        ((s.modCtx c.id (fun d => { d with res := { d.res with state := .suspended, wantSince := none } })).await x .ctxSuspend m .suspend,
          some (.of .pending))
      | .resident | .resetting =>
        ((s.modCtx c.id (fun d => { d with res := { d.res with leaving := .suspend } })).await x .ctxSuspend m .suspend, some (.of .pending))

/-- The final answer to a CTX_SUSPEND whose context has no slot to leave (R358). -/
def State.settleSuspend (s : State) (id : Nat) : State := match s.ctx? id with
  | some c => if c.res.state = .suspended then s.finishAll (fun w => w.ctx == id && w.what == .suspend) (fun _ => .of .ok) else s
  | none => s

/-- CTX_SUSPEND. During a checkpoint generation it waits in its mailbox (R484). -/
def execCtxSuspend (m : Msg) (s : State) : Host.Outcome State Fault Refusal :=
  let go : State := s.requestThen .ctxSuspend m (doCtxSuspend m) (fun t => t.settleSuspend m.ctx)
  .next (match s.ctx? m.ctx with
    | some c => if c.ckpt.stage != 0 && c.gen == m.ctxGen then s else go
    | none => go)

/-! ### Teardown -/

/-- Is the record's work still to be done or under way? -/
def Rec.unfinished (r : Rec) : Bool := match r.phase with
  | .ended _ _ _ _ => false
  | .waiting | .running => true

/-- Drop every record of a context: tags, loads, leave; outputs of aborted work are unspecified (R368). -/
def State.dropRecs (s : State) (id : Nat) : State :=
  match s.ctx? id with
  | none => s
  | some c =>
    let s0 := c.queues.foldl (fun s x => s.abortRuns c x .contextReset x.recs) s
    let s1 := c.queues.foldl (fun s x => x.recs.foldl (fun s r =>
      let a := match r.tag with
        | some t => s.freeTag t
        | none => s
      let b := match r.waitTag with
        | some t => a.freeTag t
        | none => a
      let d := match r.core with
        | some n => b.modCore n (fun k => { k with load := k.load - r.beats })
        | none => b
      d.returnLeave id x.number r.seq r.iter) s) s0
    s1.modCtx id (fun d => { d with queues := d.queues.map (fun x => { x with recs := [], rep := none }) })

/-- Leave a fence that the context references (Table 11-10, step 5): it is abandoned when it is shared and the teardown abandons
(R367), and dropped. The context's own FENCE_WAIT requests are answered at the end (R541); their Ledger entries are free now. -/
def State.leaveFence (s : State) (id index : Nat) (abandon : Bool) : State :=
  let own := s.waits.filter (fun w => w.onFence index && w.ctx == id)
  let s1 := own.foldl (fun s w => match w.fenceTag with
    | some t => s.freeTag t
    | none => s) s
  let s2 := s1.modCtx id (fun c => { c with fences := c.fences.filter (fun i => i != index) })
  match s2.fence? index with
  | none => s2
  | some f =>
    if abandon && s2.fenceShared id index then
      (s2.modFence index (fun x => { x with abandoned := true })).endFenceWaits (fun w => w.onFence index && w.ctx != id) .abandoned f.value
    else { s2 with fences := if s2.fenceShared id index then s2.fences else s2.fences.filter (fun x => x.index != index),
                   fencesFreed := if s2.fenceShared id index then s2.fencesFreed else s2.fencesFreed ++ [(f.index, f.gen, s.hub.timer)] }

/-- Begin the teardown of a context (Table 11-10, steps 1 to 5), with its cause; FENCE_ABANDON happens here. `abandon` is off under
CTX_DESTROY. -/
def State.beginTeardown (s : State) (id cause : Nat) (abandon : Bool) : State :=
  match s.ctx? id with
  | none => s
  | some c =>
    let aborted := (c.queues.map (fun x => (x.recs.filter Rec.unfinished).length)).sum
    let left := match c.ring with
      | some g => g.used
      | none => 0
    let dead := (c.fences.filter (fun i => abandon && s.fenceShared id i)).length
    let last := (c.opt.filter (fun o => o.kind != 2)).foldl (fun (acc : State × List (Nat × Nat × Bytes)) o =>
      let a := acc.1.optAnswer id o (o.run.getD {})
      (a.1, acc.2 ++ [(o.session, o.tag, a.2)])) (s, [])
    let s1 := last.1.modCtx id (fun d =>
      { d with counts := { cause := cause, aborted := aborted, retracted := left, fences := dead, pages := 0 }, optFinal := last.2,
               res := { d.res with state := .resetting, leaving := .stays, wantSince := none }, opt := [],
               ring := d.ring.map (fun g => { g with entries := [], held := [], consumed := g.rseq, sent := [], seen := [], reserved := 0 }),
               ckpt := { d.ckpt with stage := 0, sections := [], cowUsed := 0 }, pages := d.pages.map (fun p => { p with snap := false }) })
    let s2 := (((s1.dropSnapshots id).endInsts id).dropRecs id).releaseLeases id
    let s3 := c.fences.foldl (fun s i => s.leaveFence id i abandon) s2
    s3.cancelMoves (fun m => m.ctx == id)

/-- A reset of a context by a cause (R362, R369): it begins, or takes over what is in progress. -/
def State.resetCtx (s : State) (id cause : Nat) : State :=
  match s.ctx? id with
  | none => s
  | some c =>
    if c.res.state = .resetting then
      (if c.counts.cause = 3 then s.modCtx id (fun d => { d with counts := { d.counts with cause := cause } }) else s)
    else s.beginTeardown id cause true

/-- CTX_RESET (R369). -/
def doCtxReset (m : Msg) : State → Session → State × Option Reply :=
  withCtx m fun s x c =>
    if m.length ≠ 0 then refuse s .badLength
    else ((s.resetCtx c.id (if x.owns c then 0 else 1)).await x .ctxReset m .reset, some (.of .pending))

/-- CTX_RESET. -/
def execCtxReset (m : Msg) (s : State) : Host.Outcome State Fault Refusal := .next (s.request .ctxReset m (doCtxReset m))

/-- The body of Table 11-11; with its counts withheld (R369). -/
def State.resetBody (s : State) (c : Ctx) (withhold : Bool) : Bytes :=
  let n (v : Nat) : Nat := if withhold then 0 else v
  let k := c.counts
  toLe 4 (c.id + c.gen * 65536) ++ toLe 4 k.cause ++ toLe 4 (n k.aborted) ++ toLe 4 (n k.retracted) ++ toLe 2 (n k.fences) ++ toLe 2 0
    ++ toLe 4 (n k.pages) ++ toLe 4 (n (min c.lateDrops (2 ^ 32 - 1))) ++ toLe 4 0 ++ toLe 8 s.hub.timer ++ toLe 4 s.otp.bootEpoch
    ++ toLe 20 0

/-- The final answer to a request that waited when its context was torn down (R362, R369, R371, R541). -/
def State.lastAnswer (s : State) (c : Ctx) (w : Wait) : Reply :=
  let mgmt := match s.session? w.session with
    | some x => x.role == .management
    | none => false
  match w.what with
  | .reset => { status := .ok, payload := s.resetBody c (s.conf && mgmt) }
  | .destroy => if c.counts.cause = 3 then { status := .ok, payload := s.resetBody c false } else .of .contextReset
  | .opt => { status := .contextReset, payload := ((c.optFinal.find? (fun x => x.1 == w.session && x.2.1 == w.tag)).map (fun x => x.2.2)).getD [] }
  | .unmap _ _ | .queueDestroy _ | .fence _ _ _ | .keyBind _ | .keyDestroy _ | .group _ | .ckpt _ | .ckptRead _ | .suspend
  | .pin _ _ | .links _ _ | .groupEnd _ | .firmware => .of .contextReset

/-- TEARDOWN_DONE (R369, R371): steps 6 to 8 of Table 11-10. Keys die, frames return, windows are zeroed, and the context is
gone. -/
def doTeardownDone (id : Nat) (s : State) : State :=
  match s.ctx? id with
  | none => s
  | some c =>
    if !(s.alive && c.res.state == .resetting && s.ledgerClear id) then s
    else
      let erased := (c.pages.filter (fun p => p.share.isNone)).length
      let c1 : Ctx := { c with counts := { c.counts with pages := erased } }
      let dead := s.vault.slots.filter (fun k => k.ctx == id && k.ctxGen == c.gen && k.keyId != 0)
      let s1 := { s with vault := { s.vault with
        slots := s.vault.slots.filter (fun k => !(k.ctx == id && k.ctxGen == c.gen && k.keyId != 0)),
        freed := s.vault.freed ++ dead.map (fun (k : KeySlot) => (k.keyId, s.hub.timer)),
        bank := s.vault.bank.filter (fun b => b.ctx != id) } }
      let s2 := c.queues.foldl (fun s x => s.removeQueue id x.number) s1
      let loose (p : Page) : Page := { p with pin := false }
      let s3 := c.pages.foldl (fun (s : State) p => s.dropPinnedCopy c (loose p)) (s2.modCtx id (fun d => { d with pages := d.pages.map loose }))
      let s4 := s3.unmapPages id 0 (2 ^ 27)
      let quiet (k : Channel) : Channel := { k with waiting := k.waiting.filter (fun w => w.ctx != some id) }
      let s5 := s4.modLinks (fun l => { l with groups := l.groups.filter (fun g => g.ctx != id), channels := l.channels.map quiet })
      let s6 := s5.finishAll (fun w => w.ctx == id && w.ctxGen == c.gen) (fun w => s5.lastAnswer c1 w)
      let s7 := s6.raiseDevice .contextResetDone .ok (s6.resetBody c1 s6.conf)
      ({ s7 with ctxs := s7.ctxs.filter (fun d => d.id != id), ctxsFreed := s7.ctxsFreed ++ [(id, c.gen, s.hub.timer)] } : State).reapFences

/-- TEARDOWN_DONE. -/
def execTeardownDone (ctx : Nat) (s : State) : Host.Outcome State Fault Refusal := .next (doTeardownDone ctx s)

/-! ### CTX_DESTROY -/

/-- Records not dispatched complete with QUEUE_STOPPED (R371). A REPEAT that cannot go on, since its context has no slot, ends too. -/
def Queue.stopWaiting (x : Queue) (resident : Bool) : Queue :=
  let cut (r : Rec) : Rec :=
    if (r.phase = .waiting ∧ (r.iter = 0 ∨ !resident)) || (!resident && r.phase = .running && r.op = some .repeatOp) then
      { r with phase := .ended .queueStopped 0 0 true } else r
  { x with recs := x.recs.map cut, rep := if resident then x.rep else none }

/-- CTX_DESTROY (R371). -/
def doCtxDestroy (m : Msg) : State → Session → State × Option Reply :=
  withCtx m fun s x c =>
    if m.length ≠ 0 then refuse s .badLength
    else if !x.owns c then refuse s .denied
    else
      let s1 := c.queues.foldl (fun s q => s.dropWaitTags (q.recs.filter (fun r => r.phase == .waiting))) s
      ((s1.modCtx c.id (fun d =>
        -- destruction takes precedence over leaving residency (R362)
        { d with destroying := true, res := { d.res with leaving := .stays },
                 queues := d.queues.map (fun q => q.stopWaiting (c.res.state == .resident)) })).await x .ctxDestroy m
          .destroy, some (.of .pending))

/-- CTX_DESTROY. -/
def execCtxDestroy (m : Msg) (s : State) : Host.Outcome State Fault Refusal := .next (s.request .ctxDestroy m (doCtxDestroy m))

/-- DESTROY_DRAIN_DONE (R371): work has ended and the host has consumed every entry; teardown begins, and abandons no fence. A request of
the optimiser that a SUSPENDED context has not begun cannot run, and ends with what is still pending (step 4; DEDUCED LOG 27). -/
def doDestroyDrain (id : Nat) (s : State) : State :=
  match s.ctx? id with
  | none => s
  | some c =>
    let drained := match c.ring with
      | some g => g.used == 0 && g.held.isEmpty
      | none => true
    if s.alive && c.destroying && c.res.state != .resetting && c.queues.all (fun x => x.recs.isEmpty)
        && (c.opt.isEmpty || (c.res.state == .suspended && c.opt.all (fun o => o.run.isNone))) && !s.links.insts.any (fun i => i.ctx == id) && drained then
      s.beginTeardown id 3 false
    else s

/-- DESTROY_DRAIN_DONE. -/
def execDestroyDrainDone (ctx : Nat) (s : State) : Host.Outcome State Fault Refusal := .next (doDestroyDrain ctx s)

end Sys2Proof.Machine
end

