-- ==== Sys2Proof/Machine/Queko.lean ====
section
/-!
DEFINITION. Machine/Queko.lean: the sessions of HOST: HELLO, KEY_EXCHANGE, FEATURES and HEARTBEAT (R323–R330), frames,
acknowledgements and resends (R306–R316), the end of a session (R331), and the limits of its keys (R417).
-/
namespace Sys2Proof.Machine

/-! ### The end of a session -/

/-- The CLOSE segment (R331). -/
def closeSegment (st : Status) : Segment :=
  { msg := 0xFFFFFFFF, off := 0, slen := 16, last := true, data := toLe 2 st.code ++ List.replicate 14 0 }

/-- Send a CLOSE frame: it takes the next sequence number (R307), and nobody awaits its acknowledgement. -/
def State.sendClose (s : State) (n : Nat) (st : Status) : State :=
  match s.session? n with
  | none => s
  | some x =>
    if s.host.row.isNone then s
    else
      let f : SentFrame := { seq := x.tx.seq, kphase := x.tx.kphase, isClose := true, seg := closeSegment st }
      ({ s.modSession n (fun y => { y with tx := { y.tx with seq := y.tx.seq + 1, frames := y.tx.frames + 1 } }) with
          out := s.out ++ [s.frameOut x f] } : State).modHost (fun h => { h with sent := hostCount h.sent 1 })

/-- Is the Ledger entry one that stands for a request of the session? -/
def LedgerEntry.ofSession (e : LedgerEntry) (n : Nat) : Bool := match e.holder with
  | .event k _ | .fenceWait k _ => k == n
  | .command _ _ _ _ | .fenceIn _ _ _ _ | .instance_ _ _ _ | .transfer _ _ _ | .probe _ => false

/-- Drop a session: its keys, its requests and answers, and the Ledger entries of its requests; its number is freed (R331). -/
def State.dropSession (s : State) (x : Session) : State :=
  let leave (c : Ctx) : Ctx :=
    { c with joined := c.joined.filter (fun j => !(j.1 == x.number && j.2.1 == x.gen)),
             ring := c.ring.map (fun g => { g with sent := g.sent.filter (fun y => y.1 != x.number),
                                                   seen := g.seen.filter (fun y => y.1 != x.number) }) }
  { s with sessions := s.sessions.filter (fun y => y.number != x.number),
           sessionsFreed := s.sessionsFreed ++ [(x.number, x.gen, s.hub.timer)],
           ctxs := s.ctxs.map leave,
           waits := s.waits.filter (fun w => !(w.session == x.number && w.sgen == x.gen)),
           life := { s.life with heldAttest := s.life.heldAttest.filter (fun m => m.session != x.number) },
           ledger := { s.ledger with entries := s.ledger.entries.filter (fun e => e.quarantine.isSome || !e.ofSession x.number) },
           -- entries of the device's ring that the host has not consumed are sent to the next management session (LOG 27)
           logs := { s.logs with ring := s.logs.ring.filter (fun e => e.dest != some x.number),
                                 sent := if x.role = .management then 0 else s.logs.sent } }

/-- A session ends (R331): CLOSE unless the peer sent it, its unsent answers and requests dropped, a reset of every context that it owns, and its
keys gone. -/
def State.endSession (s : State) (n cause : Nat) (close : Option Status) : State :=
  match s.session? n with
  | none => s
  | some x =>
    let s1 := match close with
      | some st => s.sendClose n st
      | none => s
    let owned := if x.role = .tenant then s.ctxs.filter (fun c => x.owns c) else []
    (owned.foldl (fun s c => s.resetCtx c.id cause) (s1.dropSession x).turnHost).watchBuffers

/-- HEARTBEAT_LOSS (R330, R331, Table 10-13). -/
def doHeartbeatLoss (n : Nat) (s : State) : State :=
  match s.session? n with
  | none => s
  | some x =>
    if s.alive && x.isOpen && decide (x.lastFrame + 4 * x.hbPeriod * 2 ^ 20 ≤ s.hub.timer) then s.endSession n 2 (some .timeout) else s

/-- HEARTBEAT_LOSS. -/
def execHeartbeatLoss (session : Nat) (s : State) : Host.Outcome State Fault Refusal := .next (doHeartbeatLoss session s)

/-- HANDSHAKE_TIMEOUT (R327). -/
def doHandshakeTimeout (n : Nat) (s : State) : State :=
  match s.session? n with
  | none => s
  | some x => if s.alive && !x.isOpen && decide (x.helloAt + 2 ^ 28 ≤ s.hub.timer) then s.endSession n 4 none else s

/-- HANDSHAKE_TIMEOUT. -/
def execHandshakeTimeout (session : Nat) (s : State) : Host.Outcome State Fault Refusal := .next (doHandshakeTimeout session s)

/-! ### HELLO -/

/-- Feature bits that the device supports: all of Table 18-8 (R325). -/
def deviceFeatures : Nat := 2 ^ 10 - 1

/-- Role of a code of Table 10-9. -/
def Role.ofCode : Nat → Role
  | 1 => .management
  | 2 => .observer
  | _ => .tenant

/-- Is the key the one that Table 13-2 names for a management session? -/
def State.managementKey (s : State) (key : Bytes) : Bool :=
  let maker := s.otp.makerKeys.contains key
  match s.life.inForce with
  | .maker | .returned => maker
  | .fielded => s.life.opKey == some key
  | .integrator | .locked => (match s.life.opKey with
    | some k => k == key
    | none => maker)
  | .scrapped | .invalid => false

/-- The number and generation of the next session (R331, R344). -/
def State.nextSession (s : State) : Option (Nat × Nat) :=
  match pickId 256 (s.sessions.map (fun x => x.number)) s.sessionsFreed s.hub.timer
      (fun n => s.ledger.entries.any (fun e => e.ofSession n)) with
  | none => none
  | some (n, g) => some (n, if s.sessionsFreed.any (fun f => f.1 == n) then (g + 1) % 256 else 0)

/-- The first 32 bytes of a HELLO answer (Table 10-12): the device's features, and F_P32 in `required`. -/
def helloMaps : Bytes := toLe 16 deviceFeatures ++ toLe 16 1

/-- The status of a HELLO (R321 cases 1 and 2, R438, R324). -/
def State.helloStatus (s : State) (m : Msg) : Status :=
  let p := m.payload
  let required := ofLe (slice p 16 16)
  let roleByte := ofLe (slice p 32 1)
  let role := Role.ofCode (field roleByte 1 0)
  let segLog2 := ofLe (slice p 33 1)
  let period := ofLe (slice p 34 2)
  (firstOf [
    (decide (m.length > 65504) || !m.fits, Status.badLength),
    (m.rsvd != 0 || m.status != 0 || m.ctx != 0 || m.ctxGen != 0, .reservedSet),
    (s.life.trial.isSome, .busyUpdate),
    (decide (m.length ≠ 1760), .badLength),
    (anySet roleByte 7 2 || !allZero (slice p 36 28) || !allZero (slice p 1745 15), .reservedSet),
    (field roleByte 1 0 == 3 || decide (segLog2 < 10) || decide (13 < segLog2) || decide (period < 1) || decide (1023 < period)
      || (role == .management && !s.managementKey (slice p 1688 57)) || anySet required 127 10 || !flag (ofLe (slice p 0 16)) 0, .denied),
    ((s.life.inForce == .returned || s.life.inForce == .locked) && role == .tenant, .lifecycle),
    (decide (16 ≤ (s.sessions.filter (fun x => !x.isOpen)).length) || s.nextSession.isNone
      || (role == .management && s.sessions.any (fun x => x.role == .management)), .noSlot)]).getD .ok

/-- The session that an accepted HELLO opens, and the payload of its answer (R324–R326). -/
def State.greet (s : State) (peer : Nat) (m : Msg) (n g : Nat) : State × Session × Bytes :=
  let p := m.payload
  let d := s.draw 88
  let opening := slice p 64 1624
  let head := helloMaps ++ toLe 1 n ++ toLe 1 g ++ slice p 33 1 ++ toLe 1 0 ++ slice p 34 2 ++ toLe 2 0 ++ toLe 4 s.otp.bootEpoch
    ++ toLe 20 0 ++ exchangeAnswer d.2 opening ++ s.attestPub ++ toLe 15 0
  let hash := shake256 (p ++ head) 64
  let sig := d.1.attestSign hash
  let keys := kmac256 (sharedOfAnswer d.2 opening) hash "QUEKO SESSION" 64
  let x : Session :=
    { number := n, gen := g, role := Role.ofCode (field (ofLe (slice p 32 1)) 1 0), hostKey := slice p 1688 57, isOpen := false,
      helloAt := s.hub.timer, transcript := hash, keyIn := keys.take 32, keyOut := keys.drop 32,
      features := ofLe (slice p 0 16) &&& deviceFeatures, segLog2 := ofLe (slice p 33 1), hbPeriod := ofLe (slice p 34 2),
      lastFrame := s.hub.timer, peer := peer }
  (sig.1, x, head ++ sig.2 ++ toLe 14 0)

/-- Count frames that HOST discards (R301, R310). -/
def State.hostDrops (s : State) (n : Nat) : State := { s with logs := { s.logs with hostDiscarded := hostCount s.logs.hostDiscarded n } }

/-- Send a message in HS frames of 1,024 bytes (R306, R308), not encrypted. -/
def State.sendHs (s : State) (hs peer : Nat) (tag : Nat) (st : Status) (payload : Bytes) : State :=
  let segs := segmentsOf 0 1024 2 0 (headerBytes Opcode.hello.code true false 0 0 tag payload.length st.code 0 ++ payload)
  ({ s with out := s.out ++ .hello hs tag st.code payload :: segs.map (fun g => .queko (s.host.hdr peer) { kind := 2, seq := hs } g) } : State).modHost
    (fun h => { h with sent := hostCount h.sent segs.length })

/-- HELLO, a message that has come whole (R323–R326): answered in HS frames with the same handshake id. -/
def State.meet (s : State) (hs peer : Nat) (m : Msg) : State :=
  match s.helloStatus m, s.nextSession with
  | .ok, some (n, g) =>
    let r := s.greet peer m n g
    let x := { r.2.1 with hsId := hs }
    ({ r.1 with sessions := r.1.sessions ++ [x], sessionsFreed := r.1.sessionsFreed.filter (fun f => f.1 != n) } : State).sendHs hs peer m.tag .ok r.2.2
  | st, _ => s.sendHs hs peer m.tag st (helloMaps ++ List.replicate 1856 0)

/-- Is a run of segments whole: each begins where the one before it ends, and only the final one is the last? (R309) -/
def segsWhole : Nat → List Segment → Bool
  | _, [] => false
  | at_, [g] => g.off == at_ && g.last && g.slen == g.data.length
  | at_, g :: h :: r => g.off == at_ && !g.last && g.slen == g.data.length && segsWhole (at_ + g.slen) (h :: r)

/-- HELLO in HS frames (R306, R308–R310): frames that break R310 are discarded and counted; those of the first one's handshake and address make up
the message, once its last segment is among them. An HS frame that names a session, and a message other than a HELLO, are discarded too
(DEDUCED LOG 27). -/
def doHello (frames : List (QFrame × Segment)) (s : State) : State :=
  if !s.alive || s.host.row.isNone then s
  else
    let fits (f : QFrame × Segment) : Bool := f.1.ver == 1 && f.1.kind == 2 && f.1.rsvd == 0 && f.1.session == 0 && f.1.sgen == 0
      && f.2.rsvd == 0 && (f.1.sec || !s.host.cfg.macsecReq)
    let good := frames.filter fits
    let s0 := (s.modHost (fun h => { h with received := hostCount h.received frames.length })).hostDrops (frames.length - good.length)
    match good with
    | [] => s0
    | f :: _ =>
      let run := sortBy (fun (g : Segment) => g.off) ((good.filter (fun x => x.1.seq == f.1.seq && x.1.peer == f.1.peer)).map (fun x => x.2))
      if !run.any (fun g => g.last) then s0
      else
        let r := msgOf 0 (segsWhole 0 run) (run.flatMap (fun g => g.data))
        if r.1 != Opcode.hello.code || r.2.1 || r.2.2.1 then s0.hostDrops 1
        else s0.meet f.1.seq f.1.peer r.2.2.2

/-- HELLO: its first frame, and those after it. -/
def execHello (f : QFrame) (g : Segment) (more : List (QFrame × Segment)) (s : State) : Host.Outcome State Fault Refusal :=
  .next (doHello ((f, g) :: more) s)

/-! ### KEY_EXCHANGE -/

/-- Cases 1 to 3 of R327. -/
def exchangeCheck (m : Msg) (isOpen : Bool) : Option Status :=
  firstOf [
    (decide (1 < m.arg0), Status.reservedSet),
    (decide (m.length ≠ (if m.arg0 = 0 then 128 else 1624)), .badLength),
    ((m.arg0 == 1) != isOpen, .denied)]

/-- What opens a session (R327): the host's signature over the transcript hash. -/
def State.openStatus (s : State) (x : Session) (m : Msg) : Status :=
  match s.refusalOf x .keyExchange m with
  | some st => st
  | none => match exchangeCheck m false with
    | some st => st
    | none =>
      if !allZero (slice m.payload 114 14) then .reservedSet
      else if s.verifies x.hostKey (x.transcript ++ ascii "host") (slice m.payload 0 114) then .ok else .denied

/-- KEY_EXCHANGE on a session in handshake (R327): it opens, or the handshake is closed. -/
def doKeyOpen (m : Msg) (s : State) : State :=
  let s0 := s.takeMail .keyExchange m
  match s0.session? m.session with
  | none => s
  | some x => match s0.openStatus x m with
    | .ok => (s0.modSession m.session (fun y => { y with isOpen := true, lastFrame := s.hub.timer })).answer .keyExchange m (.of .ok)
    | .denied => (s0.answer .keyExchange m (.of .denied)).endSession m.session 4 none
    | st => s0.answer .keyExchange m (.of st)

/-- The rekey of R329: the new keys are formed, and come into force after the answer. -/
def doRekey (m : Msg) (s : State) (x : Session) : State × Option Reply :=
  match exchangeCheck m true with
  | some st => refuse s st
  | none =>
    let d := s.draw 88
    let ks := kmac256 (x.keyIn ++ sharedOfAnswer d.2 m.payload) x.transcript "QUEKO REKEY" 64
    (d.1.modSession m.session (fun y => { y with next := some (ks.take 32, ks.drop 32) }),
      some { status := .ok, payload := exchangeAnswer d.2 m.payload })

/-- The old keys go when nothing needs them any more (R329). -/
def Session.shedOld (x : Session) : Session :=
  let passed := match x.rx.oldKept with
    | some q => decide (q < x.rx.ack)
    | none => true
  { x with rx := { x.rx with oldKept := if passed then none else x.rx.oldKept }, oldIn := if passed then [] else x.oldIn,
           oldOut := if x.tx.oldLeft == 0 && x.tx.unacked.all (fun f => f.kphase == x.tx.kphase) then [] else x.oldOut }

/-- Frames sent after the answer of a rekey use the new keys, with the key phase flipped (R329). -/
def Session.turn (x : Session) : Session :=
  match x.next with
  | none => x
  | some (i, o) =>
    ({ x with keyIn := i, keyOut := o, oldIn := x.keyIn, oldOut := x.keyOut, next := none,
              rx := { x.rx with kphase := !x.rx.kphase, oldKept := some (2 ^ 64), frames := 0, rotated := false, lastRotate := 0 },
              tx := { x.tx with kphase := !x.tx.kphase, oldLeft := x.tx.waiting.length, frames := 0, rotated := false,
                                lastRotate := 0 } } : Session).shedOld

/-- KEY_EXCHANGE of either kind. -/
def doKeyExchange (m : Msg) (s : State) : State :=
  if s.alive && s.inTurn .keyExchange m && (match s.session? m.session with
      | some x => !x.isOpen
      | none => false) then doKeyOpen m s
  else s.requestThen .keyExchange m (doRekey m) (fun t => t.modSession m.session Session.turn)

/-- KEY_EXCHANGE with `arg0` 0. -/
def execKeyExchangeOpen (m : Msg) (s : State) : Host.Outcome State Fault Refusal := .next (doKeyExchange m s)
/-- KEY_EXCHANGE with `arg0` 1. -/
def execKeyExchangeRekey (m : Msg) (s : State) : Host.Outcome State Fault Refusal := .next (doKeyExchange m s)

/-! ### FEATURES and HEARTBEAT -/

/-- FEATURES (R328). -/
def doFeatures (m : Msg) (s : State) (x : Session) : State × Option Reply :=
  if m.length ≠ 16 then refuse s .badLength
  else
    let f := x.features &&& ofLe (slice m.payload 0 16)
    (s.modSession m.session (fun y => { y with features := f }), some { status := .ok, payload := toLe 16 f })

/-- FEATURES. -/
def execFeatures (m : Msg) (s : State) : Host.Outcome State Fault Refusal := .next (s.request .features m (doFeatures m))

/-- HEARTBEAT (R330). -/
def doHeartbeat (m : Msg) (s : State) (_ : Session) : State × Option Reply :=
  if m.length ≠ 0 then refuse s .badLength
  else (s, some { status := .ok, arg0 := s.hub.timer, payload := toLe 4 s.otp.bootEpoch ++ toLe 4 0 })

/-- HEARTBEAT. -/
def execHeartbeat (m : Msg) (s : State) : Host.Outcome State Fault Refusal := .next (s.request .heartbeat m (doHeartbeat m))

/-! ### Frames that arrive -/

/-- Count a frame that HOST discards (R301, R310). -/
def State.hostDrop (s : State) : State := s.hostDrops 1
/-- Count a frame of another generation (R310). -/
def State.hostStale (s : State) : State := { s with logs := { s.logs with hostStale := hostCount s.logs.hostStale 1 } }

/-- Does the device hold the key of the frame's phase? -/
def Session.opens (x : Session) (f : QFrame) : Bool := f.kphase == x.rx.kphase || x.rx.oldKept.isSome

/-- A frame whose tag verified renews the heartbeat, sets the address of the session, and counts under its key (R311, R330, R417). -/
def Session.heard (x : Session) (f : QFrame) (now : Nat) : Session :=
  { x with lastFrame := now, peer := f.peer,
           rx := { x.rx with ce := x.rx.ce + f.ce.toNat, frames := x.rx.frames + (if f.kphase = x.rx.kphase then 1 else 0) } }

/-- The checks of R310 up to the tag, the frame's body and place in its order apart: the session, when the frame passes; `kind` is the type of
frame that has such a body. A frame that MACsec does not protect is discarded where it must (Table 10-3). -/
def State.hostFrame (s : State) (kind : Nat) (f : QFrame) : State × Option Session :=
  let s0 := s.modHost (fun h => { h with received := hostCount h.received 1 })
  if (s.host.cfg.macsecReq && !f.sec) || f.ver != 1 || f.kind != kind || f.rsvd != 0 then (s0.hostDrop, none)
  else match s0.session? f.session with
    | none => (s0.hostDrop, none)
    | some x =>
      if x.gen ≠ f.sgen then (s0.hostStale, none)
      else if !f.tagOk || !x.opens f then
        -- the alarm names the hub and, for HOST, port 0 (R395; DEDUCED LOG 27)
        ((s0.hostDrop.modHost (fun h => { h with authFails := hostCount h.authFails 1 })).alarmPort dieHub 12 0, none)
      else
        let s1 := s0.modSession f.session (fun y => y.heard f s.hub.timer)
        (s1, s1.session? f.session)

/-! ### Messages that are complete -/

/-- The mailbox code of an answer to an EVENT request. -/
def eventAnswerCode : Nat := Opcode.event.code + 65536 + 131072

/-- Put a message into the mailbox of its session. -/
def State.putMail (s : State) (n code : Nat) (m : Msg) : State :=
  s.modSession n (fun x => { x with rx := { x.rx with mailbox := x.rx.mailbox ++ [(code, m)] } })

/-- Hand over a message that is complete (R309, R321, R322, R327). A request that no command of the table carries is answered here:
an unknown opcode, a HELLO and an EVENT. One that says that the device sent it (`dev` 1) is handled like any other (DEDUCED LOG 27). -/
def State.handOver (s : State) (n : Nat) (r : Nat × Bool × Bool × Msg) : State :=
  let m := r.2.2.2
  match s.session? n with
  | none => s
  | some x =>
    if r.2.1 then
      (if r.2.2.1 && r.1 == Opcode.event.code && x.isOpen then s.putMail n eventAnswerCode m
       else { s with ledger := { s.ledger with stale := s.ledger.stale + 1 } })
    -- R321 names the HELLO of a session in handshake; every other message on it is discarded (R327)
    else if !x.isOpen && r.1 != Opcode.keyExchange.code && r.1 != Opcode.hello.code then s.hostDrop
    else match (if r.1 / 256 = 0x0C then none else Opcode.ofCode r.1) with
      | none =>
        let st := if decide (m.length > 65504) || !m.fits then Status.badLength
          else if m.rsvd != 0 || m.status != 0 then .reservedSet else .badOpcode
        s.send n r.1 true false m.ctx m.ctxGen m.tag st.code 0 []
      | some .hello => s.answer .hello m (.of ((s.refusalOf x .hello m).getD .denied))
      | some .event => s.answer .event m (.of ((s.refusalOf x .event m).getD .denied))
      | some op => s.putMail n op.code m

/-- Take the messages that are complete, in ascending `msg` (R309). -/
def State.assemble (s : State) (n : Nat) : Nat → State
  | 0 => s
  | fuel + 1 => match s.session? n with
    | none => s
    | some x =>
      let here := x.rx.segs.filter (fun g => g.msg == x.rx.nextMsg)
      if !here.any (fun g => g.last) then s
      else
        let run := sortBy (fun g => g.off) here
        let s1 := s.modSession n (fun y =>
          { y with rx := { y.rx with segs := y.rx.segs.filter (fun g => g.msg != x.rx.nextMsg), nextMsg := y.rx.nextMsg + 1 } })
        (s1.handOver n (msgOf n (segsWhole 0 run) (run.flatMap (fun g => g.data)))).assemble n fuel

/-- Take the frames that are in order (R312): segments join their message, and a CLOSE ends the session (R331). -/
def State.inOrder (s : State) (n : Nat) : Nat → State
  | 0 => s
  | fuel + 1 => match s.session? n with
    | none => s
    | some x => match x.rx.held.find? (fun h => h.seq == x.rx.ack) with
      | none => s
      | some h =>
        if h.isClose then s.endSession n 4 none
        else
          let s1 := s.modSession n (fun y =>
            { y with rx := { y.rx with ack := y.rx.ack + 1, held := y.rx.held.filter (fun k => k.seq != h.seq),
                                       segs := if h.seg.msg < y.rx.nextMsg then y.rx.segs else y.rx.segs ++ [h.seg] } })
          (s1.assemble n (x.rx.segs.length + 1)).inOrder n fuel

/-- A frame that took a sequence number has come: an ACK goes out after every sixteen (R312). A duplicate counts as received, so that
its sender hears of it (DEDUCED LOG 32). -/
def State.noteFrame (s : State) (n : Nat) : State :=
  let s1 := s.modSession n (fun x =>
    { x with rx := { x.rx with unacked := x.rx.unacked + 1, since := if x.rx.unacked = 0 then s.hub.timer else x.rx.since } })
  match s1.session? n with
  | some x => if 16 ≤ x.rx.unacked then s1.sendAck n else s1
  | none => s1

/-- A DATA or CLOSE frame (R310, R312). -/
def doSegmentFrame (f : QFrame) (g : Segment) (isClose : Bool) (s : State) : State :=
  if !s.alive || s.host.row.isNone then s
  else
    let r := s.hostFrame (if isClose then 3 else 0) f
    match r.2 with
    | none => r.1
    | some x =>
      if g.rsvd != 0 || (isClose && (g.msg != 0xFFFFFFFF || g.data.length != 16 || !allZero (g.data.drop 2))) then r.1.hostDrop
      else if f.seq < x.rx.ack || x.rx.held.any (fun h => h.seq == f.seq) then r.1.hostDrop.noteFrame f.session
      else if x.rx.ack + 4096 ≤ f.seq then r.1.hostDrop
      else
        let first := if f.kphase = x.rx.kphase then x.rx.oldKept.map (fun q => min q f.seq) else x.rx.oldKept
        let s1 := r.1.modSession f.session (fun y =>
          { y with rx := { y.rx with held := y.rx.held ++ [{ seq := f.seq, isClose := isClose, seg := g }], oldKept := first } })
        let s2 := s1.inOrder f.session (x.rx.held.length + 1)
        ((s2.modSession f.session Session.shedOld).noteFrame f.session).watchBuffers

/-- QUEKO_DATA_FRAME. -/
def execQuekoDataFrame (f : QFrame) (g : Segment) (s : State) : Host.Outcome State Fault Refusal := .next (doSegmentFrame f g false s)
/-- CLOSE (R331). -/
def execClose (f : QFrame) (g : Segment) (s : State) : Host.Outcome State Fault Refusal := .next (doSegmentFrame f g true s)

/-! ### Acknowledgements and resends -/

/-- Send frames again, bit for bit (R315). -/
def State.resendFrames (s : State) (n : Nat) (fs : List SentFrame) : State :=
  if !s.hostSends then s
  else match s.session? n with
    | none => s
    | some x => ({ s with out := s.out ++ fs.map (s.frameOut x) } : State).modHost (fun h => { h with resent := hostCount h.resent fs.length })

/-- The session's rate (R316), as the rate of a channel. -/
def TxHalf.pace (t : TxHalf) (ack ce : Nat) : TxHalf := { t with rate := t.rate.pace ack t.seq ce }

/-- Does an ACK body acknowledge the frame? -/
def ackCovers (b : AckBody) (f : SentFrame) : Bool :=
  decide (f.seq < b.ack) || (decide (b.ack < f.seq) && decide (f.seq ≤ b.ack + 64) && flag b.sack (f.seq - b.ack - 1))

/-- QUEKO_ACK_FRAME (R312, R314–R316). An ACK older than one already taken changes nothing more (DEDUCED LOG 32). -/
def doAckFrame (f : QFrame) (b : AckBody) (s : State) : State :=
  if !s.alive || s.host.row.isNone then s
  else
    let r := s.hostFrame 1 f
    match r.2 with
    | none => r.1
    | some x =>
      if b.rsvd != 0 || decide (1024 < b.window) || f.seq < x.rx.ackSeq then r.1.hostDrop
      else
        let gone := x.tx.unacked.filter (ackCovers b)
        let left := x.tx.unacked.filter (fun u => !ackCovers b u)

        let s1 := r.1.modSession f.session (fun y =>
          let t : TxHalf := { y.tx with unacked := left, window := b.window,
                                        lastAdvance := if gone.isEmpty then y.tx.lastAdvance else s.hub.timer,
                                        rto := if gone.isEmpty then y.tx.rto else 4096 }
          ({ y with rx := { y.rx with ackSeq := f.seq + 1 }, tx := t.pace b.ack b.ce } : Session).shedOld)
        let missing := left.filter (fun (u : SentFrame) => decide (b.ack ≤ u.seq) && decide (0 < b.sack >>> (u.seq - b.ack)))
        (s1.resendFrames f.session missing).pump f.session

/-- QUEKO_ACK_FRAME. -/
def execQuekoAckFrame (f : QFrame) (b : AckBody) (s : State) : Host.Outcome State Fault Refusal := .next (doAckFrame f b s)

/-- QUEKO_ACK_TIMER (R312): 256 counts with frames unacknowledged. -/
def doAckTimer (n : Nat) (s : State) : State :=
  match s.session? n with
  | none => s
  | some x => if s.alive && decide (0 < x.rx.unacked) && decide (x.rx.since + 256 ≤ s.hub.timer) then s.sendAck n else s

/-- QUEKO_ACK_TIMER. -/
def execQuekoAckTimer (session : Nat) (s : State) : Host.Outcome State Fault Refusal := .next (doAckTimer session s)

/-- QUEKO_RETRANSMIT_TIMEOUT (R315): every unacknowledged frame goes again, and the time doubles up to 2^16. -/
def doRetransmit (n : Nat) (s : State) : State :=
  match s.session? n with
  | none => s
  | some x =>
    if s.alive && s.hostSends && !x.tx.unacked.isEmpty && decide (x.tx.lastAdvance + x.tx.rto ≤ s.hub.timer) then
      (s.modSession n (fun y =>
        { y with tx := { y.tx with rto := min (2 * y.tx.rto) 65536, lastAdvance := s.hub.timer } })).resendFrames n x.tx.unacked
    else s

/-- QUEKO_RETRANSMIT_TIMEOUT. -/
def execQuekoRetransmitTimeout (session : Nat) (s : State) : Host.Outcome State Fault Refusal := .next (doRetransmit session s)

/-! ### Key limits of a session -/

/-- Frames under the current key of a direction: device to host, or host to device. -/
def Session.keyFrames (x : Session) (toHost : Bool) : Nat := if toHost then x.tx.frames else x.rx.frames

/-- Raise KEY_ROTATE on the session itself (R536): an entry of the device's own ring. -/
def State.raiseRotate (s : State) (n : Nat) (toHost again : Bool) : State :=
  match s.session? n with
  | none => s
  | some x =>
    let w := x.keyFrames toHost % 2 ^ 64 + toHost.toNat * 2 ^ 64 + again.toNat * 2 ^ 65
    s.raiseTo (some n) .keyRotate .ok (toLe 64 w)

/-- Note that KEY_ROTATE was raised for a direction. -/
def Session.noteRotate (x : Session) (toHost : Bool) (now : Nat) : Session :=
  if toHost then { x with tx := { x.tx with rotated := true, lastRotate := now } }
  else { x with rx := { x.rx with rotated := true, lastRotate := now } }

/-- Whether KEY_ROTATE was raised for a direction, and when last. -/
def Session.rotation (x : Session) (toHost : Bool) : Bool × Nat :=
  if toHost then (x.tx.rotated, x.tx.lastRotate) else (x.rx.rotated, x.rx.lastRotate)

/-- KEY_ROTATE (R329): a direction reaches 2^47 frames under its key. -/
def doKeyRotate (n : Nat) (toHost : Bool) (s : State) : State :=
  match s.session? n with
  | none => s
  | some x =>
    if s.alive && x.isOpen && decide (2 ^ 47 ≤ x.keyFrames toHost) && !(x.rotation toHost).1 then
      (s.raiseRotate n toHost false).modSession n (fun y => y.noteRotate toHost 0)
    else s

/-- KEY_ROTATE. -/
def execKeyRotate (session : Nat) (toHost : Bool) (s : State) : Host.Outcome State Fault Refusal := .next (doKeyRotate session toHost s)

/-- KEY_ROTATE_REPEAT (R417): at 2^48, and every 2^26 counts from then until the rekey ends. -/
def doKeyRotateRepeat (n : Nat) (toHost : Bool) (s : State) : State :=
  match s.session? n with
  | none => s
  | some x =>
    let last := (x.rotation toHost).2
    if s.alive && x.isOpen && decide (2 ^ 48 ≤ x.keyFrames toHost) && (last == 0 || decide (last + 2 ^ 26 ≤ s.hub.timer)) then
      (s.raiseRotate n toHost true).modSession n (fun y => y.noteRotate toHost s.hub.timer)
    else s

/-- KEY_ROTATE_REPEAT. -/
def execKeyRotateRepeat (session : Nat) (toHost : Bool) (s : State) : Host.Outcome State Fault Refusal :=
  .next (doKeyRotateRepeat session toHost s)


/-- KEY_LIMIT_STOP (R417): the session ends with CLOSE and KEY_EXHAUSTED, the port goes down and trains again, the lease is broken. -/
def doKeyLimitStop (session port lease : Option Nat) (toHost : Bool) (s : State) : State :=
  if !s.alive then s
  else
    let s1 := match session.bind (fun n => s.session? n) with
      | some x => if x.isOpen && decide (frameLimit ≤ x.keyFrames toHost) then s.endSession x.number 4 (some .keyExhausted) else s
      | none => s
    let s2 := match port with
      | some p => if s1.links.channels.any (fun c => c.port == p && (decide (frameLimit ≤ c.frames) || decide (frameLimit ≤ c.linkFrames))) then
          s1.stopPortKeys p else s1
      | none => s1
    match lease.bind (fun l => s2.lease? l) with
    | some l => if frameLimit ≤ l.uses then s2.breakLease l.slot else s2
    | none => s2

/-- KEY_LIMIT_STOP. -/
def execKeyLimitStop (session port lease : Option Nat) (toHost : Bool) (s : State) : Host.Outcome State Fault Refusal :=
  .next (doKeyLimitStop session port lease toHost s)

end Sys2Proof.Machine
end

