-- ==== Sys2Proof/Machine/Events.lean ====
section
/-!
DEFINITION. Machine/Events.lean: EVENT requests of the device and their answers (R332–R335, R352, R353).
-/
namespace Sys2Proof.Machine

/-- Does the session receive the events of the context? -/
def Session.gets (x : Session) (c : Ctx) : Bool := x.isOpen && (x.owns c || !(x.joinedAs c).isEmpty)

/-- The value that a list keeps for a session. -/
def valueOf (l : List (Nat × Nat)) (n d : Nat) : Nat := match l.find? (fun y => y.1 == n) with
  | some y => y.2
  | none => d

/-- Set the value that a list keeps for a session. -/
def setValue (l : List (Nat × Nat)) (n v : Nat) : List (Nat × Nat) := (n, v) :: l.filter (fun y => y.1 != n)

/-- May entries of the context go out now? (R353) -/
def Ctx.speaks (c : Ctx) : Bool := c.res.state == .resident || (c.destroying && c.res.state != .resetting)

/-- Does an entry of the device's own ring go to the session: the session's own KEY_ROTATE, or, to the management session, an entry of the
device? -/
def Entry.goesTo (e : Entry) (x : Session) : Bool := match e.dest with
  | none => x.role == .management
  | some n => n == x.number

/-- The entries of the device's own ring for a session, from the next to send (R333). -/
def State.deviceEntries (s : State) (x : Session) : List Entry :=
  s.logs.ring.filter (fun e => e.goesTo x && decide ((if e.dest.isNone then s.logs.sent else x.ownSent) ≤ e.rseq))

/-- Entries of a context's ring for a session, from the next to send. -/
def Ring.next (r : Ring) (n : Nat) : List Entry := r.entries.filter (fun e => decide (valueOf r.sent n r.consumed ≤ e.rseq))

/-- The value past the last of some entries. -/
def pastLast (es : List Entry) : Nat := es.foldl (fun m e => max m (e.rseq + 1)) 0

/-- The number by which an EVENT request goes: the Ledger tag and its generation (R335). -/
def eventTag (tag gen : Nat) : Nat := tag + gen * 2 ^ 14

/-- Send an EVENT request with entries (R332, R335), if a hub entry of the Ledger is free. -/
def State.sendEvent (s : State) (n : Nat) (c : Option Ctx) (es : List Entry) (again : Nat) : Option State :=
  match s.session? n with
  | none => none
  | some x => match s.ledger.freeTag hubTags 4096 with
    | none => none
    | some t =>
      let id := c.map (fun d => d.id)
      let deadline := s.hub.timer + 2 ^ 26
      let l := s.ledger.issue t (.event n t) id (some deadline)
      let g := l.genOf t
      let fresh := if x.role = .management ∧ c.isNone then s.logs.lost else 0
      let own := if c.isNone then x.ownLost else 0
      let lost := min (again + fresh + own) (2 ^ 32 - 1)
      let ids := match c with
        | some d => (d.id, d.gen)
        | none => (0, 0)
      let r : EventReq := { tag := t, gen := g, ctx := id, ctxGen := ids.2, entries := es, lost := lost, deadline := deadline }
      let s1 := ({ s with ledger := l, logs := { s.logs with lost := s.logs.lost - fresh } } : State).modSession n
        (fun y => { y with events := y.events ++ [r], ownLost := y.ownLost - own })
      some (s1.send n Opcode.event.code false true ids.1 ids.2 (eventTag t g) 0 (es.length + lost * 2 ^ 32) (es.flatMap Entry.bytes))

/-- Note that the device's entries below a value have been sent to a session. -/
def State.noteSent (s : State) (n v : Nat) (mgmt : Bool) : State :=
  let s1 := s.modSession n (fun y => { y with ownSent := max y.ownSent v })
  if mgmt then { s1 with logs := { s1.logs with sent := max s1.logs.sent v } } else s1

/-- Set the next entry of a context's ring to send to a session. -/
def Ctx.setSent (c : Ctx) (n v : Nat) : Ctx := { c with ring := c.ring.map (fun r => { r with sent := setValue r.sent n v }) }

/-- EVENT_SEND (R332, R333, R353): at most 818 entries in ascending `rseq`, and at most 8 requests unanswered. Events wait during a
firmware activation (R438). -/
def doEventSend (n : Nat) (ctx : Option Nat) (s : State) : State :=
  match s.session? n with
  | none => s
  | some x =>
    if !s.alive || s.life.trial.isSome || !x.isOpen || decide (8 ≤ (x.events.filter (fun e => !e.answered)).length) then s
    else match ctx with
      | none =>
        let es := (s.deviceEntries x).take 818
        if es.isEmpty then s
        else match s.sendEvent n none es 0 with
          | some t => t.noteSent n (pastLast es) (x.role == .management)
          | none => s
      | some id => match s.ctx? id with
        | none => s
        | some c =>
          let es := match c.ring with
            | some r => (r.next n).take 818
            | none => []
          if !x.gets c || !c.speaks || es.isEmpty then s
          else match s.sendEvent n (some c) es 0 with
            | some t => t.modCtx id (fun d => d.setSent n (pastLast es))
            | none => s

/-- EVENT_SEND. -/
def execEventSend (session : Nat) (ctx : Option Nat) (s : State) : Host.Outcome State Fault Refusal := .next (doEventSend session ctx s)

/-! ### Answers -/

/-- Events that waited for one of the sixteen places take it (R352). -/
def Ring.letIn (r : Ring) : Nat → Ring
  | 0 => r
  | fuel + 1 => match r.held with
    | [] => r
    | e :: es => if r.others < 16 then (({ r with held := es } : Ring).push e).letIn fuel else r

/-- Free a ring up to a value (R333). -/
def Ring.consume (r : Ring) (v : Nat) : Ring :=
  let top := max r.consumed (min v r.rseq)
  ({ r with consumed := top, entries := r.entries.filter (fun e => decide (top ≤ e.rseq)) } : Ring).letIn r.held.length

/-- A session reports what it has consumed of a context's ring: the ring is freed up to the least value among the sessions that
receive its events (DEDUCED LOG 27). -/
def State.consumeCtx (s : State) (n id v : Nat) : State :=
  (s.modCtx id (fun c => match c.ring with
    | none => c
    | some r =>
      let seen := setValue r.seen n (max v (valueOf r.seen n r.consumed))
      let all := (s.sessions.filter (fun x => x.gets c)).map (fun x => valueOf seen x.number r.consumed)
      let least := all.foldl (fun m a => min m a) v
      { c with ring := some (({ r with seen := seen, sent := setValue r.sent n (max v (valueOf r.sent n r.consumed)) } : Ring).consume least) })).writeRing id (s.ringNext id)

/-- A session reports what it has consumed of the device's own ring: its own entries up to that value are freed; those that go to another
session stay (DEDUCED LOG 27). -/
def State.consumeDevice (s : State) (x : Session) (v : Nat) : State :=
  { s with logs := { s.logs with ring := s.logs.ring.filter (fun e => !e.goesTo x || decide (min v s.logs.rseq ≤ e.rseq)) } }

/-- Forget an EVENT request. -/
def State.endEvent (s : State) (n : Nat) (e : EventReq) : State :=
  s.modSession n (fun y => { y with events := y.events.filter (fun r => !(r.tag == e.tag && r.gen == e.gen)) })

/-- An answer that matches no open request: of one that has timed out, counted as a late drop of its context; else under
STALE_GENERATION (R163, R322). -/
def State.lateEvent (s : State) (tag gen : Nat) : State :=
  match s.ledger.entries.find? (fun e => e.tag == tag && e.gen == gen && e.quarantine.isSome) with
  | some e => (match e.ctx with
    | some c => s.modCtx c (fun d => { d with lateDrops := d.lateDrops + 1 })
    | none => s)
  | none => { s with ledger := { s.ledger with stale := s.ledger.stale + 1 } }

/-- EVENT_ANSWER (R333): OK frees the ring up to `arg0`; after any other status the entries go again when the time of R335 has passed
(DEDUCED LOG 27). -/
def doEventAnswer (m : Msg) (s : State) : State :=
  if !s.listens m.session then s
  else
    let s0 := (s.modSession m.session (fun x =>
      { x with rx := { x.rx with mailbox := dropFirst (eventAnswerCode, m) x.rx.mailbox } })).watchBuffers
    match s0.session? m.session with
    | none => s
    | some x =>
      let tag := m.tag % 2 ^ 14
      let gen := m.tag / 2 ^ 14
      match x.events.find? (fun e => e.tag == tag && e.gen == gen && !e.answered) with
      | none => s0.lateEvent tag gen
      | some e =>
        let s1 := (s0.freeTag tag).dueProbes
        if m.status ≠ 0 then
          let note (r : EventReq) : EventReq := if r.tag = tag ∧ r.gen = gen then { r with answered := true } else r
          s1.modSession m.session (fun y => { y with events := y.events.map note })
        else
          let s2 := s1.endEvent m.session e
          match e.ctx with
          | none => s2.consumeDevice x m.arg0
          | some id => if (s2.ctx? id).any (fun c => c.gen == e.ctxGen) then s2.consumeCtx m.session id m.arg0 else s2

/-- EVENT_ANSWER. -/
def execEventAnswer (m : Msg) (s : State) : Host.Outcome State Fault Refusal := .next (doEventAnswer m s)

/-- Entries that a request must repeat. -/
def State.unconsumed (s : State) (x : Session) (e : EventReq) : List Entry :=
  match e.ctx with
  | none => e.entries.filter (fun k => s.logs.ring.contains k)
  | some id => match (s.ctx? id).bind (fun c => if c.gen = e.ctxGen then c.ring else none) with
    | some r => e.entries.filter (fun k => decide (max r.consumed (valueOf r.seen x.number 0) ≤ k.rseq))
    | none => []

/-- May a request's entries go again now? -/
def State.maySpeak (s : State) (e : EventReq) : Bool := match e.ctx with
  | none => true
  | some id => (s.ctx? id).any (fun c => c.speaks)

/-- Entries that cannot go again now are sent as if they had not been. -/
def State.unsend (s : State) (n : Nat) (e : EventReq) (v : Nat) (mgmt : Bool) : State :=
  match e.ctx with
  | none =>
    let s1 := s.modSession n (fun y => { y with ownSent := min y.ownSent v })
    if mgmt then { s1 with logs := { s1.logs with sent := min s1.logs.sent v } } else s1
  | some id => s.modCtx id (fun c => c.setSent n (min v (match c.ring with
    | some r => valueOf r.sent n r.consumed
    | none => v)))

/-- EVENT_RESEND_TIMEOUT (R335): no answer within 2^26 counts, or one with a status other than OK: the entries that are not consumed
go again in a new request, with a new generation; the entry of the old one ends in TIMEOUT (R163). -/
def doEventResend (n tag : Nat) (s : State) : State :=
  match s.session? n with
  | none => s
  | some x => match x.events.find? (fun e => e.tag == tag && decide (e.deadline ≤ s.hub.timer)) with
    | none => s
    | some e =>
      if !s.alive || s.life.trial.isSome then s
      else
        let s1 := (if e.answered then s else { s with ledger := s.ledger.expire tag s.hub.timer }).endEvent n e
        let es := s.unconsumed x e
        if es.isEmpty then s1
        else
          let low := es.foldl (fun m k => min m k.rseq) (pastLast es)
          if s.maySpeak e then
            (match s1.sendEvent n (e.ctx.bind (fun id => s1.ctx? id)) es e.lost with
             | some t => t
             | none => s1.unsend n e low (x.role == .management))
          else s1.unsend n e low (x.role == .management)

/-- EVENT_RESEND_TIMEOUT. -/
def execEventResendTimeout (session tag : Nat) (s : State) : Host.Outcome State Fault Refusal := .next (doEventResend session tag s)

end Sys2Proof.Machine
end

