-- ==== Sys2Proof/Machine/Codewords.lean ====
section
/-!
DEFINITION. Machine/Codewords.lean: what OTP and the boot flash say: the life-cycle state (R418, R419), the boot configuration
(R432) and the firmware images (R430, R431), and the measurements of R448.
-/
namespace Sys2Proof.Machine

/-! ### Life-cycle codewords -/

/-- Codes of Table 13-1. -/
def LifeState.code : LifeState → Nat
  | .maker => 0 | .integrator => 1 | .fielded => 2 | .returned => 3 | .scrapped => 4 | .locked => 6 | .invalid => 7

/-- The states that have a codeword, in order. -/
def lifeStates : List LifeState := [.maker, .integrator, .fielded, .returned, .scrapped]

/-- Codewords of Table 13-1. -/
def LifeState.word : LifeState → Nat
  | .maker => 0x000000000000FFFF
  | .integrator => 0x00000000FFFFFFFF
  | .fielded => 0x0000FFFFFFFFFFFF
  | .returned => 0x00FFFFFFFFFFFFFF
  | .scrapped => 0xFFFFFFFFFFFFFFFF
  | .locked | .invalid => 0

/-- What one copy decodes to (R419). -/
def decodeCopy (w : Nat) : LifeState := (lifeStates.find? (fun s => s.word == w)).getD .invalid

/-- Does copy `w` lie between two states, cut off on the way from `a` to `b`? -/
def cutBetween (w : Nat) (a b : LifeState) : Bool :=
  decide (a.code < b.code) && b.code ≤ 4 && (w &&& a.word) == a.word && (w ||| b.word) == b.word

/-- The state in force that three copies give (R419). -/
def decodeLife (ws : List Nat) : LifeState :=
  let w (i : Nat) : Nat := ws.getD i 0
  let d (i : Nat) : LifeState := decodeCopy (w i)
  let twice (s : LifeState) : LifeState := if s = .invalid then .locked else s
  if d 0 = d 1 ∨ d 0 = d 2 then twice (d 0)
  else if d 1 = d 2 then twice (d 1)
  else
    -- the three differ, so one at most is INVALID
    let cut (i j k : Nat) : Option LifeState :=
      if d i = .invalid then
        (if cutBetween (w i) (d j) (d k) then some (d j) else if cutBetween (w i) (d k) (d j) then some (d k) else none)
      else none
    match cut 0 1 2, cut 1 0 2, cut 2 0 1 with
    | some s, _, _ => s
    | none, some s, _ => s
    | none, none, some s => s
    | none, none, none => .locked

/-- `pending` of Table 13-6: the highest state that any copy now decodes to; the state in force when none does. -/
def State.lifePending (s : State) : Nat :=
  let ds := (s.otp.lc.map decodeCopy).filter (fun d => d != .invalid)
  if ds.isEmpty then s.life.inForce.code else (ds.map LifeState.code).foldl max 0

/-! ### Flash -/

/-- Bytes of a run of flash: what is not listed is erased and reads as 0xFF. -/
def flashBytes (cs : List Host.Cell) (a n : Nat) : Bytes :=
  (List.range n).map (fun i => match cs.find? (fun c => c.1 == a + i) with
    | some c => c.2
    | none => 0xFF)

/-- Write a run of flash. -/
def writeFlash (cs : List Host.Cell) (a : Nat) (bs : Bytes) : List Host.Cell := replaceCells cs a bs.length (cellsOf 0xFF#8 a bs)

/-- A boot configuration (Table 13-11). -/
structure BootCfg where
  seq : Nat := 0
  active : Nat := 0
  trial : Bool := false
  tried : Bool := false
  updateGen : Nat := 0
  deriving DecidableEq, Repr

/-- The record of a copy, when the copy is valid (R432). -/
def bootCfgOf (bs : Bytes) : Option BootCfg :=
  let w := ofLe (slice bs 0 64)
  if field w 31 0 = 0x42434647 ∧ field w 511 448 = tally (slice bs 0 56) then
    some { seq := field w 63 32, active := field w 64 64, trial := flag w 65, tried := flag w 66, updateGen := field w 127 96 }
  else none

/-- The bytes of a record. -/
def BootCfg.bytes (c : BootCfg) : Bytes :=
  let r := toLe 4 0x42434647 ++ toLe 4 c.seq ++ toLe 4 (c.active + 2 * c.trial.toNat + 4 * c.tried.toNat) ++ toLe 4 c.updateGen
    ++ List.replicate 40 0
  r ++ toLe 8 (tally r)

/-- The copy in use: the valid one with the higher `seq`; with no valid copy, copy 0 as an empty record (DEDUCED LOG 18). -/
def Flash.bootCfg (f : Flash) : Nat × BootCfg :=
  match bootCfgOf (f.cfg.getD 0 []), bootCfgOf (f.cfg.getD 1 []) with
  | some a, some b => if a.seq < b.seq then (1, b) else (0, a)
  | some a, none => (0, a)
  | none, some b => (1, b)
  | none, none => (1, {})

/-- Change the boot configuration: the other copy is written, with `seq` + 1 (R432). -/
def Flash.setCfg (f : Flash) (g : BootCfg → BootCfg) : Flash :=
  let r := f.bootCfg
  { f with cfg := f.cfg.set (1 - r.1) { g r.2 with seq := (r.2.seq + 1) % 2 ^ 32 }.bytes }

/-- The cells of a slot: 0 A, 1 B. -/
def Flash.slot (f : Flash) (n : Nat) : List Host.Cell := if n = 0 then f.slotA else f.slotB

/-- Write into a slot. -/
def Flash.writeSlot (f : Flash) (n off : Nat) (bs : Bytes) : Flash :=
  if n = 0 then { f with slotA := writeFlash f.slotA off bs } else { f with slotB := writeFlash f.slotB off bs }

/-- Bytes of a slot (R430), and of the largest body (Table 13-10). -/
def slotBytes : Nat := 16777216
def maxBody : Nat := 16776960

/-- What an image header says (Table 13-10). -/
structure FwImage where
  header : Bytes
  keyIndex : Nat
  svn : Nat
  len : Nat
  build : Nat
  deriving DecidableEq, Repr

/-- The image of a slot. -/
def Flash.image (f : Flash) (n : Nat) : FwImage :=
  let h := flashBytes (f.slot n) 0 256
  let w := ofLe h
  { header := h, keyIndex := field w 41 40, svn := field w 95 64, len := field w 127 96, build := field w 191 128 }

/-- The body of an image. -/
def Flash.body (f : Flash) (n : Nat) : Bytes := flashBytes (f.slot n) 256 (f.image n).len

/-- Do signature and digest of a slot's image hold? A body beyond the slot has none. -/
def State.imageWhole (s : State) (n : Nat) : Bool :=
  let i := s.flash.image n
  s.verifies (s.otp.makerKeys.getD i.keyIndex []) (i.header.take 88) (slice i.header 88 114)
    && decide (i.len ≤ maxBody) && slice i.header 24 64 == shake256 (s.flash.body n) 64

/-- May the image's `svn` run? (R431) -/
def State.svnRuns (s : State) (n : Nat) : Bool :=
  let i := s.flash.image n
  decide (i.svn ≤ 64) && decide (s.otp.svn ≤ i.svn)

/-- Is the image of a slot valid? (R431) -/
def State.imageValid (s : State) (n : Nat) : Bool := s.imageWhole n && s.svnRuns n

/-- The measurement of a slot's image (R448). -/
def Flash.measure (f : Flash) (n : Nat) : Bytes := shake256 ((f.image n).header ++ f.body n) 64

/-- The `config` measurement (R448; one byte for each value: DEDUCED LOG 21). -/
def State.configMeasure (s : State) : Bytes :=
  shake256 (toLe 1 s.life.inForce.code ++ toLe 1 (if s.conf then 1 else 0) ++ toLe 1 s.otp.sealEpoch ++ toLe 1 s.otp.svn) 64

end Sys2Proof.Machine
end

