-- ==== Sys2Proof/Machine/Evidence.lean ====
section
/-!
DEFINITION. Machine/Evidence.lean: ATTEST and its evidence (R443–R447), and TELEMETRY (R506, R507, R540).
-/
namespace Sys2Proof.Machine

/-! ### CBOR (RFC 8949; LOG 21) -/

/-- Head of a CBOR item: major type and argument. -/
def cborHead (major n : Nat) : Bytes :=
  let m := major * 32
  if n < 24 then toLe 1 (m + n)
  else if n < 2 ^ 8 then toLe 1 (m + 24) ++ toLe 1 n
  else if n < 2 ^ 16 then toLe 1 (m + 25) ++ (toLe 2 n).reverse
  else if n < 2 ^ 32 then toLe 1 (m + 26) ++ (toLe 4 n).reverse
  else toLe 1 (m + 27) ++ (toLe 8 n).reverse

def cborUint (n : Nat) : Bytes := cborHead 0 n
/-- The negative integer −1 − `n`. -/
def cborNeg (n : Nat) : Bytes := cborHead 1 n
def cborBytes (bs : Bytes) : Bytes := cborHead 2 bs.length ++ bs
def cborText (t : String) : Bytes := cborHead 3 (ascii t).length ++ ascii t
def cborArray (xs : List Bytes) : Bytes := cborHead 4 xs.length ++ xs.flatten
def cborMap (xs : List (Bytes × Bytes)) : Bytes := cborHead 5 xs.length ++ xs.flatMap (fun x => x.1 ++ x.2)
def cborTag (n : Nat) (x : Bytes) : Bytes := cborHead 6 n ++ x

/-! ### Evidence -/

/-- The ordering grade of the device. -/
def State.grade (s : State) : String := s.otp.grade.name

/-- The claim `context` (Table 13-15). -/
def contextClaim (c : Ctx) : Bytes :=
  let p := c.policy
  let joined := ((List.range 32).map (fun i => if c.joined.any (fun j => j.2.2 == i) then 2 ^ i else 0)).sum
  cborArray [cborUint c.id, cborUint c.gen, cborBytes (match p with
    | some q => q.hash
    | none => []), cborBytes (match p with
    | some q => q.progDigest
    | none => []), cborUint joined]

/-- The claims of Table 13-15, in its order; standard keys are those of the EAT registry (PRESUMED LOG 21). No unit is ever held in a
partial reset between commands (LOG 26). -/
def State.claims (s : State) (nonce : Bytes) (c : Option Ctx) : Bytes :=
  let digest (name : String) (d : Bytes) : Bytes := cborArray [cborText name, cborBytes d]
  cborMap ([
    (cborUint 10, cborBytes nonce),
    (cborUint 256, cborBytes (toLe 1 1 ++ s.otp.identityDigest.take 32)),
    (cborUint 258, cborBytes Config.oemId),
    (cborUint 259, cborBytes (ascii s.grade)),
    (cborUint 260, cborArray [cborText "B0"]),
    (cborUint 267, cborUint s.otp.bootEpoch),
    (cborUint 263, cborUint (if s.conf then 2 else if s.life.rights ≠ 0 then 0 else 1)),
    (cborUint 273, cborArray [digest "rom" s.life.measRom, digest "identity" s.life.measIdentity,
      digest "firmware" s.life.measFirmware, digest "config" s.life.measConfig]),
    (cborUint 271, cborArray [cborUint s.life.build, cborUint s.life.svn]),
    (cborNeg 70000, cborArray [cborUint s.life.inForce.code, cborUint s.lifePending]),
    (cborNeg 70001, cborUint s.modeCode),
    (cborNeg 70002, cborUint s.otp.sealEpoch),
    (cborNeg 70003, cborArray [cborUint s.flash.bootCfg.2.updateGen, cborUint s.life.trial.isSome.toNat]),
    (cborNeg 70004, cborArray []),
    (cborNeg 70005, cborArray [cborUint s.activeCount, cborUint s.spareCount, cborUint s.logs.belowRating.toNat])]
    ++ (if s.conf then [] else [(cborNeg 70006, cborUint s.life.rights)])
    ++ (match c with
      | some d => [(cborNeg 70007, contextClaim d)]
      | none => [])
    ++ [(cborNeg 70008, cborUint s.hub.timer)])

/-- The evidence as a tagged COSE_Sign1 with EdDSA, and the certificates (R444). -/
def State.evidence (s : State) (nonce : Bytes) (c : Option Ctx) : State × Bytes :=
  let protected_ := cborMap [(cborUint 1, cborNeg 7)]
  let claims := s.claims nonce c
  let sig := s.attestSign (cborArray [cborText "Signature1", cborBytes protected_, cborBytes [], cborBytes claims])
  (sig.1, cborArray [cborTag 18 (cborArray [cborBytes protected_, cborMap [], cborBytes claims, cborBytes sig.2]),
    cborArray (Config.certChain.map cborBytes)])

/-- The context that an ATTEST names. -/
def State.attestCtx (s : State) (m : Msg) : Option Ctx := if m.ctxGen = 0 then none else s.ctxs.find? (fun c => c.id == m.ctx && c.gen == m.ctxGen)

/-- ATTEST (R444, R447): held while an activation runs. -/
def doAttest (m : Msg) (s : State) (_ : Session) : State × Option Reply :=
  if m.length < 8 ∨ 64 < m.length then refuse s .badLength
  else if s.life.trial.isSome then ({ s with life := { s.life with heldAttest := s.life.heldAttest ++ [m] } }, none)
  else
    let e := s.evidence (m.payload.take m.length) (s.attestCtx m)
    (e.1, some { status := .ok, payload := e.2 })

/-- ATTEST. -/
def execAttest (m : Msg) (s : State) : Host.Outcome State Fault Refusal := .next (s.request .attest m (doAttest m))

/-- Answer a held ATTEST (R447): its checks are made again on what now stands. -/
def State.answerHeld (s : State) (m : Msg) : State :=
  let s0 := s.modSession m.session (fun y => { y with tags := y.tags.filter (fun t => t != m.tag) })
  match s0.session? m.session with
  | none => s0
  | some x => match s0.refusalOf x .attest m with
    | some st => s0.answer .attest m (.of st)
    | none =>
      let r := doAttest m s0 x
      match r.2 with
      | some a => r.1.answer .attest m a
      | none => r.1

/-- Answer every held ATTEST, in order. -/
def State.answerAttests (s : State) : State :=
  s.life.heldAttest.foldl (fun s m => s.answerHeld m) { s with life := { s.life with heldAttest := [] } }

/-! ### TELEMETRY -/

/-- A 64-bit counter that holds at all ones. -/
def counter64 (v : Nat) : Bytes := toLe 8 (min v (2 ^ 64 - 1))

/-- The data-slot section (R193): the figures of each partition in OPEN mode, in CONFIDENTIAL mode only their totals. -/
def State.slotSection (s : State) : Bytes :=
  let parts := List.range housekeeping
  if s.conf then [(parts.map s.granted).foldl (· + ·) 0, (parts.map s.waited).foldl (· + ·) 0].flatMap counter64
  else parts.flatMap (fun p => counter64 (s.granted p) ++ counter64 (s.waited p))

/-- Highest value of a list of temperatures, and the least of one of rates. -/
def hottest (l : List Int) : Int := match l with
  | [] => 0
  | x :: xs => xs.foldl max x
def slowest (l : List Nat) : Nat := match l with
  | [] => 0
  | x :: xs => xs.foldl min x

/-- The power and thermal section (Table 16-5); without the fields from `tile_rate` to `hbm_temp` when `brief` (R507). -/
def State.powerSection (s : State) (brief : Bool) : Bytes :=
  let p := s.power
  let temp (t : Int) : Bytes := toLe 2 (wordOf 16 t)
  let logic := p.tiles.map (fun t => t.temp) ++ p.hubSensor.temp :: p.linkSensors.map (fun x => x.temp)
  let stackTemps := s.hbmStacks.map (fun x => x.temp)
  let levels := p.tiles.map (fun t => t.level) ++ p.hubSensor.level :: p.linkSensors.map (fun x => x.level)
  let mean := if p.history.isEmpty then p.watts else p.history.sum / p.history.length
  toLe 8 p.lastSample ++ toLe 4 s.otp.bootEpoch ++ toLe 2 mean ++ temp (hottest logic) ++ temp (hottest stackTemps)
    ++ toLe 2 (slowest (p.tiles.map (fun t => t.rate))) ++ toLe 2 (min p.brakes 0xFFFF)
    ++ toLe 2 (levels.foldl max 0 + (s.hbmStacks.map (fun x => x.level)).foldl max 0 * 16)
    ++ (if brief then toLe 84 0
        else p.tiles.flatMap (fun t => toLe 2 t.rate) ++ p.tiles.flatMap (fun t => temp t.temp)
          ++ p.tiles.flatMap (fun t => toLe 2 t.seenMv) ++ p.tiles.flatMap (fun t => toLe 2 t.coinsSeen)
          ++ p.tiles.flatMap (fun t => toLe 2 (t.amps / 500)) ++ s.hbmStacks.flatMap (fun x => temp x.temp))
    ++ toLe 20 0

/-- The counters of a port, in the order of Table 18-9. -/
def Port.counters (p : Port) : Bytes :=
  [p.sent, p.received, p.resent, p.authFails, p.discarded, p.stale].flatMap counter64

/-- A section of Table 18-9. -/
def State.section_ (s : State) (n : Nat) (observer : Bool) : Bytes :=
  match n with
  | 0 => [s.activeCount, s.spareCount, s.logs.belowRating.toNat, s.vault.alarms, s.logs.hostDiscarded, s.logs.hostStale].flatMap counter64
  | 1 => s.slotSection
  | 2 => s.links.ports.flatMap Port.counters
      ++ [s.host.sent, s.host.received, s.host.resent, s.host.authFails, s.logs.hostDiscarded, s.logs.hostStale].flatMap counter64
  | 3 => s.powerSection (s.conf || observer)
  | _ => counter64 s.test.round ++ s.cores.flatMap (fun c =>
      counter64 (if c.status = .fenced || c.status = .notGood then 2 ^ 64 - 1 else s.hub.timer - c.lastTest))

/-- The status of a TELEMETRY answer that passes its checks: from the moment that R6 judged the active count below the service floor on, every
one reports BELOW_RATING, whatever its section (R6; that the report is the answer's status is DEDUCED, LOG 27). -/
def State.telemetryStatus (s : State) : Status := if s.logs.belowRating then .belowRating else .ok

/-- TELEMETRY (R540). -/
def doTelemetry (m : Msg) (s : State) (x : Session) : State × Option Reply :=
  let n := field m.arg0 7 0
  match firstOf [
      (decide (m.length ≠ 0), Status.badLength),
      (decide (4 < n) || decide (2 ^ 8 ≤ m.arg0), .reservedSet),
      (x.role != .management && n != 0 && n != 3, .denied)] with
  | some st => refuse s st
  | none => (s, some { status := s.telemetryStatus, payload := s.section_ n (x.role == .observer) })

/-- TELEMETRY. -/
def execTelemetry (m : Msg) (s : State) : Host.Outcome State Fault Refusal := .next (s.request .telemetry m (doTelemetry m))

end Sys2Proof.Machine
end

