-- ==== Sys2Proof/Machine/HostPort.lean ====
section
/-!
DEFINITION. Machine/HostPort.lean: the Ethernet port HOST: its configuration (R302–R304), its modes (R299, R300), the protocols
beside Queko (R301) and PFC (R274, R305).
-/
namespace Sys2Proof.Machine

/-- Send what every session's window allows. -/
def State.pumpAll (s : State) : State := (s.sessions.map (fun x => x.number)).foldl (fun s n => s.pump n) s

/-! ### HOST_CONFIG -/

/-- The configuration in a payload (Table 10-3). -/
def hostCfgOf (w : Nat) : HostCfg :=
  { pfc := field w 3 0, dscp := field w 9 4, macsec := flag w 10, macsecReq := flag w 11, xpn := flag w 12,
    ip6Plen := field w 23 16, ip4Plen := field w 31 24, ip4 := field w 63 32, gw := field w 95 64, ip6 := field w 255 128,
    ckn := field w 639 512 }

/-- HOST_CONFIG (R303, R304): the configuration waits until the answer has left under the one in force. -/
def doHostConfig (m : Msg) (s : State) (x : Session) : State × Option Reply :=
  let w := ofLe (slice m.payload 0 80)
  let c := hostCfgOf w
  let key := field w 511 256
  match firstOf [
      (x.role != .management, Status.denied),
      (decide (m.length ≠ 80), .badLength),
      (anySet w 15 13 || anySet w 127 96, .reservedSet),
      ((c.macsecReq && !c.macsec) || decide (128 < c.ip6Plen) || decide (32 < c.ip4Plen)
        || (c.macsec && (!x.has fMacsec || (s.host.cak == 0 && key == 0))), .denied)] with
  | some st => refuse s st
  | none =>
    okay (s.modHost (fun h =>
      { h with next := some { cfg := c, cak := if key = 0 then h.cak else key, session := x.number, msg := x.tx.nextMsg } }))

/-- HOST_CONFIG. -/
def execHostConfig (m : Msg) (s : State) : Host.Outcome State Fault Refusal :=
  .next (s.request .hostConfig m (doHostConfig m))

/-- MACSEC_REVERT_TIMEOUT (R304). -/
def doMacsecRevert (s : State) : State :=
  match s.host.previous with
  | none => s
  | some (c, k, due) =>
    if s.alive && decide (due ≤ s.hub.timer) && !s.host.secured then
      ((s.setHost c k).notice 0xB 0 .ok dieHub).pumpAll
    else s

/-- MACSEC_REVERT_TIMEOUT. -/
def execMacsecRevertTimeout (s : State) : Host.Outcome State Fault Refusal := .next (doMacsecRevert s)

/-! ### Modes -/

/-- The mode that HOST comes up in: the fastest row of Table 10-1 that both ends offer and that trains. The device offers every row, but the first
when HOST_MAX is strapped (Table 17-5). -/
def State.hostRow (s : State) (h : HostTraining) : Option Nat :=
  (List.range 5).find? (fun r => !(r == 0 && s.hub.straps.hostMax) && h.offered.contains r && h.trains.contains r)

/-- HOST_PORT_TRAIN (R299, R300): the port comes up in the fastest mode that both ends offer and that trains; without one it stays down. -/
def doHostPortTrain (training : HostTraining) (s : State) : State :=
  if !s.alive then s
  else match s.hostRow training with
    | none => s.modHost (fun h => { h with row := none })
    | some row =>
      let changed := match s.host.row with
        | some r => r != row
        | none => false
      let s1 := s.modHost (fun h => { h with row := some row })
      ((if row != 0 || changed then s1.notice 0xA row .ok dieHub else s1).hostBegin).pumpAll

/-- HOST_PORT_TRAIN. -/
def execHostPortTrain (training : HostTraining) (s : State) : Host.Outcome State Fault Refusal := .next (doHostPortTrain training s)

/-! ### Other protocols -/

/-- MAC address of HOST, first octet most significant (Table 13-7). -/
def State.hostMac (s : State) : Nat := ofLe (slice s.flash.identity 24 6).reverse

/-- The interface identifier that IPv6 forms of a MAC address (RFC 4291; PRESUMED LOG 21). -/
def interfaceId (mac : Nat) : Nat :=
  (((mac >>> 24) ^^^ 0x020000) <<< 40) + 0xFFFE * 2 ^ 24 + mac % 2 ^ 24

/-- The IPv6 addresses of HOST: link-local, and the global one. -/
def State.ip6Of (s : State) : List Nat :=
  let own := if s.host.cfg.ip6Plen = 0 then s.host.ip6Global else s.host.cfg.ip6
  (0xFE80 * 2 ^ 112 + interfaceId s.hostMac) :: (if own = 0 then [] else [own])

/-- The IPv4 address of HOST, if it has one. -/
def State.ip4Of (s : State) : Option Nat :=
  let own := if s.host.cfg.ip4Plen = 0 then s.host.ip4Leased else s.host.cfg.ip4
  if own = 0 then none else some own

/-- HOST_PROTOCOL_FRAME (R301, Table 10-2): each protocol of the table does its work; every other frame is discarded and counted, and so
is a frame that MACsec cannot protect where it must. A DHCPv4 offer is requested and an acknowledged address taken; a key agreement message
is answered until the port is secured (PRESUMED LOG 21). -/
def doHostProtocol (f : HostFrame) (s : State) : State :=
  if !s.alive || s.host.row.isNone then s
  else
    let s0 := s.modHost (fun h => { h with received := hostCount h.received 1 })
    if s.host.cfg.macsecReq && !s.host.secured && f != .mkaSecured && f != .mka then s0.hostDrop
    else match f with
      | .arp target asker => if s.ip4Of == some target then s0.hostSay (.arp target asker) else s0
      | .neighbourSolicit target asker => if s.ip6Of.contains target then s0.hostSay (.neighbourSolicit target asker) else s0
      | .routerAdvert pfx plen _ =>
        if s.host.cfg.ip6Plen = 0 ∧ plen = 64 then
          s0.modHost (fun h => { h with ip6Global := (pfx >>> 64) * 2 ^ 64 + interfaceId s.hostMac })
        else s0
      | .dhcpOffer addr _ => if s.host.cfg.ip4Plen = 0 then s0.hostSay (.dhcpRequest addr) else s0
      | .dhcpAck addr gw => if s.host.cfg.ip4Plen = 0 then s0.modHost (fun h => { h with ip4Leased := addr, ip4Gw := gw }) else s0
      | .mka => if s.host.cfg.macsec && !s.host.secured then s0.hostSay .mka else s0
      | .echo v6 peer data => s0.hostSay (.echo v6 peer data)
      | .mkaSecured => if s.host.cfg.macsec then s0.modHost (fun h => { h with secured := true, previous := none }) else s0
      | .dhcpDiscover | .dhcpRequest _ | .other => s0.hostDrop

/-- HOST_PROTOCOL_FRAME. -/
def execHostProtocolFrame (f : HostFrame) (s : State) : Host.Outcome State Fault Refusal := .next (doHostProtocol f s)

/-! ### PFC -/

/-- PFC_PAUSE_FRAME (R274, R305): a pause on the priority in use begins or ends, on HOST or on a switched Rasovi port. -/
def doPfcPause (port : Option Nat) (priority : Nat) (pause : Bool) (s : State) : State :=
  if !s.alive then s
  else match port with
    | none =>
      if s.host.row.isSome && decide (s.host.cfg.pfc < 8) && priority == s.host.cfg.pfc then
        (s.modHost (fun h => { h with paused := pause })).pumpAll
      else s
    | some p => match s.port? p with
      | none => s
      | some x =>
        if x.isUp && (x.mode == 2 || x.mode == 3) && decide (s.links.pfc < 8) && priority == s.links.pfc then
          (s.modPort p (fun y => { y with paused := pause })).pumpPort p
        else s

/-- PFC_PAUSE_FRAME. -/
def execPfcPauseFrame (port : Option Nat) (priority : Nat) (pause : Bool) (s : State) : Host.Outcome State Fault Refusal :=
  .next (doPfcPause port priority pause s)

end Sys2Proof.Machine
end

