-- ==== Sys2Proof/Machine/Boot.lean ====
section
/-!
DEFINITION. Machine/Boot.lean: cold reset and boot (R33, R35, R411, R429–R434, R451, R519), the partial reset of the hub (R407,
R456), and firmware updates (R435–R438).
-/
namespace Sys2Proof.Machine

/-! ### Reset -/

/-- Valid entries of the field repair map of a kind (R450, R451). -/
def Otp.repairs (o : Otp) (kind : Nat) : List Nat := o.repair.filter (fun e => repairValid e && field e 3 0 == kind)

/-- Cores fenced by the repair map. -/
def Otp.fencedCores (o : Otp) : List Nat := (o.repairs 1).map (fun e => field e 11 4 * 16 + field e 15 12)

/-- The cores in service at a boot: the good cores that are not fenced, the rated count of them active and the rest spare (R3–R5,
R451; which of them: DEDUCED LOG 5). -/
def bootCores (o : Otp) : List Core :=
  let good := (List.range 96).filter (fun n => o.good.contains n && !o.fencedCores.contains n)
  let active := good.take o.grade.rated
  (List.range 96).map (fun n =>
    { status := if !o.good.contains n then .notGood else if active.contains n then .active
                else if good.contains n then .spare else .fenced })

/-- What a cold reset leaves before the boot ROM runs: OTP, flash, the pins that the board drives, the comparator's latch (Table 17-4),
and the model's own counters and queue. -/
def State.wiped (s : State) : State :=
  { hub := { inReset := true, flashRel := true, thermTripN := s.hub.thermTripN, brakePin := s.hub.brakePin, straps := s.hub.straps,
             trng := s.hub.trng, free := s.hub.free, dispatched := s.hub.dispatched, signatures := s.hub.signatures },
    otp := s.otp, flash := s.flash, power := Power.boot, hbmStacks := List.replicate 12 {}, cores := bootCores s.otp, links := Links.boot,
    out := s.out, pending := s.pending }

/-- RESET_N_ASSERT (R519): at any moment with the rails in range, through a filter of 1 µs. -/
def doResetAssert (ns : Nat) (railsOk : Bool) (s : State) : State := if railsOk && decide (1000 ≤ ns) then s.wiped else s

/-- RESET_N_ASSERT. -/
def execResetNAssert (ns : Nat) (railsOk : Bool) (s : State) : Host.Outcome State Fault Refusal := .next (doResetAssert ns railsOk s)

/-! ### Boot ROM -/

/-- The boot stops with ALERT_N; the SPI bus goes to the board when no image is valid (R433). -/
def State.haltBoot (s : State) (h : Halt) : State :=
  s.modHub (fun x => { x with halt := some h, alertN := true, flashRel := h == .image })

/-- SCRAP_WIPE (R426): every unburnt bit, the root-secret wrap first and the codewords last. -/
def Otp.scrap (o : Otp) : Otp :=
  { o with root := .erased, opKeys := List.replicate 4 (List.replicate 57 0xFF#8), sealEpoch := 64,
           repair := List.replicate 1024 (2 ^ 64 - 1), lc := List.replicate 3 LifeState.scrapped.word }

/-- Positions of the boot epoch (R35), and of the seal epoch (R411). -/
def bootPositions : Nat := 1048576
def sealPositions : Nat := 64

/-- The requested mode (R434). -/
def requestedMode (forceOpen : Bool) (env : BootEnv) : Mode := if forceOpen || !env.modeSel then .openMode else .confidential

/-- The mode that the parity of the seal epoch gives (R411). -/
def parityMode (sealEpoch : Nat) : Mode := if sealEpoch % 2 = 0 then .openMode else .confidential

/-- The mode that a boot takes, and the seal epoch after it (R411, R434). -/
def modeOfBoot (want : Mode) (sealEpoch : Nat) : Mode × Nat :=
  if want = parityMode sealEpoch then (want, sealEpoch)
  else if sealEpoch < sealPositions then (want, sealEpoch + 1)
  else (parityMode sealEpoch, sealEpoch)

/-- The slot that a boot tries first, with the flash after `tried` is written (Table 13-12, step 6). -/
def Flash.pickSlot (f : Flash) : Flash × Nat :=
  let c := f.bootCfg.2
  if c.trial && !c.tried then (f.setCfg (fun g => { g with tried := true }), 1 - c.active) else (f, c.active)

/-- The slot whose image runs: the other one when the first is not valid. -/
def State.bootSlot (s : State) (first : Nat) : Option Nat :=
  if s.imageValid first then some first else if s.imageValid (1 - first) then some (1 - first) else none

/-! ### What the Bursar does at a boot -/

/-- Memories at a boot, with the repair map applied: rows remapped, slice frames retired, HBM frames withdrawn or retired. A withdrawn
frame takes the place of a usable member of the reserve (R454). -/
def bootMemory (o : Otp) : Memory :=
  let frame (e : Nat) : Nat := (field e 11 4 - 33) * 32768 + field e 47 16
  let gone := (o.repairs 6).map frame
  let retired := (o.repairs 7).map frame
  let reserve := (reserveFrames.filter (fun f => !gone.contains f && !retired.contains f)).drop
    (gone.filter (fun f => !reserveFrames.contains f)).length
  -- a bank of a scratchpad, and a subarray of a tier, as `sramRow` numbers them
  let bank (e : Nat) : Nat := 2 * 2 ^ 48 + (field e 11 4 * 16 + field e 15 12) * 2 ^ 40 + field e 21 16
  let subarray (e : Nat) : Nat :=
    let d := field e 11 4 - 6
    (3 + (d % 4) * 16) * 2 ^ 48 + ((d / 4) * 16 + field e 26 16 / 128) * 2 ^ 40 + field e 26 16
  { Memory.boot with
    hbmUse := gone.map (fun f => (f, FrameUse.withdrawn)) ++ retired.map (fun f => (f, FrameUse.retired))
      ++ reserve.map (fun f => (f, FrameUse.reserve)),
    tierRetired := (o.repairs 4).map (fun e => tierFrame (field e 11 4 * 16 + field e 15 12) (field e 47 16)),
    rowSpares := ((o.repairs 2).map bank ++ (o.repairs 3).map subarray).foldl (fun l u => setSparse l u (sparse l u + 1)) [] }

/-- SerDes lanes that the repair map replaces: each takes the next spare of its link die (R257). -/
def bootSerdes (o : Otp) : List (Nat × Nat × Nat) :=
  (o.repairs 5).foldl (fun l e =>
    let die := field e 11 4 - 31
    let failed := field e 47 16
    let lane := match l.find? (fun r => r.1 == die && r.2.2 == failed) with
      | some r => r.2.1
      | none => failed
    let n := (l.filter (fun r => r.1 == die)).length
    if 4 ≤ n then l else l ++ [(die, lane, 64 + n)]) []

/-- The debug rights that stand without a certificate: every one in MAKER in OPEN mode (Table 13-2). -/
def Life.standing (l : Life) : Nat := if l.inForce = .maker ∧ l.mode = .openMode then 0x7F else 0

/-- The slot of kind device in which the Vault holds the operator key in force (R427). -/
def operatorSlot (key : Bytes) : KeySlot := { keyId := 0, kind := .device, limit := 2 ^ 56 - 1, material := key }

/-- The Bursar's part of a boot (Table 13-12, step 8): the operator key, memories, Vault, cores, HOST, and what it has to tell. -/
def State.startBursar (s : State) (modeStuck : Bool) : State :=
  let a := s.draw 32
  let b := a.1.draw 32
  let slow := s.hub.straps.hostMax
  let s1 : State :=
    { b.1 with
      life := { b.1.life with opKey := s.otp.opKeys.getLast?, rights := s.life.standing },
      cores := bootCores s.otp, mem := bootMemory s.otp, links := { Links.boot with serdes := bootSerdes s.otp },
      vault := { slots := (Vault.boot 0).slots ++ (s.otp.opKeys.getLast?.map operatorSlot).toList, bootNonce := a.2 },
      test := { seed := b.2 }, host := { row := some (if slow then 1 else 0) } }
  let s2 := if s1.activeCount < s1.otp.grade.floor then { s1 with logs := { s1.logs with belowRating := true } } else s1
  let s3 := if modeStuck then s2.notice 6 0 .ok dieHub else s2
  let s4 := if s.hub.straps.testEn && s.life.inForce != .maker then s3.notice 5 0 .ok 0xFF else s3
  if slow then s4.notice 0xA 1 .ok dieHub else s4

/-- From the choice of the slot on (Table 13-12, steps 6 to 8). -/
def State.bootImage (s : State) (modeStuck : Bool) : State :=
  let p := s.flash.pickSlot
  let s1 := { s with flash := p.1 }
  match s1.bootSlot p.2 with
  | none => s1.haltBoot .image
  | some n =>
    let i := s1.flash.image n
    let s2 := { s1 with life := { s1.life with slot := n, build := i.build, svn := i.svn, measRom := Config.romDigest,
                                               measIdentity := s.otp.identityDigest, measFirmware := s1.flash.measure n } }
    ({ s2 with life := { s2.life with measConfig := s2.configMeasure } } : State).startBursar modeStuck

/-- Unwrap the root secret; at the first power-up, draw it, wrap it and burn it (R409). -/
def State.unwrapRoot (s : State) (env : BootEnv) : Option State := match s.otp.root with
  | .blank => let d := s.draw 32; some { d.1 with otp := { d.1.otp with root := .drawn d.2 } }
  | .first | .drawn _ => if env.unwrapOk then some s else none
  | .erased => none

/-- The boot of a device whose reset has ended (Table 13-12). `retained` is the retained flag of R442, which the boot ROM reads and
clears. Where the bridge self-test of R455 falls among the steps is DEDUCED (LOG 18). -/
def State.boot (s : State) (env : BootEnv) (retained : Bool) : State :=
  let w := s.wiped
  let s0 := { w with hub := { w.hub with inReset := false, flashRel := false, straps := env },
                     life := { inForce := decodeLife s.otp.lc, mode := parityMode s.otp.sealEpoch, forceOpen := retained } }
  if s0.life.inForce = .scrapped then ({ s0 with otp := s0.otp.scrap } : State).haltBoot .scrapped
  else if bootPositions ≤ s0.otp.bootEpoch then s0.haltBoot .epoch
  else
    let s1 := { s0 with otp := { s0.otp with bootEpoch := s0.otp.bootEpoch + 1 } }
    match s1.unwrapRoot env with
    | none => s1.haltBoot .unwrap
    | some s1 =>
      if !env.bridgeOk then s1.haltBoot .bridge
      else if shake256 (slice s1.flash.identity 0 1512) 64 != s1.otp.identityDigest then s1.haltBoot .identity
      else
        let want := requestedMode retained env
        let m := modeOfBoot want s1.otp.sealEpoch
        ({ s1 with otp := { s1.otp with sealEpoch := m.2 }, life := { s1.life with mode := m.1 } } : State).bootImage (m.1 != want)

/-- COLD_RESET (R433): RESET_N is released. -/
def doColdReset (env : BootEnv) (s : State) : State := if s.hub.inReset then s.boot env false else s

/-- COLD_RESET. -/
def execColdReset (env : BootEnv) (s : State) : Host.Outcome State Fault Refusal := .next (doColdReset env s)

/-- INTERNAL_COLD_RESET (R424, R442): it acts as RESET_N does, and the retained flag survives it. -/
def doInternalReset (env : BootEnv) (s : State) : State :=
  match s.hub.resetDue with
  | none => s
  | some t => if !s.hub.inReset && decide (t ≤ s.hub.timer) then s.boot env s.life.retained else s

/-- INTERNAL_COLD_RESET. -/
def execInternalColdReset (env : BootEnv) (s : State) : Host.Outcome State Fault Refusal := .next (doInternalReset env s)

/-! ### Partial reset of the hub -/

/-- A partial reset of the hub: keys with `reset_expire` die (R407), the rights of certificates and the nonce end (R440, R441). It is over before the
next command (LOG 26). -/
def State.partialReset (s : State) : State :=
  let dying := s.vault.slots.filter (fun k => k.resetExpire)
  let s1 := dying.foldl (fun s k => s.destroyKey k.keyId) s
  { s1 with life := { s1.life with rights := s1.life.standing, nonce := none, hubResets := s1.life.hubResets + 1 } }

/-- LOCKSTEP_MISMATCH (R456): either pair of control cores. -/
def execLockstepMismatch (pair : Nat) (s : State) : Host.Outcome State Fault Refusal :=
  .next (if s.alive && decide (pair < 2) then s.partialReset else s)

/-! ### Firmware update -/

/-- Does the state in force bar firmware updates? (Table 13-2) -/
def State.updateBarred (s : State) : Bool := s.life.inForce == .locked || s.life.inForce == .scrapped

/-- The slot that is not `active`. -/
def State.stagedSlot (s : State) : Nat := 1 - s.flash.bootCfg.2.active

/-- FW_STAGE (R435). -/
def doFwStage (m : Msg) (s : State) (_ : Session) : State × Option Reply :=
  let off := field m.arg0 23 0
  match firstOf [
      (s.updateBarred, Status.lifecycle),
      (decide (2 ^ 24 ≤ m.arg0), .reservedSet),
      (s.life.trial.isSome, .busyUpdate),
      (decide (slotBytes < off + m.length), .extent)] with
  | some st => refuse s st
  | none => okay { s with flash := s.flash.writeSlot s.stagedSlot off (m.payload.take m.length) }

/-- FW_STAGE. -/
def execFwStage (m : Msg) (s : State) : Host.Outcome State Fault Refusal := .next (s.request .fwStage m (doFwStage m))

/-- FW_ACTIVATE (R436, R437 steps 1 and 2). An `svn` above 64 is no better than one that is too low (DEDUCED LOG 27). -/
def doFwActivate (m : Msg) (s : State) (x : Session) : State × Option Reply :=
  match firstOf [
      (decide (m.length ≠ 0), Status.badLength),
      (s.updateBarred, .lifecycle),
      (s.life.trial.isSome, .busyUpdate),
      (!s.imageWhole s.stagedSlot, .digestMismatch),
      (!s.svnRuns s.stagedSlot, .denied)] with
  | some st => refuse s st
  | none =>
    let s1 := { s with flash := s.flash.setCfg (fun g => { g with trial := true, tried := true }),
                       life := { s.life with trial := some { slot := s.stagedSlot, started := s.hub.timer, session := some x.number, tag := m.tag } } }
    ((s1.partialReset).await x .fwActivate m .firmware, some (.of .pending))

/-- FW_ACTIVATE. -/
def execFwActivate (m : Msg) (s : State) : Host.Outcome State Fault Refusal := .next (s.request .fwActivate m (doFwActivate m))

/-- The activation is over (R437): final answer, FW_DONE, and the ATTEST requests that were held (R447). -/
def State.endUpdate (s : State) (st : Status) : State :=
  let s1 := { s with life := { s.life with trial := none } }
  let body := toLe 64 (s1.life.slot + s1.otp.svn * 2 ^ 8 + s1.flash.bootCfg.2.updateGen * 2 ^ 16)
  ((s1.finishAll (fun w => w.what == .firmware) (fun _ => .of st)).raiseDevice .fwDone st body).answerAttests

/-- FW_CONFIRM (R437, R448): the new firmware writes `active`, `trial` and `update_gen`, the `svn` of OTP follows it, and the
measurements are replaced. -/
def doFwConfirm (s : State) : State :=
  match s.life.trial with
  | none => s
  | some t =>
    if !s.alive then s
    else
      let i := s.flash.image t.slot
      let s1 := { s with flash := s.flash.setCfg (fun g => { g with active := t.slot, trial := false, updateGen := (g.updateGen + 1) % 2 ^ 32 }),
                         otp := { s.otp with svn := max s.otp.svn i.svn },
                         life := { s.life with slot := t.slot, build := i.build, svn := i.svn, measFirmware := s.flash.measure t.slot } }
      ({ s1 with life := { s1.life with measConfig := s1.configMeasure } } : State).endUpdate .ok

/-- FW_CONFIRM. -/
def execFwConfirm (s : State) : Host.Outcome State Fault Refusal := .next (doFwConfirm s)

/-- FW_TRIAL_TIMEOUT (R437): no confirmation within 2^30 counts: the Bursar restarts on the previous image. -/
def doFwTrialTimeout (s : State) : State :=
  match s.life.trial with
  | none => s
  | some t =>
    if s.alive && decide (t.started + 2 ^ 30 ≤ s.hub.timer) then
      ({ s with flash := s.flash.setCfg (fun g => { g with trial := false }) } : State).partialReset.endUpdate .uncorrectable
    else s

/-- FW_TRIAL_TIMEOUT. -/
def execFwTrialTimeout (s : State) : Host.Outcome State Fault Refusal := .next (doFwTrialTimeout s)

end Sys2Proof.Machine
end

