-- ==== Sys2Proof/Machine/Checkpoint.lean ====
section
/-!
DEFINITION. Machine/Checkpoint.lean: checkpoints (R477–R488): configuration, triggers, the cut, the image, and its way into the
store. Restores stand in Machine/Restore.lean.
-/
namespace Sys2Proof.Machine

/-! ### Configuration -/

/-- The payload of CKPT_CONFIG (Table 15-1). -/
structure CkptCfg where
  enable : Bool
  keySrc : Bool
  keyId : Nat
  va : Nat
  pages : Nat
  timerEvery : Nat
  stepEvery : Nat
  cowMax : Nat
  drainTmo : Nat
  label : Bytes
  rsvd : Bool
  deriving DecidableEq, Repr

/-- The fields of a payload. `keyid` is zero unless `key_src` is 1. -/
def ckptCfgOf (bs : Bytes) : CkptCfg :=
  let w := ofLe (slice bs 0 32)
  { enable := flag w 0, keySrc := flag w 1, keyId := field w 19 8, va := field w 79 32, pages := field w 119 96, timerEvery := field w 159 128,
    stepEvery := field w 191 160, cowMax := field w 215 192, drainTmo := field w 255 224, label := slice bs 32 32,
    rsvd := anySet w 7 2 || anySet w 31 20 || anySet w 95 80 || anySet w 127 120 || anySet w 223 216 || (!flag w 1 && anySet w 19 8) }

/-- The configuration in force. -/
def Ctx.ckptCfg (c : Ctx) : CkptCfg := ckptCfgOf c.ckpt.cfg

/-- First byte of a half, and its bytes (R479). -/
def halfAt (va pages half : Nat) : Nat := va + half * (pages / 2) * pageSize
/-- Bytes of a half. -/
def halfBytes (pages : Nat) : Nat := pages / 2 * pageSize

/-- Does a byte range lie in the half that a generation is writing? (R479) -/
def Ctx.writingHalf (c : Ctx) (va n : Nat) : Bool :=
  let g := c.ckptCfg
  let a := halfAt g.va g.pages c.ckpt.half
  c.ckpt.stage == 2 && decide (va < a + halfBytes g.pages) && decide (a < va + n)

/-- Do two byte ranges meet? -/
def meets (a n b m : Nat) : Bool := n != 0 && m != 0 && decide (a < b + m) && decide (b < a + n)

/-- Case 3 of R478. -/
def Ctx.storeBeyond (c : Ctx) (g : CkptCfg) : Bool :=
  let n := g.pages * pageSize
  decide (g.va % pageSize ≠ 0) || decide (2 ^ 48 < g.va + n) || !c.open_ g.va n
    || (match c.ring with
        | some r => meets g.va n r.addr (80 * 2 ^ r.log2) || meets g.va n c.scaleAddr (64 * c.scaleN)
        | none => false)
    || (match c.policy with
        | some p => meets g.va n p.progAddr (p.progPages * pageSize)
        | none => false)

/-- Is a KeyID loaded for the context? -/
def State.loadedKey (s : State) (c : Ctx) (k : Nat) : Option KeySlot :=
  s.vault.slots.find? (fun x => x.keyId == k && x.kind == .loaded && x.ctx == c.id && x.ctxGen == c.gen && !x.dying && k != 0)

/-- Fields of a manifest header that the device looks for: magic, version, generation, commit, verified (Table 15-4). -/
def headerMarks (h : Bytes) : Option (Nat × Nat × Nat) :=
  if ofLe (slice h 0 4) = 0x434B5054 ∧ ofLe (slice h 4 1) = 1 then some (ofLe (slice h 8 8), ofLe (slice h 208 8), ofLe (slice h 216 8)) else none

/-- Highest committed generation among the two halves of a store; 0: none (R478). -/
def State.lastCommitted (s : State) (id : Nat) (g : CkptCfg) : Nat :=
  [0, 1].foldl (fun best h => match headerMarks (s.peekV id (halfAt g.va g.pages h) 256) with
    | some (n, c, _) => if c = n then max best n else best
    | none => best) 0

/-- The half that the next generation goes to: the one that does not hold the newest generation whose `verified` is nonzero (R487). -/
def State.targetHalf (s : State) (id : Nat) (g : CkptCfg) : Nat :=
  let mark (h : Nat) : Nat := match headerMarks (s.peekV id (halfAt g.va g.pages h) 256) with
    | some (n, _, v) => if v ≠ 0 then n + 1 else 0
    | none => 0
  if mark 0 ≤ mark 1 then 0 else 1

/-- CKPT_CONFIG (R477, R478). -/
def doCkptConfig (m : Msg) : State → Session → State × Option Reply :=
  withCtx m fun s _ c =>
    let g := ckptCfgOf m.payload
    let others := ((s.ctxs.filter (fun d => d.id != c.id)).map (fun d => d.admitted)).sum
    match firstOf [
        (decide (m.length ≠ 64), Status.badLength),
        (g.rsvd, .reservedSet),
        (c.storeBeyond g, .extent),
        (decide (g.pages % 2 ≠ 0) || decide (g.pages < 2) || decide (g.drainTmo = 0) || (g.keySrc && (s.loadedKey c g.keyId).isNone)
          || (g.keySrc && c.consortium) || c.ckpt.stage != 0, .denied),
        (decide (s.grantable < others + c.limits.localMax + g.cowMax), .quota)] with
    | some st => refuse s st
    | none =>
      okay (s.modCtx c.id (fun d =>
        { d with ckpt := { d.ckpt with cfg := m.payload.take 64, nextGen := s.lastCommitted c.id g + 1, lastCut := s.hub.timer } }))

/-- CKPT_CONFIG. -/
def execCkptConfig (m : Msg) (s : State) : Host.Outcome State Fault Refusal := .next (s.request .ckptConfig m (doCkptConfig m))

/-! ### Triggers -/

/-- Begin a generation (Table 15-3, step 1). -/
def State.startCkpt (s : State) (id cause : Nat) : State :=
  s.modCtx id (fun d =>
    { d with ckpt := { d.ckpt with stage := 1, cause := cause, genNow := d.ckpt.nextGen, nextGen := d.ckpt.nextGen + 1, started := s.hub.timer } })

/-- A timer or step trigger: ignored while checkpoints are off, counted while a generation is in progress (R477, R482). -/
def State.triggerCkpt (s : State) (id cause : Nat) : State :=
  match s.ctx? id with
  | none => s
  | some c =>
    if !c.ckptCfg.enable || c.res.state == .resetting then s
    else if c.ckpt.stage ≠ 0 then s.modCtx id (fun d => { d with ckpt := { d.ckpt with skipped := d.ckpt.skipped + 1 } })
    else s.startCkpt id cause

/-- CKPT_NOW (R482): PENDING, for the generation that begins now or for the next one. Refused with DENIED while checkpoints are off (R477;
DEDUCED LOG 36). -/
def doCkptNow (m : Msg) : State → Session → State × Option Reply :=
  withCtx m fun s x c =>
    if m.length ≠ 0 then refuse s .badLength
    else if !c.ckptCfg.enable then refuse s .denied
    else
      let s1 := if c.ckpt.stage = 0 then s.startCkpt c.id 2 else s
      (s1.await x .ckptNow m (.ckpt c.ckpt.nextGen), some (.of .pending))

/-- CKPT_NOW. -/
def execCkptNow (m : Msg) (s : State) : Host.Outcome State Fault Refusal := .next (s.request .ckptNow m (doCkptNow m))

/-- CKPT_TIMER_TRIGGER (R482): `timer_every` × 2^28 counts after the previous cut, or after CKPT_CONFIG. A trigger that was skipped counts as
the cut that it did not make, so that it is counted once (DEDUCED LOG 36). -/
def doCkptTimer (id : Nat) (s : State) : State :=
  match s.ctx? id with
  | none => s
  | some c =>
    if s.alive && c.ckptCfg.enable && c.ckptCfg.timerEvery != 0 && decide (c.ckpt.lastCut + c.ckptCfg.timerEvery * 2 ^ 28 ≤ s.hub.timer) then
      (if c.ckpt.stage ≠ 0 then (s.triggerCkpt id 0).modCtx id (fun d => { d with ckpt := { d.ckpt with lastCut := s.hub.timer } })
       else s.triggerCkpt id 0)
    else s

/-- CKPT_TIMER_TRIGGER. -/
def execCkptTimerTrigger (ctx : Nat) (s : State) : Host.Outcome State Fault Refusal := .next (doCkptTimer ctx s)

/-! ### The cut -/

/-- The body of CKPT_DONE (Table 15-7). -/
def Ckpt.doneBody (k : Ckpt) (raw stored : Nat) : Bytes :=
  toLe 8 k.genNow ++ toLe 4 (k.half % 2) ++ toLe 8 raw ++ toLe 8 stored ++ toLe 8 k.cutAt ++ toLe 4 k.cutEpoch
    ++ toLe 4 (hold 0xFFFFFFFF (k.cutAt - k.started)) ++ toLe 4 k.cowMoves ++ toLe 4 k.heldWrites ++ toLe 2 (hold 0xFFFF k.skipped) ++ toLe 10 0

/-- End a generation: CKPT_DONE, the final answers of its CKPT_NOW requests, and the next generation when one is asked for (R482, R484,
R487). -/
def State.endCkpt (s : State) (id : Nat) (st : Status) (raw stored : Nat) : State :=
  match s.ctx? id with
  | none => s
  | some c =>
    let g := c.ckpt.genNow
    let free (p : Page) : Page := { p with snap := false }
    let s1 := (s.dropSnapshots id).modCtx id (fun d =>
      { d with ckpt := { d.ckpt with stage := 0, sections := [], cowUsed := 0 }, pages := d.pages.map free })
    let s2 := s1.raiseCtx id .ckptDone st (c.ckpt.doneBody raw stored)
    let s3 := s2.finishAll (fun w => w.ctx == id && w.ctxGen == c.gen && w.what == .ckpt g) (fun _ => { status := st, arg0 := g })
    if s3.waits.any (fun w => w.ctx == id && w.ctxGen == c.gen && w.what == .ckpt (g + 1)) then s3.startCkpt id 2 else s3

/-- Has the drain ended (Table 15-3, steps 2 and 3)? A command's end includes its completion (DEDUCED LOG 36). -/
def State.drained (s : State) (c : Ctx) : Bool :=
  c.queues.all (fun x => x.rep.isNone && x.recs.all (fun r => r.phase == .waiting)) && c.opt.all (fun o => o.run.isNone)
    && !s.links.insts.any (fun i => i.ctx == c.id) && s.ledgerClear c.id

/-- The section of a page; none for an attached object or a page of the store (R479, R481). -/
def State.pageSection (s : State) (c : Ctx) (p : Page) : Option (Nat × Nat × Bytes) :=
  if p.share.isSome || c.inStore p.va then none
  else if p.keyId ≠ 0 then some (5, p.va * pageSize, [])
  else some (0, p.va * pageSize, s.peekV c.id (p.va * pageSize) pageSize)

/-- The QUEUE_CREATE payload of a queue (R142). -/
def Queue.create (x : Queue) : Bytes :=
  toLe 4 (x.number + x.ringLog2 * 2 ^ 8 + x.audit.toNat * 2 ^ 13 + x.genMode.toNat * 2 ^ 14 + x.stopOnError.toNat * 2 ^ 15) ++ toLe 8 x.ringAddr
    ++ toLe 4 x.window

/-- The image of record `seq` of a queue: as taken in, or as its slot holds it. -/
def State.recordImage (s : State) (id : Nat) (x : Queue) (seq : Nat) : Bytes := match x.rec? seq 0 with
  | some r => slice r.image 0 128
  | none => s.peekV id (x.ringAddr + (seq % 2 ^ x.ringLog2) * 128) 128

/-- The section of a queue: payload, *done*, *head*, records. -/
def State.queueSection (s : State) (c : Ctx) (x : Queue) : Nat × Nat × Bytes :=
  (2, x.number, x.create ++ toLe 8 x.done ++ toLe 8 x.head
    ++ (List.range (x.head - x.done)).flatMap (fun i => s.recordImage c.id x (x.done + i)))

/-- The bytes of a queue's scratchpad window. -/
def State.windowBytes (s : State) (x : Queue) : Bytes := match x.savedWindow with
  | some cs => readCells cs 0 (x.window * 2 ^ 20)
  | none => match x.home with
    | some n => readCells s.mem.cells (windowAddr x n 0) (x.window * 2 ^ 20)
    | none => List.replicate (x.window * 2 ^ 20) 0

/-- The attributes section; the spec gives its content and no layout (LOG 36): limits, ring and table fields, page hints, bindings. -/
def Ctx.attrSection (c : Ctx) : Bytes :=
  let ring := match c.ring with
    | some r => (r.addr, r.log2)
    | none => (0, 0)
  let hint (p : Page) : Nat :=
    p.pin.toNat + 2 * p.streamOnce.toNat + 4 * p.cold.toNat + (match p.affinity with
      | some q => 8 + q * 16
      | none => 0)
  let hints := c.pages.filter (fun p => p.share.isNone && !c.inStore p.va)
  toLe 4 c.limits.localMax ++ toLe 4 c.limits.sramMax ++ toLe 4 c.limits.nbrMax ++ toLe 8 ring.1 ++ toLe 4 ring.2 ++ toLe 8 c.scaleAddr
    ++ toLe 4 c.scaleN ++ toLe 4 hints.length ++ hints.flatMap (fun p => toLe 4 p.va ++ toLe 2 (hint p))
    ++ toLe 4 c.backfill.length
    ++ c.backfill.flatMap (fun b => toLe 1 b.queue ++ toLe 8 ((b.leads.map (fun l => 2 ^ l)).sum) ++ toLe 2 (b.bound / 2 ^ 24))

/-- The fences section: handle and value of each fence that the context references. -/
def State.fenceSection (s : State) (c : Ctx) : Bytes := c.fences.flatMap (fun i => match s.fence? i with
  | some f => toLe 4 f.handle ++ toLe 8 f.value
  | none => [])

/-- The parameters section: table address, index and record, once each. -/
def State.paramSection (s : State) (c : Ctx) : Bytes :=
  c.ckpt.named.flatMap (fun n => toLe 8 n.1 ++ toLe 4 n.2 ++ s.peekV c.id (n.1 + 128 * n.2) 128)

/-- The sections of a generation (Table 15-2): pages in ascending address, then windows, queues, and the rest (LOG 36). -/
def State.sectionsOf (s : State) (c : Ctx) : List (Nat × Nat × Bytes) :=
  (sortBy (fun (p : Page) => p.va) c.pages).filterMap (s.pageSection c)
    ++ (c.queues.filter (fun x => x.window != 0)).map (fun x => (1, x.number, s.windowBytes x))
    ++ c.queues.map (s.queueSection c)
    ++ [(3, 0, s.fenceSection c), (4, 0, c.attrSection), (6, 0, s.paramSection c)]

/-- The windows of a context are saved into frames of its allowance (Table 15-3, step 4), one for each 2 MiB of a window, as far as the
allowance goes (DEDUCED LOG 36). -/
def State.saveWindows (s : State) (c : Ctx) : State :=
  let n := min (c.queues.map (fun x => ceilDiv x.window 2)).sum (field (ofLe c.ckpt.cfg) 215 192)
  (List.range n).foldl (fun s _ => match s.freeHbm 0 with
    | none => s
    | some f => (s.modMem (fun m => m.takeHbm f (.snapshot c.id))).modCtx c.id (fun d =>
        { d with ckpt := { d.ckpt with cowUsed := d.ckpt.cowUsed + 1 } })) s

/-- CKPT_CUT (Table 15-3, steps 4 and 5): the image stands as it is now; its pages become snapshot pages, and work goes on. -/
def doCkptCut (id : Nat) (s : State) : State :=
  match s.ctx? id with
  | none => s
  | some c =>
    if !(s.alive && c.ckpt.stage == 1 && s.drained c) then s
    else
      let mark (p : Page) : Page := if p.share.isNone && p.keyId == 0 && !c.inStore p.va then { p with snap := true } else p
      (s.modCtx id (fun d =>
        { d with pages := d.pages.map mark,
                 ckpt := { d.ckpt with stage := 2, cutAt := s.hub.timer, cutEpoch := s.otp.bootEpoch, lastCut := s.hub.timer,
                                       sections := s.sectionsOf c, cowUsed := 0, cowMoves := 0, heldWrites := 0, torn := false,
                                       cutStep := d.ckpt.step, half := s.targetHalf id c.ckptCfg } })).saveWindows c

/-- CKPT_CUT. -/
def execCkptCut (ctx : Nat) (s : State) : Host.Outcome State Fault Refusal := .next (doCkptCut ctx s)

/-- CKPT_DRAIN_TIMEOUT (R484): the generation is abandoned. -/
def doCkptDrainTimeout (id : Nat) (s : State) : State :=
  match s.ctx? id with
  | none => s
  | some c =>
    if s.alive && c.ckpt.stage == 1 && decide (c.ckpt.started + c.ckptCfg.drainTmo * 2 ^ 20 ≤ s.hub.timer) then
      (s.modCtx id (fun d => { d with ckpt := { d.ckpt with cutAt := s.hub.timer, cutEpoch := s.otp.bootEpoch } })).endCkpt id .timeout 0 0
    else s

/-- CKPT_DRAIN_TIMEOUT. -/
def execCkptDrainTimeout (ctx : Nat) (s : State) : Host.Outcome State Fault Refusal := .next (doCkptDrainTimeout ctx s)

/-! ### The image -/

/-- The binding of R480. -/
def State.ckptBinding (s : State) (c : Ctx) (keySrc : Bool) : Bytes :=
  if keySrc then List.replicate 64 0
  else match c.policy with
    | some p => slice p.hash 0 64
    | none => match s.sessions.find? (fun x => x.owns c) with
      | some x => shake256 x.hostKey 64
      | none => List.replicate 64 0

/-- The store key (R480). -/
def State.storeKey (s : State) (c : Ctx) (keySrc : Bool) (keyId : Nat) (label : Bytes) : Bytes :=
  let key := if keySrc then (match s.loadedKey c keyId with
      | some k => k.material
      | none => [])
    else s.sealKey
  kmac256 key (s.ckptBinding c keySrc ++ label) "CHECKPOINT" 32

/-- Byte planes of a piece: plane `k` holds bytes `k`, `k + n`, … (R486). -/
def splitPlanes (n : Nat) (bs : Bytes) : Bytes :=
  (List.range n).flatMap (fun k => (List.range (ceilDiv (bs.length - k) n)).map (fun i => bs.getD (k + i * n) 0))

/-- Bytes from their planes. -/
def joinPlanes (n : Nat) (bs : Bytes) : Bytes :=
  let start (k : Nat) : Nat := ((List.range k).map (fun j => ceilDiv (bs.length - j) n)).sum
  (List.range bs.length).map (fun i => bs.getD (start (i % n) + i / n) 0)

/-- The nonce of a piece (R486). -/
def pieceNonce (sec piece : Nat) : Bytes := toLe 4 0 ++ toLe 4 piece ++ toLe 4 sec

/-- A stored piece: header, ciphertext, tag, padding (R486). -/
def storedPiece (key : Bytes) (sec piece : Nat) (raw : Bytes) : Bytes :=
  let t := Config.pieceFrame raw
  let planes := t.1 % 3
  let small := decide (16 * t.2.length ≤ 15 * raw.length)
  let body := if allZero raw then [] else if small then t.2 else raw
  let hdr := toLe 4 ((if allZero raw then 0 else if small then 2 + planes * 4 else 1)) ++ toLe 4 body.length ++ toLe 8 0
  let p := hdr ++ slice (Config.gcmSeal key (pieceNonce sec piece) hdr body) 0 (body.length + 16)
  p ++ List.replicate ((64 - p.length % 64) % 64) 0

/-- The pieces of 64 KiB of a section. -/
def piecesOfRaw : Nat → Bytes → List Bytes
  | 0, _ => []
  | n + 1, bs => if bs.isEmpty then [] else bs.take 65536 :: piecesOfRaw n (bs.drop 65536)

/-- Pieces of a section. -/
def rawPieces (bs : Bytes) : List Bytes := piecesOfRaw (bs.length / 65536 + 1) bs

/-- The stored pieces of one section. -/
def storedSection (key : Bytes) (sec : Nat) (raw : Bytes) : List Bytes :=
  let ps := rawPieces raw
  (List.zip (List.range ps.length) ps).map (fun p => storedPiece key sec p.1 p.2)

/-- A section entry (Table 15-5). -/
def sectionEntry (kind ref off : Nat) (raw : Bytes) : Bytes :=
  toLe 2 kind ++ toLe 6 ref ++ toLe 4 raw.length ++ toLe 4 (rawPieces raw).length ++ toLe 8 off ++ toLe 8 (tally raw) ++ toLe 32 0

/-- The section table and the stored pieces: entries and bytes, from an offset on. -/
def layOut (key : Bytes) : Nat → Nat → List (Nat × Nat × Bytes) → Bytes × Bytes
  | _, _, [] => ([], [])
  | sec, off, (kind, ref, raw) :: rest =>
    let data := (storedSection key sec raw).flatten
    let t := layOut key (sec + 1) (off + data.length) rest
    (sectionEntry kind ref off raw ++ t.1, data ++ t.2)

/-- The manifest header (Table 15-4). -/
def manifest (c : Ctx) (ordinal sections used : Nat) (wrapped binding mtag : Bytes) (commit verified : Nat) : Bytes :=
  let g := c.ckptCfg
  toLe 4 0x434B5054 ++ toLe 1 1 ++ toLe 3 g.keySrc.toNat ++ toLe 8 c.ckpt.genNow ++ toLe 8 c.ckpt.cutAt ++ toLe 4 c.ckpt.cutEpoch ++ toLe 4 sections
    ++ toLe 4 c.ckpt.cutStep ++ toLe 2 ordinal ++ toLe 2 0 ++ toLe 8 used ++ slice wrapped 0 40 ++ toLe 8 0 ++ binding ++ g.label
    ++ mtag ++ toLe 8 commit ++ toLe 8 verified ++ toLe 32 0

/-- The tag over header and section table (R486). -/
def manifestTag (key header table : Bytes) : Bytes := slice (Config.gcmSeal key (pieceNonce 0xFFFFFFFF 0) (header ++ table) []) 0 16

/-- A whole generation: header (with `commit` and `verified` 0), table, gap up to a multiple of 4 KiB, pieces. -/
def State.generation (s : State) (c : Ctx) (key : Bytes) : Bytes × Bytes :=
  let g := c.ckptCfg
  let secs := c.ckpt.sections
  let start := (256 + 64 * secs.length + 4095) / 4096 * 4096
  let t := layOut key 0 start secs
  let wrapped := Config.keyWrap (s.storeKey c g.keySrc g.keyId g.label) key
  let binding := s.ckptBinding c g.keySrc
  let used := start + t.2.length
  let head (tag : Bytes) : Bytes := manifest c s.links.ordinal secs.length used wrapped binding tag 0 0
  let tag := manifestTag key (head (List.replicate 16 0)) t.1
  (head tag, t.1 ++ List.replicate (start - 256 - t.1.length) 0 ++ t.2)

/-- Do the snapshot reads succeed? Pages of the image that no write has replaced are read now (R487). -/
def State.readSnapshots (s : State) (c : Ctx) (ups : List Upset) : State × Bool :=
  (c.pages.filter (fun p => p.snap)).foldl (fun (acc : State × Bool) p =>
    let r := acc.1.readV c.id none ups (p.va * pageSize) pageSize
    (r.1, acc.2 && (match r.2 with
      | .ok _ => true
      | .error _ => false))) (s, true)

/-- CKPT_WRITE_DONE (R487): the generation is written, read back and marked. What was written and reads back unchanged passes the checks of
step 5; anything else fails them. -/
def doCkptWrite (id : Nat) (ups : List Upset) (s : State) : State :=
  match s.ctx? id with
  | none => s
  | some c =>
    if !(s.alive && c.ckpt.stage == 2) then s
    else
      let g := c.ckptCfg
      let at_ := halfAt g.va g.pages c.ckpt.half
      let raw := (c.ckpt.sections.map (fun x => x.2.2.length)).sum
      let k := s.draw 32
      let t := k.1.readSnapshots c ups
      let img := t.1.generation c k.2
      let bytes := img.1 ++ img.2
      let bad (s : State) : State := s.endCkpt id .uncorrectable raw bytes.length
      -- step 1
      let w1 := t.1.writeV id none ups (at_ + 208) (toLe 16 0)
      if w1.2.isSome then bad w1.1
      else if halfBytes g.pages < bytes.length then w1.1.endCkpt id .extent raw bytes.length
      else if !t.2 || c.ckpt.torn then bad w1.1
      else
        -- steps 2 to 4
        let w2 := w1.1.writeV id none ups (at_ + 256) img.2
        let w3 := if w2.2.isSome then w2 else w2.1.writeV id none ups at_ img.1
        let w4 := if w3.2.isSome then w3 else w3.1.writeV id none ups (at_ + 208) (toLe 8 c.ckpt.genNow)
        if w4.2.isSome then bad w4.1
        else
          -- step 5
          let r := w4.1.readV id none ups at_ bytes.length
          match r.2 with
          | .error _ => bad r.1
          | .ok back =>
            if back.take 208 ++ back.drop 224 ≠ bytes.take 208 ++ bytes.drop 224 then r.1.endCkpt id .digestMismatch raw bytes.length
            else
              let w5 := r.1.writeV id none ups (at_ + 216) (toLe 8 c.ckpt.genNow)
              if w5.2.isSome then bad w5.1 else w5.1.endCkpt id .ok raw bytes.length

/-- CKPT_WRITE_DONE. -/
def execCkptWriteDone (ctx : Nat) (upsets : List Upset) (s : State) : Host.Outcome State Fault Refusal := .next (doCkptWrite ctx upsets s)

end Sys2Proof.Machine
end

