-- ==== Sys2Proof/Machine/Bulk.lean ====
section
/-!
DEFINITION. Machine/Bulk.lean: BULK_IN and BULK_OUT (R336–R338, R379).
-/
namespace Sys2Proof.Machine

/-- Write a region block by block; on a failure, the bytes written before it are unspecified (R338). -/
def State.bulkWrite (s : State) (id : Nat) (ups : List Upset) (va : Nat) (bs : Bytes) : State × Option Status :=
  let r := (cutAt 256 (bs.length / 256 + 2) va bs).foldl (fun (acc : State × Option Status × Nat) x =>
    if acc.2.1.isSome then acc
    else
      let t := acc.1.writeV id none ups x.1 x.2
      (t.1, t.2, if t.2.isSome then acc.2.2 else acc.2.2 + x.2.length)) (s, none, 0)
  match r.2.1 with
  | none => (r.1, none)
  | some st =>
    let f := r.1.freeBytes r.2.2
    (f.1.pokeV id va f.2, some st)

/-- BULK_IN (R336–R338). A half that a generation is writing gives DENIED (R479). -/
def doBulkIn (m : Msg) (ups : List Upset) : State → Session → State × Option Reply :=
  withCtx m fun s _ c =>
    let va := field m.arg0 47 0
    let n := m.payload.length
    match firstOf [
        (anySet m.arg0 63 48, Status.reservedSet),
        (!c.open_ va n, .extent),
        (c.writingHalf va n, .denied)] with
    | some st => refuse s st
    | none =>
      let r := s.bulkWrite c.id ups va m.payload
      (r.1, some (.of (r.2.getD .ok)))

/-- BULK_IN. While a checkpoint drains the context, or a proposal holds the windows written, it waits in its mailbox (R483, R380). -/
def execBulkIn (m : Msg) (upsets : List Upset) (s : State) : Host.Outcome State Fault Refusal :=
  let held := match s.ctx? m.ctx with
    | some c => c.gen == m.ctxGen && c.heldRelease [{ space := 0, addr := field m.arg0 47 0, bytes := m.payload.length }]
    | none => false
  .next (if s.draining m.ctx || held then s else s.request .bulkIn m (doBulkIn m upsets))

/-- Is any byte of a region in a release window? -/
def Ctx.releaseRegion (c : Ctx) (va n : Nat) : Bool := match c.policy with
  | some p => p.windows.any (fun w => w.kind == 3 && decide (va < w.va + w.pages * pageSize) && decide (w.va < va + n))
  | none => false

/-- The release key of a number (Table 12-9). -/
def Policy.releaseKey (p : Policy) (number : Nat) : Bytes := kmac256 p.jobKey (toLe 4 number) "RELEASE" 32

/-- The answer of R379: number, counter, ciphertext and tag. -/
def Policy.sealed (p : Policy) (bs : Bytes) : Bytes :=
  let nonce := toLe 4 p.release ++ toLe 8 p.counter
  nonce ++ slice (Config.gcmSeal (p.releaseKey p.release) nonce [] bs) 0 (bs.length + 16)

/-- Answers that a release key allows (Table 12-11). -/
def releaseLimit : Nat := 2 ^ 32

/-- BULK_OUT (R336–R338, R379). -/
def doBulkOut (m : Msg) (ups : List Upset) : State → Session → State × Option Reply :=
  withCtx m fun s _ c =>
    let va := field m.arg0 47 0
    let w := ofLe (slice m.payload 0 8)
    let n := field w 31 0
    let release := c.releaseRegion va n
    match firstOf [
        (decide (m.length ≠ 8) || decide (65504 < n) || (release && decide (65476 < n)), Status.badLength),
        (anySet m.arg0 63 48 || anySet w 63 32, .reservedSet),
        (!c.mapped va n, .extent),
        (release && n != 0 && (match c.policy with
          | some p => p.proposal.isNone
          | none => true), .denied),
        (release && n != 0 && (match c.policy with
          | some p => decide (releaseLimit ≤ p.counter - p.keyFrom)
          | none => false), .keyExhausted)] with
    | some st => refuse s st
    | none =>
      let r := s.readV c.id none ups va n
      match r.2 with
      | .error st => refuse r.1 st
      | .ok bs => match c.policy with
        | some p =>
          if release && n != 0 then
            (r.1.modCtx c.id (fun d => { d with policy := some { p with counter := p.counter + 1 } }), some { status := .ok, payload := p.sealed bs })
          else (r.1, some { status := .ok, payload := bs })
        | none => (r.1, some { status := .ok, payload := bs })

/-- BULK_OUT. A read that R240 holds waits in its mailbox. -/
def execBulkOut (m : Msg) (upsets : List Upset) (s : State) : Host.Outcome State Fault Refusal :=
  let held := match s.ctx? m.ctx with
    | some c => c.gen == m.ctxGen
        && c.heldReads [{ space := 0, addr := field m.arg0 47 0, bytes := field (ofLe (slice m.payload 0 8)) 31 0 }]
    | none => false
  .next (if held then s else s.request .bulkOut m (doBulkOut m upsets))

end Sys2Proof.Machine
end

