-- ==== Sys2Proof/Machine/Consortium.lean ====
section
/-!
DEFINITION. Machine/Consortium.lean: policies, owners and releases of consortium contexts (R374–R382).
-/
namespace Sys2Proof.Machine

/-! ### POLICY_LOAD -/

/-- Window `i` of a document whose windows begin at `off` (Table 11-15). -/
def policyWindow (bs : Bytes) (off i : Nat) : PolicyWindow :=
  let w := ofLe (slice bs (off + 32 * i) 32)
  { va := field w 47 0, pages := field w 87 64, kind := field w 89 88, owner := field w 100 96 }

/-- Are reserved bits of window `i` set? The owner index of kinds 1 and 3 is 0. -/
def windowReserved (bs : Bytes) (off i : Nat) : Bool :=
  let w := ofLe (slice bs (off + 32 * i) 32)
  anySet w 63 48 || anySet w 95 90 || anySet w 255 101 || ((field w 89 88 == 1 || field w 89 88 == 3) && anySet w 100 96)

/-- A policy document (Table 11-14), not yet bound: its counts, and the offsets of windows, queues and signatures. -/
structure PolicyDoc where
  owners : Nat
  windows : Nat
  queues : Nat
  deriving DecidableEq, Repr

/-- The counts of a document. -/
def policyDoc (bs : Bytes) : PolicyDoc :=
  { owners := ofLe (slice bs 5 1), windows := ofLe (slice bs 100 1), queues := ofLe (slice bs 101 1) }

def PolicyDoc.windowsAt (d : PolicyDoc) : Nat := 128 + 64 * d.owners
def PolicyDoc.queuesAt (d : PolicyDoc) : Nat := d.windowsAt + 32 * d.windows
/-- Bytes before the signatures: what the policy hash covers (R374). -/
def PolicyDoc.signed (d : PolicyDoc) : Nat := d.queuesAt + 16 * d.queues
/-- Bytes of the whole document (R375). -/
def PolicyDoc.bytes (d : PolicyDoc) : Nat := 128 + 192 * d.owners + 32 * d.windows + 16 * d.queues

/-- Case 2 of R375. -/
def PolicyDoc.reserved (d : PolicyDoc) (bs : Bytes) : Bool :=
  anySet (ofLe (slice bs 7 1)) 7 1 || !allZero (slice bs 102 26)
    || (List.range d.owners).any (fun i => !allZero (slice bs (128 + 64 * i + 57) 7) || !allZero (slice bs (d.signed + 128 * i + 114) 14))
    || (List.range d.windows).any (windowReserved bs d.windowsAt)
    || (List.range d.queues).any (fun i => !allZero (slice bs (d.queuesAt + 16 * i + 1) 3) || !allZero (slice bs (d.queuesAt + 16 * i + 12) 4))

/-- The policy that a document states. -/
def PolicyDoc.policy (d : PolicyDoc) (bs : Bytes) : Policy :=
  { nOwners := d.owners, quorum := ofLe (slice bs 6 1), dpRequired := flag (ofLe (slice bs 7 1)) 0, dpSigmaMin := ofLe (slice bs 8 4),
    dpStepMax := ofLe (slice bs 12 4), jobId := ofLe (slice bs 16 8), progAddr := ofLe (slice bs 88 8), progPages := ofLe (slice bs 96 4),
    owners := (List.range d.owners).map (fun i => slice bs (128 + 64 * i) 57),
    windows := (List.range d.windows).map (policyWindow bs d.windowsAt),
    templates := (List.range d.queues).map (fun i =>
      let o := d.queuesAt + 16 * i
      (ofLe (slice bs o 1), ofLe (slice bs (o + 4) 4), ofLe (slice bs (o + 8) 4))),
    hash := shake256 (bs.take d.signed) 64, progDigest := slice bs 24 64, jobKey := [] }

/-- Ranges that must not overlap: the windows and the program region. -/
def Policy.ranges (p : Policy) : List (Nat × Nat) :=
  (p.progAddr, p.progPages * pageSize) :: p.windows.map (fun w => (w.va, w.pages * pageSize))

/-- Do two ranges of a list overlap? -/
def overlapping : List (Nat × Nat) → Bool
  | [] => false
  | x :: rest => rest.any (fun y => meets x.1 x.2 y.1 y.2) || overlapping rest

/-- Case 3 of R375, the templates apart. -/
def policyDenied (c : Ctx) (bs : Bytes) (d : PolicyDoc) (p : Policy) : Bool :=
  !c.consortium || c.policy.isSome || ofLe (slice bs 0 4) != 0x504C4359 || ofLe (slice bs 4 1) != 1
    || decide (d.owners < 2) || decide (32 < d.owners) || decide (p.quorum < 1) || decide (d.owners < p.quorum) || decide (d.windows < 1)
    || decide (64 < d.windows) || decide (64 < d.queues) || p.windows.any (fun w => w.pages == 0)
    || p.templates.any (fun t => decide (t.2.2 < 1) || decide (65536 < t.2.2)) || hasDup p.owners || overlapping p.ranges
    || (p.dpRequired && !(w32Finite (BitVec.ofNat 32 p.dpSigmaMin) && (XVal.zero false).lt (w32Val (BitVec.ofNat 32 p.dpSigmaMin))))

/-- Templates of case 3: within the program region, one for a queue. -/
def templatesDenied (p : Policy) : Bool :=
  p.templates.any (fun t => decide (p.progPages * pageSize < t.2.1 + 128 * t.2.2)) || hasDup (p.templates.map (fun t => t.1))

/-- The owners' signatures (R375, case 5). -/
def State.policySigned (s : State) (bs : Bytes) (d : PolicyDoc) (p : Policy) : Bool :=
  (List.zip (List.range d.owners) p.owners).all (fun o => s.verifies o.2 p.hash (slice bs (d.signed + 128 * o.1) 114))

/-- POLICY_LOAD (R374, R375, R542). A program region that cannot be read does not match its digest. -/
def doPolicyLoad (m : Msg) (ups : List Upset) : State → Session → State × Option Reply :=
  withCtx m fun s _ c =>
    let bs := m.payload
    let d := policyDoc bs
    let p := d.policy bs
    match firstOf [
        (decide (m.length ≠ d.bytes), Status.badLength),
        (d.reserved bs, .reservedSet),
        (policyDenied c bs d p, .denied),
        (p.templates.any (fun t => decide (t.2.1 % 128 ≠ 0)), .extent),
        (templatesDenied p, .denied),
        (p.ranges.any (fun r => decide (r.1 % pageSize ≠ 0)) || p.ranges.any (fun r => !c.mapped r.1 r.2), .extent)] with
    | some st => refuse s st
    | none =>
      let r := s.readV c.id none ups p.progAddr (p.progPages * pageSize)
      let matches_ := match r.2 with
        | .ok prog => shake256 prog 64 == slice bs 24 64
        | .error _ => false
      if !matches_ || !r.1.policySigned bs d p then refuse r.1 .digestMismatch
      else
        let k := r.1.draw 32
        let seal_ (x : Page) : Page :=
          if p.progAddr / pageSize ≤ x.va ∧ x.va < p.progAddr / pageSize + p.progPages then { x with ro := true } else x
        okay (k.1.modCtx c.id (fun e => { e with policy := some { p with jobKey := k.2 }, pages := e.pages.map seal_ }))

/-- POLICY_LOAD. -/
def execPolicyLoad (m : Msg) (upsets : List Upset) (s : State) : Host.Outcome State Fault Refusal :=
  .next (s.request .policyLoad m (doPolicyLoad m upsets))

/-! ### OWNER_JOIN -/

/-- Is an owner index joined by an open session? -/
def State.indexJoined (s : State) (c : Ctx) (i : Nat) : Bool :=
  c.joined.any (fun j => j.2.2 == i && s.sessions.any (fun y => y.number == j.1 && y.gen == j.2.1 && y.isOpen))

/-- OWNER_JOIN (R377). -/
def doOwnerJoin (m : Msg) : State → Session → State × Option Reply :=
  withCtx m fun s x c =>
    let i := ofLe (slice m.payload 0 1)
    match firstOf [
        (decide (m.length ≠ 128), Status.badLength),
        (!allZero (slice m.payload 1 7) || !allZero (slice m.payload 122 6), .reservedSet)] with
    | some st => refuse s st
    | none => match c.policy with
      | none => refuse s .denied
      | some p =>
        if p.nOwners ≤ i || s.indexJoined c i || x.owns c then refuse s .denied
        else if !s.verifies (p.owners.getD i []) (shake256 (x.transcript ++ p.hash ++ ascii "owner join") 64) (slice m.payload 8 114) then
          refuse s .digestMismatch
        else okay (s.modCtx c.id (fun d => { d with joined := d.joined.filter (fun j => j.2.2 != i) ++ [(x.number, x.gen, i)] }))

/-- OWNER_JOIN. -/
def execOwnerJoin (m : Msg) (s : State) : Host.Outcome State Fault Refusal := .next (s.request .ownerJoin m (doOwnerJoin m))

/-! ### RELEASE and QUORUM_SIGN -/

/-- Change the policy of a context. -/
def State.modPolicy (s : State) (id : Nat) (f : Policy → Policy) : State := s.modCtx id (fun d => { d with policy := d.policy.map f })

/-- Close the open proposal (R380, R381): the release number advances and the held writes go on; collectives that waited run. -/
def State.closeProposal (s : State) (id : Nat) (released : Bool) : State :=
  let s1 := s.modPolicy id (fun p =>
    { p with proposal := none, signed := [], released := if released then p.release :: p.released else p.released, release := p.release + 1,
             keyFrom := p.counter })
  (s1.links.groups.filter (fun g => g.ctx == id)).foldl (fun s g => s.runGroup id g.id instFuel) s1

/-- The bytes of the release windows in ascending address. -/
def State.readReleases (s : State) (id : Nat) (p : Policy) : State × Except Status Bytes :=
  (sortBy (fun w => w.va) (p.windows.filter (fun w => w.kind == 3))).foldl (fun (acc : State × Except Status Bytes) w =>
    match acc.2 with
    | .error e => (acc.1, .error e)
    | .ok bs =>
      let r := acc.1.readV id none [] w.va (w.pages * pageSize)
      (r.1, match r.2 with
            | .error e => .error e
            | .ok more => .ok (bs ++ more))) (s, .ok [])

/-- RELEASE (R380), every form. A withdrawal without an open proposal is DENIED (DEDUCED LOG 27). -/
def doRelease (m : Msg) : State → Session → State × Option Reply :=
  withCtx m fun s _ c =>
    let w := ofLe (slice m.payload 0 16)
    let op := field w 1 0
    let number := field w 63 32
    match firstOf [
        (decide (m.length ≠ 16), Status.badLength),
        (anySet w 31 2 || anySet w 127 64 || op == 3, .reservedSet)] with
    | some st => refuse s st
    | none => match c.policy with
      | none => refuse s .denied
      | some p => match op with
        | 0 =>
          if p.proposal.isSome || number != p.release then refuse s .denied
          else
            let r := s.readReleases c.id p
            (match r.2 with
             | .error e => refuse r.1 e
             | .ok bs => (r.1.modPolicy c.id (fun q => { q with proposal := some (tally bs), signed := [] }), some { status := .ok, arg0 := tally bs }))
        | 1 => if (p.released.take 16).contains number then (s, some { status := .ok, payload := p.releaseKey number }) else refuse s .denied
        | _ => if p.proposal.isNone then refuse s .denied else okay (s.closeProposal c.id false)

/-- RELEASE, propose. -/
def execReleasePropose (m : Msg) (s : State) : Host.Outcome State Fault Refusal := .next (s.request .release m (doRelease m))
/-- RELEASE, fetch. -/
def execReleaseFetch (m : Msg) (s : State) : Host.Outcome State Fault Refusal := .next (s.request .release m (doRelease m))
/-- RELEASE, withdraw. -/
def execReleaseWithdraw (m : Msg) (s : State) : Host.Outcome State Fault Refusal := .next (s.request .release m (doRelease m))

/-- QUORUM_SIGN (R381). A wrong length or a reserved byte is refused first (DEDUCED LOG 25). -/
def doQuorumSign (m : Msg) : State → Session → State × Option Reply :=
  withCtx m fun s x c =>
    let number := ofLe (slice m.payload 0 4)
    match firstOf [
        (decide (m.length ≠ 128), Status.badLength),
        (!allZero (slice m.payload 4 4) || !allZero (slice m.payload 122 6), .reservedSet)] with
    | some st => refuse s st
    | none => match c.policy with
      | none => refuse s .staleGeneration
      | some p => match p.proposal with
        | none => refuse s .staleGeneration
        | some t =>
          if number ≠ p.release then refuse s .staleGeneration
          else
            let text := shake256 (p.hash ++ toLe 4 number ++ toLe 8 t ++ ascii "release") 64
            match (x.joinedAs c).find? (fun i => s.verifies (p.owners.getD i []) text (slice m.payload 8 114)) with
            | none => refuse s .digestMismatch
            | some i =>
              let signed := if p.signed.contains i then p.signed else p.signed ++ [i]
              let s1 := s.modPolicy c.id (fun q => { q with signed := signed })
              (if p.quorum ≤ signed.length then s1.closeProposal c.id true else s1, some { status := .ok, arg0 := signed.length })

/-- QUORUM_SIGN. -/
def execQuorumSign (m : Msg) (s : State) : Host.Outcome State Fault Refusal := .next (s.request .quorumSign m (doQuorumSign m))

end Sys2Proof.Machine
end

