-- ==== Sys2Proof/Machine/Keys.lean ====
section
/-!
DEFINITION. Machine/Keys.lean: KEY_LOAD, KEY_DERIVE and KEY_DESTROY (R412–R414).
-/
namespace Sys2Proof.Machine

/-- Key slots of the Vault (R404). -/
def vaultSlots : Nat := 1024

/-- Uses that a loaded KeyID allows: it is a memory key (Table 12-11). -/
def loadedLimit : Nat := 2 ^ 56 - 1

/-- The KeyIDs loaded for a context. -/
def State.keysOf (s : State) (c : Ctx) : List KeySlot :=
  s.vault.slots.filter (fun k => k.kind == .loaded && k.ctx == c.id && k.ctxGen == c.gen)

/-- The KeyID that the next key takes (R344). -/
def State.freeKeyId (s : State) : Option Nat :=
  (pickId 4096 (s.vault.slots.map (fun k => k.keyId)) (s.vault.freed.map (fun f => (f.1, 0, f.2))) s.hub.timer (fun _ => false)).map
    (fun x => x.1)

/-- A KeyID that a session may name (R413, case 4): of the context, and on a consortium context its own. -/
def State.namedKey (s : State) (x : Session) (c : Ctx) (k : Nat) : Option KeySlot :=
  (s.keysOf c).find? (fun y => y.keyId == k && k != 0 && !y.dying && (!c.consortium || (y.byOwner && (x.joinedAs c).contains y.owner)))

/-- The owner as which a session binds a range on a consortium context: one of its own whose input windows hold it. -/
def Ctx.keyOwner (c : Ctx) (x : Session) (va n : Nat) : Option Nat :=
  (x.joinedAs c).find? (fun i => n == 0 || (match c.policy with
    | some p => p.covers va n (fun w => w.kind == 0 && w.owner == i)
    | none => false))

/-- Begin the binding of a range to a KeyID (R414): pages in tier SRAM take it at once, the rest by a move in place. -/
def State.beginBind (s : State) (c : Ctx) (vp n k : Nat) : State :=
  (c.rangePages vp n).foldl (fun s p => match p.tier, p.frame with
    | none, some f => s.startMove c.id p.va f .mirror k true
    | none, none => (match (p.share.bind (fun y => s.share? y.1)).bind (fun y => y.pages[(p.share.getD (0, 0)).2]?) with
        | some y => s.startMove c.id p.va y.first .mirror k true
        | none => s)
    | some _, _ => s.bindPage c.id p.va k) s

/-- KEY_LOAD and KEY_DERIVE (R412, R413). -/
def doKeyMake (m : Msg) (op : Opcode) : State → Session → State × Option Reply :=
  withCtx m fun s x c =>
    let w := ofLe (slice m.payload 0 64)
    let derive := op == .keyDerive
    let parent := field w 11 0
    let va := field w 111 64
    let n := field w 151 128
    let bytes := n * pageSize
    let parentKey := s.namedKey x c parent
    let range := c.rangePages (va / pageSize) n
    match firstOf [
        (decide (m.length ≠ 64), Status.badLength),
        ((!derive && parent != 0) || anySet w 63 13 || anySet w 127 112 || anySet w 191 152 || anySet w 511 448, .reservedSet),
        (decide (va % pageSize ≠ 0) || decide (2 ^ 48 < va + bytes) || !c.mapped va bytes
          || range.any (fun p => match p.share with
              | some y => (match s.share? y.1 with
                | some z => (z.attached c.id).any (fun v => v + y.2 == p.va)
                | none => true)
              | none => false), .extent),
        ((derive && (match parentKey with
            | some k => !k.derivable
            | none => true)) || (c.consortium && (c.keyOwner x va bytes).isNone), .denied),
        (s.freeKeyId.isNone || decide (vaultSlots ≤ s.vault.slots.length) || decide (64 ≤ (s.keysOf c).length), .noSlot)] with
    | some st => refuse s st
    | none =>
      match s.freeKeyId with
      | none => refuse s .noSlot
      | some k =>
        let text := slice m.payload 24 32
        let material := if derive then (match parentKey with
            | some y => kmac256 y.material text "KEY DERIVE" 32
            | none => text)
          else text
        let issue := sparse s.vault.issues k + 1
        let slot : KeySlot :=
          { keyId := k, kind := .loaded, resetExpire := flag w 12, derivable := true, ctx := c.id, ctxGen := c.gen,
            owner := if !c.consortium then 0 else if derive && n == 0 then (parentKey.map (fun y => y.owner)).getD 0 else (c.keyOwner x va bytes).getD 0,
            byOwner := c.consortium, limit := loadedLimit, issue := issue,
            material := material }
        let s1 := { s with vault := { s.vault with slots := s.vault.slots ++ [slot], freed := s.vault.freed.filter (fun f => f.1 != k),
                                                   issues := setSparse s.vault.issues k issue } }
        if n = 0 then (s1, some { status := .ok, arg0 := k })
        else ((s1.beginBind c (va / pageSize) n k).await x op m (.keyBind k), some { status := .pending, arg0 := k })

/-- KEY_LOAD. A binding without a page to move ends at once. -/
def execKeyLoad (m : Msg) (s : State) : Host.Outcome State Fault Refusal :=
  .next (s.requestThen .keyLoad m (doKeyMake m .keyLoad) (fun t => t.settleKeys m.ctx))
/-- KEY_DERIVE. -/
def execKeyDerive (m : Msg) (s : State) : Host.Outcome State Fault Refusal :=
  .next (s.requestThen .keyDerive m (doKeyMake m .keyDerive) (fun t => t.settleKeys m.ctx))

/-- KEY_DESTROY (R412–R414): PENDING, until the binding of the KeyID has ended and the key is destroyed (R408). -/
def doKeyDestroy (m : Msg) : State → Session → State × Option Reply :=
  withCtx m fun s x c =>
    let w := ofLe (slice m.payload 0 8)
    let k := field w 11 0
    match firstOf [
        (decide (m.length ≠ 8), Status.badLength),
        (anySet w 63 12, .reservedSet),
        ((s.namedKey x c k).isNone, .denied)] with
    | some st => refuse s st
    | none => (s.await x .keyDestroy m (.keyDestroy k), some (.of .pending))

/-- KEY_DESTROY. -/
def execKeyDestroy (m : Msg) (s : State) : Host.Outcome State Fault Refusal :=
  .next (s.requestThen .keyDestroy m (doKeyDestroy m) (fun t => t.settleKeys m.ctx))

end Sys2Proof.Machine
end

