-- ==== Sys2Proof/Machine/Life.lean ====
section
/-!
DEFINITION. Machine/Life.lean: the life-cycle messages (R421–R428), debug (R439–R442), and the I3C management bus (R525–R527).
-/
namespace Sys2Proof.Machine

/-! ### Sessions end, and the internal cold reset is due -/

/-- CLOSE with status OK on every session, and an internal cold reset 2^20 counts later (R424, R442). -/
def State.closeAll (s : State) : State :=
  (s.sessions.map (fun x => x.number)).foldl (fun s n => s.endSession n 4 (some .ok)) s

/-- Make the internal cold reset due; one that is due already stays. -/
def State.dueReset (s : State) : State :=
  s.modHub (fun h => { h with resetDue := some (h.resetDue.getD (h.timer + 2 ^ 20)) })

/-- What follows the answer: the sessions close when a reset has become due; a burn that a reset cut off ends in that reset. -/
def State.settleLife (s t : State) : State :=
  if t.hub.inReset && !s.hub.inReset then t.wiped
  else if t.hub.resetDue.isSome && s.hub.resetDue.isNone then t.closeAll
  else t

/-! ### LC_READ -/

/-- The payload of Table 13-6. -/
def State.lifeReport (s : State) : Bytes :=
  let copy (i : Nat) : Nat := (decodeCopy (s.otp.lc.getD i 0)).code
  toLe 4 (s.life.inForce.code + copy 0 * 2 ^ 3 + copy 1 * 2 ^ 6 + copy 2 * 2 ^ 9 + s.lifePending * 2 ^ 12)
    ++ toLe 4 s.otp.bootEpoch
    ++ toLe 8 (s.otp.sealEpoch + s.modeCode * 2 ^ 7 + s.otp.svn * 2 ^ 8 + s.otp.opKeys.length * 2 ^ 15 + s.life.forceOpen.toNat * 2 ^ 18)

/-- LC_READ (R428), on a session or over I3C. -/
def lcRead (m : Msg) (s : State) : State × Reply :=
  if m.length ≠ 0 then (s, .of .badLength) else (s, { status := .ok, payload := s.lifeReport })

/-- A home rule that answers at once. -/
def atOnce (body : State → State × Reply) (s : State) (_ : Session) : State × Option Reply :=
  let r := body s
  (r.1, some r.2)

/-- LC_READ. -/
def execLcRead (m : Msg) (s : State) : Host.Outcome State Fault Refusal := .next (s.request .lcRead m (atOnce (lcRead m)))

/-! ### LC_ADVANCE -/

/-- The state of a code of Table 13-4. -/
def lifeOfCode (n : Nat) : LifeState := lifeStates.getD n .invalid

/-- Has Table 13-3 a row between the states? -/
def lifeRow (a b : LifeState) : Bool :=
  b == .scrapped || (a == .maker && b == .integrator) || (a == .integrator && b == .fielded) || (a == .fielded && b == .returned)

/-- Is the signer of a request the one that Table 13-3 names for its target? A target already in force is judged by the row that leads
to it (DEDUCED LOG 27). -/
def State.mayAdvance (s : State) (target : LifeState) (auth index : Nat) (key : Bytes) : Bool :=
  let maker := auth == 0 && s.otp.makerKeys[index]? == some key
  let oper := auth == 1 && s.life.opKey == some key
  match target with
  | .integrator => maker
  | .fielded | .returned => oper
  | .scrapped => maker || oper
  | .maker | .locked | .invalid => false

/-- Burn a codeword into the three copies in order (R424); `lim` copies are burnt whole, and the next takes `bits` of it. -/
def burnCopies (ws : List Nat) (word lim bits : Nat) : List Nat :=
  (List.zip (List.range 3) ws).map (fun x => if x.1 < lim then x.2 ||| word else if x.1 = lim then x.2 ||| (word &&& bits) else x.2)

/-- What a transition does before its codewords (Table 13-3): to INTEGRATOR ends the maker's debug rights, RETURNED burns two positions of the
seal epoch, SCRAPPED wipes (R426). -/
def State.actFor (s : State) (target : LifeState) : State :=
  match target with
  | .returned => if s.life.inForce = .returned then s else { s with otp := { s.otp with sealEpoch := min sealPositions (s.otp.sealEpoch + 2) } }
  | .scrapped => { s with otp := { s.otp.scrap with lc := s.otp.lc } }
  | .integrator => { s with life := { s.life with rights := 0 } }
  | .maker | .fielded | .locked | .invalid => s

/-- LC_ADVANCE (R422–R426), on the management session or over I3C. -/
def lcAdvance (m : Msg) (burn : Burn) (s : State) : State × Option Reply :=
  let p := m.payload
  let code := ofLe (slice p 0 1)
  let auth := ofLe (slice p 1 1)
  let index := ofLe (slice p 2 1)
  let target := lifeOfCode code
  let key := slice p 8 57
  let text := shake256 (s.otp.identityDigest ++ toLe 1 code ++ ascii "lc advance") 64
  match firstOf [
      (decide (m.length ≠ 192), Status.badLength),
      (code == 0 || decide (4 < code) || decide (1 < auth) || (auth == 0 && decide (3 < index)) || (auth == 1 && index != 0)
        || !allZero (slice p 3 5) || !allZero (slice p 65 7) || !allZero (slice p 186 6), .reservedSet),
      (target != s.life.inForce && !lifeRow s.life.inForce target, .lifecycle),
      (!s.mayAdvance target auth index key, .denied),
      (!s.verifies key text (slice p 72 114), .digestMismatch)] with
  | some st => (s, some (.of st))
  | none =>
    if target = s.life.inForce ∧ s.otp.lc.all (fun w => w == target.word) then (s, some (.of .ok))
    else
      let s1 := s.actFor target
      let set (lim bits : Nat) : State := { s1 with otp := { s1.otp with lc := burnCopies s1.otp.lc target.word lim bits } }
      match burn with
      | .whole => ((set 3 0).dueReset, some (.of .ok))
      | .badCopy copy bits =>
        -- the bits burnt remain; a record names the hub's OTP (R425)
        ((set copy bits).file { cls := .uncorrected, die := dieHub, stage := 15, status := .uncorrectable }, some (.of .uncorrectable))
      | .cut copy bits => ((set copy bits).modHub (fun h => { h with inReset := true }), none)

/-- LC_ADVANCE. -/
def execLcAdvance (m : Msg) (burn : Burn) (s : State) : Host.Outcome State Fault Refusal :=
  .next (s.requestThen .lcAdvance m (fun s _ => lcAdvance m burn s) s.settleLife)

/-! ### LC_ENROL -/

/-- LC_ENROL (R427). Over I3C, a zero signature serves in INTEGRATOR while no entry is burnt. The key takes effect at the next cold
reset. -/
def lcEnrol (m : Msg) (overI3c : Bool) (s : State) : State × Reply :=
  let p := m.payload
  let key := slice p 0 57
  let sig := slice p 64 114
  let text := shake256 (s.otp.identityDigest ++ key ++ ascii "operator enrol") 64
  let free := overI3c && s.life.inForce == .integrator && s.otp.opKeys.isEmpty && allZero sig
  let signed := match s.life.opKey with
    | some k => s.verifies k text sig
    | none => false
  match firstOf [
      (decide (m.length ≠ 192), Status.badLength),
      (!allZero (slice p 57 7) || !allZero (slice p 178 14), .reservedSet),
      (s.life.inForce != .integrator && s.life.inForce != .fielded, .lifecycle),
      (!free && !signed, .digestMismatch),
      (decide (4 ≤ s.otp.opKeys.length), .noSlot)] with
  | some st => (s, .of st)
  | none => ({ s with otp := { s.otp with opKeys := s.otp.opKeys ++ [key] } }, .of .ok)

/-- LC_ENROL. -/
def execLcEnrol (m : Msg) (s : State) : Host.Outcome State Fault Refusal := .next (s.request .lcEnrol m (atOnce (lcEnrol m false)))

/-! ### Debug -/

/-- Does the state in force bar debug? (Table 13-2) -/
def State.debugBarred (s : State) : Bool := s.life.inForce == .locked || s.life.inForce == .scrapped

/-- Grant rights, or set the retained flag and reset (R440, R442). Rights granted before stay in force (DEDUCED LOG 27). -/
def State.grantDebug (s : State) (rights : Nat) : State × Option Reply :=
  if !s.conf then okay { s with life := { s.life with rights := s.life.rights ||| rights } }
  else if sealPositions ≤ s.otp.sealEpoch then refuse s .lifecycle
  else okay ({ s with life := { s.life with retained := true } } : State).dueReset

/-- DEBUG_CERT (R439, R440). -/
def doDebugCert (m : Msg) (s : State) (_ : Session) : State × Option Reply :=
  let p := m.payload
  let rights := ofLe (slice p 72 4)
  match firstOf [
      (decide (m.length ≠ 256), Status.badLength),
      (!allZero (slice p 6 2) || !allZero (slice p 92 20) || !allZero (slice p 226 30) || anySet rights 31 7, .reservedSet),
      (s.debugBarred, .lifecycle),
      (slice p 8 64 != s.otp.identityDigest || decide (s.otp.bootEpoch < ofLe (slice p 76 4))
        || decide (ofLe (slice p 80 4) < s.otp.bootEpoch), .denied),
      (!s.verifies (s.otp.makerKeys.getD (ofLe (slice p 5 1)) []) (slice p 0 112) (slice p 112 114), .digestMismatch)] with
  | some st => refuse s st
  | none => s.grantDebug rights

/-- DEBUG_CERT. -/
def execDebugCert (m : Msg) (s : State) : Host.Outcome State Fault Refusal := .next (s.requestThen .debugCert m (doDebugCert m) s.settleLife)

/-- A response of DEBUG_CHALLENGE (R441). The nonce is spent once the signature is checked. -/
def debugResponse (m : Msg) (s : State) : State × Option Reply :=
  let p := m.payload
  let rights := ofLe (slice p 0 4)
  match firstOf [
      (decide (m.length ≠ 128), Status.badLength),
      (!allZero (slice p 5 3) || !allZero (slice p 122 6) || anySet rights 31 7, .reservedSet),
      (s.debugBarred, .lifecycle)] with
  | some st => refuse s st
  | none => match s.life.nonce with
    | none => refuse s .denied
    | some nonce =>
      let s1 := { s with life := { s.life with nonce := none } }
      let text := shake256 (s.otp.identityDigest ++ nonce ++ slice p 0 4 ++ ascii "debug response") 64
      if s.verifies (s.otp.makerKeys.getD (ofLe (slice p 4 1)) []) text (slice p 8 114) then s1.grantDebug rights
      else refuse s1 .digestMismatch

/-- A challenge (R441): a fresh nonce, followed by the identity digest. -/
def debugNonce (m : Msg) (s : State) : State × Option Reply :=
  match firstOf [
      (decide (m.length ≠ 0), Status.badLength),
      (s.debugBarred, .lifecycle)] with
  | some st => refuse s st
  | none =>
    let d := s.draw 32
    ({ d.1 with life := { d.1.life with nonce := some d.2 } }, some { status := .ok, payload := d.2 ++ s.otp.identityDigest })

/-- DEBUG_CHALLENGE of either kind; `arg0` holds no other value (DEDUCED LOG 25). -/
def doDebugChallenge (m : Msg) (s : State) (_ : Session) : State × Option Reply :=
  match m.arg0 with
  | 0 => debugNonce m s
  | 1 => debugResponse m s
  | _ => refuse s .reservedSet

/-- DEBUG_CHALLENGE with `arg0` 0. -/
def execDebugChallengeNonce (m : Msg) (s : State) : Host.Outcome State Fault Refusal :=
  .next (s.requestThen .debugChallenge m (doDebugChallenge m) s.settleLife)
/-- DEBUG_CHALLENGE with `arg0` 1. -/
def execDebugChallengeResponse (m : Msg) (s : State) : Host.Outcome State Fault Refusal :=
  .next (s.requestThen .debugChallenge m (doDebugChallenge m) s.settleLife)

/-! ### I3C -/

/-- Does the boot ROM serve the bus? (R527) -/
def State.romServes (s : State) : Bool := s.hub.halt == some .scrapped || s.hub.halt == some .image

/-- Does the device take requests over I3C at all? -/
def State.i3cServes (s : State) : Bool := s.alive || (!s.hub.inReset && s.romServes)

/-- May an opcode come over I3C? (R526) -/
def i3cMay (op : Opcode) (arg0 : Nat) : Bool :=
  op == .lcRead || op == .lcAdvance || op == .lcEnrol || (op == .telemetry && arg0 == 3)

/-- An answer frame (Table 17-6). -/
def i3cFrame (code tag : Nat) (r : Reply) : Bytes :=
  let t := headerBytes code true false 0 0 tag r.payload.length r.status.code r.arg0 ++ r.payload
  t ++ toLe 8 (tally t)

/-- What a request over I3C does (R526, R527, case 6), and its answer. TELEMETRY answers in the view of an observer. -/
def State.i3cRun (s : State) (op : Opcode) (m : Msg) (burn : Burn) : State × Option Reply :=
  -- a firmware activation bars what the Bursar handles (R438)
  if s.life.trial.isSome then refuse s .busyUpdate
  else match op with
  | .lcRead => let r := lcRead m s; (r.1, some r.2)
  | .lcAdvance => lcAdvance m burn s
  | .lcEnrol => let r := lcEnrol m true s; (r.1, some r.2)
  | .telemetry => if m.length ≠ 0 then refuse s .badLength else (s, some { status := s.telemetryStatus, payload := s.powerSection true })
  | _ => refuse s .denied

/-- The answer of a request over I3C, before its home checks: the first case of R527 that fails, or the work itself. -/
def State.i3cRequest (s : State) (code : Nat) (m : Msg) (burn : Burn) : State × Option Reply :=
  match firstOf [
      (decide (224 < m.length), Status.badLength),
      (m.rsvd != 0 || m.status != 0 || m.ctx != 0 || m.ctxGen != 0, .reservedSet)] with
  | some st => refuse s st
  | none => match (if code / 256 = 0x0C then none else Opcode.ofCode code) with
    | none => refuse s .badOpcode
    | some op => if !i3cMay op m.arg0 || (s.romServes && op != .lcRead) then refuse s .denied else s.i3cRun op m burn

/-- I3C_PRIVATE_WRITE (R526, R527). While an answer is unread, the write is not acknowledged and nothing happens. -/
def doI3cWrite (data : Bytes) (burn : Burn) (s : State) : State :=
  if !s.i3cServes || s.i3c.dynamic.isNone || s.i3c.answer.isSome then s
  else
    let r := msgOf 0 true (data.take (data.length - 8))
    let whole := data.length == 40 + r.2.2.2.length && ofLe (slice data (data.length - 8) 8) == tally (data.take (data.length - 8))
    if !whole then { s with i3c := { s.i3c with discarded := s.i3c.discarded + 1 } }
    else
      let t := s.i3cRequest r.1 r.2.2.2 burn
      let done := match t.2 with
        | some a => { t.1 with i3c := { t.1.i3c with answer := some (i3cFrame r.1 r.2.2.2.tag a, s.hub.timer) },
                               out := t.1.out ++ [.ibi 1] }
        | none => t.1
      s.settleLife done

/-- I3C_PRIVATE_WRITE. -/
def execI3cPrivateWrite (data : Bytes) (burn : Burn) (s : State) : Host.Outcome State Fault Refusal := .next (doI3cWrite data burn s)

/-- I3C_PRIVATE_READ (R526): the answer goes to the BMC, and is read. -/
def doI3cRead (s : State) : State :=
  match s.i3c.answer with
  | none => s
  | some (bs, _) => if s.i3cServes && s.i3c.dynamic.isSome then
      { s with i3c := { s.i3c with answer := none }, out := s.out ++ [.i3c bs] } else s

/-- I3C_PRIVATE_READ. -/
def execI3cPrivateRead (s : State) : Host.Outcome State Fault Refusal := .next (doI3cRead s)

/-- I3C_ANSWER_DROP (R526): an answer unread for 2^28 counts. -/
def doI3cDrop (s : State) : State :=
  match s.i3c.answer with
  | none => s
  | some (_, t) => if s.i3cServes && decide (t + 2 ^ 28 ≤ s.hub.timer) then { s with i3c := { s.i3c with answer := none } } else s

/-- I3C_ANSWER_DROP. -/
def execI3cAnswerDrop (s : State) : Host.Outcome State Fault Refusal := .next (doI3cDrop s)

/-- The static address that the strap I3C_SA selects (Table 17-5). -/
def State.staticAddr (s : State) : Nat := if s.hub.straps.i3cSa then 0x3B else 0x3A

/-- I3C_ADDRESS_ASSIGN (R525): SETDASA names the device by its static address, and ENTDAA gives one to a device without; `addr` is the
dynamic address assigned. A device that has one keeps it (DEDUCED LOG 27). -/
def doI3cAssign (static : Option Nat) (addr : Nat) (s : State) : State :=
  let named := match static with
    | some a => a == s.staticAddr
    | none => true
  if s.i3cServes && s.i3c.dynamic.isNone && named then { s with i3c := { s.i3c with dynamic := some addr } } else s

/-- I3C_ADDRESS_ASSIGN. -/
def execI3cAddressAssign (static : Option Nat) (addr : Nat) (s : State) : Host.Outcome State Fault Refusal :=
  .next (doI3cAssign static addr s)

end Sys2Proof.Machine
end

