-- ==== Sys2Proof/Machine/Reliability.lean ====
section
/-!
DEFINITION. Machine/Reliability.lean: patrol scrub (R176–R178, R452), field tests (R218, R460–R463), TEST_CONFIG (R464, R465)
and ERR_READ (R469).
-/
namespace Sys2Proof.Machine

/-! ### Patrol scrub -/

/-- Is the core's scratchpad in service? That of a fenced core left service with it (R21), and a core that is not good never was. -/
def State.scratchServes (s : State) (core : Nat) : Bool := match s.core? core with
  | some c => c.status == .active || c.status == .spare
  | none => false

/-- PATROL_SCRUB (R178): an error that the scrub finds in 64-byte piece `piece` of a core's scratchpad or slice: the record, the
poison of a piece that cannot be corrected (R177), and the row's repair (R452). -/
def doPatrolScrub (core : Nat) (tier : Bool) (piece : Nat) (corrected : Bool) (s : State) : State :=
  if !s.alive || decide (96 ≤ core) || decide ((if tier then 2 ^ 23 else 2 ^ 19) ≤ piece) || (!tier && !s.scratchServes core) then s
  else
    let a := (if tier then physAt (tierFrame core 0) 0 else scratchBase core) + piece * 64
    let stage := if tier then 6 else 5
    let m := s.mem.noteRow a s.hub.timer corrected
    let s1 := { s with mem := if corrected then m else m.poisonPiece a }
    (s1.file { cls := if corrected then .corrected else .uncorrected, die := sramDie core stage a, core := core % 16, stage := stage,
               status := if corrected then .ok else .uncorrectable,
               detail := errorPlace (if tier then physWord (s.keyOfFrame (a / pageSize)) a else a) a, detailCtx := errorPlace 0 a }).repairRows

/-- PATROL_SCRUB. -/
def execPatrolScrub (core : Nat) (tier : Bool) (piece : Nat) (corrected : Bool) (s : State) : Host.Outcome State Fault Refusal :=
  .next (doPatrolScrub core tier piece corrected s)

/-! ### Field tests -/

/-- Has the core a dispatched command that has not completed? -/
def State.coreBusy (s : State) (n : Nat) : Bool :=
  s.ctxs.any (fun c => c.queues.any (fun x => x.recs.any (fun r => r.core == some n)))

/-- A command waits for dispatch and every eligible core has load (R218). -/
def State.pressed (s : State) : Bool :=
  s.ctxs.any (fun c => c.serves && c.queues.any (fun x => x.recs.any (fun r => r.phase == .waiting)))
    && s.placeable.all (fun n => s.coreBusy n)

/-- May the core be lent to a test? (R218; a suspended core under R458 and one held under R463 need not wait out the time without a dispatch,
and a suspended core comes before every other: DEDUCED LOG 27) -/
def State.mayTest (s : State) (n : Nat) : Bool :=
  match s.core? n with
  | none => false
  | some c =>
    (c.status == .active || c.status == .spare) && s.homes n == 0 && !s.coreBusy n && !s.testing
      && (c.suspended || c.held || decide (c.lastDispatch + 2 ^ 16 ≤ s.hub.timer))
      && (c.suspended || !(List.range 96).any (fun k => match s.core? k with
        | some d => d.suspended && d.status == .active && s.homes k == 0 && !s.coreBusy k
        | none => false))
      && !s.pressed

/-- FIELD_TEST_START (R218). -/
def doFieldTestStart (n : Nat) (s : State) : State :=
  if s.alive && s.mayTest n then s.lendToTest n else s

/-- FIELD_TEST_START. -/
def execFieldTestStart (core : Nat) (s : State) : Host.Outcome State Fault Refusal := .next (doFieldTestStart core s)

/-- Position of the first difference of two lists of tallies. -/
def firstDiff : Nat → List Nat → List Nat → Option Nat
  | _, [], [] => none
  | i, x :: xs, y :: ys => if x = y then firstDiff (i + 1) xs ys else some i
  | i, _, _ => some i

/-- The failed test of Table 14-5 and its differing tally: tallies 0 to 3 are those of the matrix test, the rest are the vector
test's. -/
def failedTest (own confirmed : List Nat) (march checker : Bool) : Option (Nat × Nat) :=
  match firstDiff 0 own confirmed with
  | some i => some (if i < 4 then 0 else 1, own.getD i 0)
  | none => if !march then some (2, 0) else if !checker then some (3, 0) else none

/-- File a TEST_FAIL record and fence the core (R462). -/
def State.failTest (s : State) (n : Nat) (f : Nat × Nat) : State :=
  let d := s.test.round % 2 ^ 32 + f.1 * 2 ^ 32 + f.2 * 2 ^ 64
  (s.file { cls := .testFail, die := n / 16, core := n % 16, stage := [1, 2, 5, 0].getD f.1 0, action := 3, detail := d,
            detailCtx := d }).accuse n .testFail

/-- A core has passed a set of the round's tests (R458, R461). -/
def State.passTest (s : State) (n : Nat) : State :=
  s.modCore n (fun c =>
    let back := c.suspended && decide (3 ≤ c.passed + 1)
    { c with roundPassed := true, lastRound := some s.test.round,
             passed := if c.suspended && !back then c.passed + 1 else 0, suspended := c.suspended && !back,
             returned := if back then some s.hub.timer else c.returned })

/-- What the result means for the round (R461): a state with the round's tallies brought up to date, and the cores that fail
now, each with its failed test. -/
def judgeRound (t : TestState) (n : Nat) (r : TestResult) : TestState × List (Nat × (Nat × Nat)) × Bool :=
  match t.confirmed with
  | some c => (match failedTest r.tallies c r.march r.checker with
    | some f => (t, [(n, f)], false)
    | none => (t, [], true))
  | none =>
    match failedTest r.tallies r.tallies r.march r.checker with
    | some f => (t, [(n, f)], false)
    | none =>
      if t.results.any (fun x => x.1 != n && x.2 == r.tallies) then
        ({ t with confirmed := some r.tallies, results := [] },
         t.results.filterMap (fun x => match failedTest x.2 r.tallies true true with
           | some f => if x.1 = n then none else some (x.1, f)
           | none => none), true)
      else ({ t with results := t.results.filter (fun x => x.1 != n) ++ [(n, r.tallies)] }, [],
            t.results.all (fun x => x.1 == n))

/-- Every active and spare core has run the round: the next begins with a fresh seed (R460, R461). -/
def State.nextRound (s : State) : State :=
  if (List.range 96).all (fun n => match s.core? n with
      | some c => s.test.ran.contains n || c.status == .fenced || c.status == .notGood
      | none => true) then
    let d := s.draw 32
    { d.1 with test := { s.test with round := s.test.round + 1, seed := d.2, results := [], confirmed := none, ran := [] } }
  else s

/-- The test of a spare under R459 has ended: it enters service for the fence that waits for it, or the next spare is tried. -/
def State.settleSpare (s : State) (n : Nat) (passed : Bool) : State :=
  match s.test.sparing.find? (fun w => w.2.2 == n) with
  | none => s
  | some (f, cause, _) =>
    if passed then
      (({ s with test := { s.test with sparing := s.test.sparing.filter (fun w => w.2.2 != n) } } : State).modCore n
        (fun c => { c with status := .active, underTest := false })).fileFence f cause
    else s.serveOthers n

/-- Cores that a result confirms after all: they disagreed with the round's candidate and agree with what is now confirmed (R461). -/
def State.provedRight (s : State) (n : Nat) (t : TestState) : List Nat :=
  match s.test.confirmed, t.confirmed with
  | none, some c => (s.test.results.filter (fun x => x.1 != n && x.2 == c && (match s.core? x.1 with
      | some k => !k.roundPassed
      | none => false))).map (fun x => x.1)
  | _, _ => []

/-- FIELD_TEST_RESULT (R458–R462). -/
def doFieldTestResult (n : Nat) (r : TestResult) (s : State) : State :=
  match s.core? n with
  | none => s
  | some c =>
    if !s.alive || !c.underTest then s
    else
      let j := judgeRound s.test n r
      let s1 := { s.modCore n (fun k => { k with underTest := false, held := false, lastTest := s.hub.timer }) with
                  test := { j.1 with ran := if s.test.ran.contains n then s.test.ran else n :: s.test.ran } }
      let s2 := if j.2.2 then s1.passTest n else s1.modCore n (fun k => { k with lastRound := some s.test.round, roundPassed := false })
      let s3 := j.2.1.foldl (fun s f => s.failTest f.1 f.2)
        ((s.provedRight n j.1).foldl (fun s k => (s.passTest k).settleSpare k true) s2)
      (s3.settleSpare n j.2.2).testSpare.nextRound

/-- FIELD_TEST_RESULT. -/
def execFieldTestResult (core : Nat) (r : TestResult) (s : State) : Host.Outcome State Fault Refusal :=
  .next (doFieldTestResult core r s)

/-- TEST_OVERDUE (R463): no dispatch to an overdue core that is the home of no queue. -/
def doTestOverdue (n : Nat) (s : State) : State :=
  match s.core? n with
  | none => s
  | some c =>
    if s.alive && s.test.force && (c.status == .active || c.status == .spare) && s.homes n == 0
        && decide (c.lastTest + 2 ^ (s.test.intervalLog2 + 2) ≤ s.hub.timer) then
      s.modCore n (fun k => { k with held := true })
    else s

/-- TEST_OVERDUE. -/
def execTestOverdue (core : Nat) (s : State) : Host.Outcome State Fault Refusal := .next (doTestOverdue core s)

/-! ### TEST_CONFIG -/

/-- Is the group live on this member? (R279) -/
def State.liveGroup (s : State) (ctx group gen : Nat) : Bool :=
  s.links.groups.any (fun g => g.ctx == ctx && g.id == group && g.gen == gen && g.state == .live && !g.broken)

/-- TEST_CONFIG (R464, R465), both forms. The records of form 1 are read once they are found mapped; a read that fails ends the request
(R543). DEDUCED LOG 27: `records` 0 sets an empty audit in place of the one in force, since the request's work is to set the audit and
`audit_every` 0 with `records` 0 must be able to end it (R17 speaks of the amount of work). -/
def doTestConfig (m : Msg) (ups : List Upset) (s : State) (x : Session) : State × Option Reply :=
  let w := ofLe (slice m.payload 0 32)
  let form := field w 1 0
  let named := s.ctxs.find? (fun c => c.id == m.ctx && c.gen == m.ctxGen && m.ctxGen != 0)
  let owns := match named with
    | some c => x.owns c
    | none => false
  let table := field w 143 96
  let first := field w 183 160
  let records := field w 207 184
  match firstOf [
      (decide (m.length ≠ 32), Status.badLength),
      (anySet w 7 2 || anySet w 31 15 || anySet w 95 88 || anySet w 159 144 || anySet w 255 208 || decide (2 ≤ form)
        || (form == 0 && anySet w 207 32) || (form == 1 && anySet w 14 8), .reservedSet),
      ((form == 0 && (x.role != .management || decide (field w 13 8 < 30) || decide (44 < field w 13 8))) || (form == 1 && !owns),
        .denied),
      (form == 1 && (decide (table % 64 ≠ 0) || (match named with
        | some c => !c.mapped (table + 128 * first) (128 * records)
        | none => true)), .extent)] with
  | some st => refuse s st
  | none =>
    if form = 0 then okay { s with test := { s.test with intervalLog2 := field w 13 8, force := flag w 14 } }
    else
      let r := s.readV m.ctx none ups (table + 128 * first) (128 * records)
      match r.2 with
      | .error st => refuse r.1 st
      | .ok _ =>
        if !r.1.liveGroup m.ctx (field w 79 64) (field w 87 80) then refuse r.1 .staleGeneration
        else okay (r.1.modCtx m.ctx (fun c => { c with audit := [field w 63 32, field w 79 64, field w 87 80, table, first, records] }))

/-- TEST_CONFIG form 0. -/
def execTestConfigDevice (m : Msg) (s : State) : Host.Outcome State Fault Refusal :=
  .next (s.request .testConfig m (doTestConfig m []))

/-- TEST_CONFIG form 1. -/
def execTestConfigAudit (m : Msg) (ups : List Upset) (s : State) : Host.Outcome State Fault Refusal :=
  .next (s.request .testConfig m (doTestConfig m ups))

/-! ### ERR_READ -/

/-- Does the context copy of a kept record name the context? (Table 14-7) -/
def namesContext (ctx gen : Nat) (r : Nat × Bytes) : Bool :=
  let w := ofLe (r.2.drop 64)
  field w 235 224 == ctx && field w 255 240 == gen

/-- ERR_READ (R469). A session of another role that names no context has no records to receive and is refused (DEDUCED LOG 27). -/
def doErrRead (m : Msg) (s : State) (x : Session) : State × Option Reply :=
  let w := ofLe (slice m.payload 0 8)
  let start := field w 31 0
  let max := field w 41 32
  match firstOf [
      (decide (m.length ≠ 8), Status.badLength),
      (anySet w 63 42, .reservedSet),
      (x.role != .management && m.ctxGen == 0, .denied)] with
  | some st => refuse s st
  | none =>
    let mgmt := m.ctxGen == 0
    let seen := s.logs.records.filter (fun r => decide (start ≤ r.1) && (mgmt || namesContext m.ctx m.ctxGen r))
    let sent := seen.take max
    let next := if seen.length ≤ max then Nat.max start s.logs.recNo else match seen[max]? with
      | some r => r.1
      | none => start
    let oldest := match s.logs.records with
      | [] => s.logs.recNo
      | r :: _ => r.1
    (s, some { status := .ok, arg0 := (if max = 0 then start else next) % 2 ^ 32 + Nat.min (oldest - start) (2 ^ 32 - 1) * 2 ^ 32,
               payload := sent.flatMap (fun r => if mgmt then r.2.take 64 else r.2.drop 64) })

/-- ERR_READ. -/
def execErrRead (m : Msg) (s : State) : Host.Outcome State Fault Refusal := .next (s.request .errRead m (doErrRead m))

end Sys2Proof.Machine
end

