-- ==== Sys2Proof/Machine/Training.lean ====
section
/-!
DEFINITION. Machine/Training.lean: OPT_STEP (R233–R245, R472–R474), its records on a lender (R246–R251), PARAM_EXPORT (R252–R254), and
backfill bindings (R223–R228).
-/
namespace Sys2Proof.Machine

/-! ### OPT_STEP: acceptance (R234, R244, R376) -/

/-- Is a W32 value finite and positive? -/
def w32Positive (x : Word32) : Bool := w32Finite x && (w32Val x).lt (XVal.zero false) == false && !(w32Val x).isZero

/-- Is a W32 value in [0, 1)? -/
def w32Unit (x : Word32) : Bool := w32Finite x && (XVal.zero false).le (w32Val x) && (w32Val x).lt (XVal.ofInt 1 0 false)

/-- The privacy limits of a consortium context (R244, R382). -/
def Ctx.dpDenied (c : Ctx) (q : OptArgs) : Bool := match c.policy with
  | none => false
  | some p => !q.update && (if q.dp then (w32Val q.sigma).lt (w32Val (BitVec.ofNat 32 p.dpSigmaMin)) || decide (p.dpStepMax ≤ c.dpSteps)
      else p.dpRequired)

/-- The operands of case 6, the records apart. -/
def OptArgs.bad (q : OptArgs) : Bool :=
  q.step == 0 || !w32Finite q.lr || !w32Finite q.scale || !w32Finite q.sigma || (w32Val q.sigma).lt (XVal.zero false) || !w32Unit q.b1
    || !w32Unit q.b2 || !w32Positive q.eps || !w32Positive q.bound || (XVal.num false 1 63).lt (w32Val q.bound)
    || (q.clip && !w32Positive q.maxNorm)

/-- Do all regions of a record lie in mapped, writable memory, and its accumulation region in its window? (case 7) -/
def Ctx.paramFits (c : Ctx) (p : Param) : Bool :=
  p.regions.all (fun r => c.writable r.1 r.2.1) && c.gradInWindow p

/-- The records of a range. -/
def paramsOf (n : Nat) (bs : Bytes) : List Param := (List.range n).map (fun i => paramOf (slice bs (128 * i) 128))

/-- Read the records of a range. -/
def State.readParams (s : State) (id : Nat) (ups : List Upset) (table first n : Nat) : State × Except Status (List Param) :=
  let r := s.readV id none ups (recordAt table first) (128 * n)
  (r.1, match r.2 with
        | .error e => .error e
        | .ok bs => .ok (paramsOf n bs))

/-- Add to a list what it does not hold. -/
def addNew {α : Type} [BEq α] (l new : List α) : List α := new.foldl (fun l x => if l.contains x then l else l ++ [x]) l

/-- Join units that share a page (R246). -/
def joinUnits (units new : List (List Nat)) : List (List Nat) :=
  new.foldl (fun us u =>
    let near := us.filter (fun v => v.any u.contains)
    us.filter (fun v => !v.any u.contains) ++ [addNew (near.foldl addNew []) u]) units

/-- OPT_STEP, both phases (R234). A record read that fails gives its status; with `records` 0 the later cases apply still, and the request takes
its place among the context's steps and triggers (DEDUCED LOG 35). -/
def doOptStep (m : Msg) (ups : List Upset) : State → Session → State × Option Reply :=
  withCtx m fun s x c =>
    let q := optArgs m.payload
    match firstOf [
        (decide (m.length ≠ 96), Status.badLength),
        (q.rsvd, .reservedSet),
        (decide (q.table % 64 ≠ 0) || !c.mapped (recordAt q.table q.first) (128 * q.records) || !c.mapped q.norm 4, .extent)] with
    | some st => refuse s st
    | none =>
      let r := s.readParams c.id ups q.table q.first q.records
      match r.2 with
      | .error st => refuse r.1 st
      | .ok ps =>
        match firstOf [
            (ps.any (fun p => p.rsvd || r.1.slotReserved c p), Status.reservedSet),
            ((q.dp && !x.has fDpNoise) || c.dpDenied q || !c.inProgram 0 (recordAt q.table q.first) (128 * q.records), .denied),
            (q.bad || ps.any (fun p => !r.1.consistent c p), .badOperand),
            (ps.any (fun p => !c.paramFits p) || (!q.update && !c.writable q.norm 4), .extent)] with
        | some st => refuse r.1 st
        | none =>
          let units := (ps.map (fun p => p.statePages)).filter (fun u => !u.isEmpty)
          let s1 := r.1.modCtx c.id (fun d =>
            { d with dpSteps := d.dpSteps + (if q.dp && !q.update then 1 else 0), units := joinUnits d.units units,
                     guarded := if q.update then d.guarded else
                       let new := ((List.range q.records).zip ps).flatMap (fun x => x.2.guards (recordAt q.table (q.first + x.1)))
                       d.guarded.filter (fun g => !new.any (fun h => h.va == g.va)) ++ new,
                     ckpt := { d.ckpt with named := addNew d.ckpt.named ((List.range q.records).map (fun i => (q.table, q.first + i))) },
                     opt := d.opt ++ [{ session := m.session, tag := m.tag, kind := if q.update then 1 else 0, payload := m.payload,
                                        accepted := s.hub.timer }] })
          ((s1.noteWant c.id).await x .optStep m .opt, some (.of .pending))

/-- OPT_STEP phase 0. -/
def execOptStepPrepare (m : Msg) (upsets : List Upset) (s : State) : Host.Outcome State Fault Refusal :=
  .next (s.request .optStep m (doOptStep m upsets))
/-- OPT_STEP phase 1. -/
def execOptStepUpdate (m : Msg) (upsets : List Upset) (s : State) : Host.Outcome State Fault Refusal :=
  .next (s.request .optStep m (doOptStep m upsets))

/-! ### Running a phase -/

/-- The core that runs a record: the home core of its accumulation region (R230), if it serves (R21), else the lowest core that may take work
(DESIGN CHOICE LOG 35: the spec names none). -/
def State.optCore (s : State) (c : Ctx) (p : Param) : Option Nat :=
  if p.gradSpace = 0 then s.placeable.head?
  else ((c.queue? p.gradQueue).bind (fun x => x.home)).bind (fun n => if s.serving n then some n else none)

/-- The queues whose windows hold gradients of some records move off cores that serve no more (R174, R209). -/
def State.settleGrads (s : State) (id : Nat) (ps : List Param) : State :=
  (((ps.filter (fun p => p.gradSpace == 1)).map (fun p => p.gradQueue)).eraseDups).foldl (fun s q => s.settleHome id q) s

/-- Where a record runs. -/
def siteOf (id core : Nat) (p : Param) (ups : List Upset) : Site := { ctx := id, queue := p.gradQueue, core := core, ups := ups }

/-- A record fails: its outputs are unspecified when an engine's check ended it (R128, R131); a read or write that failed gives its status
(LOG 35). -/
def State.failRecord (s : State) (id tag : Nat) (st : Option Status) : State :=
  s.modRun id tag (fun r => match st with
    | none => { r with failed := true }
    | some e => { r with bad := r.bad.orElse (fun _ => some e) })

/-- Phase 0 of one record (R236): the new state, and its sum of squares. -/
def State.prepRecord (s : State) (id tag : Nat) (q : OptArgs) (ups : List Upset) (core : Nat) (p : Param) : State × Option Pair :=
  match s.ctx? id with
  | none => (s, none)
  | some c =>
    let e := siteOf id core p ups
    let r := s.readS e p.gradSpace p.gradAddr (4 * p.count)
    match r.2 with
    | .error st => (r.1.failRecord id tag (some st), none)
    | .ok bs =>
      let t := prepAll q { draws := c.drawsOn core } ((wordsOf 4 p.count bs).map Pair.ofWord)
      let sum := sumSquares t.1
      let w := r.1.writeS e p.gradSpace p.gradAddr (bytesOf 4 (t.1.map Pair.word))
      match w.2 with
      | some st => (w.1.failRecord id tag (some st), none)
      | none =>
        ((w.1.keepDraws id t.2.draws).modRun id tag (fun r =>
          { r.count t.2.clamps (t.2.flags.or sum.2).word with finished := r.finished + 1 }), some sum.1)

/-- Phase 1 of one record on this device (R238, R240). -/
def State.updateRecord (s : State) (id tag : Nat) (q : OptArgs) (h : Hyper) (ups : List Upset) (core idx : Nat) (p : Param) : State :=
  match s.ctx? id with
  | none => s
  | some c =>
    let e := siteOf id core p ups
    let held := c.audited q (recordAt q.table idx)
    let zero (s : State) : State × Option Status := s.writeS e p.gradSpace p.gradAddr (List.replicate (4 * p.count) 0)
    let note (s : State) : State := s.modRun id tag (fun r => { r with ran := r.ran ++ [(idx, core)] })
    if p.count = 0 then s.endRecord id tag p q.table q.step idx false held
    else if h.skip || p.frozen then
      let z := zero s
      match z.2 with
      | some st => z.1.failRecord id tag (some st)
      | none => (note z.1).endRecord id tag p q.table q.step idx (!h.skip) held
    else
      let r := s.readS e p.gradSpace p.gradAddr (4 * p.count)
      match r.2 with
      | .error st => r.1.failRecord id tag (some st)
      | .ok grad =>
        let a := r.1.readAll e p.planes
        match a.2 with
        | .error st => a.1.failRecord id tag (some st)
        | .ok planes =>
          let u := updateAll h p (s.workExp id p) { draws := c.drawsOn core } (elemsOf p ((wordsOf 4 p.count grad).map Pair.ofWord) planes)
          let work := if p.workFmt < 3 then [(p.workAddr, bytesOf p.workBytes u.2.1)] else []
          let w := a.1.writeAll e (List.zip (p.planes.map (fun g => g.1)) (planesOf p u.1) ++ work)
          match w.2 with
          | some st => w.1.failRecord id tag (some st)
          | none =>
            let z := zero (w.1.keepDraws id u.2.2.draws)
            match z.2 with
            | some st => z.1.failRecord id tag (some st)
            | none =>
              let s1 := if p.workFmt < 2 then z.1.mergeSlot id p.workSlot u.2.2.amax u.2.2.ovf else z.1
              ((note s1).modRun id tag (fun r => r.count u.2.2.clamps u.2.2.flags.word)).endRecord id tag p q.table q.step idx true held

/-- Ship the records that wait for room in a lender's staging, in ascending order (R248, R249): index and image of each. -/
def State.shipWaiting (s : State) (id : Nat) (ups : List Upset) (table : Nat) (recs : List (Nat × Bytes)) : State :=
  (recs.foldl (fun (acc : State × Bool) x =>
    let s := acc.1
    match s.ctx? id with
    | none => acc
    | some c =>
      let va := recordAt table x.1
      let p := paramOf x.2
      if acc.2 || c.shipped.any (fun x => x.va == va) then acc
      else match s.leaseOf c p, s.optCore c p with
        | some l, some core =>
          if 2 ^ 28 < s.stagedBytes c l.lender + 4 * p.count then (s, true)
          else
            let e := siteOf id core p ups
            let r := s.readS e p.gradSpace p.gradAddr (4 * p.count)
            (match r.2 with
             | .error _ => (r.1, false)
             | .ok bs => (r.1.shipRecord c l va x.2 bs, false))
        | _, _ => acc) (s, false)).1

/-- Images of some records of a run. -/
def OptRun.images (r : OptRun) (first : Nat) (idxs : List Nat) : List (Nat × Bytes) :=
  idxs.map (fun i => (i, slice r.recs (128 * (i - first)) 128))

/-- The record that an engine's check ends, if one fails again after its re-run (R99, R131): the first of the request with elements. -/
def brokenRecord (ups : List Upset) (ps : List Param) : Option Nat := if (retries ups).2 then ps.findIdx? (fun p => p.count != 0) else none

/-- Run phase 0 of a request (R236), and ship what lies on a lender: the records whose phase 0 ended well. -/
def State.runPrepare (s : State) (id tag : Nat) (q : OptArgs) (ups : List Upset) (run : OptRun) (ps : List Param) (cores : List Nat) : State :=
  let broken := brokenRecord ups ps
  let r := (List.zip (List.range ps.length) (List.zip ps cores)).foldl (fun (acc : State × List (Nat × Pair)) x =>
    let p := x.2.1
    if p.count = 0 then (acc.1.modRun id tag (fun r => { r with finished := r.finished + 1 }), acc.2)
    else if broken = some x.1 then
      ((acc.1.scramble (siteOf id x.2.2 p ups) [{ space := p.gradSpace, addr := p.gradAddr, bytes := 4 * p.count }]).failRecord id tag none, acc.2)
    else
      let t := acc.1.prepRecord id tag q ups x.2.2 p
      (t.1, acc.2 ++ (t.2.map (fun p => (q.first + x.1, p))).toList)) (s, [])
  -- the partial sums meet in an order that is not fixed (R236; LOG 12)
  let k := r.1.freeNat
  let sum := (reorder r.2.length k.2 (r.2.map (fun x => x.2))).foldl (fun (acc : Pair × Flags) p => let y := acc.1.add p.val
    (y.1, acc.2.or y.2)) (Pair.zero, .none)
  let w := k.1.writeV id none ups q.norm (toLe 4 sum.1.word)
  let s1 := w.1.modRun id tag (fun r => { r with flags := r.flags ||| sum.2.word })
  let s2 := if w.2.isSome then s1.failRecord id tag w.2 else s1
  s2.shipWaiting id ups q.table (run.images q.first (r.2.map (fun x => x.1)))

/-- OPT_CLIP to one lender (Table 08-8, order 4): the clip factor, the hyperparameters or the skip mark, and the scales of the records that it
serves (LOG 34). -/
def State.sendClip (s : State) (id : Nat) (l : Lease) (h : Hyper) (recs : List (Nat × Param)) : State :=
  let num (w : Word32) : Bytes := toLe 4 w.toNat
  s.sendLeaseCtrl l.lender .optClip l.id l.gen
    (num h.c ++ toLe 4 h.step ++ num h.lr ++ num h.b1 ++ num h.b2 ++ num h.eps ++ toLe 1 h.skip.toNat ++ toLe 4 recs.length
      ++ recs.flatMap (fun r => toLe 4 (shipName r.1) ++ toLe 1 (wordOf 8 (s.workExp id r.2 + 127))))

/-- Run phase 1 of a request (R237–R240, R248): records on a lender wait for it, the others are updated here. A record whose lease broke since it
was shipped fails (R250). -/
def State.runUpdate (s : State) (id tag : Nat) (q : OptArgs) (ups : List Upset) (run : OptRun) (ps : List Param) (cores : List Nat) : State :=
  match s.ctx? id with
  | none => s
  | some c =>
    let n := s.readV id none ups q.norm 4
    match n.2 with
    | .error st => n.1.failRecord id tag (some st)
    | .ok bs =>
      let f := clipFactor q.clip q.maxNorm (Pair.ofWord (ofLe bs))
      let h := hyperOf f.1 f.2 q.step q.lr q.b1 q.b2 q.eps
      let broken := brokenRecord ups ps
      let all := (List.zip (List.range ps.length) (List.zip ps cores)).map (fun x => (q.first + x.1, x.2.1, x.2.2))
      let sent (x : Nat × Param × Nat) : Option Shipped := c.shipped.find? (fun y => y.va == recordAt q.table x.1)
      let gone (x : Nat × Param × Nat) : Bool := (sent x).any (fun y => y.lost)
      let slotOf (x : Nat × Param × Nat) : Option Nat := match sent x with
        | some y => some y.slot
        | none => (n.1.leaseOf c x.2.1).map (fun l => l.slot)
      let away := (all.filter (fun x => !gone x)).filterMap (fun x => (slotOf x).map (fun k => (x.1, k)))
      let s1 := (n.1.modRun id tag (fun r => { r with skipped := h.skip, away := away, clip := some f.1.toNat })).modCtx id (fun d =>
        { d with shipped := d.shipped.filter (fun y => !(y.lost && all.any (fun x => recordAt q.table x.1 == y.va))) })
      let s2 := ((away.map (fun a => a.2)).eraseDups).foldl (fun s k => match s.links.leases.find? (fun l => l.slot == k) with
        | none => s
        | some l => s.sendClip id l h ((all.filter (fun x => away.contains (x.1, k))).map (fun x => (recordAt q.table x.1, x.2.1)))) s1
      let s3 := s2.shipWaiting id ups q.table (run.images q.first (away.map (fun a => a.1)))
      all.foldl (fun s x =>
        if away.any (fun a => a.1 == x.1) then s
        else if gone x then s.failRecord id tag none
        else if broken = some (x.1 - q.first) then
          (s.scramble (siteOf id x.2.2 x.2.1 ups) (x.2.1.regions.map (fun g => { space := 0, addr := g.1, bytes := g.2.1 }))).failRecord id tag none
        else s.updateRecord id tag q h ups x.2.2 x.1 x.2.1) s3

/-! ### The audit (R472–R474) -/

/-- What the members of an audit compare and copy, for one record: the digest of its images, and its planes and working copy. -/
def State.auditImage (s : State) (id : Nat) (p : Param) : Bytes × Bytes :=
  let planes := p.planes.map (fun g => s.peekV id g.1 g.2)
  let xs := elemsOf p (List.replicate p.count .zero) planes
  let digest := tally (bytesOf 4 (xs.map (fun x => x.w.word)) ++ (planes.drop 2).flatten)
  (toLe 8 digest, planes.flatten ++ (if p.workFmt < 3 then s.peekV id p.workAddr (p.workBytes * p.count) else []))

/-- The audited records of a request: index and record. -/
def OptRun.audited (r : OptRun) (q : OptArgs) : List (Nat × Param) := (sortBy (fun i => i) r.audit).map (fun i => (i, r.param q.first i))

/-- Begin the audit as the next instance of its group; with no live group, it ends as ABANDONED, and with no entry of the Ledger free it
waits. -/
def State.beginAudit (s : State) (id tag : Nat) (q : OptArgs) (r : OptRun) : State :=
  match s.ctx? id with
  | none => s
  | some c =>
    let end_ (st : Status) : State := s.modRun id tag (fun r => { r with verdict := some st })
    match c.audit with
    | [_, gid, gen, _, _, _] =>
      (match s.group? id gid with
       | none => end_ .abandoned
       | some g =>
         if g.gen ≠ gen || g.state != .live || g.broken then end_ .abandoned
         else if 64 ≤ s.links.insts.length then s
         else match s.issue hubTags 4096 (.instance_ id gid g.nextInst) (some id) (some (s.hub.timer + g.tmo * 2 ^ 20)) with
           | none => s
           | some (s1, t) =>
             let imgs := (r.audited q).map (fun r => s1.auditImage id r.2)
             let state := tally (imgs.flatMap (fun i => i.1))
             let sig := tally (ascii "AUDIT" ++ toLe 4 q.step ++ toLe 4 r.audit.length)
             let i : Inst := { ctx := id, group := gid, gen := gen, inst := g.nextInst, audit := some tag, args := sig, rank := g.rank,
                               members := g.members, tag := t, deadline := s.hub.timer + g.tmo * 2 ^ 20, stage := 1, result := state,
                               least := state, most := state, acc := imgs.flatMap (fun i => i.1 ++ i.2) }
             (s1.modRun id tag (fun r => { r with auditing := true })).beginInst g i sig (treeNeighbours g.members.length g.rank))
    | _ => end_ .ok

/-- Copy the records that differ from the majority's images, and file an SDC record for each (R473). -/
def State.copyAudited (s : State) (id tag : Nat) (r : OptRun) (recs : List (Nat × Param)) : State :=
  (recs.foldl (fun (acc : State × Bytes) x =>
    let s := acc.1
    let mine := s.auditImage id x.2
    let theirs := slice acc.2 8 mine.2.length
    let rest := acc.2.drop (8 + mine.2.length)
    if acc.2.take 8 = mine.1 then (s, rest)
    else match s.ctx? id with
      | none => (s, rest)
      | some c =>
        let sizes := x.2.planes ++ (if x.2.workFmt < 3 then [(x.2.workAddr, x.2.workBytes * x.2.count)] else [])
        let w := sizes.foldl (fun (a : State × Bytes × Bool) g =>
          let t := a.1.writeV id none [] g.1 (a.2.1.take g.2)
          (t.1, a.2.1.drop g.2, a.2.2 || t.2.isSome)) (s, theirs, false)
        let s1 := if w.2.2 then w.1.failRecord id tag none else w.1
        let on := ((r.ran.find? (fun y => y.1 == x.1)).map (fun y => y.2)).getD 0xFFFF
        let det (far : Nat) : Nat := 2 + (x.1 % 2 ^ 24) * 2 ^ 8 + (c.audit.getD 1 0) * 2 ^ 32 + far * 2 ^ 48
        let s2 := if on < 96 then s1.fileCore on 2 .sdc .divergence c 0 0 8 (det 0xFFFF)
          else s1.file { cls := .sdc, stage := 2, status := .divergence, ctx := c.id, ctxGen := c.gen, action := 8,
                         detail := det (on - 65536), detailCtx := det (on - 65536) }
        (s2, rest)) (s, r.copies)).1

/-! ### The end of a request -/



/-- Take a request out of its context, answer it, and let a step trigger follow (R235, R482). -/
def State.closeOpt (s : State) (id : Nat) (o : OptReq) (st : Status) (payload : Bytes) : State :=
  let q := optArgs o.payload
  let s1 := s.modCtx id (fun c =>
    { c with opt := c.opt.filter (fun y => !(y.tag == o.tag && y.session == o.session)),
             ckpt := if o.kind = 1 then { c.ckpt with step := q.step } else c.ckpt,
             res := { c.res with lastWork := s.hub.timer } })
  let s2 := s1.finishAll (fun w => w.ctx == id && w.session == o.session && w.tag == o.tag && w.what == .opt) (fun _ =>
    { status := st, payload := payload })
  let s3 := s2.reapFences
  match s3.ctx? id with
  | none => s3
  | some c => if o.kind = 1 && c.ckptCfg.stepEvery != 0 && decide (q.step % c.ckptCfg.stepEvery = 0) then s3.triggerCkpt id 1 else s3


/-- End a request whose records are done (R235): the first status that applies; `fence_out` under OK or FENCE_REGRESSION alone. -/
def State.endOpt (s : State) (id : Nat) (o : OptReq) (r : OptRun) : State :=
  let q := optArgs o.payload
  let base : Status := if r.failed then .uncorrectable else match r.bad with
    | some e => e
    | none => if r.regressed then .fenceRegression else (r.verdict.getD .ok)
  let signals := base == Status.ok || base == Status.fenceRegression
  let t := if signals && q.fenceOut != 0 then s.signal id q.fenceOut q.outVal else (s, none)
  let st : Status := if t.2.isSome then .fenceRegression else base
  let a := t.1.optAnswer id o r
  a.1.closeOpt id o st a.2

/-- The work fences of the audited records (R472–R474). -/
def State.signalAudited (s : State) (id tag table step : Nat) (recs : List (Nat × Param)) : State :=
  recs.foldl (fun s x => s.signalWork id tag (recordAt table x.1) x.2 step) s

/-- Carry a request on: to its end when no record is away, through its audit when it has one. -/
def State.advanceOpt (s : State) (id : Nat) (o : OptReq) (r : OptRun) : State :=
  let q := optArgs o.payload
  if !r.away.isEmpty || r.auditing then s
  else if r.audit.isEmpty then s.endOpt id o r
  else match r.verdict with
    | none => s.beginAudit id o.tag q r
    | some st =>
      let recs := r.audited q
      let s1 := if st = .divergence && !r.copies.isEmpty then s.copyAudited id o.tag r recs else s
      let s2 := if st = .divergence && r.split then s1 else s1.signalAudited id o.tag q.table q.step recs
      let run := ((s2.ctx? id).bind (fun c => (c.opt.find? (fun y => y.tag == o.tag && y.kind == o.kind)).bind (fun y => y.run))).getD r
      s2.endOpt id o run

/-- The state of an input fence for a request: reached, not yet, or the status that ends it (R153). -/
def State.fenceGate (s : State) (c : Ctx) (h v : Nat) : Except Status Bool :=
  if h = 0 then .ok true
  else match s.fenceFor c h with
    | .error e => .error e
    | .ok f => .ok (decide (v ≤ f.value) && decide (v < 2 ^ 64))

/-- May a request of a context begin now? It needs a slot (R359), and no checkpoint may hold it (R483). -/
def Ctx.begins (c : Ctx) : Bool := c.res.state == .resident && c.res.leaving == .stays && !c.stopMark && c.ckpt.stage != 1

/-- OPT_STEP_RUN (R235): the oldest OPT_STEP of the context begins once its fence is reached, or is carried on. The gates of its cores must
be open (R501). -/
def doOptStepRun (id tag : Nat) (ups : List Upset) (s : State) : State :=
  match s.ctx? id with
  | none => s
  | some c => match c.opt.find? (fun o => o.kind != 2) with
    | none => s
    | some o =>
      if !s.alive || o.tag != tag || c.res.state == .resetting then s
      else match o.run with
        | some r =>
          -- what waited for room in a lender's staging goes now (R249)
          let q := optArgs o.payload
          let s1 := s.shipWaiting id ups q.table (r.images q.first (r.away.map (fun a => a.1)))
          s1.advanceOpt id o r
        | none =>
          if !c.begins then s
          else
            let q := optArgs o.payload
            match s.fenceGate c q.fenceIn q.inVal with
            | .error e =>
              let a := s.optAnswer id o {}
              a.1.closeOpt id o e a.2
            | .ok false => s
            | .ok true =>
              let start (s : State) (run : OptRun) : State := s.modCtx id (fun d =>
                let on (y : OptReq) : OptReq := if y.tag = o.tag ∧ y.session = o.session then { y with run := some run } else y
                { d with opt := d.opt.map on, res := { d.res with lastWork := s.hub.timer } })
              let go (s : State) : State := match (s.ctx? id).bind (fun d => (d.opt.find? (fun y => y.tag == tag && y.kind != 2)).bind (fun y => y.run)) with
                | some r => s.advanceOpt id o r
                | none => s
              if q.records = 0 then go (start s {})
              else
                let ps := s.readV id none ups (recordAt q.table q.first) (128 * q.records)
                match ps.2 with
                | .error e => go ((start ps.1 {}).failRecord id tag (some e))
                | .ok recs =>
                  let l := paramsOf q.records recs
                  let run : OptRun := { recs := recs }
                  let s := s.settleGrads id l
                  let cores := l.map (fun p => s.optCore ((s.ctx? id).getD c) p)
                  if cores.any (fun n => match n with
                      | some n => s.gateClosed (tileOf n)
                      | none => true) || c.heldRelease (l.flatMap (fun p => p.regions.map (fun g => { space := 0, addr := g.1, bytes := g.2.1 }))) then s
                  else
                    let re := retries ups
                    let n0 := ((cores.head?).getD none).getD 0
                    let s1 := (List.range re.1).foldl (fun s _ => s.fileCore n0 2 .corrected .ok c 0 0 1 (2 ^ 64)) (start (ps.1.settleGrads id l) run)
                    let s2 := if re.2 then s1.fileCore n0 2 .uncorrected .uncorrectable c 0 0 1 (2 ^ 64) else s1
                    let cs := cores.map (fun n => n.getD 0)
                    go (if q.update then s2.runUpdate id tag q ups run l cs else s2.runPrepare id tag q ups run l cs)

/-- OPT_STEP_RUN. -/
def execOptStepRun (ctx tag : Nat) (upsets : List Upset) (s : State) : Host.Outcome State Fault Refusal := .next (doOptStepRun ctx tag upsets s)

/-! ### PARAM_EXPORT (R252–R254, R376) -/

/-- The payload of PARAM_EXPORT (Table 08-10). -/
structure ExportArgs where
  table : Nat
  parts : Nat
  first : Nat
  records : Nat
  dst : Nat
  len : Nat
  fenceIn : Nat
  inVal : Nat
  step : Nat
  rsvd : Bool
  deriving DecidableEq, Repr

/-- The fields of a payload. -/
def exportArgs (bs : Bytes) : ExportArgs :=
  let w := ofLe (slice bs 0 48)
  { table := field w 47 0, parts := field w 51 48, first := field w 87 64, records := field w 111 88, dst := field w 175 128, len := field w 255 192,
    fenceIn := field w 287 256, step := field w 319 288, inVal := field w 383 320,
    rsvd := anySet w 63 52 || anySet w 127 112 || anySet w 191 176 }

/-- The parts of a record that a request names and the record holds: part, region, format code, bytes of data (R253). -/
def Param.partsOf (p : Param) (parts : Nat) : List (Nat × Nat × Nat × Nat) :=
  (if flag parts 0 then [(0, p.master, 7, 4 * p.count)] else []) ++ (if flag parts 1 then [(1, p.mAddr, 5, 2 * p.count)] else [])
    ++ (if flag parts 2 && p.opt == 0 then [(2, p.vAddr, 5, 2 * p.count)] else [])
    ++ (if flag parts 3 && decide (p.workFmt < 3) then [(3, p.workAddr, if p.workFmt = 2 then 5 else p.workFmt, p.workBytes * p.count)] else [])

/-- Bytes of an image with the gap that brings the next to a multiple of 64. -/
def imageSpan (data : Nat) : Nat := (128 + data + 63) / 64 * 64

/-- Offsets of images laid one after another. -/
def imageOffsets : Nat → List Nat → List Nat
  | _, [] => []
  | off, d :: rest => off :: imageOffsets (off + imageSpan d) rest

/-- Bytes that a run of images takes; the last needs no gap after it. -/
def imagesLength (datas : List Nat) : Nat := match datas.getLast? with
  | none => 0
  | some d => (imageOffsets 0 datas).getLastD 0 + 128 + d

/-- Does a destination lie wholly within a release window? (R376) -/
def Ctx.inRelease (c : Ctx) (va n : Nat) : Bool := !c.consortium || n == 0 || (match c.policy with
  | some p => p.covers va n (fun w => w.kind == 3)
  | none => false)

/-- PARAM_EXPORT (R252): cases 1 to 4, 6 and 7 of R234, with the refusals of R376 before case 6. -/
def doParamExport (m : Msg) (ups : List Upset) : State → Session → State × Option Reply :=
  withCtx m fun s x c =>
    let q := exportArgs m.payload
    match firstOf [
        (decide (m.length ≠ 48), Status.badLength),
        (q.rsvd, .reservedSet),
        (decide (q.table % 64 ≠ 0) || !c.mapped (recordAt q.table q.first) (128 * q.records), .extent)] with
    | some st => refuse s st
    | none =>
      let r := s.readParams c.id ups q.table q.first q.records
      match r.2 with
      | .error st => refuse r.1 st
      | .ok ps =>
        let datas := ps.flatMap (fun p => (p.partsOf q.parts).map (fun x => x.2.2.2))
        let total := imagesLength datas
        match firstOf [
            (ps.any (fun p => p.rsvd || r.1.slotReserved c p), Status.reservedSet),
            (!c.inProgram 0 (recordAt q.table q.first) (128 * q.records) || !c.inRelease q.dst total, .denied),
            (q.parts == 0 || q.step == 0 || ps.any (fun p => !r.1.consistent c p), .badOperand),
            (decide (q.dst % 64 ≠ 0) || ps.any (fun p => !c.paramFits p) || decide (q.len < total) || !c.writable q.dst total,
              .extent)] with
        | some st => refuse r.1 st
        | none =>
          let s1 := r.1.modCtx c.id (fun d =>
            { d with opt := d.opt ++ [{ session := m.session, tag := m.tag, kind := 2, payload := m.payload, accepted := s.hub.timer }] })
          ((s1.noteWant c.id).await x .paramExport m .opt, some (.of .pending))

/-- PARAM_EXPORT. -/
def execParamExport (m : Msg) (upsets : List Upset) (s : State) : Host.Outcome State Fault Refusal :=
  .next (s.request .paramExport m (doParamExport m upsets))

/-- The header of a shard image (Table 08-11). -/
def imageHeader (p : Param) (part fmt step scaleExp : Nat) (data : Bytes) : Bytes :=
  toLe 4 0x53484B54 ++ toLe 1 1 ++ toLe 1 (part + fmt * 16) ++ toLe 2 p.ndim ++ toLe 4 p.tensor ++ toLe 4 step
    ++ p.ext.flatMap (toLe 4) ++ p.off.flatMap (toLe 4) ++ p.shp.flatMap (toLe 4) ++ toLe 1 scaleExp ++ toLe 7 0 ++ toLe 8 data.length
    ++ toLe 8 (tally data) ++ toLe 40 0

/-- The master copy as P32I, from its planes. -/
def interleave (head tail : Bytes) (n : Nat) : Bytes :=
  (List.zip (wordsOf 2 n head) (wordsOf 2 n tail)).flatMap (fun x => toLe 4 (x.1 + 65536 * x.2))

/-- Write the images of one record, from an offset on (R253): the state, the first failure, the next offset, and the bytes written. -/
def State.exportRecord (s : State) (id : Nat) (ups : List Upset) (q : ExportArgs) (off : Nat) (p : Param) : State × Option Status × Nat × Nat :=
  (p.partsOf q.parts).foldl (fun (acc : State × Option Status × Nat × Nat) x =>
    if acc.2.1.isSome then acc
    else
      let r := acc.1.readV id none ups x.2.1 (if x.1 = 0 then 2 * p.count else x.2.2.2)
      let t : State × Except Status Bytes := if x.1 = 0 then r.1.readV id none ups (p.master + p.tailOff) (2 * p.count) else (r.1, .ok [])
      match r.2, t.2 with
      | .ok a, .ok b =>
        let data := if x.1 = 0 then interleave a b p.count else a
        let exp := if x.1 = 3 && p.workFmt < 2 then (t.1.peekSlot id p.workSlot).scaleExp else 0
        let w := t.1.writeV id none ups (q.dst + acc.2.2.1) (imageHeader p x.1 x.2.2.1 q.step exp data ++ data)
        (w.1, w.2, acc.2.2.1 + imageSpan data.length, acc.2.2.1 + 128 + data.length)
      | .error e, _ => (t.1, some e, acc.2.2)
      | _, .error e => (t.1, some e, acc.2.2)) (s, none, off, off)

/-- PARAM_EXPORT_RUN (R252, R253): once its fence is reached, the images are written; the answer carries the bytes. A write into release
windows waits while a proposal is open (R380). -/
def doParamExportRun (id tag : Nat) (ups : List Upset) (s : State) : State :=
  match s.ctx? id with
  | none => s
  | some c => match c.opt.find? (fun o => o.kind == 2 && o.tag == tag) with
    | none => s
    | some o =>
      if !s.alive || !c.begins then s
      else
        let q := exportArgs o.payload
        let close (s : State) (st : Status) (n : Nat) : State :=
          ((s.modCtx id (fun d => { d with opt := d.opt.filter (fun y => !(y.tag == o.tag && y.session == o.session)) })).finishAll
            (fun w => w.ctx == id && w.session == o.session && w.tag == o.tag && w.what == .opt) (fun _ => { status := st, arg0 := n })).reapFences
        match s.fenceGate c q.fenceIn q.inVal with
        | .error e => close s e 0
        | .ok false => s
        | .ok true =>
          let ps := s.readParams id ups q.table q.first q.records
          match ps.2 with
          | .error e => close ps.1 e 0
          | .ok l =>
            let total := imagesLength (l.flatMap (fun p => (p.partsOf q.parts).map (fun x => x.2.2.2)))
            let reads := l.flatMap (fun p => p.regions.map (fun g => ({ space := 0, addr := g.1, bytes := g.2.1 } : Region)))
            if c.heldRelease [{ space := 0, addr := q.dst, bytes := total }] || c.heldReads reads then s
            else
              let r := l.foldl (fun (acc : State × Option Status × Nat × Nat) p =>
                if acc.2.1.isSome then acc
                else
                  let t := acc.1.exportRecord id ups q acc.2.2.1 p
                  if t.2.2.1 = acc.2.2.1 then (t.1, t.2.1, acc.2.2) else t) (ps.1, none, 0, 0)
              close r.1 (r.2.1.getD .ok) r.2.2.2

/-- PARAM_EXPORT_RUN. -/
def execParamExportRun (ctx tag : Nat) (upsets : List Upset) (s : State) : Host.Outcome State Fault Refusal :=
  .next (doParamExportRun ctx tag upsets s)

/-! ### Messages of the shipping exchange (R248, R251) -/

/-- A message that names no lease in force is discarded and counted (R251). -/
def State.staleLease (s : State) : State := { s with ledger := { s.ledger with stale := s.ledger.stale + 1 } }

/-- OPT_SHIP at the lender. -/
def execOptShip (src : Nat) (m : Msg) (s : State) : Host.Outcome State Fault Refusal :=
  .next (s.ctrlMsg src .optShip m fun s0 =>
      match s0.links.lent.find? (fun x => x.id + x.gen * 65536 == m.arg0 && x.borrower == src && x.keyed) with
      | none => s0.staleLease
      | some x =>
        let name := ofLe (slice m.payload 0 4)
        (s0.modLinks (fun l => { l with lent := l.lent.map (fun y =>
          if y.id = x.id then { y with ships := y.ships.filter (fun z => z.1 != name) ++ [(name, m.payload)] } else y) })).serveShips x.id 1024)

/-- OPT_CLIP at the lender: it serves the records that it names, those still to be shipped too. -/
def execOptClip (src : Nat) (m : Msg) (s : State) : Host.Outcome State Fault Refusal :=
  .next (s.ctrlMsg src .optClip m fun s0 =>
      match s0.links.lent.find? (fun x => x.id + x.gen * 65536 == m.arg0 && x.borrower == src && x.keyed) with
      | none => s0.staleLease
      | some x =>
        (s0.modLinks (fun l => { l with lent := l.lent.map (fun y =>
          if y.id = x.id then { y with clip := m.payload, clipLeft := ofLe (slice m.payload 25 4) } else y) })).serveShips x.id 1024)

/-- OPT_RETURN at the borrower. -/
def execOptReturn (src : Nat) (m : Msg) (s : State) : Host.Outcome State Fault Refusal :=
  .next (s.ctrlMsg src .optReturn m fun s0 =>
      match s0.links.leases.find? (fun l => l.id + l.gen * 65536 == m.arg0 && l.lender == src && !l.broken) with
      | none => s0.staleLease
      | some l =>
        let name := ofLe (slice m.payload 0 4)
        (s0.modLease l.slot (fun x => { x with returns := x.returns.filter (fun y => y.1 != name) ++ [(name, m.payload.drop 4)] })).tryReturn l.slot
          name)

/-! ### Backfill bindings (R223–R228) -/

/-- BACKFILL_BIND, both forms (R224). -/
def doBackfill (m : Msg) : State → Session → State × Option Reply :=
  withCtx m fun s _ c =>
    let w := ofLe (slice m.payload 0 16)
    let q := field w 5 0
    let unbind := flag w 8
    let leads := (List.range 64).filter (fun i => flag w (64 + i))
    let others := c.backfill.filter (fun b => b.queue != q)
    match firstOf [
        (decide (m.length ≠ 16), Status.badLength),
        (anySet w 7 6 || anySet w 15 9 || anySet w 63 32 || (unbind && (anySet w 31 16 || anySet w 127 64)), .reservedSet),
        ((c.queue? q).isNone || leads.any (fun l => (c.queue? l).isNone), .extent),
        (if unbind then !c.backfill.any (fun b => b.queue == q)
         else leads.isEmpty || leads.contains q || (match c.queue? q with
             | some x => x.genMode
             | none => false)
           || others.any (fun b => b.leads.contains q || leads.contains b.queue || b.leads.any (fun l => leads.contains l)), .denied)] with
    | some st => refuse s st
    | none =>
      if unbind then okay (s.modCtx c.id (fun d => { d with backfill := others }))
      else
        let held := match c.queue? q with
          | some x => (x.recs.map (fun r => r.heldBytes)).sum
          | none => 0
        okay (s.modCtx c.id (fun d =>
          { d with backfill := others ++ [{ queue := q, leads := leads, bound := field w 31 16 * 2 ^ 24, held := held }] }))

/-- BACKFILL_BIND. -/
def execBackfillBind (m : Msg) (s : State) : Host.Outcome State Fault Refusal := .next (s.request .backfillBind m (doBackfill m))
/-- BACKFILL_BIND with `unbind`. -/
def execBackfillUnbind (m : Msg) (s : State) : Host.Outcome State Fault Refusal := .next (s.request .backfillBind m (doBackfill m))

end Sys2Proof.Machine
end

