-- ==== Sys2Proof/Machine/Restore.lean ====
section
/-!
DEFINITION. Machine/Restore.lean: CKPT_RESTORE and CKPT_VERIFY (R489–R493): the choice of a generation, the whole restore, and re-slicing.
-/
namespace Sys2Proof.Machine

/-! ### The payload (Table 15-8) -/

/-- The payload of CKPT_RESTORE and CKPT_VERIFY. -/
structure RestoreArgs where
  form : Nat
  keySrc : Bool
  keyId : Nat
  va : Nat
  pages : Nat
  table : Nat
  first : Nat
  records : Nat
  label : Bytes
  rsvd : Bool
  deriving DecidableEq, Repr

/-- The fields of a payload. `keyid` is zero unless `key_src` is 1. -/
def restoreArgs (bs : Bytes) : RestoreArgs :=
  let w := ofLe (slice bs 0 32)
  { form := field w 1 0, keySrc := flag w 2, keyId := field w 19 8, va := field w 79 32, pages := field w 119 96, table := field w 175 128,
    first := field w 215 192, records := field w 239 216, label := slice bs 32 32,
    rsvd := anySet w 7 3 || anySet w 31 20 || anySet w 95 80 || anySet w 127 120 || anySet w 191 176 || anySet w 255 240
      || decide (2 ≤ field w 1 0) || (!flag w 2 && anySet w 19 8) }

/-- Is a page one that a context may map before a whole restore: the store and, on a consortium context, the program region and the
policy's windows? -/
def Ctx.mayPrecede (c : Ctx) (q : RestoreArgs) (p : Page) : Bool :=
  (decide (q.va / pageSize ≤ p.va) && decide (p.va < q.va / pageSize + q.pages))
    || (match c.policy with
        | some y => y.touches (p.va * pageSize) pageSize
        | none => false)

/-- Case 4 of R490. A CKPT_RESTORE ends in the step that takes it up, so none is ever found running (LOG 36). -/
def State.restoreDenied (s : State) (x : Session) (c : Ctx) (restore : Bool) (q : RestoreArgs) : Bool :=
  (restore && q.form == 0 && (c.ring.isSome || !c.queues.isEmpty || c.pages.any (fun p => !c.mayPrecede q p) || (c.consortium && c.policy.isNone)))
    || (restore && q.form == 1 && (c.ring.isNone || !x.has fReslice))
    || (q.keySrc && ((s.loadedKey c q.keyId).isNone || c.consortium))

/-- CKPT_RESTORE and CKPT_VERIFY up to PENDING (R490, R542). -/
def doCkptRead (m : Msg) (op : Opcode) : State → Session → State × Option Reply :=
  withCtx m fun s x c =>
    let q := restoreArgs m.payload
    let restore := op == .ckptRestore
    match firstOf [
        (decide (m.length ≠ 64), Status.badLength),
        (q.rsvd || (!restore && q.form == 1), .reservedSet),
        (decide (q.va % pageSize ≠ 0) || !c.mapped q.va (q.pages * pageSize) || (q.form == 1 && !c.mapped (recordAt q.table q.first) (128 * q.records)), .extent),
        (s.restoreDenied x c restore q, .denied)] with
    | some st => refuse s st
    | none => (s.await x op m (.ckptRead (m.payload.take 64)), some (.of .pending))

/-! ### Reading a generation -/

/-- A section as its entry gives it (Table 15-5). -/
structure Section where
  index : Nat
  kind : Nat
  ref : Nat
  rawLen : Nat
  pieces : Nat
  offset : Nat
  tally : Nat
  deriving DecidableEq, Repr

/-- A generation that checks under step 1 of R489. -/
structure Image where
  half : Nat
  /-- first byte of the half -/
  base : Nat
  gen : Nat
  verified : Bool
  key : Bytes
  sections : List Section
  deriving DecidableEq, Repr

/-- The entry of section `i` of a table. -/
def sectionOf (table : Bytes) (i : Nat) : Section :=
  let w := ofLe (slice table (64 * i) 32)
  { index := i, kind := field w 3 0, ref := field w 63 16, rawLen := field w 95 64, pieces := field w 127 96, offset := field w 191 128,
    tally := field w 255 192 }

/-- The header with `mtag`, `commit` and `verified` taken as zero (R486). -/
def untagged (h : Bytes) : Bytes := h.take 192 ++ List.replicate 32 0 ++ h.drop 224

/-- A half of the store, if its header checks (R489, step 1). -/
def State.readHalf (s : State) (c : Ctx) (q : RestoreArgs) (ups : List Upset) (half : Nat) : State × Option Image :=
  let base := halfAt q.va q.pages half
  let r := s.readV c.id none ups base 256
  match r.2 with
  | .error _ => (r.1, none)
  | .ok h => match headerMarks h with
    | none => (r.1, none)
    | some (gen, commit, verified) =>
      let n := ofLe (slice h 28 4)
      if gen = 0 ∨ commit ≠ gen ∨ halfBytes q.pages < 256 + 64 * n then (r.1, none)
      else
        let t := r.1.readV c.id none ups (base + 256) (64 * n)
        match t.2, Config.keyUnwrap (s.storeKey c q.keySrc q.keyId q.label) (slice h 48 40) with
        | .ok table, some key =>
          if manifestTag key (untagged h) table = slice h 192 16 then
            (t.1, some { half := half, base := base, gen := gen, verified := verified != 0, key := key, sections := (List.range n).map (sectionOf table) })
          else (t.1, none)
        | _, _ => (t.1, none)

/-- Raw bytes of a stored piece (R486): what its tag admits, decompressed; none when it does not check. -/
def rawOfPiece (key : Bytes) (sec piece size : Nat) (hdr body : Bytes) : Option Bytes :=
  let w := ofLe (slice hdr 0 8)
  let form := field w 1 0
  let planes := field w 3 2
  match Config.gcmOpen key (pieceNonce sec piece) hdr body with
  | none => none
  | some plain =>
    let raw : Option Bytes := match form with
      | 0 => some (List.replicate size 0)
      | 1 => some plain
      | 2 => if planes = 3 then none else some (joinPlanes (2 ^ planes) (Config.frameContent plain))
      | _ => none
    match raw with
    | some bs => if bs.length = size then some bs else none
    | none => none

/-- Read the pieces of a section from piece `k` on, `n` of them, at an offset of the half. -/
def State.readPieces (s : State) (id : Nat) (ups : List Upset) (g : Image) (x : Section) : Nat → Nat → Nat → State × Option Bytes
  | 0, _, _ => (s, some [])
  | n + 1, k, off =>
    let h := s.readV id none ups (g.base + off) 16
    match h.2 with
    | .error _ => (h.1, none)
    | .ok hdr =>
      let clen := ofLe (slice hdr 4 4)
      if 131072 < clen then (h.1, none)
      else
        let b := h.1.readV id none ups (g.base + off + 16) (clen + 16)
        match b.2 with
        | .error _ => (b.1, none)
        | .ok body => match rawOfPiece g.key x.index k (min 65536 (x.rawLen - 65536 * k)) hdr body with
          | none => (b.1, none)
          | some raw =>
            let t := b.1.readPieces id ups g x n (k + 1) (off + (clen + 32 + 63) / 64 * 64)
            (t.1, t.2.map (fun rest => raw ++ rest))

/-- Read a section of a generation; none when a piece does not check. -/
def State.readSection (s : State) (id : Nat) (ups : List Upset) (g : Image) (x : Section) : State × Option Bytes :=
  if x.pieces = ceilDiv x.rawLen 65536 then s.readPieces id ups g x x.pieces 0 x.offset else (s, none)

/-- Read every section back as step 5 of R487: tags, decompression and tallies. -/
def State.readBack (s : State) (id : Nat) (ups : List Upset) (g : Image) : List Section → State × Bool
  | [] => (s, true)
  | x :: rest =>
    let r := s.readSection id ups g x
    match r.2 with
    | none => (r.1, false)
    | some raw => if tally raw = x.tally then r.1.readBack id ups g rest else (r.1, false)

/-- The first of the halves that passes (R489, steps 2 and 3). -/
def State.firstWhole (s : State) (id : Nat) (ups : List Upset) : List Image → State × Option Image
  | [] => (s, none)
  | g :: rest =>
    if g.verified then (s, some g)
    else
      let r := s.readBack id ups g g.sections
      if r.2 then
        let w := r.1.writeV id none ups (g.base + 216) (toLe 8 g.gen)
        (w.1, some g)
      else r.1.firstWhole id ups rest

/-- The choice of a generation (R489). -/
def State.chooseImage (s : State) (c : Ctx) (q : RestoreArgs) (ups : List Upset) : State × Option Image :=
  let a := s.readHalf c q ups 0
  let b := a.1.readHalf c q ups 1
  let two := match a.2, b.2 with
    | some x, some y => if x.gen < y.gen then [y, x] else [x, y]
    | x, y => x.toList ++ y.toList
  b.1.firstWhole c.id ups two

/-! ### The whole restore (R491) -/

/-- The attributes section (LOG 36): limits, ring, table, hints by page, bindings. -/
structure Attrs where
  limits : Limits
  ring : Nat × Nat
  scale : Nat × Nat
  hints : List (Nat × Nat)
  backfill : List Backfill
  deriving DecidableEq, Repr

/-- The attributes that a section holds. -/
def attrsOf (bs : Bytes) : Attrs :=
  let n (off k : Nat) : Nat := ofLe (slice bs off k)
  let hints := n 36 4
  let b0 := 40 + 6 * hints
  { limits := { localMax := n 0 4, sramMax := n 4 4, nbrMax := n 8 4 }, ring := (n 12 8, n 20 4), scale := (n 24 8, n 32 4),
    hints := (List.range hints).map (fun i => (n (40 + 6 * i) 4, n (44 + 6 * i) 2)),
    backfill := (List.range (n b0 4)).map (fun i =>
      let o := b0 + 4 + 11 * i
      { queue := n o 1, leads := (List.range 64).filter (fun l => flag (n (o + 1) 8) l), bound := n (o + 9) 2 * 2 ^ 24 }) }

/-- Steps 1 and 2 for one page: mapped, zeroed or with its content; a page of a consortium context that is mapped is left untouched. -/
def State.restorePage (s : State) (id : Nat) (ups : List Upset) (g : Image) (x : Section) : State × Option Status :=
  match s.ctx? id with
  | none => (s, some .staleGeneration)
  | some c =>
    if (c.page? (vpage x.ref)).isSome then (s, none)
    else
      let s1 := s.grantPage id (vpage x.ref)
      if x.kind = 5 then (s1, none)
      else
        let r := s1.readSection id ups g x
        match r.2 with
        | none => (r.1, some .integrity)
        | some raw => r.1.writeV id none ups x.ref raw

/-- Carry out an operation on each of some things, until one fails. -/
def eachOk {α : Type} (f : State → α → State × Option Status) : List α → State → State × Option Status
  | [], s => (s, none)
  | x :: rest, s =>
    let r := f s x
    match r.2 with
    | some st => (r.1, some st)
    | none => eachOk f rest r.1

/-- Step 3: the hints of one page (R208); a pin acts when the context becomes resident. -/
def Page.withHints (p : Page) (hints : List (Nat × Nat)) : Page := match hints.find? (fun h => h.1 == p.va) with
  | none => p
  | some h => { p with pin := flag h.2 0, streamOnce := flag h.2 1, cold := flag h.2 2,
                       affinity := if flag h.2 3 then some (field h.2 9 4) else none }

/-- Step 4 for one queue: its window with the saved bytes, its ring with the records between *done* and *head*. -/
def State.restoreQueue (s : State) (id : Nat) (ups : List Upset) (bs : Bytes) (win : Bytes) : State × Option Status :=
  let w := ofLe (slice bs 0 16)
  let size := field w 101 96
  let done := ofLe (slice bs 16 8)
  let head := ofLe (slice bs 24 8)
  let log2 := field w 12 8
  let addr := field w 79 32
  let home := if size = 0 then none else s.chooseHome size (fun _ => true)
  if size ≠ 0 ∧ home.isNone then (s, some .noSlot)
  else
    let base := match home with
      | some n => (s.windowBase n size).getD 0
      | none => 0
    let s1 := match home with
      | some n => (s.zeroWindow n base size).modCells (fun cs => writeCells cs (scratchBase n + base * 2 ^ 20) win)
      | none => s
    let s2 := s1.modCtx id (fun d =>
      let g := (sparse d.queueGens (field w 5 0) + 1) % 256
      { d with queueGens := setSparse d.queueGens (field w 5 0) g,
               queues := d.queues ++ [{ number := field w 5 0, gen := g, ringLog2 := log2, ringAddr := addr, audit := flag w 13, genMode := flag w 14,
                                        stopOnError := flag w 15, window := size, home := home, base := base, done := done, head := done,
                                        tail := head }] })
    eachOk (fun s i => s.writeV id none ups (addr + ((done + i) % 2 ^ log2) * 128) (slice bs (32 + 128 * i) 128)) (List.range (head - done)) s2

/-- Step 5: the event ring, empty, and the scale table; the pages of both become read-only. The context is readied and stays SUSPENDED. An
image of a context that had no ring leaves none (LOG 36). -/
def Ctx.restoreRing (c : Ctx) (a : Attrs) : Ctx :=
  let inside (x n : Nat) (p : Page) : Bool := n != 0 && decide (vpage x ≤ p.va) && decide (p.va ≤ vpage (x + n - 1))
  let close (p : Page) : Page :=
    if inside a.ring.1 (80 * 2 ^ a.ring.2) p || inside a.scale.1 (64 * a.scale.2) p then { p with ro := true } else p
  if a.ring.2 = 0 then c
  else { c with ring := some { addr := a.ring.1, log2 := a.ring.2 }, scaleAddr := a.scale.1, scaleN := a.scale.2, pages := c.pages.map close }

/-- Step 6 for one fence: a new fence with the saved value, and its translation (R492). -/
def State.restoreFence (s : State) (id : Nat) (avoid : List Nat) (old value : Nat) : State × Option Status :=
  match pickId 65536 (s.fences.map (fun f => f.index) ++ avoid) s.fencesFreed s.hub.timer (fun _ => false) with
  | none => (s, some .noSlot)
  | some (i, g) =>
    let f : Fence := { index := i, gen := nextGen 16 g, value := value }
    let s1 := { s with fences := s.fences ++ [f], fencesFreed := s.fencesFreed.filter (fun x => x.1 != i) }
    (s1.modCtx id (fun d => { d with fences := d.fences ++ [i], fenceMap := d.fenceMap.filter (fun x => x.1 != old) ++ [(old, f.handle)] }), none)

/-- Handles and values of a fences section. -/
def fencesOf : Nat → Bytes → List (Nat × Nat)
  | 0, _ => []
  | n + 1, bs => if bs.length < 12 then [] else (ofLe (slice bs 0 4), ofLe (slice bs 4 8)) :: fencesOf n (bs.drop 12)

/-- QUOTA, EXTENT and conflicts of step 1 (R198), judged before anything is mapped (DEDUCED LOG 36). -/
def State.restoreRefused (s : State) (c : Ctx) (a : Attrs) (pages : List Section) : Option Status :=
  let new := pages.filter (fun x => !(c.consortium && (c.page? (vpage x.ref)).isSome))
  firstOf [
    (new.any (fun x => decide (x.ref % pageSize ≠ 0)), Status.extent),
    (new.any (fun x => (c.page? (vpage x.ref)).isSome), .denied),
    (s.grantQuota c { kind := 1, nbr := false, va := 0, pages := 0, a := a.limits.localMax, b := a.limits.sramMax, d := a.limits.nbrMax, rsvd := false }
      || decide (a.limits.localMax < s.localHeld c + new.length), .quota)]

/-- Steps 3 to 6 of R491, once the pages stand: the sections read are the queues with their windows, and the fences. -/
def State.restoreRest (s : State) (id : Nat) (ups : List Upset) (a : Attrs) (queues : List (Bytes × Bytes)) (fences : List (Nat × Nat)) :
    State × Option Status :=
  let s1 := s.modCtx id (fun d => { d with pages := d.pages.map (fun p => p.withHints a.hints) })
  let t := eachOk (fun s x => s.restoreQueue id ups x.1 x.2) queues s1
  match t.2 with
  | some st => (t.1, some st)
  | none =>
    let s2 := t.1.modCtx id (fun d => d.restoreRing a)
    let u := eachOk (fun s (x : Nat × Nat) => s.restoreFence id (fences.map (fun y => y.1 % 65536)) x.1 x.2) fences s2
    (u.1.modCtx id (fun d => { d with backfill := a.backfill }), u.2)

/-- Read several sections; the first that does not check ends the reads. -/
def State.readSections (s : State) (id : Nat) (ups : List Upset) (g : Image) : List Section → State × Option (List (Section × Bytes))
  | [] => (s, some [])
  | x :: rest =>
    let r := s.readSection id ups g x
    match r.2 with
    | none => (r.1, none)
    | some raw =>
      let t := r.1.readSections id ups g rest
      (t.1, t.2.map (fun l => (x, raw) :: l))

/-- Form 0 (R491). -/
def State.restoreWhole (s : State) (id : Nat) (ups : List Upset) (g : Image) : State × Reply :=
  let pages := g.sections.filter (fun x => x.kind == 0 || x.kind == 5)
  let r := s.readSections id ups g (g.sections.filter (fun x => 1 ≤ x.kind && decide (x.kind ≤ 4)))
  match r.2, r.1.ctx? id with
  | some l, some c =>
    let of (k : Nat) : List (Section × Bytes) := l.filter (fun x => x.1.kind == k)
    let first (k : Nat) : Bytes := ((of k).head?.map (fun x => x.2)).getD []
    let a := attrsOf (first 4)
    match r.1.restoreRefused c a pages with
    | some st => (r.1, .of st)
    | none =>
      let s1 := r.1.modCtx id (fun d => { d with limits := a.limits })
      let t := eachOk (fun s x => s.restorePage id ups g x) pages s1
      match t.2 with
      | some st => (t.1, .of st)
      | none =>
        let window (q : Nat) : Bytes := (((of 1).find? (fun x => x.1.ref == q)).map (fun x => x.2)).getD []
        let u := t.1.restoreRest id ups a ((of 2).map (fun x => (x.2, window x.1.ref))) (fencesOf (first 3).length (first 3))
        match u.2 with
        | some st => (u.1, .of st)
        | none => (u.1, { status := .ok, arg0 := g.gen })
  | _, _ => (r.1, .of .integrity)

/-! ### Re-slicing (R493) -/

/-- Elements below dimension `d` of a shape, dimension 0 innermost. -/
def strideOf (shp : List Nat) (d : Nat) : Nat := (shp.take d).foldl (fun a b => a * b) 1

/-- The runs along dimension 0 that two records have in common: first element of the source, of the target, and length. -/
def commonRuns (a b : Param) : List (Nat × Nat × Nat) :=
  let get (l : List Nat) (d : Nat) : Nat := l.getD d 0
  let lo (d : Nat) : Nat := max (get a.off d) (get b.off d)
  let hi (d : Nat) : Nat := min (get a.off d + get a.shp d) (get b.off d + get b.shp d)
  let span (d : Nat) : List Nat := (List.range (hi d - lo d)).map (fun i => lo d + i)
  let at_ (p : Param) (d x : Nat) : Nat := (x - get p.off d) * strideOf p.shp d
  if hi 0 ≤ lo 0 then []
  else (span 3).flatMap (fun x3 => (span 2).flatMap (fun x2 => (span 1).map (fun x1 =>
    (at_ a 3 x3 + at_ a 2 x2 + at_ a 1 x1 + at_ a 0 (lo 0), at_ b 3 x3 + at_ b 2 x2 + at_ b 1 x1 + at_ b 0 (lo 0), hi 0 - lo 0))))

/-- Do two records describe the same tensor? -/
def Param.sameTensor (a b : Param) : Bool := a.tensor == b.tensor && a.ndim == b.ndim && a.ext == b.ext

/-- Addresses of the planes that a source and a target both have: source, target. -/
def Param.sharedPlanes (a b : Param) : List (Nat × Nat) :=
  [(a.master, b.master), (a.master + a.tailOff, b.master + b.tailOff), (a.mAddr, b.mAddr)]
    ++ (if a.opt = 0 ∧ b.opt = 0 then [(a.vAddr, b.vAddr)] else [])

/-- Bytes of the image at an address of the source, from its page sections; none where the image lacks a page. -/
def imageBytes (pages : List (Nat × Bytes)) (va n : Nat) : Option Bytes :=
  (piecesOf va n).foldl (fun acc pc => match acc, pages.find? (fun p => p.1 == pc.1) with
    | some bs, some p => some (bs ++ slice p.2 pc.2.1 pc.2.2)
    | _, _ => none) (some [])

/-- Copy one run: every plane, or nothing when the image lacks a page of it (LOG 36). The last part counts the elements written. -/
def State.copyRun (s : State) (id : Nat) (ups : List Upset) (pages : List (Nat × Bytes)) (a b : Param) (r : Nat × Nat × Nat) :
    State × Option Status × Nat :=
  let parts := (a.sharedPlanes b).map (fun p => (p.2 + 2 * r.2.1, imageBytes pages (p.1 + 2 * r.1) (2 * r.2.2)))
  if parts.any (fun p => p.2.isNone) then (s, none, 0)
  else
    let t := eachOk (fun s (p : Nat × Option Bytes) => s.writeV id none ups p.1 (p.2.getD [])) parts s
    (t.1, t.2, if t.2.isSome then 0 else r.2.2)

/-- Copy all that one target takes from the sources. -/
def State.copyInto (s : State) (id : Nat) (ups : List Upset) (pages : List (Nat × Bytes)) (b : Param) (sources : List Param) :
    State × Option Status × Nat :=
  let runs := (sources.filter (fun a => a.sameTensor b)).flatMap (fun a => (commonRuns a b).map (fun r => (a, r)))
  runs.foldl (fun acc x =>
    if acc.2.1.isSome then acc
    else
      let t := acc.1.copyRun id ups pages x.1 b x.2
      (t.1, t.2.1, acc.2.2 + t.2.2)) (s, none, 0)

/-- The working copy of a target from its master copy, merged into its slot (the last line of R238). -/
def State.formWork (s : State) (id : Nat) (ups : List Upset) (p : Param) : State × Option Status :=
  match s.ctx? id with
  | none => (s, some .staleGeneration)
  | some c =>
    if p.workFmt = 3 ∨ p.count = 0 then (s, none)
    else
      let h := s.readV id none ups p.master (2 * p.count)
      let t := h.1.readV id none ups (p.master + p.tailOff) (2 * p.count)
      match h.2, t.2 with
      | .ok hb, .ok tb =>
        let core := (s.placeable.head?).getD 0
        let ws := List.zip (wordsOf 2 p.count hb) (wordsOf 2 p.count tb)
        let r := ws.foldl (fun (acc : List Nat × Tallied × Nat) x =>
          let y := acc.2.1.work p.workFmt (s.workExp id p) (acc.2.2 % 256) { head := BitVec.ofNat 16 x.1, tail := BitVec.ofNat 16 x.2 }
          (y.1 :: acc.1, y.2, acc.2.2 + 1)) ([], { draws := c.drawsOn core }, 0)
        let w := t.1.writeV id none ups p.workAddr (bytesOf p.workBytes r.1.reverse)
        let s1 := w.1.keepDraws id r.2.1.draws
        (if p.workFmt < 2 && w.2.isNone then s1.mergeSlot id p.workSlot r.2.1.amax r.2.1.ovf else s1, w.2)
      | .error st, _ => (t.1, some st)
      | _, .error st => (t.1, some st)

/-- Source records of a parameters section: 140 bytes each (LOG 36). -/
def sourcesOf : Nat → Bytes → List Param
  | 0, _ => []
  | n + 1, bs => if bs.length < 140 then [] else paramOf (slice bs 12 128) :: sourcesOf n (bs.drop 140)

/-- Pages of the sources' planes. -/
def sourcePages (l : List Param) : List Nat :=
  (l.flatMap (fun a => a.planes.flatMap (fun p => (piecesOf p.1 p.2).map (fun x => x.1)))).eraseDups

/-- Form 1 (R493), from a chosen generation and consistent targets. -/
def State.reslice (s : State) (id : Nat) (ups : List Upset) (g : Image) (targets : List Param) : State × Reply :=
  let r := s.readSections id ups g (g.sections.filter (fun x => x.kind == 6))
  match r.2 with
  | none => (r.1, .of .integrity)
  | some l =>
    let raw := (l.head?.map (fun x => x.2)).getD []
    let sources := sourcesOf raw.length raw
    let used := sources.filter (fun a => targets.any (fun b => a.sameTensor b))
    let skipped := (sources.filter (fun a => targets.any (fun b => a.tensor == b.tensor) && !targets.any (fun b => a.sameTensor b))).length
    let need := sourcePages used
    let t := r.1.readSections id ups g (g.sections.filter (fun x => x.kind == 0 && need.contains (vpage x.ref)))
    match t.2 with
    | none => (t.1, .of .integrity)
    | some ps =>
      let pages := ps.map (fun x => (vpage x.1.ref, x.2))
      let u := targets.foldl (fun (acc : State × Option Status × Nat) b =>
        if acc.2.1.isSome then acc
        else
          let c := acc.1.copyInto id ups pages b sources
          let w : State × Option Status := if c.2.1.isSome then (c.1, c.2.1) else c.1.formWork id ups b
          (w.1, w.2, acc.2.2 + c.2.2)) (t.1, none, 0)
      match u.2.1 with
      | some st => (u.1, .of st)
      | none => (u.1, { status := .ok, payload := toLe 8 u.2.2 ++ toLe 4 skipped ++ toLe 4 0 })

/-- The targets of form 1: read and judged before any write (R490). Regions of a target that are not mapped for writing give EXTENT
(DEDUCED LOG 36). -/
def State.resliceTargets (s : State) (c : Ctx) (q : RestoreArgs) (ups : List Upset) : State × Except Status (List Param) :=
  let r := s.readParams c.id ups q.table q.first q.records
  match r.2 with
  | .error st => (r.1, .error st)
  | .ok ps =>
    if ps.any (fun p => !r.1.consistent c p) then (r.1, .error .badOperand)
    else if ps.any (fun p => (p.regions.drop (if p.gradSpace = 0 then 1 else 0)).any (fun g => !c.writable g.1 g.2.1)) then (r.1, .error .extent)
    else (r.1, .ok ps)

/-! ### The commands -/

/-- The final answer of a request (R489–R493). -/
def State.readOut (s : State) (w : Wait) (payload : Bytes) (ups : List Upset) : State × Reply :=
  let q := restoreArgs payload
  match s.ctx? w.ctx with
  | none => (s, .of .contextReset)
  | some c =>
    let restore := w.opcode == .ckptRestore
    let targets : State × Except Status (List Param) := if restore && q.form == 1 then s.resliceTargets c q ups else (s, .ok [])
    match targets.2 with
    | .error st => (targets.1, .of st)
    | .ok ts =>
      let g := targets.1.chooseImage c q ups
      match g.2 with
      | none => (g.1, .of .digestMismatch)
      | some img =>
        if !restore then (g.1, { status := .ok, arg0 := img.gen })
        else if q.form = 0 then g.1.restoreWhole c.id ups img
        else g.1.reslice c.id ups img ts

/-- The request of a message runs to its final answer. -/
def State.runRead (s : State) (m : Msg) (ups : List Upset) : State :=
  (s.waits.filter (fun w => w.session == m.session && w.tag == m.tag)).foldl (fun s w => match w.what with
    | .ckptRead payload =>
      let r := s.readOut w payload ups
      r.1.finish w r.2
    | _ => s) s

/-- CKPT_RESTORE form 0. -/
def execCkptRestoreWhole (m : Msg) (upsets : List Upset) (s : State) : Host.Outcome State Fault Refusal :=
  .next (s.requestThen .ckptRestore m (doCkptRead m .ckptRestore) (fun t => t.runRead m upsets))
/-- CKPT_RESTORE form 1. -/
def execCkptRestoreReslice (m : Msg) (upsets : List Upset) (s : State) : Host.Outcome State Fault Refusal :=
  .next (s.requestThen .ckptRestore m (doCkptRead m .ckptRestore) (fun t => t.runRead m upsets))
/-- CKPT_VERIFY. -/
def execCkptVerify (m : Msg) (upsets : List Upset) (s : State) : Host.Outcome State Fault Refusal :=
  .next (s.requestThen .ckptVerify m (doCkptRead m .ckptVerify) (fun t => t.runRead m upsets))

end Sys2Proof.Machine
end

