-- ==== Sys2Proof/Machine/Dispatch.lean ====
section
/-!
DEFINITION. Machine/Dispatch.lean: one arm for each command.
-/
namespace Sys2Proof.Machine

/-- A command's effect on everything but the queue. -/
def exec (i : Instr) (s : State) : Host.Outcome State Fault Refusal :=
  match i with
  | .resetNAssert ns railsOk => Sys2Proof.Machine.execResetNAssert ns railsOk s
  | .coldReset env => Sys2Proof.Machine.execColdReset env s
  | .internalColdReset env => Sys2Proof.Machine.execInternalColdReset env s
  | .pwrBrakeAssert ns => Sys2Proof.Machine.execPwrBrakeAssert ns s
  | .pwrBrakeRelease => Sys2Proof.Machine.execPwrBrakeRelease s
  | .brakeEventInterval => Sys2Proof.Machine.execBrakeEventInterval s
  | .refclkMissing ns => Sys2Proof.Machine.execRefclkMissing ns s
  | .railOutOfRange rail ns => Sys2Proof.Machine.execRailOutOfRange rail ns s
  | .vcoreUndervoltage tile => Sys2Proof.Machine.execVcoreUndervoltage tile s
  | .thermalBrakeComparator tile temp => Sys2Proof.Machine.execThermalBrakeComparator tile temp s
  | .thermTripComparator die temp => Sys2Proof.Machine.execThermTripComparator die temp s
  | .stackTempReport stack temp => Sys2Proof.Machine.execStackTempReport stack temp s
  | .samplePeriod r => Sys2Proof.Machine.execSamplePeriod r s
  | .avsbusSilent tile => Sys2Proof.Machine.execAvsbusSilent tile s
  | .voltageConfirmed tile mv => Sys2Proof.Machine.execVoltageConfirmed tile mv s
  | .leaveGrant unit => Sys2Proof.Machine.execLeaveGrant unit s
  | .pacingWindow unit => Sys2Proof.Machine.execPacingWindow unit s
  | .hbmTrainIdle stack => Sys2Proof.Machine.execHbmTrainIdle stack s
  | .hello f g more => Sys2Proof.Machine.execHello f g more s
  | .keyExchangeOpen m => Sys2Proof.Machine.execKeyExchangeOpen m s
  | .keyExchangeRekey m => Sys2Proof.Machine.execKeyExchangeRekey m s
  | .features m => Sys2Proof.Machine.execFeatures m s
  | .attest m => Sys2Proof.Machine.execAttest m s
  | .heartbeat m => Sys2Proof.Machine.execHeartbeat m s
  | .eventAnswer m => Sys2Proof.Machine.execEventAnswer m s
  | .eventSend session ctx => Sys2Proof.Machine.execEventSend session ctx s
  | .eventResendTimeout session tag => Sys2Proof.Machine.execEventResendTimeout session tag s
  | .linkConfig m => Sys2Proof.Machine.execLinkConfig m s
  | .hostConfig m => Sys2Proof.Machine.execHostConfig m s
  | .macsecRevertTimeout => Sys2Proof.Machine.execMacsecRevertTimeout s
  | .ctxCreate m => Sys2Proof.Machine.execCtxCreate m s
  | .ctxDestroy m => Sys2Proof.Machine.execCtxDestroy m s
  | .destroyDrainDone ctx => Sys2Proof.Machine.execDestroyDrainDone ctx s
  | .ctxReset m => Sys2Proof.Machine.execCtxReset m s
  | .teardownDone ctx => Sys2Proof.Machine.execTeardownDone ctx s
  | .ctxSuspend m => Sys2Proof.Machine.execCtxSuspend m s
  | .ctxResumeReady m upsets => Sys2Proof.Machine.execCtxResumeReady m upsets s
  | .ctxResumeResume m => Sys2Proof.Machine.execCtxResumeResume m s
  | .ctxResumeAssign m => Sys2Proof.Machine.execCtxResumeAssign m s
  | .slotAdmit ctx => Sys2Proof.Machine.execSlotAdmit ctx s
  | .rotateOut ctx => Sys2Proof.Machine.execRotateOut ctx s
  | .residencyExitDone ctx => Sys2Proof.Machine.execResidencyExitDone ctx s
  | .optStepPrepare m upsets => Sys2Proof.Machine.execOptStepPrepare m upsets s
  | .optStepUpdate m upsets => Sys2Proof.Machine.execOptStepUpdate m upsets s
  | .optStepRun ctx tag upsets => Sys2Proof.Machine.execOptStepRun ctx tag upsets s
  | .paramExport m upsets => Sys2Proof.Machine.execParamExport m upsets s
  | .paramExportRun ctx tag upsets => Sys2Proof.Machine.execParamExportRun ctx tag upsets s
  | .mapGrantMap m => Sys2Proof.Machine.execMapGrantMap m s
  | .mapGrantLimits m => Sys2Proof.Machine.execMapGrantLimits m s
  | .mapGrantPublish m => Sys2Proof.Machine.execMapGrantPublish m s
  | .mapGrantAttach m => Sys2Proof.Machine.execMapGrantAttach m s
  | .unmap m => Sys2Proof.Machine.execUnmap m s
  | .pageHint m => Sys2Proof.Machine.execPageHint m s
  | .regulate m => Sys2Proof.Machine.execRegulate m s
  | .placeLogAggregate m => Sys2Proof.Machine.execPlaceLogAggregate m s
  | .placeLogMoves m => Sys2Proof.Machine.execPlaceLogMoves m s
  | .queueCreate m => Sys2Proof.Machine.execQueueCreate m s
  | .queueDestroy m => Sys2Proof.Machine.execQueueDestroy m s
  | .doorbellInline m upsets => Sys2Proof.Machine.execDoorbellInline m upsets s
  | .doorbellRing m => Sys2Proof.Machine.execDoorbellRing m s
  | .recordIntake ctx queue upsets => Sys2Proof.Machine.execRecordIntake ctx queue upsets s
  | .commandDispatch ctx queue upsets => Sys2Proof.Machine.execCommandDispatch ctx queue upsets s
  | .fenceInTimeout ctx queue => Sys2Proof.Machine.execFenceInTimeout ctx queue s
  | .commandComplete ctx queue seq iter upsets => Sys2Proof.Machine.execCommandComplete ctx queue seq iter upsets s
  | .nop ctx queue seq iter => Sys2Proof.Machine.execNop ctx queue seq iter s
  | .matmul ctx queue seq iter upsets => Sys2Proof.Machine.execMatmul ctx queue seq iter upsets s
  | .vector ctx queue seq iter upsets => Sys2Proof.Machine.execVector ctx queue seq iter upsets s
  | .copy ctx queue seq iter upsets => Sys2Proof.Machine.execCopy ctx queue seq iter upsets s
  | .fill ctx queue seq iter upsets => Sys2Proof.Machine.execFill ctx queue seq iter upsets s
  | .scaleSet ctx queue seq iter upsets => Sys2Proof.Machine.execScaleSet ctx queue seq iter upsets s
  | .repeatCmd ctx queue seq iter upsets => Sys2Proof.Machine.execRepeat ctx queue seq iter upsets s
  | .repeatIteration ctx queue upsets => Sys2Proof.Machine.execRepeatIteration ctx queue upsets s
  | .collectiveAllReduce ctx queue seq iter upsets => Sys2Proof.Machine.execCollectiveAllReduce ctx queue seq iter upsets s
  | .collectiveReduceScatter ctx queue seq iter upsets => Sys2Proof.Machine.execCollectiveReduceScatter ctx queue seq iter upsets s
  | .collectiveAllGather ctx queue seq iter upsets => Sys2Proof.Machine.execCollectiveAllGather ctx queue seq iter upsets s
  | .collectiveReduce ctx queue seq iter upsets => Sys2Proof.Machine.execCollectiveReduce ctx queue seq iter upsets s
  | .collectiveBroadcast ctx queue seq iter upsets => Sys2Proof.Machine.execCollectiveBroadcast ctx queue seq iter upsets s
  | .collectiveNorm ctx queue seq iter upsets => Sys2Proof.Machine.execCollectiveNorm ctx queue seq iter upsets s
  | .collectiveSend ctx queue seq iter upsets => Sys2Proof.Machine.execCollectiveSend ctx queue seq iter upsets s
  | .collectiveRecv ctx queue seq iter upsets => Sys2Proof.Machine.execCollectiveRecv ctx queue seq iter upsets s
  | .collectiveTimeout ctx group inst => Sys2Proof.Machine.execCollectiveTimeout ctx group inst s
  | .contributionResendTimeout ctx group inst peer => Sys2Proof.Machine.execContributionResendTimeout ctx group inst peer s
  | .chunk d => Sys2Proof.Machine.execChunk d s
  | .ready d => Sys2Proof.Machine.execReady d s
  | .ack d => Sys2Proof.Machine.execAck d s
  | .retry d => Sys2Proof.Machine.execRetry d s
  | .rtally d => Sys2Proof.Machine.execRtally d s
  | .abort d => Sys2Proof.Machine.execAbort d s
  | .xread d => Sys2Proof.Machine.execXread d s
  | .xwrite d => Sys2Proof.Machine.execXwrite d s
  | .xresp d => Sys2Proof.Machine.execXresp d s
  | .transferResponse tag gen data => Sys2Proof.Machine.execTransferResponse tag gen data s
  | .transferTimeout tag => Sys2Proof.Machine.execTransferTimeout tag s
  | .ledgerQuarantineEnd tag => Sys2Proof.Machine.execLedgerQuarantineEnd tag s
  | .leaseProbeTimeout lease => Sys2Proof.Machine.execLeaseProbeTimeout lease s
  | .linkKx d => Sys2Proof.Machine.execLinkKx d s
  | .channelKeyExchange port peer => Sys2Proof.Machine.execChannelKeyExchange port peer s
  | .rasoviLinkFrame o b => Sys2Proof.Machine.execRasoviLinkFrame o b s
  | .rasoviFrameReceive o g => Sys2Proof.Machine.execRasoviFrameReceive o g s
  | .rasoviAckTimer port peer => Sys2Proof.Machine.execRasoviAckTimer port peer s
  | .rasoviReplayTimeout port peer => Sys2Proof.Machine.execRasoviReplayTimeout port peer s
  | .switchedRetransmitTimeout port peer => Sys2Proof.Machine.execSwitchedRetransmitTimeout port peer s
  | .portTrainDone port lanes peerOrdinal peerMode twin => Sys2Proof.Machine.execPortTrainDone port lanes peerOrdinal peerMode twin s
  | .serdesReplace die serdes codewords => Sys2Proof.Machine.execSerdesReplace die serdes codewords s
  | .portMap src m => Sys2Proof.Machine.execPortMap src m s
  | .groupCreate m upsets => Sys2Proof.Machine.execGroupCreate m upsets s
  | .groupDestroy m => Sys2Proof.Machine.execGroupDestroy m s
  | .groupFormTimeout ctx group => Sys2Proof.Machine.execGroupFormTimeout ctx group s
  | .backfillBind m => Sys2Proof.Machine.execBackfillBind m s
  | .backfillUnbind m => Sys2Proof.Machine.execBackfillUnbind m s
  | .fenceCreate m => Sys2Proof.Machine.execFenceCreate m s
  | .fenceExport m => Sys2Proof.Machine.execFenceExport m s
  | .fenceImport m => Sys2Proof.Machine.execFenceImport m s
  | .fenceSignal m => Sys2Proof.Machine.execFenceSignal m s
  | .fenceWait m => Sys2Proof.Machine.execFenceWait m s
  | .fenceWaitTimeout tag => Sys2Proof.Machine.execFenceWaitTimeout tag s
  | .fenceDestroy m => Sys2Proof.Machine.execFenceDestroy m s
  | .bulkIn m upsets => Sys2Proof.Machine.execBulkIn m upsets s
  | .bulkOut m upsets => Sys2Proof.Machine.execBulkOut m upsets s
  | .ckptConfig m => Sys2Proof.Machine.execCkptConfig m s
  | .ckptNow m => Sys2Proof.Machine.execCkptNow m s
  | .ckptTimerTrigger ctx => Sys2Proof.Machine.execCkptTimerTrigger ctx s
  | .ckptCut ctx => Sys2Proof.Machine.execCkptCut ctx s
  | .ckptDrainTimeout ctx => Sys2Proof.Machine.execCkptDrainTimeout ctx s
  | .ckptWriteDone ctx upsets => Sys2Proof.Machine.execCkptWriteDone ctx upsets s
  | .ckptRestoreWhole m upsets => Sys2Proof.Machine.execCkptRestoreWhole m upsets s
  | .ckptRestoreReslice m upsets => Sys2Proof.Machine.execCkptRestoreReslice m upsets s
  | .ckptVerify m upsets => Sys2Proof.Machine.execCkptVerify m upsets s
  | .policyLoad m upsets => Sys2Proof.Machine.execPolicyLoad m upsets s
  | .ownerJoin m => Sys2Proof.Machine.execOwnerJoin m s
  | .quorumSign m => Sys2Proof.Machine.execQuorumSign m s
  | .releasePropose m => Sys2Proof.Machine.execReleasePropose m s
  | .releaseFetch m => Sys2Proof.Machine.execReleaseFetch m s
  | .releaseWithdraw m => Sys2Proof.Machine.execReleaseWithdraw m s
  | .keyLoad m => Sys2Proof.Machine.execKeyLoad m s
  | .keyDerive m => Sys2Proof.Machine.execKeyDerive m s
  | .keyDestroy m => Sys2Proof.Machine.execKeyDestroy m s
  | .errRead m => Sys2Proof.Machine.execErrRead m s
  | .telemetry m => Sys2Proof.Machine.execTelemetry m s
  | .testConfigDevice m => Sys2Proof.Machine.execTestConfigDevice m s
  | .testConfigAudit m upsets => Sys2Proof.Machine.execTestConfigAudit m upsets s
  | .powerConfig m => Sys2Proof.Machine.execPowerConfig m s
  | .lcRead m => Sys2Proof.Machine.execLcRead m s
  | .lcAdvance m burn => Sys2Proof.Machine.execLcAdvance m burn s
  | .lcEnrol m => Sys2Proof.Machine.execLcEnrol m s
  | .debugCert m => Sys2Proof.Machine.execDebugCert m s
  | .debugChallengeNonce m => Sys2Proof.Machine.execDebugChallengeNonce m s
  | .debugChallengeResponse m => Sys2Proof.Machine.execDebugChallengeResponse m s
  | .fwStage m => Sys2Proof.Machine.execFwStage m s
  | .fwActivate m => Sys2Proof.Machine.execFwActivate m s
  | .fwConfirm => Sys2Proof.Machine.execFwConfirm s
  | .fwTrialTimeout => Sys2Proof.Machine.execFwTrialTimeout s
  | .lockstepMismatch pair => Sys2Proof.Machine.execLockstepMismatch pair s
  | .quekoDataFrame f g => Sys2Proof.Machine.execQuekoDataFrame f g s
  | .quekoAckFrame f b => Sys2Proof.Machine.execQuekoAckFrame f b s
  | .quekoAckTimer session => Sys2Proof.Machine.execQuekoAckTimer session s
  | .quekoRetransmitTimeout session => Sys2Proof.Machine.execQuekoRetransmitTimeout session s
  | .close f g => Sys2Proof.Machine.execClose f g s
  | .heartbeatLoss session => Sys2Proof.Machine.execHeartbeatLoss session s
  | .handshakeTimeout session => Sys2Proof.Machine.execHandshakeTimeout session s
  | .keyRotate session toHost => Sys2Proof.Machine.execKeyRotate session toHost s
  | .keyRotateRepeat session toHost => Sys2Proof.Machine.execKeyRotateRepeat session toHost s
  | .keyLimitStop session port lease toHost => Sys2Proof.Machine.execKeyLimitStop session port lease toHost s
  | .hostPortTrain h => Sys2Proof.Machine.execHostPortTrain h s
  | .i3cPrivateWrite data burn => Sys2Proof.Machine.execI3cPrivateWrite data burn s
  | .i3cAnswerDrop => Sys2Proof.Machine.execI3cAnswerDrop s
  | .placementReview ctx => Sys2Proof.Machine.execPlacementReview ctx s
  | .pageMoveSwitch ctx va => Sys2Proof.Machine.execPageMoveSwitch ctx va s
  | .lendBeaconSend busy => Sys2Proof.Machine.execLendBeaconSend busy s
  | .lendBeacon src m => Sys2Proof.Machine.execLendBeacon src m s
  | .lendAsk src m => Sys2Proof.Machine.execLendAsk src m s
  | .lendOffer src m => Sys2Proof.Machine.execLendOffer src m s
  | .lendRelease src m => Sys2Proof.Machine.execLendRelease src m s
  | .optShip src m => Sys2Proof.Machine.execOptShip src m s
  | .optClip src m => Sys2Proof.Machine.execOptClip src m s
  | .optReturn src m => Sys2Proof.Machine.execOptReturn src m s
  | .ctrlMsg d => Sys2Proof.Machine.execCtrlMsg d s
  | .hbmWriteDrain stack channel => Sys2Proof.Machine.execHbmWriteDrain stack channel s
  | .patrolScrub core tier piece corrected => Sys2Proof.Machine.execPatrolScrub core tier piece corrected s
  | .fieldTestStart core => Sys2Proof.Machine.execFieldTestStart core s
  | .fieldTestResult core r => Sys2Proof.Machine.execFieldTestResult core r s
  | .testOverdue core => Sys2Proof.Machine.execTestOverdue core s
  | .hostProtocolFrame f => Sys2Proof.Machine.execHostProtocolFrame f s
  | .pfcPauseFrame port priority pause => Sys2Proof.Machine.execPfcPauseFrame port priority pause s
  | .aggregateRecordClose ctx => Sys2Proof.Machine.execAggregateRecordClose ctx s
  | .i3cPrivateRead => Sys2Proof.Machine.execI3cPrivateRead s
  | .i3cAddressAssign static addr => Sys2Proof.Machine.execI3cAddressAssign static addr s

end Sys2Proof.Machine
end

