-- ==== Sys2Proof/Machine/Cipher.lean ====
section
/-!
DEFINITION. Machine/Cipher.lean: what the HBM stacks hold of the state: ciphertext, tag words and the metadata reserve (R383–R390). Memory in
`State` is plaintext (LOG 11); these are the bytes that an observer of the stacks sees. No command reads them, since none can address the
reserve (R389).
-/
namespace Sys2Proof.Machine

/-- The counter block (Table 12-1) of a 256-byte block at an internal physical address: `dom` 0 has every other bit zero. -/
def counterBlock (dom : Nat) (key : Bool × Nat) (pa major minor j : Nat) : BitVec 128 :=
  if dom = 0 then 0
  else BitVec.ofNat 128 (j + minor * 2 ^ 4 + major * 2 ^ 12 + (pa / 256 % 2 ^ 38) * 2 ^ 68 + key.2 * 2 ^ 106 + key.1.toNat * 2 ^ 118
    + dom * 2 ^ 126)

/-- The memory key of a key field (Table 12-9): from the material of the slot or of the bank entry, the boot nonce and the issue count. -/
def State.memoryKey (s : State) (key : Bool × Nat) : Bytes :=
  let entry : Option (Bytes × Nat) := if key.1 then (s.vault.bank.find? (fun b => b.ctx == key.2)).map (fun b => (b.material, b.issue))
    else (s.key? key.2).map (fun k => (k.material, k.issue))
  match entry with
  | some (m, issue) => kmac256 m (s.vault.bootNonce ++ toLe 1 key.1.toNat ++ toLe 2 key.2 ++ toLe 4 issue) "HBM KEY" 32
  | none => []

/-- A run of bytes XORed with a run of the same length. -/
def xorBytes (a b : Bytes) : Bytes := List.zipWith (fun x y => x ^^^ y) a b

/-- The key stream of a block: sixteen AES blocks in counter mode (R386). -/
def keyStream (k : Bytes) (key : Bool × Nat) (pa major minor : Nat) : Bytes :=
  (List.range 16).flatMap (fun j => toLe 16 (Config.aes256 k (counterBlock 1 key pa major minor j)).toNat)

/-- The ciphertext of block `b` of a frame (R386): its 256 bytes under the key, the major counter of its sector and its own minor counter. -/
def State.cipherBlock (s : State) (pfn b : Nat) : Bytes :=
  let key := s.keyOfFrame pfn
  let f := s.mem.meta pfn
  xorBytes (readCells s.mem.cells (physAt pfn (b * 256)) 256)
    (keyStream (s.memoryKey key) key (physAt pfn (b * 256)) (f.major (b / 16)) (sparse f.minors b))

/-- The tag of a block (R387): bits [127:72] of its GMAC. -/
def State.blockTag (s : State) (pfn b : Nat) : Nat :=
  let key := s.keyOfFrame pfn
  let f := s.mem.meta pfn
  let k := s.memoryKey key
  let at_ (dom : Nat) : BitVec 128 := counterBlock dom key (physAt pfn (b * 256)) (f.major (b / 16)) (sparse f.minors b) 0
  (Config.ghash (Config.aes256 k (at_ 0)) (at_ 3) (s.cipherBlock pfn b) ^^^ Config.aes256 k (at_ 2)).toNat / 2 ^ 72

/-- A poison word (Table 12-2). -/
def Poison.word (p : Poison) : Nat :=
  0xFF + p.lastMinor * 2 ^ 8 + p.key * 2 ^ 16 + p.cause * 2 ^ 28 + p.kspace.toNat * 2 ^ 32

/-- The tag word of a block, or its poison word (R387, Table 12-2). -/
def State.tagWord (s : State) (pfn b : Nat) : Nat := match (s.mem.meta pfn).poisoned? b with
  | some p => p.word
  | none => sparse (s.mem.meta pfn).minors b + s.blockTag pfn b * 2 ^ 8

/-- The page word of a frame (Table 12-4). -/
def FrameMeta.pageWord (f : FrameMeta) : Nat := f.high + f.retired.toNat * 2 ^ 24

/-- Where the reserve of a stack begins (R389), and the offsets in it of the tag word of a block, of L of a sector and of the page word of a
frame (Table 12-3). Blocks, sectors and frames are numbered from the start of the stack. -/
def reserveBase : Nat := 0xF80000000
def tagWordAt (b : Nat) : Nat := 8 * b
def lowAt (sector : Nat) : Nat := 0x7C000000 + 4 * sector
def pageWordAt (p : Nat) : Nat := 0x7FE00000 + 8 * p

/-- The word of a stack's metadata reserve that begins at an offset of it (Table 12-3); what lies beyond the page words is zero. -/
def State.reserveWord (s : State) (stack off : Nat) : Nat :=
  let frame (p : Nat) : Nat := stack * 32768 + p
  if off < 0x7C000000 then s.tagWord (frame (off / 8 / 8192)) (off / 8 % 8192)
  else if off < 0x7FE00000 then sparse (s.mem.meta (frame ((off - 0x7C000000) / 4 / 512))).low ((off - 0x7C000000) / 4 % 512)
  else if off < 0x7FE3E000 then (s.mem.meta (frame ((off - 0x7FE00000) / 8))).pageWord
  else 0

end Sys2Proof.Machine
end

