-- ==== Sys2Proof/Safety.lean ====
section
/-!
DEFINITION. Safety.lean: the terms of the statements: a request that passes its checks, an answer that has left, what a command may
have changed, and a device that has stopped.
-/
namespace Sys2Proof
open Machine

/-- The step goes on: a next state. -/
def Continues (s : State) : Prop := ∃ t, step s = .next t

/-- Is the request heard, and does it pass the checks of R321 on session `x`, once it has been taken from its mailbox? -/
def Admits (s : State) (op : Opcode) (m : Msg) (x : Session) : Bool :=
  s.hears op m && (s.takeMail op m).session? m.session == some x && (s.takeMail op m).refusalOf x op m == none

/-- The answer to a request is among what has left the device since `s`. -/
abbrev Answered (s t : State) (op : Opcode) (m : Msg) (r : Reply) : Prop :=
  Out.message m.session op.code true false (r.named.getD (m.ctx, m.ctxGen)).1 (r.named.getD (m.ctx, m.ctxGen)).2 m.tag r.status.code r.arg0
    r.payload ∈ t.out.drop s.out.length

/-- The state once an admitted request of session `x` has been answered PENDING and waits. -/
def Pended (s : State) (x : Session) (op : Opcode) (m : Msg) (what : WaitFor) : State :=
  ((s.takeMail op m).await x op m what).answer op m (.of .pending)

/-- Nothing has changed but the sessions, what has left the device, and the state of HOST. -/
abbrev OnlySent (s t : State) : Prop := { t with sessions := s.sessions, out := s.out, host := s.host } = s

/-- The sessions are what they were, but for their counts of entries lost from the device's ring (R334). -/
abbrev SessionsKept (s t : State) : Prop :=
  t.sessions.map (fun x => { x with ownLost := 0 }) = s.sessions.map (fun x => { x with ownLost := 0 })

/-- Is the frame an HS frame that breaks no check of R310? -/
def HsFits (s : State) (x : QFrame × Segment) : Bool :=
  x.1.ver == 1 && x.1.kind == 2 && x.1.rsvd == 0 && x.1.session == 0 && x.1.sgen == 0 && x.2.rsvd == 0 && (x.1.sec || !s.host.cfg.macsecReq)

/-- The segments of the handshake and address of a frame, in order of their offsets (R309). -/
def HsRun (s : State) (frames : List (QFrame × Segment)) (f : QFrame × Segment) : List Segment :=
  sortBy (fun (g : Segment) => g.off) (((frames.filter (HsFits s)).filter (fun x => x.1.seq == f.1.seq && x.1.peer == f.1.peer)).map (fun x => x.2))

/-- The queue of a number in a context. -/
def QueueOf (s : State) (id q : Nat) : Option Queue := (s.ctx? id).bind (fun c => c.queue? q)

/-- The record of a sequence number and iteration in a queue. -/
def RecOf (s : State) (id q seq iter : Nat) : Option Rec := (QueueOf s id q).bind (fun x => x.rec? seq iter)

/-- Has the record ended, with this status and these results? `signals`: its fence may be signalled. -/
abbrev Ended (s : State) (id q seq iter : Nat) (st : Status) (res0 res1 : Nat) (signals : Bool) : Prop :=
  (RecOf s id q seq iter).map (fun r => r.phase) = some (.ended st res0 res1 signals)

/-- No other engine meets what the record reaches or writes, and no tensor of a step lies in what it writes (R81, R241). -/
def Undisturbed (s : State) (c : Ctx) (x : Queue) (r : Rec) : Bool :=
  !s.entangled c x r && c.guarded.all (fun k => !((s.stores c x r).any (fun b =>
    b.overlaps { space := k.space, addr := k.addr, bytes := k.bytes } && (k.space == 0 || k.queue == x.number))))

/-- A region that lies in one private HBM page of a context, under the context's key, without poison, whose counters and key have
uses left for every block of the page. -/
def PlainRegion (s : State) (c : Ctx) (va n f : Nat) : Bool :=
  n != 0 && decide (va % pageSize + n ≤ pageSize) && decide (va + n ≤ 2 ^ 48)
    && (match c.page? (vpage va) with
      | some p => p.hbm == some f && p.tier.isNone && p.lease.isNone && p.share.isNone && !p.lost && !p.ro && p.keyId == 0 && !p.snap
      | none => false)
    && (s.mem.meta f).poison.isEmpty && decide ((s.mem.meta f).high + 2 ^ 14 < 2 ^ 24)
    && (match s.vault.bank.find? (fun b => b.ctx == c.id) with
      | some b => decide (b.uses + 2 ^ 14 ≤ b.limit)
      | none => false)

/-- The commands that end a stop (R433, R424, R519). -/
def Resets : Instr → Bool
  | .resetNAssert _ _ | .coldReset _ | .internalColdReset _ => true
  | _ => false

/-- The device has stopped, and no command that waits ends the stop. -/
def Stopped (s : State) : Prop := s.hub.halt.isSome = true ∧ ∀ c ∈ s.pending, Resets c = false

end Sys2Proof
end

