-- ==== Sys2Proof/Certificates/Slice0/Obligations.lean ====
section
/-!
DEFINITION. Certificates/Slice0/Obligations.lean: the statements for the provers. OBLIGATIONS.json lists them in this order.
-/
open Sys2Proof Sys2Proof.Machine

/-- A step carries out the command at the front of the queue, with the rest of the queue (LOG 1). -/
def Obligations.StepTakesFrontCommand : Prop :=
  (∀ (c : Instr) (rest : List Instr) (s : State),
    s.pending = c :: rest →
    step s = exec c { s with pending := rest })

/-- An empty queue: one count of the hub timer (R33); the tick itself is DESIGN CHOICE (LOG 2). -/
def Obligations.IdleStepAdvancesTimer : Prop :=
  (∀ (s : State),
    s.pending = [] →
    s.hub.timerHeld = false →
    s.hub.inReset = false →
    s.hub.halt ≠ some .refclk →
    step s = .next { s with hub := { s.hub with timer := s.hub.timer + 1 } }) ∧
  (∀ (s : State),
    s.pending = [] →
    s.hub.timerHeld = true →
    step s = .next s)

/-- A device that has stopped resumes only through a reset (R34, R433, R509, R517). -/
def Obligations.StoppedDeviceStaysStopped : Prop :=
  (∀ (s t : State),
    Stopped s →
    step s = .next t →
    Stopped t ∧
      t.mem = s.mem ∧
      t.vault = s.vault ∧
      t.otp = s.otp ∧
      t.flash = s.flash ∧
      t.sessions = s.sessions ∧
      t.fences = s.fences ∧
      t.shares = s.shares ∧
      t.ledger = s.ledger ∧
      t.waits = s.waits ∧
      t.links = s.links ∧
      t.logs = s.logs ∧
      t.moves = s.moves)

/-- What reset leaves: the values that the spec gives, and of the shipped device those of LOG 4 and LOG 18. -/
def Obligations.ResetLeavesShippedDevice : Prop :=
  (State.reset.alive = true ∧
      State.reset.hub.timer = 0 ∧
      State.reset.sessions = [] ∧
      State.reset.ctxs = [] ∧
      State.reset.fences = [] ∧
      State.reset.shares = [] ∧
      State.reset.waits = [] ∧
      State.reset.links.leases = [] ∧
      State.reset.mem.cells = [] ∧
      State.reset.mem.wf = true ∧
      State.reset.power.cfg = { budget := 720, vmax := 850, rateTarget := 2100, deviceCap := 2800, linkBudget := 200 } ∧
      State.reset.links.ports = List.replicate 16 {} ∧
      State.reset.life.inForce = decodeLife State.reset.otp.lc ∧
      State.reset.life.inForce = .fielded ∧
      State.reset.conf = true ∧
      State.reset.otp.bootEpoch = 1 ∧
      State.reset.pending = [])

/-- RESET_N (R519), the cold reset and boot (R33, R35, R433, R434, R451), and the internal cold reset (R424, R442). -/
def Obligations.ResetAndBoot : Prop :=
  (∀ (ns : Nat) (s : State),
    1000 ≤ ns →
    ∃ t, exec (.resetNAssert ns true) s = .next t ∧
      t.hub.inReset = true ∧ t.hub.timer = 0 ∧ t.otp = s.otp ∧ t.flash = s.flash ∧ t.pending = s.pending ∧ t.ctxs = [] ∧ t.sessions = [] ∧ t.vault = ({} : Vault) ∧ t.mem = ({} : Memory) ∧ t.links = Links.boot ∧ t.logs = ({} : Logs) ∧ t.fences = []) ∧
  (∀ (env : BootEnv) (s : State),
    s.hub.inReset = true →
    decodeLife s.otp.lc ≠ .scrapped →
    s.otp.bootEpoch < bootPositions →
    env.unwrapOk = true →
    s.otp.root ≠ .blank →
    s.otp.root ≠ .erased →
    env.bridgeOk = true →
    shake256 (slice s.flash.identity 0 1512) 64 = s.otp.identityDigest →
    (s.imageValid 0 || s.imageValid 1) = true →
    ∃ t, exec (.coldReset env) s = .next t ∧
      t.alive = true ∧ t.hub.timer = 0 ∧ t.otp.bootEpoch = s.otp.bootEpoch + 1 ∧ t.life.inForce = decodeLife s.otp.lc ∧ t.hub.straps = env ∧ t.mem = bootMemory s.otp ∧ t.cores = bootCores s.otp ∧ t.ctxs = [] ∧ t.sessions = [] ∧ t.fences = [] ∧ t.power = Power.boot ∧ t.life.opKey = s.otp.opKeys.getLast? ∧ t.pending = s.pending ∧ t.life.mode = (modeOfBoot (requestedMode false env) s.otp.sealEpoch).1 ∧ t.otp.sealEpoch = (modeOfBoot (requestedMode false env) s.otp.sealEpoch).2) ∧
  (∀ (env : BootEnv) (s : State),
    s.hub.inReset = true →
    decodeLife s.otp.lc ≠ .scrapped →
    s.otp.bootEpoch < bootPositions →
    env.bridgeOk = true →
    shake256 (slice s.flash.identity 0 1512) 64 = s.otp.identityDigest →
    (s.imageValid 0 || s.imageValid 1) = true →
    s.otp.root = .blank →
    ∃ t, exec (.coldReset env) s = .next t ∧
      t.alive = true ∧ t.otp.bootEpoch = s.otp.bootEpoch + 1 ∧ (∃ v, t.otp.root = .drawn v ∧ v.length = 32) ∧ t.mem = bootMemory s.otp ∧ t.cores = bootCores s.otp) ∧
  (∀ (env : BootEnv) (due : Nat) (s : State),
    s.hub.inReset = false →
    s.hub.resetDue = some due →
    due ≤ s.hub.timer →
    decodeLife s.otp.lc ≠ .scrapped →
    s.otp.bootEpoch < bootPositions →
    env.unwrapOk = true →
    s.otp.root ≠ .blank →
    s.otp.root ≠ .erased →
    env.bridgeOk = true →
    shake256 (slice s.flash.identity 0 1512) 64 = s.otp.identityDigest →
    (s.imageValid 0 || s.imageValid 1) = true →
    ∃ t, exec (.internalColdReset env) s = .next t ∧
      t.alive = true ∧ t.hub.timer = 0 ∧ t.otp.bootEpoch = s.otp.bootEpoch + 1 ∧ t.life.inForce = decodeLife s.otp.lc ∧ t.hub.straps = env ∧ t.mem = bootMemory s.otp ∧ t.cores = bootCores s.otp ∧ t.ctxs = [] ∧ t.sessions = [] ∧ t.fences = [] ∧ t.power = Power.boot ∧ t.life.opKey = s.otp.opKeys.getLast? ∧ t.pending = s.pending ∧ t.life.mode = (modeOfBoot (requestedMode s.life.retained env) s.otp.sealEpoch).1 ∧ t.life.forceOpen = s.life.retained ∧ t.life.retained = false)

/-- R34, R517, the comparators of R508 and R522. R516. -/
def Obligations.SupplyFaultsStopDevice : Prop :=
  (∀ (ns : Nat) (s : State),
    s.hub.inReset = false →
    1000 ≤ ns →
    ∃ t, exec (.refclkMissing ns) s = .next t ∧
      t = { s with hub := { s.hub with halt := some .refclk, alertN := true, timerHeld := true } }) ∧
  (∀ (rail ns : Nat) (s : State),
    s.hub.inReset = false →
    1000 ≤ ns →
    ∃ t, exec (.railOutOfRange rail ns) s = .next t ∧
      t = { s with hub := { s.hub with halt := some .rail, alertN := true, selfRefresh := true } }) ∧
  (∀ (die : Nat) (temp : Int) (s : State),
    logicDie die = true →
    896 ≤ temp →
    ∃ t, exec (.thermTripComparator die temp) s = .next t ∧
      t = { s with hub := { s.hub with thermTripN := true } }) ∧
  (∀ (tile : Nat) (temp : Int) (x : Tile) (s : State),
    s.hub.inReset = false →
    840 ≤ temp →
    s.power.tiles[tile]? = some x →
    ∃ t, exec (.thermalBrakeComparator tile temp) s = .next t ∧
      (∃ y, t.power.tiles[tile]? = some y ∧ y.brake = true ∧ y.teller.grants = [] ∧ y.teller.revoked = x.teller.revoked ++ x.teller.grants) ∧ t.mem = s.mem ∧ t.logs = s.logs ∧ t.out = s.out ∧ t.sessions = s.sessions ∧ t.hub = s.hub ∧ t.cores = s.cores) ∧
  (∀ (tile : Nat) (x : Tile) (s : State),
    s.alive = true →
    tile < 6 →
    s.power.tiles[tile]? = some x →
    ∃ t, exec (.vcoreUndervoltage tile) s = .next t ∧
      (∃ y, t.power.tiles[tile]? = some y ∧ y.underVolt = 2 ∧ y.teller.grants = []) ∧ s.logs.recNo < t.logs.recNo ∧ t.cores = s.cores ∧ (∀ c ∈ t.ctxs, ∀ q ∈ c.queues, ∀ r ∈ q.recs, r.onTile tile = false) ∧ (∀ id q seq iter r, RecOf s id q seq iter = some r → r.onTile tile = true → ∃ a b, Ended t id q seq iter .uncorrectable a b true) ∧ (∀ id q seq iter r, RecOf s id q seq iter = some r → (∀ c ∈ s.ctxs, c.id = id → ∀ y ∈ c.queues, y.number = q → ∀ z ∈ y.recs, z.seq = seq → z.iter = iter → z.onTile tile = false) → RecOf t id q seq iter = some r))

/-- The brake (R501–R503). -/
def Obligations.BrakeRevokesAndReasks : Prop :=
  (∀ (ns : Nat) (s : State),
    s.hub.inReset = false →
    s.hub.brakePin = false →
    10 ≤ ns →
    s.alive = true →
    s.power.brakeUntil = none →
    ∃ t, exec (.pwrBrakeAssert ns) s = .next t ∧
      t.hub.brakePin = true ∧ (∀ n y, n < 6 → t.power.tiles[n]? = some y → y.teller.grants = []) ∧ (∀ n y, n < 2 → t.power.linkTellers[n]? = some y → y.grants = []) ∧ t.power.brakeUntil = some (s.hub.timer + 2 ^ 20) ∧ t.power.brakeCount = 0 ∧ t.logs.rseq = s.logs.rseq + 1 ∧ t.mem = s.mem ∧ SessionsKept s t ∧ t.vault = s.vault ∧ t.out = s.out) ∧
  (∀ (n : Nat) (x : Tile) (s : State),
    s.hub.brakePin = true →
    n < 6 →
    s.power.tiles[n]? = some x →
    x.brake = false →
    x.underVolt = 0 →
    ∃ t, exec (.pwrBrakeRelease) s = .next t ∧
      t.hub.brakePin = false ∧ (∃ y, t.power.tiles[n]? = some y ∧ y.teller.queue = x.teller.revoked ++ x.teller.queue ∧ y.teller.revoked = [] ∧ y.teller.window = 0 ∧ y.teller.grants = x.teller.grants) ∧ t.mem = s.mem ∧ t.ctxs = s.ctxs ∧ t.logs = s.logs ∧ t.out = s.out) ∧
  (∀ (due : Nat) (s : State),
    s.power.brakeUntil = some due →
    s.alive = true →
    due ≤ s.hub.timer →
    s.power.brakeCount = 0 →
    ∃ t, exec (.brakeEventInterval) s = .next t ∧
      t = { s with power := { s.power with brakeUntil := none } }) ∧
  (∀ (due : Nat) (s : State),
    s.power.brakeUntil = some due →
    s.alive = true →
    due ≤ s.hub.timer →
    0 < s.power.brakeCount →
    ∃ t, exec (.brakeEventInterval) s = .next t ∧
      t.logs.rseq = s.logs.rseq + 1 ∧ t.power.brakeCount = 0 ∧ t.power.brakeUntil = some (s.hub.timer + 2 ^ 20) ∧ t.hub = s.hub ∧ t.mem = s.mem ∧ t.ctxs = s.ctxs)

/-- The sample period (R504, R506, R508, R509), the regulators (R505), and the stacks (R184, R185, R187, the drain of R181). -/
def Obligations.ReadingsSetTilesAndStacks : Prop :=
  (∀ (r : Readings) (n : Nat) (x : Tile) (q : TileReading) (s : State),
    s.alive = true →
    s.power.lastSample + 2 ^ 14 ≤ s.hub.timer →
    n < 6 →
    s.power.tiles[n]? = some x →
    r.tiles[n]? = some q →
    ∃ t, exec (.samplePeriod r) s = .next t ∧
      t.power.lastSample = s.hub.timer ∧ t.power.watts = r.watts ∧ t.power.cfg = { s.power.next with budget := s.power.cfg.budget } ∧ (∃ y, t.power.tiles[n]? = some y ∧ y.rate = q.beatRate ∧ y.seenMv = q.mv ∧ y.amps = q.amps) ∧ t.mem = s.mem ∧ SessionsKept s t ∧ t.vault = s.vault ∧ t.cores = s.cores) ∧
  (∀ (r : Readings) (n : Nat) (x : Tile) (q : TileReading) (v : Int) (s : State),
    s.alive = true →
    s.power.lastSample + 2 ^ 14 ≤ s.hub.timer →
    n < 6 →
    s.power.tiles[n]? = some x →
    x.invalid = false →
    r.tiles[n]? = some q →
    q.temp = some v →
    880 ≤ v →
    ∃ t, exec (.samplePeriod r) s = .next t ∧
      t.hub.halt = some Halt.trip ∧ t.hub.alertN = true ∧ t.hub.thermTripN = true ∧ t.hub.selfRefresh = true ∧ t.mem = s.mem ∧ SessionsKept s t) ∧
  (∀ (n asked : Nat) (x : Tile) (s : State),
    s.alive = true →
    s.power.tiles[n]? = some x →
    x.asked = some asked →
    asked + 2 ^ 16 ≤ s.hub.timer →
    ∃ t, exec (.avsbusSilent n) s = .next t ∧
      (∃ y, t.power.tiles[n]? = some y ∧ y.mv = x.confirmed ∧ y.raise = none ∧ y.asked = none ∧ y.silent = true) ∧ t.logs.recNo = s.logs.recNo + 1 ∧ t.mem = s.mem ∧ t.ctxs = s.ctxs ∧ t.cores = s.cores) ∧
  (∀ (n mv : Nat) (x : Tile) (s : State),
    s.alive = true →
    s.power.tiles[n]? = some x →
    x.asked.isSome = true →
    x.mv = mv →
    x.raise = none →
    ∃ t, exec (.voltageConfirmed n mv) s = .next t ∧
      (∃ y, t.power.tiles[n]? = some y ∧ y.confirmed = mv ∧ y.mv = mv ∧ y.asked = none ∧ y.silent = false) ∧ t.out = s.out ∧ t.ctxs = s.ctxs ∧ t.mem = s.mem) ∧
  (∀ (k : Nat) (temp : Int) (x : Stack) (s : State),
    s.hub.inReset = false →
    s.hbmStacks[k]? = some x →
    x.invalid = false →
    ∃ t, exec (.stackTempReport k (some temp)) s = .next t ∧
      (∃ y, t.hbmStacks[k]? = some y ∧ y.temp = temp ∧ y.invalid = false ∧ (760 < temp → y.refresh = 4) ∧ (744 < temp → x.refresh = 4 → y.refresh = 4) ∧ (temp ≤ 744 → 680 < temp → y.refresh = 2) ∧ (temp ≤ 680 → 664 < temp → 2 ≤ x.refresh → y.refresh = 2) ∧ (temp ≤ 664 → y.refresh = 1) ∧ (y.capped = true ↔ y.refresh = 4) ∧ (y.capped = x.capped → { t with hbmStacks := s.hbmStacks } = s)) ∧ t.mem = s.mem ∧ t.power = s.power ∧ t.ctxs = s.ctxs ∧ t.hub = s.hub ∧ t.out = s.out) ∧
  (∀ (k : Nat) (x : Stack) (s : State),
    s.hub.inReset = false →
    s.hbmStacks[k]? = some x →
    ∃ t, exec (.stackTempReport k none) s = .next t ∧
      (∃ y, t.hbmStacks[k]? = some y ∧ y.refresh = 4 ∧ y.capped = true ∧ y.invalid = true ∧ y.temp = x.temp ∧ (x.capped = true → { t with hbmStacks := s.hbmStacks } = s)) ∧ t.mem = s.mem ∧ t.power = s.power ∧ t.ctxs = s.ctxs ∧ t.hub = s.hub ∧ t.out = s.out) ∧
  (∀ (k : Nat) (temp : Option Int) (x : Stack) (s : State),
    s.alive = true →
    s.hub.inReset = false →
    s.hbmStacks[k]? = some x →
    (x.report temp).capped ≠ x.capped →
    x.level ≠ (x.report temp).levelNow →
    ∃ t, exec (.stackTempReport k temp) s = .next t ∧
      t.logs.rseq = s.logs.rseq + 1 ∧ (∃ y, t.hbmStacks[k]? = some y ∧ y.level = (x.report temp).levelNow)) ∧
  (∀ (k : Nat) (temp : Int) (x : Stack) (s : State),
    s.hub.inReset = false →
    s.hbmStacks[k]? = some x →
    x.invalid = true →
    x.valid = 0 →
    ∃ t, exec (.stackTempReport k (some temp)) s = .next t ∧
      (∃ y, t.hbmStacks[k]? = some y ∧ y.refresh = x.refresh ∧ y.capped = x.capped ∧ y.invalid = true ∧ y.valid = 1)) ∧
  (∀ (k ch : Nat) (x : Stack) (s : State),
    s.alive = true →
    s.hub.selfRefresh = false →
    s.hbmStacks[k]? = some x →
    ∃ t, exec (.hbmWriteDrain k ch) s = .next t ∧
      (∃ y, t.hbmStacks[k]? = some y ∧ (16 ≤ (x.writes.filter (fun w => w.1 == ch)).length → y.writes = x.writes.filter (fun w => w.1 != ch)) ∧ ((x.writes.filter (fun w => w.1 == ch)).length < 16 → y = x)) ∧ { t with hbmStacks := s.hbmStacks } = s)

/-- R494–R498. -/
def Obligations.TellerGrantsOldestThatFits : Prop :=
  (∀ (n : Nat) (x : Tile) (l : LeaveFor) (rest : List LeaveFor) (s : State),
    s.alive = true →
    s.gateClosed n = false →
    s.power.tiles[n]? = some x →
    x.teller.queue = l :: rest →
    x.teller.held x.band + l.cost x.band ≤ x.budget s.power.cfg.budget →
    x.teller.window + l.cost x.band ≤ 128 →
    ∃ t, exec (.leaveGrant (.tile n)) s = .next t ∧
      (∃ y, t.power.tiles[n]? = some y ∧ y.teller.queue = rest ∧ y.teller.grants = x.teller.grants ++ [l] ∧ y.teller.window = x.teller.window + l.cost x.band) ∧ t.mem = s.mem ∧ t.out = s.out ∧ t.logs = s.logs ∧ t.sessions = s.sessions) ∧
  (∀ (n : Nat) (x : Tile) (l : LeaveFor) (rest : List LeaveFor) (s : State),
    s.alive = true →
    s.power.tiles[n]? = some x →
    x.teller.queue = l :: rest →
    x.budget s.power.cfg.budget < x.teller.held x.band + l.cost x.band ∨ 128 < x.teller.window + l.cost x.band →
    ∃ t, exec (.leaveGrant (.tile n)) s = .next t ∧
      t = s) ∧
  (∀ (n : Nat) (x : Teller) (l : LeaveFor) (rest : List LeaveFor) (s : State),
    s.alive = true →
    s.hub.brakePin = false →
    s.power.linkTellers[n]? = some x →
    x.queue = l :: rest →
    x.held 0 + l.cost 0 ≤ s.power.cfg.linkBudget →
    x.window + l.cost 0 ≤ 128 →
    ∃ t, exec (.leaveGrant (.link n)) s = .next t ∧
      (∃ y, t.power.linkTellers[n]? = some y ∧ y.queue = rest ∧ y.grants = x.grants ++ [l] ∧ y.window = x.window + l.cost 0) ∧ t.mem = s.mem ∧ t.ctxs = s.ctxs ∧ t.sessions = s.sessions) ∧
  (∀ (n : Nat) (x : Tile) (s : State),
    s.alive = true →
    s.power.tiles[n]? = some x →
    ∃ t, exec (.pacingWindow (.tile n)) s = .next t ∧
      (∃ y, t.power.tiles[n]? = some y ∧ y.teller = { x.teller with window := 0 }) ∧ { t with power := s.power } = s) ∧
  (∀ (k : Nat) (x : Stack) (y : Tile) (s : State),
    s.alive = true →
    s.hbmStacks[k]? = some x →
    x.train = true →
    x.lastReq + 2 ^ 8 ≤ s.hub.timer →
    s.power.tiles[k / 2]? = some y →
    ∃ t, exec (.hbmTrainIdle k) s = .next t ∧
      (∃ z, t.hbmStacks[k]? = some z ∧ z = { x with train := false }) ∧ (∃ z, t.power.tiles[k / 2]? = some z ∧ z.teller.grants = y.teller.grants.filter (fun l => l != .train k)) ∧ t.mem = s.mem ∧ t.ctxs = s.ctxs)

/-- R500 and Table 16-3. -/
def Obligations.PowerConfigSetsAndReads : Prop :=
  (∀ (m : Msg) (x : Session) (s : State),
    Admits s .powerConfig m x = true →
    x.role = .management →
    m.length = 16 →
    anySet (ofLe m.payload) 127 80 = false →
    (powerCfgOf (ofLe m.payload)).inRange (!s.conf && flag s.life.rights 5) = true →
    ∃ t, exec (.powerConfig m) s = .next t ∧
      t.power.next = powerCfgOf (ofLe m.payload) ∧ t.power.cfg = { s.power.cfg with budget := (powerCfgOf (ofLe m.payload)).budget } ∧ Answered s t .powerConfig m { status := .ok, payload := (powerCfgOf (ofLe m.payload)).bytes } ∧ OnlySent s { t with power := s.power }) ∧
  (∀ (m : Msg) (x : Session) (s : State),
    Admits s .powerConfig m x = true →
    x.role = .management →
    m.length = 0 →
    ∃ t, exec (.powerConfig m) s = .next t ∧
      Answered s t .powerConfig m { status := .ok, payload := s.power.next.bytes } ∧ OnlySent s t) ∧
  (∀ (m : Msg) (x : Session) (s : State),
    Admits s .powerConfig m x = true →
    x.role = .management →
    m.length = 16 →
    anySet (ofLe m.payload) 127 80 = false →
    (powerCfgOf (ofLe m.payload)).inRange (!s.conf && flag s.life.rights 5) = false →
    ∃ t, exec (.powerConfig m) s = .next t ∧
      Answered s t .powerConfig m { status := .denied, payload := s.power.next.bytes } ∧ OnlySent s t)

/-- R330, R428, R469, R540. -/
def Obligations.ReadingRequestsChangeNothing : Prop :=
  (∀ (m : Msg) (x : Session) (s : State),
    Admits s .heartbeat m x = true →
    m.length = 0 →
    ∃ t, exec (.heartbeat m) s = .next t ∧
      Answered s t .heartbeat m { status := .ok, arg0 := s.hub.timer, payload := toLe 4 s.otp.bootEpoch ++ toLe 4 0 } ∧ OnlySent s t) ∧
  (∀ (m : Msg) (x : Session) (s : State),
    Admits s .lcRead m x = true →
    m.length = 0 →
    ∃ t, exec (.lcRead m) s = .next t ∧
      Answered s t .lcRead m { status := .ok, payload := s.lifeReport } ∧ OnlySent s t) ∧
  (∀ (m : Msg) (x : Session) (w : Nat) (s : State),
    Admits s .errRead m x = true →
    m.length = 8 →
    x.role = .management →
    m.ctxGen = 0 →
    w = ofLe (slice m.payload 0 8) →
    anySet w 63 42 = false →
    ∃ t, exec (.errRead m) s = .next t ∧
      (∃ a, Answered s t .errRead m { status := .ok, arg0 := a, payload := ((s.logs.records.filter (fun r => decide (field w 31 0 ≤ r.1))).take (field w 41 32)).flatMap (fun r => r.2.take 64) }) ∧ OnlySent s t) ∧
  (∀ (m : Msg) (x : Session) (n : Nat) (s : State),
    Admits s .telemetry m x = true →
    m.length = 0 →
    m.arg0 = n →
    n ≤ 4 →
    x.role = .management →
    ∃ t, exec (.telemetry m) s = .next t ∧
      Answered s t .telemetry m { status := s.telemetryStatus, payload := s.section_ n false } ∧ OnlySent s t)

/-- Completion of R504, R505, R185–R187 and the drain of R181. -/
def Obligations.PowerAndStackCommandsComplete : Prop :=
  (∀ (k : Nat) (temp : Option Int) (x : Stack) (s : State),
    s.hub.inReset = false →
    s.hbmStacks[k]? = some x →
    ∃ t, exec (.stackTempReport k temp) s = .next t ∧
      (∃ y, t.hbmStacks[k]? = some y ∧ { y with level := 0 } = { x.report temp with level := 0 }) ∧ (∀ j, j ≠ k → t.hbmStacks[j]? = s.hbmStacks[j]?) ∧ t.mem = s.mem ∧ t.power = s.power ∧ t.ctxs = s.ctxs) ∧
  (∀ (r : Readings) (s : State),
    s.alive = true →
    s.power.lastSample + 2 ^ 14 ≤ s.hub.timer →
    ∃ t, exec (.samplePeriod r) s = .next t ∧
      t.power.lastSample = s.hub.timer ∧ t.power.watts = r.watts ∧ t.power.cfg = { s.power.next with budget := s.power.cfg.budget } ∧ t.power.tiles.length = s.power.tiles.length ∧ t.mem = s.mem ∧ t.cores = s.cores) ∧
  (∀ (n asked : Nat) (x : Tile) (s : State),
    s.alive = true →
    s.power.tiles[n]? = some x →
    x.asked = some asked →
    asked + 2 ^ 16 ≤ s.hub.timer →
    ∃ t, exec (.avsbusSilent n) s = .next t ∧
      t.power.tiles[n]? = some { x with mv := x.confirmed, raise := none, asked := none, silent := true } ∧ (∃ k ∈ t.logs.records, k.1 = s.logs.recNo) ∧ t.mem = s.mem ∧ t.ctxs = s.ctxs ∧ t.hub = s.hub) ∧
  (∀ (n : Nat) (x : Tile) (s : State),
    s.alive = true →
    s.power.tiles[n]? = some x →
    x.asked.isSome = true →
    ∃ t, exec (.voltageConfirmed n x.mv) s = .next t ∧
      (∃ y, t.power.tiles[n]? = some y ∧ y.confirmed = x.mv ∧ y.silent = false) ∧ t.mem = s.mem ∧ t.ctxs = s.ctxs ∧ t.out = s.out) ∧
  (∀ (k ch : Nat) (x : Stack) (s : State),
    s.alive = true →
    s.hub.selfRefresh = false →
    s.hbmStacks[k]? = some x →
    ∃ t, exec (.hbmWriteDrain k ch) s = .next t ∧
      t.hbmStacks[k]? = some { x with writes := if 16 ≤ (x.writes.filter (fun w => w.1 == ch)).length then x.writes.filter (fun w => w.1 != ch) else x.writes } ∧ { t with hbmStacks := s.hbmStacks } = s)

/-- R421–R427. -/
def Obligations.LifeCycleAdvances : Prop :=
  (∀ (m : Msg) (x : Session) (target : LifeState) (auth index : Nat) (s : State),
    Admits s .lcAdvance m x = true →
    target = lifeOfCode (ofLe (slice m.payload 0 1)) →
    auth = ofLe (slice m.payload 1 1) →
    index = ofLe (slice m.payload 2 1) →
    m.length = 192 →
    1 ≤ ofLe (slice m.payload 0 1) ∧ ofLe (slice m.payload 0 1) ≤ 4 →
    auth = 0 ∧ index ≤ 3 ∨ auth = 1 ∧ index = 0 →
    (allZero (slice m.payload 3 5) && allZero (slice m.payload 65 7) && allZero (slice m.payload 186 6)) = true →
    s.otp.lc.length = 3 →
    lifeRow s.life.inForce target = true →
    target ≠ s.life.inForce →
    s.mayAdvance target auth index (slice m.payload 8 57) = true →
    s.verifies (slice m.payload 8 57) (shake256 (s.otp.identityDigest ++ toLe 1 (ofLe (slice m.payload 0 1)) ++ ascii "lc advance") 64) (slice m.payload 72 114) = true →
    target ≠ .scrapped →
    ∃ t, exec (.lcAdvance m .whole) s = .next t ∧
      (∃ u, Answered s u .lcAdvance m (.of .ok) ∧ OnlySent { s with otp := { s.otp with lc := s.otp.lc.map (fun w => w ||| target.word), sealEpoch := if target = .returned then min 64 (s.otp.sealEpoch + 2) else s.otp.sealEpoch }, life := (if target = .integrator then { s.life with rights := 0 } else s.life), hub := { s.hub with resetDue := some (s.hub.resetDue.getD (s.hub.timer + 2 ^ 20)) } } u ∧ t = if s.hub.resetDue = none then u.closeAll else u)) ∧
  (∀ (m : Msg) (x : Session) (target : LifeState) (auth index : Nat) (s : State),
    Admits s .lcAdvance m x = true →
    target = lifeOfCode (ofLe (slice m.payload 0 1)) →
    auth = ofLe (slice m.payload 1 1) →
    index = ofLe (slice m.payload 2 1) →
    m.length = 192 →
    1 ≤ ofLe (slice m.payload 0 1) ∧ ofLe (slice m.payload 0 1) ≤ 4 →
    auth = 0 ∧ index ≤ 3 ∨ auth = 1 ∧ index = 0 →
    (allZero (slice m.payload 3 5) && allZero (slice m.payload 65 7) && allZero (slice m.payload 186 6)) = true →
    s.otp.lc.length = 3 →
    lifeRow s.life.inForce target = true →
    target ≠ s.life.inForce →
    s.mayAdvance target auth index (slice m.payload 8 57) = true →
    s.verifies (slice m.payload 8 57) (shake256 (s.otp.identityDigest ++ toLe 1 (ofLe (slice m.payload 0 1)) ++ ascii "lc advance") 64) (slice m.payload 72 114) = true →
    target = .scrapped →
    ∃ t, exec (.lcAdvance m .whole) s = .next t ∧
      (∃ u, Answered s u .lcAdvance m (.of .ok) ∧ OnlySent { s with otp := { s.otp.scrap with lc := s.otp.lc.map (fun w => w ||| target.word) }, hub := { s.hub with resetDue := some (s.hub.resetDue.getD (s.hub.timer + 2 ^ 20)) } } u ∧ t = if s.hub.resetDue = none then u.closeAll else u)) ∧
  (∀ (m : Msg) (x : Session) (target : LifeState) (auth index copy bits : Nat) (s : State),
    Admits s .lcAdvance m x = true →
    target = lifeOfCode (ofLe (slice m.payload 0 1)) →
    auth = ofLe (slice m.payload 1 1) →
    index = ofLe (slice m.payload 2 1) →
    m.length = 192 →
    1 ≤ ofLe (slice m.payload 0 1) ∧ ofLe (slice m.payload 0 1) ≤ 4 →
    auth = 0 ∧ index ≤ 3 ∨ auth = 1 ∧ index = 0 →
    (allZero (slice m.payload 3 5) && allZero (slice m.payload 65 7) && allZero (slice m.payload 186 6)) = true →
    s.otp.lc.length = 3 →
    lifeRow s.life.inForce target = true →
    target ≠ s.life.inForce →
    s.mayAdvance target auth index (slice m.payload 8 57) = true →
    s.verifies (slice m.payload 8 57) (shake256 (s.otp.identityDigest ++ toLe 1 (ofLe (slice m.payload 0 1)) ++ ascii "lc advance") 64) (slice m.payload 72 114) = true →
    target ≠ .scrapped →
    copy < 3 →
    ∃ t, exec (.lcAdvance m (.badCopy copy bits)) s = .next t ∧
      (∀ k w, s.otp.lc[k]? = some w → t.otp.lc[k]? = some (if k < copy then w ||| target.word else if k = copy then w ||| (target.word &&& bits) else w)) ∧ t.hub.resetDue = s.hub.resetDue ∧ t.life.inForce = s.life.inForce ∧ t.logs.recNo = s.logs.recNo + 1 ∧ Answered s t .lcAdvance m (.of .uncorrectable)) ∧
  (∀ (m : Msg) (x : Session) (k : Bytes) (s : State),
    Admits s .lcEnrol m x = true →
    m.length = 192 →
    (allZero (slice m.payload 57 7) && allZero (slice m.payload 178 14)) = true →
    s.life.inForce = .integrator ∨ s.life.inForce = .fielded →
    s.life.opKey = some k →
    s.verifies k (shake256 (s.otp.identityDigest ++ slice m.payload 0 57 ++ ascii "operator enrol") 64) (slice m.payload 64 114) = true →
    s.otp.opKeys.length < 4 →
    ∃ t, exec (.lcEnrol m) s = .next t ∧
      Answered s t .lcEnrol m (.of .ok) ∧ OnlySent { s with otp := { s.otp with opKeys := s.otp.opKeys ++ [slice m.payload 0 57] } } t)

/-- R439–R442. -/
def Obligations.DebugRequestsGrantRights : Prop :=
  (∀ (m : Msg) (x : Session) (r : Nat) (s : State),
    Admits s .debugCert m x = true →
    m.length = 256 →
    (allZero (slice m.payload 6 2) && allZero (slice m.payload 92 20) && allZero (slice m.payload 226 30)) = true →
    r = ofLe (slice m.payload 72 4) →
    r < 128 →
    s.life.inForce ≠ .locked →
    s.life.inForce ≠ .scrapped →
    slice m.payload 8 64 = s.otp.identityDigest →
    ofLe (slice m.payload 76 4) ≤ s.otp.bootEpoch →
    s.otp.bootEpoch ≤ ofLe (slice m.payload 80 4) →
    s.verifies (s.otp.makerKeys.getD (ofLe (slice m.payload 5 1)) []) (slice m.payload 0 112) (slice m.payload 112 114) = true →
    s.conf = false →
    ∃ t, exec (.debugCert m) s = .next t ∧
      Answered s t .debugCert m (.of .ok) ∧ OnlySent { s with life := { s.life with rights := s.life.rights ||| r } } t) ∧
  (∀ (m : Msg) (x : Session) (r : Nat) (s : State),
    Admits s .debugCert m x = true →
    m.length = 256 →
    (allZero (slice m.payload 6 2) && allZero (slice m.payload 92 20) && allZero (slice m.payload 226 30)) = true →
    r = ofLe (slice m.payload 72 4) →
    r < 128 →
    s.life.inForce ≠ .locked →
    s.life.inForce ≠ .scrapped →
    slice m.payload 8 64 = s.otp.identityDigest →
    ofLe (slice m.payload 76 4) ≤ s.otp.bootEpoch →
    s.otp.bootEpoch ≤ ofLe (slice m.payload 80 4) →
    s.verifies (s.otp.makerKeys.getD (ofLe (slice m.payload 5 1)) []) (slice m.payload 0 112) (slice m.payload 112 114) = true →
    s.conf = true →
    s.otp.sealEpoch < 64 →
    ∃ t, exec (.debugCert m) s = .next t ∧
      (∃ u, Answered s u .debugCert m (.of .ok) ∧ OnlySent { s with life := { s.life with retained := true }, hub := { s.hub with resetDue := some (s.hub.resetDue.getD (s.hub.timer + 2 ^ 20)) } } u ∧ t = if s.hub.resetDue = none then u.closeAll else u)) ∧
  (∀ (m : Msg) (x : Session) (s : State),
    Admits s .debugChallenge m x = true →
    m.arg0 = 0 →
    m.length = 0 →
    s.life.inForce ≠ .locked →
    s.life.inForce ≠ .scrapped →
    ∃ t, exec (.debugChallengeNonce m) s = .next t ∧
      Answered s t .debugChallenge m { status := .ok, payload := (s.draw 32).2 ++ s.otp.identityDigest } ∧ OnlySent { s with life := { s.life with nonce := some (s.draw 32).2 }, hub := { s.hub with trng := s.hub.trng + 32 } } t) ∧
  (∀ (m : Msg) (x : Session) (r : Nat) (nn : Bytes) (s : State),
    Admits s .debugChallenge m x = true →
    m.arg0 = 1 →
    m.length = 128 →
    (allZero (slice m.payload 5 3) && allZero (slice m.payload 122 6)) = true →
    r = ofLe (slice m.payload 0 4) →
    r < 128 →
    s.life.inForce ≠ .locked →
    s.life.inForce ≠ .scrapped →
    s.conf = false →
    s.life.nonce = some nn →
    s.verifies (s.otp.makerKeys.getD (ofLe (slice m.payload 4 1)) []) (shake256 (s.otp.identityDigest ++ nn ++ slice m.payload 0 4 ++ ascii "debug response") 64) (slice m.payload 8 114) = true →
    ∃ t, exec (.debugChallengeResponse m) s = .next t ∧
      Answered s t .debugChallenge m (.of .ok) ∧ OnlySent { s with life := { s.life with rights := s.life.rights ||| r, nonce := none } } t)

/-- R435–R438, R444, R456. -/
def Obligations.FirmwareStagesAndActivates : Prop :=
  (∀ (m : Msg) (x : Session) (s : State),
    Admits s .fwStage m x = true →
    s.life.inForce ≠ .locked →
    s.life.inForce ≠ .scrapped →
    m.arg0 < 2 ^ 24 →
    s.life.trial = none →
    m.arg0 + m.length ≤ slotBytes →
    ∃ t, exec (.fwStage m) s = .next t ∧
      Answered s t .fwStage m (.of .ok) ∧ OnlySent { s with flash := s.flash.writeSlot (1 - s.flash.bootCfg.2.active) m.arg0 (m.payload.take m.length) } t) ∧
  (∀ (m : Msg) (x : Session) (s : State),
    Admits s .fwActivate m x = true →
    m.length = 0 →
    s.life.inForce ≠ .locked →
    s.life.inForce ≠ .scrapped →
    s.life.trial = none →
    s.imageWhole s.stagedSlot = true →
    s.svnRuns s.stagedSlot = true →
    ∃ t, exec (.fwActivate m) s = .next t ∧
      Answered s t .fwActivate m (.of .pending) ∧ t.life.trial = some { slot := s.stagedSlot, started := s.hub.timer, session := some x.number, tag := m.tag } ∧ t.flash = s.flash.setCfg (fun g => { g with trial := true, tried := true }) ∧ t.life.rights = s.life.standing ∧ t.life.nonce = none ∧ t.life.inForce = s.life.inForce ∧ t.mem = s.mem ∧ t.otp = s.otp) ∧
  (∀ (v : Trial) (s : State),
    s.alive = true →
    s.life.trial = some v →
    ∃ t, exec (.fwConfirm) s = .next t ∧
      t.life.trial = none ∧ t.life.slot = v.slot ∧ t.otp.svn = max s.otp.svn (s.flash.image v.slot).svn ∧ t.life.build = (s.flash.image v.slot).build ∧ t.life.svn = (s.flash.image v.slot).svn ∧ t.flash = s.flash.setCfg (fun g => { g with active := v.slot, trial := false, updateGen := (g.updateGen + 1) % 2 ^ 32 }) ∧ t.mem = s.mem ∧ t.ctxs = s.ctxs ∧ t.vault = s.vault) ∧
  (∀ (v : Trial) (s : State),
    s.alive = true →
    s.life.trial = some v →
    v.started + 2 ^ 30 ≤ s.hub.timer →
    ∃ t, exec (.fwTrialTimeout) s = .next t ∧
      t.life.trial = none ∧ t.flash = s.flash.setCfg (fun g => { g with trial := false }) ∧ t.life.slot = s.life.slot ∧ t.life.rights = s.life.standing ∧ t.otp = s.otp ∧ t.mem = s.mem) ∧
  (∀ (pair : Nat) (s : State),
    s.alive = true →
    pair < 2 →
    ∃ t, exec (.lockstepMismatch pair) s = .next t ∧
      t.life.rights = s.life.standing ∧ t.life.nonce = none ∧ t.life.hubResets = s.life.hubResets + 1 ∧ t.mem = s.mem ∧ t.otp = s.otp ∧ t.sessions = s.sessions ∧ t.out = s.out) ∧
  (∀ (m : Msg) (x : Session) (s : State),
    Admits s .attest m x = true →
    8 ≤ m.length →
    m.length ≤ 64 →
    s.life.trial = none →
    ∃ t, exec (.attest m) s = .next t ∧
      Answered s t .attest m { status := .ok, payload := (s.evidence (m.payload.take m.length) (s.attestCtx m)).2 } ∧ OnlySent (s.evidence (m.payload.take m.length) (s.attestCtx m)).1 t)

/-- Completion of R422–R426 and R525–R527. R525–R527. -/
def Obligations.I3cServesTheBmc : Prop :=
  (∀ (m : Msg) (x : Session) (target : LifeState) (auth index : Nat) (s : State),
    Admits s .lcAdvance m x = true →
    target = lifeOfCode (ofLe (slice m.payload 0 1)) →
    auth = ofLe (slice m.payload 1 1) →
    index = ofLe (slice m.payload 2 1) →
    m.length = 192 →
    1 ≤ ofLe (slice m.payload 0 1) ∧ ofLe (slice m.payload 0 1) ≤ 4 →
    auth = 0 ∧ index ≤ 3 ∨ auth = 1 ∧ index = 0 →
    (allZero (slice m.payload 3 5) && allZero (slice m.payload 65 7) && allZero (slice m.payload 186 6)) = true →
    s.otp.lc.length = 3 →
    s.mayAdvance target auth index (slice m.payload 8 57) = true →
    s.verifies (slice m.payload 8 57) (shake256 (s.otp.identityDigest ++ toLe 1 (ofLe (slice m.payload 0 1)) ++ ascii "lc advance") 64) (slice m.payload 72 114) = true →
    target = s.life.inForce ∨ lifeRow s.life.inForce target = true →
    s.ctxs.all (fun c => !s.sessions.any (fun y => y.owns c)) = true →
    ∃ t, exec (.lcAdvance m .whole) s = .next t ∧
      Answered s t .lcAdvance m (.of .ok) ∧ t.otp.lc = s.otp.lc.map (fun w => w ||| target.word) ∧ t.mem = s.mem ∧ t.ctxs = s.ctxs) ∧
  (∀ (data : Bytes) (burn : Burn) (tag : Nat) (s : State),
    s.i3cServes = true →
    s.i3c.dynamic.isSome = true →
    s.i3c.answer = none →
    s.life.trial = none →
    tag < 2 ^ 32 →
    data = headerBytes Opcode.lcRead.code false false 0 0 tag 0 0 0 ++ toLe 8 (tally (headerBytes Opcode.lcRead.code false false 0 0 tag 0 0 0)) →
    ∃ t, exec (.i3cPrivateWrite data burn) s = .next t ∧
      t = { s with i3c := { s.i3c with answer := some (i3cFrame Opcode.lcRead.code tag { status := .ok, payload := s.lifeReport }, s.hub.timer) }, out := s.out ++ [Out.ibi 1] }) ∧
  (∀ (data : Bytes) (burn : Burn) (tag : Nat) (s : State),
    s.i3cServes = true →
    s.i3c.dynamic.isSome = true →
    s.i3c.answer = none →
    s.life.trial = none →
    tag < 2 ^ 32 →
    s.alive = true →
    data = headerBytes Opcode.telemetry.code false false 0 0 tag 0 0 3 ++ toLe 8 (tally (headerBytes Opcode.telemetry.code false false 0 0 tag 0 0 3)) →
    ∃ t, exec (.i3cPrivateWrite data burn) s = .next t ∧
      t = { s with i3c := { s.i3c with answer := some (i3cFrame Opcode.telemetry.code tag { status := s.telemetryStatus, payload := s.powerSection true }, s.hub.timer) }, out := s.out ++ [Out.ibi 1] }) ∧
  (∀ (bs : Bytes) (at_ : Nat) (s : State),
    s.i3cServes = true →
    s.i3c.dynamic.isSome = true →
    s.i3c.answer = some (bs, at_) →
    ∃ t, exec (.i3cPrivateRead) s = .next t ∧
      t = { s with i3c := { s.i3c with answer := none }, out := s.out ++ [Out.i3c bs] }) ∧
  (∀ (bs : Bytes) (at_ : Nat) (s : State),
    s.i3cServes = true →
    s.i3c.answer = some (bs, at_) →
    at_ + 2 ^ 28 ≤ s.hub.timer →
    ∃ t, exec (.i3cAnswerDrop) s = .next t ∧
      t = { s with i3c := { s.i3c with answer := none } }) ∧
  (∀ (static : Option Nat) (addr : Nat) (s : State),
    s.i3cServes = true →
    s.i3c.dynamic = none →
    static = none ∨ static = some (if s.hub.straps.i3cSa then 0x3B else 0x3A) →
    ∃ t, exec (.i3cAddressAssign static addr) s = .next t ∧
      t = { s with i3c := { s.i3c with dynamic := some addr } }) ∧
  (∀ (data : Bytes) (burn : Burn) (s : State),
    s.i3cServes = true →
    s.i3c.dynamic.isSome = true →
    s.i3c.answer = none →
    ofLe (slice data (data.length - 8) 8) ≠ tally (data.take (data.length - 8)) →
    ∃ t, exec (.i3cPrivateWrite data burn) s = .next t ∧
      t = { s with i3c := { s.i3c with discarded := s.i3c.discarded + 1 } })

/-- R323–R327, R331. -/
def Obligations.HelloAndKeyExchangeOpenSession : Prop :=
  (∀ (q : QFrame) (g0 : Segment) (more frames : List (QFrame × Segment)) (f : QFrame × Segment) (m : Msg) (n sg : Nat) (s : State),
    s.alive = true →
    s.host.row.isSome = true →
    frames = (q, g0) :: more →
    frames.find? (HsFits s) = some f →
    (HsRun s frames f).any (fun g => g.last) = true →
    msgOf 0 (segsWhole 0 (HsRun s frames f)) ((HsRun s frames f).flatMap (fun g => g.data)) = (Opcode.hello.code, false, false, m) →
    s.helloStatus m = .ok →
    s.nextSession = some (n, sg) →
    ∃ t, exec (.hello q g0 more) s = .next t ∧
      (∃ y, t.sessions = s.sessions ++ [y] ∧ y.number = n ∧ y.gen = sg ∧ y.isOpen = false ∧ y.hsId = f.1.seq ∧ y.peer = f.1.peer ∧ y.role = Role.ofCode (ofLe (slice m.payload 32 1) % 4) ∧ y.hostKey = slice m.payload 1688 57 ∧ y.features = ofLe (slice m.payload 0 16) &&& 1023 ∧ y.segLog2 = ofLe (slice m.payload 33 1) ∧ y.hbPeriod = ofLe (slice m.payload 34 2) ∧ y.helloAt = s.hub.timer) ∧ (∃ p, t.out = s.out ++ Out.hello f.1.seq m.tag 0 (helloMaps ++ p) :: (segmentsOf 0 1024 2 0 (headerBytes Opcode.hello.code true false 0 0 m.tag (helloMaps ++ p).length 0 0 ++ (helloMaps ++ p))).map (fun g => Out.queko (s.host.hdr f.1.peer) { kind := 2, seq := f.1.seq } g)) ∧ t.hub.trng = s.hub.trng + 88 ∧ t.ctxs = s.ctxs ∧ t.mem = s.mem ∧ t.otp = s.otp ∧ t.life = s.life ∧ t.logs = { s.logs with hostDiscarded := min (s.logs.hostDiscarded + (frames.filter (fun x => !HsFits s x)).length) (2 ^ 64 - 1) }) ∧
  (∀ (q : QFrame) (g0 : Segment) (more frames : List (QFrame × Segment)) (f : QFrame × Segment) (m : Msg) (s : State),
    s.alive = true →
    s.host.row.isSome = true →
    frames = (q, g0) :: more →
    frames.find? (HsFits s) = some f →
    (HsRun s frames f).any (fun g => g.last) = true →
    msgOf 0 (segsWhole 0 (HsRun s frames f)) ((HsRun s frames f).flatMap (fun g => g.data)) = (Opcode.hello.code, false, false, m) →
    s.helloStatus m ≠ .ok →
    ∃ t, exec (.hello q g0 more) s = .next t ∧
      (∃ p, t.out = s.out ++ Out.hello f.1.seq m.tag (s.helloStatus m).code (helloMaps ++ p) :: (segmentsOf 0 1024 2 0 (headerBytes Opcode.hello.code true false 0 0 m.tag (helloMaps ++ p).length (s.helloStatus m).code 0 ++ (helloMaps ++ p))).map (fun g => Out.queko (s.host.hdr f.1.peer) { kind := 2, seq := f.1.seq } g)) ∧ t.logs = { s.logs with hostDiscarded := min (s.logs.hostDiscarded + (frames.filter (fun x => !HsFits s x)).length) (2 ^ 64 - 1) } ∧ { t with out := s.out, host := s.host, logs := s.logs } = s) ∧
  (∀ (q : QFrame) (g0 : Segment) (more frames : List (QFrame × Segment)) (s : State),
    s.alive = true →
    s.host.row.isSome = true →
    frames = (q, g0) :: more →
    (frames.filter (HsFits s)).all (fun x => !x.2.last) = true →
    ∃ t, exec (.hello q g0 more) s = .next t ∧
      t.logs = { s.logs with hostDiscarded := min (s.logs.hostDiscarded + (frames.filter (fun x => !HsFits s x)).length) (2 ^ 64 - 1) } ∧ { t with host := s.host, logs := s.logs } = s) ∧
  (∀ (m : Msg) (x : Session) (s : State),
    s.alive = true →
    s.inTurn .keyExchange m = true →
    (s.takeMail .keyExchange m).session? m.session = some x →
    x.isOpen = false →
    (s.takeMail .keyExchange m).refusalOf x .keyExchange m = none →
    m.arg0 = 0 →
    m.length = 128 →
    allZero (slice m.payload 114 14) = true →
    s.verifies x.hostKey (x.transcript ++ ascii "host") (slice m.payload 0 114) = true →
    ∃ t, exec (.keyExchangeOpen m) s = .next t ∧
      Answered s t .keyExchange m (.of .ok) ∧ OnlySent s t ∧ (∃ y, t.session? m.session = some y ∧ y.isOpen = true ∧ y.lastFrame = s.hub.timer ∧ y.role = x.role ∧ y.features = x.features ∧ y.keyIn = x.keyIn ∧ y.keyOut = x.keyOut)) ∧
  (∀ (m : Msg) (x : Session) (s : State),
    s.alive = true →
    s.inTurn .keyExchange m = true →
    (s.takeMail .keyExchange m).session? m.session = some x →
    x.isOpen = false →
    (s.takeMail .keyExchange m).refusalOf x .keyExchange m = none →
    m.arg0 = 1 →
    m.length = 1624 →
    ∃ t, exec (.keyExchangeRekey m) s = .next t ∧
      t.session? m.session = none ∧ ((s.ctxs.all (fun c => !x.owns c)) = true → Answered s t .keyExchange m (.of .denied)))

/-- R328, R329, R417, R536. -/
def Obligations.RekeyAndFeaturesChangeTheirSession : Prop :=
  (∀ (m : Msg) (x : Session) (s : State),
    Admits s .keyExchange m x = true →
    m.arg0 = 1 →
    m.length = 1624 →
    ∃ t, exec (.keyExchangeRekey m) s = .next t ∧
      Answered s t .keyExchange m { status := .ok, payload := exchangeAnswer (s.draw 88).2 m.payload } ∧ OnlySent (s.draw 88).1 t ∧ (∃ y, t.session? m.session = some y ∧ y.keyIn = (kmac256 (x.keyIn ++ sharedOfAnswer (s.draw 88).2 m.payload) x.transcript "QUEKO REKEY" 64).take 32 ∧ y.keyOut = (kmac256 (x.keyIn ++ sharedOfAnswer (s.draw 88).2 m.payload) x.transcript "QUEKO REKEY" 64).drop 32 ∧ y.rx.kphase = !x.rx.kphase ∧ y.tx.kphase = !x.tx.kphase ∧ y.rx.frames = 0 ∧ y.tx.frames = 0 ∧ y.next = none)) ∧
  (∀ (m : Msg) (x : Session) (s : State),
    Admits s .features m x = true →
    m.length = 16 →
    ∃ t, exec (.features m) s = .next t ∧
      Answered s t .features m { status := .ok, payload := toLe 16 (x.features &&& ofLe (slice m.payload 0 16)) } ∧ OnlySent s t ∧ (∃ y, t.session? m.session = some y ∧ y.features = x.features &&& ofLe (slice m.payload 0 16))) ∧
  (∀ (n : Nat) (toHost : Bool) (x : Session) (s : State),
    s.alive = true →
    s.session? n = some x →
    x.isOpen = true →
    2 ^ 47 ≤ x.keyFrames toHost →
    (x.rotation toHost).1 = false →
    ∃ t, exec (.keyRotate n toHost) s = .next t ∧
      (∃ y, t.session? n = some y ∧ (y.rotation toHost).1 = true) ∧ t.logs.ring.getLast? = some { rseq := s.logs.rseq, event := .keyRotate, status := .ok, body := toLe 64 (x.keyFrames toHost % 2 ^ 64 + (if toHost then 2 ^ 64 else 0)), dest := some n } ∧ t.logs.rseq = s.logs.rseq + 1 ∧ t.out = s.out ∧ t.mem = s.mem ∧ t.ctxs = s.ctxs) ∧
  (∀ (n : Nat) (toHost : Bool) (x : Session) (s : State),
    s.alive = true →
    s.session? n = some x →
    x.isOpen = true →
    2 ^ 48 ≤ x.keyFrames toHost →
    (x.rotation toHost).2 = 0 ∨ (x.rotation toHost).2 + 2 ^ 26 ≤ s.hub.timer →
    ∃ t, exec (.keyRotateRepeat n toHost) s = .next t ∧
      (∃ y, t.session? n = some y ∧ y.rotation toHost = (true, s.hub.timer)) ∧ t.logs.ring.getLast? = some { rseq := s.logs.rseq, event := .keyRotate, status := .ok, body := toLe 64 (x.keyFrames toHost % 2 ^ 64 + (if toHost then 2 ^ 64 else 0) + 2 ^ 65), dest := some n } ∧ t.logs.rseq = s.logs.rseq + 1 ∧ t.out = s.out ∧ t.mem = s.mem ∧ t.ctxs = s.ctxs)

/-- R327, R330, R331, R417. R331 and R369. -/
def Obligations.SessionsEnd : Prop :=
  (∀ (n : Nat) (x : Session) (s : State),
    s.alive = true →
    s.session? n = some x →
    x.isOpen = true →
    x.lastFrame + 4 * x.hbPeriod * 2 ^ 20 ≤ s.hub.timer →
    ∃ t, exec (.heartbeatLoss n) s = .next t ∧
      t.session? n = none ∧ (∀ w ∈ t.waits, ¬(w.session = n ∧ w.sgen = x.gen)) ∧ (∃ now, (n, x.gen, now) ∈ t.sessionsFreed) ∧ ((s.ctxs.all (fun c => !x.owns c)) = true → t.mem = s.mem ∧ t.otp = s.otp ∧ t.vault = s.vault ∧ t.links = s.links ∧ t.hub = s.hub ∧ t.fences = s.fences) ∧ ((s.ctxs.all (fun c => !x.owns c)) = true → s.host.row.isSome = true → s.frameOut x { seq := x.tx.seq, kphase := x.tx.kphase, isClose := true, seg := closeSegment .timeout } ∈ t.out.drop s.out.length)) ∧
  (∀ (n : Nat) (x : Session) (s : State),
    s.alive = true →
    s.session? n = some x →
    x.isOpen = false →
    x.helloAt + 2 ^ 28 ≤ s.hub.timer →
    ∃ t, exec (.handshakeTimeout n) s = .next t ∧
      t.session? n = none ∧ (∀ w ∈ t.waits, ¬(w.session = n ∧ w.sgen = x.gen)) ∧ (∃ now, (n, x.gen, now) ∈ t.sessionsFreed) ∧ ((s.ctxs.all (fun c => !x.owns c)) = true → t.mem = s.mem ∧ t.otp = s.otp ∧ t.vault = s.vault ∧ t.links = s.links ∧ t.hub = s.hub ∧ t.fences = s.fences)) ∧
  (∀ (f : QFrame) (g : Segment) (n : Nat) (x : Session) (s : State),
    f.session = n →
    s.alive = true →
    s.host.row.isSome = true →
    s.host.cfg.macsecReq = false ∨ f.sec = true →
    f.ver = 1 →
    f.kind = 3 →
    f.rsvd = 0 →
    f.tagOk = true →
    s.session? f.session = some x →
    x.gen = f.sgen →
    f.kphase = x.rx.kphase →
    x.rx.oldKept = none →
    f.seq = x.rx.ack →
    x.rx.held = [] →
    g.rsvd = 0 →
    g.msg = 0xFFFFFFFF →
    g.data.length = 16 →
    allZero (g.data.drop 2) = true →
    ∃ t, exec (.close f g) s = .next t ∧
      t.session? n = none ∧ (∀ w ∈ t.waits, ¬(w.session = n ∧ w.sgen = x.gen)) ∧ (∃ now, (n, x.gen, now) ∈ t.sessionsFreed)) ∧
  (∀ (n : Nat) (x : Session) (toHost : Bool) (s : State),
    s.alive = true →
    s.session? n = some x →
    x.isOpen = true →
    2 ^ 48 + 2 ^ 32 ≤ x.keyFrames toHost →
    ∃ t, exec (.keyLimitStop (some n) none none toHost) s = .next t ∧
      t.session? n = none ∧ (∀ w ∈ t.waits, ¬(w.session = n ∧ w.sgen = x.gen)) ∧ (∃ now, (n, x.gen, now) ∈ t.sessionsFreed) ∧ ((s.ctxs.all (fun c => !x.owns c)) = true → t.mem = s.mem ∧ t.otp = s.otp ∧ t.vault = s.vault ∧ t.links = s.links ∧ t.hub = s.hub ∧ t.fences = s.fences) ∧ ((s.ctxs.all (fun c => !x.owns c)) = true → s.host.row.isSome = true → s.frameOut x { seq := x.tx.seq, kphase := x.tx.kphase, isClose := true, seg := closeSegment .keyExhausted } ∈ t.out.drop s.out.length)) ∧
  (∀ (n : Nat) (x : Session) (s : State),
    s.alive = true →
    s.session? n = some x →
    x.isOpen = true →
    x.role = .tenant →
    x.lastFrame + 4 * x.hbPeriod * 2 ^ 20 ≤ s.hub.timer →
    (s.ctxs.map (fun c => c.id)).Nodup →
    ∃ t, exec (.heartbeatLoss n) s = .next t ∧
      (∀ c ∈ s.ctxs, x.owns c = true → ∃ d ∈ t.ctxs, d.id = c.id ∧ d.gen = c.gen ∧ d.res.state = .resetting) ∧ (∀ c ∈ s.ctxs, x.owns c = false → ∃ d ∈ t.ctxs, d.id = c.id ∧ d.gen = c.gen ∧ d.res.state = c.res.state))

/-- R308–R316. -/
def Obligations.FramesMoveSegments : Prop :=
  (∀ (f : QFrame) (g : Segment) (x : Session) (s : State),
    s.alive = true →
    s.host.row.isSome = true →
    s.host.cfg.macsecReq = false ∨ f.sec = true →
    f.ver = 1 →
    f.kind = 0 →
    f.rsvd = 0 →
    f.tagOk = true →
    s.session? f.session = some x →
    x.gen = f.sgen →
    f.kphase = x.rx.kphase →
    x.rx.oldKept = none →
    f.seq = x.rx.ack →
    x.rx.held = [] →
    g.rsvd = 0 →
    g.msg = x.rx.nextMsg →
    g.last = false →
    (x.rx.segs.any (fun h => h.msg == x.rx.nextMsg && h.last)) = false →
    ∃ t, exec (.quekoDataFrame f g) s = .next t ∧
      (∃ y, t.session? f.session = some y ∧ y.rx.ack = x.rx.ack + 1 ∧ y.rx.segs = x.rx.segs ++ [g] ∧ y.rx.mailbox = x.rx.mailbox ∧ y.lastFrame = s.hub.timer ∧ y.peer = f.peer ∧ y.rx.frames = x.rx.frames + 1) ∧ OnlySent s t) ∧
  (∀ (f : QFrame) (g : Segment) (x : Session) (op : Opcode) (s : State),
    s.alive = true →
    s.host.row.isSome = true →
    s.host.cfg.macsecReq = false ∨ f.sec = true →
    f.ver = 1 →
    f.kind = 0 →
    f.rsvd = 0 →
    f.tagOk = true →
    s.session? f.session = some x →
    x.gen = f.sgen →
    f.kphase = x.rx.kphase →
    x.rx.oldKept = none →
    f.seq = x.rx.ack →
    x.rx.held = [] →
    x.isOpen = true →
    g.rsvd = 0 →
    g.msg = x.rx.nextMsg →
    g.msg ≠ 0xFFFFFFFF →
    g.last = true →
    g.off = 0 →
    g.slen = g.data.length →
    x.rx.segs = [] →
    op.code / 256 ≠ 12 →
    op ≠ .hello →
    op ≠ .event →
    (msgOf f.session true g.data).1 = op.code →
    (msgOf f.session true g.data).2.1 = false →
    ∃ t, exec (.quekoDataFrame f g) s = .next t ∧
      (∃ y, t.session? f.session = some y ∧ y.rx.ack = x.rx.ack + 1 ∧ y.rx.segs = [] ∧ y.rx.nextMsg = x.rx.nextMsg + 1 ∧ y.rx.mailbox = x.rx.mailbox ++ [(op.code, (msgOf f.session true g.data).2.2.2)]) ∧ OnlySent s t) ∧
  (∀ (f : QFrame) (g : Segment) (x : Session) (s : State),
    s.alive = true →
    s.host.row.isSome = true →
    s.host.cfg.macsecReq = false ∨ f.sec = true →
    f.ver = 1 →
    f.kind = 0 →
    f.rsvd = 0 →
    f.tagOk = true →
    s.session? f.session = some x →
    x.gen = f.sgen →
    f.kphase = x.rx.kphase →
    x.rx.oldKept = none →
    x.rx.ack < f.seq →
    f.seq < x.rx.ack + 4096 →
    (x.rx.held.any (fun h => h.seq == f.seq || h.seq == x.rx.ack)) = false →
    g.rsvd = 0 →
    ∃ t, exec (.quekoDataFrame f g) s = .next t ∧
      (∃ y, t.session? f.session = some y ∧ y.rx.ack = x.rx.ack ∧ y.rx.held = x.rx.held ++ [{ seq := f.seq, isClose := false, seg := g }] ∧ y.rx.segs = x.rx.segs ∧ y.rx.mailbox = x.rx.mailbox) ∧ OnlySent s t) ∧
  (∀ (f : QFrame) (b : AckBody) (x : Session) (s : State),
    s.alive = true →
    s.host.row.isSome = true →
    s.host.cfg.macsecReq = false ∨ f.sec = true →
    f.ver = 1 →
    f.kind = 1 →
    f.rsvd = 0 →
    f.tagOk = true →
    s.session? f.session = some x →
    x.gen = f.sgen →
    f.kphase = x.rx.kphase →
    b.rsvd = 0 →
    b.window ≤ 1024 →
    x.rx.ackSeq ≤ f.seq →
    x.tx.waiting = [] →
    ∃ t, exec (.quekoAckFrame f b) s = .next t ∧
      (∃ y, t.session? f.session = some y ∧ y.rx.ackSeq = f.seq + 1 ∧ y.tx.window = b.window ∧ y.tx.unacked = x.tx.unacked.filter (fun u => !ackCovers b u)) ∧ (∀ u ∈ x.tx.unacked, ackCovers b u = false → b.ack ≤ u.seq → 0 < b.sack >>> (u.seq - b.ack) → s.hostSends = true → s.frameOut { x with peer := f.peer } u ∈ t.out.drop s.out.length) ∧ OnlySent s t) ∧
  (∀ (n : Nat) (x : Session) (s : State),
    s.alive = true →
    s.hostSends = true →
    s.session? n = some x →
    0 < x.rx.unacked →
    x.rx.since + 256 ≤ s.hub.timer →
    ∃ t, exec (.quekoAckTimer n) s = .next t ∧
      t.out = s.out ++ [Out.ack (s.host.hdr x.peer) { kind := 1, session := n, kphase := x.tx.kphase, sgen := x.gen, seq := x.tx.ackSeq } { ack := x.rx.ack, sack := x.rx.sack, window := s.windowFor x, ce := x.rx.ce }] ∧ (∃ y, t.session? n = some y ∧ y.rx.unacked = 0 ∧ y.rx.ce = 0 ∧ y.tx.ackSeq = x.tx.ackSeq + 1 ∧ y.rx.ack = x.rx.ack) ∧ OnlySent s t) ∧
  (∀ (n : Nat) (x : Session) (s : State),
    s.hostSends = true →
    s.session? n = some x →
    x.tx.unacked ≠ [] →
    x.tx.lastAdvance + x.tx.rto ≤ s.hub.timer →
    ∃ t, exec (.quekoRetransmitTimeout n) s = .next t ∧
      t.out = s.out ++ x.tx.unacked.map (s.frameOut x) ∧ (∃ y, t.session? n = some y ∧ y.tx.rto = min (2 * x.tx.rto) 65536 ∧ y.tx.lastAdvance = s.hub.timer ∧ y.tx.unacked = x.tx.unacked) ∧ OnlySent s t)

/-- R163, R332–R335. -/
def Obligations.EventsGoToManagement : Prop :=
  (∀ (n : Nat) (x : Session) (tg : Nat) (s : State),
    s.alive = true →
    s.life.trial = none →
    s.session? n = some x →
    x.isOpen = true →
    x.role = .management →
    (x.events.filter (fun r => !r.answered)).length < 8 →
    (s.deviceEntries x).take 818 ≠ [] →
    s.ledger.freeTag hubTags 4096 = some tg →
    ∃ t, exec (.eventSend n none) s = .next t ∧
      (∃ y, t.session? n = some y ∧ ∃ r, y.events = x.events ++ [r] ∧ r.tag = tg ∧ r.ctx = none ∧ r.entries = (s.deviceEntries x).take 818 ∧ r.deadline = s.hub.timer + 2 ^ 26 ∧ r.answered = false ∧ y.ownLost = 0) ∧ (∃ e ∈ t.ledger.entries, e.tag = tg ∧ e.holder = .event n tg) ∧ t.logs.lost = 0 ∧ t.logs.ring = s.logs.ring ∧ (∃ et, Out.message n Opcode.event.code false true 0 0 et 0 (((s.deviceEntries x).take 818).length + min (s.logs.lost + x.ownLost) (2 ^ 32 - 1) * 2 ^ 32) (((s.deviceEntries x).take 818).flatMap Entry.bytes) ∈ t.out.drop s.out.length) ∧ t.mem = s.mem ∧ t.ctxs = s.ctxs) ∧
  (∀ (m : Msg) (x : Session) (e : EventReq) (s : State),
    s.listens m.session = true →
    s.session? m.session = some x →
    x.role = .management →
    s.links.leases.all (fun l => !l.probeDue) = true →
    m.status = 0 →
    x.events.find? (fun r => r.tag == m.tag % 2 ^ 14 && r.gen == m.tag / 2 ^ 14 && !r.answered) = some e →
    e.ctx = none →
    ∃ t, exec (.eventAnswer m) s = .next t ∧
      t.logs.ring = s.logs.ring.filter (fun k => !k.goesTo x || decide (min m.arg0 s.logs.rseq ≤ k.rseq)) ∧ t.ledger = s.ledger.free (m.tag % 2 ^ 14) ∧ (∃ y, t.session? m.session = some y ∧ y.events = x.events.filter (fun r => !(r.tag == e.tag && r.gen == e.gen))) ∧ t.mem = s.mem ∧ t.ctxs = s.ctxs ∧ (∀ o ∈ t.out.drop s.out.length, ∃ b, o = Out.pfc s.host.cfg.pfc b)) ∧
  (∀ (n tag tg : Nat) (x : Session) (e : EventReq) (s : State),
    s.alive = true →
    s.life.trial = none →
    s.session? n = some x →
    x.role = .management →
    x.events.find? (fun r => r.tag == tag && decide (r.deadline ≤ s.hub.timer)) = some e →
    e.ctx = none →
    e.answered = false →
    s.unconsumed x e ≠ [] →
    (s.ledger.expire tag s.hub.timer).freeTag hubTags 4096 = some tg →
    ∃ t, exec (.eventResendTimeout n tag) s = .next t ∧
      (∃ y, t.session? n = some y ∧ ∃ r ∈ y.events, r.tag = tg ∧ r.entries = s.unconsumed x e ∧ r.deadline = s.hub.timer + 2 ^ 26) ∧ (∀ k ∈ t.ledger.entries, k.tag = tag → tag ≠ tg → k.quarantine = some s.hub.timer) ∧ t.mem = s.mem ∧ t.ctxs = s.ctxs ∧ t.logs.ring = s.logs.ring)

/-- R302–R304. -/
def Obligations.HostConfigAndRevert : Prop :=
  (∀ (m : Msg) (x : Session) (w : Nat) (s : State),
    Admits s .hostConfig m x = true →
    x.role = .management →
    m.length = 80 →
    w = ofLe (slice m.payload 0 80) →
    anySet w 15 13 = false →
    anySet w 127 96 = false →
    (hostCfgOf w).ip6Plen ≤ 128 →
    (hostCfgOf w).ip4Plen ≤ 32 →
    s.hostSends = true →
    x.tx.waiting = [] →
    x.tx.unacked.length < min x.tx.window 1024 →
    5 ≤ x.segLog2 →
    (hostCfgOf w).macsec = false →
    (hostCfgOf w).macsecReq = false →
    ∃ t, exec (.hostConfig m) s = .next t ∧
      Answered s t .hostConfig m (.of .ok) ∧ t.host.cfg = hostCfgOf w ∧ t.host.cak = (if field w 511 256 = 0 then s.host.cak else field w 511 256) ∧ t.host.previous = none ∧ t.host.secured = false ∧ OnlySent s t) ∧
  (∀ (m : Msg) (x : Session) (w : Nat) (s : State),
    Admits s .hostConfig m x = true →
    x.role = .management →
    m.length = 80 →
    w = ofLe (slice m.payload 0 80) →
    anySet w 15 13 = false →
    anySet w 127 96 = false →
    (hostCfgOf w).ip6Plen ≤ 128 →
    (hostCfgOf w).ip4Plen ≤ 32 →
    s.hostSends = false →
    (hostCfgOf w).macsec = false →
    (hostCfgOf w).macsecReq = false →
    ∃ t, exec (.hostConfig m) s = .next t ∧
      Answered s t .hostConfig m (.of .ok) ∧ t.host.cfg = s.host.cfg ∧ t.host.cak = s.host.cak ∧ t.host.next = some { cfg := hostCfgOf w, cak := (if field w 511 256 = 0 then s.host.cak else field w 511 256), session := x.number, msg := x.tx.nextMsg } ∧ OnlySent s t) ∧
  (∀ (m : Msg) (x : Session) (w : Nat) (s : State),
    Admits s .hostConfig m x = true →
    x.role = .management →
    m.length = 80 →
    w = ofLe (slice m.payload 0 80) →
    anySet w 15 13 = false →
    anySet w 127 96 = false →
    (hostCfgOf w).ip6Plen ≤ 128 →
    (hostCfgOf w).ip4Plen ≤ 32 →
    s.hostSends = true →
    x.tx.waiting = [] →
    x.tx.unacked.length < min x.tx.window 1024 →
    5 ≤ x.segLog2 →
    (hostCfgOf w).macsec = true →
    (hostCfgOf w).macsecReq = true →
    x.has fMacsec = true →
    field w 511 256 ≠ 0 →
    s.host.secured = false →
    ∃ t, exec (.hostConfig m) s = .next t ∧
      Answered s t .hostConfig m (.of .ok) ∧ t.host.cfg = hostCfgOf w ∧ t.host.cak = field w 511 256 ∧ t.host.previous = some (s.host.cfg, s.host.cak, s.hub.timer + 2 ^ 28) ∧ OnlySent s t) ∧
  (∀ (c : HostCfg) (k due : Nat) (s : State),
    s.alive = true →
    s.host.previous = some (c, k, due) →
    due ≤ s.hub.timer →
    s.host.secured = false →
    ∃ t, exec (.macsecRevertTimeout) s = .next t ∧
      t.host.cfg = c ∧ t.host.cak = k ∧ t.host.previous = none ∧ t.logs.recNo = s.logs.recNo + 1 ∧ t.mem = s.mem ∧ t.ctxs = s.ctxs ∧ t.otp = s.otp ∧ t.vault = s.vault)

/-- R299–R301, R305. -/
def Obligations.HostPortModesAndProtocols : Prop :=
  (∀ (h : HostTraining) (row : Nat) (s : State),
    s.alive = true →
    row < 5 →
    row ≠ 0 ∨ s.hub.straps.hostMax = false →
    row ∈ h.offered →
    row ∈ h.trains →
    ∀ r < row, (r = 0 ∧ s.hub.straps.hostMax = true) ∨ r ∉ h.offered ∨ r ∉ h.trains →
    ∃ t, exec (.hostPortTrain h) s = .next t ∧
      t.host.row = some row ∧ (row ≠ 0 → t.logs.recNo = s.logs.recNo + 1) ∧ (row = 0 → s.host.row = none → t.logs = s.logs) ∧ t.mem = s.mem ∧ t.ctxs = s.ctxs ∧ t.hub = s.hub ∧ (s.host.next = none → t.host.cfg = s.host.cfg)) ∧
  (∀ (h : HostTraining) (s : State),
    s.alive = true →
    ∀ r < 5, (r = 0 ∧ s.hub.straps.hostMax = true) ∨ r ∉ h.offered ∨ r ∉ h.trains →
    ∃ t, exec (.hostPortTrain h) s = .next t ∧
      t = { s with host := { s.host with row := none } }) ∧
  (∀ (target asker : Nat) (s : State),
    s.alive = true →
    s.host.row.isSome = true →
    s.host.cfg.macsecReq = false →
    s.ip4Of = some target →
    ∃ t, exec (.hostProtocolFrame (.arp target asker)) s = .next t ∧
      t = { s with out := s.out ++ [.host (s.host.plainHdr (.arp target asker)) (.arp target asker)], host := { s.host with received := min (s.host.received + 1) (2 ^ 64 - 1), sent := min (s.host.sent + 1) (2 ^ 64 - 1) } }) ∧
  (∀ (v6 : Bool) (peer : Nat) (data : Bytes) (s : State),
    s.alive = true →
    s.host.row.isSome = true →
    s.host.cfg.macsecReq = false →
    ∃ t, exec (.hostProtocolFrame (.echo v6 peer data)) s = .next t ∧
      t = { s with out := s.out ++ [.host (s.host.plainHdr (.echo v6 peer data)) (.echo v6 peer data)], host := { s.host with received := min (s.host.received + 1) (2 ^ 64 - 1), sent := min (s.host.sent + 1) (2 ^ 64 - 1) } }) ∧
  (∀ (s : State),
    s.alive = true →
    s.host.row.isSome = true →
    s.host.cfg.macsec = true →
    ∃ t, exec (.hostProtocolFrame .mkaSecured) s = .next t ∧
      t.host.secured = true ∧ t.host.previous = none ∧ { t with host := s.host } = s) ∧
  (∀ (s : State),
    s.alive = true →
    s.host.row.isSome = true →
    ∃ t, exec (.hostProtocolFrame .other) s = .next t ∧
      t.logs = { s.logs with hostDiscarded := min (s.logs.hostDiscarded + 1) (2 ^ 64 - 1) } ∧ t.out = s.out ∧ { t with host := s.host, logs := s.logs } = s) ∧
  (∀ (priority : Nat) (s : State),
    s.alive = true →
    s.host.row.isSome = true →
    s.host.cfg.pfc < 8 →
    priority = s.host.cfg.pfc →
    ∃ t, exec (.pfcPauseFrame none priority true) s = .next t ∧
      t = { s with host := { s.host with paused := true } }) ∧
  (∀ (priority : Nat) (s : State),
    s.alive = true →
    s.host.row.isSome = true →
    s.host.cfg.pfc < 8 →
    priority = s.host.cfg.pfc →
    ∃ t, exec (.pfcPauseFrame none priority false) s = .next t ∧
      t.host.paused = false ∧ OnlySent s t) ∧
  (∀ (priority : Nat) (pause : Bool) (s : State),
    priority ≠ s.host.cfg.pfc →
    ∃ t, exec (.pfcPauseFrame none priority pause) s = .next t ∧
      t = s)

/-- R404, R408, R412–R414. -/
def Obligations.KeysAreMadeAndDestroyed : Prop :=
  (∀ (m : Msg) (x : Session) (c : Ctx) (w k : Nat) (s : State),
    Admits s .keyLoad m x = true →
    s.ctx? m.ctx = some c →
    c.consortium = false →
    m.length = 64 →
    w = ofLe (slice m.payload 0 64) →
    (anySet w 63 13 || anySet w 127 112 || anySet w 191 152 || anySet w 511 448) = false →
    s.freeKeyId = some k →
    s.vault.slots.length < 1024 →
    (s.keysOf c).length < 64 →
    field w 11 0 = 0 →
    field w 151 128 = 0 →
    ∃ t, exec (.keyLoad m) s = .next t ∧
      (∃ u, Answered s u .keyLoad m { status := .ok, arg0 := k } ∧ OnlySent { s with vault := { s.vault with slots := s.vault.slots ++ [{ keyId := k, kind := .loaded, resetExpire := flag w 12, derivable := true, ctx := c.id, ctxGen := c.gen, limit := 2 ^ 56 - 1, issue := sparse s.vault.issues k + 1, material := slice m.payload 24 32 }], freed := s.vault.freed.filter (fun f => f.1 != k), issues := setSparse s.vault.issues k (sparse s.vault.issues k + 1) } } u ∧ t = u.settleKeys m.ctx)) ∧
  (∀ (m : Msg) (x : Session) (c : Ctx) (w k n va : Nat) (s : State),
    Admits s .keyLoad m x = true →
    s.ctx? m.ctx = some c →
    c.consortium = false →
    m.length = 64 →
    w = ofLe (slice m.payload 0 64) →
    (anySet w 63 13 || anySet w 127 112 || anySet w 191 152 || anySet w 511 448) = false →
    s.freeKeyId = some k →
    s.vault.slots.length < 1024 →
    (s.keysOf c).length < 64 →
    field w 11 0 = 0 →
    n = field w 151 128 →
    n ≠ 0 →
    va = field w 111 64 →
    va % pageSize = 0 →
    va + n * pageSize ≤ 2 ^ 48 →
    c.mapped va (n * pageSize) = true →
    (c.rangePages (va / pageSize) n).all (fun p => p.share.isNone) = true →
    ∃ t, exec (.keyLoad m) s = .next t ∧
      (∃ u, Answered s u .keyLoad m { status := .pending, arg0 := k } ∧ u.vault.slots = s.vault.slots ++ [{ keyId := k, kind := .loaded, resetExpire := flag w 12, derivable := true, ctx := c.id, ctxGen := c.gen, limit := 2 ^ 56 - 1, issue := sparse s.vault.issues k + 1, material := slice m.payload 24 32 }] ∧ u.waits = s.waits ++ [{ session := m.session, sgen := x.gen, opcode := .keyLoad, tag := m.tag, ctx := m.ctx, ctxGen := m.ctxGen, what := .keyBind k }] ∧ t = u.settleKeys m.ctx)) ∧
  (∀ (m : Msg) (x : Session) (c : Ctx) (y : KeySlot) (w k : Nat) (s : State),
    Admits s .keyDerive m x = true →
    s.ctx? m.ctx = some c →
    c.consortium = false →
    m.length = 64 →
    w = ofLe (slice m.payload 0 64) →
    (anySet w 63 13 || anySet w 127 112 || anySet w 191 152 || anySet w 511 448) = false →
    s.freeKeyId = some k →
    s.vault.slots.length < 1024 →
    (s.keysOf c).length < 64 →
    field w 151 128 = 0 →
    s.namedKey x c (field w 11 0) = some y →
    y.derivable = true →
    ∃ t, exec (.keyDerive m) s = .next t ∧
      (∃ u, Answered s u .keyDerive m { status := .ok, arg0 := k } ∧ OnlySent { s with vault := { s.vault with slots := s.vault.slots ++ [{ keyId := k, kind := .loaded, resetExpire := flag w 12, derivable := true, ctx := c.id, ctxGen := c.gen, limit := 2 ^ 56 - 1, issue := sparse s.vault.issues k + 1, material := kmac256 y.material (slice m.payload 24 32) "KEY DERIVE" 32 }], freed := s.vault.freed.filter (fun f => f.1 != k), issues := setSparse s.vault.issues k (sparse s.vault.issues k + 1) } } u ∧ t = u.settleKeys m.ctx)) ∧
  (∀ (m : Msg) (x : Session) (c : Ctx) (w k : Nat) (s : State),
    Admits s .keyDestroy m x = true →
    s.ctx? m.ctx = some c →
    m.length = 8 →
    w = ofLe (slice m.payload 0 8) →
    w = k →
    k < 4096 →
    (s.namedKey x c k).isSome = true →
    ∃ t, exec (.keyDestroy m) s = .next t ∧
      (∃ u, Answered s u .keyDestroy m (.of .pending) ∧ OnlySent { s with waits := s.waits ++ [{ session := m.session, sgen := x.gen, opcode := .keyDestroy, tag := m.tag, ctx := m.ctx, ctxGen := m.ctxGen, what := .keyDestroy k }] } u ∧ t = u.settleKeys m.ctx) ∧ (s.waits.all (fun v => v.ctx != m.ctx) = true → s.moves.all (fun v => v.keyId != k) = true → t.key? k = none ∧ t.waits = s.waits))

/-- R347, R348, R406. -/
def Obligations.CtxCreateMakesSuspendedContext : Prop :=
  (∀ (m : Msg) (x : Session) (i g : Nat) (s : State),
    Admits s .ctxCreate m x = true →
    m.length = 48 →
    anySet (ofLe (slice m.payload 0 48)) 127 0 = false →
    anySet (ofLe (slice m.payload 0 48)) 383 128 = false →
    pickId 4096 (s.ctxs.map (fun c => c.id) ++ s.links.lent.map (fun y => y.guest)) s.ctxsFreed s.hub.timer (fun n => s.ledger.entries.any (fun e => e.ctx == some n)) = some (i, g) →
    ∃ t, exec (.ctxCreate m) s = .next t ∧
      Answered s t .ctxCreate m { status := .ok, named := some (i, nextGen 16 g) } ∧ (∃ d, t.ctxs = s.ctxs ++ [d] ∧ d.id = i ∧ d.gen = nextGen 16 g ∧ d.owner = x.number ∧ d.ownerGen = x.gen ∧ d.consortium = false ∧ d.res.state = .suspended ∧ d.res.slot = none ∧ d.limits = ({} : Limits) ∧ d.pages = [] ∧ d.queues = [] ∧ d.ring = none ∧ d.fences = []) ∧ (∃ e, t.vault.bank = e :: s.vault.bank.filter (fun b => b.ctx != i) ∧ e.ctx = i ∧ e.gen = nextGen 16 g ∧ e.uses = 0 ∧ e.limit = 2 ^ 56 - 1 ∧ e.issue = sparse s.vault.issues (4096 + i) + 1) ∧ OnlySent { s with hub := { s.hub with trng := s.hub.trng + 64 }, ctxs := t.ctxs, ctxsFreed := s.ctxsFreed.filter (fun f => f.1 != i), vault := { s.vault with bank := t.vault.bank, issues := t.vault.issues } } t)

/-- R349, R350, R358, R361. -/
def Obligations.CtxResumeMovesResidency : Prop :=
  (∀ (m : Msg) (x : Session) (c : Ctx) (r : Resume) (u s : State),
    Admits s .ctxResume m x = true →
    s.ctx? m.ctx = some c →
    m.length = 32 →
    r = resumeOf (ofLe (slice m.payload 0 32)) →
    r.rsvd = false →
    r.form = 0 →
    x.owns c = true →
    c.ring = none →
    c.consortium = false →
    10 ≤ r.evrLog2 →
    r.scaleN ≤ 65536 →
    c.resumeBeyond r = false →
    u = s.takeMail .ctxResume m →
    (u.writeV c.id none [] r.scaleAddr ((List.range r.scaleN).flatMap (fun _ => ScaleSlot.new.bytes))).2 = none →
    ∃ t, exec (.ctxResumeReady m []) s = .next t ∧
      (∀ d ∈ t.ctxs, d.id = c.id → d.res.state = .ready ∧ d.ring = some { addr := r.evrAddr, log2 := r.evrLog2 } ∧ d.scaleAddr = r.scaleAddr ∧ d.scaleN = r.scaleN) ∧ Answered s t .ctxResume m (.of .ok)) ∧
  (∀ (m : Msg) (x : Session) (c : Ctx) (r : Resume) (s : State),
    Admits s .ctxResume m x = true →
    s.ctx? m.ctx = some c →
    m.length = 32 →
    r = resumeOf (ofLe (slice m.payload 0 32)) →
    r.rsvd = false →
    r.form = 1 →
    c.ring.isSome = true →
    c.res.state = .suspended →
    ∃ t, exec (.ctxResumeResume m) s = .next t ∧
      Answered s t .ctxResume m (.of .ok) ∧ (∀ d ∈ t.ctxs, d.id = c.id → d.res.state = .ready) ∧ OnlySent ((s.modCtx c.id (fun d => { d with res := d.res.lift })).noteWant c.id) t) ∧
  (∀ (m : Msg) (x : Session) (c : Ctx) (r : Resume) (p : Partition) (s : State),
    Admits s .ctxResume m x = true →
    s.ctx? m.ctx = some c →
    m.length = 32 →
    r = resumeOf (ofLe (slice m.payload 0 32)) →
    r.rsvd = false →
    r.form = 2 →
    x.role = .management →
    s.mem.partitions[r.assign.part]? = some p →
    p.ceiling ≠ 0 →
    r.assign.linkShare ≤ r.assign.linkCeil + 1 →
    r.assign.linkShare + ((s.ctxs.filter (fun d => d.id != c.id)).map (fun d => d.assigned.linkShare)).sum ≤ 248 →
    ∃ t, exec (.ctxResumeAssign m) s = .next t ∧
      Answered s t .ctxResume m (.of .ok) ∧ OnlySent (s.modCtx c.id (fun d => { d with assigned := r.assign, assign := if d.res.state = .resident then r.assign else d.assign })) t) ∧
  (∀ (m : Msg) (x : Session) (c : Ctx) (s : State),
    Admits s .ctxSuspend m x = true →
    s.ctx? m.ctx = some c →
    m.length = 0 →
    c.ckpt.stage = 0 →
    s.waits.all (fun w => !(w.ctx == m.ctx && w.what == .suspend) && !(w.session == m.session && w.tag == m.tag)) = true →
    c.res.state = .suspended →
    ∃ t, exec (.ctxSuspend m) s = .next t ∧
      Answered s t .ctxSuspend m (.of .ok) ∧ OnlySent s t) ∧
  (∀ (m : Msg) (x : Session) (c : Ctx) (s : State),
    Admits s .ctxSuspend m x = true →
    s.ctx? m.ctx = some c →
    m.length = 0 →
    c.ckpt.stage = 0 →
    s.waits.all (fun w => !(w.ctx == m.ctx && w.what == .suspend) && !(w.session == m.session && w.tag == m.tag)) = true →
    c.res.state = .ready →
    ∃ t, exec (.ctxSuspend m) s = .next t ∧
      Answered s t .ctxSuspend m (.of .pending) ∧ Answered s t .ctxSuspend m (.of .ok) ∧ OnlySent (s.modCtx c.id (fun d => { d with res := { d.res with state := .suspended, wantSince := none } })) t) ∧
  (∀ (m : Msg) (x : Session) (c : Ctx) (s : State),
    Admits s .ctxSuspend m x = true →
    s.ctx? m.ctx = some c →
    m.length = 0 →
    c.ckpt.stage = 0 →
    c.res.state = .resident →
    ∃ t, exec (.ctxSuspend m) s = .next t ∧
      Answered s t .ctxSuspend m (.of .pending) ∧ OnlySent { (s.modCtx c.id (fun d => { d with res := { d.res with leaving := .suspend } })) with waits := s.waits ++ [{ session := m.session, sgen := x.gen, opcode := .ctxSuspend, tag := m.tag, ctx := m.ctx, ctxGen := m.ctxGen, what := .suspend }] } t)

/-- R354–R358. -/
def Obligations.ResidencyEntersAndLeaves : Prop :=
  (∀ (id : Nat) (c : Ctx) (s : State),
    s.alive = true →
    s.ctx? id = some c →
    c.res.state = .resident →
    c.res.leaving ≠ .stays →
    s.quiet c = true →
    c.pages.all (fun p => p.tier.isNone && p.share.isNone) = true →
    s.moves.all (fun v => v.ctx != id) = true →
    s.slotEntry id = true →
    ∃ t, exec (.residencyExitDone id) s = .next t ∧
      (∀ e ∈ t.ctxs, e.id = id → e.res.state = .resident ∧ e.res.slot = c.res.slot)) ∧
  (∀ (id slot : Nat) (c d : Ctx) (s : State),
    s.alive = true →
    s.ctx? id = some c →
    s.freeSlot = some slot →
    s.wants c = true →
    s.nextWanting = some d →
    d.id = id →
    c.queues.all (fun q => q.savedWindow.isNone) = true →
    ∃ t, exec (.slotAdmit id) s = .next t ∧
      (∀ e ∈ t.ctxs, e.id = id → e.res.state = .resident ∧ e.res.slot = some slot ∧ e.res.since = s.hub.timer ∧ e.res.leaving = .stays ∧ e.assign = e.assigned) ∧ (t.ctxs.map (fun e => e.id) = s.ctxs.map (fun e => e.id))) ∧
  (∀ (id : Nat) (c : Ctx) (s : State),
    s.alive = true →
    s.life.trial = none →
    s.rotation = some c →
    c.id = id →
    ∃ t, exec (.rotateOut id) s = .next t ∧
      t = s.modCtx id (fun d => { d with res := { d.res with leaving := .rotate } })) ∧
  (∀ (id : Nat) (c : Ctx) (s : State),
    s.alive = true →
    s.ctx? id = some c →
    c.res.state = .resident →
    c.res.leaving ≠ .stays →
    s.quiet c = true →
    c.pages.all (fun p => p.tier.isNone && p.share.isNone) = true →
    s.moves.all (fun v => v.ctx != id) = true →
    s.slotEntry id = false →
    ∃ t, exec (.residencyExitDone id) s = .next t ∧
      (∀ e ∈ t.ctxs, e.id = id → e.res.state = (if c.res.leaving = .suspend then .suspended else .ready) ∧ e.res.slot = none ∧ e.res.leaving = .stays) ∧ (t.ctxs.map (fun e => e.id) = s.ctxs.map (fun e => e.id)))

/-- R362, R369–R371. -/
def Obligations.ResetTeardownAndDestroy : Prop :=
  (∀ (m : Msg) (x : Session) (c : Ctx) (s : State),
    Admits s .ctxReset m x = true →
    s.ctx? m.ctx = some c →
    m.length = 0 →
    c.res.state ≠ .resetting →
    ∃ t, exec (.ctxReset m) s = .next t ∧
      (∀ d ∈ t.ctxs, d.id = c.id → d.res.state = .resetting ∧ d.counts.cause = (if x.owns c then 0 else 1)) ∧ Out.message m.session Opcode.ctxReset.code true false m.ctx m.ctxGen m.tag Status.pending.code 0 [] ∈ t.out) ∧
  (∀ (m : Msg) (x : Session) (c : Ctx) (s : State),
    Admits s .ctxDestroy m x = true →
    s.ctx? m.ctx = some c →
    m.length = 0 →
    x.owns c = true →
    ∃ t, exec (.ctxDestroy m) s = .next t ∧
      Answered s t .ctxDestroy m (.of .pending) ∧ (∀ d ∈ t.ctxs, d.id = c.id → d.destroying = true) ∧ t.waits = s.waits ++ [{ session := m.session, sgen := x.gen, opcode := .ctxDestroy, tag := m.tag, ctx := m.ctx, ctxGen := m.ctxGen, what := .destroy }] ∧ t.mem = s.mem ∧ t.vault = s.vault ∧ t.cores = s.cores) ∧
  (∀ (id : Nat) (c : Ctx) (s : State),
    s.alive = true →
    s.ctx? id = some c →
    c.destroying = true →
    c.res.state ≠ .resetting →
    c.queues.all (fun q => q.recs.isEmpty) = true →
    c.opt = [] →
    s.links.insts.all (fun i => i.ctx != id) = true →
    c.ring = none ∨ (c.ring.any (fun g => g.used == 0 && g.held.isEmpty)) = true →
    ∃ t, exec (.destroyDrainDone id) s = .next t ∧
      (∀ d ∈ t.ctxs, d.id = id → d.res.state = .resetting ∧ d.counts.cause = 3)) ∧
  (∀ (id : Nat) (c : Ctx) (s : State),
    s.alive = true →
    s.ctx? id = some c →
    c.res.state = .resetting →
    s.ledgerClear id = true →
    ∃ t, exec (.teardownDone id) s = .next t ∧
      (∀ d ∈ t.ctxs, d.id ≠ id) ∧ (∀ k ∈ t.vault.bank, k.ctx ≠ id) ∧ (∀ w ∈ t.waits, ¬(w.ctx = id ∧ w.ctxGen = c.gen)) ∧ (∀ g ∈ t.links.groups, g.ctx ≠ id) ∧ (∃ now, (id, c.gen, now) ∈ t.ctxsFreed))

/-- R141–R149. -/
def Obligations.QueuesAreCreatedAndRung : Prop :=
  (∀ (m : Msg) (x : Session) (c : Ctx) (w q : Nat) (s : State),
    Admits s .queueCreate m x = true →
    s.ctx? m.ctx = some c →
    m.length = 16 →
    w = ofLe (slice m.payload 0 16) →
    q = field w 5 0 →
    (anySet w 7 6 || anySet w 31 16 || anySet w 95 80 || anySet w 127 102) = false →
    6 ≤ field w 12 8 →
    field w 12 8 ≤ 16 →
    (c.queue? q) = none →
    flag w 13 = true → x.has fAudit = true →
    flag w 14 = true → x.has fGenMode = true ∧ c.queues.all (fun y => !y.genMode) = true →
    field w 101 96 ≤ 32 →
    field w 79 32 % 4096 = 0 →
    c.mapped (field w 79 32) (128 * 2 ^ field w 12 8) = true →
    field w 101 96 ≠ 0 → (s.chooseHome (field w 101 96) (fun _ => true)).isSome = true →
    ∃ t, exec (.queueCreate m) s = .next t ∧
      Answered s t .queueCreate m (.of .ok) ∧ (∃ y, (∃ d, t.ctx? m.ctx = some d ∧ d.queues = c.queues ++ [y]) ∧ y.number = q ∧ y.gen = (sparse c.queueGens q + 1) % 256 ∧ y.ringLog2 = field w 12 8 ∧ y.ringAddr = field w 79 32 ∧ y.audit = flag w 13 ∧ y.genMode = flag w 14 ∧ y.stopOnError = flag w 15 ∧ y.window = field w 101 96 ∧ y.home = (if field w 101 96 = 0 then none else s.chooseHome (field w 101 96) (fun _ => true)) ∧ y.head = 0 ∧ y.tail = 0 ∧ y.done = 0 ∧ y.recs = []) ∧ t.cores = s.cores ∧ t.vault = s.vault ∧ t.links = s.links ∧ (field w 101 96 = 0 → t.mem = s.mem)) ∧
  (∀ (m : Msg) (x : Session) (c : Ctx) (w q : Nat) (qu : Queue) (s : State),
    Admits s .doorbell m x = true →
    s.ctx? m.ctx = some c →
    m.length = 16 →
    w = ofLe (slice m.payload 0 16) →
    q = field w 5 0 →
    field w 7 6 = 1 →
    field w 31 16 = 0 →
    (anySet w 15 8 || anySet w 63 32) = false →
    c.queue? q = some qu →
    qu.stopped = none →
    qu.destroying = false →
    qu.tail ≤ field w 127 64 →
    field w 127 64 ≤ qu.head + 2 ^ qu.ringLog2 →
    ∃ t, exec (.doorbellRing m) s = .next t ∧
      Answered s t .doorbell m { status := .ok, arg0 := qu.head } ∧ OnlySent ((s.modQueue c.id q (fun z => { z with tail := field w 127 64 })).noteWant c.id) t) ∧
  (∀ (m : Msg) (x : Session) (c : Ctx) (w q : Nat) (qu : Queue) (u s : State),
    Admits s .doorbell m x = true →
    s.ctx? m.ctx = some c →
    w = ofLe (slice m.payload 0 16) →
    q = field w 5 0 →
    field w 7 6 = 0 →
    m.length = 16 + 128 * field w 31 16 →
    (anySet w 15 8 || anySet w 63 32) = false →
    c.queue? q = some qu →
    qu.stopped = none →
    qu.destroying = false →
    field w 127 64 = qu.tail →
    qu.tail + field w 31 16 ≤ qu.head + 2 ^ qu.ringLog2 →
    u = s.takeMail .doorbell m →
    (u.writeSlots c.id [] qu qu.tail (recordsOf (field w 31 16) (m.payload.drop 16))).2 = none →
    ∃ t, exec (.doorbellInline m []) s = .next t ∧
      Answered s t .doorbell m { status := .ok, arg0 := qu.head } ∧ (∀ d ∈ t.ctxs, d.id = c.id → ∀ z ∈ d.queues, z.number = q → z.tail = qu.tail + field w 31 16)) ∧
  (∀ (m : Msg) (x : Session) (c : Ctx) (qu : Queue) (s : State),
    Admits s .queueDestroy m x = true →
    s.ctx? m.ctx = some c →
    m.length = 0 →
    m.arg0 < 64 →
    c.queue? m.arg0 = some qu →
    qu.destroying = false →
    qu.recs = [] →
    ∃ t, exec (.queueDestroy m) s = .next t ∧
      Answered s t .queueDestroy m (.of .pending) ∧ (∀ d ∈ t.ctxs, d.id = m.ctx → ∀ z ∈ d.queues, z.number ≠ m.arg0) ∧ t.vault = s.vault ∧ t.otp = s.otp) ∧
  (∀ (m : Msg) (x : Session) (c : Ctx) (qu : Queue) (s : State),
    Admits s .queueDestroy m x = true →
    s.ctx? m.ctx = some c →
    m.length = 0 →
    m.arg0 < 64 →
    c.queue? m.arg0 = some qu →
    qu.destroying = false →
    qu.recs ≠ [] →
    s.links.insts.all (fun i => !(i.ctx == c.id && i.queue == m.arg0 && i.audit.isNone)) = true →
    qu.recs.all (fun r => r.phase != .running) = true →
    ∃ t, exec (.queueDestroy m) s = .next t ∧
      Answered s t .queueDestroy m (.of .pending) ∧ (∃ z, QueueOf t m.ctx m.arg0 = some z ∧ z.destroying = true ∧ z.recs = qu.recs.map (fun r => r.stop .queueStopped)) ∧ t.mem = s.mem ∧ t.vault = s.vault) ∧
  (∀ (m : Msg) (x : Session) (c : Ctx) (qu : Queue) (s : State),
    Admits s .queueDestroy m x = true →
    s.ctx? m.ctx = some c →
    m.length = 0 →
    m.arg0 < 64 →
    c.queue? m.arg0 = some qu →
    qu.destroying = false →
    qu.recs ≠ [] →
    s.links.insts.all (fun i => !(i.ctx == c.id && i.queue == m.arg0 && i.audit.isNone)) = true →
    ∃ t, exec (.queueDestroy m) s = .next t ∧
      Answered s t .queueDestroy m (.of .pending) ∧ (∃ z, QueueOf t m.ctx m.arg0 = some z ∧ z.destroying = true ∧ z.recs.map (fun r => (r.seq, r.iter)) = qu.recs.map (fun r => (r.seq, r.iter)) ∧ (∀ r ∈ z.recs, r.phase ≠ .waiting ∧ r.phase ≠ .running)) ∧ t.vault = s.vault)

/-- R143, R144, R150–R153, R161, R163. -/
def Obligations.RecordsAreTakenInAndDispatched : Prop :=
  (∀ (id q : Nat) (c : Ctx) (x : Queue) (ring : Ring) (bs : Bytes) (ups : List Upset) (s : State),
    s.alive = true →
    s.ctx? id = some c →
    c.queue? q = some x →
    c.ring = some ring →
    c.serves = true →
    x.stopped = none →
    x.destroying = false →
    x.head < x.tail →
    0 < ring.free →
    c.heldReads [x.slotRegion x.head] = false →
    ((s.readV id none ups (x.ringAddr + (x.head % 2 ^ x.ringLog2) * 128) 128).1.ledger.freeTag hubTags 4096).isSome = true →
    (s.readV id none ups (x.ringAddr + (x.head % 2 ^ x.ringLog2) * 128) 128).2.toOption = some bs →
    ∃ t, exec (.recordIntake id q ups) s = .next t ∧
      (∃ y r, QueueOf t id q = some y ∧ y.head = x.head + 1 ∧ y.tail = x.tail ∧ y.recs = x.recs ++ [r] ∧ r.seq = x.head ∧ r.iter = 0 ∧ r.image = bs ∧ r.phase ≠ .running ∧ r.core = none)) ∧
  (∀ (id q : Nat) (c : Ctx) (x : Queue) (r : Rec) (op : CmdOp) (s : State),
    s.alive = true →
    s.ctx? id = some c →
    c.queue? q = some x →
    x.stopped = none →
    x.destroying = false →
    x.front = some r →
    c.mayLapse x r = true →
    x.barred r = false →
    s.heldByBinding c q = false →
    r.fenceIn = 0 →
    r.adv = false →
    x.home = none →
    r.waitTag = none →
    r.op = some op →
    onCore op = false →
    ∃ t, exec (.commandDispatch id q []) s = .next t ∧
      (∃ y, RecOf t id q r.seq r.iter = some y ∧ y.phase = .running ∧ y.core = none ∧ y.order = s.hub.dispatched ∧ y.features = s.featuresOf c) ∧ { t with ctxs := s.ctxs, hub := s.hub } = s ∧ t.hub = { s.hub with dispatched := s.hub.dispatched + 1 }) ∧
  (∀ (id q : Nat) (c : Ctx) (x : Queue) (r : Rec) (op : CmdOp) (n tg : Nat) (s : State),
    s.alive = true →
    s.ctx? id = some c →
    c.queue? q = some x →
    x.stopped = none →
    x.destroying = false →
    x.front = some r →
    c.mayLapse x r = true →
    x.barred r = false →
    s.heldByBinding c q = false →
    r.fenceIn = 0 →
    r.adv = false →
    x.home = none →
    x.rep = none →
    r.waitTag = none →
    r.op = some op →
    onCore op = true →
    s.coreFor c x r = some n →
    s.givesWay c r n = false →
    s.ledger.freeTag (tileTags (tileOf n)) 2048 = some tg →
    ∃ t, exec (.commandDispatch id q []) s = .next t ∧
      (∃ y, RecOf t id q r.seq r.iter = some y ∧ y.phase = .running ∧ y.core = some n ∧ y.tag = some tg ∧ y.beats = s.estimate c x n r ∧ y.features = s.featuresOf c) ∧ t.ledger = s.ledger.issue tg (.command c.id x.number r.seq r.iter) (some c.id) none ∧ t.cores = modAt s.cores n (fun k => { k with lastDispatch := s.hub.timer, load := k.load + s.estimate c x n r, turn := setSparse k.turn (min (r.hdr 34 32) c.assign.qos) (c.res.slot.getD 0 + 1) }) ∧ t.mem = s.mem ∧ t.sessions = s.sessions) ∧
  (∀ (id q : Nat) (c : Ctx) (x : Queue) (r : Rec) (y : ScaleSlot) (ups : List Upset) (s : State),
    s.alive = true →
    s.ctx? id = some c →
    c.queue? q = some x →
    x.stopped = none →
    x.destroying = false →
    x.front = some r →
    c.mayLapse x r = true →
    x.barred r = false →
    s.heldByBinding c q = false →
    r.fenceIn = 0 →
    r.adv = true →
    r.advSlot < c.scaleN →
    (s.readSlot id ups r.advSlot).2.toOption = some y →
    3 ≤ y.fmt →
    ∃ t, exec (.commandDispatch id q ups) s = .next t ∧
      Ended t id q r.seq r.iter .reservedSet 0 0 true) ∧
  (∀ (id q : Nat) (c : Ctx) (x : Queue) (r : Rec) (st : Status) (s : State),
    s.alive = true →
    s.ctx? id = some c →
    c.queue? q = some x →
    x.stopped = none →
    x.destroying = false →
    x.front = some r →
    c.mayLapse x r = true →
    r.fenceIn ≠ 0 →
    r.expired = false →
    r.waitTag = none →
    s.fenceFor c r.fenceIn = .error st →
    ∃ t, exec (.commandDispatch id q []) s = .next t ∧
      Ended t id q r.seq r.iter st 0 0 true ∧ { t with ctxs := s.ctxs } = s) ∧
  (∀ (id q : Nat) (c : Ctx) (x : Queue) (r : Rec) (f : Fence) (s : State),
    s.alive = true →
    s.ctx? id = some c →
    c.queue? q = some x →
    x.front = some r →
    c.mayLapse x r = true →
    r.tmo = true →
    r.fenceIn ≠ 0 →
    r.taken + r.timeout * 1024 ≤ s.hub.timer →
    s.fenceFor c r.fenceIn = .ok f →
    f.value < r.inVal →
    ∃ t, exec (.fenceInTimeout id q) s = .next t ∧
      Ended t id q r.seq r.iter .timeout 0 0 true ∧ t.mem = s.mem ∧ t.cores = s.cores ∧ t.fences = s.fences ∧ t.sessions = s.sessions)

/-- R143, R152, R156, R161. -/
def Obligations.CompletionsAreDelivered : Prop :=
  (∀ (id q seq res0 res1 : Nat) (sg : Bool) (c : Ctx) (x : Queue) (ring : Ring) (r : Rec) (s : State),
    s.alive = true →
    s.ctx? id = some c →
    c.queue? q = some x →
    c.ring = some ring →
    x.rec? seq 0 = some r →
    r.phase = .ended .ok res0 res1 sg →
    c.res.state ≠ .resetting →
    r.adv = false →
    r.fenceOut = 0 →
    x.destroying = false →
    ∃ t, exec (.commandComplete id q seq 0 []) s = .next t ∧
      (∃ y, QueueOf t id q = some y ∧ y.recs = x.recs.filter (fun z => !(z.seq == seq && z.iter == 0)) ∧ y.done = advanceDone (x.delivered.length + 2) x.done (seq :: x.delivered) ∧ y.head = x.head ∧ y.tail = x.tail) ∧ (∀ tg, r.tag = some tg → tg < hubTags → ∀ e ∈ t.ledger.entries, e.tag ≠ tg)) ∧
  (∀ (id q seq res0 res1 : Nat) (sg : Bool) (c : Ctx) (x : Queue) (ring : Ring) (r : Rec) (s : State),
    s.alive = true →
    s.ctx? id = some c →
    c.queue? q = some x →
    c.ring = some ring →
    x.rec? seq 0 = some r →
    r.phase = .ended .ok res0 res1 sg →
    c.res.state ≠ .resetting →
    r.adv = false →
    r.fenceOut = 0 →
    x.destroying = false →
    r.notify = true →
    ∃ t, exec (.commandComplete id q seq 0 []) s = .next t ∧
      (∃ d g e, t.ctx? id = some d ∧ d.ring = some g ∧ e ∈ g.entries ∧ e.event = .completion ∧ e.status = .ok ∧ e.rseq = ring.rseq ∧ e.body = s.completionRecord q r .ok res0 res1 (advanceDone (x.delivered.length + 2) x.done (seq :: x.delivered))))

/-- R137, R140, R164, R165. -/
def Obligations.HubCommandsEnd : Prop :=
  (∀ (id q seq iter : Nat) (c : Ctx) (x : Queue) (r : Rec) (s : State),
    s.running? id q seq iter .nop = some (c, x, r) →
    allZero (r.image.drop 64) = true →
    ∃ t, exec (.nop id q seq iter) s = .next t ∧
      Ended t id q seq iter .ok 0 0 true ∧ { t with ctxs := s.ctxs } = s) ∧
  (∀ (id q seq iter : Nat) (c : Ctx) (x : Queue) (r : Rec) (s : State),
    s.running? id q seq iter .nop = some (c, x, r) →
    allZero (r.image.drop 64) = false →
    ∃ t, exec (.nop id q seq iter) s = .next t ∧
      Ended t id q seq iter .reservedSet 0 0 true ∧ { t with ctxs := s.ctxs } = s) ∧
  (∀ (id q seq iter : Nat) (c : Ctx) (x : Queue) (r : Rec) (s : State),
    s.running? id q seq iter .repeatOp = some (c, x, r) →
    x.rep = none →
    r.arg 63 48 = 0 →
    r.arg 511 128 = 0 →
    x.genMode = true →
    r.arg 47 32 ≠ 0 →
    r.arg 47 32 < 2 ^ x.ringLog2 →
    r.arg 47 32 ≤ seq →
    s.spanHasRepeat id x seq (r.arg 47 32) = false →
    r.arg 31 0 ≠ 0 →
    ∃ t, exec (.repeatCmd id q seq iter []) s = .next t ∧
      t = s.modQueue id q (fun y => { y with rep := some { seq := seq, count := r.arg 31 0, span := r.arg 47 32, stride := r.arg 127 64, next := 1 } })) ∧
  (∀ (id q seq iter : Nat) (c : Ctx) (x : Queue) (r : Rec) (s : State),
    s.running? id q seq iter .repeatOp = some (c, x, r) →
    x.rep = none →
    r.arg 63 48 = 0 →
    r.arg 511 128 = 0 →
    x.genMode = true →
    r.arg 47 32 ≠ 0 →
    r.arg 47 32 < 2 ^ x.ringLog2 →
    r.arg 47 32 ≤ seq →
    s.spanHasRepeat id x seq (r.arg 47 32) = false →
    r.arg 31 0 = 0 →
    ∃ t, exec (.repeatCmd id q seq iter []) s = .next t ∧
      Ended t id q seq iter .ok 0 0 true ∧ { t with ctxs := s.ctxs } = s) ∧
  (∀ (id q : Nat) (c : Ctx) (x : Queue) (p : RepeatRun) (r : Rec) (s : State),
    s.alive = true →
    s.ctx? id = some c →
    c.queue? q = some x →
    x.rep = some p →
    c.serves = true →
    x.stopped = none →
    x.destroying = false →
    x.recs.all (fun k => k.iter == 0) = true →
    p.count < p.next →
    x.rec? p.seq 0 = some r →
    ∃ t, exec (.repeatIteration id q []) s = .next t ∧
      Ended t id q p.seq 0 .ok 0 0 true ∧ (∃ y, QueueOf t id q = some y ∧ y.rep = none ∧ y.head = x.head) ∧ { t with ctxs := s.ctxs } = s) ∧
  (∀ (id q : Nat) (c : Ctx) (x : Queue) (p : RepeatRun) (ups : List Upset) (s : State),
    s.alive = true →
    s.ctx? id = some c →
    c.queue? q = some x →
    x.rep = some p →
    c.serves = true →
    x.stopped = none →
    x.destroying = false →
    x.recs.all (fun k => k.iter == 0) = true →
    p.next ≤ p.count →
    c.heldReads ((List.range p.span).map (fun i => x.slotRegion (p.seq - p.span + i))) = false →
    p.next ≠ 2 ∨ p.pinned = true ∧ s.moves.all (fun v => !(v.ctx == id && v.reason == .genMode)) = true →
    (s.spanRecs c x p ups p.span).isSome = true →
    ∃ t, exec (.repeatIteration id q ups) s = .next t ∧
      (∃ y rs, QueueOf t id q = some y ∧ y.recs = x.recs ++ rs ∧ rs.length = p.span ∧ (∀ r ∈ rs, r.iter = p.next) ∧ y.rep = some { p with next := p.next + 1 } ∧ y.head = x.head)) ∧
  (∀ (id q : Nat) (c : Ctx) (x : Queue) (p : RepeatRun) (ups : List Upset) (s : State),
    s.alive = true →
    s.ctx? id = some c →
    c.queue? q = some x →
    x.rep = some p →
    c.serves = true →
    x.stopped = none →
    x.destroying = false →
    x.recs.all (fun k => k.iter == 0) = true →
    p.next ≤ p.count →
    c.heldReads ((List.range p.span).map (fun i => x.slotRegion (p.seq - p.span + i))) = false →
    p.next = 2 →
    p.pinned = false →
    ∃ t, exec (.repeatIteration id q ups) s = .next t ∧
      (∃ y k, QueueOf t id q = some y ∧ y.rep = some k ∧ k.pinned = true ∧ k.count = p.count ∧ y.head = x.head)) ∧
  (∀ (id q seq iter : Nat) (c : Ctx) (x : Queue) (r : Rec) (ups : List Upset) (wr : ScaleWrite) (u v s : State),
    s.running? id q seq iter .scaleSet = some (c, x, r) →
    wr = { scaleExp := r.arg 71 64, fmt := r.arg 74 72, margin := r.arg 76 75, frozen := r.arg 77 77 == 1, wmask := r.arg 83 80, clearHist := r.arg 84 84 == 1 } →
    r.arg 63 40 = 0 →
    r.arg 79 78 = 0 →
    r.arg 511 85 = 0 →
    wr.fmt ≤ 2 →
    r.arg 39 16 ≠ 0 →
    r.arg 15 0 + r.arg 39 16 ≤ c.scaleN →
    wr.wmask ≠ 0 ∨ wr.clearHist = true →
    s.readSlots id (r.arg 15 0) ups (r.arg 39 16) = (u, none) →
    u.setSlots id (r.arg 15 0) wr (r.arg 39 16) = (v, none) →
    ∃ t, exec (.scaleSet id q seq iter ups) s = .next t ∧
      t = v.endRec id q seq iter .ok 0 0 true) ∧
  (∀ (id q seq iter : Nat) (c : Ctx) (x : Queue) (r : Rec) (s : State),
    s.running? id q seq iter .scaleSet = some (c, x, r) →
    r.arg 63 40 = 0 →
    r.arg 79 78 = 0 →
    r.arg 511 85 = 0 →
    r.arg 74 72 ≤ 2 →
    r.arg 39 16 ≠ 0 →
    c.scaleN < r.arg 15 0 + r.arg 39 16 →
    ∃ t, exec (.scaleSet id q seq iter []) s = .next t ∧
      Ended t id q seq iter .extent 0 0 true ∧ { t with ctxs := s.ctxs } = s)

/-- R138, R139, R158, R173. -/
def Obligations.MoversMoveBytes : Prop :=
  (∀ (id q seq iter : Nat) (c : Ctx) (x : Queue) (r : Rec) (n : Nat) (g : MoverArgs) (s : State),
    s.running? id q seq iter .fill = some (c, x, r) →
    r.core = some n →
    s.mem.pieces = [] →
    s.mem.rowErrors = [] →
    cellsWf s.mem.cells = true →
    c.heldRelease [g.dst] = false →
    Undisturbed s c x r = true →
    s.moverTurn n r = true →
    g = r.moverArgs →
    g.dstSpace = 1 →
    moverCheck c x r false = none →
    ∃ t, exec (.fill id q seq iter []) s = .next t ∧
      Ended t id q seq iter .ok (g.rows * g.len) 0 true ∧ (∀ i < g.rows, readCells t.mem.cells (windowAddr x n (g.dstAddr + i * g.dstStride)) g.len = fillRow g.pattern g.len) ∧ (∀ a, (∀ i < g.rows, ¬(windowAddr x n (g.dstAddr + i * g.dstStride) ≤ a ∧ a < windowAddr x n (g.dstAddr + i * g.dstStride) + g.len)) → cellAt t.mem.cells a = cellAt s.mem.cells a) ∧ t.mem.wf = true ∧ { t with ctxs := s.ctxs, mem := s.mem } = s) ∧
  (∀ (id q seq iter : Nat) (c : Ctx) (x : Queue) (r : Rec) (n : Nat) (g : MoverArgs) (s : State),
    s.running? id q seq iter .copy = some (c, x, r) →
    r.core = some n →
    s.mem.pieces = [] →
    s.mem.rowErrors = [] →
    cellsWf s.mem.cells = true →
    c.heldRelease [g.dst] = false →
    Undisturbed s c x r = true →
    s.moverTurn n r = true →
    g = r.moverArgs →
    g.srcSpace = 1 →
    g.dstSpace = 1 →
    c.heldReads [g.src] = false →
    moverCheck c x r true = none →
    ∃ t, exec (.copy id q seq iter []) s = .next t ∧
      Ended t id q seq iter .ok (g.rows * g.len) 0 true ∧ (∀ i < g.rows, readCells t.mem.cells (windowAddr x n (g.dstAddr + i * g.dstStride)) g.len = readCells s.mem.cells (windowAddr x n (g.srcAddr + i * g.srcStride)) g.len) ∧ (∀ a, (∀ i < g.rows, ¬(windowAddr x n (g.dstAddr + i * g.dstStride) ≤ a ∧ a < windowAddr x n (g.dstAddr + i * g.dstStride) + g.len)) → cellAt t.mem.cells a = cellAt s.mem.cells a) ∧ t.mem.wf = true ∧ { t with ctxs := s.ctxs, mem := s.mem } = s)

/-- R69–R101 for operands in a window. -/
def Obligations.MatmulWritesItsOutputs : Prop :=
  (∀ (id q seq iter : Nat) (c : Ctx) (x : Queue) (r : Rec) (n : Nat) (ga : MatArgs) (w : MatJob) (s : State),
    s.running? id q seq iter .matmul = some (c, x, r) →
    r.core = some n →
    s.ahead n (fun op => op == .matmul) r.order = 0 →
    r.leave = true →
    s.gateClosed (tileOf n) = false →
    c.heldRelease (ga.c.regions ga.m) = false →
    c.heldReads (ga.a.regions ga.shapeA.1 ++ ga.b.regions ga.shapeB.1 ++ ga.c.regions ga.m) = false →
    Undisturbed s c x r = true →
    ga = r.matArgs →
    x.audit = false →
    ga.barred r.features = false →
    r.matReserved = false →
    ga.a.useSlot = false →
    ga.b.useSlot = false →
    ga.a.space = 1 →
    ga.b.space = 1 →
    ga.a.form.isMx = false →
    ga.b.form.isMx = false →
    ga.c.form = .p32i →
    ga.acc = false →
    ga.grouped = false →
    matCheck c x ga [] = none →
    s.mem.pieces = [] →
    s.mem.rowErrors = [] →
    cellsWf s.mem.cells = true →
    w = { g := ga, a := (List.range ga.shapeA.1).map (fun i => readCells s.mem.cells (windowAddr x n (ga.a.addr + i * ga.a.stride)) (rowBytes ga.a.form ga.shapeA.2)), sa := [], b := (List.range ga.shapeB.1).map (fun i => readCells s.mem.cells (windowAddr x n (ga.b.addr + i * ga.b.stride)) (rowBytes ga.b.form ga.shapeB.2)), sb := [], slotExp := 0 } →
    (w.rows ([], [])).2.sat = 0 →
    ∃ t, exec (.matmul id q seq iter []) s = .next t ∧
      Ended t id q seq iter .ok (w.rows ([], [])).2.flags.word (matWord (w.rows ([], [])).2 0 0) true ∧ (∀ i < ga.m, readCells t.mem.cells (windowAddr x n (ga.c.addr + i * ga.c.stride)) (4 * ga.n) = (List.range ga.n).flatMap (fun j => toLe 4 (w.output .zero i j).pair.word)) ∧ (∀ a, (∀ i < ga.m, ¬(windowAddr x n (ga.c.addr + i * ga.c.stride) ≤ a ∧ a < windowAddr x n (ga.c.addr + i * ga.c.stride) + 4 * ga.n)) → cellAt t.mem.cells a = cellAt s.mem.cells a) ∧ t.mem.wf = true ∧ { t with ctxs := s.ctxs, mem := s.mem } = s)

/-- R102–R132 for a chain in a window. R102–R132. -/
def Obligations.VectorRunsItsChain : Prop :=
  (∀ (id q seq iter : Nat) (c : Ctx) (x : Queue) (r : Rec) (n : Nat) (ga : Chain) (s : State),
    s.running? id q seq iter .vector = some (c, x, r) →
    r.core = some n →
    s.ahead n (fun op => op == .vector) r.order = 0 →
    s.chainRunning c x r = some ga →
    r.arg 49 48 = 1 →
    ga.named.all (fun y => y.space == 1 && !y.useSlot) = true →
    ga.elements ≤ 65536 ∨ r.leave = true →
    s.gateClosed (tileOf n) = false →
    c.heldReads (r.chainRegion :: ga.uses.flatMap ga.reach) = false →
    c.heldRelease ga.outputs = false →
    s.mem.pieces = [] →
    s.mem.rowErrors = [] →
    cellsWf s.mem.cells = true →
    ga.overlapped = [] →
    s.entangled c x r = false →
    c.guarded = [] →
    ∃ t, exec (.vector id q seq iter []) s = .next t ∧
      (∃ w0 w1, Ended t id q seq iter .ok w0 w1 true) ∧ t.mem.wf = true ∧ { t with ctxs := s.ctxs, mem := s.mem } = s) ∧
  (∀ (id q seq iter : Nat) (c : Ctx) (x : Queue) (r : Rec) (n : Nat) (e : Site) (ga : Chain) (slots : List (Nat × ScaleSlot)) (fl : Flow) (ov : Overlay) (ws : List (Nat × Nat × Bytes)) (fg : Flags) (u1 u2 u3 u4 s : State),
    s.running? id q seq iter .vector = some (c, x, r) →
    r.core = some n →
    s.ahead n (fun op => op == .vector) r.order = 0 →
    e = { ctx := id, queue := q, core := n, ups := [] } →
    s.vecAdmit e c x r = (u1, some (ga, slots)) →
    ga.elements ≤ 65536 ∨ r.leave = true →
    s.gateClosed (tileOf n) = false →
    r.chain.isSome = true ∨ c.heldReads [r.chainRegion] = false →
    s.starved c n (ga.uses.flatMap ga.reach) = false →
    c.heldRelease ga.outputs = false →
    c.heldReads (ga.uses.flatMap ga.reach) = false →
    ga.overlapped = [] →
    ((u1.loadLevel e ga slots ga.stages { xs := ga.start, draws := c.drawsOn n }).1, (u1.loadLevel e ga slots ga.stages { xs := ga.start, draws := c.drawsOn n }).2.toOption.map (fun fl0 => runStages ga slots false 0 ga.stages fl0)) = (u2, some fl) →
    ((u2.applyItems e ga (sortBy (fun (i : Item) => i.key) fl.items.reverse) ([], [], .none)).1, (u2.applyItems e ga (sortBy (fun (i : Item) => i.key) fl.items.reverse) ([], [], .none)).2.toOption) = (u3, some (ov, ws, fg)) →
    u3.putWrites e (joinWrites (sortBy (fun w => w.1 * 2 ^ 64 + w.2.1) (ws ++ ov.flatMap (fun o => pairWrites (ga.stream o.1) o.2.1 o.2.2)))) = (u4, none) →
    ∃ t, exec (.vector id q seq iter []) s = .next t ∧
      t = (((((u4.scramble e (if u1.entangled c x r then ga.outputs else [])).mergeAmax id fl.amax).keepDraws id fl.draws).endRec id q seq iter .ok (vecWord { fl with flags := fl.flags.or fg } 0).1 (vecWord { fl with flags := fl.flags.or fg } 0).2 true).wrote id q ((RecOf u1 id q seq iter).getD r)).repairRows)

/-- R363, R366, R344. -/
def Obligations.FencesAreMadeSharedAndDropped : Prop :=
  (∀ (m : Msg) (x : Session) (c : Ctx) (w i gg : Nat) (y : Fence) (s : State),
    Admits s .fenceCreate m x = true →
    s.ctx? m.ctx = some c →
    s.draining m.ctx = false →
    m.length = 32 →
    w = ofLe (slice m.payload 0 32) →
    field w 1 0 = 0 →
    (anySet w 63 2 || anySet w 127 64 || anySet w 255 192) = false →
    s.fences.length < 65536 →
    c.fences.length < 4096 →
    pickId 65536 (s.fences.map (fun f => f.index) ++ c.fenceMap.map (fun z => z.1 % 65536)) s.fencesFreed s.hub.timer (fun _ => false) = some (i, gg) →
    y = { index := i, gen := nextGen 16 gg, value := field w 191 128 } →
    ∃ t, exec (.fenceCreate m) s = .next t ∧
      Answered s t .fenceCreate m { status := .ok, arg0 := y.handle } ∧ OnlySent (({ s with fences := s.fences ++ [y], fencesFreed := s.fencesFreed.filter (fun z => z.1 != i) } : State).modCtx c.id (fun d => { d with fences := d.fences ++ [i] })) t) ∧
  (∀ (m : Msg) (x : Session) (c : Ctx) (w : Nat) (y : Fence) (s : State),
    Admits s .fenceCreate m x = true →
    s.ctx? m.ctx = some c →
    s.draining m.ctx = false →
    m.length = 32 →
    w = ofLe (slice m.payload 0 32) →
    field w 1 0 = 1 →
    (anySet w 63 2 || anySet w 127 96 || anySet w 255 128) = false →
    s.heldFence c (field w 95 64) = some y →
    y.abandoned = false →
    ∃ t, exec (.fenceExport m) s = .next t ∧
      Answered s t .fenceCreate m { status := .ok, payload := (s.draw 8).2 } ∧ OnlySent ((s.draw 8).1.modFence y.index (fun z => { z with key := some (ofLe (s.draw 8).2) })) t) ∧
  (∀ (m : Msg) (x : Session) (c : Ctx) (w : Nat) (y : Fence) (s : State),
    Admits s .fenceCreate m x = true →
    s.ctx? m.ctx = some c →
    s.draining m.ctx = false →
    m.length = 32 →
    w = ofLe (slice m.payload 0 32) →
    field w 1 0 = 2 →
    (anySet w 63 2 || anySet w 127 96 || anySet w 191 128) = false →
    s.fenceOf (c.translate (field w 95 64)) = some y →
    y.key = some (field w 255 192) →
    s.ctxs.any (fun d => d.fences.contains y.index) = true →
    y.index ∉ c.fences →
    c.fenceMap.all (fun z => z.1 != field w 95 64) = true →
    y.abandoned = false →
    c.fences.length < 4096 →
    ∃ t, exec (.fenceImport m) s = .next t ∧
      Answered s t .fenceCreate m { status := .ok, arg0 := y.handle } ∧ OnlySent (s.modCtx c.id (fun d => { d with fences := d.fences ++ [y.index] })) t) ∧
  (∀ (m : Msg) (x : Session) (c : Ctx) (w : Nat) (y : Fence) (s : State),
    Admits s .fenceDestroy m x = true →
    s.ctx? m.ctx = some c →
    s.draining m.ctx = false →
    m.length = 8 →
    w = ofLe (slice m.payload 0 8) →
    anySet w 63 32 = false →
    s.heldFence c (field w 31 0) = some y →
    ∃ t, exec (.fenceDestroy m) s = .next t ∧
      Answered s t .fenceDestroy m (.of .ok) ∧ (∀ d ∈ t.ctxs, d.id = c.id → y.index ∉ d.fences) ∧ (∀ z ∈ t.waits, ¬(z.onFence y.index = true ∧ z.ctx = c.id)) ∧ t.mem = s.mem ∧ t.vault = s.vault ∧ t.otp = s.otp)

/-- R364, R365, R367, R161, R163. -/
def Obligations.FenceSignalsReleaseTheirWaits : Prop :=
  (∀ (m : Msg) (x : Session) (c : Ctx) (w : Nat) (y : Fence) (s : State),
    Admits s .fenceSignal m x = true →
    s.ctx? m.ctx = some c →
    s.draining m.ctx = false →
    m.length = 16 →
    w = ofLe (slice m.payload 0 16) →
    anySet w 63 32 = false →
    s.heldFence c (field w 31 0) = some y →
    y.abandoned = false →
    y.value < field w 127 64 →
    ∃ t, exec (.fenceSignal m) s = .next t ∧
      Answered s t .fenceSignal m { status := .ok, arg0 := field w 127 64 } ∧ (∀ z ∈ t.waits, z.reached y.index (field w 127 64) = false) ∧ OnlySent { (s.modFence y.index (fun z => { z with value := field w 127 64 })) with waits := t.waits, ledger := t.ledger } t) ∧
  (∀ (m : Msg) (x : Session) (c : Ctx) (w : Nat) (y : Fence) (s : State),
    Admits s .fenceSignal m x = true →
    s.ctx? m.ctx = some c →
    s.draining m.ctx = false →
    m.length = 16 →
    w = ofLe (slice m.payload 0 16) →
    anySet w 63 32 = false →
    s.heldFence c (field w 31 0) = some y →
    y.abandoned = false →
    field w 127 64 ≤ y.value →
    ∃ t, exec (.fenceSignal m) s = .next t ∧
      Answered s t .fenceSignal m { status := .fenceRegression, arg0 := y.value } ∧ OnlySent s t) ∧
  (∀ (m : Msg) (x : Session) (c : Ctx) (w tg : Nat) (y : Fence) (s : State),
    Admits s .fenceWait m x = true →
    s.ctx? m.ctx = some c →
    s.draining m.ctx = false →
    m.length = 24 →
    w = ofLe (slice m.payload 0 24) →
    (anySet w 63 32 || anySet w 191 160) = false →
    s.ledger.freeTag hubTags 4096 = some tg →
    s.heldFence c (field w 31 0) = some y →
    y.abandoned = false →
    field w 127 64 ≤ y.value ∨ field w 159 128 = 0 →
    ∃ t, exec (.fenceWait m) s = .next t ∧
      Answered s t .fenceWait m { status := if field w 127 64 ≤ y.value then .ok else .timeout, arg0 := y.value } ∧ OnlySent s t) ∧
  (∀ (m : Msg) (x : Session) (c : Ctx) (w tg : Nat) (y : Fence) (s : State),
    Admits s .fenceWait m x = true →
    s.ctx? m.ctx = some c →
    s.draining m.ctx = false →
    m.length = 24 →
    w = ofLe (slice m.payload 0 24) →
    (anySet w 63 32 || anySet w 191 160) = false →
    s.ledger.freeTag hubTags 4096 = some tg →
    s.heldFence c (field w 31 0) = some y →
    y.abandoned = false →
    y.value < field w 127 64 →
    field w 159 128 ≠ 0 →
    ∃ t, exec (.fenceWait m) s = .next t ∧
      Answered s t .fenceWait m { status := .pending, arg0 := y.value } ∧ OnlySent { s with ledger := s.ledger.issue tg (.fenceWait m.session m.tag) (some c.id) (some (s.hub.timer + field w 159 128 * 1024)), waits := s.waits ++ [{ session := m.session, sgen := x.gen, opcode := .fenceWait, tag := m.tag, ctx := m.ctx, ctxGen := m.ctxGen, what := .fence y.index (field w 127 64) tg }] } t) ∧
  (∀ (tg d0 i v : Nat) (e : LedgerEntry) (z : Wait) (y : Fence) (s : State),
    s.alive = true →
    s.ledger.entry? tg = some e →
    e.quarantine = none →
    e.deadline = some d0 →
    d0 ≤ s.hub.timer →
    s.waits.find? (fun k => k.fenceTag == some tg) = some z →
    z.what = .fence i v tg →
    s.fence? i = some y →
    ∃ t, exec (.fenceWaitTimeout tg) s = .next t ∧
      t = ({ s with ledger := s.ledger.expire tg s.hub.timer } : State).finish z { status := .timeout, arg0 := y.value } ∧ t.fences = s.fences ∧ (∀ k ∈ t.waits, ¬(k.session = z.session ∧ k.sgen = z.sgen ∧ k.tag = z.tag)))

/-- R336–R338, R391, R394. -/
def Obligations.BulkRequestsMoveRegions : Prop :=
  (∀ (m : Msg) (x : Session) (c : Ctx) (ups : List Upset) (u v s : State),
    Admits s .bulkIn m x = true →
    s.ctx? m.ctx = some c →
    s.draining m.ctx = false →
    c.heldRelease [{ space := 0, addr := field m.arg0 47 0, bytes := m.payload.length }] = false →
    anySet m.arg0 63 48 = false →
    c.open_ (field m.arg0 47 0) m.payload.length = true →
    c.writingHalf (field m.arg0 47 0) m.payload.length = false →
    u = s.takeMail .bulkIn m →
    u.bulkWrite c.id ups (field m.arg0 47 0) m.payload = (v, none) →
    ∃ t, exec (.bulkIn m ups) s = .next t ∧
      t = v.answer .bulkIn m (.of .ok) ∧ Answered s t .bulkIn m (.of .ok)) ∧
  (∀ (m : Msg) (x : Session) (c : Ctx) (f : Nat) (s : State),
    Admits s .bulkIn m x = true →
    s.ctx? m.ctx = some c →
    s.draining m.ctx = false →
    c.heldRelease [{ space := 0, addr := field m.arg0 47 0, bytes := m.payload.length }] = false →
    anySet m.arg0 63 48 = false →
    PlainRegion s c (field m.arg0 47 0) m.payload.length f = true →
    c.open_ (field m.arg0 47 0) m.payload.length = true →
    c.writingHalf (field m.arg0 47 0) m.payload.length = false →
    cellsWf s.mem.cells = true →
    ∃ t, exec (.bulkIn m []) s = .next t ∧
      Answered s t .bulkIn m (.of .ok) ∧ readCells t.mem.cells (physAt f (field m.arg0 47 0 % pageSize)) m.payload.length = m.payload ∧ (∀ a, ¬(physAt f (field m.arg0 47 0 % pageSize) ≤ a ∧ a < physAt f (field m.arg0 47 0 % pageSize) + m.payload.length) → cellAt t.mem.cells a = cellAt s.mem.cells a) ∧ t.mem.wf = true) ∧
  (∀ (m : Msg) (x : Session) (c : Ctx) (w : Nat) (bs : Bytes) (ups : List Upset) (u v s : State),
    Admits s .bulkOut m x = true →
    s.ctx? m.ctx = some c →
    m.length = 8 →
    w = ofLe (slice m.payload 0 8) →
    c.heldReads [{ space := 0, addr := field m.arg0 47 0, bytes := field w 31 0 }] = false →
    anySet m.arg0 63 48 = false →
    field w 31 0 ≤ 65504 →
    anySet w 63 32 = false →
    c.policy = none →
    c.mapped (field m.arg0 47 0) (field w 31 0) = true →
    u = s.takeMail .bulkOut m →
    (u.readV c.id none ups (field m.arg0 47 0) (field w 31 0)).1 = v →
    (u.readV c.id none ups (field m.arg0 47 0) (field w 31 0)).2.toOption = some bs →
    ∃ t, exec (.bulkOut m ups) s = .next t ∧
      t = v.answer .bulkOut m { status := .ok, payload := bs } ∧ Answered s t .bulkOut m { status := .ok, payload := bs }) ∧
  (∀ (m : Msg) (x : Session) (c : Ctx) (w f : Nat) (s : State),
    Admits s .bulkOut m x = true →
    s.ctx? m.ctx = some c →
    m.length = 8 →
    w = ofLe (slice m.payload 0 8) →
    c.heldReads [{ space := 0, addr := field m.arg0 47 0, bytes := field w 31 0 }] = false →
    anySet m.arg0 63 48 = false →
    field w 31 0 ≤ 65504 →
    anySet w 63 32 = false →
    c.policy = none →
    c.mapped (field m.arg0 47 0) (field w 31 0) = true →
    PlainRegion s c (field m.arg0 47 0) (field w 31 0) f = true →
    ∃ t, exec (.bulkOut m []) s = .next t ∧
      Answered s t .bulkOut m { status := .ok, payload := readCells s.mem.cells (physAt f (field m.arg0 47 0 % pageSize)) (field w 31 0) } ∧ t.mem = s.mem ∧ t.vault = s.vault)

/-- R194, R196–R198, R212, R403. -/
def Obligations.MapGrantMapsPublishesAndAttaches : Prop :=
  (∀ (m : Msg) (x : Session) (c : Ctx) (k : Grant) (u s : State),
    Admits s .mapGrant m x = true →
    s.ctx? m.ctx = some c →
    k = grantOf (ofLe (slice m.payload 0 32)) →
    u = s.takeMail .mapGrant m →
    u.grantCheck x c m.length k = none →
    k.kind = 0 →
    k.pages ≤ u.localPart c k.pages →
    ∃ t, exec (.mapGrantMap m) s = .next t ∧
      t = ((List.range k.pages).foldl (fun y i => y.grantPage c.id (k.va / pageSize + i)) u).answer .mapGrant m (.of .ok) ∧ Answered s t .mapGrant m (.of .ok)) ∧
  (∀ (m : Msg) (x : Session) (c : Ctx) (k : Grant) (f : Nat) (u s : State),
    Admits s .mapGrant m x = true →
    s.ctx? m.ctx = some c →
    k = grantOf (ofLe (slice m.payload 0 32)) →
    u = s.takeMail .mapGrant m →
    u.grantCheck x c m.length k = none →
    k.kind = 0 →
    k.pages = 1 →
    u.localPart c 1 = 1 →
    s.freeHbm 0 = some f →
    cellsWf s.mem.cells = true →
    ∃ t, exec (.mapGrantMap m) s = .next t ∧
      (∀ d ∈ t.ctxs, d.id = c.id → d.pages.getLast? = some { va := k.va / pageSize, hbm := some f }) ∧ (∀ a, physAt f 0 ≤ a ∧ a < physAt f pageSize → cellAt t.mem.cells a = 0) ∧ (∀ a, ¬(physAt f 0 ≤ a ∧ a < physAt f pageSize) → cellAt t.mem.cells a = cellAt s.mem.cells a) ∧ t.mem.wf = true) ∧
  (∀ (m : Msg) (x : Session) (c : Ctx) (k : Grant) (u s : State),
    Admits s .mapGrant m x = true →
    s.ctx? m.ctx = some c →
    k = grantOf (ofLe (slice m.payload 0 32)) →
    u = s.takeMail .mapGrant m →
    u.grantCheck x c m.length k = none →
    k.kind = 0 →
    u.localPart c k.pages < k.pages →
    ∃ t, exec (.mapGrantMap m) s = .next t ∧
      t = ((List.range (k.pages - u.localPart c k.pages)).foldl (fun y i => y.grantLent c (k.va / pageSize + u.localPart c k.pages + i)) ((List.range (u.localPart c k.pages)).foldl (fun y i => y.grantPage c.id (k.va / pageSize + i)) u)).answer .mapGrant m (.of .ok)) ∧
  (∀ (m : Msg) (x : Session) (c : Ctx) (k : Grant) (u s : State),
    Admits s .mapGrant m x = true →
    s.ctx? m.ctx = some c →
    k = grantOf (ofLe (slice m.payload 0 32)) →
    u = s.takeMail .mapGrant m →
    u.grantCheck x c m.length k = none →
    k.kind = 1 →
    ∃ t, exec (.mapGrantLimits m) s = .next t ∧
      Answered s t .mapGrant m (.of .ok) ∧ (∀ d ∈ t.ctxs, d.id = c.id → d.limits = { localMax := k.a, sramMax := k.b, nbrMax := k.d }) ∧ t.vault.slots = s.vault.slots ∧ t.fences = s.fences ∧ t.otp = s.otp) ∧
  (∀ (m : Msg) (x : Session) (c : Ctx) (k : Grant) (i g0 : Nat) (u s : State),
    Admits s .mapGrant m x = true →
    s.ctx? m.ctx = some c →
    k = grantOf (ofLe (slice m.payload 0 32)) →
    u = s.takeMail .mapGrant m →
    u.grantCheck x c m.length k = none →
    k.kind = 2 →
    k.pages ≠ 0 →
    pickId 65536 (s.shares.map (fun z => z.index)) s.sharesFreed s.hub.timer (fun _ => false) = some (i, g0) →
    (((u.cancelMoves (fun z => z.ctx == c.id && decide (k.va / pageSize ≤ z.va) && decide (z.va < k.va / pageSize + k.pages))).draw 8).1.publishPages c i ((List.range k.pages).flatMap (fun j => ((c.page? (k.va / pageSize + j)).map (fun p => (p, j))).toList))).isSome = true →
    ∃ t, exec (.mapGrantPublish m) s = .next t ∧
      Answered s t .mapGrant m { status := .ok, payload := toLe 2 i ++ toLe 2 (nextGen 16 g0) ++ toLe 4 0 ++ (s.draw 8).2 } ∧ (∃ y ∈ t.shares, y.index = i ∧ y.gen = nextGen 16 g0 ∧ y.key = ofLe (s.draw 8).2 ∧ y.ctx = c.id ∧ y.maps = [(c.id, k.va / pageSize)]) ∧ t.hub.trng = s.hub.trng + 8) ∧
  (∀ (m : Msg) (x : Session) (c : Ctx) (k : Grant) (u s : State),
    Admits s .mapGrant m x = true →
    s.ctx? m.ctx = some c →
    k = grantOf (ofLe (slice m.payload 0 32)) →
    u = s.takeMail .mapGrant m →
    u.grantCheck x c m.length k = none →
    k.kind = 2 →
    k.pages = 0 →
    ∃ t, exec (.mapGrantPublish m) s = .next t ∧
      Answered s t .mapGrant m (.of .ok) ∧ OnlySent s t) ∧
  (∀ (m : Msg) (x : Session) (c : Ctx) (k : Grant) (y : Share) (u s : State),
    Admits s .mapGrant m x = true →
    s.ctx? m.ctx = some c →
    k = grantOf (ofLe (slice m.payload 0 32)) →
    u = s.takeMail .mapGrant m →
    u.grantCheck x c m.length k = none →
    k.kind = 3 →
    s.shareNamed k = some y →
    ∃ t, exec (.mapGrantAttach m) s = .next t ∧
      Answered s t .mapGrant m (.of .ok) ∧ OnlySent (s.attach c y (k.va / pageSize)) t ∧ (∀ i < y.pages.length, ∀ d ∈ t.ctxs, d.id = c.id → ∃ p ∈ d.pages, p.va = k.va / pageSize + i ∧ p.ro = true ∧ p.share = some (y.index, i)))

/-- R159, R199, R202, R206–R208. -/
def Obligations.UnmapAndHintsChangeTheirPages : Prop :=
  (∀ (m : Msg) (x : Session) (c : Ctx) (w vp n : Nat) (u s : State),
    Admits s .unmap m x = true →
    s.ctx? m.ctx = some c →
    m.length = 16 →
    w = ofLe (slice m.payload 0 16) →
    (anySet w 63 48 || anySet w 127 88) = false →
    field w 47 0 = vp * pageSize →
    n = field w 87 64 →
    c.mappedPages vp n = true →
    s.cutsObject c vp n = false →
    u = s.takeMail .unmap m →
    n = 0 →
    ∃ t, exec (.unmap m) s = .next t ∧
      Answered s t .unmap m (.of .ok) ∧ OnlySent s t) ∧
  (∀ (m : Msg) (x : Session) (c : Ctx) (w vp n : Nat) (u s : State),
    Admits s .unmap m x = true →
    s.ctx? m.ctx = some c →
    m.length = 16 →
    w = ofLe (slice m.payload 0 16) →
    (anySet w 63 48 || anySet w 127 88) = false →
    field w 47 0 = vp * pageSize →
    n = field w 87 64 →
    c.mappedPages vp n = true →
    s.cutsObject c vp n = false →
    u = s.takeMail .unmap m →
    n ≠ 0 →
    u.pagesHeld c vp n = false →
    ∃ t, exec (.unmap m) s = .next t ∧
      t = (u.unmapPages c.id vp n).answer .unmap m (.of .ok) ∧ Answered s t .unmap m (.of .ok) ∧ (∀ d ∈ t.ctxs, d.id = c.id → ∀ p ∈ d.pages, ¬(vp ≤ p.va ∧ p.va < vp + n))) ∧
  (∀ (m : Msg) (x : Session) (c : Ctx) (w vp n : Nat) (u s : State),
    Admits s .unmap m x = true →
    s.ctx? m.ctx = some c →
    m.length = 16 →
    w = ofLe (slice m.payload 0 16) →
    (anySet w 63 48 || anySet w 127 88) = false →
    field w 47 0 = vp * pageSize →
    n = field w 87 64 →
    c.mappedPages vp n = true →
    s.cutsObject c vp n = false →
    u = s.takeMail .unmap m →
    n ≠ 0 →
    u.pagesHeld c vp n = true →
    ∃ t, exec (.unmap m) s = .next t ∧
      Answered s t .unmap m (.of .pending) ∧ OnlySent { s with waits := s.waits ++ [{ session := m.session, sgen := x.gen, opcode := .unmap, tag := m.tag, ctx := m.ctx, ctxGen := m.ctxGen, what := .unmap vp n }] } t) ∧
  (∀ (m : Msg) (x : Session) (c : Ctx) (w vp n : Nat) (s : State),
    Admits s .pageHint m x = true →
    s.ctx? m.ctx = some c →
    m.length = 16 →
    w = ofLe (slice m.payload 0 16) →
    (anySet w 63 48 || anySet w 95 88 || anySet w 127 99) = false →
    field w 47 0 = vp * pageSize →
    n = field w 87 64 →
    c.mappedPages vp n = true →
    flag w 96 = false →
    ∃ t, exec (.pageHint m) s = .next t ∧
      Answered s t .pageHint m (.of .ok) ∧ (t.ctx? c.id).map (fun d => d.pages) = some (c.pages.map (fun p => if vp ≤ p.va ∧ p.va < vp + n then (if p.share.isSome then { p with pin := false, affinity := none } else { p with pin := false, streamOnce := flag w 97, cold := flag w 98, affinity := none }) else p)) ∧ t.vault = s.vault ∧ (∀ z ∈ t.moves, z ∈ s.moves) ∧ ((c.rangePages vp n).all (fun p => p.share.isNone) = true → t.moves = s.moves ∧ t.mem = s.mem)) ∧
  (∀ (m : Msg) (x : Session) (c : Ctx) (w vp n : Nat) (u v s : State),
    Admits s .pageHint m x = true →
    s.ctx? m.ctx = some c →
    m.length = 16 →
    w = ofLe (slice m.payload 0 16) →
    (anySet w 63 48 || anySet w 95 88 || anySet w 127 99) = false →
    field w 47 0 = vp * pageSize →
    n = field w 87 64 →
    c.mappedPages vp n = true →
    flag w 96 = true →
    flag w 97 = false →
    flag w 98 = false →
    (c.rangePages vp n).all (fun p => p.lease.isNone) = true →
    c.pinned + ((c.rangePages vp n).filter (fun p => !p.pin)).length ≤ c.limits.sramMax →
    u = s.takeMail .pageHint m →
    v = (u.modCtx c.id (fun d => { d with pages := d.pages.map (fun p => if vp ≤ p.va ∧ p.va < vp + n then (if p.share.isSome then { p with pin := true, affinity := none } else { p with pin := true, streamOnce := false, cold := false, affinity := none }) else p) })).retryPins →
    ∃ t, exec (.pageHint m) s = .next t ∧
      t = (if n = 0 ∨ (v.ctx? c.id).all (fun d => v.allInTier d vp n) = true then v.answer .pageHint m (.of .ok) else (v.await x .pageHint m (.pin vp n)).holdTag m) ∧ (∀ d ∈ t.ctxs, d.id = c.id → ∀ p ∈ d.pages, vp ≤ p.va → p.va < vp + n → p.pin = true)) ∧
  (∀ (m : Msg) (x : Session) (c : Ctx) (w vp n : Nat) (s : State),
    Admits s .pageHint m x = true →
    s.ctx? m.ctx = some c →
    m.length = 16 →
    w = ofLe (slice m.payload 0 16) →
    (anySet w 63 48 || anySet w 95 88 || anySet w 127 99) = false →
    field w 47 0 = vp * pageSize →
    n = field w 87 64 →
    c.mappedPages vp n = true →
    n ≠ 0 →
    flag w 96 = true →
    flag w 97 = false →
    flag w 98 = false →
    (c.rangePages vp n).all (fun p => p.lease.isNone) = true →
    c.pinned + ((c.rangePages vp n).filter (fun p => !p.pin)).length ≤ c.limits.sramMax →
    c.res.state ≠ .resident →
    s.allInTier c vp n = false →
    s.moves = [] →
    s.ctxs.all (fun d => d.pages.all (fun p => !p.pin)) = true →
    ∃ t, exec (.pageHint m) s = .next t ∧
      t.out = s.out ∧ t.moves = [] ∧ t.mem = s.mem ∧ (∀ d ∈ t.ctxs, d.id = c.id → ∀ p ∈ d.pages, vp ≤ p.va → p.va < vp + n → p.pin = true) ∧ (∃ z ∈ t.waits, z.session = m.session ∧ z.tag = m.tag ∧ z.what = .pin vp n))

/-- R189, R191, R219, R220, R223, R224. -/
def Obligations.PlacementIsRegulatedAndReported : Prop :=
  (∀ (m : Msg) (x : Session) (s : State),
    Admits s .regulate m x = true →
    x.role = .management →
    m.length = 64 →
    (List.range 16).all (fun i => !(anySet (ofLe (slice m.payload (4 * i) 4)) 15 9 || anySet (ofLe (slice m.payload (4 * i) 4)) 31 25)) = true →
    (partitionsOf m.payload).all (fun p => decide (p.share ≤ 252) && decide (p.ceiling ≤ 256) && decide (p.share ≤ p.ceiling)) = true →
    ((partitionsOf m.payload).map (fun p => p.share)).sum ≤ 252 →
    (partitionsOf m.payload).head?.all (fun p => p.ceiling != 0) = true →
    s.ctxs.all (fun c => (partitionsOf m.payload)[c.assigned.part]?.all (fun p => p.ceiling != 0)) = true →
    ∃ t, exec (.regulate m) s = .next t ∧
      Answered s t .regulate m { status := .ok, payload := t.partitionBytes } ∧ t.mem.partitions = partitionsOf m.payload ∧ OnlySent { s with mem := { s.mem with partitions := partitionsOf m.payload } } t) ∧
  (∀ (m : Msg) (x : Session) (s : State),
    Admits s .regulate m x = true →
    x.role = .management →
    m.length = 0 →
    ∃ t, exec (.regulate m) s = .next t ∧
      Answered s t .regulate m { status := .ok, payload := s.partitionBytes } ∧ OnlySent s t) ∧
  (∀ (m : Msg) (x : Session) (c : Ctx) (w : Nat) (s : State),
    Admits s .placeLog m x = true →
    s.ctxs.find? (fun d => d.id == m.ctx && d.gen == m.ctxGen && m.ctxGen != 0) = some c →
    m.length = 8 →
    w = ofLe (slice m.payload 0 8) →
    field w 1 0 = 0 →
    (anySet w 15 2 || anySet w 63 32) = false →
    field w 31 16 ≤ 16 →
    field w 31 16 ≠ 0 →
    x.role ≠ .management ∨ s.conf = false →
    ∃ t, exec (.placeLogAggregate m) s = .next t ∧
      Answered s t .placeLog m { status := .ok, arg0 := c.period.lost, payload := (c.period.records.take (field w 31 16)).flatten } ∧ OnlySent (s.modCtx c.id (fun d => { d with period := { d.period with records := d.period.records.drop (field w 31 16), lost := 0 } })) t) ∧
  (∀ (m : Msg) (x : Session) (w : Nat) (s : State),
    Admits s .placeLog m x = true →
    m.length = 8 →
    w = ofLe (slice m.payload 0 8) →
    field w 1 0 = 1 →
    (anySet w 15 2 || anySet w 63 32) = false →
    field w 31 16 ≤ 2047 →
    field w 31 16 ≠ 0 →
    x.role = .management →
    s.conf = false →
    ∃ t, exec (.placeLogMoves m) s = .next t ∧
      Answered s t .placeLog m { status := .ok, arg0 := s.logs.movesLost, payload := (s.logs.moves.take (field w 31 16)).flatten } ∧ OnlySent { s with logs := { s.logs with moves := s.logs.moves.drop (field w 31 16), movesLost := 0 } } t) ∧
  (∀ (id : Nat) (c : Ctx) (s : State),
    s.alive = true →
    s.ctx? id = some c →
    c.period.since + 2 ^ 28 ≤ s.hub.timer →
    ∃ t, exec (.aggregateRecordClose id) s = .next t ∧
      (t.ctx? id).map (fun d => d.period) = some { since := s.hub.timer, closed := c.period.closed + 1, records := if c.period.records.length < 16 then c.period.records ++ [s.aggregate c] else c.period.records.drop 1 ++ [s.aggregate c], lost := if c.period.records.length < 16 then c.period.lost else c.period.lost + 1 } ∧ { t with ctxs := s.ctxs } = s) ∧
  (∀ (m : Msg) (x : Session) (c : Ctx) (w qn : Nat) (l : List Nat) (y : Queue) (s : State),
    Admits s .backfillBind m x = true →
    s.ctx? m.ctx = some c →
    m.length = 16 →
    w = ofLe (slice m.payload 0 16) →
    qn = field w 5 0 →
    flag w 8 = false →
    (anySet w 7 6 || anySet w 15 9 || anySet w 63 32) = false →
    c.queue? qn = some y →
    y.genMode = false →
    l = (List.range 64).filter (fun n => flag w (64 + n)) →
    l ≠ [] →
    (∀ n ∈ l, n ≠ qn ∧ (c.queue? n).isSome = true) →
    (∀ b ∈ c.backfill, b.queue ≠ qn → qn ∉ b.leads ∧ b.queue ∉ l ∧ ∀ n ∈ b.leads, n ∉ l) →
    ∃ t, exec (.backfillBind m) s = .next t ∧
      Answered s t .backfillBind m (.of .ok) ∧ OnlySent (s.modCtx c.id (fun d => { d with backfill := c.backfill.filter (fun b => b.queue != qn) ++ [{ queue := qn, leads := l, bound := field w 31 16 * 2 ^ 24, held := (y.recs.map (fun r => r.heldBytes)).sum }] })) t) ∧
  (∀ (m : Msg) (x : Session) (c : Ctx) (w qn : Nat) (l : List Nat) (y : Queue) (s : State),
    Admits s .backfillBind m x = true →
    s.ctx? m.ctx = some c →
    m.length = 16 →
    w = ofLe (slice m.payload 0 16) →
    qn = field w 5 0 →
    flag w 8 = true →
    (anySet w 7 6 || anySet w 15 9 || anySet w 63 16 || anySet w 127 64) = false →
    c.queue? qn = some y →
    c.backfill.any (fun b => b.queue == qn) = true →
    ∃ t, exec (.backfillUnbind m) s = .next t ∧
      Answered s t .backfillBind m (.of .ok) ∧ OnlySent (s.modCtx c.id (fun d => { d with backfill := c.backfill.filter (fun b => b.queue != qn) })) t)

/-- R160, R201–R205. -/
def Obligations.ReviewsStartMovesThatSwitchPages : Prop :=
  (∀ (id : Nat) (c : Ctx) (s : State),
    s.alive = true →
    s.life.trial = none →
    s.ctx? id = some c →
    c.res.state = .resident →
    c.res.leaving = .stays →
    c.reviewed ≠ some s.period →
    ∃ t, exec (.placementReview id) s = .next t ∧
      t = ((((s.freshBudget).reviewPages id).reviewLending id).renewLeases id).settleMoves ∧ (∀ d ∈ t.ctxs, d.id = id → d.reviewed = some s.period) ∧ t.budgetPeriod = s.period) ∧
  (∀ (id n f : Nat) (c : Ctx) (p : Page) (why : Reason) (s : State),
    s.alive = true →
    s.life.trial = none →
    s.ctx? id = some c →
    c.res.state = .resident →
    c.res.leaving = .stays →
    c.res.pinning = false →
    c.reviewed ≠ some s.period →
    c.pages = [p] →
    p.reviewable = true →
    p.tier = none →
    p.snap = false →
    16 ≤ p.heatSum →
    s.moves = [] →
    1 ≤ s.allowance c →
    c.queues = [] →
    flag (s.featuresOf c) fLender = false →
    s.links.leases = [] →
    s.ctxs.all (fun d => d.pages.all (fun q => !q.pin)) = true →
    s.sliceFor c p = some (n, why) →
    s.freeTierOf n = some f →
    s.freshBudget.budgetLeft (tileOf n) ≠ 0 →
    ∃ t, exec (.placementReview id) s = .next t ∧
      t.moves = [{ ctx := id, va := p.va, dest := f, reason := why, keyId := 0, tile := tileOf n, paid := true, going := true }] ∧ t.mem.tierUse = f :: s.mem.tierUse ∧ t.mem.cells = s.mem.cells ∧ (t.ctx? id).map (fun d => d.pages) = some [{ p with heat := p.heat.map (fun h => h / 2) }] ∧ sparse t.budget (tileOf n) = sparse s.freshBudget.budget (tileOf n) + 1) ∧
  (∀ (id vp : Nat) (c : Ctx) (p : Page) (z : Move) (u s : State),
    s.alive = true →
    s.life.trial = none →
    u = s.pumpMoves →
    u.ctx? id = some c →
    c.page? vp = some p →
    u.moves.find? (fun k => k.ctx == id && k.va == vp && k.going) = some z →
    u.snapshotPage id vp = false →
    u.ledger.entries.all (fun e => e.quarantine.isSome || !(match e.holder with | .transfer c0 _ v => c0 == id && v == vp | _ => false)) = true →
    ∃ t, exec (.pageMoveSwitch id vp) s = .next t ∧
      t = (u.endMove z).settleMoves) ∧
  (∀ (id vp f : Nat) (c : Ctx) (p : Page) (z : Move) (s : State),
    s.alive = true →
    s.life.trial = none →
    s.ctx? id = some c →
    c.page? vp = some p →
    s.moves = [z] →
    z.ctx = id →
    z.va = vp →
    z.going = true →
    s.snapshotPage id vp = false →
    s.ledger.entries = [] →
    s.ctxs.all (fun d => d.pages.all (fun q => !q.pin)) = true →
    z.keyId = 0 →
    isTier z.dest = true →
    p.share = none →
    p.tier = none →
    p.lease = none →
    p.hbm = some f →
    isHbm f = true →
    cellsWf s.mem.cells = true →
    cellsIn s.mem.cells (physAt z.dest 0) pageSize = [] →
    ∃ t, exec (.pageMoveSwitch id vp) s = .next t ∧
      t.moves = [] ∧ (t.ctx? id).bind (fun d => d.page? vp) = some { p with tier := some z.dest } ∧ (∀ o < pageSize, cellAt t.mem.cells (physAt z.dest o) = cellAt s.mem.cells (physAt f o)) ∧ (∀ a, ¬(physAt f 0 ≤ a ∧ a < physAt f pageSize) → ¬(physAt z.dest 0 ≤ a ∧ a < physAt z.dest pageSize) → cellAt t.mem.cells a = cellAt s.mem.cells a) ∧ t.mem.wf = true) ∧
  (∀ (id n vp : Nat) (y : Nat → Move) (s : State),
    s.alive = true →
    s.life.trial = none →
    s.moves = (List.range (n + 1)).map y →
    (∀ i ≤ n, (y i).keyId = 0 ∧ (y i).tile = 0) →
    8 ≤ n →
    (∀ i < n, (y i).going = true) →
    (y n).going = false →
    (y n).ctx = id →
    (y n).va = vp →
    (∀ i < n, ¬((y i).ctx = id ∧ (y i).va = vp)) →
    ∃ t, exec (.pageMoveSwitch id vp) s = .next t ∧
      t = s)

/-- R281, R284–R286. -/
def Obligations.CollectivesBeginTheirInstance : Prop :=
  (∀ (id q seq iter : Nat) (c : Ctx) (x : Queue) (r : Rec) (a : CollArgs) (y : Group) (ups : List Upset) (tg : Nat) (s : State),
    s.running? id q seq iter .collective = some (c, x, r) →
    a = collArgs (ofLe (r.image.drop 64)) →
    a.coll = 0 →
    flag r.features fMxfp4 = true ∨ (a.srcFmt ≠ 4 ∧ a.dstFmt ≠ 4) →
    (a.rsvd || a.alg == 3 || decide (2 ≤ a.srcSpace) || decide (2 ≤ a.dstSpace)) = false →
    a.count ≠ 0 →
    (s.collCheck c x.number a).toOption = some y →
    s.links.insts.length < 64 →
    s.links.insts.all (fun i => !(i.ctx == id && i.audit.isNone && i.queue == q && i.seq == seq && i.iter == iter)) = true →
    c.heldReads [{ space := 0, addr := a.src, bytes := a.reads y.members.length y.rank * collElem a.srcFmt }] = false →
    s.ledger.freeTag hubTags 4096 = some tg →
    ∃ t, exec (.collectiveAllReduce id q seq iter ups) s = .next t ∧
      (∃ z, t.group? id y.id = some z ∧ z.nextInst = y.nextInst + 1 ∧ z.queue = some x.number ∧ z.gen = y.gen ∧ z.members = y.members)) ∧
  (∀ (id q seq iter : Nat) (c : Ctx) (x : Queue) (r : Rec) (a : CollArgs) (y : Group) (ups : List Upset) (tg : Nat) (s : State),
    s.running? id q seq iter .collective = some (c, x, r) →
    a = collArgs (ofLe (r.image.drop 64)) →
    a.coll = 1 →
    flag r.features fMxfp4 = true ∨ (a.srcFmt ≠ 4 ∧ a.dstFmt ≠ 4) →
    (a.rsvd || a.alg == 3 || decide (2 ≤ a.srcSpace) || decide (2 ≤ a.dstSpace)) = false →
    a.count ≠ 0 →
    (s.collCheck c x.number a).toOption = some y →
    s.links.insts.length < 64 →
    s.links.insts.all (fun i => !(i.ctx == id && i.audit.isNone && i.queue == q && i.seq == seq && i.iter == iter)) = true →
    c.heldReads [{ space := 0, addr := a.src, bytes := a.reads y.members.length y.rank * collElem a.srcFmt }] = false →
    s.ledger.freeTag hubTags 4096 = some tg →
    ∃ t, exec (.collectiveReduceScatter id q seq iter ups) s = .next t ∧
      (∃ z, t.group? id y.id = some z ∧ z.nextInst = y.nextInst + 1 ∧ z.queue = some x.number ∧ z.gen = y.gen ∧ z.members = y.members)) ∧
  (∀ (id q seq iter : Nat) (c : Ctx) (x : Queue) (r : Rec) (a : CollArgs) (y : Group) (ups : List Upset) (tg : Nat) (s : State),
    s.running? id q seq iter .collective = some (c, x, r) →
    a = collArgs (ofLe (r.image.drop 64)) →
    a.coll = 2 →
    flag r.features fMxfp4 = true ∨ (a.srcFmt ≠ 4 ∧ a.dstFmt ≠ 4) →
    (a.rsvd || a.alg == 3 || decide (2 ≤ a.srcSpace) || decide (2 ≤ a.dstSpace)) = false →
    a.count ≠ 0 →
    (s.collCheck c x.number a).toOption = some y →
    s.links.insts.length < 64 →
    s.links.insts.all (fun i => !(i.ctx == id && i.audit.isNone && i.queue == q && i.seq == seq && i.iter == iter)) = true →
    c.heldReads [{ space := 0, addr := a.src, bytes := a.reads y.members.length y.rank * collElem a.srcFmt }] = false →
    s.ledger.freeTag hubTags 4096 = some tg →
    ∃ t, exec (.collectiveAllGather id q seq iter ups) s = .next t ∧
      (∃ z, t.group? id y.id = some z ∧ z.nextInst = y.nextInst + 1 ∧ z.queue = some x.number ∧ z.gen = y.gen ∧ z.members = y.members)) ∧
  (∀ (id q seq iter : Nat) (c : Ctx) (x : Queue) (r : Rec) (a : CollArgs) (y : Group) (ups : List Upset) (tg : Nat) (s : State),
    s.running? id q seq iter .collective = some (c, x, r) →
    a = collArgs (ofLe (r.image.drop 64)) →
    a.coll = 3 →
    flag r.features fMxfp4 = true ∨ (a.srcFmt ≠ 4 ∧ a.dstFmt ≠ 4) →
    (a.rsvd || a.alg == 3 || decide (2 ≤ a.srcSpace) || decide (2 ≤ a.dstSpace)) = false →
    a.count ≠ 0 →
    (s.collCheck c x.number a).toOption = some y →
    s.links.insts.length < 64 →
    s.links.insts.all (fun i => !(i.ctx == id && i.audit.isNone && i.queue == q && i.seq == seq && i.iter == iter)) = true →
    c.heldReads [{ space := 0, addr := a.src, bytes := a.reads y.members.length y.rank * collElem a.srcFmt }] = false →
    s.ledger.freeTag hubTags 4096 = some tg →
    ∃ t, exec (.collectiveReduce id q seq iter ups) s = .next t ∧
      (∃ z, t.group? id y.id = some z ∧ z.nextInst = y.nextInst + 1 ∧ z.queue = some x.number ∧ z.gen = y.gen ∧ z.members = y.members)) ∧
  (∀ (id q seq iter : Nat) (c : Ctx) (x : Queue) (r : Rec) (a : CollArgs) (y : Group) (ups : List Upset) (tg : Nat) (s : State),
    s.running? id q seq iter .collective = some (c, x, r) →
    a = collArgs (ofLe (r.image.drop 64)) →
    a.coll = 4 →
    flag r.features fMxfp4 = true ∨ (a.srcFmt ≠ 4 ∧ a.dstFmt ≠ 4) →
    (a.rsvd || a.alg == 3 || decide (2 ≤ a.srcSpace) || decide (2 ≤ a.dstSpace)) = false →
    a.count ≠ 0 →
    (s.collCheck c x.number a).toOption = some y →
    s.links.insts.length < 64 →
    s.links.insts.all (fun i => !(i.ctx == id && i.audit.isNone && i.queue == q && i.seq == seq && i.iter == iter)) = true →
    c.heldReads [{ space := 0, addr := a.src, bytes := a.reads y.members.length y.rank * collElem a.srcFmt }] = false →
    s.ledger.freeTag hubTags 4096 = some tg →
    ∃ t, exec (.collectiveBroadcast id q seq iter ups) s = .next t ∧
      (∃ z, t.group? id y.id = some z ∧ z.nextInst = y.nextInst + 1 ∧ z.queue = some x.number ∧ z.gen = y.gen ∧ z.members = y.members)) ∧
  (∀ (id q seq iter : Nat) (c : Ctx) (x : Queue) (r : Rec) (a : CollArgs) (y : Group) (ups : List Upset) (tg : Nat) (s : State),
    s.running? id q seq iter .collective = some (c, x, r) →
    a = collArgs (ofLe (r.image.drop 64)) →
    a.coll = 5 →
    flag r.features fMxfp4 = true ∨ (a.srcFmt ≠ 4 ∧ a.dstFmt ≠ 4) →
    (a.rsvd || a.alg == 3 || decide (2 ≤ a.srcSpace) || decide (2 ≤ a.dstSpace)) = false →
    a.count ≠ 0 →
    (s.collCheck c x.number a).toOption = some y →
    s.links.insts.length < 64 →
    s.links.insts.all (fun i => !(i.ctx == id && i.audit.isNone && i.queue == q && i.seq == seq && i.iter == iter)) = true →
    c.heldReads [{ space := 0, addr := a.src, bytes := a.reads y.members.length y.rank * collElem a.srcFmt }] = false →
    s.ledger.freeTag hubTags 4096 = some tg →
    ∃ t, exec (.collectiveNorm id q seq iter ups) s = .next t ∧
      (∃ z, t.group? id y.id = some z ∧ z.nextInst = y.nextInst + 1 ∧ z.queue = some x.number ∧ z.gen = y.gen ∧ z.members = y.members)) ∧
  (∀ (id q seq iter : Nat) (c : Ctx) (x : Queue) (r : Rec) (a : CollArgs) (y : Group) (ups : List Upset) (tg : Nat) (s : State),
    s.running? id q seq iter .collective = some (c, x, r) →
    a = collArgs (ofLe (r.image.drop 64)) →
    a.coll = 6 →
    flag r.features fMxfp4 = true ∨ (a.srcFmt ≠ 4 ∧ a.dstFmt ≠ 4) →
    (a.rsvd || a.alg == 3 || decide (2 ≤ a.srcSpace) || decide (2 ≤ a.dstSpace)) = false →
    a.count ≠ 0 →
    (s.collCheck c x.number a).toOption = some y →
    s.links.insts.length < 64 →
    s.links.insts.all (fun i => !(i.ctx == id && i.audit.isNone && i.queue == q && i.seq == seq && i.iter == iter)) = true →
    c.heldReads [{ space := 0, addr := a.src, bytes := a.reads y.members.length y.rank * collElem a.srcFmt }] = false →
    s.ledger.freeTag hubTags 4096 = some tg →
    ∃ t, exec (.collectiveSend id q seq iter ups) s = .next t ∧
      (∃ z, t.group? id y.id = some z ∧ z.nextInst = y.nextInst + 1 ∧ z.queue = some x.number ∧ z.gen = y.gen ∧ z.members = y.members)) ∧
  (∀ (id q seq iter : Nat) (c : Ctx) (x : Queue) (r : Rec) (a : CollArgs) (y : Group) (ups : List Upset) (tg : Nat) (s : State),
    s.running? id q seq iter .collective = some (c, x, r) →
    a = collArgs (ofLe (r.image.drop 64)) →
    a.coll = 7 →
    flag r.features fMxfp4 = true ∨ (a.srcFmt ≠ 4 ∧ a.dstFmt ≠ 4) →
    (a.rsvd || a.alg == 3 || decide (2 ≤ a.srcSpace) || decide (2 ≤ a.dstSpace)) = false →
    a.count ≠ 0 →
    (s.collCheck c x.number a).toOption = some y →
    s.links.insts.length < 64 →
    s.links.insts.all (fun i => !(i.ctx == id && i.audit.isNone && i.queue == q && i.seq == seq && i.iter == iter)) = true →
    c.heldReads [{ space := 0, addr := a.src, bytes := a.reads y.members.length y.rank * collElem a.srcFmt }] = false →
    s.ledger.freeTag hubTags 4096 = some tg →
    ∃ t, exec (.collectiveRecv id q seq iter ups) s = .next t ∧
      (∃ z, t.group? id y.id = some z ∧ z.nextInst = y.nextInst + 1 ∧ z.queue = some x.number ∧ z.gen = y.gen ∧ z.members = y.members))

/-- R283, R288–R290, R292, R294. -/
def Obligations.CollectivesOfOneMemberCopy : Prop :=
  (∀ (id q seq iter : Nat) (c : Ctx) (x : Queue) (r : Rec) (a : CollArgs) (y : Group) (tg f1 f2 : Nat) (out : Bytes × Flags) (s : State),
    s.running? id q seq iter .collective = some (c, x, r) →
    a = collArgs (ofLe (r.image.drop 64)) →
    a.coll = 0 →
    flag r.features fMxfp4 = true ∨ (a.srcFmt ≠ 4 ∧ a.dstFmt ≠ 4) →
    (a.rsvd || a.alg == 3 || decide (2 ≤ a.srcSpace) || decide (2 ≤ a.dstSpace)) = false →
    a.count ≠ 0 →
    (s.collCheck c x.number a).toOption = some y →
    s.links.insts.length < 64 →
    s.links.insts.all (fun i => !(i.ctx == id && i.audit.isNone && i.queue == q && i.seq == seq && i.iter == iter)) = true →
    c.heldReads [{ space := 0, addr := a.src, bytes := a.reads y.members.length y.rank * collElem a.srcFmt }] = false →
    s.ledger.freeTag hubTags 4096 = some tg →
    y.members.length = 1 →
    y.rank = 0 →
    y.early = [] →
    y.aborts = [] →
    s.groupInsts id y.id = [] →
    a.srcFmt = codeP32I →
    a.dstFmt = codeP32I →
    c.policy = none →
    c.guarded = [] →
    PlainRegion s c a.src (4 * a.count) f1 = true →
    PlainRegion s c a.dst (4 * a.count) f2 = true →
    cellsWf s.mem.cells = true →
    out = (solePairs a.count (readCells s.mem.cells (physAt f1 (a.src % pageSize)) (4 * a.count))) →
    ∃ t, exec (.collectiveAllReduce id q seq iter []) s = .next t ∧
      Ended t id q seq iter .ok (tally out.1) (out.2.word + y.nextInst * 256) true ∧ readCells t.mem.cells (physAt f2 (a.dst % pageSize)) (4 * a.count) = out.1 ∧ (∀ b, ¬(physAt f2 (a.dst % pageSize) ≤ b ∧ b < physAt f2 (a.dst % pageSize) + 4 * a.count) → cellAt t.mem.cells b = cellAt s.mem.cells b) ∧ t.mem.wf = true ∧ t.links.insts = s.links.insts ∧ t.fences = s.fences) ∧
  (∀ (id q seq iter : Nat) (c : Ctx) (x : Queue) (r : Rec) (a : CollArgs) (y : Group) (tg f1 f2 : Nat) (out : Bytes × Flags) (s : State),
    s.running? id q seq iter .collective = some (c, x, r) →
    a = collArgs (ofLe (r.image.drop 64)) →
    a.coll = 1 →
    flag r.features fMxfp4 = true ∨ (a.srcFmt ≠ 4 ∧ a.dstFmt ≠ 4) →
    (a.rsvd || a.alg == 3 || decide (2 ≤ a.srcSpace) || decide (2 ≤ a.dstSpace)) = false →
    a.count ≠ 0 →
    (s.collCheck c x.number a).toOption = some y →
    s.links.insts.length < 64 →
    s.links.insts.all (fun i => !(i.ctx == id && i.audit.isNone && i.queue == q && i.seq == seq && i.iter == iter)) = true →
    c.heldReads [{ space := 0, addr := a.src, bytes := a.reads y.members.length y.rank * collElem a.srcFmt }] = false →
    s.ledger.freeTag hubTags 4096 = some tg →
    y.members.length = 1 →
    y.rank = 0 →
    y.early = [] →
    y.aborts = [] →
    s.groupInsts id y.id = [] →
    a.srcFmt = codeP32I →
    a.dstFmt = codeP32I →
    c.policy = none →
    c.guarded = [] →
    PlainRegion s c a.src (4 * a.count) f1 = true →
    PlainRegion s c a.dst (4 * a.count) f2 = true →
    cellsWf s.mem.cells = true →
    out = (solePairs a.count (readCells s.mem.cells (physAt f1 (a.src % pageSize)) (4 * a.count))) →
    ∃ t, exec (.collectiveReduceScatter id q seq iter []) s = .next t ∧
      Ended t id q seq iter .ok (tally out.1) (out.2.word + y.nextInst * 256) true ∧ readCells t.mem.cells (physAt f2 (a.dst % pageSize)) (4 * a.count) = out.1 ∧ (∀ b, ¬(physAt f2 (a.dst % pageSize) ≤ b ∧ b < physAt f2 (a.dst % pageSize) + 4 * a.count) → cellAt t.mem.cells b = cellAt s.mem.cells b) ∧ t.mem.wf = true ∧ t.links.insts = s.links.insts ∧ t.fences = s.fences) ∧
  (∀ (id q seq iter : Nat) (c : Ctx) (x : Queue) (r : Rec) (a : CollArgs) (y : Group) (tg f1 f2 : Nat) (out : Bytes × Flags) (s : State),
    s.running? id q seq iter .collective = some (c, x, r) →
    a = collArgs (ofLe (r.image.drop 64)) →
    a.coll = 2 →
    flag r.features fMxfp4 = true ∨ (a.srcFmt ≠ 4 ∧ a.dstFmt ≠ 4) →
    (a.rsvd || a.alg == 3 || decide (2 ≤ a.srcSpace) || decide (2 ≤ a.dstSpace)) = false →
    a.count ≠ 0 →
    (s.collCheck c x.number a).toOption = some y →
    s.links.insts.length < 64 →
    s.links.insts.all (fun i => !(i.ctx == id && i.audit.isNone && i.queue == q && i.seq == seq && i.iter == iter)) = true →
    c.heldReads [{ space := 0, addr := a.src, bytes := a.reads y.members.length y.rank * collElem a.srcFmt }] = false →
    s.ledger.freeTag hubTags 4096 = some tg →
    y.members.length = 1 →
    y.rank = 0 →
    y.early = [] →
    y.aborts = [] →
    s.groupInsts id y.id = [] →
    a.srcFmt = codeP32I →
    a.dstFmt = codeP32I →
    c.policy = none →
    c.guarded = [] →
    PlainRegion s c a.src (4 * a.count) f1 = true →
    PlainRegion s c a.dst (4 * a.count) f2 = true →
    cellsWf s.mem.cells = true →
    out = (readCells s.mem.cells (physAt f1 (a.src % pageSize)) (4 * a.count), {}) →
    ∃ t, exec (.collectiveAllGather id q seq iter []) s = .next t ∧
      Ended t id q seq iter .ok (tally out.1) (out.2.word + y.nextInst * 256) true ∧ readCells t.mem.cells (physAt f2 (a.dst % pageSize)) (4 * a.count) = out.1 ∧ (∀ b, ¬(physAt f2 (a.dst % pageSize) ≤ b ∧ b < physAt f2 (a.dst % pageSize) + 4 * a.count) → cellAt t.mem.cells b = cellAt s.mem.cells b) ∧ t.mem.wf = true ∧ t.links.insts = s.links.insts ∧ t.fences = s.fences) ∧
  (∀ (id q seq iter : Nat) (c : Ctx) (x : Queue) (r : Rec) (a : CollArgs) (y : Group) (tg f1 f2 : Nat) (out : Bytes × Flags) (s : State),
    s.running? id q seq iter .collective = some (c, x, r) →
    a = collArgs (ofLe (r.image.drop 64)) →
    a.coll = 3 →
    flag r.features fMxfp4 = true ∨ (a.srcFmt ≠ 4 ∧ a.dstFmt ≠ 4) →
    (a.rsvd || a.alg == 3 || decide (2 ≤ a.srcSpace) || decide (2 ≤ a.dstSpace)) = false →
    a.count ≠ 0 →
    (s.collCheck c x.number a).toOption = some y →
    s.links.insts.length < 64 →
    s.links.insts.all (fun i => !(i.ctx == id && i.audit.isNone && i.queue == q && i.seq == seq && i.iter == iter)) = true →
    c.heldReads [{ space := 0, addr := a.src, bytes := a.reads y.members.length y.rank * collElem a.srcFmt }] = false →
    s.ledger.freeTag hubTags 4096 = some tg →
    y.members.length = 1 →
    y.rank = 0 →
    y.early = [] →
    y.aborts = [] →
    s.groupInsts id y.id = [] →
    a.srcFmt = codeP32I →
    a.dstFmt = codeP32I →
    c.policy = none →
    c.guarded = [] →
    PlainRegion s c a.src (4 * a.count) f1 = true →
    PlainRegion s c a.dst (4 * a.count) f2 = true →
    cellsWf s.mem.cells = true →
    out = (solePairs a.count (readCells s.mem.cells (physAt f1 (a.src % pageSize)) (4 * a.count))) →
    ∃ t, exec (.collectiveReduce id q seq iter []) s = .next t ∧
      Ended t id q seq iter .ok (tally out.1) (out.2.word + y.nextInst * 256) true ∧ readCells t.mem.cells (physAt f2 (a.dst % pageSize)) (4 * a.count) = out.1 ∧ (∀ b, ¬(physAt f2 (a.dst % pageSize) ≤ b ∧ b < physAt f2 (a.dst % pageSize) + 4 * a.count) → cellAt t.mem.cells b = cellAt s.mem.cells b) ∧ t.mem.wf = true ∧ t.links.insts = s.links.insts ∧ t.fences = s.fences) ∧
  (∀ (id q seq iter : Nat) (c : Ctx) (x : Queue) (r : Rec) (a : CollArgs) (y : Group) (tg f1 f2 : Nat) (out : Bytes × Flags) (s : State),
    s.running? id q seq iter .collective = some (c, x, r) →
    a = collArgs (ofLe (r.image.drop 64)) →
    a.coll = 4 →
    flag r.features fMxfp4 = true ∨ (a.srcFmt ≠ 4 ∧ a.dstFmt ≠ 4) →
    (a.rsvd || a.alg == 3 || decide (2 ≤ a.srcSpace) || decide (2 ≤ a.dstSpace)) = false →
    a.count ≠ 0 →
    (s.collCheck c x.number a).toOption = some y →
    s.links.insts.length < 64 →
    s.links.insts.all (fun i => !(i.ctx == id && i.audit.isNone && i.queue == q && i.seq == seq && i.iter == iter)) = true →
    c.heldReads [{ space := 0, addr := a.src, bytes := a.reads y.members.length y.rank * collElem a.srcFmt }] = false →
    s.ledger.freeTag hubTags 4096 = some tg →
    y.members.length = 1 →
    y.rank = 0 →
    y.early = [] →
    y.aborts = [] →
    s.groupInsts id y.id = [] →
    a.srcFmt = codeP32I →
    a.dstFmt = codeP32I →
    c.policy = none →
    c.guarded = [] →
    PlainRegion s c a.src (4 * a.count) f1 = true →
    PlainRegion s c a.dst (4 * a.count) f2 = true →
    cellsWf s.mem.cells = true →
    out = (readCells s.mem.cells (physAt f1 (a.src % pageSize)) (4 * a.count), {}) →
    ∃ t, exec (.collectiveBroadcast id q seq iter []) s = .next t ∧
      Ended t id q seq iter .ok (tally out.1) (out.2.word + y.nextInst * 256) true ∧ readCells t.mem.cells (physAt f2 (a.dst % pageSize)) (4 * a.count) = out.1 ∧ (∀ b, ¬(physAt f2 (a.dst % pageSize) ≤ b ∧ b < physAt f2 (a.dst % pageSize) + 4 * a.count) → cellAt t.mem.cells b = cellAt s.mem.cells b) ∧ t.mem.wf = true ∧ t.links.insts = s.links.insts ∧ t.fences = s.fences) ∧
  (∀ (id q seq iter : Nat) (c : Ctx) (x : Queue) (r : Rec) (a : CollArgs) (y : Group) (tg f1 f2 : Nat) (out : Bytes × Flags) (s : State),
    s.running? id q seq iter .collective = some (c, x, r) →
    a = collArgs (ofLe (r.image.drop 64)) →
    a.coll = 5 →
    flag r.features fMxfp4 = true ∨ (a.srcFmt ≠ 4 ∧ a.dstFmt ≠ 4) →
    (a.rsvd || a.alg == 3 || decide (2 ≤ a.srcSpace) || decide (2 ≤ a.dstSpace)) = false →
    a.count ≠ 0 →
    (s.collCheck c x.number a).toOption = some y →
    s.links.insts.length < 64 →
    s.links.insts.all (fun i => !(i.ctx == id && i.audit.isNone && i.queue == q && i.seq == seq && i.iter == iter)) = true →
    c.heldReads [{ space := 0, addr := a.src, bytes := a.reads y.members.length y.rank * collElem a.srcFmt }] = false →
    s.ledger.freeTag hubTags 4096 = some tg →
    y.members.length = 1 →
    y.rank = 0 →
    y.early = [] →
    y.aborts = [] →
    s.groupInsts id y.id = [] →
    a.srcFmt = codeP32I →
    a.dstFmt = codeP32I →
    c.policy = none →
    c.guarded = [] →
    PlainRegion s c a.src (4 * a.count) f1 = true →
    PlainRegion s c a.dst (4 * a.count) f2 = true →
    cellsWf s.mem.cells = true →
    out = (solePairs a.count (readCells s.mem.cells (physAt f1 (a.src % pageSize)) (4 * a.count))) →
    ∃ t, exec (.collectiveNorm id q seq iter []) s = .next t ∧
      Ended t id q seq iter .ok (tally out.1) (out.2.word + y.nextInst * 256) true ∧ readCells t.mem.cells (physAt f2 (a.dst % pageSize)) (4 * a.count) = out.1 ∧ (∀ b, ¬(physAt f2 (a.dst % pageSize) ≤ b ∧ b < physAt f2 (a.dst % pageSize) + 4 * a.count) → cellAt t.mem.cells b = cellAt s.mem.cells b) ∧ t.mem.wf = true ∧ t.links.insts = s.links.insts ∧ t.fences = s.fences)

/-- R283, R285, R293, R297. -/
def Obligations.SendAndRecvExchangeContributions : Prop :=
  (∀ (d : Delivered) (y : Group) (s : State),
    s.alive = true →
    s.groupOf d = some y →
    y.broken = false →
    s.inst? y.ctx y.id d.inner.inst = none →
    y.nextInst ≤ d.inner.inst →
    ∃ t, exec (.ready d) s = .next t ∧
      t = (s.takeIn d).modGroup y.ctx y.id (fun z => { z with early := z.early ++ [(d.inner.rank, d.inner.inst, d.inner.arg)] })) ∧
  (∀ (d : Delivered) (y : Group) (i : Inst) (s : State),
    s.alive = true →
    s.groupOf d = some y →
    y.broken = false →
    s.inst? y.ctx y.id d.inner.inst = some i →
    s.groupInsts y.ctx y.id = [i] →
    i.owed = [] →
    i.audit = none →
    i.stage = 0 →
    i.members.length = 2 →
    y.members.length = 2 →
    y.rank < 2 →
    i.rank = y.rank →
    d.inner.rank = 1 - y.rank →
    d.inner.arg = (collArgs i.args).signature →
    (collArgs i.args).coll = 6 →
    (collArgs i.args).count ≠ 0 →
    i.step = 0 →
    i.sending = [] →
    ∃ t, exec (.ready d) s = .next t ∧
      (∃ j, t.inst? y.ctx y.id d.inner.inst = some j ∧ j.step = 1 ∧ j.sending = [{ peer := 1 - y.rank, num := sparse i.sent (1 - y.rank), data := slice i.acc 0 ((collArgs i.args).count * (collArgs i.args).unitBytes), sentAt := s.hub.timer }]) ∧ t.ctxs = s.ctxs ∧ t.mem = s.mem ∧ t.vault = s.vault) ∧
  (∀ (d : Delivered) (y : Group) (i : Inst) (s : State),
    s.alive = true →
    s.groupOf d = some y →
    y.broken = false →
    s.inst? y.ctx y.id d.inner.inst = some i →
    sparse i.got d.inner.rank ≤ d.inner.arg →
    i.parts.all (fun k => !(k.1 == d.inner.rank && k.2.1 == d.inner.arg)) = true →
    d.inner.off * 256 = ((i.receiving.find? (fun k => k.peer == d.inner.rank && k.num == d.inner.arg)).getD { peer := d.inner.rank, num := d.inner.arg }).data.length →
    d.inner.last = false →
    ∃ t, exec (.chunk d) s = .next t ∧
      t = (s.takeIn d).modInst i (fun j => { j with receiving := { ((i.receiving.find? (fun k => k.peer == d.inner.rank && k.num == d.inner.arg)).getD { peer := d.inner.rank, num := d.inner.arg }) with data := ((i.receiving.find? (fun k => k.peer == d.inner.rank && k.num == d.inner.arg)).getD { peer := d.inner.rank, num := d.inner.arg }).data ++ d.inner.data } :: j.receiving.filter (fun k => !(k.peer == d.inner.rank && k.num == ((i.receiving.find? (fun k => k.peer == d.inner.rank && k.num == d.inner.arg)).getD { peer := d.inner.rank, num := d.inner.arg }).num)) })) ∧
  (∀ (d : Delivered) (y : Group) (i : Inst) (c : Ctx) (r : Rec) (f : Nat) (s : State),
    s.alive = true →
    s.groupOf d = some y →
    y.broken = false →
    s.inst? y.ctx y.id d.inner.inst = some i →
    s.groupInsts y.ctx y.id = [i] →
    i.owed = [] →
    i.audit = none →
    i.stage = 0 →
    i.members.length = 2 →
    y.members.length = 2 →
    y.rank < 2 →
    i.rank = y.rank →
    d.inner.rank = 1 - y.rank →
    y.state = .live →
    (collArgs i.args).coll = 7 →
    (collArgs i.args).count ≠ 0 →
    i.step = 0 →
    i.parts = [] →
    i.receiving = [] →
    i.sending = [] →
    i.dissent = [] →
    i.votes = [] →
    d.inner.arg = sparse i.got d.inner.rank →
    d.inner.off = 0 →
    d.inner.last = true →
    tally d.inner.data = d.inner.tally →
    d.inner.data.length = (collArgs i.args).count * (collArgs i.args).unitBytes →
    i.acc.length ≤ d.inner.data.length →
    s.ctx? i.ctx = some c →
    c.policy = none →
    c.guarded = [] →
    PlainRegion s c (collArgs i.args).dst d.inner.data.length f = true →
    cellsWf s.mem.cells = true →
    RecOf s i.ctx i.queue i.seq i.iter = some r →
    ∃ t, exec (.chunk d) s = .next t ∧
      Ended t i.ctx i.queue i.seq i.iter .ok (tally d.inner.data) (i.flags + i.inst * 256) true ∧ readCells t.mem.cells (physAt f ((collArgs i.args).dst % pageSize)) d.inner.data.length = d.inner.data ∧ (∀ b, ¬(physAt f ((collArgs i.args).dst % pageSize) ≤ b ∧ b < physAt f ((collArgs i.args).dst % pageSize) + d.inner.data.length) → cellAt t.mem.cells b = cellAt s.mem.cells b) ∧ t.mem.wf = true ∧ t.inst? y.ctx y.id d.inner.inst = none) ∧
  (∀ (d : Delivered) (y : Group) (i : Inst) (k : Sending) (r : Rec) (s : State),
    s.alive = true →
    s.groupOf d = some y →
    y.broken = false →
    s.inst? y.ctx y.id d.inner.inst = some i →
    s.groupInsts y.ctx y.id = [i] →
    i.owed = [] →
    i.audit = none →
    i.stage = 0 →
    i.members.length = 2 →
    y.members.length = 2 →
    y.rank < 2 →
    i.rank = y.rank →
    d.inner.rank = 1 - y.rank →
    y.state = .live →
    (collArgs i.args).coll = 6 →
    (collArgs i.args).count ≠ 0 →
    i.step = 1 →
    i.sending = [k] →
    k.peer = d.inner.rank →
    k.num = d.inner.arg →
    i.votes = [] →
    i.dissent = [] →
    RecOf s i.ctx i.queue i.seq i.iter = some r →
    ∃ t, exec (.ack d) s = .next t ∧
      Ended t i.ctx i.queue i.seq i.iter .ok 0 (i.flags + i.inst * 256) true ∧ t.mem = s.mem ∧ t.vault = s.vault ∧ t.inst? y.ctx y.id d.inner.inst = none) ∧
  (∀ (d : Delivered) (y : Group) (i : Inst) (k : Sending) (s : State),
    s.alive = true →
    s.groupOf d = some y →
    y.broken = false →
    s.inst? y.ctx y.id d.inner.inst = some i →
    i.sending.find? (fun b => b.peer == d.inner.rank && b.num == d.inner.arg) = some k →
    ∃ t, exec (.retry d) s = .next t ∧
      t = ((s.takeIn d).modInst i (fun j => { j with sending := j.sending.map (fun b => if b.peer = k.peer ∧ b.num = k.num then { b with sentAt := s.hub.timer } else b) })).sendFrames y k.peer i.inst k.num k.data)

/-- R293, R295. -/
def Obligations.InstancesEndAndBreakTheirGroup : Prop :=
  (∀ (d : Delivered) (y : Group) (i : Inst) (r : Rec) (s : State),
    s.alive = true →
    s.groupOf d = some y →
    y.broken = false →
    y.state = .live →
    s.group? y.ctx y.id = some y →
    s.inst? y.ctx y.id d.inner.inst = some i →
    i.audit = none →
    RecOf s i.ctx i.queue i.seq i.iter = some r →
    ∃ t, exec (.abort d) s = .next t ∧
      Ended t i.ctx i.queue i.seq i.iter .abandoned 0 (i.res1 i.rank false) true ∧ (t.group? y.ctx y.id).map (fun k => k.broken) = some true ∧ t.inst? y.ctx y.id d.inner.inst = none ∧ t.ledger = s.ledger.free i.tag ∧ (i.target = [] → t.mem = s.mem) ∧ (∀ c f, s.ctx? i.ctx = some c → PlainRegion s c (collArgs i.args).dst ((collArgs i.args).writes i.members.length i.rank * collElem (collArgs i.args).dstFmt) f = true → cellsWf s.mem.cells = true → ∀ b, ¬(physAt f ((collArgs i.args).dst % pageSize) ≤ b ∧ b < physAt f ((collArgs i.args).dst % pageSize) + ((collArgs i.args).writes i.members.length i.rank * collElem (collArgs i.args).dstFmt)) → cellAt t.mem.cells b = cellAt s.mem.cells b) ∧ t.vault = s.vault) ∧
  (∀ (d : Delivered) (y : Group) (s : State),
    s.alive = true →
    s.groupOf d = some y →
    y.broken = false →
    y.state = .live →
    s.inst? y.ctx y.id d.inner.inst = none →
    y.nextInst ≤ d.inner.inst →
    ∃ t, exec (.abort d) s = .next t ∧
      t = (s.takeIn d).modGroup y.ctx y.id (fun z => { z with broken := true, aborts := d.inner.inst :: z.aborts })) ∧
  (∀ (id gid n : Nat) (y : Group) (i : Inst) (r : Rec) (s : State),
    s.alive = true →
    s.group? id gid = some y →
    y.state = .live →
    s.inst? id gid n = some i →
    i.deadline ≤ s.hub.timer →
    i.audit = none →
    RecOf s i.ctx i.queue i.seq i.iter = some r →
    ∃ t, exec (.collectiveTimeout id gid n) s = .next t ∧
      Ended t i.ctx i.queue i.seq i.iter .timeout 0 (i.res1 i.rank false) true ∧ (t.group? id gid).map (fun k => k.broken) = some true ∧ t.inst? id gid n = none ∧ t.ledger = s.ledger.expire i.tag s.hub.timer ∧ (i.target = [] → t.mem = s.mem) ∧ (∀ c f, s.ctx? i.ctx = some c → PlainRegion s c (collArgs i.args).dst ((collArgs i.args).writes i.members.length i.rank * collElem (collArgs i.args).dstFmt) f = true → cellsWf s.mem.cells = true → ∀ b, ¬(physAt f ((collArgs i.args).dst % pageSize) ≤ b ∧ b < physAt f ((collArgs i.args).dst % pageSize) + ((collArgs i.args).writes i.members.length i.rank * collElem (collArgs i.args).dstFmt)) → cellAt t.mem.cells b = cellAt s.mem.cells b) ∧ t.vault = s.vault) ∧
  (∀ (id gid n p : Nat) (y : Group) (i : Inst) (k : Sending) (s : State),
    s.alive = true →
    s.group? id gid = some y →
    s.inst? id gid n = some i →
    i.sending.find? (fun b => b.peer == p && !b.resent && decide (b.sentAt + 2 ^ 18 ≤ s.hub.timer)) = some k →
    ∃ t, exec (.contributionResendTimeout id gid n p) s = .next t ∧
      t = (s.modInst i (fun j => { j with sending := j.sending.map (fun b => if b.peer = k.peer ∧ b.num = k.num then { b with resent := true } else b) })).sendFrames y p n k.num k.data) ∧
  (∀ (d : Delivered) (y : Group) (k : Instr) (s : State),
    s.alive = true →
    s.groupOf d = some y →
    y.broken = true →
    k ∈ [Instr.ready d, .chunk d, .ack d, .retry d, .rtally d, .abort d] →
    ∃ t, exec (k) s = .next t ∧
      t = (s.takeIn d).dropFrame y d)

/-- R278–R280, R294. -/
def Obligations.GroupsFormAndEnd : Prop :=
  (∀ (m : Msg) (x : Session) (c : Ctx) (w gid ge n : Nat) (bs : Bytes) (u v s : State),
    Admits s .groupCreate m x = true →
    s.ctx? m.ctx = some c →
    m.length = 32 →
    w = ofLe (slice m.payload 0 32) →
    (anySet w 31 25 || anySet w 127 112 || anySet w 255 144) = false →
    gid = field w 15 0 →
    ge = field w 23 16 →
    n = field w 63 32 →
    flag w 24 = false →
    c.consortium = false →
    n ≠ 0 →
    n ≤ 65536 →
    field w 111 64 % 64 = 0 →
    c.mapped (field w 111 64) (2 * n) = true →
    field w 143 128 ≠ 0 →
    s.links.early = [] →
    u = s.takeMail .groupCreate m →
    (u.readV c.id none [] (field w 111 64) (2 * n)).1 = v →
    (u.readV c.id none [] (field w 111 64) (2 * n)).2.toOption = some bs →
    hasDup (ordinalsOf n bs) = false →
    s.links.ordinal ∈ ordinalsOf n bs →
    (ordinalsOf n bs).all (fun o => decide (o ≤ s.links.sizeM1)) = true →
    s.group? c.id gid = none →
    s.links.groupGens.all (fun k => !(k.1 == c.id && k.2.1 == gid && k.2.2 == ge)) = true →
    (s.links.groups.filter (fun k => k.state != .forming)).length < 1024 →
    ∃ t, exec (.groupCreate m []) s = .next t ∧
      Answered s t .groupCreate m (.of .pending) ∧ (∃ z, t.group? c.id gid = some z ∧ z.gen = ge ∧ z.members = ordinalsOf n bs ∧ z.members[z.rank]? = some s.links.ordinal ∧ z.tmo = field w 143 128 ∧ z.created = s.hub.timer ∧ z.nextInst = 1 ∧ z.state = (if n = 1 then .live else .forming) ∧ z.form = tally (m.payload.take 8 ++ List.replicate 6 0 ++ slice m.payload 14 18 ++ bs)) ∧ t.mem = s.mem) ∧
  (∀ (m : Msg) (x : Session) (c : Ctx) (w gid ge n : Nat) (y : Group) (s : State),
    Admits s .groupCreate m x = true →
    s.ctx? m.ctx = some c →
    m.length = 32 →
    w = ofLe (slice m.payload 0 32) →
    (anySet w 31 25 || anySet w 127 112 || anySet w 255 144) = false →
    gid = field w 15 0 →
    ge = field w 23 16 →
    n = field w 63 32 →
    flag w 24 = true →
    s.group? c.id gid = some y →
    y.gen = ge →
    y.state = .live →
    s.groupInsts c.id gid = [] →
    ∃ t, exec (.groupDestroy m) s = .next t ∧
      Answered s t .groupCreate m (.of .ok) ∧ t.group? c.id gid = none ∧ t.mem = s.mem ∧ t.ctxs = s.ctxs) ∧
  (∀ (m : Msg) (x : Session) (c : Ctx) (w gid ge n : Nat) (y : Group) (s : State),
    Admits s .groupCreate m x = true →
    s.ctx? m.ctx = some c →
    m.length = 32 →
    w = ofLe (slice m.payload 0 32) →
    (anySet w 31 25 || anySet w 127 112 || anySet w 255 144) = false →
    gid = field w 15 0 →
    ge = field w 23 16 →
    n = field w 63 32 →
    flag w 24 = true →
    s.group? c.id gid = some y →
    y.gen = ge →
    y.state = .live →
    s.groupInsts c.id gid ≠ [] →
    ∃ t, exec (.groupDestroy m) s = .next t ∧
      (t.group? c.id gid).map (fun k => k.state) = some .destroying ∧ t.waits = s.waits ++ [{ session := m.session, sgen := x.gen, opcode := .groupCreate, tag := m.tag, ctx := m.ctx, ctxGen := m.ctxGen, what := .groupEnd gid }] ∧ t.mem = s.mem ∧ t.ctxs = s.ctxs ∧ t.links.insts = s.links.insts) ∧
  (∀ (d : Delivered) (y : Group) (s : State),
    s.alive = true →
    s.groupOf d = some y →
    y.broken = false →
    y.state = .forming →
    d.inner.inst = 0 →
    d.inner.last = true →
    d.inner.tally = d.inner.arg →
    ∃ t, exec (.rtally d) s = .next t ∧
      (∀ z ∈ t.links.groups, z.ctx = y.ctx → z.id = y.id → z.state = .live) ∧ (t.links.groups.map (fun z => (z.ctx, z.id, z.gen)) = s.links.groups.map (fun z => (z.ctx, z.id, z.gen))) ∧ (∀ k ∈ t.waits, ¬(k.ctx = y.ctx ∧ k.what = .group y.id)) ∧ t.mem = s.mem) ∧
  (∀ (d : Delivered) (y : Group) (s : State),
    s.alive = true →
    s.groupOf d = some y →
    y.broken = false →
    y.state = .forming →
    d.inner.inst = 0 →
    d.inner.last = true →
    d.inner.tally ≠ d.inner.arg →
    ∃ t, exec (.rtally d) s = .next t ∧
      t.group? y.ctx y.id = none ∧ (∀ k ∈ t.waits, ¬(k.ctx = y.ctx ∧ k.what = .group y.id)) ∧ t.mem = s.mem) ∧
  (∀ (d : Delivered) (y : Group) (s : State),
    s.alive = true →
    s.groupOf d = some y →
    y.broken = false →
    y.state = .forming →
    d.inner.inst = 0 →
    d.inner.last = false →
    ∃ t, exec (.rtally d) s = .next t ∧
      t = ((s.takeIn d).modGroup y.ctx y.id (fun z => { z with heard := z.heard ++ [(d.inner.rank, d.inner.tally, d.inner.arg)] })).formStep y.ctx y.id) ∧
  (∀ (d : Delivered) (y : Group) (i : Inst) (s : State),
    s.alive = true →
    s.groupOf d = some y →
    y.broken = false →
    s.inst? y.ctx y.id d.inner.inst = some i →
    y.rank = 0 →
    d.inner.last = false →
    d.inner.inst ≠ 0 →
    y.state ≠ .forming →
    s.firstInst y.ctx y.id = some i →
    i.stage = 2 →
    i.rank = 0 →
    i.votes.length + 1 < i.members.length →
    ∃ t, exec (.rtally d) s = .next t ∧
      t = (s.takeIn d).modInst i (fun j => { j with votes := j.votes ++ [(d.inner.off, d.inner.tally)] })) ∧
  (∀ (id gid : Nat) (y : Group) (s : State),
    s.alive = true →
    s.group? id gid = some y →
    y.state = .forming →
    y.created + y.tmo * 2 ^ 20 ≤ s.hub.timer →
    ∃ t, exec (.groupFormTimeout id gid) s = .next t ∧
      t = s.dropForming id gid .timeout ∧ t.group? id gid = none ∧ (∀ k ∈ t.waits, ¬(k.ctx = id ∧ k.what = .group gid)))

/-- R161–R163, R216. -/
def Obligations.TransfersMeetTheirLedgerEntry : Prop :=
  (∀ (tg ge id sl vp f : Nat) (bs : Bytes) (e : LedgerEntry) (s : State),
    s.alive = true →
    s.ledger.entry? tg = some e →
    e.gen = ge →
    e.quarantine = none →
    e.holder = .transfer id sl vp →
    (s.ctx? id).bind (fun c => (c.page? vp).bind (fun p => p.lease)) = some f →
    cellsWf s.mem.cells = true →
    ∃ t, exec (.transferResponse tg ge bs) s = .next t ∧
      t = ((s.freeTag tg).modCells (fun cs => writeCells cs (physAt f 0) bs)).dueProbes ∧ readCells t.mem.cells (physAt f 0) bs.length = bs ∧ (∀ a, ¬(physAt f 0 ≤ a ∧ a < physAt f 0 + bs.length) → cellAt t.mem.cells a = cellAt s.mem.cells a) ∧ t.mem.wf = true) ∧
  (∀ (tg ge : Nat) (bs : Bytes) (s : State),
    s.alive = true →
    s.ledger.entries.all (fun e => !(e.tag == tg && e.gen == ge)) = true →
    s.ledger.entry? tg = none ∨ (s.ledger.entry? tg).any (fun e => e.gen != ge) = true →
    ∃ t, exec (.transferResponse tg ge bs) s = .next t ∧
      t = ({ s with ledger := { s.ledger with stale := s.ledger.stale + 1 } } : State).dueProbes) ∧
  (∀ (tg ge id : Nat) (bs : Bytes) (e : LedgerEntry) (s : State),
    s.alive = true →
    s.ledger.entry? tg = some e →
    e.gen = ge →
    e.quarantine.isSome = true →
    e.ctx = some id →
    ∃ t, exec (.transferResponse tg ge bs) s = .next t ∧
      t = (s.modCtx id (fun c => { c with lateDrops := c.lateDrops + 1 })).dueProbes ∧ t.mem = s.mem ∧ (s.ctx? id).isSome = true → (t.ctx? id).map (fun c => c.lateDrops) = (s.ctx? id).map (fun c => c.lateDrops + 1)) ∧
  (∀ (d : Delivered) (id sl vp f : Nat) (e : LedgerEntry) (s : State),
    s.alive = true →
    s.ledger.entry? (field d.inner.inst 13 0) = some e →
    e.gen = field d.inner.inst 21 14 →
    e.quarantine = none →
    e.holder = .transfer id sl vp →
    d.inner.arg = 0 →
    (s.ctx? id).bind (fun c => (c.page? vp).bind (fun p => p.lease)) = some f →
    ∃ t, exec (.xresp d) s = .next t ∧
      t = (((s.takeIn d).freeTag (field d.inner.inst 13 0)).modCells (fun cs => writeCells cs (physAt f (d.inner.off * 256)) d.inner.data)).dueProbes) ∧
  (∀ (d : Delivered) (sl : Nat) (e : LedgerEntry) (s : State),
    s.alive = true →
    s.ledger.entry? (field d.inner.inst 13 0) = some e →
    e.gen = field d.inner.inst 21 14 →
    e.quarantine = none →
    e.holder = .probe sl →
    d.inner.arg = 0 →
    ∃ t, exec (.xresp d) s = .next t ∧
      t = (((s.takeIn d).freeTag (field d.inner.inst 13 0)).modLease sl (fun l => { l with probe := none })).dueProbes) ∧
  (∀ (tg id sl vp d0 : Nat) (e : LedgerEntry) (s : State),
    s.alive = true →
    s.ledger.entry? tg = some e →
    e.quarantine = none →
    e.deadline = some d0 →
    d0 ≤ s.hub.timer →
    e.holder = .transfer id sl vp →
    ∃ t, exec (.transferTimeout tg) s = .next t ∧
      t = (({ s with ledger := s.ledger.expire tg s.hub.timer } : State).cancelMoves (fun k => k.ctx == id && k.va == vp)).probeLease sl ∧ (∀ k ∈ t.moves, ¬(k.ctx = id ∧ k.va = vp)) ∧ (t.ledger.entry? tg).map (fun k => k.quarantine) = some (some s.hub.timer)) ∧
  (∀ (tg q0 : Nat) (e : LedgerEntry) (s : State),
    s.alive = true →
    s.ledger.entry? tg = some e →
    e.quarantine = some q0 →
    q0 + 2 ^ 24 ≤ s.hub.timer →
    ∃ t, exec (.ledgerQuarantineEnd tg) s = .next t ∧
      t = (s.freeTag tg).dueProbes ∧ (s.links.leases.all (fun l => !l.probeDue) = true → t.ledger.entry? tg = none)) ∧
  (∀ (sl p0 : Nat) (l : Lease) (s : State),
    s.alive = true →
    s.lease? sl = some l →
    l.broken = false →
    l.probe = some p0 →
    p0 + 2 ^ 20 ≤ s.hub.timer →
    ∃ t, exec (.leaseProbeTimeout sl) s = .next t ∧
      (t.lease? sl).map (fun k => k.broken) = some true ∧ (∀ d ∈ t.ctxs, d.id = l.ctx → ∀ p ∈ d.pages, ∀ a, p.lease = some a → onLease sl a = true → p.lost = true) ∧ t.otp = s.otp)

/-- R214, R216, R217, R251, R415, R416. -/
def Obligations.LenderServesItsLeases : Prop :=
  (∀ (pct : Nat) (s : State),
    s.alive = true →
    s.links.beaconAt.all (fun b => decide (b + 64 * 2 ^ 18 ≤ s.hub.timer)) = true →
    s.lenderFeature = true →
    2 * s.residentFrames < 380928 →
    pct < 25 →
    512 ≤ s.lendable →
    ∃ t, exec (.lendBeaconSend pct) s = .next t ∧
      t = (s.directPorts.map (fun d => d.1)).eraseDups.foldl (fun y d => y.sendCtrl d .lendBeacon 0 (toLe 4 (s.lendable / 512 * 512))) (s.modLinks (fun l => { l with busy := pct, beaconAt := some s.hub.timer, lends := true }))) ∧
  (∀ (pct : Nat) (s : State),
    s.alive = true →
    s.links.beaconAt.all (fun b => decide (b + 64 * 2 ^ 18 ≤ s.hub.timer)) = true →
    25 ≤ pct ∨ s.lenderFeature = false ∨ s.lendable < 512 ∨ 380928 ≤ 2 * s.residentFrames →
    ∃ t, exec (.lendBeaconSend pct) s = .next t ∧
      t = s.modLinks (fun l => { l with busy := pct, beaconAt := some s.hub.timer, lends := false })) ∧
  (∀ (pct b : Nat) (s : State),
    s.links.beaconAt = some b →
    s.hub.timer < b + 64 * 2 ^ 18 →
    ∃ t, exec (.lendBeaconSend pct) s = .next t ∧
      t = s) ∧
  (∀ (src guest : Nat) (m : Msg) (s : State),
    m.rsvd = 0 →
    m.ctx = 0 →
    m.ctxGen = 0 →
    m.status = 0 →
    s.alive = true →
    m.arg0 = 0 →
    m.payload.length = kxFirstLen →
    s.links.lends = true →
    s.mayLend = true →
    slice m.payload 1685 1 = toLe 1 s.modeCode →
    slice m.payload 1686 2 = toLe 2 s.links.job →
    (List.range 4096).find? (fun i => !(s.ctxs.map (fun c => c.id) ++ s.vault.bank.map (fun b => b.ctx)).contains i) = some guest →
    ∃ t, exec (.lendAsk src m) s = .next t ∧
      (∃ x ∈ t.links.lent, x.borrower = src ∧ x.id = s.links.leaseIds % 65536 ∧ x.gen = (s.links.leaseIds / 65536 + 1) % 256 ∧ x.guest = guest ∧ x.keyed = false ∧ x.peerKey = slice m.payload 1624 57) ∧ (∃ b ∈ t.vault.bank, b.ctx = guest ∧ b.uses = 0 ∧ b.limit = 2 ^ 56 - 1) ∧ t.links.leaseIds = s.links.leaseIds + 1 ∧ t.hub.trng = s.hub.trng + 120 ∧ t.ctxs = s.ctxs) ∧
  (∀ (src : Nat) (x : Lent) (m : Msg) (s : State),
    m.rsvd = 0 →
    m.ctx = 0 →
    m.ctxGen = 0 →
    m.status = 0 →
    s.alive = true →
    m.payload.length = 114 →
    x ∈ s.links.lent →
    x.next = none →
    x.id + x.gen * 65536 = m.arg0 →
    x.borrower = src →
    s.verifies x.peerKey x.hash m.payload = true →
    ∃ t, exec (.lendAsk src m) s = .next t ∧
      { x with keyed := true } ∈ t.links.lent ∧ t.mem = s.mem ∧ t.vault = s.vault ∧ t.ctxs = s.ctxs) ∧
  (∀ (src : Nat) (x : Lent) (k h p : Bytes) (m : Msg) (s : State),
    m.rsvd = 0 →
    m.ctx = 0 →
    m.ctxGen = 0 →
    m.status = 0 →
    s.alive = true →
    m.payload.length = 114 →
    x ∈ s.links.lent →
    x.next = some (k, h, p) →
    x.id + x.gen * 65536 = m.arg0 →
    x.borrower = src →
    s.verifies p h m.payload = true →
    ∃ t, exec (.lendAsk src m) s = .next t ∧
      { x with key := k, hash := h, peerKey := p, uses := 0, next := none } ∈ t.links.lent ∧ t.mem = s.mem ∧ t.vault = s.vault) ∧
  (∀ (d : Delivered) (x : Lent) (f : Nat) (s : State),
    s.alive = true →
    (s.takeIn d).lentFrame d = some (x, f) →
    d.inner.arg + min 16 (max 1 d.inner.off) * 256 ≤ pageSize →
    (s.mem.meta f).poison = [] →
    ∃ t, exec (.xread d) s = .next t ∧
      t = ((s.takeIn d).noteRequest (stackOf f)).sendXresp d .ok (readCells s.mem.cells (physAt f d.inner.arg) (min 16 (max 1 d.inner.off) * 256)) ∧ t.mem = s.mem ∧ t.vault = s.vault) ∧
  (∀ (d : Delivered) (x : Lent) (f : Nat) (b : BankEntry) (s : State),
    s.alive = true →
    (s.takeIn d).lentFrame d = some (x, f) →
    d.inner.arg + d.inner.data.length ≤ pageSize →
    d.inner.data ≠ [] →
    (s.mem.meta f).poison = [] →
    (s.mem.meta f).high + 2 ^ 14 < 2 ^ 24 →
    s.vault.bank.find? (fun k => k.ctx == x.guest) = some b →
    b.uses + 2 ^ 14 ≤ b.limit →
    cellsWf s.mem.cells = true →
    ∃ t, exec (.xwrite d) s = .next t ∧
      readCells t.mem.cells (physAt f d.inner.arg) d.inner.data.length = d.inner.data ∧ (∀ a, ¬(physAt f d.inner.arg ≤ a ∧ a < physAt f d.inner.arg + d.inner.data.length) → cellAt t.mem.cells a = cellAt s.mem.cells a) ∧ t.mem.wf = true ∧ t.ctxs = s.ctxs) ∧
  (∀ (src : Nat) (x : Lent) (m : Msg) (s : State),
    m.rsvd = 0 →
    m.ctx = 0 →
    m.ctxGen = 0 →
    m.status = 0 →
    s.alive = true →
    s.links.lent.find? (fun k => k.id + k.gen * 65536 == m.arg0 && k.borrower == src) = some x →
    x.frames.all (fun f => !s.mem.worn f) = true →
    s.shares = [] →
    cellsWf s.mem.cells = true →
    ∃ t, exec (.lendRelease src m) s = .next t ∧
      (∀ k ∈ t.links.lent, k.id ≠ x.id) ∧ (∀ b ∈ t.vault.bank, b.ctx ≠ x.guest) ∧ (∀ f ∈ x.frames, ∀ o < pageSize, cellAt t.mem.cells (physAt f o) = 0) ∧ (∀ f ∈ x.frames, ∀ k ∈ t.mem.hbmUse, k.1 ≠ f) ∧ t.mem.wf = true ∧ t.ctxs = s.ctxs)

/-- R214, R248, R251, R416. -/
def Obligations.BorrowerAndLenderShipRecords : Prop :=
  (∀ (src : Nat) (m : Msg) (s : State),
    m.rsvd = 0 →
    m.ctx = 0 →
    m.ctxGen = 0 →
    m.status = 0 →
    s.alive = true →
    ∃ t, exec (.lendBeacon src m) s = .next t ∧
      t = (s.takeCtrl src .lendBeacon m).modLinks (fun l => { l with offers := (src, ofLe (slice m.payload 0 4), s.hub.timer) :: l.offers.filter (fun o => o.1 != src) })) ∧
  (∀ (src sl : Nat) (a : Ask) (second hash : Bytes) (m : Msg) (s : State),
    m.rsvd = 0 →
    m.ctx = 0 →
    m.ctxGen = 0 →
    m.status = 0 →
    s.alive = true →
    s.links.asked src m.arg0 = some a →
    a.renew = none →
    second = m.payload.take kxSecondLen →
    hash = leaseHash a.first second (m.arg0 % 65536) (m.arg0 / 65536 % 256) →
    m.payload.length = kxSecondLen + 114 →
    s.verifies (slice second 1624 57) hash (m.payload.drop kxSecondLen) = true →
    (List.range 16).find? (fun i => !s.links.leases.any (fun l => l.slot == i)) = some sl →
    ∃ t, exec (.lendOffer src m) s = .next t ∧
      (∃ l, t.links.leases = s.links.leases ++ [l] ∧ l.slot = sl ∧ l.id = m.arg0 % 65536 ∧ l.gen = m.arg0 / 65536 % 256 ∧ l.lender = src ∧ l.ctx = a.ctx ∧ l.broken = false ∧ l.key = leaseKey (sharedOfOpen a.seed second) hash) ∧ a ∉ t.links.asks ∧ t.mem = s.mem ∧ t.ctxs = s.ctxs) ∧
  (∀ (src : Nat) (a : Ask) (m : Msg) (s : State),
    m.rsvd = 0 →
    m.ctx = 0 →
    m.ctxGen = 0 →
    m.status = 0 →
    s.alive = true →
    s.links.asked src m.arg0 = some a →
    m.payload.length ≠ kxSecondLen + 114 →
    ∃ t, exec (.lendOffer src m) s = .next t ∧
      t = (s.takeCtrl src .lendOffer m).modLinks (fun l => { l with asks := l.asks.filter (fun b => b != a) })) ∧
  (∀ (src : Nat) (x : Lent) (m : Msg) (s : State),
    m.rsvd = 0 →
    m.ctx = 0 →
    m.ctxGen = 0 →
    m.status = 0 →
    s.alive = true →
    s.links.lent.find? (fun k => k.id + k.gen * 65536 == m.arg0 && k.borrower == src && k.keyed) = some x →
    ∃ t, exec (.optShip src m) s = .next t ∧
      t = ((s.takeCtrl src .optShip m).modLinks (fun l => { l with lent := l.lent.map (fun y => if y.id = x.id then { y with ships := y.ships.filter (fun z => z.1 != ofLe (slice m.payload 0 4)) ++ [(ofLe (slice m.payload 0 4), m.payload)] } else y) })).serveShips x.id 1024 ∧ (x.staging = [] → (s.links.lent.filter (fun k => k.id == x.id)).length = 1 → t = (s.takeCtrl src .optShip m).modLinks (fun l => { l with lent := l.lent.map (fun y => if y.id = x.id then { y with ships := y.ships.filter (fun z => z.1 != ofLe (slice m.payload 0 4)) ++ [(ofLe (slice m.payload 0 4), m.payload)] } else y) }))) ∧
  (∀ (src : Nat) (x : Lent) (m : Msg) (s : State),
    m.rsvd = 0 →
    m.ctx = 0 →
    m.ctxGen = 0 →
    m.status = 0 →
    s.alive = true →
    s.links.lent.find? (fun k => k.id + k.gen * 65536 == m.arg0 && k.borrower == src && k.keyed) = some x →
    ∃ t, exec (.optClip src m) s = .next t ∧
      t = ((s.takeCtrl src .optClip m).modLinks (fun l => { l with lent := l.lent.map (fun y => if y.id = x.id then { y with clip := m.payload, clipLeft := ofLe (slice m.payload 25 4) } else y) })).serveShips x.id 1024 ∧ (x.staging = [] → (s.links.lent.filter (fun k => k.id == x.id)).length = 1 → t = (s.takeCtrl src .optClip m).modLinks (fun l => { l with lent := l.lent.map (fun y => if y.id = x.id then { y with clip := m.payload, clipLeft := ofLe (slice m.payload 25 4) } else y) }))) ∧
  (∀ (src : Nat) (l : Lease) (m : Msg) (s : State),
    m.rsvd = 0 →
    m.ctx = 0 →
    m.ctxGen = 0 →
    m.status = 0 →
    s.alive = true →
    s.links.leases.find? (fun k => k.id + k.gen * 65536 == m.arg0 && k.lender == src && !k.broken) = some l →
    ∃ t, exec (.optReturn src m) s = .next t ∧
      t = ((s.takeCtrl src .optReturn m).modLease l.slot (fun x => { x with returns := x.returns.filter (fun y => y.1 != ofLe (slice m.payload 0 4)) ++ [(ofLe (slice m.payload 0 4), m.payload.drop 4)] })).tryReturn l.slot (ofLe (slice m.payload 0 4)) ∧ (l.bulk = [] → s.lease? l.slot = some l → ofLe (slice m.payload 24 4) ≠ 0 → t = (s.takeCtrl src .optReturn m).modLease l.slot (fun x => { x with returns := x.returns.filter (fun y => y.1 != ofLe (slice m.payload 0 4)) ++ [(ofLe (slice m.payload 0 4), m.payload.drop 4)] }))) ∧
  (∀ (src : Nat) (m : Msg) (s : State),
    m.rsvd = 0 →
    m.ctx = 0 →
    m.ctxGen = 0 →
    m.status = 0 →
    s.alive = true →
    s.links.leases.find? (fun k => k.id + k.gen * 65536 == m.arg0 && k.lender == src && !k.broken) = none →
    ∃ t, exec (.optReturn src m) s = .next t ∧
      t = (s.takeCtrl src .optReturn m).staleLease) ∧
  (∀ (src : Nat) (op : Opcode) (i : Instr) (m : Msg) (s : State),
    s.alive = true →
    m.rsvd ≠ 0 ∨ m.ctx ≠ 0 ∨ m.ctxGen ≠ 0 ∨ m.status ≠ 0 →
    (i, op) ∈ [(Instr.lendBeacon src m, Opcode.lendBeacon), (.lendAsk src m, .lendAsk), (.lendOffer src m, .lendOffer), (.lendRelease src m, .lendRelease), (.optShip src m, .optShip), (.optClip src m, .optClip), (.optReturn src m, .optReturn)] →
    ∃ t, exec (i) s = .next t ∧
      t = s.takeCtrl src op m)

/-- R257–R267, R455. -/
def Obligations.PortsTrainAndRoute : Prop :=
  (∀ (m : Msg) (x : Session) (w : Nat) (s : State),
    Admits s .linkConfig m x = true →
    x.role = .management →
    m.length = 32 →
    w = ofLe (slice m.payload 0 32) →
    (anySet w 63 52 || anySet w 255 224) = false →
    field w 15 0 ≤ field w 47 32 →
    anySet (field w 175 128) 19 0 = false →
    field w 191 176 ≠ 0 →
    s.links.groups = [] ∨ (field w 15 0 = s.links.ordinal ∧ field w 31 16 = s.links.job ∧ field w 47 32 = s.links.sizeM1) →
    ∃ t, exec (.linkConfig m) s = .next t ∧
      Answered s t .linkConfig m (.of .pending) ∧ t.links.ordinal = field w 15 0 ∧ t.links.job = field w 31 16 ∧ t.links.sizeM1 = field w 47 32 ∧ t.links.pfc = field w 51 48 ∧ t.links.ip6 = field w 127 64 ∧ t.links.mac = field w 175 128 ∧ t.links.udp = field w 191 176 ∧ (∀ p < 16, ∀ y, s.port? p = some y → (t.port? p).map (fun z => z.mode) = some (cfgMode w p)) ∧ t.mem = s.mem ∧ t.ctxs = s.ctxs) ∧
  (∀ (p peer : Nat) (x : Port) (t0 : Nat) (lanes : List Bool) (pm tw : Bool) (s : State),
    s.alive = true →
    s.port? p = some x →
    x.mode ≠ 0 →
    x.training = some t0 →
    s.hub.timer ≤ t0 + 2 ^ 27 →
    lanes = List.replicate 8 true →
    x.narrow = false →
    tw = false →
    x.mode = 1 → peer ≠ s.links.ordinal →
    pm = s.conf →
    (s.chan? p peer).all (fun k => k.unacked.all (fun f => decide (f.resends < 8))) = true →
    ∃ t, exec (.portTrainDone p lanes peer pm tw) s = .next t ∧
      (∃ y, t.port? p = some y ∧ y.isUp = true ∧ y.wide = true ∧ y.training = none ∧ y.fails = 0 ∧ y.peer = (if x.mode = 1 then some peer else none)) ∧ t.mem = s.mem ∧ t.ctxs = s.ctxs) ∧
  (∀ (p peer : Nat) (x : Port) (t0 : Nat) (lanes : List Bool) (pm tw : Bool) (s : State),
    s.alive = true →
    s.port? p = some x →
    x.mode ≠ 0 →
    x.training = some t0 →
    lanes = List.replicate 8 false →
    ∃ t, exec (.portTrainDone p lanes peer pm tw) s = .next t ∧
      (∃ y, t.port? p = some y ∧ y.isUp = false ∧ y.training = none ∧ y.fails = x.fails + 1 ∧ y.peer = none) ∧ t.mem = s.mem ∧ t.ctxs = s.ctxs) ∧
  (∀ (die lane serdes cw sp : Nat) (x : Port) (s : State),
    s.alive = true →
    s.laneOf die serdes = some lane →
    s.port? (die * 8 + lane / 8) = some x →
    16 < cw →
    (List.range 4).find? (fun i => !s.links.serdes.any (fun r => r.1 == die && r.2.2 == 64 + i)) = some sp →
    s.otp.repair.length < 1024 →
    ∃ t, exec (.serdesReplace die serdes cw) s = .next t ∧
      t.links.serdes = s.links.serdes ++ [(die, lane, 64 + sp)] ∧ t.otp.repair = s.otp.repair ++ [repairEntry 5 (31 + die) 0 serdes] ∧ (x.mode ≠ 0 → x.isUp = true ∨ x.training ≠ none → (t.port? (die * 8 + lane / 8)).map (fun y => (y.isUp, y.training)) = some (false, some s.hub.timer)) ∧ t.mem = s.mem) ∧
  (∀ (src : Nat) (m : Msg) (s : State),
    m.rsvd = 0 →
    m.ctx = 0 →
    m.ctxGen = 0 →
    m.status = 0 →
    s.alive = true →
    m.length = 64 →
    m.arg0 % 65536 ≠ s.links.ordinal →
    (m.arg0 % 65536, portMapOf m.payload) ∉ s.links.maps →
    ∃ t, exec (.portMap src m) s = .next t ∧
      t.links.maps = (m.arg0 % 65536, portMapOf m.payload) :: s.links.maps.filter (fun k => k.1 != m.arg0 % 65536) ∧ t.links.routes = t.routesOf ∧ { t with links := s.links, out := s.out } = s) ∧
  (∀ (d : Delivered) (h : Nat) (s : State),
    s.alive = true →
    d.inner.iop = 0x21 →
    32 ≤ d.inner.data.length →
    h = ofLe (slice d.inner.data 0 32) →
    0x0C01 ≤ field h 15 0 →
    field h 15 0 ≤ 0x0C08 →
    flag h 16 = false →
    flag h 17 = false →
    d.inner.data.length = 32 + field h 127 96 →
    ∃ t, exec (.ctrlMsg d) s = .next t ∧
      t = (s.takeIn d).modLinks (fun l => { l with ctrl := l.ctrl ++ [(d.src, field h 15 0, (msgOf 0 true d.inner.data).2.2.2)] }))

/-- R268–R277, R415. -/
def Obligations.FramesCrossRasovi : Prop :=
  (∀ (o : Outer) (i : Inner) (p : Port) (c : Channel) (s : State),
    s.alive = true →
    s.port? o.port = some p →
    p.isUp = true →
    s.chan? o.port o.hop = some c →
    o.fcsOk = true →
    s.outerBad o false = false →
    c.keyed = true →
    o.kphase = c.rxPhase →
    o.tagOk = true →
    innerBad o i = false →
    o.dst = s.links.ordinal →
    p.mode = 1 →
    o.seq = c.rxAck →
    ∃ t, exec (.rasoviFrameReceive o i) s = .next t ∧
      t.links.inbox = s.links.inbox ++ [{ src := o.src, port := o.port, inner := i }] ∧ (t.chan? o.port o.hop).map (fun k => k.rxAck) = some (c.rxAck + 1) ∧ t.ctxs = s.ctxs ∧ t.mem = s.mem) ∧
  (∀ (o : Outer) (i : Inner) (p : Port) (c : Channel) (s : State),
    s.alive = true →
    s.port? o.port = some p →
    p.isUp = true →
    s.chan? o.port o.hop = some c →
    o.fcsOk = true →
    s.outerBad o false = false →
    c.keyed = true →
    o.kphase = c.rxPhase →
    o.tagOk = true →
    innerBad o i = false →
    o.dst = s.links.ordinal →
    p.mode = 1 →
    o.seq < c.rxAck →
    c.rxUnacked < 15 →
    ∃ t, exec (.rasoviFrameReceive o i) s = .next t ∧
      t = ((s.modPort o.port (fun y => { y with received := stepCount y.received })).heardFrame o false).countDiscard o.port) ∧
  (∀ (o : Outer) (i : Inner) (p : Port) (c : Channel) (s : State),
    s.alive = true →
    s.port? o.port = some p →
    p.isUp = true →
    s.chan? o.port o.hop = some c →
    o.fcsOk = true →
    s.outerBad o false = false →
    c.keyed = true →
    o.kphase = c.rxPhase →
    o.tagOk = true →
    innerBad o i = false →
    o.dst = s.links.ordinal →
    p.mode = 1 →
    c.rxAck < o.seq →
    c.nakSent = false →
    p.paused = false →
    c.rxUnacked < 15 →
    ∃ t, exec (.rasoviFrameReceive o i) s = .next t ∧
      (∃ b, t.out = s.out ++ [.link o.hop (s.links.wireHdr o.port p o.hop) (s.links.outerHdr o.port p 0 c.kphase s.links.ordinal o.hop c.txLink 0) b] ∧ b.nak = true ∧ b.ack = c.rxAck) ∧ t.links.inbox = s.links.inbox ∧ t.ctxs = s.ctxs ∧ t.mem = s.mem) ∧
  (∀ (o : Outer) (i : Inner) (p : Port) (c : Channel) (s : State),
    s.alive = true →
    s.port? o.port = some p →
    p.isUp = true →
    s.chan? o.port o.hop = some c →
    o.fcsOk = true →
    s.outerBad o false = false →
    c.keyed = true →
    o.kphase = c.rxPhase →
    o.tagOk = true →
    innerBad o i = false →
    o.dst = s.links.ordinal →
    p.mode ≠ 1 →
    p.mode = 2 ∨ p.mode = 3 →
    c.rxHeld = [] →
    o.seq = c.rxAck →
    ∃ t, exec (.rasoviFrameReceive o i) s = .next t ∧
      t.links.inbox = s.links.inbox ++ [{ src := o.src, port := o.port, inner := i }] ∧ (t.chan? o.port o.hop).map (fun k => k.rxAck) = some (c.rxAck + 1) ∧ t.ctxs = s.ctxs ∧ t.mem = s.mem) ∧
  (∀ (o : Outer) (b : LinkBody) (p : Port) (c : Channel) (s : State),
    s.alive = true →
    s.port? o.port = some p →
    p.isUp = true →
    p.mode = 1 →
    s.chan? o.port o.hop = some c →
    o.fcsOk = true →
    o.tagOk = true →
    s.outerBad o true = false →
    b.rsvd = 0 →
    b.sack = 0 →
    b.nak = false →
    o.dst = s.links.ordinal →
    c.keyed = true →
    o.kphase = c.rxPhase →
    s.links.channels.filter (fun k => k.port == o.port) = [c] →
    c.waiting = [] →
    c.linkDue = none →
    c.unacked.all (fun f => !f.due) = true →
    ∃ t, exec (.rasoviLinkFrame o b) s = .next t ∧
      (∃ k, t.chan? o.port o.hop = some k ∧ k.unacked = c.unacked.filter (fun f => !(f.outer.kphase == o.kphase && decide (f.outer.seq < b.ack))) ∧ k.crCtrl = c.crCtrl + b.crCtrl ∧ k.crData = c.crData + b.crData ∧ k.crXfer = c.crXfer + b.crXfer) ∧ t.out = s.out ∧ t.ctxs = s.ctxs ∧ t.mem = s.mem) ∧
  (∀ (port peer : Nat) (p : Port) (c : Channel) (s : State),
    s.alive = true →
    s.port? port = some p →
    s.chan? port peer = some c →
    p.isUp = true →
    p.paused = false →
    c.oldDue = false →
    0 < c.rxUnacked ∨ c.owed ≠ (0, 0, 0) →
    c.rxSince + 256 ≤ s.hub.timer →
    ∃ t, exec (.rasoviAckTimer port peer) s = .next t ∧
      t = s.sendLink port peer false false ∧ (∃ b, t.out = s.out ++ [.link peer (s.links.wireHdr port p peer) (s.links.outerHdr port p 0 c.kphase s.links.ordinal peer c.txLink 0) b] ∧ b.ack = c.rxAck ∧ b.nak = false ∧ (b.crCtrl, b.crData, b.crXfer) = c.owed) ∧ (t.chan? port peer).map (fun k => (k.rxUnacked, k.owed)) = some (0, 0, 0, 0)) ∧
  (∀ (port peer : Nat) (p : Port) (c : Channel) (s : State),
    s.alive = true →
    s.port? port = some p →
    s.chan? port peer = some c →
    p.isUp = true →
    p.paused = false →
    s.links.channels.filter (fun k => k.port == port) = [c] →
    c.linkDue = none →
    c.waiting = [] →
    p.mode = 1 →
    c.unacked ≠ [] →
    c.lastAdvance + 2 ^ 11 ≤ s.hub.timer →
    c.unacked.all (fun f => decide (f.resends < 8)) = true →
    ∃ t, exec (.rasoviReplayTimeout port peer) s = .next t ∧
      t.out = s.out ++ c.unacked.map (fun f => .rasovi peer f.hdr f.outer f.inner) ∧ (t.chan? port peer).map (fun k => k.unacked.map (fun f => f.resends)) = some (c.unacked.map (fun f => f.resends + 1)) ∧ t.mem = s.mem) ∧
  (∀ (port peer : Nat) (p : Port) (c : Channel) (s : State),
    s.alive = true →
    s.port? port = some p →
    s.chan? port peer = some c →
    p.isUp = true →
    p.mode = 1 →
    c.lastAdvance + 2 ^ 11 ≤ s.hub.timer →
    c.unacked.any (fun f => decide (8 ≤ f.resends)) = true →
    ∃ t, exec (.rasoviReplayTimeout port peer) s = .next t ∧
      (t.port? port).map (fun y => (y.isUp, y.training)) = some (false, some s.hub.timer) ∧ t.mem = s.mem ∧ t.ctxs = s.ctxs) ∧
  (∀ (port peer : Nat) (p : Port) (c : Channel) (s : State),
    s.alive = true →
    s.port? port = some p →
    s.chan? port peer = some c →
    p.isUp = true →
    p.paused = false →
    s.links.channels.filter (fun k => k.port == port) = [c] →
    c.linkDue = none →
    c.waiting = [] →
    p.mode ≠ 1 →
    c.unacked ≠ [] →
    c.lastAdvance + c.rto ≤ s.hub.timer →
    ∃ t, exec (.switchedRetransmitTimeout port peer) s = .next t ∧
      t.out = s.out ++ c.unacked.map (fun f => .rasovi peer f.hdr f.outer f.inner) ∧ (t.chan? port peer).map (fun k => k.rto) = some (min (2 * c.rto) 65536) ∧ t.mem = s.mem) ∧
  (∀ (port peer : Nat) (p : Port) (c : Channel) (s : State),
    s.alive = true →
    s.port? port = some p →
    s.chan? port peer = some c →
    p.isUp = true →
    s.links.ordinal < peer →
    c.keyed = false →
    c.kx.stage = 0 →
    ∃ t, exec (.channelKeyExchange port peer) s = .next t ∧
      t.hub.trng = s.hub.trng + 120 ∧ (∃ k, t.chan? port peer = some k ∧ k.kx.stage = 1 ∧ k.kx.since = s.hub.timer ∧ k.kx.first = exchangeOpen (s.draw 120).2 ++ s.kxIdentity) ∧ t.mem = s.mem ∧ t.ctxs = s.ctxs) ∧
  (∀ (d : Delivered) (c : Channel) (s : State),
    s.alive = true →
    s.chan? d.port d.src = some c →
    d.inner.data.length = kxFirstLen →
    d.src < s.links.ordinal →
    slice d.inner.data 1685 1 = toLe 1 s.modeCode →
    slice d.inner.data 1686 2 = toLe 2 s.links.job →
    ∃ t, exec (.linkKx d) s = .next t ∧
      t.hub.trng = s.hub.trng + 88 ∧ (∃ k, t.chan? d.port d.src = some k ∧ k.kx.stage = 2 ∧ k.kx.first = d.inner.data ∧ k.kx.second = exchangeAnswer (s.draw 88).2 d.inner.data ++ s.attestPub ++ toLe 4 s.otp.bootEpoch ++ toLe 1 s.modeCode) ∧ t.mem = s.mem ∧ t.ctxs = s.ctxs)

/-- R234–R242, R252, R253. The core that runs a record, and the lane of an element, are the model's readings (LOG 35). -/
def Obligations.OptimiserRequestsRun : Prop :=
  (∀ (m : Msg) (x : Session) (c : Ctx) (q : OptArgs) (l : List Param) (u r s : State),
    Admits s .optStep m x = true →
    s.ctx? m.ctx = some c →
    u = s.takeMail .optStep m →
    m.length = 96 →
    q = optArgs m.payload →
    q.rsvd = false →
    q.update = false →
    q.dp = false →
    q.table % 64 = 0 →
    c.mapped (recordAt q.table q.first) (128 * q.records) = true →
    c.mapped q.norm 4 = true →
    (u.readParams c.id [] q.table q.first q.records).1 = r →
    (u.readParams c.id [] q.table q.first q.records).2.toOption = some l →
    c.policy = none →
    c.consortium = false →
    q.bad = false →
    l.all (fun p => !p.rsvd && !r.slotReserved c p && r.consistent c p && c.paramFits p) = true →
    c.writable q.norm 4 = true →
    ∃ t, exec (.optStepPrepare m []) s = .next t ∧
      Answered s t .optStep m (.of .pending) ∧ (t.ctx? c.id).map (fun d => d.opt) = some (c.opt ++ [{ session := m.session, tag := m.tag, kind := 0, payload := m.payload, accepted := s.hub.timer }]) ∧ { session := m.session, sgen := x.gen, opcode := .optStep, tag := m.tag, ctx := m.ctx, ctxGen := m.ctxGen, what := .opt } ∈ t.waits ∧ t.mem.cells = s.mem.cells) ∧
  (∀ (m : Msg) (x : Session) (c : Ctx) (q : OptArgs) (l : List Param) (u r s : State),
    Admits s .optStep m x = true →
    s.ctx? m.ctx = some c →
    u = s.takeMail .optStep m →
    m.length = 96 →
    q = optArgs m.payload →
    q.rsvd = false →
    q.update = true →
    q.dp = false →
    q.table % 64 = 0 →
    c.mapped (recordAt q.table q.first) (128 * q.records) = true →
    c.mapped q.norm 4 = true →
    (u.readParams c.id [] q.table q.first q.records).1 = r →
    (u.readParams c.id [] q.table q.first q.records).2.toOption = some l →
    c.policy = none →
    c.consortium = false →
    q.bad = false →
    l.all (fun p => !p.rsvd && !r.slotReserved c p && r.consistent c p && c.paramFits p) = true →
    ∃ t, exec (.optStepUpdate m []) s = .next t ∧
      Answered s t .optStep m (.of .pending) ∧ (t.ctx? c.id).map (fun d => d.opt) = some (c.opt ++ [{ session := m.session, tag := m.tag, kind := 1, payload := m.payload, accepted := s.hub.timer }]) ∧ { session := m.session, sgen := x.gen, opcode := .optStep, tag := m.tag, ctx := m.ctx, ctxGen := m.ctxGen, what := .opt } ∈ t.waits ∧ t.mem.cells = s.mem.cells) ∧
  (∀ (id tg : Nat) (c : Ctx) (o : OptReq) (q : OptArgs) (s : State),
    s.alive = true →
    s.ctx? id = some c →
    c.opt.find? (fun z => z.kind != 2) = some o →
    o.tag = tg →
    o.run = none →
    c.begins = true →
    q = optArgs o.payload →
    (s.fenceGate c q.fenceIn q.inVal).toOption = some true →
    q.records = 0 →
    ∃ t, exec (.optStepRun id tg []) s = .next t ∧
      (∀ d ∈ t.ctxs, d.id = id → d.opt = c.opt.filter (fun z => !(z.tag == tg && z.session == o.session))) ∧ (∀ w ∈ t.waits, ¬(w.ctx = id ∧ w.session = o.session ∧ w.tag = tg ∧ w.what = .opt)) ∧ (o.kind = 1 → (t.ctx? id).map (fun d => d.ckpt.step) = some q.step) ∧ t.mem = s.mem) ∧
  (∀ (id tg n fg fn : Nat) (c : Ctx) (o : OptReq) (q : OptArgs) (p : Param) (s : State),
    s.alive = true →
    s.ctx? id = some c →
    c.opt.find? (fun z => z.kind != 2) = some o →
    o.tag = tg →
    o.run = none →
    c.begins = true →
    q = optArgs o.payload →
    (s.fenceGate c q.fenceIn q.inVal).toOption = some true →
    q.records = 1 →
    (s.readParams id [] q.table q.first 1).2.toOption = some [p] →
    s.placeable.head? = some n →
    s.gateClosed (tileOf n) = false →
    p.gradSpace = 0 →
    c.policy = none →
    c.shipped = [] →
    s.links.leases = [] →
    PlainRegion s c p.gradAddr (4 * p.count) fg = true →
    PlainRegion s c q.norm 4 fn = true →
    cellsWf s.mem.cells = true →
    q.update = false →
    q.dp = false →
    physAt fn (q.norm % pageSize) + 4 ≤ physAt fg (p.gradAddr % pageSize) ∨ physAt fg (p.gradAddr % pageSize) + 4 * p.count ≤ physAt fn (q.norm % pageSize) →
    ∃ t, exec (.optStepRun id tg []) s = .next t ∧
      readCells t.mem.cells (physAt fg (p.gradAddr % pageSize)) (4 * p.count) = bytesOf 4 ((prepAll q { draws := c.drawsOn n } ((wordsOf 4 p.count (readCells s.mem.cells (physAt fg (p.gradAddr % pageSize)) (4 * p.count))).map Pair.ofWord)).1.map Pair.word) ∧ readCells t.mem.cells (physAt fn (q.norm % pageSize)) 4 = toLe 4 (Pair.zero.add (sumSquares (prepAll q { draws := c.drawsOn n } ((wordsOf 4 p.count (readCells s.mem.cells (physAt fg (p.gradAddr % pageSize)) (4 * p.count))).map Pair.ofWord)).1).1.val).1.word ∧ (∀ a, ¬(physAt fg (p.gradAddr % pageSize) ≤ a ∧ a < physAt fg (p.gradAddr % pageSize) + 4 * p.count) → ¬(physAt fn (q.norm % pageSize) ≤ a ∧ a < physAt fn (q.norm % pageSize) + 4) → cellAt t.mem.cells a = cellAt s.mem.cells a) ∧ (∀ d ∈ t.ctxs, d.id = id → d.opt = c.opt.filter (fun z => !(z.tag == tg && z.session == o.session))) ∧ (∀ w ∈ t.waits, ¬(w.ctx = id ∧ w.session = o.session ∧ w.tag = tg ∧ w.what = .opt))) ∧
  (∀ (id tg n fg fn : Nat) (c : Ctx) (o : OptReq) (q : OptArgs) (p : Param) (s : State),
    s.alive = true →
    s.ctx? id = some c →
    c.opt.find? (fun z => z.kind != 2) = some o →
    o.tag = tg →
    o.run = none →
    c.begins = true →
    q = optArgs o.payload →
    (s.fenceGate c q.fenceIn q.inVal).toOption = some true →
    q.records = 1 →
    (s.readParams id [] q.table q.first 1).2.toOption = some [p] →
    s.placeable.head? = some n →
    s.gateClosed (tileOf n) = false →
    p.gradSpace = 0 →
    c.policy = none →
    c.shipped = [] →
    s.links.leases = [] →
    PlainRegion s c p.gradAddr (4 * p.count) fg = true →
    PlainRegion s c q.norm 4 fn = true →
    cellsWf s.mem.cells = true →
    q.update = true →
    o.kind = 1 →
    p.frozen = true →
    2 ≤ p.workFmt →
    c.audit = [] →
    ∃ t, exec (.optStepRun id tg []) s = .next t ∧
      (∀ k < 4 * p.count, cellAt t.mem.cells (physAt fg (p.gradAddr % pageSize) + k) = 0) ∧ (∀ a, ¬(physAt fg (p.gradAddr % pageSize) ≤ a ∧ a < physAt fg (p.gradAddr % pageSize) + 4 * p.count) → cellAt t.mem.cells a = cellAt s.mem.cells a) ∧ (∀ d ∈ t.ctxs, d.id = id → d.opt = c.opt.filter (fun z => !(z.tag == tg && z.session == o.session))) ∧ (∀ w ∈ t.waits, ¬(w.ctx = id ∧ w.session = o.session ∧ w.tag = tg ∧ w.what = .opt)) ∧ (t.ctx? id).map (fun d => d.ckpt.step) = some q.step) ∧
  (∀ (m : Msg) (x : Session) (c : Ctx) (q : ExportArgs) (l : List Param) (n : Nat) (u r s : State),
    Admits s .paramExport m x = true →
    s.ctx? m.ctx = some c →
    u = s.takeMail .paramExport m →
    m.length = 48 →
    q = exportArgs m.payload →
    q.rsvd = false →
    q.table % 64 = 0 →
    c.mapped (recordAt q.table q.first) (128 * q.records) = true →
    (u.readParams c.id [] q.table q.first q.records).1 = r →
    (u.readParams c.id [] q.table q.first q.records).2.toOption = some l →
    c.policy = none →
    c.consortium = false →
    q.parts ≠ 0 →
    q.dst % 64 = 0 →
    l.all (fun p => !p.rsvd && !r.slotReserved c p && r.consistent c p && c.paramFits p) = true →
    q.step ≠ 0 →
    n = imagesLength (l.flatMap (fun p => (p.partsOf q.parts).map (fun z => z.2.2.2))) →
    n ≤ q.len →
    c.writable q.dst n = true →
    ∃ t, exec (.paramExport m []) s = .next t ∧
      Answered s t .paramExport m (.of .pending) ∧ (t.ctx? c.id).map (fun d => d.opt) = some (c.opt ++ [{ session := m.session, tag := m.tag, kind := 2, payload := m.payload, accepted := s.hub.timer }]) ∧ { session := m.session, sgen := x.gen, opcode := .paramExport, tag := m.tag, ctx := m.ctx, ctxGen := m.ctxGen, what := .opt } ∈ t.waits ∧ t.mem.cells = s.mem.cells) ∧
  (∀ (id tg : Nat) (c : Ctx) (o : OptReq) (q : ExportArgs) (s : State),
    s.alive = true →
    s.ctx? id = some c →
    c.opt.find? (fun z => z.kind == 2 && z.tag == tg) = some o →
    c.begins = true →
    q = exportArgs o.payload →
    (s.fenceGate c q.fenceIn q.inVal).toOption = some true →
    q.records = 0 →
    c.policy = none →
    ∃ t, exec (.paramExportRun id tg []) s = .next t ∧
      (∀ d ∈ t.ctxs, d.id = id → d.opt = c.opt.filter (fun z => !(z.tag == tg && z.session == o.session))) ∧ (∀ w ∈ t.waits, ¬(w.ctx = id ∧ w.session = o.session ∧ w.tag = tg ∧ w.what = .opt)) ∧ t.mem = s.mem) ∧
  (∀ (id tg fm fd : Nat) (c : Ctx) (o : OptReq) (q : ExportArgs) (p : Param) (bs : Bytes) (s : State),
    s.alive = true →
    s.ctx? id = some c →
    c.opt.find? (fun z => z.kind == 2 && z.tag == tg) = some o →
    c.begins = true →
    q = exportArgs o.payload →
    (s.fenceGate c q.fenceIn q.inVal).toOption = some true →
    q.records = 1 →
    q.parts = 2 →
    c.policy = none →
    (s.readParams id [] q.table q.first 1).2.toOption = some [p] →
    c.heldReads (p.regions.map (fun g => ({ space := 0, addr := g.1, bytes := g.2.1 } : Region))) = false →
    PlainRegion s c p.mAddr (2 * p.count) fm = true →
    PlainRegion s c q.dst (128 + 2 * p.count) fd = true →
    cellsWf s.mem.cells = true →
    bs = readCells s.mem.cells (physAt fm (p.mAddr % pageSize)) (2 * p.count) →
    ∃ t, exec (.paramExportRun id tg []) s = .next t ∧
      readCells t.mem.cells (physAt fd (q.dst % pageSize)) (128 + 2 * p.count) = imageHeader p 1 5 q.step 0 bs ++ bs ∧ (∀ a, ¬(physAt fd (q.dst % pageSize) ≤ a ∧ a < physAt fd (q.dst % pageSize) + (128 + 2 * p.count)) → cellAt t.mem.cells a = cellAt s.mem.cells a) ∧ (∀ d ∈ t.ctxs, d.id = id → d.opt = c.opt.filter (fun z => !(z.tag == tg && z.session == o.session))) ∧ (∀ w ∈ t.waits, ¬(w.ctx = id ∧ w.session = o.session ∧ w.tag = tg ∧ w.what = .opt)))

/-- R477–R487. No statement rests on the crypto functions or on the compressed form, which are free (LOG 6, 36). -/
def Obligations.CheckpointsAreTaken : Prop :=
  (∀ (m : Msg) (x : Session) (c : Ctx) (g : CkptCfg) (s : State),
    Admits s .ckptConfig m x = true →
    s.ctx? m.ctx = some c →
    m.length = 64 →
    g = ckptCfgOf m.payload →
    g.rsvd = false →
    c.storeBeyond g = false →
    g.pages % 2 = 0 →
    2 ≤ g.pages →
    g.drainTmo ≠ 0 →
    g.keySrc = false →
    c.ckpt.stage = 0 →
    ((s.ctxs.filter (fun d => d.id != c.id)).map (fun d => d.admitted)).sum + c.limits.localMax + g.cowMax ≤ s.grantable →
    ∃ t, exec (.ckptConfig m) s = .next t ∧
      Answered s t .ckptConfig m (.of .ok) ∧ OnlySent (s.modCtx c.id (fun d => { d with ckpt := { d.ckpt with cfg := m.payload.take 64, nextGen := s.lastCommitted c.id g + 1, lastCut := s.hub.timer } })) t) ∧
  (∀ (m : Msg) (x : Session) (c : Ctx) (s : State),
    Admits s .ckptNow m x = true →
    s.ctx? m.ctx = some c →
    m.length = 0 →
    c.ckptCfg.enable = true →
    ∃ t, exec (.ckptNow m) s = .next t ∧
      Answered s t .ckptNow m (.of .pending) ∧ { session := m.session, sgen := x.gen, opcode := .ckptNow, tag := m.tag, ctx := m.ctx, ctxGen := m.ctxGen, what := .ckpt c.ckpt.nextGen } ∈ t.waits ∧ (t.ctx? c.id).map (fun d => d.ckpt) = some (if c.ckpt.stage = 0 then { c.ckpt with stage := 1, cause := 2, genNow := c.ckpt.nextGen, nextGen := c.ckpt.nextGen + 1, started := s.hub.timer } else c.ckpt) ∧ t.mem = s.mem) ∧
  (∀ (id : Nat) (c : Ctx) (s : State),
    s.ctx? id = some c →
    s.alive = true →
    c.ckptCfg.enable = true →
    c.ckptCfg.timerEvery ≠ 0 →
    c.ckpt.lastCut + c.ckptCfg.timerEvery * 2 ^ 28 ≤ s.hub.timer →
    c.res.state ≠ .resetting →
    ∃ t, exec (.ckptTimerTrigger id) s = .next t ∧
      (t.ctx? id).map (fun d => d.ckpt) = some (if c.ckpt.stage = 0 then { c.ckpt with stage := 1, cause := 0, genNow := c.ckpt.nextGen, nextGen := c.ckpt.nextGen + 1, started := s.hub.timer } else { c.ckpt with skipped := c.ckpt.skipped + 1, lastCut := s.hub.timer }) ∧ { t with ctxs := s.ctxs } = s) ∧
  (∀ (id : Nat) (c : Ctx) (s : State),
    s.ctx? id = some c →
    s.alive = true →
    c.ckpt.stage = 1 →
    s.drained c = true →
    ∃ t, exec (.ckptCut id) s = .next t ∧
      (∃ d, t.ctx? id = some d ∧ d.ckpt.stage = 2 ∧ d.ckpt.genNow = c.ckpt.genNow ∧ d.ckpt.cutAt = s.hub.timer ∧ d.ckpt.cutEpoch = s.otp.bootEpoch ∧ d.ckpt.sections = s.sectionsOf c ∧ d.ckpt.half = s.targetHalf id c.ckptCfg ∧ d.pages.map (fun p => p.snap) = c.pages.map (fun p => p.snap || (p.share.isNone && p.keyId == 0 && !c.inStore p.va)) ∧ d.queues = c.queues ∧ d.ckpt.torn = false ∧ d.ckpt.cowUsed ≤ c.ckptCfg.cowMax) ∧ { t with ctxs := s.ctxs, mem := s.mem } = s ∧ t.mem.cells = s.mem.cells ∧ (c.queues.all (fun x => x.window == 0) = true → t.mem = s.mem)) ∧
  (∀ (id : Nat) (c : Ctx) (rg : Ring) (s : State),
    s.ctx? id = some c →
    s.alive = true →
    c.ckpt.stage = 1 →
    c.ckpt.started + c.ckptCfg.drainTmo * 2 ^ 20 ≤ s.hub.timer →
    c.ring = some rg →
    rg.others < 16 →
    c.res.state ≠ .resetting →
    s.waits.all (fun w => w.what != .ckpt (c.ckpt.genNow + 1)) = true →
    s.mem.hbmUse.all (fun u => u.2 != .snapshot id) = true →
    ∃ t, exec (.ckptDrainTimeout id) s = .next t ∧
      (t.ctx? id).map (fun d => (d.ckpt.stage, d.ckpt.nextGen)) = some (0, c.ckpt.nextGen) ∧ (∀ w ∈ t.waits, ¬(w.ctx = id ∧ w.ctxGen = c.gen ∧ w.what = .ckpt c.ckpt.genNow)) ∧ (∃ z, (t.ctx? id).bind (fun d => d.ring) = some z ∧ z.rseq = rg.rseq + 1 ∧ (∃ k ∈ z.entries, k.event = .ckptDone ∧ k.status = .timeout))) ∧
  (∀ (id f : Nat) (c : Ctx) (g : CkptCfg) (rg : Ring) (s : State),
    s.ctx? id = some c →
    s.alive = true →
    c.ckpt.stage = 2 →
    g = c.ckptCfg →
    c.ckpt.torn = false →
    s.mem.hbmUse.all (fun u => u.2 != .snapshot id) = true →
    c.pages.all (fun p => !p.snap) = true →
    c.ring = some rg →
    rg.others < 16 →
    c.res.state ≠ .resetting →
    s.waits.all (fun w => w.what != .ckpt (c.ckpt.genNow + 1)) = true →
    PlainRegion s c (halfAt g.va g.pages c.ckpt.half) (halfBytes g.pages) f = true →
    (∀ p ∈ c.pages, p.tier ≠ some f ∧ p.lease ≠ some f ∧ (p.hbm = some f → p.va = vpage (halfAt g.va g.pages c.ckpt.half))) →
    rg.addr + 80 * 2 ^ rg.log2 ≤ halfAt g.va g.pages c.ckpt.half ∨ halfAt g.va g.pages c.ckpt.half + halfBytes g.pages ≤ rg.addr →
    cellsWf s.mem.cells = true →
    c.ckpt.genNow < 2 ^ 64 →
    ∃ t, exec (.ckptWriteDone id []) s = .next t ∧
      (t.ctx? id).map (fun d => (d.ckpt.stage, d.ckpt.nextGen)) = some (0, c.ckpt.nextGen) ∧ (∀ w ∈ t.waits, ¬(w.ctx = id ∧ w.ctxGen = c.gen ∧ w.what = .ckpt c.ckpt.genNow)) ∧ ((((s.draw 32).1.readSnapshots c []).1.generation c (s.draw 32).2).1.length + (((s.draw 32).1.readSnapshots c []).1.generation c (s.draw 32).2).2.length ≤ halfBytes g.pages → (∃ z, (t.ctx? id).bind (fun d => d.ring) = some z ∧ z.rseq = rg.rseq + 1 ∧ (∃ k ∈ z.entries, k.event = .ckptDone ∧ k.status = .ok)) ∧ readCells t.mem.cells (physAt f 0) (((s.draw 32).1.readSnapshots c []).1.generation c (s.draw 32).2).1.length = (((s.draw 32).1.readSnapshots c []).1.generation c (s.draw 32).2).1.take 208 ++ toLe 8 c.ckpt.genNow ++ toLe 8 c.ckpt.genNow ++ (((s.draw 32).1.readSnapshots c []).1.generation c (s.draw 32).2).1.drop 224 ∧ readCells t.mem.cells (physAt f (((s.draw 32).1.readSnapshots c []).1.generation c (s.draw 32).2).1.length) (((s.draw 32).1.readSnapshots c []).1.generation c (s.draw 32).2).2.length = (((s.draw 32).1.readSnapshots c []).1.generation c (s.draw 32).2).2) ∧ (halfBytes g.pages < (((s.draw 32).1.readSnapshots c []).1.generation c (s.draw 32).2).1.length + (((s.draw 32).1.readSnapshots c []).1.generation c (s.draw 32).2).2.length → (∃ z, (t.ctx? id).bind (fun d => d.ring) = some z ∧ z.rseq = rg.rseq + 1 ∧ (∃ k ∈ z.entries, k.event = .ckptDone ∧ k.status = .extent))))

/-- R489–R493. The layout of some sections is the model's (LOG 36). -/
def Obligations.CheckpointsAreReadBack : Prop :=
  (∀ (m : Msg) (x : Session) (c : Ctx) (q : RestoreArgs) (s : State),
    Admits s .ckptVerify m x = true →
    s.ctx? m.ctx = some c →
    m.length = 64 →
    q = restoreArgs m.payload →
    q.rsvd = false →
    q.form = 0 →
    q.va % pageSize = 0 →
    c.mapped q.va (q.pages * pageSize) = true →
    q.keySrc = false →
    s.waits.all (fun w => !(w.session == m.session && w.tag == m.tag)) = true →
    ∃ t, exec (.ckptVerify m []) s = .next t ∧
      Answered s t .ckptVerify m (.of .pending) ∧ (∀ v g, v = Pended s x .ckptVerify m (.ckptRead (m.payload.take 64)) → g = v.chooseImage c q [] →
        Answered s t .ckptVerify m (match g.2 with
          | none => .of .digestMismatch
          | some k => { status := .ok, arg0 := k.gen }) ∧ (g.2 = none → t.vault.slots = s.vault.slots)) ∧ (∀ w ∈ t.waits, ¬(w.session = m.session ∧ w.tag = m.tag))) ∧
  (∀ (m : Msg) (x : Session) (c : Ctx) (q : RestoreArgs) (s : State),
    Admits s .ckptRestore m x = true →
    s.ctx? m.ctx = some c →
    m.length = 64 →
    q = restoreArgs m.payload →
    q.rsvd = false →
    q.form = 0 →
    q.va % pageSize = 0 →
    c.mapped q.va (q.pages * pageSize) = true →
    q.keySrc = false →
    c.ring = none →
    c.queues = [] →
    c.pages.all (c.mayPrecede q) = true →
    c.consortium = false →
    s.waits.all (fun w => !(w.session == m.session && w.tag == m.tag)) = true →
    ∃ t, exec (.ckptRestoreWhole m []) s = .next t ∧
      Answered s t .ckptRestore m (.of .pending) ∧ (∀ v g, v = Pended s x .ckptRestore m (.ckptRead (m.payload.take 64)) → g = v.chooseImage c q [] →
        Answered s t .ckptRestore m (match g.2 with
          | none => .of .digestMismatch
          | some k => (g.1.restoreWhole c.id [] k).2) ∧ (g.2 = none → t.vault.slots = s.vault.slots)) ∧ (∀ w ∈ t.waits, ¬(w.session = m.session ∧ w.tag = m.tag))) ∧
  (∀ (m : Msg) (x : Session) (c : Ctx) (q : RestoreArgs) (l : List Param) (s : State),
    Admits s .ckptRestore m x = true →
    s.ctx? m.ctx = some c →
    m.length = 64 →
    q = restoreArgs m.payload →
    q.rsvd = false →
    q.form = 1 →
    q.va % pageSize = 0 →
    c.mapped q.va (q.pages * pageSize) = true →
    q.keySrc = false →
    c.ring.isSome = true →
    x.has fReslice = true →
    c.mapped (recordAt q.table q.first) (128 * q.records) = true →
    ((Pended s x .ckptRestore m (.ckptRead (m.payload.take 64))).resliceTargets c q []).2.toOption = some l →
    s.waits.all (fun w => !(w.session == m.session && w.tag == m.tag)) = true →
    ∃ t, exec (.ckptRestoreReslice m []) s = .next t ∧
      Answered s t .ckptRestore m (.of .pending) ∧ (∀ v g, v = Pended s x .ckptRestore m (.ckptRead (m.payload.take 64)) → g = (v.resliceTargets c q []).1.chooseImage c q [] →
        Answered s t .ckptRestore m (match g.2 with
          | none => .of .digestMismatch
          | some k => (g.1.reslice c.id [] k l).2) ∧ (g.2 = none → t.vault.slots = s.vault.slots)) ∧ (∀ w ∈ t.waits, ¬(w.session = m.session ∧ w.tag = m.tag)))

/-- R374, R375, R377, R380, R381. -/
def Obligations.ConsortiumRequestsBindAndRelease : Prop :=
  (∀ (m : Msg) (x : Session) (c : Ctx) (bs prog : Bytes) (d : PolicyDoc) (p : Policy) (u v s : State),
    Admits s .policyLoad m x = true →
    s.ctx? m.ctx = some c →
    bs = m.payload →
    d = policyDoc bs →
    p = d.policy bs →
    u = s.takeMail .policyLoad m →
    m.length = d.bytes →
    d.reserved bs = false →
    policyDenied c bs d p = false →
    templatesDenied p = false →
    p.templates.all (fun z => z.2.1 % 128 == 0) = true →
    p.ranges.all (fun r => r.1 % pageSize == 0 && c.mapped r.1 r.2) = true →
    (u.readV c.id none [] p.progAddr (p.progPages * pageSize)).1 = v →
    (u.readV c.id none [] p.progAddr (p.progPages * pageSize)).2.toOption = some prog →
    shake256 prog 64 = slice bs 24 64 →
    v.policySigned bs d p = true →
    ∃ t, exec (.policyLoad m []) s = .next t ∧
      Answered s t .policyLoad m (.of .ok) ∧ (t.ctx? c.id).map (fun d => d.policy) = some (some { p with jobKey := (v.draw 32).2 }) ∧ t.hub.trng = v.hub.trng + 32 ∧ (t.ctx? c.id).map (fun z => z.pages.all (fun k => !(decide (p.progAddr / pageSize ≤ k.va) && decide (k.va < p.progAddr / pageSize + p.progPages)) || k.ro)) = some true ∧ t.mem.cells = s.mem.cells) ∧
  (∀ (m : Msg) (x : Session) (c : Ctx) (i : Nat) (p : Policy) (s : State),
    Admits s .ownerJoin m x = true →
    s.ctx? m.ctx = some c →
    m.length = 128 →
    allZero (slice m.payload 1 7) = true →
    allZero (slice m.payload 122 6) = true →
    c.policy = some p →
    i = ofLe (slice m.payload 0 1) →
    i < p.nOwners →
    s.indexJoined c i = false →
    x.owns c = false →
    s.verifies (p.owners.getD i []) (shake256 (x.transcript ++ p.hash ++ ascii "owner join") 64) (slice m.payload 8 114) = true →
    ∃ t, exec (.ownerJoin m) s = .next t ∧
      Answered s t .ownerJoin m (.of .ok) ∧ OnlySent (s.modCtx c.id (fun d => { d with joined := d.joined.filter (fun j => j.2.2 != i) ++ [(x.number, x.gen, i)] })) t) ∧
  (∀ (m : Msg) (x : Session) (c : Ctx) (p : Policy) (bs : Bytes) (u v s : State),
    Admits s .release m x = true →
    s.ctx? m.ctx = some c →
    m.length = 16 →
    anySet (ofLe (slice m.payload 0 16)) 31 2 = false →
    anySet (ofLe (slice m.payload 0 16)) 127 64 = false →
    c.policy = some p →
    field (ofLe (slice m.payload 0 16)) 1 0 = 0 →
    p.proposal = none →
    field (ofLe (slice m.payload 0 16)) 63 32 = p.release →
    u = s.takeMail .release m →
    (u.readReleases c.id p).1 = v →
    (u.readReleases c.id p).2.toOption = some bs →
    ∃ t, exec (.releasePropose m) s = .next t ∧
      Answered s t .release m { status := .ok, arg0 := tally bs } ∧ (t.ctx? c.id).map (fun d => d.policy) = some (some { p with proposal := some (tally bs), signed := [] }) ∧ t.mem.cells = s.mem.cells) ∧
  (∀ (m : Msg) (x : Session) (c : Ctx) (y i : Nat) (n : List Nat) (p : Policy) (s : State),
    Admits s .quorumSign m x = true →
    s.ctx? m.ctx = some c →
    m.length = 128 →
    allZero (slice m.payload 4 4) = true →
    allZero (slice m.payload 122 6) = true →
    c.policy = some p →
    p.proposal = some y →
    ofLe (slice m.payload 0 4) = p.release →
    i ∈ x.joinedAs c →
    (x.joinedAs c).length = 1 →
    s.verifies (p.owners.getD i []) (shake256 (p.hash ++ toLe 4 p.release ++ toLe 8 y ++ ascii "release") 64) (slice m.payload 8 114) = true →
    n = (if p.signed.contains i then p.signed else p.signed ++ [i]) →
    n.length < p.quorum →
    ∃ t, exec (.quorumSign m) s = .next t ∧
      Answered s t .quorumSign m { status := .ok, arg0 := n.length } ∧ (t.ctx? c.id).map (fun d => d.policy) = some (some { p with signed := n }) ∧ t.mem = s.mem) ∧
  (∀ (m : Msg) (x : Session) (c : Ctx) (y i : Nat) (n : List Nat) (p : Policy) (s : State),
    Admits s .quorumSign m x = true →
    s.ctx? m.ctx = some c →
    m.length = 128 →
    allZero (slice m.payload 4 4) = true →
    allZero (slice m.payload 122 6) = true →
    c.policy = some p →
    p.proposal = some y →
    ofLe (slice m.payload 0 4) = p.release →
    i ∈ x.joinedAs c →
    (x.joinedAs c).length = 1 →
    s.verifies (p.owners.getD i []) (shake256 (p.hash ++ toLe 4 p.release ++ toLe 8 y ++ ascii "release") 64) (slice m.payload 8 114) = true →
    n = (if p.signed.contains i then p.signed else p.signed ++ [i]) →
    p.quorum ≤ n.length →
    s.links.insts.all (fun k => k.ctx != c.id) = true →
    ∃ t, exec (.quorumSign m) s = .next t ∧
      Answered s t .quorumSign m { status := .ok, arg0 := n.length } ∧ (t.ctx? c.id).map (fun d => d.policy) = some (some { p with proposal := none, signed := [], released := p.release :: p.released, release := p.release + 1, keyFrom := p.counter })) ∧
  (∀ (m : Msg) (x : Session) (c : Ctx) (p : Policy) (s : State),
    Admits s .release m x = true →
    s.ctx? m.ctx = some c →
    m.length = 16 →
    anySet (ofLe (slice m.payload 0 16)) 31 2 = false →
    anySet (ofLe (slice m.payload 0 16)) 127 64 = false →
    c.policy = some p →
    field (ofLe (slice m.payload 0 16)) 1 0 = 1 →
    field (ofLe (slice m.payload 0 16)) 63 32 ∈ p.released.take 16 →
    ∃ t, exec (.releaseFetch m) s = .next t ∧
      Answered s t .release m { status := .ok, payload := kmac256 p.jobKey (toLe 4 (field (ofLe (slice m.payload 0 16)) 63 32)) "RELEASE" 32 } ∧ OnlySent s t) ∧
  (∀ (m : Msg) (x : Session) (c : Ctx) (p : Policy) (s : State),
    Admits s .release m x = true →
    s.ctx? m.ctx = some c →
    m.length = 16 →
    anySet (ofLe (slice m.payload 0 16)) 31 2 = false →
    anySet (ofLe (slice m.payload 0 16)) 127 64 = false →
    c.policy = some p →
    field (ofLe (slice m.payload 0 16)) 1 0 = 2 →
    p.proposal.isSome = true →
    s.links.insts.all (fun k => k.ctx != c.id) = true →
    ∃ t, exec (.releaseWithdraw m) s = .next t ∧
      Answered s t .release m (.of .ok) ∧ (t.ctx? c.id).map (fun d => d.policy) = some (some { p with proposal := none, signed := [], release := p.release + 1, keyFrom := p.counter }))

/-- R178, R218, R459–R465. -/
def Obligations.CoresAreTestedAndScrubbed : Prop :=
  (∀ (n piece : Nat) (tier ok : Bool) (s : State),
    s.alive = true →
    n < 96 →
    piece < (if tier then 2 ^ 23 else 2 ^ 19) →
    (tier = true ∨ s.scratchServes n = true) →
    s.mem.badRows s.hub.timer = [] →
    ∃ t, exec (.patrolScrub n tier piece ok) s = .next t ∧
      (∃ k ∈ t.logs.records, k.1 = s.logs.recNo) ∧ s.logs.recNo < t.logs.recNo ∧ ((∀ k, sparse s.mem.rowSpares k < 16) → t.mem.cells = s.mem.cells ∧ t.vault = s.vault ∧
        (ok = false → ((if tier then physAt (tierFrame n 0) 0 else scratchBase n) + piece * 64) / 64 ∈ t.mem.pieces) ∧
        (ok = true → t.mem.pieces = s.mem.pieces))) ∧
  (∀ (n piece : Nat) (ok : Bool) (s : State),
    s.scratchServes n = false →
    ∃ t, exec (.patrolScrub n false piece ok) s = .next t ∧
      t = s) ∧
  (∀ (n : Nat) (c : Core) (s : State),
    s.alive = true →
    s.core? n = some c →
    s.mayTest n = true →
    ∃ t, exec (.fieldTestStart n) s = .next t ∧
      (t.core? n) = some { c with underTest := true } ∧ t.test = { s.test with lanes := (List.range 256).map (Config.testLane s.test.seed) } ∧ { t with cores := s.cores, test := s.test } = s ∧ (∀ k ≠ n, t.core? k = s.core? k)) ∧
  (∀ (n : Nat) (c : Core) (r : TestResult) (f : List Nat) (s : State),
    s.alive = true →
    s.core? n = some c →
    c.underTest = true →
    c.status = .active →
    s.test.confirmed = some f →
    s.test.sparing = [] →
    r.tallies = f →
    r.march = true →
    r.checker = true →
    s.test.ran.length + 2 ≤ ((List.range 96).filter (fun k => (s.core? k).any (fun d => d.status == .active || d.status == .spare))).length →
    ∃ t, exec (.fieldTestResult n r) s = .next t ∧
      (t.core? n).map (fun d => (d.underTest, d.held, d.lastTest, d.roundPassed, d.lastRound, d.status)) = some (false, false, s.hub.timer, true, some s.test.round, c.status) ∧ n ∈ t.test.ran ∧ t.test.round = s.test.round ∧ t.otp = s.otp ∧ t.mem = s.mem ∧ (∀ k ≠ n, t.core? k = s.core? k)) ∧
  (∀ (n : Nat) (c : Core) (r : TestResult) (f : List Nat) (s : State),
    s.alive = true →
    s.core? n = some c →
    c.underTest = true →
    c.status = .active →
    s.test.confirmed = some f →
    s.test.sparing = [] →
    (r.tallies ≠ f ∨ r.march = false ∨ r.checker = false) →
    s.otp.repair.length < 1024 →
    ∃ t, exec (.fieldTestResult n r) s = .next t ∧
      (t.core? n).map (fun d => (d.status, d.underTest)) = some (.fenced, false) ∧ (∃ l, t.otp.repair = s.otp.repair ++ repairEntry 1 (n / 16) (n % 16) 0 :: l) ∧ s.logs.recNo < t.logs.recNo) ∧
  (∀ (n : Nat) (c : Core) (s : State),
    s.alive = true →
    s.core? n = some c →
    s.test.force = true →
    c.status = .active ∨ c.status = .spare →
    s.homes n = 0 →
    c.lastTest + 2 ^ (s.test.intervalLog2 + 2) ≤ s.hub.timer →
    ∃ t, exec (.testOverdue n) s = .next t ∧
      t.core? n = some { c with held := true } ∧ { t with cores := s.cores } = s ∧ (∀ k ≠ n, t.core? k = s.core? k)) ∧
  (∀ (m : Msg) (x : Session) (w : Nat) (s : State),
    Admits s .testConfig m x = true →
    m.length = 32 →
    w = ofLe (slice m.payload 0 32) →
    field w 1 0 = 0 →
    x.role = .management →
    (anySet w 7 2 || anySet w 31 15 || anySet w 255 32) = false →
    30 ≤ field w 13 8 →
    field w 13 8 ≤ 44 →
    ∃ t, exec (.testConfigDevice m) s = .next t ∧
      Answered s t .testConfig m (.of .ok) ∧ OnlySent { s with test := { s.test with intervalLog2 := field w 13 8, force := flag w 14 } } t) ∧
  (∀ (m : Msg) (x : Session) (w : Nat) (c : Ctx) (ups : List Upset) (v : State) (s : State),
    Admits s .testConfig m x = true →
    m.length = 32 →
    w = ofLe (slice m.payload 0 32) →
    field w 1 0 = 1 →
    (anySet w 7 2 || anySet w 14 8 || anySet w 31 15 || anySet w 95 88 || anySet w 159 144 || anySet w 255 208) = false →
    s.ctxs.find? (fun d => d.id == m.ctx && d.gen == m.ctxGen && m.ctxGen != 0) = some c →
    x.owns c = true →
    field w 143 96 % 64 = 0 →
    c.mapped (field w 143 96 + 128 * field w 183 160) (128 * field w 207 184) = true →
    ((s.takeMail .testConfig m).readV m.ctx none ups (field w 143 96 + 128 * field w 183 160) (128 * field w 207 184)).1 = v →
    ((s.takeMail .testConfig m).readV m.ctx none ups (field w 143 96 + 128 * field w 183 160) (128 * field w 207 184)).2.toOption.isSome = true →
    v.liveGroup m.ctx (field w 79 64) (field w 87 80) = true →
    ∃ t, exec (.testConfigAudit m ups) s = .next t ∧
      Answered s t .testConfig m (.of .ok) ∧ OnlySent (v.modCtx m.ctx (fun d => { d with audit := [field w 63 32, field w 79 64, field w 87 80, field w 143 96, field w 183 160, field w 207 184] })) t)

/-- R292. -/
def Obligations.TallyIsThePolynomialDigest : Prop :=
  (∀ (bs : Bytes),
    tally bs = (((List.range ((bs.length + 3) / 4)).map (fun i => ofLe ((bs.drop (4 * i)).take 4) * 0x0123456789ABCDEF ^ ((bs.length + 3) / 4 - i))).sum + bs.length) % (2 ^ 61 - 1) ∧
      tally bs < 2 ^ 61) ∧
  (tally [1, 0, 0, 0] = 0x0123456789ABCDF3) ∧
  (∀ (p : Param) (part fmt step e : Nat) (bs : Bytes),
    p.ext.length = 4 →
    p.off.length = 4 →
    p.shp.length = 4 →
    slice (imageHeader p part fmt step e bs) 80 8 = toLe 8 (tally bs))

/-- R39. -/
def Obligations.NanIsWrittenCanonically : Prop :=
  (∀ (r : Rounding),
    (narrow fmtE4M3 r .nan).1 = 0x7F ∧
      (narrow fmtE5M2 r .nan).1 = 0x7E ∧
      (narrow fmtBF16 r .nan).1 = 0x7FC0 ∧
      (narrow fmtFP16 r .nan).1 = 0x7E00) ∧
  (∀ (w : Nat),
    w < 256 →
    w % 128 = 0x7F →
    fmtE4M3.decode w = .nan) ∧
  (∀ (w : Nat),
    w < 256 →
    w / 4 % 32 = 31 →
    w % 4 ≠ 0 →
    fmtE5M2.decode w = .nan) ∧
  (∀ (w : Nat),
    w < 65536 →
    w / 128 % 256 = 255 →
    w % 128 ≠ 0 →
    fmtBF16.decode w = .nan) ∧
  (∀ (w : Nat),
    w < 65536 →
    w / 1024 % 32 = 31 →
    w % 1024 ≠ 0 →
    fmtFP16.decode w = .nan)

/-- R383, R386, R387, R389. Memory in the state is plaintext, and the ciphertext and the reserve are computed from it (LOG 11). -/
def Obligations.StacksHoldCiphertextAndTags : Prop :=
  (∀ (s : State) (k p b : Nat),
    p < 31744 →
    b < 8192 →
    s.reserveWord k (tagWordAt (8192 * p + b)) = s.tagWord (32768 * k + p) b ∧
      s.reserveWord k (pageWordAt p) = (s.mem.meta (32768 * k + p)).high + (s.mem.meta (32768 * k + p)).retired.toNat * 2 ^ 24) ∧
  (∀ (s : State) (k p n : Nat),
    p < 31744 →
    n < 512 →
    s.reserveWord k (lowAt (512 * p + n)) = sparse (s.mem.meta (32768 * k + p)).low n) ∧
  (∀ (s : State) (k o : Nat),
    0x7FE3E000 ≤ o →
    s.reserveWord k o = 0) ∧
  (tagWordAt 0x3123456 = 0x1891A2B0 ∧
      lowAt (0x3123456 / 16) = 0x7C000000 + 0xC48D14 ∧
      pageWordAt (0x3123456 / 8192) = 0x7FE00000 + 8 * 0x1891) ∧
  (∀ (s : State) (f b : Nat),
    xorBytes (s.cipherBlock f b) (keyStream (s.memoryKey (s.keyOfFrame f)) (s.keyOfFrame f) (physAt f (b * 256)) ((s.mem.meta f).major (b / 16)) (sparse (s.mem.meta f).minors b)) = readCells s.mem.cells (physAt f (b * 256)) 256) ∧
  (∀ (s : State) (f b : Nat),
    (s.mem.meta f).poisoned? b = none →
    sparse (s.mem.meta f).minors b < 255 →
    s.tagWord f b % 256 = sparse (s.mem.meta f).minors b) ∧
  (∀ (s : State) (f b : Nat) (p : Poison),
    (s.mem.meta f).poisoned? b = some p →
    s.tagWord f b % 256 = 0xFF)
end

