-- ==== Sys2Proof/Laws/Memory.lean ====
section
/-!
SUPPORT. Laws/Memory.lean: every operation on cells keeps the canonical form; a read after a write; what a write leaves alone.
-/
set_option Elab.async false
namespace Sys2Proof.Machine

/-! ### The canonical form, as an order -/

/-- Addresses strictly rising. -/
def Rising (cs : List Host.Cell) : Prop := cs.Pairwise (fun x y => x.1 < y.1)

/-- No entry equal to what an unlisted address reads as. -/
def NoBlank (cs : List Host.Cell) : Prop := ∀ c ∈ cs, c.2 ≠ blankByte

/-- All addresses from `a` up to `b`. -/
def Within (a b : Nat) (cs : List Host.Cell) : Prop := ∀ c ∈ cs, a ≤ c.1 ∧ c.1 < b

theorem cellsWf_iff (cs : List Host.Cell) : cellsWf cs = true ↔ Rising cs ∧ NoBlank cs := by
  induction cs with
  | nil => simp [cellsWf, Rising, NoBlank]
  | cons c rest ih =>
    cases rest with
    | nil => simp [cellsWf, Rising, NoBlank]
    | cons d rest =>
      simp only [cellsWf, Bool.and_eq_true, ih, Rising, NoBlank, bne_iff_ne, decide_eq_true_eq, List.pairwise_cons, List.forall_mem_cons]
      constructor
      · rintro ⟨⟨h1, h2⟩, ⟨h3, h4⟩, h5⟩
        exact ⟨⟨⟨h2, fun x hx => Nat.lt_trans h2 (h3 x hx)⟩, h3, h4⟩, h1, h5⟩
      · rintro ⟨⟨⟨h2, -⟩, h3, h4⟩, h1, h5⟩
        exact ⟨⟨h1, h2⟩, ⟨h3, h4⟩, h5⟩

/-- What lies below a bound is the front of rising cells. -/
theorem takeWhile_below {cs : List Host.Cell} (h : Rising cs) (a : Nat) :
    cs.takeWhile (fun c => decide (c.1 < a)) = cs.filter (fun c => decide (c.1 < a)) := by
  induction cs with
  | nil => rfl
  | cons c rest ih =>
    obtain ⟨h1, h2⟩ := List.pairwise_cons.mp h
    by_cases hc : c.1 < a
    · simp [hc, ih h2]
    · have : ∀ x ∈ rest, ¬ x.1 < a := fun x hx => by have := h1 x hx; omega
      simp [hc]
      intro x b hx; exact Nat.not_lt.mp (this (x, b) hx)

/-- What does not is its rest. -/
theorem dropWhile_below {cs : List Host.Cell} (h : Rising cs) (a : Nat) :
    cs.dropWhile (fun c => decide (c.1 < a)) = cs.filter (fun c => decide (a ≤ c.1)) := by
  induction cs with
  | nil => rfl
  | cons c rest ih =>
    obtain ⟨h1, h2⟩ := List.pairwise_cons.mp h
    by_cases hc : c.1 < a
    · simp [hc, ih h2, Nat.not_le.mpr hc]
    · have : ∀ x ∈ rest, a ≤ x.1 := fun x hx => by have := h1 x hx; omega
      simp [hc, Nat.not_lt.mp hc]
      exact (List.filter_eq_self.mpr (by simpa using this)).symm

theorem Rising.filter {cs : List Host.Cell} (h : Rising cs) (p : Host.Cell → Bool) : Rising (cs.filter p) := List.Pairwise.filter p h

/-- A replacement on rising cells: below, the new ones, above. -/
theorem replaceCells_eq {cs : List Host.Cell} (h : Rising cs) (a n : Nat) (mid : List Host.Cell) :
    replaceCells cs a n mid = cs.filter (fun c => decide (c.1 < a)) ++ mid ++ cs.filter (fun c => decide (a + n ≤ c.1)) := by
  unfold replaceCells
  rw [takeWhile_below h, dropWhile_below h, dropWhile_below (h.filter _), List.filter_filter]
  congr 1
  apply List.filter_congr
  intro x _
  simp
  omega

theorem cellsIn_eq {cs : List Host.Cell} (h : Rising cs) (a n : Nat) :
    cellsIn cs a n = cs.filter (fun c => decide (a ≤ c.1) && decide (c.1 < a + n)) := by
  unfold cellsIn
  rw [dropWhile_below h, takeWhile_below (h.filter _), List.filter_filter]
  apply List.filter_congr
  intro x _
  simp [Bool.and_comm]

/-- A replacement by canonical cells within the range keeps the canonical form. -/
theorem replaceCells_wf {cs mid : List Host.Cell} {a n : Nat} (h : cellsWf cs = true) (hm : cellsWf mid = true)
    (hw : Within a (a + n) mid) : cellsWf (replaceCells cs a n mid) = true := by
  rw [cellsWf_iff] at *
  rw [replaceCells_eq h.1]
  refine ⟨?_, ?_⟩
  · unfold Rising
    rw [List.pairwise_append, List.pairwise_append]
    refine ⟨⟨h.1.filter _, hm.1, ?_⟩, h.1.filter _, ?_⟩
    · intro x hx y hy
      have := (List.mem_filter.mp hx).2
      have := hw y hy
      simp at *; omega
    · intro x hx y hy
      have hy := (List.mem_filter.mp hy).2
      rcases List.mem_append.mp hx with hx | hx
      · have := (List.mem_filter.mp hx).2
        simp at *; omega
      · have := hw x hx
        simp at *; omega
  · intro c hc
    rcases List.mem_append.mp hc with hc | hc
    · rcases List.mem_append.mp hc with hc | hc
      · exact h.2 c (List.mem_filter.mp hc).1
      · exact hm.2 c hc
    · exact h.2 c (List.mem_filter.mp hc).1

/-! ### One byte -/

theorem cellAt_of_not_mem {cs : List Host.Cell} {a : Nat} (h : ∀ c ∈ cs, c.1 ≠ a) : cellAt cs a = blankByte := by
  induction cs with
  | nil => rfl
  | cons c rest ih =>
    simp only [List.forall_mem_cons] at h
    simp [cellAt, h.1, ih h.2]

theorem cellAt_append (l r : List Host.Cell) (a : Nat) :
    cellAt (l ++ r) a = if (∃ c ∈ l, c.1 = a) then cellAt l a else cellAt r a := by
  induction l with
  | nil => simp
  | cons c rest ih =>
    by_cases hc : c.1 = a
    · simp [cellAt, hc]
    · simp [cellAt, hc, ih]

/-- A filter that admits every cell of an address shows its byte. -/
theorem cellAt_filter {cs : List Host.Cell} {a : Nat} {p : Host.Cell → Bool} (h : ∀ c : Host.Cell, c.1 = a → p c = true) :
    cellAt (cs.filter p) a = cellAt cs a := by
  induction cs with
  | nil => rfl
  | cons c rest ih =>
    by_cases hp : p c
    · simp [hp, cellAt, ih]
    · have : c.1 ≠ a := fun e => hp (h c e)
      simp [hp, cellAt, this, ih]

/-- A replacement leaves every other address alone. -/
theorem cellAt_replaceCells_outside {cs mid : List Host.Cell} {a n x : Nat} (h : cellsWf cs = true) (hw : Within a (a + n) mid)
    (hx : ¬ (a ≤ x ∧ x < a + n)) : cellAt (replaceCells cs a n mid) x = cellAt cs x := by
  rw [replaceCells_eq ((cellsWf_iff cs).mp h).1, cellAt_append]
  by_cases hlt : x < a
  · have hr : cellAt (cs.filter (fun c => decide (c.1 < a)) ++ mid) x = cellAt cs x := by
      rw [cellAt_append]
      split
      · exact cellAt_filter (by intro c hc; simp [hc, hlt])
      · next hn =>
        rw [cellAt_of_not_mem (cs := mid) (fun c hc e => by have := hw c hc; omega)]
        symm
        apply cellAt_of_not_mem
        intro c hc e
        exact hn ⟨c, List.mem_filter.mpr ⟨hc, by simp [e, hlt]⟩, e⟩
    split
    · exact hr
    · next hn =>
      rw [cellAt_of_not_mem (fun c hc e => by have := (List.mem_filter.mp hc).2; simp at this; omega)]
      symm
      apply cellAt_of_not_mem
      intro c hc e
      exact hn ⟨c, List.mem_append.mpr (Or.inl (List.mem_filter.mpr ⟨hc, by simp [e, hlt]⟩)), e⟩
  · have hge : a + n ≤ x := by omega
    have hn : ¬ ∃ c ∈ cs.filter (fun c => decide (c.1 < a)) ++ mid, c.1 = x := by
      rintro ⟨c, hc, e⟩
      rcases List.mem_append.mp hc with hc | hc
      · have := (List.mem_filter.mp hc).2; simp at this; omega
      · have := hw c hc; omega
    rw [if_neg hn]
    exact cellAt_filter (by intro c hc; simp [hc, hge])

/-- Within the range, a replacement shows the new cells. -/
theorem cellAt_replaceCells_inside {cs mid : List Host.Cell} {a n x : Nat} (h : cellsWf cs = true)
    (hx : a ≤ x ∧ x < a + n) : cellAt (replaceCells cs a n mid) x = cellAt mid x := by
  rw [replaceCells_eq ((cellsWf_iff cs).mp h).1, List.append_assoc, cellAt_append]
  have hn : ¬ ∃ c ∈ cs.filter (fun c => decide (c.1 < a)), c.1 = x := by
    rintro ⟨c, hc, e⟩
    have := (List.mem_filter.mp hc).2; simp at this; omega
  rw [if_neg hn, cellAt_append]
  split
  · rfl
  · next hm =>
    rw [cellAt_of_not_mem (fun c hc e => by have := (List.mem_filter.mp hc).2; simp at this; omega)]
    symm
    exact cellAt_of_not_mem (fun c hc e => hm ⟨c, hc, e⟩)

/-! ### The cells of bytes -/

theorem cellsOf_within (a : Nat) (bs : Bytes) : Within a (a + bs.length) (cellsOf blankByte a bs) := by
  induction bs generalizing a with
  | nil => intro c hc; simp [cellsOf] at hc
  | cons b rest ih =>
    intro c hc
    simp only [cellsOf] at hc
    split at hc
    · have := ih (a + 1) c hc; simp; omega
    · rcases List.mem_cons.mp hc with rfl | hc
      · simp
      · have := ih (a + 1) c hc; simp; omega

theorem cellsOf_wf (a : Nat) (bs : Bytes) : cellsWf (cellsOf blankByte a bs) = true := by
  rw [cellsWf_iff]
  induction bs generalizing a with
  | nil => simp [cellsOf, Rising, NoBlank]
  | cons b rest ih =>
    simp only [cellsOf]
    split
    · exact ih (a + 1)
    · next hb =>
      refine ⟨List.pairwise_cons.mpr ⟨fun c hc => ?_, (ih (a + 1)).1⟩, ?_⟩
      · have := cellsOf_within (a + 1) rest c hc; simp; omega
      · intro c hc
        rcases List.mem_cons.mp hc with rfl | hc
        · exact hb
        · exact (ih (a + 1)).2 c hc

theorem cellAt_cellsOf (a : Nat) (bs : Bytes) (i : Nat) (h : i < bs.length) : cellAt (cellsOf blankByte a bs) (a + i) = bs[i] := by
  induction bs generalizing a i with
  | nil => simp at h
  | cons b rest ih =>
    cases i with
    | zero =>
      simp only [cellsOf]
      split
      · next hb =>
        rw [cellAt_of_not_mem (fun c hc e => by have := cellsOf_within (a + 1) rest c hc; omega)]
        simp [hb]
      · simp [cellAt]
    | succ i =>
      have hi : i < rest.length := by simpa using h
      have := ih (a + 1) i hi
      simp only [cellsOf]
      split
      · simpa [Nat.add_assoc, Nat.add_comm 1] using this
      · have hne : ¬ a = a + (i + 1) := by omega
        simpa [cellAt, hne, Nat.add_assoc, Nat.add_comm 1] using this

/-! ### Writing, clearing, copying -/

theorem writeCells_wf {cs : List Host.Cell} (h : cellsWf cs = true) (a : Nat) (bs : Bytes) : cellsWf (writeCells cs a bs) = true :=
  replaceCells_wf h (cellsOf_wf a bs) (cellsOf_within a bs)

theorem clearCells_wf {cs : List Host.Cell} (h : cellsWf cs = true) (a n : Nat) : cellsWf (clearCells cs a n) = true :=
  replaceCells_wf h (by simp [cellsWf]) (by intro c hc; simp at hc)

/-- Cells of a range, moved to another. -/
theorem moved_wf {cs : List Host.Cell} (h : cellsWf cs = true) (src dst n : Nat) :
    cellsWf ((cellsIn cs src n).map (fun c => (c.1 - src + dst, c.2))) = true
      ∧ Within dst (dst + n) ((cellsIn cs src n).map (fun c => (c.1 - src + dst, c.2))) := by
  have hw := (cellsWf_iff cs).mp h
  rw [cellsIn_eq hw.1, cellsWf_iff]
  refine ⟨⟨?_, ?_⟩, ?_⟩
  · unfold Rising
    rw [List.pairwise_map]
    refine (List.Pairwise.and_mem.mp (hw.1.filter _)).imp ?_
    rintro x y ⟨hx, hy, hxy⟩
    have := (List.mem_filter.mp hx).2
    simp at *; omega
  · intro c hc
    obtain ⟨d, hd, rfl⟩ := List.mem_map.mp hc
    exact hw.2 d (List.mem_filter.mp hd).1
  · intro c hc
    obtain ⟨d, hd, rfl⟩ := List.mem_map.mp hc
    have := (List.mem_filter.mp hd).2
    simp at *; omega

theorem copyCells_wf {cs : List Host.Cell} (h : cellsWf cs = true) (src dst n : Nat) : cellsWf (copyCells cs src dst n) = true :=
  replaceCells_wf h (moved_wf h src dst n).1 (moved_wf h src dst n).2

theorem cellAt_writeCells_inside {cs : List Host.Cell} (h : cellsWf cs = true) (a : Nat) (bs : Bytes) (i : Nat) (hi : i < bs.length) :
    cellAt (writeCells cs a bs) (a + i) = bs[i] := by
  unfold writeCells
  rw [cellAt_replaceCells_inside h (by omega), cellAt_cellsOf a bs i hi]

theorem cellAt_writeCells_outside {cs : List Host.Cell} (h : cellsWf cs = true) {a x : Nat} {bs : Bytes}
    (hx : ¬ (a ≤ x ∧ x < a + bs.length)) : cellAt (writeCells cs a bs) x = cellAt cs x :=
  cellAt_replaceCells_outside h (cellsOf_within a bs) hx

theorem cellAt_clearCells {cs : List Host.Cell} (h : cellsWf cs = true) (a n x : Nat) :
    cellAt (clearCells cs a n) x = if a ≤ x ∧ x < a + n then blankByte else cellAt cs x := by
  split
  · next hx => exact cellAt_replaceCells_inside h hx
  · next hx => exact cellAt_replaceCells_outside h (by intro c hc; simp at hc) hx

/-- Moved cells show the source's bytes. -/
theorem cellAt_moved {cs : List Host.Cell} (src dst n i : Nat) (hi : i < n) (h : Rising cs) :
    cellAt ((cellsIn cs src n).map (fun c => (c.1 - src + dst, c.2))) (dst + i) = cellAt cs (src + i) := by
  rw [cellsIn_eq h]
  clear h
  induction cs with
  | nil => rfl
  | cons c rest ih =>
    by_cases hin : src ≤ c.1 ∧ c.1 < src + n
    · rw [List.filter_cons_of_pos (by simpa using hin), List.map_cons]
      by_cases hc : c.1 = src + i
      · have : c.1 - src + dst = dst + i := by omega
        simp [cellAt, hc]
        omega
      · have : ¬ c.1 - src + dst = dst + i := by omega
        simp only [cellAt, this, if_false, hc]
        exact ih
    · have hc : ¬ c.1 = src + i := by omega
      rw [List.filter_cons_of_neg (by simpa using hin)]
      simp only [cellAt, hc, if_false]
      exact ih

theorem cellAt_copyCells {cs : List Host.Cell} (h : cellsWf cs = true) (src dst n x : Nat) :
    cellAt (copyCells cs src dst n) x = if dst ≤ x ∧ x < dst + n then cellAt cs (src + (x - dst)) else cellAt cs x := by
  unfold copyCells
  split
  · next hx =>
    rw [cellAt_replaceCells_inside h hx]
    have := cellAt_moved src dst n (x - dst) (by omega) ((cellsWf_iff cs).mp h).1
    rwa [Nat.add_sub_cancel' hx.1] at this
  · next hx => exact cellAt_replaceCells_outside h (moved_wf h src dst n).2 hx

/-! ### Reading a run -/

@[simp] theorem spread_length (n a : Nat) (cs : List Host.Cell) : (spread n a cs).length = n := by
  induction n generalizing a cs with
  | zero => rfl
  | succ n ih =>
    cases cs with
    | nil => simp [spread, ih]
    | cons c rest => simp only [spread]; split <;> simp [ih]

@[simp] theorem readCells_length (cs : List Host.Cell) (a n : Nat) : (readCells cs a n).length = n := spread_length n a _

theorem spread_getElem {cs : List Host.Cell} (n a i : Nat) (h : Rising cs) (hw : ∀ c ∈ cs, a ≤ c.1) (hi : i < n) :
    (spread n a cs)[i]? = some (cellAt cs (a + i)) := by
  induction n generalizing a cs i with
  | zero => omega
  | succ n ih =>
    cases cs with
    | nil =>
      cases i with
      | zero => rfl
      | succ i =>
        have := ih (a + 1) i (cs := []) List.Pairwise.nil (by simp) (by omega)
        simpa [spread, cellAt] using this
    | cons c rest =>
      obtain ⟨h1, h2⟩ := List.pairwise_cons.mp h
      simp only [List.forall_mem_cons] at hw
      by_cases hc : c.1 = a
      · cases i with
        | zero => simp [spread, hc, cellAt]
        | succ i =>
          have := ih (a + 1) i h2 (fun x hx => by have := h1 x hx; omega) (by omega)
          have hne : ¬ a = a + (i + 1) := by omega
          simp only [spread, hc, if_true, List.getElem?_cons_succ, this, cellAt, hne, if_false]
          rw [Nat.add_assoc, Nat.add_comm 1]
      · cases i with
        | zero =>
          have : cellAt (c :: rest) a = blankByte := cellAt_of_not_mem (by
            intro x hx
            rcases List.mem_cons.mp hx with rfl | hx
            · exact hc
            · have := h1 x hx; omega)
          simp [spread, hc, this]
        | succ i =>
          have := ih (a + 1) i (cs := c :: rest) h (by
            intro x hx
            rcases List.mem_cons.mp hx with rfl | hx
            · omega
            · have := h1 x hx; omega) (by omega)
          simp only [spread, hc, if_false, List.getElem?_cons_succ, this]
          rw [Nat.add_assoc, Nat.add_comm 1]

/-- A run that is read holds the bytes at its addresses. -/
theorem readCells_getElem {cs : List Host.Cell} (h : cellsWf cs = true) (a n i : Nat) (hi : i < n) :
    (readCells cs a n)[i]? = some (cellAt cs (a + i)) := by
  have hr := ((cellsWf_iff cs).mp h).1
  unfold readCells
  rw [cellsIn_eq hr, spread_getElem n a i (hr.filter _) (by intro c hc; have := (List.mem_filter.mp hc).2; simp at this; omega) hi]
  congr 1
  exact cellAt_filter (by intro c hc; simp [hc]; omega)

/-- Two runs that show the same bytes read alike. -/
theorem readCells_congr {cs ds : List Host.Cell} (h : cellsWf cs = true) (k : cellsWf ds = true) {a b n : Nat}
    (e : ∀ i < n, cellAt cs (a + i) = cellAt ds (b + i)) : readCells cs a n = readCells ds b n := by
  apply List.ext_getElem?
  intro i
  by_cases hi : i < n
  · rw [readCells_getElem h a n i hi, readCells_getElem k b n i hi, e i hi]
  · rw [List.getElem?_eq_none (by simp; omega), List.getElem?_eq_none (by simp; omega)]

/-- A read after a write of the same run gives what was written. -/
theorem readCells_writeCells {cs : List Host.Cell} (h : cellsWf cs = true) (a : Nat) (bs : Bytes) :
    readCells (writeCells cs a bs) a bs.length = bs := by
  apply List.ext_getElem?
  intro i
  by_cases hi : i < bs.length
  · rw [readCells_getElem (writeCells_wf h a bs) a _ i hi, cellAt_writeCells_inside h a bs i hi, List.getElem?_eq_getElem hi]
  · rw [List.getElem?_eq_none (by simp; omega), List.getElem?_eq_none (by omega)]

/-- A read of a run that a write does not meet. -/
theorem readCells_writeCells_apart {cs : List Host.Cell} (h : cellsWf cs = true) {a b n : Nat} {bs : Bytes}
    (hd : b + n ≤ a ∨ a + bs.length ≤ b) : readCells (writeCells cs a bs) b n = readCells cs b n :=
  readCells_congr (writeCells_wf h a bs) h (fun i hi => cellAt_writeCells_outside h (by omega))

/-! ### Equal memories are equal data -/

theorem cells_ext {cs ds : List Host.Cell} (h : cellsWf cs = true) (k : cellsWf ds = true) (e : ∀ a, cellAt cs a = cellAt ds a) : cs = ds := by
  rw [cellsWf_iff] at h k
  induction cs generalizing ds with
  | nil =>
    cases ds with
    | nil => rfl
    | cons d rest =>
      have := e d.1
      simp only [cellAt, if_true] at this
      exact absurd this.symm (k.2 d (by simp))
  | cons c cs ih =>
    cases ds with
    | nil =>
      have := e c.1
      simp only [cellAt, if_true] at this
      exact absurd this (h.2 c (by simp))
    | cons d ds =>
      obtain ⟨h1, h2⟩ := List.pairwise_cons.mp h.1
      obtain ⟨k1, k2⟩ := List.pairwise_cons.mp k.1
      have hc : c.1 = d.1 := by
        rcases Nat.lt_trichotomy c.1 d.1 with hlt | heq | hgt
        · have := e c.1
          rw [cellAt_of_not_mem (cs := d :: ds) (by
            intro x hx
            rcases List.mem_cons.mp hx with rfl | hx
            · omega
            · have := k1 x hx; omega)] at this
          simp only [cellAt, if_true] at this
          exact absurd this (h.2 c (by simp))
        · exact heq
        · have := e d.1
          rw [cellAt_of_not_mem (cs := c :: cs) (by
            intro x hx
            rcases List.mem_cons.mp hx with rfl | hx
            · omega
            · have := h1 x hx; omega)] at this
          simp only [cellAt, if_true] at this
          exact absurd this.symm (k.2 d (by simp))
      have hb : c.2 = d.2 := by
        have := e c.1
        simpa [cellAt, hc] using this
      have ht : cs = ds := by
        refine ih ⟨h2, fun x hx => h.2 x (by simp [hx])⟩ ⟨k2, fun x hx => k.2 x (by simp [hx])⟩ (fun a => ?_)
        by_cases ha : c.1 = a
        · rw [cellAt_of_not_mem (fun x hx => by have := h1 x hx; omega), cellAt_of_not_mem (fun x hx => by have := k1 x hx; omega)]
        · have := e a
          simpa [cellAt, ha, hc ▸ ha] using this
      rw [ht, Prod.ext hc hb]

/-- Two writes of runs that meet end to end are one. -/
theorem writeCells_append {cs : List Host.Cell} (h : cellsWf cs = true) (a : Nat) (l r : Bytes) :
    writeCells (writeCells cs a l) (a + l.length) r = writeCells cs a (l ++ r) := by
  have hl := writeCells_wf h a l
  refine cells_ext (writeCells_wf hl _ r) (writeCells_wf h a _) (fun x => ?_)
  by_cases hx : a + l.length ≤ x ∧ x < a + l.length + r.length
  · have e := cellAt_writeCells_inside hl (a + l.length) r (x - (a + l.length)) (by omega)
    rw [Nat.add_sub_cancel' hx.1] at e
    have e2 := cellAt_writeCells_inside h a (l ++ r) (x - a) (by simp; omega)
    rw [Nat.add_sub_cancel' (by omega)] at e2
    rw [e, e2, List.getElem_append_right (by omega)]
    congr 1; omega
  · rw [cellAt_writeCells_outside hl hx]
    by_cases hy : a ≤ x ∧ x < a + l.length
    · have e := cellAt_writeCells_inside h a l (x - a) (by omega)
      rw [Nat.add_sub_cancel' hy.1] at e
      have e2 := cellAt_writeCells_inside h a (l ++ r) (x - a) (by simp; omega)
      rw [Nat.add_sub_cancel' (by omega)] at e2
      rw [e, e2, List.getElem_append_left (by omega)]
    · rw [cellAt_writeCells_outside h hy, cellAt_writeCells_outside h (by simp; omega)]

/-- A write of nothing. -/
theorem writeCells_nil {cs : List Host.Cell} (h : cellsWf cs = true) (a : Nat) : writeCells cs a [] = cs :=
  cells_ext (writeCells_wf h a []) h (fun _ => cellAt_writeCells_outside h (by simp))

/-! ### Memory -/

theorem reset_mem_wf : State.reset.mem.wf = true := by decide

theorem modCells_wf {s : State} {f : List Host.Cell → List Host.Cell} (hf : cellsWf s.mem.cells = true → cellsWf (f s.mem.cells) = true)
    (h : s.mem.wf = true) : (s.modCells f).mem.wf = true := hf h

theorem State.modCells_write_wf {s : State} (h : s.mem.wf = true) (a : Nat) (bs : Bytes) :
    (s.modCells (fun cs => writeCells cs a bs)).mem.wf = true := writeCells_wf h a bs

theorem State.modCells_clear_wf {s : State} (h : s.mem.wf = true) (a n : Nat) :
    (s.modCells (fun cs => clearCells cs a n)).mem.wf = true := clearCells_wf h a n

theorem State.modCells_copy_wf {s : State} (h : s.mem.wf = true) (a b n : Nat) :
    (s.modCells (fun cs => copyCells cs a b n)).mem.wf = true := copyCells_wf h a b n

end Sys2Proof.Machine
end

