-- ==== Sys2Proof/Laws/State.lean ====
section
/-!
SUPPORT. Laws/State.lean: for each named update of the state, each field after it: the one that it changes, and the rest, which stand.
-/
set_option Elab.async false
namespace Sys2Proof.Machine

/-! ### modHub -/

@[simp] theorem State.modHub_hub (s : State) (f : Hub → Hub) : (s.modHub f).hub = f s.hub := rfl
@[simp] theorem State.modHub_otp (s : State) (f : Hub → Hub) : (s.modHub f).otp = s.otp := rfl
@[simp] theorem State.modHub_flash (s : State) (f : Hub → Hub) : (s.modHub f).flash = s.flash := rfl
@[simp] theorem State.modHub_life (s : State) (f : Hub → Hub) : (s.modHub f).life = s.life := rfl
@[simp] theorem State.modHub_power (s : State) (f : Hub → Hub) : (s.modHub f).power = s.power := rfl
@[simp] theorem State.modHub_hbmStacks (s : State) (f : Hub → Hub) : (s.modHub f).hbmStacks = s.hbmStacks := rfl
@[simp] theorem State.modHub_cores (s : State) (f : Hub → Hub) : (s.modHub f).cores = s.cores := rfl
@[simp] theorem State.modHub_test (s : State) (f : Hub → Hub) : (s.modHub f).test = s.test := rfl
@[simp] theorem State.modHub_mem (s : State) (f : Hub → Hub) : (s.modHub f).mem = s.mem := rfl
@[simp] theorem State.modHub_vault (s : State) (f : Hub → Hub) : (s.modHub f).vault = s.vault := rfl
@[simp] theorem State.modHub_sessions (s : State) (f : Hub → Hub) : (s.modHub f).sessions = s.sessions := rfl
@[simp] theorem State.modHub_sessionsFreed (s : State) (f : Hub → Hub) : (s.modHub f).sessionsFreed = s.sessionsFreed := rfl
@[simp] theorem State.modHub_ctxs (s : State) (f : Hub → Hub) : (s.modHub f).ctxs = s.ctxs := rfl
@[simp] theorem State.modHub_ctxsFreed (s : State) (f : Hub → Hub) : (s.modHub f).ctxsFreed = s.ctxsFreed := rfl
@[simp] theorem State.modHub_fences (s : State) (f : Hub → Hub) : (s.modHub f).fences = s.fences := rfl
@[simp] theorem State.modHub_fencesFreed (s : State) (f : Hub → Hub) : (s.modHub f).fencesFreed = s.fencesFreed := rfl
@[simp] theorem State.modHub_shares (s : State) (f : Hub → Hub) : (s.modHub f).shares = s.shares := rfl
@[simp] theorem State.modHub_sharesFreed (s : State) (f : Hub → Hub) : (s.modHub f).sharesFreed = s.sharesFreed := rfl
@[simp] theorem State.modHub_ledger (s : State) (f : Hub → Hub) : (s.modHub f).ledger = s.ledger := rfl
@[simp] theorem State.modHub_waits (s : State) (f : Hub → Hub) : (s.modHub f).waits = s.waits := rfl
@[simp] theorem State.modHub_links (s : State) (f : Hub → Hub) : (s.modHub f).links = s.links := rfl
@[simp] theorem State.modHub_host (s : State) (f : Hub → Hub) : (s.modHub f).host = s.host := rfl
@[simp] theorem State.modHub_i3c (s : State) (f : Hub → Hub) : (s.modHub f).i3c = s.i3c := rfl
@[simp] theorem State.modHub_logs (s : State) (f : Hub → Hub) : (s.modHub f).logs = s.logs := rfl
@[simp] theorem State.modHub_out (s : State) (f : Hub → Hub) : (s.modHub f).out = s.out := rfl
@[simp] theorem State.modHub_moves (s : State) (f : Hub → Hub) : (s.modHub f).moves = s.moves := rfl
@[simp] theorem State.modHub_budget (s : State) (f : Hub → Hub) : (s.modHub f).budget = s.budget := rfl
@[simp] theorem State.modHub_budgetPeriod (s : State) (f : Hub → Hub) : (s.modHub f).budgetPeriod = s.budgetPeriod := rfl
@[simp] theorem State.modHub_traffic (s : State) (f : Hub → Hub) : (s.modHub f).traffic = s.traffic := rfl
@[simp] theorem State.modHub_pending (s : State) (f : Hub → Hub) : (s.modHub f).pending = s.pending := rfl

/-! ### modCtx -/

@[simp] theorem State.modCtx_hub (s : State) (id : Nat) (f : Ctx → Ctx) : (s.modCtx id f).hub = s.hub := rfl
@[simp] theorem State.modCtx_otp (s : State) (id : Nat) (f : Ctx → Ctx) : (s.modCtx id f).otp = s.otp := rfl
@[simp] theorem State.modCtx_flash (s : State) (id : Nat) (f : Ctx → Ctx) : (s.modCtx id f).flash = s.flash := rfl
@[simp] theorem State.modCtx_life (s : State) (id : Nat) (f : Ctx → Ctx) : (s.modCtx id f).life = s.life := rfl
@[simp] theorem State.modCtx_power (s : State) (id : Nat) (f : Ctx → Ctx) : (s.modCtx id f).power = s.power := rfl
@[simp] theorem State.modCtx_hbmStacks (s : State) (id : Nat) (f : Ctx → Ctx) : (s.modCtx id f).hbmStacks = s.hbmStacks := rfl
@[simp] theorem State.modCtx_cores (s : State) (id : Nat) (f : Ctx → Ctx) : (s.modCtx id f).cores = s.cores := rfl
@[simp] theorem State.modCtx_test (s : State) (id : Nat) (f : Ctx → Ctx) : (s.modCtx id f).test = s.test := rfl
@[simp] theorem State.modCtx_mem (s : State) (id : Nat) (f : Ctx → Ctx) : (s.modCtx id f).mem = s.mem := rfl
@[simp] theorem State.modCtx_vault (s : State) (id : Nat) (f : Ctx → Ctx) : (s.modCtx id f).vault = s.vault := rfl
@[simp] theorem State.modCtx_sessions (s : State) (id : Nat) (f : Ctx → Ctx) : (s.modCtx id f).sessions = s.sessions := rfl
@[simp] theorem State.modCtx_sessionsFreed (s : State) (id : Nat) (f : Ctx → Ctx) : (s.modCtx id f).sessionsFreed = s.sessionsFreed := rfl
@[simp] theorem State.modCtx_ctxs (s : State) (id : Nat) (f : Ctx → Ctx) : (s.modCtx id f).ctxs = s.ctxs.map (fun c => if c.id = id then f c else c) := rfl
@[simp] theorem State.modCtx_ctxsFreed (s : State) (id : Nat) (f : Ctx → Ctx) : (s.modCtx id f).ctxsFreed = s.ctxsFreed := rfl
@[simp] theorem State.modCtx_fences (s : State) (id : Nat) (f : Ctx → Ctx) : (s.modCtx id f).fences = s.fences := rfl
@[simp] theorem State.modCtx_fencesFreed (s : State) (id : Nat) (f : Ctx → Ctx) : (s.modCtx id f).fencesFreed = s.fencesFreed := rfl
@[simp] theorem State.modCtx_shares (s : State) (id : Nat) (f : Ctx → Ctx) : (s.modCtx id f).shares = s.shares := rfl
@[simp] theorem State.modCtx_sharesFreed (s : State) (id : Nat) (f : Ctx → Ctx) : (s.modCtx id f).sharesFreed = s.sharesFreed := rfl
@[simp] theorem State.modCtx_ledger (s : State) (id : Nat) (f : Ctx → Ctx) : (s.modCtx id f).ledger = s.ledger := rfl
@[simp] theorem State.modCtx_waits (s : State) (id : Nat) (f : Ctx → Ctx) : (s.modCtx id f).waits = s.waits := rfl
@[simp] theorem State.modCtx_links (s : State) (id : Nat) (f : Ctx → Ctx) : (s.modCtx id f).links = s.links := rfl
@[simp] theorem State.modCtx_host (s : State) (id : Nat) (f : Ctx → Ctx) : (s.modCtx id f).host = s.host := rfl
@[simp] theorem State.modCtx_i3c (s : State) (id : Nat) (f : Ctx → Ctx) : (s.modCtx id f).i3c = s.i3c := rfl
@[simp] theorem State.modCtx_logs (s : State) (id : Nat) (f : Ctx → Ctx) : (s.modCtx id f).logs = s.logs := rfl
@[simp] theorem State.modCtx_out (s : State) (id : Nat) (f : Ctx → Ctx) : (s.modCtx id f).out = s.out := rfl
@[simp] theorem State.modCtx_moves (s : State) (id : Nat) (f : Ctx → Ctx) : (s.modCtx id f).moves = s.moves := rfl
@[simp] theorem State.modCtx_budget (s : State) (id : Nat) (f : Ctx → Ctx) : (s.modCtx id f).budget = s.budget := rfl
@[simp] theorem State.modCtx_budgetPeriod (s : State) (id : Nat) (f : Ctx → Ctx) : (s.modCtx id f).budgetPeriod = s.budgetPeriod := rfl
@[simp] theorem State.modCtx_traffic (s : State) (id : Nat) (f : Ctx → Ctx) : (s.modCtx id f).traffic = s.traffic := rfl
@[simp] theorem State.modCtx_pending (s : State) (id : Nat) (f : Ctx → Ctx) : (s.modCtx id f).pending = s.pending := rfl

/-! ### modSession -/

@[simp] theorem State.modSession_hub (s : State) (n : Nat) (f : Session → Session) : (s.modSession n f).hub = s.hub := rfl
@[simp] theorem State.modSession_otp (s : State) (n : Nat) (f : Session → Session) : (s.modSession n f).otp = s.otp := rfl
@[simp] theorem State.modSession_flash (s : State) (n : Nat) (f : Session → Session) : (s.modSession n f).flash = s.flash := rfl
@[simp] theorem State.modSession_life (s : State) (n : Nat) (f : Session → Session) : (s.modSession n f).life = s.life := rfl
@[simp] theorem State.modSession_power (s : State) (n : Nat) (f : Session → Session) : (s.modSession n f).power = s.power := rfl
@[simp] theorem State.modSession_hbmStacks (s : State) (n : Nat) (f : Session → Session) : (s.modSession n f).hbmStacks = s.hbmStacks := rfl
@[simp] theorem State.modSession_cores (s : State) (n : Nat) (f : Session → Session) : (s.modSession n f).cores = s.cores := rfl
@[simp] theorem State.modSession_test (s : State) (n : Nat) (f : Session → Session) : (s.modSession n f).test = s.test := rfl
@[simp] theorem State.modSession_mem (s : State) (n : Nat) (f : Session → Session) : (s.modSession n f).mem = s.mem := rfl
@[simp] theorem State.modSession_vault (s : State) (n : Nat) (f : Session → Session) : (s.modSession n f).vault = s.vault := rfl
@[simp] theorem State.modSession_sessions (s : State) (n : Nat) (f : Session → Session) : (s.modSession n f).sessions = s.sessions.map (fun x => if x.number = n then f x else x) := rfl
@[simp] theorem State.modSession_sessionsFreed (s : State) (n : Nat) (f : Session → Session) : (s.modSession n f).sessionsFreed = s.sessionsFreed := rfl
@[simp] theorem State.modSession_ctxs (s : State) (n : Nat) (f : Session → Session) : (s.modSession n f).ctxs = s.ctxs := rfl
@[simp] theorem State.modSession_ctxsFreed (s : State) (n : Nat) (f : Session → Session) : (s.modSession n f).ctxsFreed = s.ctxsFreed := rfl
@[simp] theorem State.modSession_fences (s : State) (n : Nat) (f : Session → Session) : (s.modSession n f).fences = s.fences := rfl
@[simp] theorem State.modSession_fencesFreed (s : State) (n : Nat) (f : Session → Session) : (s.modSession n f).fencesFreed = s.fencesFreed := rfl
@[simp] theorem State.modSession_shares (s : State) (n : Nat) (f : Session → Session) : (s.modSession n f).shares = s.shares := rfl
@[simp] theorem State.modSession_sharesFreed (s : State) (n : Nat) (f : Session → Session) : (s.modSession n f).sharesFreed = s.sharesFreed := rfl
@[simp] theorem State.modSession_ledger (s : State) (n : Nat) (f : Session → Session) : (s.modSession n f).ledger = s.ledger := rfl
@[simp] theorem State.modSession_waits (s : State) (n : Nat) (f : Session → Session) : (s.modSession n f).waits = s.waits := rfl
@[simp] theorem State.modSession_links (s : State) (n : Nat) (f : Session → Session) : (s.modSession n f).links = s.links := rfl
@[simp] theorem State.modSession_host (s : State) (n : Nat) (f : Session → Session) : (s.modSession n f).host = s.host := rfl
@[simp] theorem State.modSession_i3c (s : State) (n : Nat) (f : Session → Session) : (s.modSession n f).i3c = s.i3c := rfl
@[simp] theorem State.modSession_logs (s : State) (n : Nat) (f : Session → Session) : (s.modSession n f).logs = s.logs := rfl
@[simp] theorem State.modSession_out (s : State) (n : Nat) (f : Session → Session) : (s.modSession n f).out = s.out := rfl
@[simp] theorem State.modSession_moves (s : State) (n : Nat) (f : Session → Session) : (s.modSession n f).moves = s.moves := rfl
@[simp] theorem State.modSession_budget (s : State) (n : Nat) (f : Session → Session) : (s.modSession n f).budget = s.budget := rfl
@[simp] theorem State.modSession_budgetPeriod (s : State) (n : Nat) (f : Session → Session) : (s.modSession n f).budgetPeriod = s.budgetPeriod := rfl
@[simp] theorem State.modSession_traffic (s : State) (n : Nat) (f : Session → Session) : (s.modSession n f).traffic = s.traffic := rfl
@[simp] theorem State.modSession_pending (s : State) (n : Nat) (f : Session → Session) : (s.modSession n f).pending = s.pending := rfl

/-! ### modFence -/

@[simp] theorem State.modFence_hub (s : State) (i : Nat) (f : Fence → Fence) : (s.modFence i f).hub = s.hub := rfl
@[simp] theorem State.modFence_otp (s : State) (i : Nat) (f : Fence → Fence) : (s.modFence i f).otp = s.otp := rfl
@[simp] theorem State.modFence_flash (s : State) (i : Nat) (f : Fence → Fence) : (s.modFence i f).flash = s.flash := rfl
@[simp] theorem State.modFence_life (s : State) (i : Nat) (f : Fence → Fence) : (s.modFence i f).life = s.life := rfl
@[simp] theorem State.modFence_power (s : State) (i : Nat) (f : Fence → Fence) : (s.modFence i f).power = s.power := rfl
@[simp] theorem State.modFence_hbmStacks (s : State) (i : Nat) (f : Fence → Fence) : (s.modFence i f).hbmStacks = s.hbmStacks := rfl
@[simp] theorem State.modFence_cores (s : State) (i : Nat) (f : Fence → Fence) : (s.modFence i f).cores = s.cores := rfl
@[simp] theorem State.modFence_test (s : State) (i : Nat) (f : Fence → Fence) : (s.modFence i f).test = s.test := rfl
@[simp] theorem State.modFence_mem (s : State) (i : Nat) (f : Fence → Fence) : (s.modFence i f).mem = s.mem := rfl
@[simp] theorem State.modFence_vault (s : State) (i : Nat) (f : Fence → Fence) : (s.modFence i f).vault = s.vault := rfl
@[simp] theorem State.modFence_sessions (s : State) (i : Nat) (f : Fence → Fence) : (s.modFence i f).sessions = s.sessions := rfl
@[simp] theorem State.modFence_sessionsFreed (s : State) (i : Nat) (f : Fence → Fence) : (s.modFence i f).sessionsFreed = s.sessionsFreed := rfl
@[simp] theorem State.modFence_ctxs (s : State) (i : Nat) (f : Fence → Fence) : (s.modFence i f).ctxs = s.ctxs := rfl
@[simp] theorem State.modFence_ctxsFreed (s : State) (i : Nat) (f : Fence → Fence) : (s.modFence i f).ctxsFreed = s.ctxsFreed := rfl
@[simp] theorem State.modFence_fences (s : State) (i : Nat) (f : Fence → Fence) : (s.modFence i f).fences = s.fences.map (fun x => if x.index = i then f x else x) := rfl
@[simp] theorem State.modFence_fencesFreed (s : State) (i : Nat) (f : Fence → Fence) : (s.modFence i f).fencesFreed = s.fencesFreed := rfl
@[simp] theorem State.modFence_shares (s : State) (i : Nat) (f : Fence → Fence) : (s.modFence i f).shares = s.shares := rfl
@[simp] theorem State.modFence_sharesFreed (s : State) (i : Nat) (f : Fence → Fence) : (s.modFence i f).sharesFreed = s.sharesFreed := rfl
@[simp] theorem State.modFence_ledger (s : State) (i : Nat) (f : Fence → Fence) : (s.modFence i f).ledger = s.ledger := rfl
@[simp] theorem State.modFence_waits (s : State) (i : Nat) (f : Fence → Fence) : (s.modFence i f).waits = s.waits := rfl
@[simp] theorem State.modFence_links (s : State) (i : Nat) (f : Fence → Fence) : (s.modFence i f).links = s.links := rfl
@[simp] theorem State.modFence_host (s : State) (i : Nat) (f : Fence → Fence) : (s.modFence i f).host = s.host := rfl
@[simp] theorem State.modFence_i3c (s : State) (i : Nat) (f : Fence → Fence) : (s.modFence i f).i3c = s.i3c := rfl
@[simp] theorem State.modFence_logs (s : State) (i : Nat) (f : Fence → Fence) : (s.modFence i f).logs = s.logs := rfl
@[simp] theorem State.modFence_out (s : State) (i : Nat) (f : Fence → Fence) : (s.modFence i f).out = s.out := rfl
@[simp] theorem State.modFence_moves (s : State) (i : Nat) (f : Fence → Fence) : (s.modFence i f).moves = s.moves := rfl
@[simp] theorem State.modFence_budget (s : State) (i : Nat) (f : Fence → Fence) : (s.modFence i f).budget = s.budget := rfl
@[simp] theorem State.modFence_budgetPeriod (s : State) (i : Nat) (f : Fence → Fence) : (s.modFence i f).budgetPeriod = s.budgetPeriod := rfl
@[simp] theorem State.modFence_traffic (s : State) (i : Nat) (f : Fence → Fence) : (s.modFence i f).traffic = s.traffic := rfl
@[simp] theorem State.modFence_pending (s : State) (i : Nat) (f : Fence → Fence) : (s.modFence i f).pending = s.pending := rfl

/-! ### modShare -/

@[simp] theorem State.modShare_hub (s : State) (i : Nat) (f : Share → Share) : (s.modShare i f).hub = s.hub := rfl
@[simp] theorem State.modShare_otp (s : State) (i : Nat) (f : Share → Share) : (s.modShare i f).otp = s.otp := rfl
@[simp] theorem State.modShare_flash (s : State) (i : Nat) (f : Share → Share) : (s.modShare i f).flash = s.flash := rfl
@[simp] theorem State.modShare_life (s : State) (i : Nat) (f : Share → Share) : (s.modShare i f).life = s.life := rfl
@[simp] theorem State.modShare_power (s : State) (i : Nat) (f : Share → Share) : (s.modShare i f).power = s.power := rfl
@[simp] theorem State.modShare_hbmStacks (s : State) (i : Nat) (f : Share → Share) : (s.modShare i f).hbmStacks = s.hbmStacks := rfl
@[simp] theorem State.modShare_cores (s : State) (i : Nat) (f : Share → Share) : (s.modShare i f).cores = s.cores := rfl
@[simp] theorem State.modShare_test (s : State) (i : Nat) (f : Share → Share) : (s.modShare i f).test = s.test := rfl
@[simp] theorem State.modShare_mem (s : State) (i : Nat) (f : Share → Share) : (s.modShare i f).mem = s.mem := rfl
@[simp] theorem State.modShare_vault (s : State) (i : Nat) (f : Share → Share) : (s.modShare i f).vault = s.vault := rfl
@[simp] theorem State.modShare_sessions (s : State) (i : Nat) (f : Share → Share) : (s.modShare i f).sessions = s.sessions := rfl
@[simp] theorem State.modShare_sessionsFreed (s : State) (i : Nat) (f : Share → Share) : (s.modShare i f).sessionsFreed = s.sessionsFreed := rfl
@[simp] theorem State.modShare_ctxs (s : State) (i : Nat) (f : Share → Share) : (s.modShare i f).ctxs = s.ctxs := rfl
@[simp] theorem State.modShare_ctxsFreed (s : State) (i : Nat) (f : Share → Share) : (s.modShare i f).ctxsFreed = s.ctxsFreed := rfl
@[simp] theorem State.modShare_fences (s : State) (i : Nat) (f : Share → Share) : (s.modShare i f).fences = s.fences := rfl
@[simp] theorem State.modShare_fencesFreed (s : State) (i : Nat) (f : Share → Share) : (s.modShare i f).fencesFreed = s.fencesFreed := rfl
@[simp] theorem State.modShare_shares (s : State) (i : Nat) (f : Share → Share) : (s.modShare i f).shares = s.shares.map (fun x => if x.index = i then f x else x) := rfl
@[simp] theorem State.modShare_sharesFreed (s : State) (i : Nat) (f : Share → Share) : (s.modShare i f).sharesFreed = s.sharesFreed := rfl
@[simp] theorem State.modShare_ledger (s : State) (i : Nat) (f : Share → Share) : (s.modShare i f).ledger = s.ledger := rfl
@[simp] theorem State.modShare_waits (s : State) (i : Nat) (f : Share → Share) : (s.modShare i f).waits = s.waits := rfl
@[simp] theorem State.modShare_links (s : State) (i : Nat) (f : Share → Share) : (s.modShare i f).links = s.links := rfl
@[simp] theorem State.modShare_host (s : State) (i : Nat) (f : Share → Share) : (s.modShare i f).host = s.host := rfl
@[simp] theorem State.modShare_i3c (s : State) (i : Nat) (f : Share → Share) : (s.modShare i f).i3c = s.i3c := rfl
@[simp] theorem State.modShare_logs (s : State) (i : Nat) (f : Share → Share) : (s.modShare i f).logs = s.logs := rfl
@[simp] theorem State.modShare_out (s : State) (i : Nat) (f : Share → Share) : (s.modShare i f).out = s.out := rfl
@[simp] theorem State.modShare_moves (s : State) (i : Nat) (f : Share → Share) : (s.modShare i f).moves = s.moves := rfl
@[simp] theorem State.modShare_budget (s : State) (i : Nat) (f : Share → Share) : (s.modShare i f).budget = s.budget := rfl
@[simp] theorem State.modShare_budgetPeriod (s : State) (i : Nat) (f : Share → Share) : (s.modShare i f).budgetPeriod = s.budgetPeriod := rfl
@[simp] theorem State.modShare_traffic (s : State) (i : Nat) (f : Share → Share) : (s.modShare i f).traffic = s.traffic := rfl
@[simp] theorem State.modShare_pending (s : State) (i : Nat) (f : Share → Share) : (s.modShare i f).pending = s.pending := rfl

/-! ### modCore -/

@[simp] theorem State.modCore_hub (s : State) (n : Nat) (f : Core → Core) : (s.modCore n f).hub = s.hub := rfl
@[simp] theorem State.modCore_otp (s : State) (n : Nat) (f : Core → Core) : (s.modCore n f).otp = s.otp := rfl
@[simp] theorem State.modCore_flash (s : State) (n : Nat) (f : Core → Core) : (s.modCore n f).flash = s.flash := rfl
@[simp] theorem State.modCore_life (s : State) (n : Nat) (f : Core → Core) : (s.modCore n f).life = s.life := rfl
@[simp] theorem State.modCore_power (s : State) (n : Nat) (f : Core → Core) : (s.modCore n f).power = s.power := rfl
@[simp] theorem State.modCore_hbmStacks (s : State) (n : Nat) (f : Core → Core) : (s.modCore n f).hbmStacks = s.hbmStacks := rfl
@[simp] theorem State.modCore_cores (s : State) (n : Nat) (f : Core → Core) : (s.modCore n f).cores = modAt s.cores n f := rfl
@[simp] theorem State.modCore_test (s : State) (n : Nat) (f : Core → Core) : (s.modCore n f).test = s.test := rfl
@[simp] theorem State.modCore_mem (s : State) (n : Nat) (f : Core → Core) : (s.modCore n f).mem = s.mem := rfl
@[simp] theorem State.modCore_vault (s : State) (n : Nat) (f : Core → Core) : (s.modCore n f).vault = s.vault := rfl
@[simp] theorem State.modCore_sessions (s : State) (n : Nat) (f : Core → Core) : (s.modCore n f).sessions = s.sessions := rfl
@[simp] theorem State.modCore_sessionsFreed (s : State) (n : Nat) (f : Core → Core) : (s.modCore n f).sessionsFreed = s.sessionsFreed := rfl
@[simp] theorem State.modCore_ctxs (s : State) (n : Nat) (f : Core → Core) : (s.modCore n f).ctxs = s.ctxs := rfl
@[simp] theorem State.modCore_ctxsFreed (s : State) (n : Nat) (f : Core → Core) : (s.modCore n f).ctxsFreed = s.ctxsFreed := rfl
@[simp] theorem State.modCore_fences (s : State) (n : Nat) (f : Core → Core) : (s.modCore n f).fences = s.fences := rfl
@[simp] theorem State.modCore_fencesFreed (s : State) (n : Nat) (f : Core → Core) : (s.modCore n f).fencesFreed = s.fencesFreed := rfl
@[simp] theorem State.modCore_shares (s : State) (n : Nat) (f : Core → Core) : (s.modCore n f).shares = s.shares := rfl
@[simp] theorem State.modCore_sharesFreed (s : State) (n : Nat) (f : Core → Core) : (s.modCore n f).sharesFreed = s.sharesFreed := rfl
@[simp] theorem State.modCore_ledger (s : State) (n : Nat) (f : Core → Core) : (s.modCore n f).ledger = s.ledger := rfl
@[simp] theorem State.modCore_waits (s : State) (n : Nat) (f : Core → Core) : (s.modCore n f).waits = s.waits := rfl
@[simp] theorem State.modCore_links (s : State) (n : Nat) (f : Core → Core) : (s.modCore n f).links = s.links := rfl
@[simp] theorem State.modCore_host (s : State) (n : Nat) (f : Core → Core) : (s.modCore n f).host = s.host := rfl
@[simp] theorem State.modCore_i3c (s : State) (n : Nat) (f : Core → Core) : (s.modCore n f).i3c = s.i3c := rfl
@[simp] theorem State.modCore_logs (s : State) (n : Nat) (f : Core → Core) : (s.modCore n f).logs = s.logs := rfl
@[simp] theorem State.modCore_out (s : State) (n : Nat) (f : Core → Core) : (s.modCore n f).out = s.out := rfl
@[simp] theorem State.modCore_moves (s : State) (n : Nat) (f : Core → Core) : (s.modCore n f).moves = s.moves := rfl
@[simp] theorem State.modCore_budget (s : State) (n : Nat) (f : Core → Core) : (s.modCore n f).budget = s.budget := rfl
@[simp] theorem State.modCore_budgetPeriod (s : State) (n : Nat) (f : Core → Core) : (s.modCore n f).budgetPeriod = s.budgetPeriod := rfl
@[simp] theorem State.modCore_traffic (s : State) (n : Nat) (f : Core → Core) : (s.modCore n f).traffic = s.traffic := rfl
@[simp] theorem State.modCore_pending (s : State) (n : Nat) (f : Core → Core) : (s.modCore n f).pending = s.pending := rfl

/-! ### modTile -/

@[simp] theorem State.modTile_hub (s : State) (n : Nat) (f : Tile → Tile) : (s.modTile n f).hub = s.hub := rfl
@[simp] theorem State.modTile_otp (s : State) (n : Nat) (f : Tile → Tile) : (s.modTile n f).otp = s.otp := rfl
@[simp] theorem State.modTile_flash (s : State) (n : Nat) (f : Tile → Tile) : (s.modTile n f).flash = s.flash := rfl
@[simp] theorem State.modTile_life (s : State) (n : Nat) (f : Tile → Tile) : (s.modTile n f).life = s.life := rfl
@[simp] theorem State.modTile_power (s : State) (n : Nat) (f : Tile → Tile) : (s.modTile n f).power = { s.power with tiles := modAt s.power.tiles n f } := rfl
@[simp] theorem State.modTile_hbmStacks (s : State) (n : Nat) (f : Tile → Tile) : (s.modTile n f).hbmStacks = s.hbmStacks := rfl
@[simp] theorem State.modTile_cores (s : State) (n : Nat) (f : Tile → Tile) : (s.modTile n f).cores = s.cores := rfl
@[simp] theorem State.modTile_test (s : State) (n : Nat) (f : Tile → Tile) : (s.modTile n f).test = s.test := rfl
@[simp] theorem State.modTile_mem (s : State) (n : Nat) (f : Tile → Tile) : (s.modTile n f).mem = s.mem := rfl
@[simp] theorem State.modTile_vault (s : State) (n : Nat) (f : Tile → Tile) : (s.modTile n f).vault = s.vault := rfl
@[simp] theorem State.modTile_sessions (s : State) (n : Nat) (f : Tile → Tile) : (s.modTile n f).sessions = s.sessions := rfl
@[simp] theorem State.modTile_sessionsFreed (s : State) (n : Nat) (f : Tile → Tile) : (s.modTile n f).sessionsFreed = s.sessionsFreed := rfl
@[simp] theorem State.modTile_ctxs (s : State) (n : Nat) (f : Tile → Tile) : (s.modTile n f).ctxs = s.ctxs := rfl
@[simp] theorem State.modTile_ctxsFreed (s : State) (n : Nat) (f : Tile → Tile) : (s.modTile n f).ctxsFreed = s.ctxsFreed := rfl
@[simp] theorem State.modTile_fences (s : State) (n : Nat) (f : Tile → Tile) : (s.modTile n f).fences = s.fences := rfl
@[simp] theorem State.modTile_fencesFreed (s : State) (n : Nat) (f : Tile → Tile) : (s.modTile n f).fencesFreed = s.fencesFreed := rfl
@[simp] theorem State.modTile_shares (s : State) (n : Nat) (f : Tile → Tile) : (s.modTile n f).shares = s.shares := rfl
@[simp] theorem State.modTile_sharesFreed (s : State) (n : Nat) (f : Tile → Tile) : (s.modTile n f).sharesFreed = s.sharesFreed := rfl
@[simp] theorem State.modTile_ledger (s : State) (n : Nat) (f : Tile → Tile) : (s.modTile n f).ledger = s.ledger := rfl
@[simp] theorem State.modTile_waits (s : State) (n : Nat) (f : Tile → Tile) : (s.modTile n f).waits = s.waits := rfl
@[simp] theorem State.modTile_links (s : State) (n : Nat) (f : Tile → Tile) : (s.modTile n f).links = s.links := rfl
@[simp] theorem State.modTile_host (s : State) (n : Nat) (f : Tile → Tile) : (s.modTile n f).host = s.host := rfl
@[simp] theorem State.modTile_i3c (s : State) (n : Nat) (f : Tile → Tile) : (s.modTile n f).i3c = s.i3c := rfl
@[simp] theorem State.modTile_logs (s : State) (n : Nat) (f : Tile → Tile) : (s.modTile n f).logs = s.logs := rfl
@[simp] theorem State.modTile_out (s : State) (n : Nat) (f : Tile → Tile) : (s.modTile n f).out = s.out := rfl
@[simp] theorem State.modTile_moves (s : State) (n : Nat) (f : Tile → Tile) : (s.modTile n f).moves = s.moves := rfl
@[simp] theorem State.modTile_budget (s : State) (n : Nat) (f : Tile → Tile) : (s.modTile n f).budget = s.budget := rfl
@[simp] theorem State.modTile_budgetPeriod (s : State) (n : Nat) (f : Tile → Tile) : (s.modTile n f).budgetPeriod = s.budgetPeriod := rfl
@[simp] theorem State.modTile_traffic (s : State) (n : Nat) (f : Tile → Tile) : (s.modTile n f).traffic = s.traffic := rfl
@[simp] theorem State.modTile_pending (s : State) (n : Nat) (f : Tile → Tile) : (s.modTile n f).pending = s.pending := rfl

/-! ### modLinkTeller -/

@[simp] theorem State.modLinkTeller_hub (s : State) (n : Nat) (f : Teller → Teller) : (s.modLinkTeller n f).hub = s.hub := rfl
@[simp] theorem State.modLinkTeller_otp (s : State) (n : Nat) (f : Teller → Teller) : (s.modLinkTeller n f).otp = s.otp := rfl
@[simp] theorem State.modLinkTeller_flash (s : State) (n : Nat) (f : Teller → Teller) : (s.modLinkTeller n f).flash = s.flash := rfl
@[simp] theorem State.modLinkTeller_life (s : State) (n : Nat) (f : Teller → Teller) : (s.modLinkTeller n f).life = s.life := rfl
@[simp] theorem State.modLinkTeller_power (s : State) (n : Nat) (f : Teller → Teller) : (s.modLinkTeller n f).power = { s.power with linkTellers := modAt s.power.linkTellers n f } := rfl
@[simp] theorem State.modLinkTeller_hbmStacks (s : State) (n : Nat) (f : Teller → Teller) : (s.modLinkTeller n f).hbmStacks = s.hbmStacks := rfl
@[simp] theorem State.modLinkTeller_cores (s : State) (n : Nat) (f : Teller → Teller) : (s.modLinkTeller n f).cores = s.cores := rfl
@[simp] theorem State.modLinkTeller_test (s : State) (n : Nat) (f : Teller → Teller) : (s.modLinkTeller n f).test = s.test := rfl
@[simp] theorem State.modLinkTeller_mem (s : State) (n : Nat) (f : Teller → Teller) : (s.modLinkTeller n f).mem = s.mem := rfl
@[simp] theorem State.modLinkTeller_vault (s : State) (n : Nat) (f : Teller → Teller) : (s.modLinkTeller n f).vault = s.vault := rfl
@[simp] theorem State.modLinkTeller_sessions (s : State) (n : Nat) (f : Teller → Teller) : (s.modLinkTeller n f).sessions = s.sessions := rfl
@[simp] theorem State.modLinkTeller_sessionsFreed (s : State) (n : Nat) (f : Teller → Teller) : (s.modLinkTeller n f).sessionsFreed = s.sessionsFreed := rfl
@[simp] theorem State.modLinkTeller_ctxs (s : State) (n : Nat) (f : Teller → Teller) : (s.modLinkTeller n f).ctxs = s.ctxs := rfl
@[simp] theorem State.modLinkTeller_ctxsFreed (s : State) (n : Nat) (f : Teller → Teller) : (s.modLinkTeller n f).ctxsFreed = s.ctxsFreed := rfl
@[simp] theorem State.modLinkTeller_fences (s : State) (n : Nat) (f : Teller → Teller) : (s.modLinkTeller n f).fences = s.fences := rfl
@[simp] theorem State.modLinkTeller_fencesFreed (s : State) (n : Nat) (f : Teller → Teller) : (s.modLinkTeller n f).fencesFreed = s.fencesFreed := rfl
@[simp] theorem State.modLinkTeller_shares (s : State) (n : Nat) (f : Teller → Teller) : (s.modLinkTeller n f).shares = s.shares := rfl
@[simp] theorem State.modLinkTeller_sharesFreed (s : State) (n : Nat) (f : Teller → Teller) : (s.modLinkTeller n f).sharesFreed = s.sharesFreed := rfl
@[simp] theorem State.modLinkTeller_ledger (s : State) (n : Nat) (f : Teller → Teller) : (s.modLinkTeller n f).ledger = s.ledger := rfl
@[simp] theorem State.modLinkTeller_waits (s : State) (n : Nat) (f : Teller → Teller) : (s.modLinkTeller n f).waits = s.waits := rfl
@[simp] theorem State.modLinkTeller_links (s : State) (n : Nat) (f : Teller → Teller) : (s.modLinkTeller n f).links = s.links := rfl
@[simp] theorem State.modLinkTeller_host (s : State) (n : Nat) (f : Teller → Teller) : (s.modLinkTeller n f).host = s.host := rfl
@[simp] theorem State.modLinkTeller_i3c (s : State) (n : Nat) (f : Teller → Teller) : (s.modLinkTeller n f).i3c = s.i3c := rfl
@[simp] theorem State.modLinkTeller_logs (s : State) (n : Nat) (f : Teller → Teller) : (s.modLinkTeller n f).logs = s.logs := rfl
@[simp] theorem State.modLinkTeller_out (s : State) (n : Nat) (f : Teller → Teller) : (s.modLinkTeller n f).out = s.out := rfl
@[simp] theorem State.modLinkTeller_moves (s : State) (n : Nat) (f : Teller → Teller) : (s.modLinkTeller n f).moves = s.moves := rfl
@[simp] theorem State.modLinkTeller_budget (s : State) (n : Nat) (f : Teller → Teller) : (s.modLinkTeller n f).budget = s.budget := rfl
@[simp] theorem State.modLinkTeller_budgetPeriod (s : State) (n : Nat) (f : Teller → Teller) : (s.modLinkTeller n f).budgetPeriod = s.budgetPeriod := rfl
@[simp] theorem State.modLinkTeller_traffic (s : State) (n : Nat) (f : Teller → Teller) : (s.modLinkTeller n f).traffic = s.traffic := rfl
@[simp] theorem State.modLinkTeller_pending (s : State) (n : Nat) (f : Teller → Teller) : (s.modLinkTeller n f).pending = s.pending := rfl

/-! ### modStack -/

@[simp] theorem State.modStack_hub (s : State) (n : Nat) (f : Stack → Stack) : (s.modStack n f).hub = s.hub := rfl
@[simp] theorem State.modStack_otp (s : State) (n : Nat) (f : Stack → Stack) : (s.modStack n f).otp = s.otp := rfl
@[simp] theorem State.modStack_flash (s : State) (n : Nat) (f : Stack → Stack) : (s.modStack n f).flash = s.flash := rfl
@[simp] theorem State.modStack_life (s : State) (n : Nat) (f : Stack → Stack) : (s.modStack n f).life = s.life := rfl
@[simp] theorem State.modStack_power (s : State) (n : Nat) (f : Stack → Stack) : (s.modStack n f).power = s.power := rfl
@[simp] theorem State.modStack_hbmStacks (s : State) (n : Nat) (f : Stack → Stack) : (s.modStack n f).hbmStacks = modAt s.hbmStacks n f := rfl
@[simp] theorem State.modStack_cores (s : State) (n : Nat) (f : Stack → Stack) : (s.modStack n f).cores = s.cores := rfl
@[simp] theorem State.modStack_test (s : State) (n : Nat) (f : Stack → Stack) : (s.modStack n f).test = s.test := rfl
@[simp] theorem State.modStack_mem (s : State) (n : Nat) (f : Stack → Stack) : (s.modStack n f).mem = s.mem := rfl
@[simp] theorem State.modStack_vault (s : State) (n : Nat) (f : Stack → Stack) : (s.modStack n f).vault = s.vault := rfl
@[simp] theorem State.modStack_sessions (s : State) (n : Nat) (f : Stack → Stack) : (s.modStack n f).sessions = s.sessions := rfl
@[simp] theorem State.modStack_sessionsFreed (s : State) (n : Nat) (f : Stack → Stack) : (s.modStack n f).sessionsFreed = s.sessionsFreed := rfl
@[simp] theorem State.modStack_ctxs (s : State) (n : Nat) (f : Stack → Stack) : (s.modStack n f).ctxs = s.ctxs := rfl
@[simp] theorem State.modStack_ctxsFreed (s : State) (n : Nat) (f : Stack → Stack) : (s.modStack n f).ctxsFreed = s.ctxsFreed := rfl
@[simp] theorem State.modStack_fences (s : State) (n : Nat) (f : Stack → Stack) : (s.modStack n f).fences = s.fences := rfl
@[simp] theorem State.modStack_fencesFreed (s : State) (n : Nat) (f : Stack → Stack) : (s.modStack n f).fencesFreed = s.fencesFreed := rfl
@[simp] theorem State.modStack_shares (s : State) (n : Nat) (f : Stack → Stack) : (s.modStack n f).shares = s.shares := rfl
@[simp] theorem State.modStack_sharesFreed (s : State) (n : Nat) (f : Stack → Stack) : (s.modStack n f).sharesFreed = s.sharesFreed := rfl
@[simp] theorem State.modStack_ledger (s : State) (n : Nat) (f : Stack → Stack) : (s.modStack n f).ledger = s.ledger := rfl
@[simp] theorem State.modStack_waits (s : State) (n : Nat) (f : Stack → Stack) : (s.modStack n f).waits = s.waits := rfl
@[simp] theorem State.modStack_links (s : State) (n : Nat) (f : Stack → Stack) : (s.modStack n f).links = s.links := rfl
@[simp] theorem State.modStack_host (s : State) (n : Nat) (f : Stack → Stack) : (s.modStack n f).host = s.host := rfl
@[simp] theorem State.modStack_i3c (s : State) (n : Nat) (f : Stack → Stack) : (s.modStack n f).i3c = s.i3c := rfl
@[simp] theorem State.modStack_logs (s : State) (n : Nat) (f : Stack → Stack) : (s.modStack n f).logs = s.logs := rfl
@[simp] theorem State.modStack_out (s : State) (n : Nat) (f : Stack → Stack) : (s.modStack n f).out = s.out := rfl
@[simp] theorem State.modStack_moves (s : State) (n : Nat) (f : Stack → Stack) : (s.modStack n f).moves = s.moves := rfl
@[simp] theorem State.modStack_budget (s : State) (n : Nat) (f : Stack → Stack) : (s.modStack n f).budget = s.budget := rfl
@[simp] theorem State.modStack_budgetPeriod (s : State) (n : Nat) (f : Stack → Stack) : (s.modStack n f).budgetPeriod = s.budgetPeriod := rfl
@[simp] theorem State.modStack_traffic (s : State) (n : Nat) (f : Stack → Stack) : (s.modStack n f).traffic = s.traffic := rfl
@[simp] theorem State.modStack_pending (s : State) (n : Nat) (f : Stack → Stack) : (s.modStack n f).pending = s.pending := rfl

/-! ### modCells -/

@[simp] theorem State.modCells_hub (s : State) (f : List Host.Cell → List Host.Cell) : (s.modCells f).hub = s.hub := rfl
@[simp] theorem State.modCells_otp (s : State) (f : List Host.Cell → List Host.Cell) : (s.modCells f).otp = s.otp := rfl
@[simp] theorem State.modCells_flash (s : State) (f : List Host.Cell → List Host.Cell) : (s.modCells f).flash = s.flash := rfl
@[simp] theorem State.modCells_life (s : State) (f : List Host.Cell → List Host.Cell) : (s.modCells f).life = s.life := rfl
@[simp] theorem State.modCells_power (s : State) (f : List Host.Cell → List Host.Cell) : (s.modCells f).power = s.power := rfl
@[simp] theorem State.modCells_hbmStacks (s : State) (f : List Host.Cell → List Host.Cell) : (s.modCells f).hbmStacks = s.hbmStacks := rfl
@[simp] theorem State.modCells_cores (s : State) (f : List Host.Cell → List Host.Cell) : (s.modCells f).cores = s.cores := rfl
@[simp] theorem State.modCells_test (s : State) (f : List Host.Cell → List Host.Cell) : (s.modCells f).test = s.test := rfl
@[simp] theorem State.modCells_mem (s : State) (f : List Host.Cell → List Host.Cell) : (s.modCells f).mem = { s.mem with cells := f s.mem.cells } := rfl
@[simp] theorem State.modCells_vault (s : State) (f : List Host.Cell → List Host.Cell) : (s.modCells f).vault = s.vault := rfl
@[simp] theorem State.modCells_sessions (s : State) (f : List Host.Cell → List Host.Cell) : (s.modCells f).sessions = s.sessions := rfl
@[simp] theorem State.modCells_sessionsFreed (s : State) (f : List Host.Cell → List Host.Cell) : (s.modCells f).sessionsFreed = s.sessionsFreed := rfl
@[simp] theorem State.modCells_ctxs (s : State) (f : List Host.Cell → List Host.Cell) : (s.modCells f).ctxs = s.ctxs := rfl
@[simp] theorem State.modCells_ctxsFreed (s : State) (f : List Host.Cell → List Host.Cell) : (s.modCells f).ctxsFreed = s.ctxsFreed := rfl
@[simp] theorem State.modCells_fences (s : State) (f : List Host.Cell → List Host.Cell) : (s.modCells f).fences = s.fences := rfl
@[simp] theorem State.modCells_fencesFreed (s : State) (f : List Host.Cell → List Host.Cell) : (s.modCells f).fencesFreed = s.fencesFreed := rfl
@[simp] theorem State.modCells_shares (s : State) (f : List Host.Cell → List Host.Cell) : (s.modCells f).shares = s.shares := rfl
@[simp] theorem State.modCells_sharesFreed (s : State) (f : List Host.Cell → List Host.Cell) : (s.modCells f).sharesFreed = s.sharesFreed := rfl
@[simp] theorem State.modCells_ledger (s : State) (f : List Host.Cell → List Host.Cell) : (s.modCells f).ledger = s.ledger := rfl
@[simp] theorem State.modCells_waits (s : State) (f : List Host.Cell → List Host.Cell) : (s.modCells f).waits = s.waits := rfl
@[simp] theorem State.modCells_links (s : State) (f : List Host.Cell → List Host.Cell) : (s.modCells f).links = s.links := rfl
@[simp] theorem State.modCells_host (s : State) (f : List Host.Cell → List Host.Cell) : (s.modCells f).host = s.host := rfl
@[simp] theorem State.modCells_i3c (s : State) (f : List Host.Cell → List Host.Cell) : (s.modCells f).i3c = s.i3c := rfl
@[simp] theorem State.modCells_logs (s : State) (f : List Host.Cell → List Host.Cell) : (s.modCells f).logs = s.logs := rfl
@[simp] theorem State.modCells_out (s : State) (f : List Host.Cell → List Host.Cell) : (s.modCells f).out = s.out := rfl
@[simp] theorem State.modCells_moves (s : State) (f : List Host.Cell → List Host.Cell) : (s.modCells f).moves = s.moves := rfl
@[simp] theorem State.modCells_budget (s : State) (f : List Host.Cell → List Host.Cell) : (s.modCells f).budget = s.budget := rfl
@[simp] theorem State.modCells_budgetPeriod (s : State) (f : List Host.Cell → List Host.Cell) : (s.modCells f).budgetPeriod = s.budgetPeriod := rfl
@[simp] theorem State.modCells_traffic (s : State) (f : List Host.Cell → List Host.Cell) : (s.modCells f).traffic = s.traffic := rfl
@[simp] theorem State.modCells_pending (s : State) (f : List Host.Cell → List Host.Cell) : (s.modCells f).pending = s.pending := rfl

/-! ### modMem -/

@[simp] theorem State.modMem_hub (s : State) (f : Memory → Memory) : (s.modMem f).hub = s.hub := rfl
@[simp] theorem State.modMem_otp (s : State) (f : Memory → Memory) : (s.modMem f).otp = s.otp := rfl
@[simp] theorem State.modMem_flash (s : State) (f : Memory → Memory) : (s.modMem f).flash = s.flash := rfl
@[simp] theorem State.modMem_life (s : State) (f : Memory → Memory) : (s.modMem f).life = s.life := rfl
@[simp] theorem State.modMem_power (s : State) (f : Memory → Memory) : (s.modMem f).power = s.power := rfl
@[simp] theorem State.modMem_hbmStacks (s : State) (f : Memory → Memory) : (s.modMem f).hbmStacks = s.hbmStacks := rfl
@[simp] theorem State.modMem_cores (s : State) (f : Memory → Memory) : (s.modMem f).cores = s.cores := rfl
@[simp] theorem State.modMem_test (s : State) (f : Memory → Memory) : (s.modMem f).test = s.test := rfl
@[simp] theorem State.modMem_mem (s : State) (f : Memory → Memory) : (s.modMem f).mem = f s.mem := rfl
@[simp] theorem State.modMem_vault (s : State) (f : Memory → Memory) : (s.modMem f).vault = s.vault := rfl
@[simp] theorem State.modMem_sessions (s : State) (f : Memory → Memory) : (s.modMem f).sessions = s.sessions := rfl
@[simp] theorem State.modMem_sessionsFreed (s : State) (f : Memory → Memory) : (s.modMem f).sessionsFreed = s.sessionsFreed := rfl
@[simp] theorem State.modMem_ctxs (s : State) (f : Memory → Memory) : (s.modMem f).ctxs = s.ctxs := rfl
@[simp] theorem State.modMem_ctxsFreed (s : State) (f : Memory → Memory) : (s.modMem f).ctxsFreed = s.ctxsFreed := rfl
@[simp] theorem State.modMem_fences (s : State) (f : Memory → Memory) : (s.modMem f).fences = s.fences := rfl
@[simp] theorem State.modMem_fencesFreed (s : State) (f : Memory → Memory) : (s.modMem f).fencesFreed = s.fencesFreed := rfl
@[simp] theorem State.modMem_shares (s : State) (f : Memory → Memory) : (s.modMem f).shares = s.shares := rfl
@[simp] theorem State.modMem_sharesFreed (s : State) (f : Memory → Memory) : (s.modMem f).sharesFreed = s.sharesFreed := rfl
@[simp] theorem State.modMem_ledger (s : State) (f : Memory → Memory) : (s.modMem f).ledger = s.ledger := rfl
@[simp] theorem State.modMem_waits (s : State) (f : Memory → Memory) : (s.modMem f).waits = s.waits := rfl
@[simp] theorem State.modMem_links (s : State) (f : Memory → Memory) : (s.modMem f).links = s.links := rfl
@[simp] theorem State.modMem_host (s : State) (f : Memory → Memory) : (s.modMem f).host = s.host := rfl
@[simp] theorem State.modMem_i3c (s : State) (f : Memory → Memory) : (s.modMem f).i3c = s.i3c := rfl
@[simp] theorem State.modMem_logs (s : State) (f : Memory → Memory) : (s.modMem f).logs = s.logs := rfl
@[simp] theorem State.modMem_out (s : State) (f : Memory → Memory) : (s.modMem f).out = s.out := rfl
@[simp] theorem State.modMem_moves (s : State) (f : Memory → Memory) : (s.modMem f).moves = s.moves := rfl
@[simp] theorem State.modMem_budget (s : State) (f : Memory → Memory) : (s.modMem f).budget = s.budget := rfl
@[simp] theorem State.modMem_budgetPeriod (s : State) (f : Memory → Memory) : (s.modMem f).budgetPeriod = s.budgetPeriod := rfl
@[simp] theorem State.modMem_traffic (s : State) (f : Memory → Memory) : (s.modMem f).traffic = s.traffic := rfl
@[simp] theorem State.modMem_pending (s : State) (f : Memory → Memory) : (s.modMem f).pending = s.pending := rfl

/-! ### modHost -/

@[simp] theorem State.modHost_hub (s : State) (f : HostPort → HostPort) : (s.modHost f).hub = s.hub := rfl
@[simp] theorem State.modHost_otp (s : State) (f : HostPort → HostPort) : (s.modHost f).otp = s.otp := rfl
@[simp] theorem State.modHost_flash (s : State) (f : HostPort → HostPort) : (s.modHost f).flash = s.flash := rfl
@[simp] theorem State.modHost_life (s : State) (f : HostPort → HostPort) : (s.modHost f).life = s.life := rfl
@[simp] theorem State.modHost_power (s : State) (f : HostPort → HostPort) : (s.modHost f).power = s.power := rfl
@[simp] theorem State.modHost_hbmStacks (s : State) (f : HostPort → HostPort) : (s.modHost f).hbmStacks = s.hbmStacks := rfl
@[simp] theorem State.modHost_cores (s : State) (f : HostPort → HostPort) : (s.modHost f).cores = s.cores := rfl
@[simp] theorem State.modHost_test (s : State) (f : HostPort → HostPort) : (s.modHost f).test = s.test := rfl
@[simp] theorem State.modHost_mem (s : State) (f : HostPort → HostPort) : (s.modHost f).mem = s.mem := rfl
@[simp] theorem State.modHost_vault (s : State) (f : HostPort → HostPort) : (s.modHost f).vault = s.vault := rfl
@[simp] theorem State.modHost_sessions (s : State) (f : HostPort → HostPort) : (s.modHost f).sessions = s.sessions := rfl
@[simp] theorem State.modHost_sessionsFreed (s : State) (f : HostPort → HostPort) : (s.modHost f).sessionsFreed = s.sessionsFreed := rfl
@[simp] theorem State.modHost_ctxs (s : State) (f : HostPort → HostPort) : (s.modHost f).ctxs = s.ctxs := rfl
@[simp] theorem State.modHost_ctxsFreed (s : State) (f : HostPort → HostPort) : (s.modHost f).ctxsFreed = s.ctxsFreed := rfl
@[simp] theorem State.modHost_fences (s : State) (f : HostPort → HostPort) : (s.modHost f).fences = s.fences := rfl
@[simp] theorem State.modHost_fencesFreed (s : State) (f : HostPort → HostPort) : (s.modHost f).fencesFreed = s.fencesFreed := rfl
@[simp] theorem State.modHost_shares (s : State) (f : HostPort → HostPort) : (s.modHost f).shares = s.shares := rfl
@[simp] theorem State.modHost_sharesFreed (s : State) (f : HostPort → HostPort) : (s.modHost f).sharesFreed = s.sharesFreed := rfl
@[simp] theorem State.modHost_ledger (s : State) (f : HostPort → HostPort) : (s.modHost f).ledger = s.ledger := rfl
@[simp] theorem State.modHost_waits (s : State) (f : HostPort → HostPort) : (s.modHost f).waits = s.waits := rfl
@[simp] theorem State.modHost_links (s : State) (f : HostPort → HostPort) : (s.modHost f).links = s.links := rfl
@[simp] theorem State.modHost_host (s : State) (f : HostPort → HostPort) : (s.modHost f).host = f s.host := rfl
@[simp] theorem State.modHost_i3c (s : State) (f : HostPort → HostPort) : (s.modHost f).i3c = s.i3c := rfl
@[simp] theorem State.modHost_logs (s : State) (f : HostPort → HostPort) : (s.modHost f).logs = s.logs := rfl
@[simp] theorem State.modHost_out (s : State) (f : HostPort → HostPort) : (s.modHost f).out = s.out := rfl
@[simp] theorem State.modHost_moves (s : State) (f : HostPort → HostPort) : (s.modHost f).moves = s.moves := rfl
@[simp] theorem State.modHost_budget (s : State) (f : HostPort → HostPort) : (s.modHost f).budget = s.budget := rfl
@[simp] theorem State.modHost_budgetPeriod (s : State) (f : HostPort → HostPort) : (s.modHost f).budgetPeriod = s.budgetPeriod := rfl
@[simp] theorem State.modHost_traffic (s : State) (f : HostPort → HostPort) : (s.modHost f).traffic = s.traffic := rfl
@[simp] theorem State.modHost_pending (s : State) (f : HostPort → HostPort) : (s.modHost f).pending = s.pending := rfl

/-! ### modLinks -/

@[simp] theorem State.modLinks_hub (s : State) (f : Links → Links) : (s.modLinks f).hub = s.hub := rfl
@[simp] theorem State.modLinks_otp (s : State) (f : Links → Links) : (s.modLinks f).otp = s.otp := rfl
@[simp] theorem State.modLinks_flash (s : State) (f : Links → Links) : (s.modLinks f).flash = s.flash := rfl
@[simp] theorem State.modLinks_life (s : State) (f : Links → Links) : (s.modLinks f).life = s.life := rfl
@[simp] theorem State.modLinks_power (s : State) (f : Links → Links) : (s.modLinks f).power = s.power := rfl
@[simp] theorem State.modLinks_hbmStacks (s : State) (f : Links → Links) : (s.modLinks f).hbmStacks = s.hbmStacks := rfl
@[simp] theorem State.modLinks_cores (s : State) (f : Links → Links) : (s.modLinks f).cores = s.cores := rfl
@[simp] theorem State.modLinks_test (s : State) (f : Links → Links) : (s.modLinks f).test = s.test := rfl
@[simp] theorem State.modLinks_mem (s : State) (f : Links → Links) : (s.modLinks f).mem = s.mem := rfl
@[simp] theorem State.modLinks_vault (s : State) (f : Links → Links) : (s.modLinks f).vault = s.vault := rfl
@[simp] theorem State.modLinks_sessions (s : State) (f : Links → Links) : (s.modLinks f).sessions = s.sessions := rfl
@[simp] theorem State.modLinks_sessionsFreed (s : State) (f : Links → Links) : (s.modLinks f).sessionsFreed = s.sessionsFreed := rfl
@[simp] theorem State.modLinks_ctxs (s : State) (f : Links → Links) : (s.modLinks f).ctxs = s.ctxs := rfl
@[simp] theorem State.modLinks_ctxsFreed (s : State) (f : Links → Links) : (s.modLinks f).ctxsFreed = s.ctxsFreed := rfl
@[simp] theorem State.modLinks_fences (s : State) (f : Links → Links) : (s.modLinks f).fences = s.fences := rfl
@[simp] theorem State.modLinks_fencesFreed (s : State) (f : Links → Links) : (s.modLinks f).fencesFreed = s.fencesFreed := rfl
@[simp] theorem State.modLinks_shares (s : State) (f : Links → Links) : (s.modLinks f).shares = s.shares := rfl
@[simp] theorem State.modLinks_sharesFreed (s : State) (f : Links → Links) : (s.modLinks f).sharesFreed = s.sharesFreed := rfl
@[simp] theorem State.modLinks_ledger (s : State) (f : Links → Links) : (s.modLinks f).ledger = s.ledger := rfl
@[simp] theorem State.modLinks_waits (s : State) (f : Links → Links) : (s.modLinks f).waits = s.waits := rfl
@[simp] theorem State.modLinks_links (s : State) (f : Links → Links) : (s.modLinks f).links = f s.links := rfl
@[simp] theorem State.modLinks_host (s : State) (f : Links → Links) : (s.modLinks f).host = s.host := rfl
@[simp] theorem State.modLinks_i3c (s : State) (f : Links → Links) : (s.modLinks f).i3c = s.i3c := rfl
@[simp] theorem State.modLinks_logs (s : State) (f : Links → Links) : (s.modLinks f).logs = s.logs := rfl
@[simp] theorem State.modLinks_out (s : State) (f : Links → Links) : (s.modLinks f).out = s.out := rfl
@[simp] theorem State.modLinks_moves (s : State) (f : Links → Links) : (s.modLinks f).moves = s.moves := rfl
@[simp] theorem State.modLinks_budget (s : State) (f : Links → Links) : (s.modLinks f).budget = s.budget := rfl
@[simp] theorem State.modLinks_budgetPeriod (s : State) (f : Links → Links) : (s.modLinks f).budgetPeriod = s.budgetPeriod := rfl
@[simp] theorem State.modLinks_traffic (s : State) (f : Links → Links) : (s.modLinks f).traffic = s.traffic := rfl
@[simp] theorem State.modLinks_pending (s : State) (f : Links → Links) : (s.modLinks f).pending = s.pending := rfl

/-! ### modPort -/

@[simp] theorem State.modPort_hub (s : State) (p : Nat) (f : Port → Port) : (s.modPort p f).hub = s.hub := rfl
@[simp] theorem State.modPort_otp (s : State) (p : Nat) (f : Port → Port) : (s.modPort p f).otp = s.otp := rfl
@[simp] theorem State.modPort_flash (s : State) (p : Nat) (f : Port → Port) : (s.modPort p f).flash = s.flash := rfl
@[simp] theorem State.modPort_life (s : State) (p : Nat) (f : Port → Port) : (s.modPort p f).life = s.life := rfl
@[simp] theorem State.modPort_power (s : State) (p : Nat) (f : Port → Port) : (s.modPort p f).power = s.power := rfl
@[simp] theorem State.modPort_hbmStacks (s : State) (p : Nat) (f : Port → Port) : (s.modPort p f).hbmStacks = s.hbmStacks := rfl
@[simp] theorem State.modPort_cores (s : State) (p : Nat) (f : Port → Port) : (s.modPort p f).cores = s.cores := rfl
@[simp] theorem State.modPort_test (s : State) (p : Nat) (f : Port → Port) : (s.modPort p f).test = s.test := rfl
@[simp] theorem State.modPort_mem (s : State) (p : Nat) (f : Port → Port) : (s.modPort p f).mem = s.mem := rfl
@[simp] theorem State.modPort_vault (s : State) (p : Nat) (f : Port → Port) : (s.modPort p f).vault = s.vault := rfl
@[simp] theorem State.modPort_sessions (s : State) (p : Nat) (f : Port → Port) : (s.modPort p f).sessions = s.sessions := rfl
@[simp] theorem State.modPort_sessionsFreed (s : State) (p : Nat) (f : Port → Port) : (s.modPort p f).sessionsFreed = s.sessionsFreed := rfl
@[simp] theorem State.modPort_ctxs (s : State) (p : Nat) (f : Port → Port) : (s.modPort p f).ctxs = s.ctxs := rfl
@[simp] theorem State.modPort_ctxsFreed (s : State) (p : Nat) (f : Port → Port) : (s.modPort p f).ctxsFreed = s.ctxsFreed := rfl
@[simp] theorem State.modPort_fences (s : State) (p : Nat) (f : Port → Port) : (s.modPort p f).fences = s.fences := rfl
@[simp] theorem State.modPort_fencesFreed (s : State) (p : Nat) (f : Port → Port) : (s.modPort p f).fencesFreed = s.fencesFreed := rfl
@[simp] theorem State.modPort_shares (s : State) (p : Nat) (f : Port → Port) : (s.modPort p f).shares = s.shares := rfl
@[simp] theorem State.modPort_sharesFreed (s : State) (p : Nat) (f : Port → Port) : (s.modPort p f).sharesFreed = s.sharesFreed := rfl
@[simp] theorem State.modPort_ledger (s : State) (p : Nat) (f : Port → Port) : (s.modPort p f).ledger = s.ledger := rfl
@[simp] theorem State.modPort_waits (s : State) (p : Nat) (f : Port → Port) : (s.modPort p f).waits = s.waits := rfl
@[simp] theorem State.modPort_links (s : State) (p : Nat) (f : Port → Port) : (s.modPort p f).links = { s.links with ports := modAt s.links.ports p f } := rfl
@[simp] theorem State.modPort_host (s : State) (p : Nat) (f : Port → Port) : (s.modPort p f).host = s.host := rfl
@[simp] theorem State.modPort_i3c (s : State) (p : Nat) (f : Port → Port) : (s.modPort p f).i3c = s.i3c := rfl
@[simp] theorem State.modPort_logs (s : State) (p : Nat) (f : Port → Port) : (s.modPort p f).logs = s.logs := rfl
@[simp] theorem State.modPort_out (s : State) (p : Nat) (f : Port → Port) : (s.modPort p f).out = s.out := rfl
@[simp] theorem State.modPort_moves (s : State) (p : Nat) (f : Port → Port) : (s.modPort p f).moves = s.moves := rfl
@[simp] theorem State.modPort_budget (s : State) (p : Nat) (f : Port → Port) : (s.modPort p f).budget = s.budget := rfl
@[simp] theorem State.modPort_budgetPeriod (s : State) (p : Nat) (f : Port → Port) : (s.modPort p f).budgetPeriod = s.budgetPeriod := rfl
@[simp] theorem State.modPort_traffic (s : State) (p : Nat) (f : Port → Port) : (s.modPort p f).traffic = s.traffic := rfl
@[simp] theorem State.modPort_pending (s : State) (p : Nat) (f : Port → Port) : (s.modPort p f).pending = s.pending := rfl

/-! ### freeTag -/

@[simp] theorem State.freeTag_hub (s : State) (tag : Nat) : (s.freeTag tag).hub = s.hub := rfl
@[simp] theorem State.freeTag_otp (s : State) (tag : Nat) : (s.freeTag tag).otp = s.otp := rfl
@[simp] theorem State.freeTag_flash (s : State) (tag : Nat) : (s.freeTag tag).flash = s.flash := rfl
@[simp] theorem State.freeTag_life (s : State) (tag : Nat) : (s.freeTag tag).life = s.life := rfl
@[simp] theorem State.freeTag_power (s : State) (tag : Nat) : (s.freeTag tag).power = s.power := rfl
@[simp] theorem State.freeTag_hbmStacks (s : State) (tag : Nat) : (s.freeTag tag).hbmStacks = s.hbmStacks := rfl
@[simp] theorem State.freeTag_cores (s : State) (tag : Nat) : (s.freeTag tag).cores = s.cores := rfl
@[simp] theorem State.freeTag_test (s : State) (tag : Nat) : (s.freeTag tag).test = s.test := rfl
@[simp] theorem State.freeTag_mem (s : State) (tag : Nat) : (s.freeTag tag).mem = s.mem := rfl
@[simp] theorem State.freeTag_vault (s : State) (tag : Nat) : (s.freeTag tag).vault = s.vault := rfl
@[simp] theorem State.freeTag_sessions (s : State) (tag : Nat) : (s.freeTag tag).sessions = s.sessions := rfl
@[simp] theorem State.freeTag_sessionsFreed (s : State) (tag : Nat) : (s.freeTag tag).sessionsFreed = s.sessionsFreed := rfl
@[simp] theorem State.freeTag_ctxs (s : State) (tag : Nat) : (s.freeTag tag).ctxs = s.ctxs := rfl
@[simp] theorem State.freeTag_ctxsFreed (s : State) (tag : Nat) : (s.freeTag tag).ctxsFreed = s.ctxsFreed := rfl
@[simp] theorem State.freeTag_fences (s : State) (tag : Nat) : (s.freeTag tag).fences = s.fences := rfl
@[simp] theorem State.freeTag_fencesFreed (s : State) (tag : Nat) : (s.freeTag tag).fencesFreed = s.fencesFreed := rfl
@[simp] theorem State.freeTag_shares (s : State) (tag : Nat) : (s.freeTag tag).shares = s.shares := rfl
@[simp] theorem State.freeTag_sharesFreed (s : State) (tag : Nat) : (s.freeTag tag).sharesFreed = s.sharesFreed := rfl
@[simp] theorem State.freeTag_ledger (s : State) (tag : Nat) : (s.freeTag tag).ledger = s.ledger.free tag := rfl
@[simp] theorem State.freeTag_waits (s : State) (tag : Nat) : (s.freeTag tag).waits = s.waits := rfl
@[simp] theorem State.freeTag_links (s : State) (tag : Nat) : (s.freeTag tag).links = s.links := rfl
@[simp] theorem State.freeTag_host (s : State) (tag : Nat) : (s.freeTag tag).host = s.host := rfl
@[simp] theorem State.freeTag_i3c (s : State) (tag : Nat) : (s.freeTag tag).i3c = s.i3c := rfl
@[simp] theorem State.freeTag_logs (s : State) (tag : Nat) : (s.freeTag tag).logs = s.logs := rfl
@[simp] theorem State.freeTag_out (s : State) (tag : Nat) : (s.freeTag tag).out = s.out := rfl
@[simp] theorem State.freeTag_moves (s : State) (tag : Nat) : (s.freeTag tag).moves = s.moves := rfl
@[simp] theorem State.freeTag_budget (s : State) (tag : Nat) : (s.freeTag tag).budget = s.budget := rfl
@[simp] theorem State.freeTag_budgetPeriod (s : State) (tag : Nat) : (s.freeTag tag).budgetPeriod = s.budgetPeriod := rfl
@[simp] theorem State.freeTag_traffic (s : State) (tag : Nat) : (s.freeTag tag).traffic = s.traffic := rfl
@[simp] theorem State.freeTag_pending (s : State) (tag : Nat) : (s.freeTag tag).pending = s.pending := rfl

/-! ### Updates that are others -/

theorem State.modQueue_eq (s : State) (id q : Nat) (f : Queue → Queue) : s.modQueue id q f = s.modCtx id (fun c => c.modQueue q f) := rfl
theorem State.modRec_eq (s : State) (id q seq iter : Nat) (f : Rec → Rec) :
    s.modRec id q seq iter f = s.modQueue id q (fun x => x.modRec seq iter f) := rfl
theorem State.modPage_eq (s : State) (id vp : Nat) (f : Page → Page) : s.modPage id vp f = s.modCtx id (fun c => c.modPage vp f) := rfl
theorem State.modPolicy_eq (s : State) (id : Nat) (f : Policy → Policy) :
    s.modPolicy id f = s.modCtx id (fun d => { d with policy := d.policy.map f }) := rfl
theorem State.modChan_eq (s : State) (port peer : Nat) (f : Channel → Channel) :
    s.modChan port peer f = s.modLinks (fun l => { l with channels := l.channels.map (fun c => if c.port = port ∧ c.peer = peer then f c else c) }) := rfl
theorem State.modLease_eq (s : State) (slot : Nat) (f : Lease → Lease) :
    s.modLease slot f = s.modLinks (fun l => { l with leases := l.leases.map (fun x => if x.slot = slot then f x else x) }) := rfl
theorem State.draw_fst (s : State) (n : Nat) : (s.draw n).1 = s.modHub (fun h => { h with trng := h.trng + n }) := rfl
@[simp] theorem State.draw_length (s : State) (n : Nat) : (s.draw n).2.length = n := by simp [State.draw]
theorem State.freeBytes_fst (s : State) (n : Nat) : (s.freeBytes n).1 = s.modHub (fun h => { h with free := h.free + n }) := rfl
theorem State.freeNat_fst (s : State) : s.freeNat.1 = s.modHub (fun h => { h with free := h.free + 1 }) := rfl

/-! ### What is found after an update -/

/-- A search after an update that keeps what is searched for. -/
theorem find?_map_keep {α : Type} (l : List α) (key : α → Nat) (n k : Nat) (f : α → α) (hf : ∀ x, key (f x) = key x) :
    (l.map (fun x => if key x = n then f x else x)).find? (fun x => key x == k)
      = (l.find? (fun x => key x == k)).map (fun x => if k = n then f x else x) := by
  induction l with
  | nil => rfl
  | cons x rest ih =>
    by_cases hx : key x = n <;> by_cases hk : key x = k
    · have : k = n := hk ▸ hx
      subst this
      simp [hx, hf]
    · simp only [List.map_cons, hx, if_true]
      rw [List.find?_cons_of_neg (by simp [hf]; exact hk), List.find?_cons_of_neg (by simpa using hk), ih]
    · have : ¬ k = n := fun e => hx (hk.trans e)
      simp [hk, this]
    · simp only [List.map_cons, hx, if_false]
      rw [List.find?_cons_of_neg (by simpa using hk), List.find?_cons_of_neg (by simpa using hk), ih]

theorem State.ctx?_modCtx (s : State) (id k : Nat) (f : Ctx → Ctx) (hf : ∀ c, (f c).id = c.id) :
    (s.modCtx id f).ctx? k = (s.ctx? k).map (fun c => if k = id then f c else c) :=
  find?_map_keep s.ctxs (fun c => c.id) id k f hf

theorem State.session?_modSession (s : State) (n k : Nat) (f : Session → Session) (hf : ∀ x, (f x).number = x.number) :
    (s.modSession n f).session? k = (s.session? k).map (fun x => if k = n then f x else x) :=
  find?_map_keep s.sessions (fun x => x.number) n k f hf

theorem State.fence?_modFence (s : State) (i k : Nat) (f : Fence → Fence) (hf : ∀ x, (f x).index = x.index) :
    (s.modFence i f).fence? k = (s.fence? k).map (fun x => if k = i then f x else x) :=
  find?_map_keep s.fences (fun x => x.index) i k f hf

/-- What a search finds has the number searched for. -/
theorem State.ctx?_id {s : State} {id : Nat} {c : Ctx} (h : s.ctx? id = some c) : c.id = id := by
  have := List.find?_some h; simpa using this
theorem State.session?_number {s : State} {n : Nat} {x : Session} (h : s.session? n = some x) : x.number = n := by
  have := List.find?_some h; simpa using this
theorem State.fence?_index {s : State} {i : Nat} {x : Fence} (h : s.fence? i = some x) : x.index = i := by
  have := List.find?_some h; simpa using this

/-! ### A step -/

theorem step_cons (s : State) (c : Instr) (rest : List Instr) (h : s.pending = c :: rest) : step s = exec c { s with pending := rest } := by
  simp [step, h]

theorem step_idle (s : State) (h : s.pending = []) : step s = .next (idleTick s) := by simp [step, h]

/-- No word spells a command, so the host's placing of one changes nothing. -/
@[simp] theorem State.withFetchWord_eq (s : State) (nbits w : Nat) : s.withFetchWord nbits w = s := rfl

end Sys2Proof.Machine
end

