-- ==== Sys2Proof/Laws/Access.lean ====
section
/-!
SUPPORT. Laws/Access.lean: reads and writes of a context's memory when no upset comes: what they change, and what a plain region gives and takes.
-/
set_option Elab.async false
namespace Sys2Proof.Machine

/-! ### What an access notes -/

/-- `t` is `s` but for what an access notes: heat of pages, requests at stacks, the Tellers, the Ledger, the counts of the regulators, and the
frames that it sends to a lender. -/
def Noted (s t : State) : Prop := ∃ cs st pw lg tr ln o,
  t = { s with ctxs := cs, hbmStacks := st, power := pw, ledger := lg, traffic := tr, links := ln, out := o }

theorem Noted.refl (s : State) : Noted s s := ⟨_, _, _, _, _, _, _, rfl⟩
theorem Noted.trans {s t u : State} (h : Noted s t) (k : Noted t u) : Noted s u := by
  obtain ⟨a, b, c, d, e, f, g, rfl⟩ := h
  obtain ⟨a', b', c', d', e', f', g', rfl⟩ := k
  exact ⟨a', b', c', d', e', f', g', rfl⟩
theorem Noted.mem {s t : State} (h : Noted s t) : t.mem = s.mem := by obtain ⟨_, _, _, _, _, _, _, rfl⟩ := h; rfl
theorem Noted.vault {s t : State} (h : Noted s t) : t.vault = s.vault := by obtain ⟨_, _, _, _, _, _, _, rfl⟩ := h; rfl
theorem Noted.shares {s t : State} (h : Noted s t) : t.shares = s.shares := by obtain ⟨_, _, _, _, _, _, _, rfl⟩ := h; rfl
theorem Noted.rest {s t : State} (h : Noted s t) :
    { t with ctxs := s.ctxs, hbmStacks := s.hbmStacks, power := s.power, ledger := s.ledger, traffic := s.traffic, links := s.links, out := s.out }
      = s := by
  obtain ⟨_, _, _, _, _, _, _, rfl⟩ := h; rfl

/-- A fold of steps that each only note. -/
theorem Noted.foldl {α : Type} (f : State → α → State) (hf : ∀ s x, Noted s (f s x)) (l : List α) : ∀ s, Noted s (l.foldl f s) := by
  induction l with
  | nil => exact Noted.refl
  | cons x rest ih => intro s; rw [List.foldl_cons]; exact (hf s x).trans (ih _)

theorem Noted.modCtx (s : State) (id : Nat) (f : Ctx → Ctx) : Noted s (s.modCtx id f) := ⟨_, _, _, _, _, _, _, rfl⟩
theorem Noted.modPage (s : State) (id vp : Nat) (f : Page → Page) : Noted s (s.modPage id vp f) := Noted.modCtx s id _
theorem Noted.charge (s : State) (k n : Nat) : Noted s (s.charge k n) := ⟨_, _, _, _, _, _, _, rfl⟩
theorem Noted.chargeCtx (s : State) (id n : Nat) : Noted s (s.chargeCtx id n) := Noted.charge s _ _
theorem Noted.modLinks (s : State) (f : Links → Links) : Noted s (s.modLinks f) := ⟨_, _, _, _, _, _, _, rfl⟩
theorem Noted.modChan (s : State) (p q : Nat) (f : Channel → Channel) : Noted s (s.modChan p q f) := Noted.modLinks s _
theorem Noted.modPort (s : State) (p : Nat) (f : Port → Port) : Noted s (s.modPort p f) := ⟨_, _, _, _, _, _, _, rfl⟩
theorem Noted.freeTag (s : State) (k : Nat) : Noted s (s.freeTag k) := ⟨_, _, _, _, _, _, _, rfl⟩
theorem Noted.sends {s t : State} (h : Noted s t) (o : List Out) : Noted s { t with out := o } := by
  obtain ⟨_, _, _, _, _, _, _, rfl⟩ := h
  exact ⟨_, _, _, _, _, _, _, rfl⟩

theorem Noted.transfer (s : State) (pl : Place) (core : Option Nat) (off n : Nat) : Noted s (s.transfer pl core off n) := by
  unfold State.transfer
  split
  · exact ⟨_, _, _, _, _, _, _, rfl⟩
  · exact Noted.refl s

theorem noteRequest_ctxs (s : State) (k : Nat) : ∃ st pw, s.noteRequest k = { s with hbmStacks := st, power := pw } := by
  unfold State.noteRequest
  split
  · exact ⟨s.hbmStacks, s.power, rfl⟩
  · dsimp only
    split
    · exact ⟨_, s.power, rfl⟩
    · exact ⟨_, _, rfl⟩

theorem Noted.noteRequest (s : State) (k : Nat) : Noted s (s.noteRequest k) := by
  obtain ⟨a, b, h⟩ := noteRequest_ctxs s k
  exact ⟨_, a, b, _, _, _, _, h⟩

/-! ### What sending changes -/

theorem Noted.emitLink (s : State) (port peer : Nat) (old nak : Bool) : Noted s (s.emitLink port peer old nak) := by
  unfold State.emitLink
  split
  · exact ((Noted.modChan _ _ _ _).trans (Noted.modPort _ _ _)).sends _
  · exact Noted.refl s

theorem Noted.emitDue (s : State) (port peer : Nat) : Noted s (s.emitDue port peer) := by
  unfold State.emitDue
  split
  · exact Noted.refl s
  · exact ((Noted.modChan _ _ _ _).trans (Noted.modPort _ _ _)).sends _

theorem Noted.pumpFrames (port fuel : Nat) : ∀ s : State, Noted s (s.pumpFrames port fuel) := by
  induction fuel with
  | zero => exact Noted.refl
  | succ n ih =>
    intro s
    rw [State.pumpFrames]
    split
    · exact Noted.refl s
    · split
      · exact Noted.refl s
      · split
        · exact Noted.refl s
        · split
          · exact Noted.refl s
          · exact (((Noted.modChan _ _ _ _).trans (Noted.modPort _ _ _)).sends _).trans (ih _)

theorem Noted.pumpPort (s : State) (port : Nat) : Noted s (s.pumpPort port) := by
  unfold State.pumpPort
  split
  · exact Noted.refl s
  · split
    · exact Noted.refl s
    · refine ((Noted.foldl _ ?_ _ s).trans (Noted.foldl _ (fun (s : State) (c : Channel) => Noted.emitDue s port c.peer) _ _)).trans (Noted.pumpFrames port 1024 _)
      intro s c
      split
      · exact Noted.emitLink _ _ _ _ _
      · exact Noted.refl s

theorem Noted.openChan (s : State) (port peer : Nat) : Noted s (s.openChan port peer) := by
  unfold State.openChan
  split
  · exact Noted.refl s
  · exact Noted.modLinks s _

theorem Noted.sendFrom (s : State) (ctx : Option Nat) (src dst : Nat) (i : Inner) : Noted s (s.sendFrom ctx src dst i) := by
  unfold State.sendFrom
  split
  · exact Noted.refl s
  · exact ((Noted.openChan _ _ _).trans (Noted.modChan _ _ _ _)).trans (Noted.pumpPort _ _)

theorem Noted.sendR (s : State) (ctx : Option Nat) (dst : Nat) (i : Inner) : Noted s (s.sendR ctx dst i) := by
  unfold State.sendR
  split
  · split
    · exact Noted.refl s
    · exact (Noted.modLinks s _).trans (Noted.sendFrom _ _ _ _ _)
  · exact Noted.sendFrom _ _ _ _ _

/-- One transfer to or from a lender. -/
theorem cross_noted {s t : State} {l : Lease} {va page off n tag : Nat} {data : Option Bytes} {dl : Option Nat}
    (h : s.cross l va page off n data dl = some (t, tag)) : Noted s t := by
  unfold State.cross at h
  obtain ⟨r, hr, hq⟩ := Option.map_eq_some_iff.mp h
  have h1 : Noted s r.1 := by
    unfold State.issue at hr
    split at hr
    · cases hr
    · cases hr; exact ⟨_, _, _, _, _, _, _, rfl⟩
  have h2 := congrArg Prod.fst hq
  dsimp only at h2
  rw [← h2]
  exact h1.trans (Noted.sendR _ _ _ _)

theorem Noted.crossPiece (s : State) (va pfn off n : Nat) (data : Option Bytes) : Noted s (s.crossPiece va pfn off n data) := by
  unfold State.crossPiece
  split
  · exact Noted.refl s
  · split
    · exact Noted.refl s
    · refine Noted.foldl _ ?_ _ s
      intro s x
      split
      · next r hr => exact (cross_noted (t := r.1) (tag := r.2) hr).trans (Noted.freeTag _ _)
      · exact Noted.refl s

/-! ### Pieces -/

theorem piecesOf_zero (va : Nat) : piecesOf va 0 = [] := by simp [piecesOf, pieces]

/-- A region within one page is one piece. -/
theorem piecesOf_page {va n : Nat} (hn : n ≠ 0) (h : va % pageSize + n ≤ pageSize) :
    piecesOf va n = [(vpage va, va % pageSize, n)] := by
  have hk : min n (pageSize - va % pageSize) = n := by omega
  unfold piecesOf
  rw [show n / pageSize + 2 = (n / pageSize + 1) + 1 from rfl]
  simp [pieces, hn, hk]

/-! ### Reads without upsets -/

theorem readPiece_noted (s : State) (id : Nat) (core : Option Nat) (vp off n : Nat) : Noted s (s.readPiece id core [] vp off n).1 := by
  unfold State.readPiece
  split
  · exact Noted.refl s
  · split
    · exact Noted.refl s
    · next p _ =>
      have h0 := (Noted.modPage s id vp (fun q => q.touch core off n)).trans (Noted.transfer _ (s.placeOf p core) core off n)
      simp only [fabricFails, List.any_nil, Bool.false_and, Bool.false_eq_true, if_false]
      split
      · exact h0
      · exact (h0.trans (Noted.noteRequest _ _)).trans (Noted.chargeCtx _ _ _)
      · exact h0
      · simpa using h0.trans (Noted.crossPiece _ _ _ _ _ _)

/-- A read without upsets changes what it notes, and nothing else. -/
theorem readV_noted (s : State) (id : Nat) (core : Option Nat) (va n : Nat) : Noted s (s.readV id core [] va n).1 := by
  have go : ∀ (l : List (Nat × Nat × Nat)) (acc : State × Option (Nat × Status)), Noted acc.1
      (l.foldl (fun (acc : State × Option (Nat × Status)) pc =>
        let t := acc.1.readPiece id core [] pc.1 pc.2.1 pc.2.2
        (t.1, match acc.2 with
              | some f => some f
              | none => t.2)) acc).1 := by
    intro l
    induction l with
    | nil => intro acc; exact Noted.refl _
    | cons pc rest ih =>
      intro acc
      rw [List.foldl_cons]
      exact (readPiece_noted acc.1 id core pc.1 pc.2.1 pc.2.2).trans (ih _)
  unfold State.readV
  dsimp only
  split
  · exact go _ _
  · exact go _ _

/-! ### Plain regions -/

/-- What a plain region says of its page and frame. -/
theorem plainRegion_iff (s : State) (c : Ctx) (va n f : Nat) : PlainRegion s c va n f = true ↔
    n ≠ 0 ∧ va % pageSize + n ≤ pageSize ∧ va + n ≤ 2 ^ 48 ∧
    (∃ p, c.page? (vpage va) = some p ∧ p.hbm = some f ∧ p.tier = none ∧ p.lease = none ∧ p.share = none ∧ p.lost = false ∧ p.ro = false ∧
      p.keyId = 0 ∧ p.snap = false) ∧
    (s.mem.meta f).poison = [] ∧ (s.mem.meta f).high + 2 ^ 14 < 2 ^ 24 ∧
    (∃ b, s.vault.bank.find? (fun b => b.ctx == c.id) = some b ∧ b.uses + 2 ^ 14 ≤ b.limit) := by
  unfold PlainRegion
  constructor
  · intro h
    simp only [Bool.and_eq_true] at h
    obtain ⟨⟨⟨⟨⟨⟨h1, h2⟩, h3⟩, h4⟩, h5⟩, h6⟩, h7⟩ := h
    refine ⟨by simpa using h1, by simpa using h2, by simpa using h3, ?_, by simpa using h5, by simpa using h6, ?_⟩
    · split at h4
      · next p hp => exact ⟨p, hp, by simpa [Bool.and_eq_true, and_assoc] using h4⟩
      · simp at h4
    · split at h7
      · next b hb => exact ⟨b, hb, by simpa using h7⟩
      · simp at h7
  · rintro ⟨h1, h2, h3, ⟨p, hp, h4⟩, h5, h6, ⟨b, hb, h7⟩⟩
    obtain ⟨a1, a2, a3, a4, a5, a6, a7, a8⟩ := h4
    simp [h1, h2, hp, h5, hb, a1, a2, a3, a4, a5, a6, a7, a8] <;> omega

/-- The place of a private HBM page under its context's key. -/
theorem placeOf_plain {s : State} {p : Page} {f : Nat} (core : Option Nat) (h1 : p.hbm = some f) (h2 : p.tier = none) (h3 : p.lease = none)
    (h4 : p.share = none) (h5 : p.lost = false) (h6 : p.keyId = 0) : s.placeOf p core = .hbm f := by
  simp [State.placeOf, State.keyStands, h1, h2, h3, h4, h5, h6]

/-- A context's page after a change of that page. -/
theorem page?_modPage (c : Ctx) (vp : Nat) (g : Page → Page) (hg : ∀ p, (g p).va = p.va) :
    (c.modPage vp g).page? vp = (c.page? vp).map g := by
  have := find?_map_keep c.pages (fun p => p.va) vp vp g hg
  simpa [Ctx.modPage, Ctx.page?] using this

@[simp] theorem touch_va (p : Page) (core : Option Nat) (off n : Nat) : (p.touch core off n).va = p.va := by
  unfold Page.touch; split <;> simp; split <;> rfl
@[simp] theorem touch_hbm (p : Page) (core : Option Nat) (off n : Nat) : (p.touch core off n).hbm = p.hbm := by
  unfold Page.touch; split <;> simp; split <;> rfl
@[simp] theorem touch_tier (p : Page) (core : Option Nat) (off n : Nat) : (p.touch core off n).tier = p.tier := by
  unfold Page.touch; split <;> simp; split <;> rfl
@[simp] theorem touch_lease (p : Page) (core : Option Nat) (off n : Nat) : (p.touch core off n).lease = p.lease := by
  unfold Page.touch; split <;> simp; split <;> rfl
@[simp] theorem touch_share (p : Page) (core : Option Nat) (off n : Nat) : (p.touch core off n).share = p.share := by
  unfold Page.touch; split <;> simp; split <;> rfl
@[simp] theorem touch_lost (p : Page) (core : Option Nat) (off n : Nat) : (p.touch core off n).lost = p.lost := by
  unfold Page.touch; split <;> simp; split <;> rfl
@[simp] theorem touch_keyId (p : Page) (core : Option Nat) (off n : Nat) : (p.touch core off n).keyId = p.keyId := by
  unfold Page.touch; split <;> simp; split <;> rfl

/-- The bytes of a piece that a private HBM page under its context's key serves. -/
theorem pieceBytes_plain {s : State} {id vp off n f : Nat} {c : Ctx} {p : Page} (core : Option Nat) (hc : s.ctx? id = some c)
    (hp : c.page? vp = some p) (hpl : s.placeOf p core = .hbm f) : s.pieceBytes id core vp off n = readCells s.mem.cells (physAt f off) n := by
  simp [State.pieceBytes, hc, hp, hpl]

/-- A read of a plain region gives the bytes at its frame. -/
theorem readV_plain {s : State} {id : Nat} {c : Ctx} {va n f : Nat} (core : Option Nat) (hc : s.ctx? id = some c)
    (h : PlainRegion s c va n f = true) :
    (s.readV id core [] va n).2 = .ok (readCells s.mem.cells (physAt f (va % pageSize)) n) := by
  obtain ⟨h1, h2, -, ⟨p, hp, a1, a2, a3, a4, a5, -, a7, -⟩, h5, -, -⟩ := (plainRegion_iff s c va n f).mp h
  have hpl : ∀ s : State, s.placeOf p core = .hbm f := fun s => placeOf_plain core a1 a2 a3 a4 a5 a7
  have hno : s.mem.poisonIn (.hbm f) (va % pageSize) n = [] := by simp [Memory.poisonIn, h5]
  let s1 := (s.modPage id (vpage va) (fun q => q.touch core (va % pageSize) n)).transfer (.hbm f) core (va % pageSize) n
  have hr : s.readPiece id core [] (vpage va) (va % pageSize) n
      = ((s1.noteRequest (stackOf f)).chargeCtx id (blocksOf (va % pageSize) n).length, none) := by
    simp [State.readPiece, hc, hp, hpl, hno, leastBy, earlier, fabricFails, s1]
  have hs1 : ∃ lg, s1 = { s.modPage id (vpage va) (fun q => q.touch core (va % pageSize) n) with ledger := lg } := by
    simp only [s1]
    unfold State.transfer
    split
    · exact ⟨_, rfl⟩
    · exact ⟨_, rfl⟩
  unfold State.readV
  rw [piecesOf_page h1 h2]
  simp only [List.foldl_cons, List.foldl_nil, hr, List.flatMap_cons, List.flatMap_nil, List.append_nil]
  congr 1
  have hctx : (s.modPage id (vpage va) (fun q => q.touch core (va % pageSize) n)).ctx? id
      = some (c.modPage (vpage va) (fun q => q.touch core (va % pageSize) n)) := by
    have := State.ctx?_modCtx s id id (fun d => d.modPage (vpage va) (fun q => q.touch core (va % pageSize) n)) (fun _ => rfl)
    rw [State.modPage_eq, this, hc]; simp
  have hpg : (c.modPage (vpage va) (fun q => q.touch core (va % pageSize) n)).page? (vpage va) = some (p.touch core (va % pageSize) n) := by
    rw [page?_modPage _ _ _ (by simp), hp]; rfl
  have hn : Noted s ((s1.noteRequest (stackOf f)).chargeCtx id (blocksOf (va % pageSize) n).length) :=
    (((Noted.modPage s id (vpage va) _).trans (Noted.transfer _ (.hbm f) core _ n)).trans (Noted.noteRequest _ _)).trans (Noted.chargeCtx _ _ _)
  have hcs : ((s1.noteRequest (stackOf f)).chargeCtx id (blocksOf (va % pageSize) n).length).ctxs
      = (s.modPage id (vpage va) (fun q => q.touch core (va % pageSize) n)).ctxs := by
    obtain ⟨st, pw, hq⟩ := noteRequest_ctxs s1 (stackOf f)
    obtain ⟨lg, hl⟩ := hs1
    rw [hq, hl]; rfl
  rw [pieceBytes_plain (f := f) core (by rw [← hctx]; unfold State.ctx?; rw [hcs]) hpg
    (placeOf_plain core (by simpa using a1) (by simpa using a2) (by simpa using a3) (by simpa using a4) (by simpa using a5) (by simpa using a7)),
    hn.mem]

end Sys2Proof.Machine
end

