-- ==== Sys2Proof/Laws/Reply.lean ====
section
/-!
SUPPORT. Laws/Reply.lean: sending changes sessions, HOST and what has left, and nothing else; the way of a request that passes its checks, and of
one that does not.
-/
set_option Elab.async false
namespace Sys2Proof.Machine

/-- `t` is `s` after something may have been sent: what had left stands in front. -/
def Sends (s t : State) : Prop := ∃ ses o h, t = { s with sessions := ses, out := s.out ++ o, host := h }

theorem Sends.refl (s : State) : Sends s s := ⟨s.sessions, [], s.host, by simp⟩

theorem Sends.trans {s t u : State} (h : Sends s t) (k : Sends t u) : Sends s u := by
  obtain ⟨a, b, c, rfl⟩ := h
  obtain ⟨d, e, f, rfl⟩ := k
  exact ⟨d, b ++ e, f, by simp⟩

/-- What sending keeps: every field but three, and what had left. -/
theorem Sends.onlySent {s t : State} (h : Sends s t) : OnlySent s t := by
  obtain ⟨a, b, c, rfl⟩ := h; rfl
theorem Sends.out {s t : State} (h : Sends s t) : ∃ o, t.out = s.out ++ o := by
  obtain ⟨a, b, c, rfl⟩ := h; exact ⟨b, rfl⟩

theorem Sends.modSession (s : State) (n : Nat) (f : Session → Session) : Sends s (s.modSession n f) :=
  ⟨s.sessions.map (fun x => if x.number = n then f x else x), [], s.host, by simp [State.modSession]⟩

theorem Sends.modHost (s : State) (f : HostPort → HostPort) : Sends s (s.modHost f) := ⟨s.sessions, [], f s.host, by simp [State.modHost]⟩

theorem Sends.watchBuffers (s : State) : Sends s s.watchBuffers := by
  unfold State.watchBuffers
  dsimp only
  split
  · exact Sends.refl s
  · exact ⟨s.sessions, _, _, rfl⟩

theorem Sends.hostSay (s : State) (f : HostFrame) : Sends s (s.hostSay f) := ⟨s.sessions, _, _, rfl⟩

theorem Sends.hostBegin (s : State) : Sends s s.hostBegin := by
  have ite (t : State) (c : Bool) (f : HostFrame) : Sends t (if c then t.hostSay f else t) := by
    cases c
    · exact Sends.refl t
    · exact Sends.hostSay t f
  unfold State.hostBegin
  dsimp only
  split
  · exact (Sends.hostSay s _).trans (ite _ _ _)
  · exact ite _ _ _

theorem Sends.setHost (s : State) (c : HostCfg) (cak : Nat) : Sends s (s.setHost c cak) := by
  unfold State.setHost
  dsimp only
  refine Sends.trans ?_ (Sends.hostBegin _)
  refine Sends.trans ?_ (Sends.watchBuffers _)
  refine Sends.trans ?_ (Sends.modHost _ _)
  split
  · exact ⟨s.sessions, _, s.host, rfl⟩
  · exact Sends.refl s

theorem Sends.turnHost (s : State) : Sends s s.turnHost := by
  unfold State.turnHost
  split
  · exact Sends.refl s
  · split
    · exact Sends.refl s
    · exact (Sends.setHost s _ _).trans (Sends.modHost _ _)

theorem Sends.pump (s : State) (n : Nat) : Sends s (s.pump n) := by
  unfold State.pump
  split
  · exact Sends.refl s
  · split
    · exact Sends.refl s
    · exact Sends.trans ⟨_, _, _, rfl⟩ (Sends.turnHost _)

theorem Sends.sendAck (s : State) (n : Nat) : Sends s (s.sendAck n) := by
  unfold State.sendAck
  split
  · exact Sends.refl s
  · split
    · exact Sends.refl s
    · exact ⟨_, _, _, rfl⟩

theorem Sends.reopen (s : State) (n : Nat) : Sends s (s.reopen n) := by
  unfold State.reopen
  split
  · exact Sends.refl s
  · split
    · exact Sends.sendAck s n
    · exact Sends.refl s

theorem Sends.send (s : State) (n op : Nat) (ans dev : Bool) (ctx ctxGen tag status arg0 : Nat) (bs : Bytes) :
    Sends s (s.send n op ans dev ctx ctxGen tag status arg0 bs) := by
  unfold State.send
  split
  · exact Sends.refl s
  · refine Sends.trans ?_ (Sends.pump _ n)
    exact ⟨_, _, s.host, rfl⟩

/-- A message to a session that stands has left. -/
theorem State.send_leaves {s : State} {n : Nat} {x : Session} (h : s.session? n = some x) (op : Nat) (ans dev : Bool)
    (ctx ctxGen tag status arg0 : Nat) (bs : Bytes) :
    ∃ o, (s.send n op ans dev ctx ctxGen tag status arg0 bs).out = s.out ++ .message n op ans dev ctx ctxGen tag status arg0 bs :: o := by
  unfold State.send
  rw [h]
  obtain ⟨o, ho⟩ := (Sends.pump ({ s.modSession n (fun x => x.enqueue
    (headerBytes op ans dev ctx ctxGen tag bs.length status arg0 ++ bs)) with
      out := s.out ++ [.message n op ans dev ctx ctxGen tag status arg0 bs] } : State) n).out
  exact ⟨o, by rw [ho]; simp⟩

theorem Sends.takeMail (s : State) (op : Opcode) (m : Msg) : Sends s (s.takeMail op m) :=
  ((Sends.modSession s m.session _).trans (Sends.modHost _ _)).trans (Sends.watchBuffers _)

theorem Sends.holdTag (s : State) (m : Msg) : Sends s (s.holdTag m) := Sends.modSession s m.session _

theorem Sends.answer (s : State) (op : Opcode) (m : Msg) (r : Reply) : Sends s (s.answer op m r) := by
  unfold State.answer
  dsimp only
  refine Sends.trans ?_ (Sends.reopen _ _)
  refine Sends.trans ?_ (Sends.send _ _ _ _ _ _ _ _ _ _ _)
  split
  · exact Sends.modSession s _ _
  · exact Sends.refl s

/-- The answer to a request of a session that stands has left. -/
theorem State.answer_leaves {s : State} {op : Opcode} {m : Msg} {r : Reply} {x : Session} (h : s.session? m.session = some x) :
    Answered s (s.answer op m r) op m r := by
  unfold State.answer Answered
  dsimp only
  split
  · obtain ⟨o, ho⟩ := State.send_leaves (s := s.modSession m.session (fun x => { x with tags := m.tag :: x.tags }))
      (x := { x with tags := m.tag :: x.tags }) (n := m.session) (by
        have := State.session?_modSession s m.session m.session (fun x => { x with tags := m.tag :: x.tags }) (fun _ => rfl)
        rw [this, h]; simp) op.code true false (r.named.getD (m.ctx, m.ctxGen)).1
      (r.named.getD (m.ctx, m.ctxGen)).2 m.tag r.status.code r.arg0 r.payload
    obtain ⟨p, hp⟩ := (Sends.reopen ((s.modSession m.session (fun x => { x with tags := m.tag :: x.tags })).send m.session op.code true false
      (r.named.getD (m.ctx, m.ctxGen)).1 (r.named.getD (m.ctx, m.ctxGen)).2 m.tag r.status.code r.arg0 r.payload) m.session).out
    rw [hp, ho]; simp
  · obtain ⟨o, ho⟩ := State.send_leaves h op.code true false (r.named.getD (m.ctx, m.ctxGen)).1 (r.named.getD (m.ctx, m.ctxGen)).2 m.tag
      r.status.code r.arg0 r.payload
    obtain ⟨p, hp⟩ := (Sends.reopen (s.send m.session op.code true false (r.named.getD (m.ctx, m.ctxGen)).1
      (r.named.getD (m.ctx, m.ctxGen)).2 m.tag r.status.code r.arg0 r.payload) m.session).out
    rw [hp, ho]; simp

/-- The end of a wait changes waits beside what sending changes. -/
theorem State.finish_sends (s : State) (w : Wait) (r : Reply) :
    Sends { s with waits := s.waits.filter (fun x => !(x.session == w.session && x.sgen == w.sgen && x.tag == w.tag)) } (s.finish w r) := by
  unfold State.finish
  dsimp only
  split
  · exact Sends.refl _
  · split
    · exact Sends.refl _
    · exact ((Sends.modSession _ _ _).trans (Sends.send _ _ _ _ _ _ _ _ _ _ _)).trans (Sends.reopen _ _)

/-! ### The way of a request -/

theorem admits_iff (s : State) (op : Opcode) (m : Msg) (x : Session) : Admits s op m x = true ↔
    s.hears op m = true ∧ (s.takeMail op m).session? m.session = some x ∧ (s.takeMail op m).refusalOf x op m = none := by
  simp [Admits, and_assoc]

/-- An admitted request runs its home rule, which answers. -/
theorem State.request_of_admits {s v : State} {op : Opcode} {m : Msg} {x : Session} {r : Reply} {body : State → Session → State × Option Reply}
    (h : Admits s op m x = true) (hb : body (s.takeMail op m) x = (v, some r)) : s.request op m body = v.answer op m r := by
  obtain ⟨h1, h2, h3⟩ := (admits_iff s op m x).mp h
  simp [State.request, h1, h2, h3, hb]

/-- A request that fails a check of R321 is answered with its status, and nothing else is done. -/
theorem State.request_of_refused {s : State} {op : Opcode} {m : Msg} {x : Session} {st : Status} {body : State → Session → State × Option Reply}
    (h1 : s.hears op m = true) (h2 : (s.takeMail op m).session? m.session = some x) (h3 : (s.takeMail op m).refusalOf x op m = some st) :
    s.request op m body = (s.takeMail op m).answer op m ((s.takeMail op m).refusal op st) := by
  simp [State.request, h1, h2, h3]

/-- A request on a session that does not hear it changes nothing. -/
theorem State.request_unheard {s : State} {op : Opcode} {m : Msg} {body : State → Session → State × Option Reply} (h : s.hears op m = false) :
    s.request op m body = s := by simp [State.request, h]

theorem State.requestThen_of_admits {s v : State} {op : Opcode} {m : Msg} {x : Session} {r : Reply} {body : State → Session → State × Option Reply}
    {after : State → State} (h : Admits s op m x = true) (hb : body (s.takeMail op m) x = (v, some r)) :
    s.requestThen op m body after = after (v.answer op m r) := by
  have h1 := ((admits_iff s op m x).mp h).1
  simp [State.requestThen, h1, State.request_of_admits h hb]

theorem State.requestThen_unheard {s : State} {op : Opcode} {m : Msg} {body : State → Session → State × Option Reply} {after : State → State}
    (h : s.hears op m = false) : s.requestThen op m body after = s := by simp [State.requestThen, h]

@[simp] theorem State.takeMail_ctx? (s : State) (op : Opcode) (m : Msg) (id : Nat) : (s.takeMail op m).ctx? id = s.ctx? id := by
  obtain ⟨a, b, c, h⟩ := Sends.takeMail s op m
  rw [h]; rfl

theorem withCtx_of_some {m : Msg} {body : State → Session → Ctx → State × Option Reply} {s : State} {x : Session} {c : Ctx}
    (h : s.ctx? m.ctx = some c) : withCtx m body s x = body s x c := by simp [withCtx, h]

/-- A home rule that refuses leaves what sending leaves. -/
theorem State.request_refuse {s : State} {op : Opcode} {m : Msg} {x : Session} {st : Status} {body : State → Session → State × Option Reply}
    (h : Admits s op m x = true) (hb : body (s.takeMail op m) x = refuse (s.takeMail op m) st) :
    OnlySent s (s.request op m body) ∧ Answered (s.takeMail op m) (s.request op m body) op m (.of st) := by
  rw [State.request_of_admits h hb]
  exact ⟨((Sends.takeMail s op m).trans (Sends.answer _ op m _)).onlySent, State.answer_leaves ((admits_iff s op m x).mp h).2.1⟩

end Sys2Proof.Machine
end

