-- ==== Sys2Proof/WellFormed.lean ====
section
/-!
DEFINITION. WellFormed.lean: which terms of `Instr` are commands at all: every field within the width that the layout tables
give it, every index within the numbers of the parts that the spec counts.
-/
namespace Sys2Proof

/-- Does a number fit `w` bits? -/
def fitsBits (w v : Nat) : Bool := decide (v < 2 ^ w)

/-- Table 10-8. `rsvd` gathers the reserved bits [31:18], [47:44], [159:144] and [255:224] of the header, side by side. -/
def Msg.wf (m : Msg) : Bool :=
  fitsBits 8 m.session && fitsBits 66 m.rsvd && fitsBits 12 m.ctx && fitsBits 16 m.ctxGen && fitsBits 32 m.tag
    && fitsBits 32 m.length && fitsBits 16 m.status && fitsBits 64 m.arg0

/-- Virtual addresses have 48 bits (R168); a window is at most 32 MiB (R173). -/
def Upset.wf : Upset → Bool
  | .tagFail va _ | .bothCopies va | .sram va _ | .fabric va => fitsBits 48 va
  | .window off _ => fitsBits 25 off
  | .check _ | .rowSum _ | .column | .timeout => true

/-- Every upset of a list. -/
def upsetsWf (l : List Upset) : Bool := l.all Upset.wf

/-- Table 10-5. -/
def QFrame.wf (f : QFrame) : Bool :=
  fitsBits 4 f.ver && fitsBits 4 f.kind && fitsBits 8 f.session && fitsBits 8 f.sgen && fitsBits 64 f.seq && fitsBits 39 f.rsvd

/-- Table 10-6. -/
def Segment.wf (g : Segment) : Bool :=
  fitsBits 32 g.msg && fitsBits 16 g.off && fitsBits 14 g.slen && fitsBits 65 g.rsvd && decide (g.data.length = g.slen)

/-- Table 10-7. -/
def AckBody.wf (b : AckBody) : Bool :=
  fitsBits 64 b.ack && fitsBits 64 b.sack && fitsBits 16 b.window && fitsBits 16 b.ce && fitsBits 96 b.rsvd

/-- Tables 09-2 and 09-4: sixteen ports. -/
def Outer.wf (o : Outer) : Bool :=
  decide (o.port < 16) && fitsBits 4 o.ver && fitsBits 2 o.cls && fitsBits 51 o.rsvd && fitsBits 16 o.src && fitsBits 16 o.dst && fitsBits 16 o.job
    && fitsBits 32 o.chan && fitsBits 64 o.seq && fitsBits 13 o.dlen

/-- Table 09-5. -/
def Inner.wf (i : Inner) : Bool :=
  fitsBits 16 i.iop && fitsBits 16 i.group && fitsBits 8 i.gen && fitsBits 7 i.rsvd && fitsBits 16 i.rank && fitsBits 32 i.inst
    && fitsBits 32 i.off && fitsBits 64 i.tally && fitsBits 64 i.arg && decide (i.data.length ≤ 4096)

/-- An operation delivered from a device of the job. -/
def Delivered.wf (d : Delivered) : Bool := fitsBits 16 d.src && decide (d.port < 16) && d.inner.wf

/-- Table 09-6. -/
def LinkBody.wf (b : LinkBody) : Bool :=
  fitsBits 64 b.ack && fitsBits 64 b.sack && fitsBits 16 b.crCtrl && fitsBits 16 b.crData && fitsBits 16 b.crXfer && fitsBits 16 b.ce
    && fitsBits 63 b.rsvd

/-- Three copies of 64 bits (R418). -/
def Burn.wf : Burn → Bool
  | .whole => true
  | .badCopy copy bits | .cut copy bits => decide (copy < 3) && fitsBits 64 bits

/-- Six tiles, two link dies. -/
def Readings.wf (r : Readings) : Bool := decide (r.tiles.length = 6) && decide (r.links.length = 2)

/-- Six tiles, two link dies. -/
def LeaveUnit.wf : LeaveUnit → Bool
  | .tile n => decide (n < 6)
  | .link n => decide (n < 2)

/-- A command of a record: context, queue, sequence number, iteration. -/
def cmdWf (ctx queue seq iter : Nat) : Bool :=
  fitsBits 12 ctx && decide (queue < 64) && fitsBits 64 seq && fitsBits 32 iter

/-- Is the term a command? -/
def Instr.wf : Instr → Bool
  | .resetNAssert _ _ => true
  | .coldReset _ => true
  | .internalColdReset _ => true
  | .pwrBrakeAssert _ => true
  | .pwrBrakeRelease => true
  | .brakeEventInterval => true
  | .refclkMissing _ => true
  | .railOutOfRange _ _ => true
  | .vcoreUndervoltage tile => decide (tile < 6)
  | .thermalBrakeComparator tile _ => decide (tile < 6)
  | .thermTripComparator die _ => decide (die < 45)
  | .stackTempReport stack _ => decide (stack < 12)
  | .samplePeriod r => r.wf
  | .avsbusSilent tile => decide (tile < 6)
  | .voltageConfirmed tile _ => decide (tile < 6)
  | .leaveGrant unit => unit.wf
  | .pacingWindow unit => unit.wf
  | .hbmTrainIdle stack => decide (stack < 12)
  | .hello f g more => f.wf && g.wf && more.all (fun x => x.1.wf && x.2.wf)
  | .keyExchangeOpen m => m.wf
  | .keyExchangeRekey m => m.wf
  | .features m => m.wf
  | .attest m => m.wf
  | .heartbeat m => m.wf
  | .eventAnswer m => m.wf
  | .eventSend session _ => fitsBits 8 session
  | .eventResendTimeout session _ => fitsBits 8 session
  | .linkConfig m => m.wf
  | .hostConfig m => m.wf
  | .macsecRevertTimeout => true
  | .ctxCreate m => m.wf
  | .ctxDestroy m => m.wf
  | .destroyDrainDone ctx => fitsBits 12 ctx
  | .ctxReset m => m.wf
  | .teardownDone ctx => fitsBits 12 ctx
  | .ctxSuspend m => m.wf
  | .ctxResumeReady m upsets => m.wf && upsetsWf upsets
  | .ctxResumeResume m => m.wf
  | .ctxResumeAssign m => m.wf
  | .slotAdmit ctx => fitsBits 12 ctx
  | .rotateOut ctx => fitsBits 12 ctx
  | .residencyExitDone ctx => fitsBits 12 ctx
  | .optStepPrepare m upsets => m.wf && upsetsWf upsets
  | .optStepUpdate m upsets => m.wf && upsetsWf upsets
  | .optStepRun ctx _ upsets => fitsBits 12 ctx && upsetsWf upsets
  | .paramExport m upsets => m.wf && upsetsWf upsets
  | .paramExportRun ctx _ upsets => fitsBits 12 ctx && upsetsWf upsets
  | .mapGrantMap m => m.wf
  | .mapGrantLimits m => m.wf
  | .mapGrantPublish m => m.wf
  | .mapGrantAttach m => m.wf
  | .unmap m => m.wf
  | .pageHint m => m.wf
  | .regulate m => m.wf
  | .placeLogAggregate m => m.wf
  | .placeLogMoves m => m.wf
  | .queueCreate m => m.wf
  | .queueDestroy m => m.wf
  | .doorbellInline m upsets => m.wf && upsetsWf upsets
  | .doorbellRing m => m.wf
  | .recordIntake ctx queue upsets => fitsBits 12 ctx && decide (queue < 64) && upsetsWf upsets
  | .commandDispatch ctx queue upsets => fitsBits 12 ctx && decide (queue < 64) && upsetsWf upsets
  | .fenceInTimeout ctx queue => fitsBits 12 ctx && decide (queue < 64)
  | .commandComplete ctx queue seq iter upsets => cmdWf ctx queue seq iter && upsetsWf upsets
  | .nop ctx queue seq iter => cmdWf ctx queue seq iter
  | .matmul ctx queue seq iter upsets => cmdWf ctx queue seq iter && upsetsWf upsets
  | .vector ctx queue seq iter upsets => cmdWf ctx queue seq iter && upsetsWf upsets
  | .copy ctx queue seq iter upsets => cmdWf ctx queue seq iter && upsetsWf upsets
  | .fill ctx queue seq iter upsets => cmdWf ctx queue seq iter && upsetsWf upsets
  | .scaleSet ctx queue seq iter upsets => cmdWf ctx queue seq iter && upsetsWf upsets
  | .repeatCmd ctx queue seq iter upsets => cmdWf ctx queue seq iter && upsetsWf upsets
  | .repeatIteration ctx queue upsets => fitsBits 12 ctx && decide (queue < 64) && upsetsWf upsets
  | .collectiveAllReduce ctx queue seq iter upsets => cmdWf ctx queue seq iter && upsetsWf upsets
  | .collectiveReduceScatter ctx queue seq iter upsets => cmdWf ctx queue seq iter && upsetsWf upsets
  | .collectiveAllGather ctx queue seq iter upsets => cmdWf ctx queue seq iter && upsetsWf upsets
  | .collectiveReduce ctx queue seq iter upsets => cmdWf ctx queue seq iter && upsetsWf upsets
  | .collectiveBroadcast ctx queue seq iter upsets => cmdWf ctx queue seq iter && upsetsWf upsets
  | .collectiveNorm ctx queue seq iter upsets => cmdWf ctx queue seq iter && upsetsWf upsets
  | .collectiveSend ctx queue seq iter upsets => cmdWf ctx queue seq iter && upsetsWf upsets
  | .collectiveRecv ctx queue seq iter upsets => cmdWf ctx queue seq iter && upsetsWf upsets
  | .collectiveTimeout ctx group inst => fitsBits 12 ctx && fitsBits 16 group && fitsBits 32 inst
  | .contributionResendTimeout ctx group inst peer => fitsBits 12 ctx && fitsBits 16 group && fitsBits 32 inst && fitsBits 16 peer
  | .chunk d => d.wf
  | .ready d => d.wf
  | .ack d => d.wf
  | .retry d => d.wf
  | .rtally d => d.wf
  | .abort d => d.wf
  | .xread d => d.wf
  | .xwrite d => d.wf
  | .xresp d => d.wf
  | .transferResponse tag gen _ => fitsBits 14 tag && fitsBits 8 gen
  | .transferTimeout tag => fitsBits 14 tag
  | .ledgerQuarantineEnd tag => fitsBits 14 tag
  | .leaseProbeTimeout lease => fitsBits 16 lease
  | .linkKx d => d.wf
  | .channelKeyExchange port peer => decide (port < 16) && fitsBits 16 peer
  | .rasoviLinkFrame o b => o.wf && b.wf
  | .rasoviFrameReceive o i => o.wf && i.wf
  | .rasoviAckTimer port peer => decide (port < 16) && fitsBits 16 peer
  | .rasoviReplayTimeout port peer => decide (port < 16) && fitsBits 16 peer
  | .switchedRetransmitTimeout port peer => decide (port < 16) && fitsBits 16 peer
  | .portTrainDone port lanes _ _ _ => decide (port < 16) && decide (lanes.length = 8)
  | .serdesReplace die _ _ => decide (die < 2)
  | .portMap src m => fitsBits 16 src && m.wf
  | .groupCreate m upsets => m.wf && upsetsWf upsets
  | .groupDestroy m => m.wf
  | .groupFormTimeout ctx group => fitsBits 12 ctx && fitsBits 16 group
  | .backfillBind m => m.wf
  | .backfillUnbind m => m.wf
  | .fenceCreate m => m.wf
  | .fenceExport m => m.wf
  | .fenceImport m => m.wf
  | .fenceSignal m => m.wf
  | .fenceWait m => m.wf
  | .fenceWaitTimeout tag => fitsBits 14 tag
  | .fenceDestroy m => m.wf
  | .bulkIn m upsets => m.wf && upsetsWf upsets
  | .bulkOut m upsets => m.wf && upsetsWf upsets
  | .ckptConfig m => m.wf
  | .ckptNow m => m.wf
  | .ckptTimerTrigger ctx => fitsBits 12 ctx
  | .ckptCut ctx => fitsBits 12 ctx
  | .ckptDrainTimeout ctx => fitsBits 12 ctx
  | .ckptWriteDone ctx upsets => fitsBits 12 ctx && upsetsWf upsets
  | .ckptRestoreWhole m upsets => m.wf && upsetsWf upsets
  | .ckptRestoreReslice m upsets => m.wf && upsetsWf upsets
  | .ckptVerify m upsets => m.wf && upsetsWf upsets
  | .policyLoad m upsets => m.wf && upsetsWf upsets
  | .ownerJoin m => m.wf
  | .quorumSign m => m.wf
  | .releasePropose m => m.wf
  | .releaseFetch m => m.wf
  | .releaseWithdraw m => m.wf
  | .keyLoad m => m.wf
  | .keyDerive m => m.wf
  | .keyDestroy m => m.wf
  | .errRead m => m.wf
  | .telemetry m => m.wf
  | .testConfigDevice m => m.wf
  | .testConfigAudit m upsets => m.wf && upsetsWf upsets
  | .powerConfig m => m.wf
  | .lcRead m => m.wf
  | .lcAdvance m burn => m.wf && burn.wf
  | .lcEnrol m => m.wf
  | .debugCert m => m.wf
  | .debugChallengeNonce m => m.wf
  | .debugChallengeResponse m => m.wf
  | .fwStage m => m.wf
  | .fwActivate m => m.wf
  | .fwConfirm => true
  | .fwTrialTimeout => true
  | .lockstepMismatch _ => true
  | .quekoDataFrame f g => f.wf && g.wf
  | .quekoAckFrame f b => f.wf && b.wf
  | .quekoAckTimer session => fitsBits 8 session
  | .quekoRetransmitTimeout session => fitsBits 8 session
  | .close f g => f.wf && g.wf
  | .heartbeatLoss session => fitsBits 8 session
  | .handshakeTimeout session => fitsBits 8 session
  | .keyRotate session _ => fitsBits 8 session
  | .keyRotateRepeat session _ => fitsBits 8 session
  | .keyLimitStop _ _ _ _ => true
  | .hostPortTrain _ => true
  | .i3cPrivateWrite _ burn => burn.wf
  | .i3cAnswerDrop => true
  | .placementReview ctx => fitsBits 12 ctx
  | .pageMoveSwitch ctx va => fitsBits 12 ctx && fitsBits 27 va
  | .lendBeaconSend busy => decide (busy ≤ 100)
  | .lendBeacon src m => fitsBits 16 src && m.wf
  | .lendAsk src m => fitsBits 16 src && m.wf
  | .lendOffer src m => fitsBits 16 src && m.wf
  | .lendRelease src m => fitsBits 16 src && m.wf
  | .optShip src m => fitsBits 16 src && m.wf
  | .optClip src m => fitsBits 16 src && m.wf
  | .optReturn src m => fitsBits 16 src && m.wf
  | .ctrlMsg d => d.wf
  | .hbmWriteDrain stack channel => decide (stack < 12) && decide (channel < 64)
  | .patrolScrub core _ _ _ => decide (core < 96)
  | .fieldTestStart core => decide (core < 96)
  | .fieldTestResult core _ => decide (core < 96)
  | .testOverdue core => decide (core < 96)
  | .hostProtocolFrame _ => true
  | .pfcPauseFrame _ _ _ => true
  | .aggregateRecordClose ctx => fitsBits 12 ctx
  | .i3cPrivateRead => true
  | .i3cAddressAssign _ addr => fitsBits 7 addr

end Sys2Proof
end

