-- ==== Sys2Proof/Tests/Slice0.lean ====
section
/-!
SUPPORT. Tests/Slice0.lean: the smoke test of WellFormed, worked examples of the spec, and for each clause of each statement a state
and operands that meet its hypotheses.
-/
set_option Elab.async false
set_option maxRecDepth 4000
namespace Sys2Proof
open Machine

/-! ### Small states -/

/-- The management session, and a tenant's with every feature. -/
def Tests.mgmt : Session := { number := 0, role := .management, hostKey := [1], features := 0x3FF }
def Tests.tenant : Session := { number := 1, hostKey := [2], features := 0x3FF }

/-- A running device with both sessions, two cores and no context. -/
def Tests.dev : State :=
  { otp := { lc := [0x0000FFFFFFFFFFFF, 0x0000FFFFFFFFFFFF, 0x0000FFFFFFFFFFFF], opKeys := [[9]], makerKeys := [[4], [5], [6], [7]] },
    life := { opKey := some [9] },
    power := Power.boot, hbmStacks := List.replicate 12 {}, cores := List.replicate 2 {}, links := Links.boot, host := { row := some 0 },
    sessions := [Tests.mgmt, Tests.tenant] }
/-- An image of no body, signed. -/
def Tests.imageHead : Bytes :=
  toLe 4 0x48584657 ++ [1, 0, 0, 0] ++ toLe 4 0 ++ toLe 4 0 ++ toLe 8 1 ++ shake256 [] 64 ++ List.replicate 114 0x5A ++ List.replicate 54 0
/-- A device held in reset whose image A is good; and one with an internal reset due. -/
def Tests.devOff : State :=
  { hub := { inReset := true, signatures := [{ key := [4], text := Tests.imageHead.take 88, sig := List.replicate 114 0x5A }] },
    otp := { lc := [0x0000FFFFFFFFFFFF, 0x0000FFFFFFFFFFFF, 0x0000FFFFFFFFFFFF], makerKeys := [[4]],
             identityDigest := shake256 (slice [] 0 1512) 64 },
    flash := { cfg := [shippedConfig, shippedConfig], slotA := cellsOf 0xFF#8 0 Tests.imageHead } }
def Tests.devDue : State :=
  { Tests.devOff with hub := { signatures := Tests.devOff.hub.signatures, timer := 5, resetDue := some 5 } }
/-- Tiles and stacks in several situations. -/
def Tests.brakedTile : Tile := { teller := { queue := [.train 1], revoked := [.train 0] } }
def Tests.busyTile : Tile := { teller := { grants := [.command 3 0 0 0 false, .train 0] } }
def Tests.askingTile : Tile := { mv := 725, asked := some 0 }
def Tests.askedTile : Tile := { teller := { queue := [.train 1, .train 0] } }
def Tests.fullTile : Tile := { teller := { queue := [.train 1], grants := [.train 1], window := 128 } }
def Tests.withTile (x : Tile) : State := { Tests.dev with power := { Power.boot with tiles := x :: List.replicate 5 {} } }
def Tests.devBraked : State := { Tests.withTile Tests.brakedTile with hub := { brakePin := true, timer := 9 } }
def Tests.devAsking : State := { Tests.withTile Tests.askingTile with hub := { timer := 65536 } }
def Tests.devAsked : State := Tests.withTile Tests.askedTile
def Tests.devFull : State := Tests.withTile Tests.fullTile
def Tests.devTrain : State := { Tests.withTile Tests.fullTile with hub := { timer := 256 }, hbmStacks := [{}, { train := true }] }
def Tests.devWaking : State :=
  { Tests.dev with power := { Power.boot with linkTellers := [{}, { queue := [.port 9] }] } }
def Tests.devHot : State := { Tests.dev with hbmStacks := List.replicate 12 { refresh := 4 } }
def Tests.devLate : State := { Tests.dev with hub := { timer := 16384 } }
def Tests.calm : Readings :=
  { tiles := List.replicate 6 { beatRate := 2100, mv := 720 }, links := [some 0, some 0], watts := 300 }
def Tests.burning : Readings := { Tests.calm with tiles := [{ beatRate := 2100, mv := 720, temp := some 880 }] }
/-- A record that runs on core 0, its queue and its context. -/
def Tests.rec0 : Rec := { seq := 0, image := toLe 128 0x10, phase := .running, core := some 0, leave := true }
def Tests.queue0 : Queue := { number := 0, recs := [Tests.rec0] }
def Tests.ctx0 : Ctx :=
  { id := 3, gen := 1, owner := 1, res := { state := .resident, slot := some 0 }, ring := some { addr := 0 }, queues := [Tests.queue0] }
def Tests.devBusy : State := { Tests.withTile Tests.busyTile with ctxs := [Tests.ctx0] }
def Tests.powerMsg : Msg := { tag := 5, length := 16, payload := (({} : PowerCfg).bytes) }

/-- Devices for the life cycle: with an operator key of 57 bytes and signatures of LC_ADVANCE, LC_ENROL and debug. -/
def Tests.certHead : Bytes := List.replicate 4 0 ++ [0, 1, 0, 0] ++ List.replicate 64 6 ++ toLe 4 33 ++ toLe 4 0 ++ toLe 4 9 ++ toLe 8 0 ++ List.replicate 20 0
def Tests.idDigest : Bytes := List.replicate 64 6
def Tests.devSigned : State :=
  { Tests.dev with
      hub := { signatures := [
        { key := List.replicate 57 9, text := shake256 (Tests.idDigest ++ toLe 1 3 ++ ascii "lc advance") 64, sig := List.replicate 114 3 },
        { key := List.replicate 57 9, text := shake256 (Tests.idDigest ++ toLe 1 4 ++ ascii "lc advance") 64, sig := List.replicate 114 3 },
        { key := List.replicate 57 9, text := shake256 (Tests.idDigest ++ List.replicate 57 8 ++ ascii "operator enrol") 64, sig := List.replicate 114 3 },
        { key := [5], text := Tests.certHead, sig := List.replicate 114 3 },
        { key := [5], text := shake256 (Tests.idDigest ++ [7, 7] ++ [2, 0, 0, 0] ++ ascii "debug response") 64, sig := List.replicate 114 3 }] },
      otp := { Tests.dev.otp with identityDigest := Tests.idDigest, opKeys := [List.replicate 57 9] },
      life := { opKey := some (List.replicate 57 9) } }
def Tests.devOpen : State := { Tests.devSigned with life := { mode := .openMode, nonce := some [7, 7], rights := 4 } }
def Tests.devStaged : State :=
  { Tests.dev with hub := { signatures := [{ key := [4], text := Tests.imageHead.take 88, sig := List.replicate 114 0x5A }] },
                   flash := { cfg := [shippedConfig, shippedConfig], slotB := cellsOf 0xFF#8 0 Tests.imageHead } }
def Tests.devTrial : State := { Tests.devStaged with life := { trial := some { slot := 1, started := 0, session := some 0, tag := 5 } } }
def Tests.devI3c : State := { Tests.dev with i3c := { dynamic := some 9 } }
def Tests.devI3cAns : State := { Tests.dev with i3c := { dynamic := some 9, answer := some ([1], 0) } }

/-- Sessions: in handshake, with worn keys, with frames under way, and with an EVENT request unanswered. -/
def Tests.shaking : Session := { number := 2, hostKey := [3], isOpen := false, transcript := [8] }
def Tests.devShaking : State :=
  { Tests.dev with sessions := [Tests.mgmt, Tests.tenant, Tests.shaking],
                   hub := { signatures := [{ key := [3], text := [8] ++ ascii "host", sig := List.replicate 114 3 }] } }
def Tests.worn (log2 : Nat) : Session := { Tests.tenant with tx := { frames := 2 ^ log2 } }
def Tests.devWorn (log2 : Nat) : State := { Tests.dev with sessions := [Tests.mgmt, Tests.worn log2] }
def Tests.sending : Session :=
  { Tests.tenant with tx := { seq := 2, window := 16, unacked := [{ seq := 0, kphase := false, seg := {} }, { seq := 1, kphase := false, seg := {} }] },
                      rx := { unacked := 3 } }
def Tests.devSending : State := { Tests.dev with sessions := [Tests.mgmt, Tests.sending] }
def Tests.helloMsg : Msg :=
  { tag := 5, length := 1760, payload := toLe 16 1023 ++ toLe 16 1 ++ [0, 13, 16, 0] ++ List.replicate 1724 0 }
-- a HELLO in two HS frames, with a frame of another version beside them; and one without a payload
def Tests.helloBytes : Bytes := headerBytes Opcode.hello.code false false 0 0 5 1760 0 0 ++ Tests.helloMsg.payload
def Tests.helloSeg0 : Segment := { slen := 1024, data := Tests.helloBytes.take 1024 }
def Tests.helloSeg1 : Segment := { off := 1024, slen := 768, last := true, data := Tests.helloBytes.drop 1024 }
def Tests.helloFrames : List (QFrame × Segment) :=
  [({ ver := 2 }, {}), ({ kind := 2, seq := 3, peer := 7 }, Tests.helloSeg0), ({ kind := 2, seq := 3, peer := 7 }, Tests.helloSeg1)]
def Tests.shortHello : QFrame × Segment :=
  ({ kind := 2, seq := 3, peer := 7 }, { slen := 32, last := true, data := headerBytes Opcode.hello.code false false 0 0 5 0 0 0 })
def Tests.entry0 : Entry := { rseq := 0, event := .fault, status := .ok, body := List.replicate 64 0 }
def Tests.devEvent : State := { Tests.dev with logs := { ring := [Tests.entry0], rseq := 1, lost := 3 } }
def Tests.req0 : EventReq := { tag := 12288, gen := 1, ctx := none, ctxGen := 0, entries := [Tests.entry0], lost := 0, deadline := 9 }
def Tests.waitingMgmt : Session := { Tests.mgmt with events := [Tests.req0] }
def Tests.devAwaiting : State :=
  { Tests.dev with sessions := [Tests.waitingMgmt, Tests.tenant], logs := { ring := [Tests.entry0], rseq := 1, sent := 1 },
                   ledger := ({} : Ledger).issue 12288 (.event 0 12288) none (some 9) }

/-- Keys of a context: a request, a loaded key, and a context with one page. -/
def Tests.firstKey : Nat := 1
def Tests.keyMsg (pages : Nat) : Msg :=
  { session := 1, tag := 5, ctx := 3, ctxGen := 1, length := 64, payload := List.replicate 16 0 ++ toLe 3 pages ++ List.replicate 5 0 ++ List.replicate 32 7 ++ List.replicate 8 0 }
def Tests.loadedKey : KeySlot :=
  { keyId := Tests.firstKey, kind := .loaded, derivable := true, ctx := 3, ctxGen := 1, limit := 2 ^ 56 - 1, issue := 1, material := List.replicate 32 7 }
def Tests.pageA : Page := { va := 0, hbm := some 0 }
def Tests.ctxPaged : Ctx := { Tests.ctx0 with pages := [Tests.pageA] }
def Tests.bank0 : BankEntry := { ctx := 3, gen := 1, limit := 2 ^ 56 - 1 }
def Tests.devKeys : State := { Tests.devBusy with vault := { slots := (Vault.boot 0).slots, bank := [Tests.bank0] } }
def Tests.devPaged : State := { Tests.devKeys with ctxs := [Tests.ctxPaged], mem := { hbmUse := [(0, .page)] } }
def Tests.devLoaded : State := { Tests.devKeys with vault := { slots := (Vault.boot 0).slots ++ [Tests.loadedKey], bank := [Tests.bank0] } }

/-- Contexts in several states. -/
def Tests.ctxIdle (st : CtxState) : Ctx :=
  { id := 3, gen := 1, owner := 1, res := { state := st, slot := (if st = .resident then some 0 else none) }, ring := some { addr := 0 } }
def Tests.devIdle (st : CtxState) : State := { Tests.devKeys with ctxs := [Tests.ctxIdle st] }
def Tests.ctxNew : Ctx := { id := 3, gen := 1, owner := 1, pages := [{ va := 0, hbm := some 0 }, { va := 1, hbm := some 1 }] }
def Tests.devNew : State := { Tests.devKeys with ctxs := [Tests.ctxNew], mem := { hbmUse := [(0, .page), (1, .page)] } }
/-- Form 0: a ring of 1,024 entries at 2 MiB, and two slots of the scale table at 0. -/
def Tests.resumeMsg : Msg :=
  { session := 1, tag := 5, ctx := 3, ctxGen := 1, length := 32, payload := toLe 8 0 ++ toLe 8 (2097152 + 10 * 2 ^ 48) ++ toLe 8 0 ++ toLe 8 2 }
def Tests.ctxWaiting : Ctx :=
  { id := 3, gen := 1, owner := 1, res := { state := .ready, wantSince := some 0 }, ring := some { addr := 0 },
    queues := [{ number := 0, tail := 1 }] }
def Tests.devWaiting : State := { Tests.devKeys with ctxs := [Tests.ctxWaiting] }
def Tests.devFull48 : State :=
  { Tests.devKeys with
      hub := { timer := 2 ^ 21 },
      ctxs := Tests.ctxIdle .resident :: { Tests.ctxWaiting with id := 60 } ::
      (List.range 47).map (fun i => { (Tests.ctxIdle .resident) with id := i + 10, res := { state := .resident, slot := some (i + 1) } }) }
def Tests.ctxLeaving : Ctx := { (Tests.ctxIdle .resident) with res := { state := .resident, slot := some 0, leaving := .suspend } }
def Tests.devLeaving : State := { Tests.devKeys with ctxs := [Tests.ctxLeaving] }
def Tests.ctxDoomed : Ctx := { (Tests.ctxIdle .suspended) with destroying := true }
def Tests.devDoomed : State := { Tests.devKeys with ctxs := [Tests.ctxDoomed] }

/-- Queues and records of one context. The record's image: header with the opcode, then the arguments. -/
def Tests.queueMsg : Msg :=
  { session := 1, tag := 5, ctx := 3, ctxGen := 1, length := 16, payload := toLe 4 (5 + 6 * 2 ^ 8) ++ toLe 8 4096 ++ toLe 4 2 }
def Tests.ctxIntake : Ctx :=
  { Tests.ctx0 with pages := [Tests.pageA], queues := [{ number := 0, tail := 1 }] }
def Tests.devIntake : State := { Tests.devPaged with ctxs := [Tests.ctxIntake] }
def Tests.waitRec (op : CmdOp) (args : Nat) : Rec := { seq := 0, image := toLe 64 op.code ++ toLe 64 args }
def Tests.runRec (op : CmdOp) (args : Nat) : Rec :=
  { seq := 0, image := toLe 64 op.code ++ toLe 64 args, phase := .running, core := some 0, leave := true, features := 1023 }
def Tests.qOf (r : Rec) : Queue :=
  if r.phase = .running then { number := 0, window := 1, home := some 0, genMode := true, tail := 2, head := 2, recs := [r] }
  else { number := 0, tail := 1, head := 1, recs := [r] }
def Tests.ctxOf (r : Rec) : Ctx := { Tests.ctx0 with queues := [Tests.qOf r] }
def Tests.devRun (r : Rec) : State := { Tests.devKeys with ctxs := [Tests.ctxOf r] }
def Tests.recFenced : Rec := { seq := 0, image := toLe 16 CmdOp.nop.code ++ toLe 112 0x10004 }
def Tests.recAdv : Rec := { seq := 0, image := toLe 64 (CmdOp.nop.code + 2 ^ 18 + 2 ^ 320) ++ toLe 64 0 }
def Tests.badSlot : ScaleSlot := { scaleExp := 0, fmt := 3 }
def Tests.devAdv : State :=
  { Tests.devPaged with ctxs := [{ (Tests.ctxOf Tests.recAdv) with pages := [Tests.pageA], scaleN := 2 }], mem := { hbmUse := [(0, .page)], cells := [(65, 3)] } }
def Tests.recLate : Rec := { seq := 0, image := toLe 16 (CmdOp.nop.code + 2 ^ 19) ++ toLe 112 0x10004, inVal := 5 }
def Tests.devLateRec : State :=
  { Tests.devKeys with ctxs := [{ (Tests.ctxOf Tests.recLate) with fences := [4] }], fences := [{ index := 4, gen := 1, value := 0 }] }
def Tests.recDone : Rec := { seq := 0, image := toLe 128 (CmdOp.nop.code + 2 ^ 17), phase := .ended .ok 7 0 true, tag := some 9 }
def Tests.devDone : State :=
  { (Tests.devRun Tests.recDone) with ledger := ({} : Ledger).issue 9 (.command 3 0 0 0) (some 3) none }
def Tests.rep (next : Nat) : RepeatRun := { seq := 1, count := 2, span := 1, stride := 8, next := next }
def Tests.qRepeat (next : Nat) : Queue :=
  { (Tests.qOf { (Tests.runRec .repeatOp 0) with seq := 1 }) with rep := some (Tests.rep next) }
def Tests.ctxRepeat (next : Nat) : Ctx := { Tests.ctx0 with pages := [Tests.pageA], queues := [Tests.qRepeat next] }
def Tests.devRepeat (next : Nat) : State := { Tests.devPaged with ctxs := [Tests.ctxRepeat next] }
def Tests.scaleWrite : ScaleWrite := { scaleExp := 130, fmt := 0, margin := 0, frozen := false, wmask := 1, clearHist := false }
def Tests.recScale : Rec := Tests.runRec .scaleSet (1 + 2 ^ 16 + 130 * 2 ^ 64 + 2 ^ 80)
def Tests.ctxScale : Ctx := { (Tests.ctxOf Tests.recScale) with pages := [Tests.pageA], scaleN := 2 }
def Tests.devScale : State := { Tests.devPaged with ctxs := [Tests.ctxScale] }
def Tests.fillArgs : Nat := 64 * 2 ^ 64 + 2 ^ 112 + 8 * 2 ^ 128 + 2 * 2 ^ 160 + 16 * 2 ^ 224 + 0x04030201 * 2 ^ 256
def Tests.copyArgs : Nat := 2 ^ 48 + 1024 * 2 ^ 64 + 2 ^ 112 + 4 * 2 ^ 128 + 2 * 2 ^ 160 + 16 * 2 ^ 192 + 4 * 2 ^ 224
def Tests.matArgs : Nat :=
  2 ^ 48 + 64 * 2 ^ 72 + (64 + 2 ^ 48 + 64 * 2 ^ 72) * 2 ^ 128 + (128 + 2 ^ 48 + 7 * 2 ^ 50 + 64 * 2 ^ 72) * 2 ^ 256
    + 2 ^ 384 + 2 ^ 408 + 2 ^ 432
def Tests.devMat : State :=
  { (Tests.devRun (Tests.runRec .matmul Tests.matArgs)) with mem := { cells := [(2 ^ 47, 0x38), (2 ^ 47 + 64, 0x40)] } }
def Tests.matJob : MatJob :=
  { g := (Tests.runRec .matmul Tests.matArgs).matArgs, a := [[0x38]], sa := [], b := [[0x40]], sb := [], slotExp := 0 }

/-- A chain of LD, PAK and ST over one BF16 element of the window, and the steps of its run. -/
def Tests.chainNat : Nat :=
  3 + 2 ^ 64 + 2 ^ 88 + 2 ^ 112 + 2 ^ 136 + (5 + 2 ^ 12) * 2 ^ (8 * 80) + 7 * 2 ^ (8 * 96)
    + (1024 + 2 ^ 48 + 5 * 2 ^ 50) * 2 ^ (8 * 320) + (1088 + 2 ^ 48 + 5 * 2 ^ 50) * 2 ^ (8 * 352)
def Tests.recVec : Rec := Tests.runRec .vector (2 ^ 48)
def Tests.devVec : State :=
  { (Tests.devRun Tests.recVec) with mem := { cells := cellsOf 0 (2 ^ 47) (toLe 896 Tests.chainNat) ++ [(2 ^ 47 + 1025, 0x40)] } }
def Tests.siteVec : Site := { ctx := 3, queue := 0, core := 0, ups := [] }
def Tests.chainVec : Chain := chainOf (toLe 896 Tests.chainNat)
def Tests.vec1 : State := (Tests.devVec.vecAdmit Tests.siteVec (Tests.ctxOf Tests.recVec) (Tests.qOf Tests.recVec) Tests.recVec).1
def Tests.vec2 : State × Option Flow :=
  let l := Tests.vec1.loadLevel Tests.siteVec Tests.chainVec [] Tests.chainVec.stages
    { xs := Tests.chainVec.start, draws := (Tests.ctxOf Tests.recVec).drawsOn 0 }
  (l.1, l.2.toOption.map (fun fl0 => runStages Tests.chainVec [] false 0 Tests.chainVec.stages fl0))
def Tests.flowVec : Flow := Tests.vec2.2.getD { xs := [], draws := (Tests.ctxOf Tests.recVec).drawsOn 0 }
def Tests.vec3 : State × Option (Overlay × List (Nat × Nat × Bytes) × Flags) :=
  let l := Tests.vec2.1.applyItems Tests.siteVec Tests.chainVec (sortBy (fun (i : Item) => i.key) Tests.flowVec.items.reverse) ([], [], .none)
  (l.1, l.2.toOption)
def Tests.vecOut : Overlay × List (Nat × Nat × Bytes) × Flags := Tests.vec3.2.getD ([], [], .none)
def Tests.vec4 : State :=
  (Tests.vec3.1.putWrites Tests.siteVec (joinWrites (sortBy (fun w => w.1 * 2 ^ 64 + w.2.1)
    (Tests.vecOut.2.1 ++ Tests.vecOut.1.flatMap (fun o => pairWrites (Tests.chainVec.stream o.1) o.2.1 o.2.2))))).1

/-- Fences, grants and placement. -/
def Tests.fence4 : Fence := { index := 4, gen := 1, value := 2, key := some 9 }
def Tests.ctxFenced : Ctx := { Tests.ctx0 with fences := [4] }
def Tests.devFenced : State := { Tests.devBusy with ctxs := [Tests.ctxFenced], fences := [Tests.fence4] }
def Tests.devUnref : State := { Tests.devFenced with ctxs := [Tests.ctx0, { Tests.ctx0 with id := 9, fences := [4] }] }
def Tests.msg3 (n : Nat) (bs : Bytes) : Msg := { session := 1, tag := 5, ctx := 3, ctxGen := 1, length := n, payload := bs }
def Tests.devFenceWaiting : State :=
  { Tests.devFenced with
      hub := { timer := 9 }, ledger := ({} : Ledger).issue 12288 (.fenceWait 1 6) (some 3) (some 9),
      waits := [{ session := 1, sgen := 0, opcode := .fenceWait, tag := 6, ctx := 3, ctxGen := 1, what := .fence 4 7 12288 }] }
def Tests.ctxGranted : Ctx := { (Tests.ctxIdle .resident) with limits := { localMax := 4, sramMax := 2 }, pages := [Tests.pageA] }
def Tests.devGranted : State := { Tests.devPaged with ctxs := [Tests.ctxGranted] }
def Tests.objectX : Share := { index := 0, gen := 1, key := 6, ctx := 9, pages := [{ first := 40, mirror := some 41 }], maps := [(9, 0)] }
def Tests.devObject : State := { Tests.devGranted with shares := [Tests.objectX] }
def Tests.hotPage : Page := { Tests.pageA with heat := [40, 0, 0, 0, 0, 0] }
def Tests.ctxHot : Ctx := { Tests.ctxGranted with pages := [Tests.hotPage] }
def Tests.devWarm : State := { Tests.devGranted with ctxs := [Tests.ctxHot], hub := { timer := 2 ^ 18 } }
def Tests.hotMove : Move := { ctx := 3, va := 0, dest := 2 ^ 23, reason := .pin, keyId := 0, paid := true, going := true }
/-- Nine pages, whose promotions into tile 0 are asked for: eight are in flight. -/
def Tests.ctxNine : Ctx := { Tests.ctxHot with pages := (List.range 9).map (fun i => { va := i, hbm := some i }) }
def Tests.devNine : State :=
  { Tests.devWarm with
    ctxs := [Tests.ctxNine]
    moves := (List.range 9).map (fun i =>
      { ctx := 3, va := i, dest := 2 ^ 23 + i, reason := .heat, keyId := 0, tile := 0, paid := true, going := decide (i < 8) }) }
def Tests.devMoving : State :=
  { Tests.devWarm with mem := { hbmUse := [(0, .page)], tierUse := [2 ^ 23], cells := [(5, 7)] }, moves := [Tests.hotMove] }
def Tests.devRecords : State :=
  { Tests.devGranted with
      life := { mode := .openMode, opKey := some [9] }, hub := { timer := 2 ^ 28 },
      ctxs := [{ Tests.ctxGranted with period := { records := [[1], [2]], lost := 3 } }], logs := { moves := [[4], [5]], movesLost := 6 } }
def Tests.recUsing : Rec := { (Tests.runRec .fill (2 ^ 64 + 4 * 2 ^ 128 + 2 ^ 160 + 4 * 2 ^ 224)) with dispatched := true }
def Tests.ctxUsing : Ctx := { Tests.ctxGranted with queues := [Tests.qOf Tests.recUsing] }
def Tests.devUsing : State := { Tests.devGranted with ctxs := [Tests.ctxUsing] }

/-- Groups of one and of two members on a switched plane, and instances of SEND and RECV. -/
def Tests.groupOne : Group := { ctx := 3, ctxGen := 1, id := 7, gen := 1, members := [0], rank := 0, tmo := 1, state := .live }
def Tests.groupTwo : Group := { Tests.groupOne with members := [0, 1] }
def Tests.plane (gs : List Group) (is : List Inst) : Links :=
  { sizeM1 := 3, ports := { mode := 2, isUp := true } :: List.replicate 15 {}, channels := [{ port := 0, peer := 1, keyed := true }], routes := [(1, 0, 1)],
    groups := gs, insts := is }
def Tests.collArg (k : Nat) : Nat := k + 0x7700 + 7 * 2 ^ 16 + 2 ^ 32 + 64 * 2 ^ 64 + 128 * 2 ^ 128 + 2 ^ 192
def Tests.recColl (k : Nat) : Rec := Tests.runRec .collective (Tests.collArg k)
def Tests.ctxColl (k : Nat) : Ctx := { (Tests.ctxOf (Tests.recColl k)) with pages := [Tests.pageA] }
def Tests.devColl (k : Nat) (g : Group) : State :=
  { Tests.devPaged with ctxs := [Tests.ctxColl k], mem := { hbmUse := [(0, .page)], cells := [(64, 1)] }, links := Tests.plane [g] [] }
def Tests.inst (k step : Nat) (sending : List Sending) : Inst :=
  { ctx := 3, group := 7, gen := 1, inst := 1, args := Tests.collArg k, rank := 0, members := [0, 1], tag := 12288, deadline := 9,
    step := step, sending := sending, acc := [1, 0, 0, 0] }
def Tests.devInst (k step : Nat) (sending : List Sending) : State :=
  { Tests.devColl k Tests.groupTwo with
      hub := { timer := 2 ^ 18 }, links := Tests.plane [{ Tests.groupTwo with nextInst := 2 }] [Tests.inst k step sending],
      ledger := ({} : Ledger).issue 12288 (.instance_ 3 7 1) (some 3) (some 9) }
def Tests.from1 (iop : Nat) (i : Inner) : Delivered := { src := 1, inner := { i with iop := iop, group := 7, gen := 1, rank := 1 } }
def Tests.forming : Group := { Tests.groupTwo with state := .forming, form := 5 }
def Tests.devForming : State :=
  { Tests.devColl 0 Tests.forming with
      hub := { timer := 2 ^ 20 },
      waits := [{ session := 1, sgen := 0, opcode := .groupCreate, tag := 6, ctx := 3, ctxGen := 1, what := .group 7 }] }
def Tests.groupMsg (n end_ : Nat) : Msg := Tests.msg3 32 (toLe 4 (8 + 65536 + 2 ^ 24 * end_) ++ toLe 4 n ++ toLe 8 64 ++ toLe 16 1)
def Tests.groupThree : Group := { Tests.groupTwo with members := [0, 1, 2], nextInst := 2 }
def Tests.instVote : Inst := { (Tests.inst 0 0 []) with stage := 2, members := [0, 1, 2] }
def Tests.devVote : State := { (Tests.devInst 0 0 []) with links := Tests.plane [Tests.groupThree] [Tests.instVote] }

/-- Leases held and lent, and transfers. -/
def Tests.lease0 : Lease := { slot := 0, id := 1, gen := 1, lender := 1, ctx := 3, probe := some 0 }
def Tests.lentPage : Page := { va := 0, lease := some (2 ^ 25) }
def Tests.lent1 : Lent := { id := 1, gen := 1, borrower := 1, guest := 8, frames := [50, 51], keyed := true, peerKey := [7], hash := [6] }
def Tests.devLease : State :=
  { Tests.devPaged with
      hub := { timer := 2 ^ 24 + 9 }, ctxs := [{ Tests.ctx0 with pages := [Tests.lentPage] }],
      links := { (Tests.plane [] []) with leases := [Tests.lease0] },
      ledger := ({} : Ledger).issue 12288 (.transfer 3 0 0) (some 3) (some 9) }
def Tests.devLate2 : State := { Tests.devLease with ledger := Tests.devLease.ledger.expire 12288 9 }
def Tests.devLent : State :=
  { Tests.devPaged with
      links := { (Tests.plane [] []) with lent := [Tests.lent1], lends := true },
      vault := { bank := [Tests.bank0, { ctx := 8, gen := 1, limit := 2 ^ 56 - 1 }] },
      hub := { signatures := [{ key := [7], text := [6], sig := List.replicate 114 3 }] },
      mem := { hbmUse := [(50, .lent 1), (51, .lent 1)], cells := [(50 * 2097152, 5)] } }
def Tests.askMsg : Msg := { length := 1688, payload := List.replicate 1685 0 ++ [1, 0, 0] }
def Tests.askOpen : Ask := { lender := 1, ctx := 3, seed := List.replicate 120 1, first := [4] }
def Tests.offerSecond : Bytes := List.replicate 1686 2
def Tests.devAsks : State :=
  { Tests.devPaged with
      links := { (Tests.plane [] []) with asks := [Tests.askOpen] },
      hub := { signatures := [{ key := slice Tests.offerSecond 1624 57, text := leaseHash [4] Tests.offerSecond 1 1, sig := List.replicate 114 3 }] } }

/-- Ports and channels: a direct port to device 1 with a key, one in training, and messages. -/
def Tests.chan1 : Channel := { port := 0, peer := 1, keyed := true }
def Tests.sent0 : RSent := { hdr := {}, outer := { cls := 2, dst := 1 }, inner := { iop := 3 } }
def Tests.busyChan : Channel := { Tests.chan1 with unacked := [Tests.sent0], txSeq := 1, rxUnacked := 2 }
def Tests.directLinks (c : Channel) : Links :=
  { sizeM1 := 3, ports := { mode := 1, isUp := true, peer := some 1 } :: { mode := 1, training := some 0 } :: List.replicate 14 {}, channels := [c] }
def Tests.devDirect (c : Channel) : State := { Tests.dev with links := Tests.directLinks c, hub := { timer := 2 ^ 13 } }
def Tests.devSwitched : State := { Tests.dev with links := { (Tests.plane [] []) with channels := [Tests.busyChan] }, hub := { timer := 2 ^ 13 } }
def Tests.linkMsg : Msg := { tag := 5, length := 32, payload := toLe 32 (7 + 3 * 2 ^ 16 + 9 * 2 ^ 32 + 2 ^ 148 + 5 * 2 ^ 176 + 1 * 2 ^ 192) }
def Tests.outer1 : Outer := { cls := 2, src := 1, hop := 1 }
def Tests.kxFirst : Bytes := List.replicate 1685 0 ++ [1, 0, 0]

/-- The optimiser: a table of one record at 0 of page 0, its planes at 0x3000, the gradient at 0x2000, the norm at 0x1000. -/
def Tests.paramNat : Nat :=
  0x2000 + 3 * 2 ^ 56 + 2 ^ 60 + 0x3000 * 2 ^ 64 + 0x40 * 2 ^ 128 + 2 ^ 160 + 0x3080 * 2 ^ 192 + 0x3F800000 * 2 ^ 384 + 0xC000 * 2 ^ 448
    + 0x4000 * 2 ^ 464 + 0x00000001000000010000000100000001 * 2 ^ 576 + 0x00000001000000010000000100000001 * 2 ^ 832
def Tests.param1 : Param := paramOf (toLe 128 Tests.paramNat)
def Tests.paramIced : Param := paramOf (toLe 128 (Tests.paramNat + 2 ^ 62))
def Tests.optPayload (update records : Nat) : Bytes :=
  toLe 96 (update * 2 ^ 48 + records * 2 ^ 88 + 0x1000 * 2 ^ 320 + 2 ^ 384 + 0x3F000000 * 2 ^ 416 + 0x3F800000 * 2 ^ 512 + 0x40000000 * 2 ^ 576
    + 0x3F800000 * 2 ^ 608)
def Tests.optReq (update records : Nat) : OptReq := { session := 1, tag := 6, kind := update, payload := Tests.optPayload update records }
def Tests.ctxOpt (o : OptReq) : Ctx := { (Tests.ctxIdle .resident) with pages := [Tests.pageA], opt := [o] }
def Tests.devOpt (p : Nat) (o : OptReq) : State :=
  { Tests.devPaged with
      ctxs := [Tests.ctxOpt o],
      waits := [{ session := 1, sgen := 0, opcode := if o.kind = 2 then .paramExport else .optStep, tag := 6, ctx := 3, ctxGen := 1, what := .opt }],
      mem := { hbmUse := [(0, .page)],
               cells := cellsOf 0 0 (toLe 128 p) ++ [(0x2001, 0x40#8), (0x3001, 0x40#8)] } }
def Tests.exportReq (records : Nat) : OptReq :=
  { session := 1, tag := 6, kind := 2, payload := toLe 48 (2 * 2 ^ 48 + records * 2 ^ 88 + 0x4000 * 2 ^ 128 + 0x1000 * 2 ^ 192 + 7 * 2 ^ 288) }
def Tests.ctxBack : Ctx := { (Tests.ctxIdle .resident) with queues := [{ number := 0 }, { number := 1 }] }
def Tests.ctxBound : Ctx := { Tests.ctxBack with backfill := [{ queue := 0, leads := [1], bound := 2 ^ 24 }] }

/-- Checkpoints: a store of two pages at pages 1 and 2. -/
def Tests.ckptPayload : Bytes := toLe 32 (1 + pageSize * 2 ^ 32 + 2 * 2 ^ 96 + 1 * 2 ^ 128 + 2 * 2 ^ 192 + 2 ^ 224) ++ List.replicate 32 7
def Tests.ctxStore (k : Ckpt) : Ctx := { (Tests.ctxIdle .resident) with pages := [{ va := 1, hbm := some 1 }, { va := 2, hbm := some 2 }], ckpt := k }
def Tests.ckpt (stage : Nat) : Ckpt := { cfg := Tests.ckptPayload, stage := stage, genNow := if stage = 0 then 0 else 4, nextGen := 5 }
def Tests.devCkpt (stage : Nat) : State :=
  { Tests.devKeys with
      hub := { timer := 2 ^ 28 }, ctxs := [Tests.ctxStore (Tests.ckpt stage)], mem := { hbmUse := [(1, .page), (2, .page)] },
      waits := [{ session := 1, sgen := 0, opcode := .ckptNow, tag := 6, ctx := 3, ctxGen := 1, what := .ckpt 4 }] }

/-- A consortium context of two owners, a session that has joined as owner 0, and its program page. -/
def Tests.pol : Policy :=
  { nOwners := 2, quorum := 1, dpRequired := false, dpSigmaMin := 0, dpStepMax := 0, jobId := 0, progAddr := 0, progPages := 0,
    owners := [List.replicate 57 1, List.replicate 57 2], windows := [{ va := 0, pages := 1, kind := 0, owner := 0 }], templates := [],
    hash := List.replicate 64 3, jobKey := List.replicate 32 4 }
def Tests.ctxCons (p : Option Policy) : Ctx := { Tests.ctxPaged with consortium := true, policy := p, owner := 0, joined := [(1, 0, 0)] }
-- digests written out: of the texts that R377, R381 and R374 sign
def Tests.joinText : Bytes := toLe 64 0x97b2f0617e86de850f9cd5553f6a6d6baa76fb3cb54a6eca79168be911b59cdf48bb7e45e72ce28574405300279a401bb3521765a91ab89fbdea098f8874c732
def Tests.signText : Bytes := toLe 64 0x93be535986312d89659b6e9c62efcaaad956d601375b0895b49c5e692217fc08890914b9a2b11d9ff7ab12aad29d04fe752cdd9528b8f4afb2fef68deecad9bd
def Tests.policyDoc : Bytes :=
  toLe 4 0x504C4359 ++ [1, 2, 1, 0] ++ toLe 16 0 ++ toLe 64 0xbec4b7b3ac2e294086b49a47491c82fcf692b5679d0105cb00f2c0d8ddc45dd72f76d56e64270cb5821bb862ea52cd3f24eb3e74eb3f3b23138da80b2bddb946 ++ toLe 8 0 ++ toLe 4 0 ++ [1, 0] ++ List.replicate 26 0
    ++ List.replicate 57 1 ++ List.replicate 7 0 ++ List.replicate 57 2 ++ List.replicate 7 0 ++ (toLe 8 0 ++ toLe 24 1)
def Tests.docHash : Bytes := toLe 64 0x6b5c7a222b132d47d5eff1b9e20ef82801b9b845a0926406ceb930cb9211368976cf69381b70590b165a509bc1496f7da1a4296772558baa39ab4a7b819f8639
def Tests.policyMsg : Msg :=
  { session := 1, tag := 5, ctx := 3, ctxGen := 1, length := 544,
    payload := Tests.policyDoc ++ List.replicate 114 5 ++ List.replicate 14 0 ++ List.replicate 114 5 ++ List.replicate 14 0 }
def Tests.devCons (p : Option Policy) : State :=
  { Tests.devPaged with
      ctxs := [Tests.ctxCons p],
      hub := { signatures := [{ key := List.replicate 57 1, text := Tests.joinText, sig := List.replicate 114 5 },
                              { key := List.replicate 57 2, text := Tests.joinText, sig := List.replicate 114 5 },
                              { key := List.replicate 57 1, text := Tests.signText, sig := List.replicate 114 5 },
                              { key := List.replicate 57 1, text := Tests.docHash, sig := List.replicate 114 5 },
                              { key := List.replicate 57 2, text := Tests.docHash, sig := List.replicate 114 5 }] } }
def Tests.ctxCoord : Ctx := { Tests.ctxPaged with consortium := true, owner := 1 }
def Tests.relMsg (op number : Nat) : Msg := Tests.msg3 16 (toLe 16 (op + number * 2 ^ 32))
/-- Cores under test. -/
def Tests.devTest (t : TestState) (c : Core) : State := { Tests.dev with hub := { timer := 2 ^ 40 }, cores := [c, {}], test := t }

/-! ### WellFormed: for each check a term that fails it alone, and for each constructor with checks one that passes -/

def Tests.badUpset : List Upset := [.sram (2 ^ 48) true]
def Tests.ill1 : List Instr :=
  [.vcoreUndervoltage 6,
   .thermalBrakeComparator 6 default,
   .thermTripComparator 45 default,
   .stackTempReport 12 none,
   .samplePeriod {},
   .avsbusSilent 6,
   .voltageConfirmed 6 0,
   .leaveGrant (.tile 6),
   .pacingWindow (.tile 6),
   .hbmTrainIdle 12,
   .hello { session := 256 } {} [],
   .keyExchangeOpen { ctx := 4096 },
   .keyExchangeRekey { ctx := 4096 },
   .features { ctx := 4096 },
   .attest { ctx := 4096 },
   .heartbeat { ctx := 4096 },
   .eventAnswer { ctx := 4096 },
   .eventSend 256 none,
   .eventResendTimeout 256 0,
   .linkConfig { ctx := 4096 },
   .hostConfig { ctx := 4096 },
   .ctxCreate { ctx := 4096 },
   .ctxDestroy { ctx := 4096 },
   .destroyDrainDone 4096,
   .ctxReset { ctx := 4096 },
   .teardownDone 4096,
   .ctxSuspend { ctx := 4096 },
   .ctxResumeReady { ctx := 4096 } [],
   .ctxResumeReady {} Tests.badUpset,
   .ctxResumeResume { ctx := 4096 },
   .ctxResumeAssign { ctx := 4096 },
   .slotAdmit 4096,
   .rotateOut 4096,
   .residencyExitDone 4096,
   .optStepPrepare { ctx := 4096 } [],
   .optStepPrepare {} Tests.badUpset,
   .optStepUpdate { ctx := 4096 } [],
   .optStepUpdate {} Tests.badUpset,
   .optStepRun 4096 0 [],
   .optStepRun 0 0 Tests.badUpset]
theorem test_wf_refuses_1 : Tests.ill1.all (fun c => !c.wf) = true := by decide +kernel
def Tests.ill2 : List Instr :=
  [.paramExport { ctx := 4096 } [],
   .paramExport {} Tests.badUpset,
   .paramExportRun 4096 0 [],
   .paramExportRun 0 0 Tests.badUpset,
   .mapGrantMap { ctx := 4096 },
   .mapGrantLimits { ctx := 4096 },
   .mapGrantPublish { ctx := 4096 },
   .mapGrantAttach { ctx := 4096 },
   .unmap { ctx := 4096 },
   .pageHint { ctx := 4096 },
   .regulate { ctx := 4096 },
   .placeLogAggregate { ctx := 4096 },
   .placeLogMoves { ctx := 4096 },
   .queueCreate { ctx := 4096 },
   .queueDestroy { ctx := 4096 },
   .doorbellInline { ctx := 4096 } [],
   .doorbellInline {} Tests.badUpset,
   .doorbellRing { ctx := 4096 },
   .recordIntake 4096 0 [],
   .recordIntake 0 64 [],
   .recordIntake 0 0 Tests.badUpset,
   .commandDispatch 4096 0 [],
   .commandDispatch 0 64 [],
   .commandDispatch 0 0 Tests.badUpset,
   .fenceInTimeout 4096 0,
   .fenceInTimeout 0 64,
   .commandComplete 0 64 0 0 [],
   .commandComplete 0 0 0 0 Tests.badUpset,
   .nop 0 64 0 0,
   .matmul 0 64 0 0 [],
   .matmul 0 0 0 0 Tests.badUpset,
   .vector 0 64 0 0 [],
   .vector 0 0 0 0 Tests.badUpset,
   .copy 0 64 0 0 [],
   .copy 0 0 0 0 Tests.badUpset,
   .fill 0 64 0 0 [],
   .fill 0 0 0 0 Tests.badUpset,
   .scaleSet 0 64 0 0 [],
   .scaleSet 0 0 0 0 Tests.badUpset,
   .repeatCmd 0 64 0 0 []]
theorem test_wf_refuses_2 : Tests.ill2.all (fun c => !c.wf) = true := by decide +kernel
def Tests.ill3 : List Instr :=
  [.repeatCmd 0 0 0 0 Tests.badUpset,
   .repeatIteration 4096 0 [],
   .repeatIteration 0 64 [],
   .repeatIteration 0 0 Tests.badUpset,
   .collectiveAllReduce 0 64 0 0 [],
   .collectiveAllReduce 0 0 0 0 Tests.badUpset,
   .collectiveReduceScatter 0 64 0 0 [],
   .collectiveReduceScatter 0 0 0 0 Tests.badUpset,
   .collectiveAllGather 0 64 0 0 [],
   .collectiveAllGather 0 0 0 0 Tests.badUpset,
   .collectiveReduce 0 64 0 0 [],
   .collectiveReduce 0 0 0 0 Tests.badUpset,
   .collectiveBroadcast 0 64 0 0 [],
   .collectiveBroadcast 0 0 0 0 Tests.badUpset,
   .collectiveNorm 0 64 0 0 [],
   .collectiveNorm 0 0 0 0 Tests.badUpset,
   .collectiveSend 0 64 0 0 [],
   .collectiveSend 0 0 0 0 Tests.badUpset,
   .collectiveRecv 0 64 0 0 [],
   .collectiveRecv 0 0 0 0 Tests.badUpset,
   .collectiveTimeout 4096 0 0,
   .collectiveTimeout 0 65536 0,
   .collectiveTimeout 0 0 4294967296,
   .contributionResendTimeout 4096 0 0 0,
   .contributionResendTimeout 0 65536 0 0,
   .contributionResendTimeout 0 0 4294967296 0,
   .contributionResendTimeout 0 0 0 65536,
   .chunk { src := 65536 },
   .ready { src := 65536 },
   .ack { src := 65536 },
   .retry { src := 65536 },
   .rtally { src := 65536 },
   .abort { src := 65536 },
   .xread { src := 65536 },
   .xwrite { src := 65536 },
   .xresp { src := 65536 },
   .transferResponse 16384 0 [],
   .transferResponse 0 256 [],
   .transferTimeout 16384,
   .ledgerQuarantineEnd 16384]
theorem test_wf_refuses_3 : Tests.ill3.all (fun c => !c.wf) = true := by decide +kernel
def Tests.ill4 : List Instr :=
  [.leaseProbeTimeout 65536,
   .linkKx { src := 65536 },
   .channelKeyExchange 16 0,
   .channelKeyExchange 0 65536,
   .rasoviLinkFrame { ver := 16 } {},
   .rasoviLinkFrame {} { ce := 65536 },
   .rasoviFrameReceive { ver := 16 } {},
   .rasoviFrameReceive {} { gen := 256 },
   .rasoviAckTimer 16 0,
   .rasoviAckTimer 0 65536,
   .rasoviReplayTimeout 16 0,
   .rasoviReplayTimeout 0 65536,
   .switchedRetransmitTimeout 16 0,
   .switchedRetransmitTimeout 0 65536,
   .portTrainDone 16 (List.replicate 8 true) 0 true true,
   .portTrainDone 0 [] 0 true true,
   .serdesReplace 2 0 0,
   .portMap 65536 {},
   .portMap 0 { ctx := 4096 },
   .groupCreate { ctx := 4096 } [],
   .groupCreate {} Tests.badUpset,
   .groupDestroy { ctx := 4096 },
   .groupFormTimeout 4096 0,
   .groupFormTimeout 0 65536,
   .backfillBind { ctx := 4096 },
   .backfillUnbind { ctx := 4096 },
   .fenceCreate { ctx := 4096 },
   .fenceExport { ctx := 4096 },
   .fenceImport { ctx := 4096 },
   .fenceSignal { ctx := 4096 },
   .fenceWait { ctx := 4096 },
   .fenceWaitTimeout 16384,
   .fenceDestroy { ctx := 4096 },
   .bulkIn { ctx := 4096 } [],
   .bulkIn {} Tests.badUpset,
   .bulkOut { ctx := 4096 } [],
   .bulkOut {} Tests.badUpset,
   .ckptConfig { ctx := 4096 },
   .ckptNow { ctx := 4096 },
   .ckptTimerTrigger 4096]
theorem test_wf_refuses_4 : Tests.ill4.all (fun c => !c.wf) = true := by decide +kernel
def Tests.ill5 : List Instr :=
  [.ckptCut 4096,
   .ckptDrainTimeout 4096,
   .ckptWriteDone 4096 [],
   .ckptWriteDone 0 Tests.badUpset,
   .ckptRestoreWhole { ctx := 4096 } [],
   .ckptRestoreWhole {} Tests.badUpset,
   .ckptRestoreReslice { ctx := 4096 } [],
   .ckptRestoreReslice {} Tests.badUpset,
   .ckptVerify { ctx := 4096 } [],
   .ckptVerify {} Tests.badUpset,
   .policyLoad { ctx := 4096 } [],
   .policyLoad {} Tests.badUpset,
   .ownerJoin { ctx := 4096 },
   .quorumSign { ctx := 4096 },
   .releasePropose { ctx := 4096 },
   .releaseFetch { ctx := 4096 },
   .releaseWithdraw { ctx := 4096 },
   .keyLoad { ctx := 4096 },
   .keyDerive { ctx := 4096 },
   .keyDestroy { ctx := 4096 },
   .errRead { ctx := 4096 },
   .telemetry { ctx := 4096 },
   .testConfigDevice { ctx := 4096 },
   .testConfigAudit { ctx := 4096 } [],
   .testConfigAudit {} Tests.badUpset,
   .powerConfig { ctx := 4096 },
   .lcRead { ctx := 4096 },
   .lcAdvance { ctx := 4096 } .whole,
   .lcAdvance {} (.badCopy 3 0),
   .lcEnrol { ctx := 4096 },
   .debugCert { ctx := 4096 },
   .debugChallengeNonce { ctx := 4096 },
   .debugChallengeResponse { ctx := 4096 },
   .fwStage { ctx := 4096 },
   .fwActivate { ctx := 4096 },
   .quekoDataFrame { ver := 16 } {},
   .quekoDataFrame {} { slen := 1 },
   .quekoAckFrame { ver := 16 } {},
   .quekoAckFrame {} { ce := 65536 },
   .quekoAckTimer 256]
theorem test_wf_refuses_5 : Tests.ill5.all (fun c => !c.wf) = true := by decide +kernel
def Tests.ill6 : List Instr :=
  [.quekoRetransmitTimeout 256,
   .close { ver := 16 } {},
   .close {} { slen := 1 },
   .heartbeatLoss 256,
   .handshakeTimeout 256,
   .keyRotate 256 true,
   .keyRotateRepeat 256 true,
   .i3cPrivateWrite [] (.badCopy 3 0),
   .placementReview 4096,
   .pageMoveSwitch 4096 0,
   .pageMoveSwitch 0 134217728,
   .lendBeaconSend 101,
   .lendBeacon 65536 {},
   .lendBeacon 0 { ctx := 4096 },
   .lendAsk 65536 {},
   .lendAsk 0 { ctx := 4096 },
   .lendOffer 65536 {},
   .lendOffer 0 { ctx := 4096 },
   .lendRelease 65536 {},
   .lendRelease 0 { ctx := 4096 },
   .optShip 65536 {},
   .optShip 0 { ctx := 4096 },
   .optClip 65536 {},
   .optClip 0 { ctx := 4096 },
   .optReturn 65536 {},
   .optReturn 0 { ctx := 4096 },
   .ctrlMsg { src := 65536 },
   .hbmWriteDrain 12 0,
   .hbmWriteDrain 0 64,
   .patrolScrub 96 true 0 true,
   .fieldTestStart 96,
   .fieldTestResult 96 {},
   .testOverdue 96,
   .aggregateRecordClose 4096,
   .i3cAddressAssign none 128]
theorem test_wf_refuses_6 : Tests.ill6.all (fun c => !c.wf) = true := by decide +kernel
def Tests.well1 : List Instr :=
  [.vcoreUndervoltage 0,
   .thermalBrakeComparator 0 default,
   .thermTripComparator 0 default,
   .stackTempReport 0 none,
   .samplePeriod ({ tiles := List.replicate 6 {}, links := [none, none] }),
   .avsbusSilent 0,
   .voltageConfirmed 0 0,
   .leaveGrant (.tile 0),
   .pacingWindow (.tile 0),
   .hbmTrainIdle 0,
   .hello {} {} [],
   .keyExchangeOpen {},
   .keyExchangeRekey {},
   .features {},
   .attest {},
   .heartbeat {},
   .eventAnswer {},
   .eventSend 0 none,
   .eventResendTimeout 0 0,
   .linkConfig {},
   .hostConfig {},
   .ctxCreate {},
   .ctxDestroy {},
   .destroyDrainDone 0,
   .ctxReset {},
   .teardownDone 0,
   .ctxSuspend {},
   .ctxResumeReady {} [],
   .ctxResumeResume {},
   .ctxResumeAssign {},
   .slotAdmit 0,
   .rotateOut 0,
   .residencyExitDone 0,
   .optStepPrepare {} [],
   .optStepUpdate {} [],
   .optStepRun 0 0 [],
   .paramExport {} [],
   .paramExportRun 0 0 [],
   .mapGrantMap {},
   .mapGrantLimits {},
   .mapGrantPublish {},
   .mapGrantAttach {},
   .unmap {},
   .pageHint {},
   .regulate {},
   .placeLogAggregate {},
   .placeLogMoves {},
   .queueCreate {},
   .queueDestroy {},
   .doorbellInline {} [],
   .doorbellRing {},
   .recordIntake 0 0 [],
   .commandDispatch 0 0 [],
   .fenceInTimeout 0 0,
   .commandComplete 0 0 0 0 [],
   .nop 0 0 0 0,
   .matmul 0 0 0 0 [],
   .vector 0 0 0 0 [],
   .copy 0 0 0 0 [],
   .fill 0 0 0 0 []]
theorem test_wf_accepts_1 : Tests.well1.all Instr.wf = true := by decide +kernel
def Tests.well2 : List Instr :=
  [.scaleSet 0 0 0 0 [],
   .repeatCmd 0 0 0 0 [],
   .repeatIteration 0 0 [],
   .collectiveAllReduce 0 0 0 0 [],
   .collectiveReduceScatter 0 0 0 0 [],
   .collectiveAllGather 0 0 0 0 [],
   .collectiveReduce 0 0 0 0 [],
   .collectiveBroadcast 0 0 0 0 [],
   .collectiveNorm 0 0 0 0 [],
   .collectiveSend 0 0 0 0 [],
   .collectiveRecv 0 0 0 0 [],
   .collectiveTimeout 0 0 0,
   .contributionResendTimeout 0 0 0 0,
   .chunk {},
   .ready {},
   .ack {},
   .retry {},
   .rtally {},
   .abort {},
   .xread {},
   .xwrite {},
   .xresp {},
   .transferResponse 0 0 [],
   .transferTimeout 0,
   .ledgerQuarantineEnd 0,
   .leaseProbeTimeout 0,
   .linkKx {},
   .channelKeyExchange 0 0,
   .rasoviLinkFrame {} {},
   .rasoviFrameReceive {} {},
   .rasoviAckTimer 0 0,
   .rasoviReplayTimeout 0 0,
   .switchedRetransmitTimeout 0 0,
   .portTrainDone 0 (List.replicate 8 true) 0 true true,
   .serdesReplace 0 0 0,
   .portMap 0 {},
   .groupCreate {} [],
   .groupDestroy {},
   .groupFormTimeout 0 0,
   .backfillBind {},
   .backfillUnbind {},
   .fenceCreate {},
   .fenceExport {},
   .fenceImport {},
   .fenceSignal {},
   .fenceWait {},
   .fenceWaitTimeout 0,
   .fenceDestroy {},
   .bulkIn {} [],
   .bulkOut {} [],
   .ckptConfig {},
   .ckptNow {},
   .ckptTimerTrigger 0,
   .ckptCut 0,
   .ckptDrainTimeout 0,
   .ckptWriteDone 0 [],
   .ckptRestoreWhole {} [],
   .ckptRestoreReslice {} [],
   .ckptVerify {} [],
   .policyLoad {} []]
theorem test_wf_accepts_2 : Tests.well2.all Instr.wf = true := by decide +kernel
def Tests.well3 : List Instr :=
  [.ownerJoin {},
   .quorumSign {},
   .releasePropose {},
   .releaseFetch {},
   .releaseWithdraw {},
   .keyLoad {},
   .keyDerive {},
   .keyDestroy {},
   .errRead {},
   .telemetry {},
   .testConfigDevice {},
   .testConfigAudit {} [],
   .powerConfig {},
   .lcRead {},
   .lcAdvance {} .whole,
   .lcEnrol {},
   .debugCert {},
   .debugChallengeNonce {},
   .debugChallengeResponse {},
   .fwStage {},
   .fwActivate {},
   .quekoDataFrame {} {},
   .quekoAckFrame {} {},
   .quekoAckTimer 0,
   .quekoRetransmitTimeout 0,
   .close {} {},
   .heartbeatLoss 0,
   .handshakeTimeout 0,
   .keyRotate 0 true,
   .keyRotateRepeat 0 true,
   .i3cPrivateWrite [] .whole,
   .placementReview 0,
   .pageMoveSwitch 0 0,
   .lendBeaconSend 0,
   .lendBeacon 0 {},
   .lendAsk 0 {},
   .lendOffer 0 {},
   .lendRelease 0 {},
   .optShip 0 {},
   .optClip 0 {},
   .optReturn 0 {},
   .ctrlMsg {},
   .hbmWriteDrain 0 0,
   .patrolScrub 0 true 0 true,
   .fieldTestStart 0,
   .fieldTestResult 0 {},
   .testOverdue 0,
   .aggregateRecordClose 0,
   .i3cAddressAssign none 0]
theorem test_wf_accepts_3 : Tests.well3.all Instr.wf = true := by decide +kernel
theorem test_wf_Msg : ([{ session := 256 }, { rsvd := 73786976294838206464 }, { ctx := 4096 }, { ctxGen := 65536 }, { tag := 4294967296 }, { length := 4294967296 }, { status := 65536 }, { arg0 := 18446744073709551616 }] : List Msg).all (fun x => !x.wf) = true := by decide +kernel
theorem test_wf_QFrame : ([{ ver := 16 }, { session := 256 }, { sgen := 256 }, { seq := 18446744073709551616 }, { rsvd := 549755813888 }] : List QFrame).all (fun x => !x.wf) = true := by decide +kernel
theorem test_wf_Segment : ([{ msg := 4294967296 }, { off := 65536 }, { slen := 16384 }, { rsvd := 36893488147419103232 }, { slen := 1 }] : List Segment).all (fun x => !x.wf) = true := by decide +kernel
theorem test_wf_AckBody : ([{ ack := 18446744073709551616 }, { sack := 18446744073709551616 }, { window := 65536 }, { ce := 65536 }, { rsvd := 79228162514264337593543950336 }] : List AckBody).all (fun x => !x.wf) = true := by decide +kernel
theorem test_wf_Outer : ([{ port := 16 }, { ver := 16 }, { cls := 4 }, { rsvd := 2251799813685248 }, { src := 65536 }, { dst := 65536 }, { job := 65536 }, { chan := 4294967296 }, { seq := 18446744073709551616 }, { dlen := 8192 }] : List Outer).all (fun x => !x.wf) = true := by decide +kernel
theorem test_wf_Inner : ([{ iop := 65536 }, { group := 65536 }, { gen := 256 }, { rsvd := 128 }, { rank := 65536 }, { inst := 4294967296 }, { off := 4294967296 }, { tally := 18446744073709551616 }, { arg := 18446744073709551616 }, { data := List.replicate 4097 0 }] : List Inner).all (fun x => !x.wf) = true := by decide +kernel
theorem test_wf_Delivered : ([{ src := 65536 }, { port := 16 }, { inner := { gen := 256 } }] : List Delivered).all (fun x => !x.wf) = true := by decide +kernel
theorem test_wf_LinkBody : ([{ ack := 18446744073709551616 }, { sack := 18446744073709551616 }, { crCtrl := 65536 }, { crData := 65536 }, { crXfer := 65536 }, { ce := 65536 }, { rsvd := 9223372036854775808 }] : List LinkBody).all (fun x => !x.wf) = true := by decide +kernel
theorem test_wf_Readings : ([{ links := [none, none] }, { tiles := List.replicate 6 {} }] : List Readings).all (fun x => !x.wf) = true := by decide +kernel
theorem test_wf_Upset : ([.tagFail (2 ^ 48) true, .bothCopies (2 ^ 48), .sram (2 ^ 48) true, .window (2 ^ 25) true] : List Upset).all (fun x => !x.wf) = true := by
  decide +kernel
theorem test_wf_Burn : ([.badCopy 3 0, .badCopy 0 (2 ^ 64), .cut 3 0, .cut 0 (2 ^ 64)] : List Burn).all (fun x => !x.wf) = true := by decide +kernel
theorem test_wf_LeaveUnit : ([.tile 6, .link 2] : List LeaveUnit).all (fun x => !x.wf) = true := by decide +kernel
theorem test_wf_cmd : (cmdWf 4096 0 0 0 || cmdWf 0 64 0 0 || cmdWf 0 0 (2 ^ 64) 0 || cmdWf 0 0 0 (2 ^ 32)) = false := by decide +kernel

/-! ### Worked examples of the spec -/

/-- "for example, the four bytes 01 00 00 00" under R292. -/
theorem test_tally_example : tally [1, 0, 0, 0] = 0x0123456789ABCDF3 := by decide +kernel
/-- "Small increments" of chapter 2: the fourth addition of 2^-10 to 1.0 steps the head up. -/
theorem test_pair_small_increments :
    (((((⟨0x3F80, 0⟩ : Pair).add (.num false 1 (-10))).1.add (.num false 1 (-10))).1.add (.num false 1 (-10))).1.add (.num false 1 (-10))).1
      = ⟨0x3F81, 0x8000⟩ := by decide +kernel
/-- "Cancellation" of chapter 2. -/
theorem test_pair_cancellation : ((⟨0x3F80, 8192⟩ : Pair).add (.num true 1 0)).1 = ⟨0x3A80, 0⟩ := by decide +kernel
/-- "Resolution limit" of chapter 2: INX is raised. -/
theorem test_pair_resolution_limit :
    (⟨0x3F80, 0⟩ : Pair).add (.num false 1 (-40)) = (⟨0x3F80, 0⟩, { inx := true }) := by decide +kernel
/-- "A slot over 18 steps" of chapter 2: a largest entry of 3.7 (BF16 0x406D, rounded up) gives 133; of 9.0, 132. -/
theorem test_slot_scale :
    ((({ pendingAmax := 0x406D } : ScaleSlot).advance).scaleExp, (({ pendingAmax := 0x4110 } : ScaleSlot).advance).scaleExp,
      (({ pendingAmax := 0x406D, margin := 1 } : ScaleSlot).advance).scaleExp) = (133, 132, 132) := by decide +kernel
/-- The same example: 3.5 under 2^5 is stored as 112. -/
theorem test_slot_stored : (narrow fmtE4M3 .rne (.num false 7 4)).1 = (narrow fmtE4M3 .rne (.num false 112 0)).1 := by decide +kernel
/-- Table 13-5: FIELDED, INVALID, INTEGRATOR give INTEGRATOR. -/
theorem test_interrupted_advance : decodeLife [0x0000FFFFFFFFFFFF, 0x000001FFFFFFFFFF, 0x00000000FFFFFFFF] = .integrator := by decide +kernel
/-- "An answer header on the wire" of chapter 18: SEQ_MISMATCH is 0x0107, and DOORBELL 0x0403. -/
theorem test_answer_codes : (Opcode.doorbell.code, Status.seqMismatch.code) = (0x0403, 0x0107) := by decide +kernel
/-- The digest of the empty text under SHAKE256 (FIPS 202), first eight bytes. -/
theorem test_shake_empty : (shake256 [] 64).take 8 = [0x46, 0xB9, 0xDD, 0x2B, 0x0B, 0xA8, 0x8D, 0x13] := by decide +kernel

/-! ### A stopped device -/

/-- A device that has lost REFCLK, with a request in its queue. -/
def Tests.devStopped : State := { Tests.dev with hub := { halt := some .refclk }, pending := [.heartbeat {}] }
/-- The hypotheses of `StoppedDeviceStaysStopped` are met: it has stopped, and its next step answers. -/
theorem witness_StoppedDeviceStaysStopped_1 : Stopped Tests.devStopped ∧ ∃ t, step Tests.devStopped = .next t :=
  ⟨⟨by decide +kernel, by decide +kernel⟩, _, rfl⟩

/-! ### A witness for each clause of each statement -/

theorem witness_StepTakesFrontCommand_1 : (({ Tests.dev with pending := [.heartbeat {}] } : State).pending = (.heartbeat {} : Instr) :: ([] : List Instr)) := by decide +kernel

theorem witness_IdleStepAdvancesTimer_1 : ((Tests.dev : State).pending = []) ∧
    ((Tests.dev : State).hub.timerHeld = false) ∧
    ((Tests.dev : State).hub.inReset = false) ∧
    ((Tests.dev : State).hub.halt ≠ some .refclk) := by decide +kernel

theorem witness_IdleStepAdvancesTimer_2 : (({ Tests.dev with hub := { timerHeld := true } } : State).pending = []) ∧
    (({ Tests.dev with hub := { timerHeld := true } } : State).hub.timerHeld = true) := by decide +kernel

theorem witness_ResetAndBoot_1 : (1000 ≤ (1000 : Nat)) := by decide +kernel

theorem witness_ResetAndBoot_2 : ((Tests.devOff : State).hub.inReset = true) ∧
    (decodeLife (Tests.devOff : State).otp.lc ≠ .scrapped) ∧
    ((Tests.devOff : State).otp.bootEpoch < bootPositions) ∧
    (({} : BootEnv).unwrapOk = true) ∧
    ((Tests.devOff : State).otp.root ≠ .blank) ∧
    ((Tests.devOff : State).otp.root ≠ .erased) ∧
    (({} : BootEnv).bridgeOk = true) ∧
    (shake256 (slice (Tests.devOff : State).flash.identity 0 1512) 64 = (Tests.devOff : State).otp.identityDigest) ∧
    (((Tests.devOff : State).imageValid 0 || (Tests.devOff : State).imageValid 1) = true) := by
  refine ⟨by decide +kernel, by decide +kernel, by decide +kernel, by decide +kernel, by decide +kernel, by decide +kernel,
    by decide +kernel, by simp only [Tests.devOff], by decide +kernel⟩

theorem witness_ResetAndBoot_3 : (({ Tests.devOff with otp := { Tests.devOff.otp with root := .blank } } : State).hub.inReset = true) ∧
    (decodeLife ({ Tests.devOff with otp := { Tests.devOff.otp with root := .blank } } : State).otp.lc ≠ .scrapped) ∧
    (({ Tests.devOff with otp := { Tests.devOff.otp with root := .blank } } : State).otp.bootEpoch < bootPositions) ∧
    (({} : BootEnv).bridgeOk = true) ∧
    (shake256 (slice ({ Tests.devOff with otp := { Tests.devOff.otp with root := .blank } } : State).flash.identity 0 1512) 64 = ({ Tests.devOff with otp := { Tests.devOff.otp with root := .blank } } : State).otp.identityDigest) ∧
    ((({ Tests.devOff with otp := { Tests.devOff.otp with root := .blank } } : State).imageValid 0 || ({ Tests.devOff with otp := { Tests.devOff.otp with root := .blank } } : State).imageValid 1) = true) ∧
    (({ Tests.devOff with otp := { Tests.devOff.otp with root := .blank } } : State).otp.root = .blank) := by
  refine ⟨by decide +kernel, by decide +kernel, by decide +kernel, by decide +kernel,
    by simp only [Tests.devOff], by decide +kernel, by decide +kernel⟩

theorem witness_ResetAndBoot_4 : ((Tests.devDue : State).hub.inReset = false) ∧
    ((Tests.devDue : State).hub.resetDue = some (5 : Nat)) ∧
    ((5 : Nat) ≤ (Tests.devDue : State).hub.timer) ∧
    (decodeLife (Tests.devDue : State).otp.lc ≠ .scrapped) ∧
    ((Tests.devDue : State).otp.bootEpoch < bootPositions) ∧
    (({} : BootEnv).unwrapOk = true) ∧
    ((Tests.devDue : State).otp.root ≠ .blank) ∧
    ((Tests.devDue : State).otp.root ≠ .erased) ∧
    (({} : BootEnv).bridgeOk = true) ∧
    (shake256 (slice (Tests.devDue : State).flash.identity 0 1512) 64 = (Tests.devDue : State).otp.identityDigest) ∧
    (((Tests.devDue : State).imageValid 0 || (Tests.devDue : State).imageValid 1) = true) := by
  refine ⟨by decide +kernel, by decide +kernel, by decide +kernel, by decide +kernel, by decide +kernel, by decide +kernel,
    by decide +kernel, by decide +kernel, by decide +kernel, by simp only [Tests.devDue, Tests.devOff], by decide +kernel⟩

theorem witness_SupplyFaultsStopDevice_1 : ((Tests.dev : State).hub.inReset = false) ∧
    (1000 ≤ (1000 : Nat)) := by decide +kernel

theorem witness_SupplyFaultsStopDevice_2 : ((Tests.dev : State).hub.inReset = false) ∧
    (1000 ≤ (1000 : Nat)) := by decide +kernel

theorem witness_SupplyFaultsStopDevice_3 : (logicDie (32 : Nat) = true) ∧
    (896 ≤ (896 : Int)) := by decide +kernel

theorem witness_SupplyFaultsStopDevice_4 : ((Tests.dev : State).hub.inReset = false) ∧
    (840 ≤ (840 : Int)) ∧
    ((Tests.dev : State).power.tiles[(5 : Nat)]? = some ({} : Tile)) := by decide +kernel

theorem witness_SupplyFaultsStopDevice_5 : ((Tests.devBusy : State).alive = true) ∧
    ((0 : Nat) < 6) ∧
    ((Tests.devBusy : State).power.tiles[(0 : Nat)]? = some (Tests.busyTile : Tile)) := by decide +kernel

theorem witness_BrakeRevokesAndReasks_1 : ((Tests.devBusy : State).hub.inReset = false) ∧
    ((Tests.devBusy : State).hub.brakePin = false) ∧
    (10 ≤ (10 : Nat)) ∧
    ((Tests.devBusy : State).alive = true) ∧
    ((Tests.devBusy : State).power.brakeUntil = none) := by decide +kernel

theorem witness_BrakeRevokesAndReasks_2 : ((Tests.devBraked : State).hub.brakePin = true) ∧
    ((0 : Nat) < 6) ∧
    ((Tests.devBraked : State).power.tiles[(0 : Nat)]? = some (Tests.brakedTile : Tile)) ∧
    ((Tests.brakedTile : Tile).brake = false) ∧
    ((Tests.brakedTile : Tile).underVolt = 0) := by decide +kernel

theorem witness_BrakeRevokesAndReasks_3 : (({ Tests.devBraked with power := { Tests.devBraked.power with brakeUntil := some 5 } } : State).power.brakeUntil = some (5 : Nat)) ∧
    (({ Tests.devBraked with power := { Tests.devBraked.power with brakeUntil := some 5 } } : State).alive = true) ∧
    ((5 : Nat) ≤ ({ Tests.devBraked with power := { Tests.devBraked.power with brakeUntil := some 5 } } : State).hub.timer) ∧
    (({ Tests.devBraked with power := { Tests.devBraked.power with brakeUntil := some 5 } } : State).power.brakeCount = 0) := by decide +kernel

theorem witness_BrakeRevokesAndReasks_4 : (({ Tests.devBraked with power := { Tests.devBraked.power with brakeUntil := some 5, brakeCount := 2 } } : State).power.brakeUntil = some (5 : Nat)) ∧
    (({ Tests.devBraked with power := { Tests.devBraked.power with brakeUntil := some 5, brakeCount := 2 } } : State).alive = true) ∧
    ((5 : Nat) ≤ ({ Tests.devBraked with power := { Tests.devBraked.power with brakeUntil := some 5, brakeCount := 2 } } : State).hub.timer) ∧
    (0 < ({ Tests.devBraked with power := { Tests.devBraked.power with brakeUntil := some 5, brakeCount := 2 } } : State).power.brakeCount) := by decide +kernel

theorem witness_ReadingsSetTilesAndStacks_1 : ((Tests.devLate : State).alive = true) ∧
    ((Tests.devLate : State).power.lastSample + 2 ^ 14 ≤ (Tests.devLate : State).hub.timer) ∧
    ((5 : Nat) < 6) ∧
    ((Tests.devLate : State).power.tiles[(5 : Nat)]? = some ({} : Tile)) ∧
    ((Tests.calm : Readings).tiles[(5 : Nat)]? = some ({ beatRate := 2100, mv := 720 } : TileReading)) := by decide +kernel

theorem witness_ReadingsSetTilesAndStacks_2 : ((Tests.devLate : State).alive = true) ∧
    ((Tests.devLate : State).power.lastSample + 2 ^ 14 ≤ (Tests.devLate : State).hub.timer) ∧
    ((0 : Nat) < 6) ∧
    ((Tests.devLate : State).power.tiles[(0 : Nat)]? = some ({} : Tile)) ∧
    (({} : Tile).invalid = false) ∧
    ((Tests.burning : Readings).tiles[(0 : Nat)]? = some ({ beatRate := 2100, mv := 720, temp := some 880 } : TileReading)) ∧
    (({ beatRate := 2100, mv := 720, temp := some 880 } : TileReading).temp = some (880 : Int)) ∧
    (880 ≤ (880 : Int)) := by decide +kernel

theorem witness_ReadingsSetTilesAndStacks_3 : ((Tests.devAsking : State).alive = true) ∧
    ((Tests.devAsking : State).power.tiles[(0 : Nat)]? = some (Tests.askingTile : Tile)) ∧
    ((Tests.askingTile : Tile).asked = some (0 : Nat)) ∧
    ((0 : Nat) + 2 ^ 16 ≤ (Tests.devAsking : State).hub.timer) := by decide +kernel

theorem witness_ReadingsSetTilesAndStacks_4 : ((Tests.devAsking : State).alive = true) ∧
    ((Tests.devAsking : State).power.tiles[(0 : Nat)]? = some (Tests.askingTile : Tile)) ∧
    ((Tests.askingTile : Tile).asked.isSome = true) ∧
    ((Tests.askingTile : Tile).mv = (725 : Nat)) ∧
    ((Tests.askingTile : Tile).raise = none) := by decide +kernel

theorem witness_ReadingsSetTilesAndStacks_5 : ((Tests.devHot : State).hub.inReset = false) ∧
    ((Tests.devHot : State).hbmStacks[(11 : Nat)]? = some ({ refresh := 4 } : Stack)) ∧
    (({ refresh := 4 } : Stack).invalid = false) := by decide +kernel

theorem witness_ReadingsSetTilesAndStacks_6 : ((Tests.dev : State).hub.inReset = false) ∧
    ((Tests.dev : State).hbmStacks[(0 : Nat)]? = some ({} : Stack)) := by decide +kernel

theorem witness_ReadingsSetTilesAndStacks_7 : ((Tests.dev : State).alive = true) ∧
    ((Tests.dev : State).hub.inReset = false) ∧
    ((Tests.dev : State).hbmStacks[(0 : Nat)]? = some ({} : Stack)) ∧
    ((({} : Stack).report (none : Option Int)).capped ≠ ({} : Stack).capped) ∧
    (({} : Stack).level ≠ (({} : Stack).report (none : Option Int)).levelNow) := by decide +kernel

theorem witness_ReadingsSetTilesAndStacks_8 : (({ Tests.dev with hbmStacks := [{ invalid := true, refresh := 4, capped := true }] } : State).hub.inReset = false) ∧
    (({ Tests.dev with hbmStacks := [{ invalid := true, refresh := 4, capped := true }] } : State).hbmStacks[(0 : Nat)]? = some ({ invalid := true, refresh := 4, capped := true } : Stack)) ∧
    (({ invalid := true, refresh := 4, capped := true } : Stack).invalid = true) ∧
    (({ invalid := true, refresh := 4, capped := true } : Stack).valid = 0) := by decide +kernel

theorem witness_ReadingsSetTilesAndStacks_9 : (({ Tests.dev with hbmStacks := [{ writes := List.replicate 16 (3, 9) }] } : State).alive = true) ∧
    (({ Tests.dev with hbmStacks := [{ writes := List.replicate 16 (3, 9) }] } : State).hub.selfRefresh = false) ∧
    (({ Tests.dev with hbmStacks := [{ writes := List.replicate 16 (3, 9) }] } : State).hbmStacks[(0 : Nat)]? = some ({ writes := List.replicate 16 (3, 9) } : Stack)) := by decide +kernel

theorem witness_TellerGrantsOldestThatFits_1 : ((Tests.devAsked : State).alive = true) ∧
    ((Tests.devAsked : State).gateClosed (0 : Nat) = false) ∧
    ((Tests.devAsked : State).power.tiles[(0 : Nat)]? = some (Tests.askedTile : Tile)) ∧
    ((Tests.askedTile : Tile).teller.queue = (.train 1 : LeaveFor) :: ([.train 0] : List LeaveFor)) ∧
    ((Tests.askedTile : Tile).teller.held (Tests.askedTile : Tile).band + (.train 1 : LeaveFor).cost (Tests.askedTile : Tile).band ≤ (Tests.askedTile : Tile).budget (Tests.devAsked : State).power.cfg.budget) ∧
    ((Tests.askedTile : Tile).teller.window + (.train 1 : LeaveFor).cost (Tests.askedTile : Tile).band ≤ 128) := by decide +kernel

theorem witness_TellerGrantsOldestThatFits_2 : ((Tests.devFull : State).alive = true) ∧
    ((Tests.devFull : State).power.tiles[(0 : Nat)]? = some (Tests.fullTile : Tile)) ∧
    ((Tests.fullTile : Tile).teller.queue = (.train 1 : LeaveFor) :: ([] : List LeaveFor)) ∧
    ((Tests.fullTile : Tile).budget (Tests.devFull : State).power.cfg.budget < (Tests.fullTile : Tile).teller.held (Tests.fullTile : Tile).band + (.train 1 : LeaveFor).cost (Tests.fullTile : Tile).band ∨ 128 < (Tests.fullTile : Tile).teller.window + (.train 1 : LeaveFor).cost (Tests.fullTile : Tile).band) := by decide +kernel

theorem witness_TellerGrantsOldestThatFits_3 : ((Tests.devWaking : State).alive = true) ∧
    ((Tests.devWaking : State).hub.brakePin = false) ∧
    ((Tests.devWaking : State).power.linkTellers[(1 : Nat)]? = some ({ queue := [.port 9] } : Teller)) ∧
    (({ queue := [.port 9] } : Teller).queue = (.port 9 : LeaveFor) :: ([] : List LeaveFor)) ∧
    (({ queue := [.port 9] } : Teller).held 0 + (.port 9 : LeaveFor).cost 0 ≤ (Tests.devWaking : State).power.cfg.linkBudget) ∧
    (({ queue := [.port 9] } : Teller).window + (.port 9 : LeaveFor).cost 0 ≤ 128) := by decide +kernel

theorem witness_TellerGrantsOldestThatFits_4 : ((Tests.devFull : State).alive = true) ∧
    ((Tests.devFull : State).power.tiles[(0 : Nat)]? = some (Tests.fullTile : Tile)) := by decide +kernel

theorem witness_TellerGrantsOldestThatFits_5 : ((Tests.devTrain : State).alive = true) ∧
    ((Tests.devTrain : State).hbmStacks[(1 : Nat)]? = some ({ train := true } : Stack)) ∧
    (({ train := true } : Stack).train = true) ∧
    (({ train := true } : Stack).lastReq + 2 ^ 8 ≤ (Tests.devTrain : State).hub.timer) ∧
    ((Tests.devTrain : State).power.tiles[(1 : Nat) / 2]? = some (Tests.fullTile : Tile)) := by decide +kernel

theorem witness_PowerConfigSetsAndReads_1 : (Admits (Tests.dev : State) .powerConfig (Tests.powerMsg : Msg) (Tests.mgmt : Session) = true) ∧
    ((Tests.mgmt : Session).role = .management) ∧
    ((Tests.powerMsg : Msg).length = 16) ∧
    (anySet (ofLe (Tests.powerMsg : Msg).payload) 127 80 = false) ∧
    ((powerCfgOf (ofLe (Tests.powerMsg : Msg).payload)).inRange (!(Tests.dev : State).conf && flag (Tests.dev : State).life.rights 5) = true) := by decide +kernel

theorem witness_PowerConfigSetsAndReads_2 : (Admits (Tests.dev : State) .powerConfig ({ tag := 5 } : Msg) (Tests.mgmt : Session) = true) ∧
    ((Tests.mgmt : Session).role = .management) ∧
    (({ tag := 5 } : Msg).length = 0) := by decide +kernel

theorem witness_PowerConfigSetsAndReads_3 : (Admits (Tests.dev : State) .powerConfig ({ tag := 5, length := 16, payload := List.replicate 16 0 } : Msg) (Tests.mgmt : Session) = true) ∧
    ((Tests.mgmt : Session).role = .management) ∧
    (({ tag := 5, length := 16, payload := List.replicate 16 0 } : Msg).length = 16) ∧
    (anySet (ofLe ({ tag := 5, length := 16, payload := List.replicate 16 0 } : Msg).payload) 127 80 = false) ∧
    ((powerCfgOf (ofLe ({ tag := 5, length := 16, payload := List.replicate 16 0 } : Msg).payload)).inRange (!(Tests.dev : State).conf && flag (Tests.dev : State).life.rights 5) = false) := by decide +kernel

theorem witness_ReadingRequestsChangeNothing_1 : (Admits (Tests.dev : State) .heartbeat ({ session := 1, tag := 5 } : Msg) (Tests.tenant : Session) = true) ∧
    (({ session := 1, tag := 5 } : Msg).length = 0) := by decide +kernel

theorem witness_ReadingRequestsChangeNothing_2 : (Admits (Tests.dev : State) .lcRead ({ session := 1, tag := 5 } : Msg) (Tests.tenant : Session) = true) ∧
    (({ session := 1, tag := 5 } : Msg).length = 0) := by decide +kernel

theorem witness_ReadingRequestsChangeNothing_3 : (Admits (Tests.dev : State) .errRead ({ tag := 5, length := 8, payload := [0, 0, 0, 0, 10, 0, 0, 0] } : Msg) (Tests.mgmt : Session) = true) ∧
    (({ tag := 5, length := 8, payload := [0, 0, 0, 0, 10, 0, 0, 0] } : Msg).length = 8) ∧
    ((Tests.mgmt : Session).role = .management) ∧
    (({ tag := 5, length := 8, payload := [0, 0, 0, 0, 10, 0, 0, 0] } : Msg).ctxGen = 0) ∧
    ((0xA00000000 : Nat) = ofLe (slice ({ tag := 5, length := 8, payload := [0, 0, 0, 0, 10, 0, 0, 0] } : Msg).payload 0 8)) ∧
    (anySet (0xA00000000 : Nat) 63 42 = false) := by decide +kernel

theorem witness_ReadingRequestsChangeNothing_4 : (Admits (Tests.dev : State) .telemetry ({ tag := 5, arg0 := 4 } : Msg) (Tests.mgmt : Session) = true) ∧
    (({ tag := 5, arg0 := 4 } : Msg).length = 0) ∧
    (({ tag := 5, arg0 := 4 } : Msg).arg0 = (4 : Nat)) ∧
    ((4 : Nat) ≤ 4) ∧
    ((Tests.mgmt : Session).role = .management) := by decide +kernel

theorem witness_PowerAndStackCommandsComplete_1 : ((Tests.dev : State).hub.inReset = false) ∧
    ((Tests.dev : State).hbmStacks[(0 : Nat)]? = some ({} : Stack)) := by decide +kernel

theorem witness_PowerAndStackCommandsComplete_2 : ((Tests.devLate : State).alive = true) ∧
    ((Tests.devLate : State).power.lastSample + 2 ^ 14 ≤ (Tests.devLate : State).hub.timer) := by decide +kernel

theorem witness_PowerAndStackCommandsComplete_3 : ((Tests.devAsking : State).alive = true) ∧
    ((Tests.devAsking : State).power.tiles[(0 : Nat)]? = some (Tests.askingTile : Tile)) ∧
    ((Tests.askingTile : Tile).asked = some (0 : Nat)) ∧
    ((0 : Nat) + 2 ^ 16 ≤ (Tests.devAsking : State).hub.timer) := by decide +kernel

theorem witness_PowerAndStackCommandsComplete_4 : ((Tests.devAsking : State).alive = true) ∧
    ((Tests.devAsking : State).power.tiles[(0 : Nat)]? = some (Tests.askingTile : Tile)) ∧
    ((Tests.askingTile : Tile).asked.isSome = true) := by decide +kernel

theorem witness_PowerAndStackCommandsComplete_5 : (({ Tests.dev with hbmStacks := [{ writes := List.replicate 16 (3, 9) }] } : State).alive = true) ∧
    (({ Tests.dev with hbmStacks := [{ writes := List.replicate 16 (3, 9) }] } : State).hub.selfRefresh = false) ∧
    (({ Tests.dev with hbmStacks := [{ writes := List.replicate 16 (3, 9) }] } : State).hbmStacks[(0 : Nat)]? = some ({ writes := List.replicate 16 (3, 9) } : Stack)) := by decide +kernel

theorem witness_LifeCycleAdvances_1 : (Admits (Tests.devSigned : State) .lcAdvance ({ tag := 5, length := 192, payload := [3, 1, 0, 0, 0, 0, 0, 0] ++ List.replicate 57 9 ++ List.replicate 7 0 ++ List.replicate 114 3 ++ List.replicate 6 0 } : Msg) (Tests.mgmt : Session) = true) ∧
    ((.returned : LifeState) = lifeOfCode (ofLe (slice ({ tag := 5, length := 192, payload := [3, 1, 0, 0, 0, 0, 0, 0] ++ List.replicate 57 9 ++ List.replicate 7 0 ++ List.replicate 114 3 ++ List.replicate 6 0 } : Msg).payload 0 1))) ∧
    ((1 : Nat) = ofLe (slice ({ tag := 5, length := 192, payload := [3, 1, 0, 0, 0, 0, 0, 0] ++ List.replicate 57 9 ++ List.replicate 7 0 ++ List.replicate 114 3 ++ List.replicate 6 0 } : Msg).payload 1 1)) ∧
    ((0 : Nat) = ofLe (slice ({ tag := 5, length := 192, payload := [3, 1, 0, 0, 0, 0, 0, 0] ++ List.replicate 57 9 ++ List.replicate 7 0 ++ List.replicate 114 3 ++ List.replicate 6 0 } : Msg).payload 2 1)) ∧
    (({ tag := 5, length := 192, payload := [3, 1, 0, 0, 0, 0, 0, 0] ++ List.replicate 57 9 ++ List.replicate 7 0 ++ List.replicate 114 3 ++ List.replicate 6 0 } : Msg).length = 192) ∧
    (1 ≤ ofLe (slice ({ tag := 5, length := 192, payload := [3, 1, 0, 0, 0, 0, 0, 0] ++ List.replicate 57 9 ++ List.replicate 7 0 ++ List.replicate 114 3 ++ List.replicate 6 0 } : Msg).payload 0 1) ∧ ofLe (slice ({ tag := 5, length := 192, payload := [3, 1, 0, 0, 0, 0, 0, 0] ++ List.replicate 57 9 ++ List.replicate 7 0 ++ List.replicate 114 3 ++ List.replicate 6 0 } : Msg).payload 0 1) ≤ 4) ∧
    ((1 : Nat) = 0 ∧ (0 : Nat) ≤ 3 ∨ (1 : Nat) = 1 ∧ (0 : Nat) = 0) ∧
    ((allZero (slice ({ tag := 5, length := 192, payload := [3, 1, 0, 0, 0, 0, 0, 0] ++ List.replicate 57 9 ++ List.replicate 7 0 ++ List.replicate 114 3 ++ List.replicate 6 0 } : Msg).payload 3 5) && allZero (slice ({ tag := 5, length := 192, payload := [3, 1, 0, 0, 0, 0, 0, 0] ++ List.replicate 57 9 ++ List.replicate 7 0 ++ List.replicate 114 3 ++ List.replicate 6 0 } : Msg).payload 65 7) && allZero (slice ({ tag := 5, length := 192, payload := [3, 1, 0, 0, 0, 0, 0, 0] ++ List.replicate 57 9 ++ List.replicate 7 0 ++ List.replicate 114 3 ++ List.replicate 6 0 } : Msg).payload 186 6)) = true) ∧
    ((Tests.devSigned : State).otp.lc.length = 3) ∧
    (lifeRow (Tests.devSigned : State).life.inForce (.returned : LifeState) = true) ∧
    ((.returned : LifeState) ≠ (Tests.devSigned : State).life.inForce) ∧
    ((Tests.devSigned : State).mayAdvance (.returned : LifeState) (1 : Nat) (0 : Nat) (slice ({ tag := 5, length := 192, payload := [3, 1, 0, 0, 0, 0, 0, 0] ++ List.replicate 57 9 ++ List.replicate 7 0 ++ List.replicate 114 3 ++ List.replicate 6 0 } : Msg).payload 8 57) = true) ∧
    ((Tests.devSigned : State).verifies (slice ({ tag := 5, length := 192, payload := [3, 1, 0, 0, 0, 0, 0, 0] ++ List.replicate 57 9 ++ List.replicate 7 0 ++ List.replicate 114 3 ++ List.replicate 6 0 } : Msg).payload 8 57) (shake256 ((Tests.devSigned : State).otp.identityDigest ++ toLe 1 (ofLe (slice ({ tag := 5, length := 192, payload := [3, 1, 0, 0, 0, 0, 0, 0] ++ List.replicate 57 9 ++ List.replicate 7 0 ++ List.replicate 114 3 ++ List.replicate 6 0 } : Msg).payload 0 1)) ++ ascii "lc advance") 64) (slice ({ tag := 5, length := 192, payload := [3, 1, 0, 0, 0, 0, 0, 0] ++ List.replicate 57 9 ++ List.replicate 7 0 ++ List.replicate 114 3 ++ List.replicate 6 0 } : Msg).payload 72 114) = true) ∧
    ((.returned : LifeState) ≠ .scrapped) := by decide +kernel

theorem witness_LifeCycleAdvances_2 : (Admits (Tests.devSigned : State) .lcAdvance ({ tag := 5, length := 192, payload := [4, 1, 0, 0, 0, 0, 0, 0] ++ List.replicate 57 9 ++ List.replicate 7 0 ++ List.replicate 114 3 ++ List.replicate 6 0 } : Msg) (Tests.mgmt : Session) = true) ∧
    ((.scrapped : LifeState) = lifeOfCode (ofLe (slice ({ tag := 5, length := 192, payload := [4, 1, 0, 0, 0, 0, 0, 0] ++ List.replicate 57 9 ++ List.replicate 7 0 ++ List.replicate 114 3 ++ List.replicate 6 0 } : Msg).payload 0 1))) ∧
    ((1 : Nat) = ofLe (slice ({ tag := 5, length := 192, payload := [4, 1, 0, 0, 0, 0, 0, 0] ++ List.replicate 57 9 ++ List.replicate 7 0 ++ List.replicate 114 3 ++ List.replicate 6 0 } : Msg).payload 1 1)) ∧
    ((0 : Nat) = ofLe (slice ({ tag := 5, length := 192, payload := [4, 1, 0, 0, 0, 0, 0, 0] ++ List.replicate 57 9 ++ List.replicate 7 0 ++ List.replicate 114 3 ++ List.replicate 6 0 } : Msg).payload 2 1)) ∧
    (({ tag := 5, length := 192, payload := [4, 1, 0, 0, 0, 0, 0, 0] ++ List.replicate 57 9 ++ List.replicate 7 0 ++ List.replicate 114 3 ++ List.replicate 6 0 } : Msg).length = 192) ∧
    (1 ≤ ofLe (slice ({ tag := 5, length := 192, payload := [4, 1, 0, 0, 0, 0, 0, 0] ++ List.replicate 57 9 ++ List.replicate 7 0 ++ List.replicate 114 3 ++ List.replicate 6 0 } : Msg).payload 0 1) ∧ ofLe (slice ({ tag := 5, length := 192, payload := [4, 1, 0, 0, 0, 0, 0, 0] ++ List.replicate 57 9 ++ List.replicate 7 0 ++ List.replicate 114 3 ++ List.replicate 6 0 } : Msg).payload 0 1) ≤ 4) ∧
    ((1 : Nat) = 0 ∧ (0 : Nat) ≤ 3 ∨ (1 : Nat) = 1 ∧ (0 : Nat) = 0) ∧
    ((allZero (slice ({ tag := 5, length := 192, payload := [4, 1, 0, 0, 0, 0, 0, 0] ++ List.replicate 57 9 ++ List.replicate 7 0 ++ List.replicate 114 3 ++ List.replicate 6 0 } : Msg).payload 3 5) && allZero (slice ({ tag := 5, length := 192, payload := [4, 1, 0, 0, 0, 0, 0, 0] ++ List.replicate 57 9 ++ List.replicate 7 0 ++ List.replicate 114 3 ++ List.replicate 6 0 } : Msg).payload 65 7) && allZero (slice ({ tag := 5, length := 192, payload := [4, 1, 0, 0, 0, 0, 0, 0] ++ List.replicate 57 9 ++ List.replicate 7 0 ++ List.replicate 114 3 ++ List.replicate 6 0 } : Msg).payload 186 6)) = true) ∧
    ((Tests.devSigned : State).otp.lc.length = 3) ∧
    (lifeRow (Tests.devSigned : State).life.inForce (.scrapped : LifeState) = true) ∧
    ((.scrapped : LifeState) ≠ (Tests.devSigned : State).life.inForce) ∧
    ((Tests.devSigned : State).mayAdvance (.scrapped : LifeState) (1 : Nat) (0 : Nat) (slice ({ tag := 5, length := 192, payload := [4, 1, 0, 0, 0, 0, 0, 0] ++ List.replicate 57 9 ++ List.replicate 7 0 ++ List.replicate 114 3 ++ List.replicate 6 0 } : Msg).payload 8 57) = true) ∧
    ((Tests.devSigned : State).verifies (slice ({ tag := 5, length := 192, payload := [4, 1, 0, 0, 0, 0, 0, 0] ++ List.replicate 57 9 ++ List.replicate 7 0 ++ List.replicate 114 3 ++ List.replicate 6 0 } : Msg).payload 8 57) (shake256 ((Tests.devSigned : State).otp.identityDigest ++ toLe 1 (ofLe (slice ({ tag := 5, length := 192, payload := [4, 1, 0, 0, 0, 0, 0, 0] ++ List.replicate 57 9 ++ List.replicate 7 0 ++ List.replicate 114 3 ++ List.replicate 6 0 } : Msg).payload 0 1)) ++ ascii "lc advance") 64) (slice ({ tag := 5, length := 192, payload := [4, 1, 0, 0, 0, 0, 0, 0] ++ List.replicate 57 9 ++ List.replicate 7 0 ++ List.replicate 114 3 ++ List.replicate 6 0 } : Msg).payload 72 114) = true) ∧
    ((.scrapped : LifeState) = .scrapped) := by decide +kernel

theorem witness_LifeCycleAdvances_3 : (Admits (Tests.devSigned : State) .lcAdvance ({ tag := 5, length := 192, payload := [3, 1, 0, 0, 0, 0, 0, 0] ++ List.replicate 57 9 ++ List.replicate 7 0 ++ List.replicate 114 3 ++ List.replicate 6 0 } : Msg) (Tests.mgmt : Session) = true) ∧
    ((.returned : LifeState) = lifeOfCode (ofLe (slice ({ tag := 5, length := 192, payload := [3, 1, 0, 0, 0, 0, 0, 0] ++ List.replicate 57 9 ++ List.replicate 7 0 ++ List.replicate 114 3 ++ List.replicate 6 0 } : Msg).payload 0 1))) ∧
    ((1 : Nat) = ofLe (slice ({ tag := 5, length := 192, payload := [3, 1, 0, 0, 0, 0, 0, 0] ++ List.replicate 57 9 ++ List.replicate 7 0 ++ List.replicate 114 3 ++ List.replicate 6 0 } : Msg).payload 1 1)) ∧
    ((0 : Nat) = ofLe (slice ({ tag := 5, length := 192, payload := [3, 1, 0, 0, 0, 0, 0, 0] ++ List.replicate 57 9 ++ List.replicate 7 0 ++ List.replicate 114 3 ++ List.replicate 6 0 } : Msg).payload 2 1)) ∧
    (({ tag := 5, length := 192, payload := [3, 1, 0, 0, 0, 0, 0, 0] ++ List.replicate 57 9 ++ List.replicate 7 0 ++ List.replicate 114 3 ++ List.replicate 6 0 } : Msg).length = 192) ∧
    (1 ≤ ofLe (slice ({ tag := 5, length := 192, payload := [3, 1, 0, 0, 0, 0, 0, 0] ++ List.replicate 57 9 ++ List.replicate 7 0 ++ List.replicate 114 3 ++ List.replicate 6 0 } : Msg).payload 0 1) ∧ ofLe (slice ({ tag := 5, length := 192, payload := [3, 1, 0, 0, 0, 0, 0, 0] ++ List.replicate 57 9 ++ List.replicate 7 0 ++ List.replicate 114 3 ++ List.replicate 6 0 } : Msg).payload 0 1) ≤ 4) ∧
    ((1 : Nat) = 0 ∧ (0 : Nat) ≤ 3 ∨ (1 : Nat) = 1 ∧ (0 : Nat) = 0) ∧
    ((allZero (slice ({ tag := 5, length := 192, payload := [3, 1, 0, 0, 0, 0, 0, 0] ++ List.replicate 57 9 ++ List.replicate 7 0 ++ List.replicate 114 3 ++ List.replicate 6 0 } : Msg).payload 3 5) && allZero (slice ({ tag := 5, length := 192, payload := [3, 1, 0, 0, 0, 0, 0, 0] ++ List.replicate 57 9 ++ List.replicate 7 0 ++ List.replicate 114 3 ++ List.replicate 6 0 } : Msg).payload 65 7) && allZero (slice ({ tag := 5, length := 192, payload := [3, 1, 0, 0, 0, 0, 0, 0] ++ List.replicate 57 9 ++ List.replicate 7 0 ++ List.replicate 114 3 ++ List.replicate 6 0 } : Msg).payload 186 6)) = true) ∧
    ((Tests.devSigned : State).otp.lc.length = 3) ∧
    (lifeRow (Tests.devSigned : State).life.inForce (.returned : LifeState) = true) ∧
    ((.returned : LifeState) ≠ (Tests.devSigned : State).life.inForce) ∧
    ((Tests.devSigned : State).mayAdvance (.returned : LifeState) (1 : Nat) (0 : Nat) (slice ({ tag := 5, length := 192, payload := [3, 1, 0, 0, 0, 0, 0, 0] ++ List.replicate 57 9 ++ List.replicate 7 0 ++ List.replicate 114 3 ++ List.replicate 6 0 } : Msg).payload 8 57) = true) ∧
    ((Tests.devSigned : State).verifies (slice ({ tag := 5, length := 192, payload := [3, 1, 0, 0, 0, 0, 0, 0] ++ List.replicate 57 9 ++ List.replicate 7 0 ++ List.replicate 114 3 ++ List.replicate 6 0 } : Msg).payload 8 57) (shake256 ((Tests.devSigned : State).otp.identityDigest ++ toLe 1 (ofLe (slice ({ tag := 5, length := 192, payload := [3, 1, 0, 0, 0, 0, 0, 0] ++ List.replicate 57 9 ++ List.replicate 7 0 ++ List.replicate 114 3 ++ List.replicate 6 0 } : Msg).payload 0 1)) ++ ascii "lc advance") 64) (slice ({ tag := 5, length := 192, payload := [3, 1, 0, 0, 0, 0, 0, 0] ++ List.replicate 57 9 ++ List.replicate 7 0 ++ List.replicate 114 3 ++ List.replicate 6 0 } : Msg).payload 72 114) = true) ∧
    ((.returned : LifeState) ≠ .scrapped) ∧
    ((1 : Nat) < 3) := by decide +kernel

theorem witness_LifeCycleAdvances_4 : (Admits (Tests.devSigned : State) .lcEnrol ({ tag := 5, length := 192, payload := List.replicate 57 8 ++ List.replicate 7 0 ++ List.replicate 114 3 ++ List.replicate 14 0 } : Msg) (Tests.mgmt : Session) = true) ∧
    (({ tag := 5, length := 192, payload := List.replicate 57 8 ++ List.replicate 7 0 ++ List.replicate 114 3 ++ List.replicate 14 0 } : Msg).length = 192) ∧
    ((allZero (slice ({ tag := 5, length := 192, payload := List.replicate 57 8 ++ List.replicate 7 0 ++ List.replicate 114 3 ++ List.replicate 14 0 } : Msg).payload 57 7) && allZero (slice ({ tag := 5, length := 192, payload := List.replicate 57 8 ++ List.replicate 7 0 ++ List.replicate 114 3 ++ List.replicate 14 0 } : Msg).payload 178 14)) = true) ∧
    ((Tests.devSigned : State).life.inForce = .integrator ∨ (Tests.devSigned : State).life.inForce = .fielded) ∧
    ((Tests.devSigned : State).life.opKey = some (List.replicate 57 9 : Bytes)) ∧
    ((Tests.devSigned : State).verifies (List.replicate 57 9 : Bytes) (shake256 ((Tests.devSigned : State).otp.identityDigest ++ slice ({ tag := 5, length := 192, payload := List.replicate 57 8 ++ List.replicate 7 0 ++ List.replicate 114 3 ++ List.replicate 14 0 } : Msg).payload 0 57 ++ ascii "operator enrol") 64) (slice ({ tag := 5, length := 192, payload := List.replicate 57 8 ++ List.replicate 7 0 ++ List.replicate 114 3 ++ List.replicate 14 0 } : Msg).payload 64 114) = true) ∧
    ((Tests.devSigned : State).otp.opKeys.length < 4) := by decide +kernel

theorem witness_DebugRequestsGrantRights_1 : (Admits (Tests.devOpen : State) .debugCert ({ tag := 5, length := 256, payload := Tests.certHead ++ List.replicate 114 3 ++ List.replicate 30 0 } : Msg) (Tests.mgmt : Session) = true) ∧
    (({ tag := 5, length := 256, payload := Tests.certHead ++ List.replicate 114 3 ++ List.replicate 30 0 } : Msg).length = 256) ∧
    ((allZero (slice ({ tag := 5, length := 256, payload := Tests.certHead ++ List.replicate 114 3 ++ List.replicate 30 0 } : Msg).payload 6 2) && allZero (slice ({ tag := 5, length := 256, payload := Tests.certHead ++ List.replicate 114 3 ++ List.replicate 30 0 } : Msg).payload 92 20) && allZero (slice ({ tag := 5, length := 256, payload := Tests.certHead ++ List.replicate 114 3 ++ List.replicate 30 0 } : Msg).payload 226 30)) = true) ∧
    ((33 : Nat) = ofLe (slice ({ tag := 5, length := 256, payload := Tests.certHead ++ List.replicate 114 3 ++ List.replicate 30 0 } : Msg).payload 72 4)) ∧
    ((33 : Nat) < 128) ∧
    ((Tests.devOpen : State).life.inForce ≠ .locked) ∧
    ((Tests.devOpen : State).life.inForce ≠ .scrapped) ∧
    (slice ({ tag := 5, length := 256, payload := Tests.certHead ++ List.replicate 114 3 ++ List.replicate 30 0 } : Msg).payload 8 64 = (Tests.devOpen : State).otp.identityDigest) ∧
    (ofLe (slice ({ tag := 5, length := 256, payload := Tests.certHead ++ List.replicate 114 3 ++ List.replicate 30 0 } : Msg).payload 76 4) ≤ (Tests.devOpen : State).otp.bootEpoch) ∧
    ((Tests.devOpen : State).otp.bootEpoch ≤ ofLe (slice ({ tag := 5, length := 256, payload := Tests.certHead ++ List.replicate 114 3 ++ List.replicate 30 0 } : Msg).payload 80 4)) ∧
    ((Tests.devOpen : State).verifies ((Tests.devOpen : State).otp.makerKeys.getD (ofLe (slice ({ tag := 5, length := 256, payload := Tests.certHead ++ List.replicate 114 3 ++ List.replicate 30 0 } : Msg).payload 5 1)) []) (slice ({ tag := 5, length := 256, payload := Tests.certHead ++ List.replicate 114 3 ++ List.replicate 30 0 } : Msg).payload 0 112) (slice ({ tag := 5, length := 256, payload := Tests.certHead ++ List.replicate 114 3 ++ List.replicate 30 0 } : Msg).payload 112 114) = true) ∧
    ((Tests.devOpen : State).conf = false) := by decide +kernel

theorem witness_DebugRequestsGrantRights_2 : (Admits (Tests.devSigned : State) .debugCert ({ tag := 5, length := 256, payload := Tests.certHead ++ List.replicate 114 3 ++ List.replicate 30 0 } : Msg) (Tests.mgmt : Session) = true) ∧
    (({ tag := 5, length := 256, payload := Tests.certHead ++ List.replicate 114 3 ++ List.replicate 30 0 } : Msg).length = 256) ∧
    ((allZero (slice ({ tag := 5, length := 256, payload := Tests.certHead ++ List.replicate 114 3 ++ List.replicate 30 0 } : Msg).payload 6 2) && allZero (slice ({ tag := 5, length := 256, payload := Tests.certHead ++ List.replicate 114 3 ++ List.replicate 30 0 } : Msg).payload 92 20) && allZero (slice ({ tag := 5, length := 256, payload := Tests.certHead ++ List.replicate 114 3 ++ List.replicate 30 0 } : Msg).payload 226 30)) = true) ∧
    ((33 : Nat) = ofLe (slice ({ tag := 5, length := 256, payload := Tests.certHead ++ List.replicate 114 3 ++ List.replicate 30 0 } : Msg).payload 72 4)) ∧
    ((33 : Nat) < 128) ∧
    ((Tests.devSigned : State).life.inForce ≠ .locked) ∧
    ((Tests.devSigned : State).life.inForce ≠ .scrapped) ∧
    (slice ({ tag := 5, length := 256, payload := Tests.certHead ++ List.replicate 114 3 ++ List.replicate 30 0 } : Msg).payload 8 64 = (Tests.devSigned : State).otp.identityDigest) ∧
    (ofLe (slice ({ tag := 5, length := 256, payload := Tests.certHead ++ List.replicate 114 3 ++ List.replicate 30 0 } : Msg).payload 76 4) ≤ (Tests.devSigned : State).otp.bootEpoch) ∧
    ((Tests.devSigned : State).otp.bootEpoch ≤ ofLe (slice ({ tag := 5, length := 256, payload := Tests.certHead ++ List.replicate 114 3 ++ List.replicate 30 0 } : Msg).payload 80 4)) ∧
    ((Tests.devSigned : State).verifies ((Tests.devSigned : State).otp.makerKeys.getD (ofLe (slice ({ tag := 5, length := 256, payload := Tests.certHead ++ List.replicate 114 3 ++ List.replicate 30 0 } : Msg).payload 5 1)) []) (slice ({ tag := 5, length := 256, payload := Tests.certHead ++ List.replicate 114 3 ++ List.replicate 30 0 } : Msg).payload 0 112) (slice ({ tag := 5, length := 256, payload := Tests.certHead ++ List.replicate 114 3 ++ List.replicate 30 0 } : Msg).payload 112 114) = true) ∧
    ((Tests.devSigned : State).conf = true) ∧
    ((Tests.devSigned : State).otp.sealEpoch < 64) := by decide +kernel

theorem witness_DebugRequestsGrantRights_3 : (Admits (Tests.devOpen : State) .debugChallenge ({ tag := 5 } : Msg) (Tests.mgmt : Session) = true) ∧
    (({ tag := 5 } : Msg).arg0 = 0) ∧
    (({ tag := 5 } : Msg).length = 0) ∧
    ((Tests.devOpen : State).life.inForce ≠ .locked) ∧
    ((Tests.devOpen : State).life.inForce ≠ .scrapped) := by decide +kernel

theorem witness_DebugRequestsGrantRights_4 : (Admits (Tests.devOpen : State) .debugChallenge ({ tag := 5, arg0 := 1, length := 128, payload := [2, 0, 0, 0, 1, 0, 0, 0] ++ List.replicate 114 3 ++ List.replicate 6 0 } : Msg) (Tests.mgmt : Session) = true) ∧
    (({ tag := 5, arg0 := 1, length := 128, payload := [2, 0, 0, 0, 1, 0, 0, 0] ++ List.replicate 114 3 ++ List.replicate 6 0 } : Msg).arg0 = 1) ∧
    (({ tag := 5, arg0 := 1, length := 128, payload := [2, 0, 0, 0, 1, 0, 0, 0] ++ List.replicate 114 3 ++ List.replicate 6 0 } : Msg).length = 128) ∧
    ((allZero (slice ({ tag := 5, arg0 := 1, length := 128, payload := [2, 0, 0, 0, 1, 0, 0, 0] ++ List.replicate 114 3 ++ List.replicate 6 0 } : Msg).payload 5 3) && allZero (slice ({ tag := 5, arg0 := 1, length := 128, payload := [2, 0, 0, 0, 1, 0, 0, 0] ++ List.replicate 114 3 ++ List.replicate 6 0 } : Msg).payload 122 6)) = true) ∧
    ((2 : Nat) = ofLe (slice ({ tag := 5, arg0 := 1, length := 128, payload := [2, 0, 0, 0, 1, 0, 0, 0] ++ List.replicate 114 3 ++ List.replicate 6 0 } : Msg).payload 0 4)) ∧
    ((2 : Nat) < 128) ∧
    ((Tests.devOpen : State).life.inForce ≠ .locked) ∧
    ((Tests.devOpen : State).life.inForce ≠ .scrapped) ∧
    ((Tests.devOpen : State).conf = false) ∧
    ((Tests.devOpen : State).life.nonce = some ([7, 7] : Bytes)) ∧
    ((Tests.devOpen : State).verifies ((Tests.devOpen : State).otp.makerKeys.getD (ofLe (slice ({ tag := 5, arg0 := 1, length := 128, payload := [2, 0, 0, 0, 1, 0, 0, 0] ++ List.replicate 114 3 ++ List.replicate 6 0 } : Msg).payload 4 1)) []) (shake256 ((Tests.devOpen : State).otp.identityDigest ++ ([7, 7] : Bytes) ++ slice ({ tag := 5, arg0 := 1, length := 128, payload := [2, 0, 0, 0, 1, 0, 0, 0] ++ List.replicate 114 3 ++ List.replicate 6 0 } : Msg).payload 0 4 ++ ascii "debug response") 64) (slice ({ tag := 5, arg0 := 1, length := 128, payload := [2, 0, 0, 0, 1, 0, 0, 0] ++ List.replicate 114 3 ++ List.replicate 6 0 } : Msg).payload 8 114) = true) := by decide +kernel

theorem witness_FirmwareStagesAndActivates_1 : (Admits (Tests.dev : State) .fwStage ({ tag := 5, arg0 := 4096, length := 2, payload := [1, 2] } : Msg) (Tests.mgmt : Session) = true) ∧
    ((Tests.dev : State).life.inForce ≠ .locked) ∧
    ((Tests.dev : State).life.inForce ≠ .scrapped) ∧
    (({ tag := 5, arg0 := 4096, length := 2, payload := [1, 2] } : Msg).arg0 < 2 ^ 24) ∧
    ((Tests.dev : State).life.trial = none) ∧
    (({ tag := 5, arg0 := 4096, length := 2, payload := [1, 2] } : Msg).arg0 + ({ tag := 5, arg0 := 4096, length := 2, payload := [1, 2] } : Msg).length ≤ slotBytes) := by decide +kernel

theorem witness_FirmwareStagesAndActivates_2 : (Admits (Tests.devStaged : State) .fwActivate ({ tag := 5 } : Msg) (Tests.mgmt : Session) = true) ∧
    (({ tag := 5 } : Msg).length = 0) ∧
    ((Tests.devStaged : State).life.inForce ≠ .locked) ∧
    ((Tests.devStaged : State).life.inForce ≠ .scrapped) ∧
    ((Tests.devStaged : State).life.trial = none) ∧
    ((Tests.devStaged : State).imageWhole (Tests.devStaged : State).stagedSlot = true) ∧
    ((Tests.devStaged : State).svnRuns (Tests.devStaged : State).stagedSlot = true) := by decide +kernel

theorem witness_FirmwareStagesAndActivates_3 : ((Tests.devTrial : State).alive = true) ∧
    ((Tests.devTrial : State).life.trial = some ({ slot := 1, started := 0, session := some 0, tag := 5 } : Trial)) := by decide +kernel

theorem witness_FirmwareStagesAndActivates_4 : (({ Tests.devTrial with hub := { timer := 2 ^ 30 } } : State).alive = true) ∧
    (({ Tests.devTrial with hub := { timer := 2 ^ 30 } } : State).life.trial = some ({ slot := 1, started := 0, session := some 0, tag := 5 } : Trial)) ∧
    (({ slot := 1, started := 0, session := some 0, tag := 5 } : Trial).started + 2 ^ 30 ≤ ({ Tests.devTrial with hub := { timer := 2 ^ 30 } } : State).hub.timer) := by decide +kernel

theorem witness_FirmwareStagesAndActivates_5 : ((Tests.devOpen : State).alive = true) ∧
    ((1 : Nat) < 2) := by decide +kernel

theorem witness_FirmwareStagesAndActivates_6 : (Admits (Tests.dev : State) .attest ({ session := 1, tag := 5, length := 8, payload := [1, 2, 3, 4, 5, 6, 7, 8] } : Msg) (Tests.tenant : Session) = true) ∧
    (8 ≤ ({ session := 1, tag := 5, length := 8, payload := [1, 2, 3, 4, 5, 6, 7, 8] } : Msg).length) ∧
    (({ session := 1, tag := 5, length := 8, payload := [1, 2, 3, 4, 5, 6, 7, 8] } : Msg).length ≤ 64) ∧
    ((Tests.dev : State).life.trial = none) := by decide +kernel

theorem witness_I3cServesTheBmc_1 : (Admits (Tests.devSigned : State) .lcAdvance ({ tag := 5, length := 192, payload := [3, 1, 0, 0, 0, 0, 0, 0] ++ List.replicate 57 9 ++ List.replicate 7 0 ++ List.replicate 114 3 ++ List.replicate 6 0 } : Msg) (Tests.mgmt : Session) = true) ∧
    ((.returned : LifeState) = lifeOfCode (ofLe (slice ({ tag := 5, length := 192, payload := [3, 1, 0, 0, 0, 0, 0, 0] ++ List.replicate 57 9 ++ List.replicate 7 0 ++ List.replicate 114 3 ++ List.replicate 6 0 } : Msg).payload 0 1))) ∧
    ((1 : Nat) = ofLe (slice ({ tag := 5, length := 192, payload := [3, 1, 0, 0, 0, 0, 0, 0] ++ List.replicate 57 9 ++ List.replicate 7 0 ++ List.replicate 114 3 ++ List.replicate 6 0 } : Msg).payload 1 1)) ∧
    ((0 : Nat) = ofLe (slice ({ tag := 5, length := 192, payload := [3, 1, 0, 0, 0, 0, 0, 0] ++ List.replicate 57 9 ++ List.replicate 7 0 ++ List.replicate 114 3 ++ List.replicate 6 0 } : Msg).payload 2 1)) ∧
    (({ tag := 5, length := 192, payload := [3, 1, 0, 0, 0, 0, 0, 0] ++ List.replicate 57 9 ++ List.replicate 7 0 ++ List.replicate 114 3 ++ List.replicate 6 0 } : Msg).length = 192) ∧
    (1 ≤ ofLe (slice ({ tag := 5, length := 192, payload := [3, 1, 0, 0, 0, 0, 0, 0] ++ List.replicate 57 9 ++ List.replicate 7 0 ++ List.replicate 114 3 ++ List.replicate 6 0 } : Msg).payload 0 1) ∧ ofLe (slice ({ tag := 5, length := 192, payload := [3, 1, 0, 0, 0, 0, 0, 0] ++ List.replicate 57 9 ++ List.replicate 7 0 ++ List.replicate 114 3 ++ List.replicate 6 0 } : Msg).payload 0 1) ≤ 4) ∧
    ((1 : Nat) = 0 ∧ (0 : Nat) ≤ 3 ∨ (1 : Nat) = 1 ∧ (0 : Nat) = 0) ∧
    ((allZero (slice ({ tag := 5, length := 192, payload := [3, 1, 0, 0, 0, 0, 0, 0] ++ List.replicate 57 9 ++ List.replicate 7 0 ++ List.replicate 114 3 ++ List.replicate 6 0 } : Msg).payload 3 5) && allZero (slice ({ tag := 5, length := 192, payload := [3, 1, 0, 0, 0, 0, 0, 0] ++ List.replicate 57 9 ++ List.replicate 7 0 ++ List.replicate 114 3 ++ List.replicate 6 0 } : Msg).payload 65 7) && allZero (slice ({ tag := 5, length := 192, payload := [3, 1, 0, 0, 0, 0, 0, 0] ++ List.replicate 57 9 ++ List.replicate 7 0 ++ List.replicate 114 3 ++ List.replicate 6 0 } : Msg).payload 186 6)) = true) ∧
    ((Tests.devSigned : State).otp.lc.length = 3) ∧
    ((Tests.devSigned : State).mayAdvance (.returned : LifeState) (1 : Nat) (0 : Nat) (slice ({ tag := 5, length := 192, payload := [3, 1, 0, 0, 0, 0, 0, 0] ++ List.replicate 57 9 ++ List.replicate 7 0 ++ List.replicate 114 3 ++ List.replicate 6 0 } : Msg).payload 8 57) = true) ∧
    ((Tests.devSigned : State).verifies (slice ({ tag := 5, length := 192, payload := [3, 1, 0, 0, 0, 0, 0, 0] ++ List.replicate 57 9 ++ List.replicate 7 0 ++ List.replicate 114 3 ++ List.replicate 6 0 } : Msg).payload 8 57) (shake256 ((Tests.devSigned : State).otp.identityDigest ++ toLe 1 (ofLe (slice ({ tag := 5, length := 192, payload := [3, 1, 0, 0, 0, 0, 0, 0] ++ List.replicate 57 9 ++ List.replicate 7 0 ++ List.replicate 114 3 ++ List.replicate 6 0 } : Msg).payload 0 1)) ++ ascii "lc advance") 64) (slice ({ tag := 5, length := 192, payload := [3, 1, 0, 0, 0, 0, 0, 0] ++ List.replicate 57 9 ++ List.replicate 7 0 ++ List.replicate 114 3 ++ List.replicate 6 0 } : Msg).payload 72 114) = true) ∧
    ((.returned : LifeState) = (Tests.devSigned : State).life.inForce ∨ lifeRow (Tests.devSigned : State).life.inForce (.returned : LifeState) = true) ∧
    ((Tests.devSigned : State).ctxs.all (fun c => !(Tests.devSigned : State).sessions.any (fun y => y.owns c)) = true) := by decide +kernel

theorem witness_I3cServesTheBmc_2 : ((Tests.devI3c : State).i3cServes = true) ∧
    ((Tests.devI3c : State).i3c.dynamic.isSome = true) ∧
    ((Tests.devI3c : State).i3c.answer = none) ∧
    ((Tests.devI3c : State).life.trial = none) ∧
    ((7 : Nat) < 2 ^ 32) ∧
    ((headerBytes Opcode.lcRead.code false false 0 0 7 0 0 0 ++ toLe 8 (tally (headerBytes Opcode.lcRead.code false false 0 0 7 0 0 0)) : Bytes) = headerBytes Opcode.lcRead.code false false 0 0 (7 : Nat) 0 0 0 ++ toLe 8 (tally (headerBytes Opcode.lcRead.code false false 0 0 (7 : Nat) 0 0 0))) := by decide +kernel

theorem witness_I3cServesTheBmc_3 : ((Tests.devI3c : State).i3cServes = true) ∧
    ((Tests.devI3c : State).i3c.dynamic.isSome = true) ∧
    ((Tests.devI3c : State).i3c.answer = none) ∧
    ((Tests.devI3c : State).life.trial = none) ∧
    ((7 : Nat) < 2 ^ 32) ∧
    ((Tests.devI3c : State).alive = true) ∧
    ((headerBytes Opcode.telemetry.code false false 0 0 7 0 0 3 ++ toLe 8 (tally (headerBytes Opcode.telemetry.code false false 0 0 7 0 0 3)) : Bytes) = headerBytes Opcode.telemetry.code false false 0 0 (7 : Nat) 0 0 3 ++ toLe 8 (tally (headerBytes Opcode.telemetry.code false false 0 0 (7 : Nat) 0 0 3))) := by decide +kernel

theorem witness_I3cServesTheBmc_4 : ((Tests.devI3cAns : State).i3cServes = true) ∧
    ((Tests.devI3cAns : State).i3c.dynamic.isSome = true) ∧
    ((Tests.devI3cAns : State).i3c.answer = some (([1] : Bytes), (0 : Nat))) := by decide +kernel

theorem witness_I3cServesTheBmc_5 : (({ Tests.devI3cAns with hub := { timer := 2 ^ 28 } } : State).i3cServes = true) ∧
    (({ Tests.devI3cAns with hub := { timer := 2 ^ 28 } } : State).i3c.answer = some (([1] : Bytes), (0 : Nat))) ∧
    ((0 : Nat) + 2 ^ 28 ≤ ({ Tests.devI3cAns with hub := { timer := 2 ^ 28 } } : State).hub.timer) := by decide +kernel

theorem witness_I3cServesTheBmc_6 : ((Tests.dev : State).i3cServes = true) ∧
    ((Tests.dev : State).i3c.dynamic = none) ∧
    ((none : Option Nat) = none ∨ (none : Option Nat) = some (if (Tests.dev : State).hub.straps.i3cSa then 0x3B else 0x3A)) := by decide +kernel

theorem witness_I3cServesTheBmc_7 : ((Tests.devI3c : State).i3cServes = true) ∧
    ((Tests.devI3c : State).i3c.dynamic.isSome = true) ∧
    ((Tests.devI3c : State).i3c.answer = none) ∧
    (ofLe (slice (List.replicate 40 1 : Bytes) ((List.replicate 40 1 : Bytes).length - 8) 8) ≠ tally ((List.replicate 40 1 : Bytes).take ((List.replicate 40 1 : Bytes).length - 8))) := by decide +kernel

theorem witness_HelloAndKeyExchangeOpenSession_1 : ((Tests.dev : State).alive = true) ∧
    ((Tests.dev : State).host.row.isSome = true) ∧
    ((Tests.helloFrames : List (QFrame × Segment)) = (({ ver := 2 } : QFrame), ({} : Segment)) :: (Tests.helloFrames.tail : List (QFrame × Segment))) ∧
    ((Tests.helloFrames : List (QFrame × Segment)).find? (HsFits (Tests.dev : State)) = some (({ kind := 2, seq := 3, peer := 7 }, Tests.helloSeg0) : QFrame × Segment)) ∧
    ((HsRun (Tests.dev : State) (Tests.helloFrames : List (QFrame × Segment)) (({ kind := 2, seq := 3, peer := 7 }, Tests.helloSeg0) : QFrame × Segment)).any (fun g => g.last) = true) ∧
    (msgOf 0 (segsWhole 0 (HsRun (Tests.dev : State) (Tests.helloFrames : List (QFrame × Segment)) (({ kind := 2, seq := 3, peer := 7 }, Tests.helloSeg0) : QFrame × Segment))) ((HsRun (Tests.dev : State) (Tests.helloFrames : List (QFrame × Segment)) (({ kind := 2, seq := 3, peer := 7 }, Tests.helloSeg0) : QFrame × Segment)).flatMap (fun g => g.data)) = (Opcode.hello.code, false, false, (Tests.helloMsg : Msg))) ∧
    ((Tests.dev : State).helloStatus (Tests.helloMsg : Msg) = .ok) ∧
    ((Tests.dev : State).nextSession = some ((2 : Nat), (0 : Nat))) := by decide +kernel

theorem witness_HelloAndKeyExchangeOpenSession_2 : ((Tests.dev : State).alive = true) ∧
    ((Tests.dev : State).host.row.isSome = true) ∧
    (([Tests.shortHello] : List (QFrame × Segment)) = ((Tests.shortHello.1 : QFrame), (Tests.shortHello.2 : Segment)) :: ([] : List (QFrame × Segment))) ∧
    (([Tests.shortHello] : List (QFrame × Segment)).find? (HsFits (Tests.dev : State)) = some (Tests.shortHello : QFrame × Segment)) ∧
    ((HsRun (Tests.dev : State) ([Tests.shortHello] : List (QFrame × Segment)) (Tests.shortHello : QFrame × Segment)).any (fun g => g.last) = true) ∧
    (msgOf 0 (segsWhole 0 (HsRun (Tests.dev : State) ([Tests.shortHello] : List (QFrame × Segment)) (Tests.shortHello : QFrame × Segment))) ((HsRun (Tests.dev : State) ([Tests.shortHello] : List (QFrame × Segment)) (Tests.shortHello : QFrame × Segment)).flatMap (fun g => g.data)) = (Opcode.hello.code, false, false, ({ tag := 5 } : Msg))) ∧
    ((Tests.dev : State).helloStatus ({ tag := 5 } : Msg) ≠ .ok) := by decide +kernel

theorem witness_HelloAndKeyExchangeOpenSession_3 : ((Tests.dev : State).alive = true) ∧
    ((Tests.dev : State).host.row.isSome = true) ∧
    (([({ kind := 1 }, {}), ({ kind := 2 }, {})] : List (QFrame × Segment)) = (({ kind := 1 } : QFrame), ({} : Segment)) :: ([({ kind := 2 }, {})] : List (QFrame × Segment))) ∧
    ((([({ kind := 1 }, {}), ({ kind := 2 }, {})] : List (QFrame × Segment)).filter (HsFits (Tests.dev : State))).all (fun x => !x.2.last) = true) := by decide +kernel

theorem witness_HelloAndKeyExchangeOpenSession_4 : ((Tests.devShaking : State).alive = true) ∧
    ((Tests.devShaking : State).inTurn .keyExchange ({ session := 2, tag := 5, length := 128, payload := List.replicate 114 3 ++ List.replicate 14 0 } : Msg) = true) ∧
    (((Tests.devShaking : State).takeMail .keyExchange ({ session := 2, tag := 5, length := 128, payload := List.replicate 114 3 ++ List.replicate 14 0 } : Msg)).session? ({ session := 2, tag := 5, length := 128, payload := List.replicate 114 3 ++ List.replicate 14 0 } : Msg).session = some (Tests.shaking : Session)) ∧
    ((Tests.shaking : Session).isOpen = false) ∧
    (((Tests.devShaking : State).takeMail .keyExchange ({ session := 2, tag := 5, length := 128, payload := List.replicate 114 3 ++ List.replicate 14 0 } : Msg)).refusalOf (Tests.shaking : Session) .keyExchange ({ session := 2, tag := 5, length := 128, payload := List.replicate 114 3 ++ List.replicate 14 0 } : Msg) = none) ∧
    (({ session := 2, tag := 5, length := 128, payload := List.replicate 114 3 ++ List.replicate 14 0 } : Msg).arg0 = 0) ∧
    (({ session := 2, tag := 5, length := 128, payload := List.replicate 114 3 ++ List.replicate 14 0 } : Msg).length = 128) ∧
    (allZero (slice ({ session := 2, tag := 5, length := 128, payload := List.replicate 114 3 ++ List.replicate 14 0 } : Msg).payload 114 14) = true) ∧
    ((Tests.devShaking : State).verifies (Tests.shaking : Session).hostKey ((Tests.shaking : Session).transcript ++ ascii "host") (slice ({ session := 2, tag := 5, length := 128, payload := List.replicate 114 3 ++ List.replicate 14 0 } : Msg).payload 0 114) = true) := by decide +kernel

theorem witness_HelloAndKeyExchangeOpenSession_5 : ((Tests.devShaking : State).alive = true) ∧
    ((Tests.devShaking : State).inTurn .keyExchange ({ session := 2, tag := 5, arg0 := 1, length := 1624, payload := [] } : Msg) = true) ∧
    (((Tests.devShaking : State).takeMail .keyExchange ({ session := 2, tag := 5, arg0 := 1, length := 1624, payload := [] } : Msg)).session? ({ session := 2, tag := 5, arg0 := 1, length := 1624, payload := [] } : Msg).session = some (Tests.shaking : Session)) ∧
    ((Tests.shaking : Session).isOpen = false) ∧
    (((Tests.devShaking : State).takeMail .keyExchange ({ session := 2, tag := 5, arg0 := 1, length := 1624, payload := [] } : Msg)).refusalOf (Tests.shaking : Session) .keyExchange ({ session := 2, tag := 5, arg0 := 1, length := 1624, payload := [] } : Msg) = none) ∧
    (({ session := 2, tag := 5, arg0 := 1, length := 1624, payload := [] } : Msg).arg0 = 1) ∧
    (({ session := 2, tag := 5, arg0 := 1, length := 1624, payload := [] } : Msg).length = 1624) := by decide +kernel

theorem witness_RekeyAndFeaturesChangeTheirSession_1 : (Admits (Tests.dev : State) .keyExchange ({ session := 1, tag := 5, arg0 := 1, length := 1624, payload := List.replicate 1624 0 } : Msg) (Tests.tenant : Session) = true) ∧
    (({ session := 1, tag := 5, arg0 := 1, length := 1624, payload := List.replicate 1624 0 } : Msg).arg0 = 1) ∧
    (({ session := 1, tag := 5, arg0 := 1, length := 1624, payload := List.replicate 1624 0 } : Msg).length = 1624) := by decide +kernel

theorem witness_RekeyAndFeaturesChangeTheirSession_2 : (Admits (Tests.dev : State) .features ({ session := 1, tag := 5, length := 16, payload := toLe 16 5 } : Msg) (Tests.tenant : Session) = true) ∧
    (({ session := 1, tag := 5, length := 16, payload := toLe 16 5 } : Msg).length = 16) := by decide +kernel

theorem witness_RekeyAndFeaturesChangeTheirSession_3 : ((Tests.devWorn 47 : State).alive = true) ∧
    ((Tests.devWorn 47 : State).session? (1 : Nat) = some (Tests.worn 47 : Session)) ∧
    ((Tests.worn 47 : Session).isOpen = true) ∧
    (2 ^ 47 ≤ (Tests.worn 47 : Session).keyFrames (true : Bool)) ∧
    (((Tests.worn 47 : Session).rotation (true : Bool)).1 = false) := by decide +kernel

theorem witness_RekeyAndFeaturesChangeTheirSession_4 : ((Tests.devWorn 48 : State).alive = true) ∧
    ((Tests.devWorn 48 : State).session? (1 : Nat) = some (Tests.worn 48 : Session)) ∧
    ((Tests.worn 48 : Session).isOpen = true) ∧
    (2 ^ 48 ≤ (Tests.worn 48 : Session).keyFrames (true : Bool)) ∧
    (((Tests.worn 48 : Session).rotation (true : Bool)).2 = 0 ∨ ((Tests.worn 48 : Session).rotation (true : Bool)).2 + 2 ^ 26 ≤ (Tests.devWorn 48 : State).hub.timer) := by decide +kernel

theorem witness_SessionsEnd_1 : (({ Tests.dev with hub := { timer := 2 ^ 26 } } : State).alive = true) ∧
    (({ Tests.dev with hub := { timer := 2 ^ 26 } } : State).session? (1 : Nat) = some (Tests.tenant : Session)) ∧
    ((Tests.tenant : Session).isOpen = true) ∧
    ((Tests.tenant : Session).lastFrame + 4 * (Tests.tenant : Session).hbPeriod * 2 ^ 20 ≤ ({ Tests.dev with hub := { timer := 2 ^ 26 } } : State).hub.timer) := by decide +kernel

theorem witness_SessionsEnd_2 : (({ Tests.devShaking with hub := { timer := 2 ^ 28 } } : State).alive = true) ∧
    (({ Tests.devShaking with hub := { timer := 2 ^ 28 } } : State).session? (2 : Nat) = some (Tests.shaking : Session)) ∧
    ((Tests.shaking : Session).isOpen = false) ∧
    ((Tests.shaking : Session).helloAt + 2 ^ 28 ≤ ({ Tests.devShaking with hub := { timer := 2 ^ 28 } } : State).hub.timer) := by decide +kernel

theorem witness_SessionsEnd_3 : (({ session := 1, kind := 3 } : QFrame).session = (1 : Nat)) ∧
    ((Tests.dev : State).alive = true) ∧
    ((Tests.dev : State).host.row.isSome = true) ∧
    ((Tests.dev : State).host.cfg.macsecReq = false ∨ ({ session := 1, kind := 3 } : QFrame).sec = true) ∧
    (({ session := 1, kind := 3 } : QFrame).ver = 1) ∧
    (({ session := 1, kind := 3 } : QFrame).kind = 3) ∧
    (({ session := 1, kind := 3 } : QFrame).rsvd = 0) ∧
    (({ session := 1, kind := 3 } : QFrame).tagOk = true) ∧
    ((Tests.dev : State).session? ({ session := 1, kind := 3 } : QFrame).session = some (Tests.tenant : Session)) ∧
    ((Tests.tenant : Session).gen = ({ session := 1, kind := 3 } : QFrame).sgen) ∧
    (({ session := 1, kind := 3 } : QFrame).kphase = (Tests.tenant : Session).rx.kphase) ∧
    ((Tests.tenant : Session).rx.oldKept = none) ∧
    (({ session := 1, kind := 3 } : QFrame).seq = (Tests.tenant : Session).rx.ack) ∧
    ((Tests.tenant : Session).rx.held = []) ∧
    (({ msg := 0xFFFFFFFF, slen := 16, last := true, data := List.replicate 16 0 } : Segment).rsvd = 0) ∧
    (({ msg := 0xFFFFFFFF, slen := 16, last := true, data := List.replicate 16 0 } : Segment).msg = 0xFFFFFFFF) ∧
    (({ msg := 0xFFFFFFFF, slen := 16, last := true, data := List.replicate 16 0 } : Segment).data.length = 16) ∧
    (allZero (({ msg := 0xFFFFFFFF, slen := 16, last := true, data := List.replicate 16 0 } : Segment).data.drop 2) = true) := by decide +kernel

theorem witness_SessionsEnd_4 : ((Tests.devWorn 49 : State).alive = true) ∧
    ((Tests.devWorn 49 : State).session? (1 : Nat) = some (Tests.worn 49 : Session)) ∧
    ((Tests.worn 49 : Session).isOpen = true) ∧
    (2 ^ 48 + 2 ^ 32 ≤ (Tests.worn 49 : Session).keyFrames (true : Bool)) := by decide +kernel

theorem witness_SessionsEnd_5 : (({ Tests.devBusy with hub := { timer := 2 ^ 26 } } : State).alive = true) ∧
    (({ Tests.devBusy with hub := { timer := 2 ^ 26 } } : State).session? (1 : Nat) = some (Tests.tenant : Session)) ∧
    ((Tests.tenant : Session).isOpen = true) ∧
    ((Tests.tenant : Session).role = .tenant) ∧
    ((Tests.tenant : Session).lastFrame + 4 * (Tests.tenant : Session).hbPeriod * 2 ^ 20 ≤ ({ Tests.devBusy with hub := { timer := 2 ^ 26 } } : State).hub.timer) ∧
    ((({ Tests.devBusy with hub := { timer := 2 ^ 26 } } : State).ctxs.map (fun c => c.id)).Nodup) := by decide +kernel

theorem witness_FramesMoveSegments_1 : ((Tests.dev : State).alive = true) ∧
    ((Tests.dev : State).host.row.isSome = true) ∧
    ((Tests.dev : State).host.cfg.macsecReq = false ∨ ({ session := 1, peer := 4 } : QFrame).sec = true) ∧
    (({ session := 1, peer := 4 } : QFrame).ver = 1) ∧
    (({ session := 1, peer := 4 } : QFrame).kind = 0) ∧
    (({ session := 1, peer := 4 } : QFrame).rsvd = 0) ∧
    (({ session := 1, peer := 4 } : QFrame).tagOk = true) ∧
    ((Tests.dev : State).session? ({ session := 1, peer := 4 } : QFrame).session = some (Tests.tenant : Session)) ∧
    ((Tests.tenant : Session).gen = ({ session := 1, peer := 4 } : QFrame).sgen) ∧
    (({ session := 1, peer := 4 } : QFrame).kphase = (Tests.tenant : Session).rx.kphase) ∧
    ((Tests.tenant : Session).rx.oldKept = none) ∧
    (({ session := 1, peer := 4 } : QFrame).seq = (Tests.tenant : Session).rx.ack) ∧
    ((Tests.tenant : Session).rx.held = []) ∧
    (({ slen := 2, data := [1, 2] } : Segment).rsvd = 0) ∧
    (({ slen := 2, data := [1, 2] } : Segment).msg = (Tests.tenant : Session).rx.nextMsg) ∧
    (({ slen := 2, data := [1, 2] } : Segment).last = false) ∧
    (((Tests.tenant : Session).rx.segs.any (fun h => h.msg == (Tests.tenant : Session).rx.nextMsg && h.last)) = false) := by decide +kernel

theorem witness_FramesMoveSegments_2 : ((Tests.dev : State).alive = true) ∧
    ((Tests.dev : State).host.row.isSome = true) ∧
    ((Tests.dev : State).host.cfg.macsecReq = false ∨ ({ session := 1 } : QFrame).sec = true) ∧
    (({ session := 1 } : QFrame).ver = 1) ∧
    (({ session := 1 } : QFrame).kind = 0) ∧
    (({ session := 1 } : QFrame).rsvd = 0) ∧
    (({ session := 1 } : QFrame).tagOk = true) ∧
    ((Tests.dev : State).session? ({ session := 1 } : QFrame).session = some (Tests.tenant : Session)) ∧
    ((Tests.tenant : Session).gen = ({ session := 1 } : QFrame).sgen) ∧
    (({ session := 1 } : QFrame).kphase = (Tests.tenant : Session).rx.kphase) ∧
    ((Tests.tenant : Session).rx.oldKept = none) ∧
    (({ session := 1 } : QFrame).seq = (Tests.tenant : Session).rx.ack) ∧
    ((Tests.tenant : Session).rx.held = []) ∧
    ((Tests.tenant : Session).isOpen = true) ∧
    (({ slen := 32, last := true, data := headerBytes Opcode.heartbeat.code false false 0 0 9 0 0 0 } : Segment).rsvd = 0) ∧
    (({ slen := 32, last := true, data := headerBytes Opcode.heartbeat.code false false 0 0 9 0 0 0 } : Segment).msg = (Tests.tenant : Session).rx.nextMsg) ∧
    (({ slen := 32, last := true, data := headerBytes Opcode.heartbeat.code false false 0 0 9 0 0 0 } : Segment).msg ≠ 0xFFFFFFFF) ∧
    (({ slen := 32, last := true, data := headerBytes Opcode.heartbeat.code false false 0 0 9 0 0 0 } : Segment).last = true) ∧
    (({ slen := 32, last := true, data := headerBytes Opcode.heartbeat.code false false 0 0 9 0 0 0 } : Segment).off = 0) ∧
    (({ slen := 32, last := true, data := headerBytes Opcode.heartbeat.code false false 0 0 9 0 0 0 } : Segment).slen = ({ slen := 32, last := true, data := headerBytes Opcode.heartbeat.code false false 0 0 9 0 0 0 } : Segment).data.length) ∧
    ((Tests.tenant : Session).rx.segs = []) ∧
    ((.heartbeat : Opcode).code / 256 ≠ 12) ∧
    ((.heartbeat : Opcode) ≠ .hello) ∧
    ((.heartbeat : Opcode) ≠ .event) ∧
    ((msgOf ({ session := 1 } : QFrame).session true ({ slen := 32, last := true, data := headerBytes Opcode.heartbeat.code false false 0 0 9 0 0 0 } : Segment).data).1 = (.heartbeat : Opcode).code) ∧
    ((msgOf ({ session := 1 } : QFrame).session true ({ slen := 32, last := true, data := headerBytes Opcode.heartbeat.code false false 0 0 9 0 0 0 } : Segment).data).2.1 = false) := by decide +kernel

theorem witness_FramesMoveSegments_3 : ((Tests.dev : State).alive = true) ∧
    ((Tests.dev : State).host.row.isSome = true) ∧
    ((Tests.dev : State).host.cfg.macsecReq = false ∨ ({ session := 1, seq := 4095 } : QFrame).sec = true) ∧
    (({ session := 1, seq := 4095 } : QFrame).ver = 1) ∧
    (({ session := 1, seq := 4095 } : QFrame).kind = 0) ∧
    (({ session := 1, seq := 4095 } : QFrame).rsvd = 0) ∧
    (({ session := 1, seq := 4095 } : QFrame).tagOk = true) ∧
    ((Tests.dev : State).session? ({ session := 1, seq := 4095 } : QFrame).session = some (Tests.tenant : Session)) ∧
    ((Tests.tenant : Session).gen = ({ session := 1, seq := 4095 } : QFrame).sgen) ∧
    (({ session := 1, seq := 4095 } : QFrame).kphase = (Tests.tenant : Session).rx.kphase) ∧
    ((Tests.tenant : Session).rx.oldKept = none) ∧
    ((Tests.tenant : Session).rx.ack < ({ session := 1, seq := 4095 } : QFrame).seq) ∧
    (({ session := 1, seq := 4095 } : QFrame).seq < (Tests.tenant : Session).rx.ack + 4096) ∧
    (((Tests.tenant : Session).rx.held.any (fun h => h.seq == ({ session := 1, seq := 4095 } : QFrame).seq || h.seq == (Tests.tenant : Session).rx.ack)) = false) ∧
    (({} : Segment).rsvd = 0) := by decide +kernel

theorem witness_FramesMoveSegments_4 : ((Tests.devSending : State).alive = true) ∧
    ((Tests.devSending : State).host.row.isSome = true) ∧
    ((Tests.devSending : State).host.cfg.macsecReq = false ∨ ({ session := 1, kind := 1 } : QFrame).sec = true) ∧
    (({ session := 1, kind := 1 } : QFrame).ver = 1) ∧
    (({ session := 1, kind := 1 } : QFrame).kind = 1) ∧
    (({ session := 1, kind := 1 } : QFrame).rsvd = 0) ∧
    (({ session := 1, kind := 1 } : QFrame).tagOk = true) ∧
    ((Tests.devSending : State).session? ({ session := 1, kind := 1 } : QFrame).session = some (Tests.sending : Session)) ∧
    ((Tests.sending : Session).gen = ({ session := 1, kind := 1 } : QFrame).sgen) ∧
    (({ session := 1, kind := 1 } : QFrame).kphase = (Tests.sending : Session).rx.kphase) ∧
    (({ ack := 0, sack := 1, window := 1024 } : AckBody).rsvd = 0) ∧
    (({ ack := 0, sack := 1, window := 1024 } : AckBody).window ≤ 1024) ∧
    ((Tests.sending : Session).rx.ackSeq ≤ ({ session := 1, kind := 1 } : QFrame).seq) ∧
    ((Tests.sending : Session).tx.waiting = []) := by decide +kernel

theorem witness_FramesMoveSegments_5 : (({ Tests.devSending with hub := { timer := 256 } } : State).alive = true) ∧
    (({ Tests.devSending with hub := { timer := 256 } } : State).hostSends = true) ∧
    (({ Tests.devSending with hub := { timer := 256 } } : State).session? (1 : Nat) = some (Tests.sending : Session)) ∧
    (0 < (Tests.sending : Session).rx.unacked) ∧
    ((Tests.sending : Session).rx.since + 256 ≤ ({ Tests.devSending with hub := { timer := 256 } } : State).hub.timer) := by decide +kernel

theorem witness_FramesMoveSegments_6 : (({ Tests.devSending with hub := { timer := 4096 } } : State).hostSends = true) ∧
    (({ Tests.devSending with hub := { timer := 4096 } } : State).session? (1 : Nat) = some (Tests.sending : Session)) ∧
    ((Tests.sending : Session).tx.unacked ≠ []) ∧
    ((Tests.sending : Session).tx.lastAdvance + (Tests.sending : Session).tx.rto ≤ ({ Tests.devSending with hub := { timer := 4096 } } : State).hub.timer) := by decide +kernel

theorem witness_EventsGoToManagement_1 : ((Tests.devEvent : State).alive = true) ∧
    ((Tests.devEvent : State).life.trial = none) ∧
    ((Tests.devEvent : State).session? (0 : Nat) = some (Tests.mgmt : Session)) ∧
    ((Tests.mgmt : Session).isOpen = true) ∧
    ((Tests.mgmt : Session).role = .management) ∧
    (((Tests.mgmt : Session).events.filter (fun r => !r.answered)).length < 8) ∧
    (((Tests.devEvent : State).deviceEntries (Tests.mgmt : Session)).take 818 ≠ []) ∧
    ((Tests.devEvent : State).ledger.freeTag hubTags 4096 = some (12288 : Nat)) := by decide +kernel

theorem witness_EventsGoToManagement_2 : ((Tests.devAwaiting : State).listens ({ session := 0, tag := 12288 + 2 ^ 14, arg0 := 1 } : Msg).session = true) ∧
    ((Tests.devAwaiting : State).session? ({ session := 0, tag := 12288 + 2 ^ 14, arg0 := 1 } : Msg).session = some (Tests.waitingMgmt : Session)) ∧
    ((Tests.waitingMgmt : Session).role = .management) ∧
    ((Tests.devAwaiting : State).links.leases.all (fun l => !l.probeDue) = true) ∧
    (({ session := 0, tag := 12288 + 2 ^ 14, arg0 := 1 } : Msg).status = 0) ∧
    ((Tests.waitingMgmt : Session).events.find? (fun r => r.tag == ({ session := 0, tag := 12288 + 2 ^ 14, arg0 := 1 } : Msg).tag % 2 ^ 14 && r.gen == ({ session := 0, tag := 12288 + 2 ^ 14, arg0 := 1 } : Msg).tag / 2 ^ 14 && !r.answered) = some (Tests.req0 : EventReq)) ∧
    ((Tests.req0 : EventReq).ctx = none) := by decide +kernel

theorem witness_EventsGoToManagement_3 : (({ Tests.devAwaiting with hub := { timer := 9 } } : State).alive = true) ∧
    (({ Tests.devAwaiting with hub := { timer := 9 } } : State).life.trial = none) ∧
    (({ Tests.devAwaiting with hub := { timer := 9 } } : State).session? (0 : Nat) = some (Tests.waitingMgmt : Session)) ∧
    ((Tests.waitingMgmt : Session).role = .management) ∧
    ((Tests.waitingMgmt : Session).events.find? (fun r => r.tag == (12288 : Nat) && decide (r.deadline ≤ ({ Tests.devAwaiting with hub := { timer := 9 } } : State).hub.timer)) = some (Tests.req0 : EventReq)) ∧
    ((Tests.req0 : EventReq).ctx = none) ∧
    ((Tests.req0 : EventReq).answered = false) ∧
    (({ Tests.devAwaiting with hub := { timer := 9 } } : State).unconsumed (Tests.waitingMgmt : Session) (Tests.req0 : EventReq) ≠ []) ∧
    ((({ Tests.devAwaiting with hub := { timer := 9 } } : State).ledger.expire (12288 : Nat) ({ Tests.devAwaiting with hub := { timer := 9 } } : State).hub.timer).freeTag hubTags 4096 = some (12289 : Nat)) := by decide +kernel

theorem witness_HostConfigAndRevert_1 : (Admits (Tests.dev : State) .hostConfig ({ tag := 5, length := 80, payload := [3] ++ List.replicate 79 0 } : Msg) (Tests.mgmt : Session) = true) ∧
    ((Tests.mgmt : Session).role = .management) ∧
    (({ tag := 5, length := 80, payload := [3] ++ List.replicate 79 0 } : Msg).length = 80) ∧
    ((3 : Nat) = ofLe (slice ({ tag := 5, length := 80, payload := [3] ++ List.replicate 79 0 } : Msg).payload 0 80)) ∧
    (anySet (3 : Nat) 15 13 = false) ∧
    (anySet (3 : Nat) 127 96 = false) ∧
    ((hostCfgOf (3 : Nat)).ip6Plen ≤ 128) ∧
    ((hostCfgOf (3 : Nat)).ip4Plen ≤ 32) ∧
    ((Tests.dev : State).hostSends = true) ∧
    ((Tests.mgmt : Session).tx.waiting = []) ∧
    ((Tests.mgmt : Session).tx.unacked.length < min (Tests.mgmt : Session).tx.window 1024) ∧
    (5 ≤ (Tests.mgmt : Session).segLog2) ∧
    ((hostCfgOf (3 : Nat)).macsec = false) ∧
    ((hostCfgOf (3 : Nat)).macsecReq = false) := by decide +kernel

theorem witness_HostConfigAndRevert_2 : (Admits ({ Tests.dev with host := { row := some 0, paused := true } } : State) .hostConfig ({ tag := 5, length := 80, payload := [3] ++ List.replicate 79 0 } : Msg) (Tests.mgmt : Session) = true) ∧
    ((Tests.mgmt : Session).role = .management) ∧
    (({ tag := 5, length := 80, payload := [3] ++ List.replicate 79 0 } : Msg).length = 80) ∧
    ((3 : Nat) = ofLe (slice ({ tag := 5, length := 80, payload := [3] ++ List.replicate 79 0 } : Msg).payload 0 80)) ∧
    (anySet (3 : Nat) 15 13 = false) ∧
    (anySet (3 : Nat) 127 96 = false) ∧
    ((hostCfgOf (3 : Nat)).ip6Plen ≤ 128) ∧
    ((hostCfgOf (3 : Nat)).ip4Plen ≤ 32) ∧
    (({ Tests.dev with host := { row := some 0, paused := true } } : State).hostSends = false) ∧
    ((hostCfgOf (3 : Nat)).macsec = false) ∧
    ((hostCfgOf (3 : Nat)).macsecReq = false) := by decide +kernel

theorem witness_HostConfigAndRevert_3 : (Admits (Tests.dev : State) .hostConfig ({ tag := 5, length := 80, payload := [3, 12] ++ List.replicate 30 0 ++ [7] ++ List.replicate 47 0 } : Msg) (Tests.mgmt : Session) = true) ∧
    ((Tests.mgmt : Session).role = .management) ∧
    (({ tag := 5, length := 80, payload := [3, 12] ++ List.replicate 30 0 ++ [7] ++ List.replicate 47 0 } : Msg).length = 80) ∧
    ((3075 + 7 * 2 ^ 256 : Nat) = ofLe (slice ({ tag := 5, length := 80, payload := [3, 12] ++ List.replicate 30 0 ++ [7] ++ List.replicate 47 0 } : Msg).payload 0 80)) ∧
    (anySet (3075 + 7 * 2 ^ 256 : Nat) 15 13 = false) ∧
    (anySet (3075 + 7 * 2 ^ 256 : Nat) 127 96 = false) ∧
    ((hostCfgOf (3075 + 7 * 2 ^ 256 : Nat)).ip6Plen ≤ 128) ∧
    ((hostCfgOf (3075 + 7 * 2 ^ 256 : Nat)).ip4Plen ≤ 32) ∧
    ((Tests.dev : State).hostSends = true) ∧
    ((Tests.mgmt : Session).tx.waiting = []) ∧
    ((Tests.mgmt : Session).tx.unacked.length < min (Tests.mgmt : Session).tx.window 1024) ∧
    (5 ≤ (Tests.mgmt : Session).segLog2) ∧
    ((hostCfgOf (3075 + 7 * 2 ^ 256 : Nat)).macsec = true) ∧
    ((hostCfgOf (3075 + 7 * 2 ^ 256 : Nat)).macsecReq = true) ∧
    ((Tests.mgmt : Session).has fMacsec = true) ∧
    (field (3075 + 7 * 2 ^ 256 : Nat) 511 256 ≠ 0) ∧
    ((Tests.dev : State).host.secured = false) := by decide +kernel

theorem witness_HostConfigAndRevert_4 : (({ Tests.dev with host := { row := some 0, cfg := { pfc := 3 }, previous := some ({}, 5, 0) } } : State).alive = true) ∧
    (({ Tests.dev with host := { row := some 0, cfg := { pfc := 3 }, previous := some ({}, 5, 0) } } : State).host.previous = some (({} : HostCfg), (5 : Nat), (0 : Nat))) ∧
    ((0 : Nat) ≤ ({ Tests.dev with host := { row := some 0, cfg := { pfc := 3 }, previous := some ({}, 5, 0) } } : State).hub.timer) ∧
    (({ Tests.dev with host := { row := some 0, cfg := { pfc := 3 }, previous := some ({}, 5, 0) } } : State).host.secured = false) := by decide +kernel

theorem witness_HostPortModesAndProtocols_1 : ((Tests.dev : State).alive = true) ∧
    ((2 : Nat) < 5) ∧
    ((2 : Nat) ≠ 0 ∨ (Tests.dev : State).hub.straps.hostMax = false) ∧
    ((2 : Nat) ∈ ({ offered := [1, 2, 3], trains := [2, 3] } : HostTraining).offered) ∧
    ((2 : Nat) ∈ ({ offered := [1, 2, 3], trains := [2, 3] } : HostTraining).trains) ∧
    (∀ r < (2 : Nat), (r = 0 ∧ (Tests.dev : State).hub.straps.hostMax = true) ∨ r ∉ ({ offered := [1, 2, 3], trains := [2, 3] } : HostTraining).offered ∨ r ∉ ({ offered := [1, 2, 3], trains := [2, 3] } : HostTraining).trains) := by decide +kernel

theorem witness_HostPortModesAndProtocols_2 : ((Tests.dev : State).alive = true) ∧
    (∀ r < 5, (r = 0 ∧ (Tests.dev : State).hub.straps.hostMax = true) ∨ r ∉ ({ offered := [1], trains := [2] } : HostTraining).offered ∨ r ∉ ({ offered := [1], trains := [2] } : HostTraining).trains) := by decide +kernel

theorem witness_HostPortModesAndProtocols_3 : (({ Tests.dev with host := { row := some 0, ip4Leased := 9 } } : State).alive = true) ∧
    (({ Tests.dev with host := { row := some 0, ip4Leased := 9 } } : State).host.row.isSome = true) ∧
    (({ Tests.dev with host := { row := some 0, ip4Leased := 9 } } : State).host.cfg.macsecReq = false) ∧
    (({ Tests.dev with host := { row := some 0, ip4Leased := 9 } } : State).ip4Of = some (9 : Nat)) := by decide +kernel

theorem witness_HostPortModesAndProtocols_4 : ((Tests.dev : State).alive = true) ∧
    ((Tests.dev : State).host.row.isSome = true) ∧
    ((Tests.dev : State).host.cfg.macsecReq = false) := by decide +kernel

theorem witness_HostPortModesAndProtocols_5 : (({ Tests.dev with host := { row := some 0, cfg := { macsec := true } } } : State).alive = true) ∧
    (({ Tests.dev with host := { row := some 0, cfg := { macsec := true } } } : State).host.row.isSome = true) ∧
    (({ Tests.dev with host := { row := some 0, cfg := { macsec := true } } } : State).host.cfg.macsec = true) := by decide +kernel

theorem witness_HostPortModesAndProtocols_6 : ((Tests.dev : State).alive = true) ∧
    ((Tests.dev : State).host.row.isSome = true) := by decide +kernel

theorem witness_HostPortModesAndProtocols_7 : (({ Tests.dev with host := { row := some 0, cfg := { pfc := 3 } } } : State).alive = true) ∧
    (({ Tests.dev with host := { row := some 0, cfg := { pfc := 3 } } } : State).host.row.isSome = true) ∧
    (({ Tests.dev with host := { row := some 0, cfg := { pfc := 3 } } } : State).host.cfg.pfc < 8) ∧
    ((3 : Nat) = ({ Tests.dev with host := { row := some 0, cfg := { pfc := 3 } } } : State).host.cfg.pfc) := by decide +kernel

theorem witness_HostPortModesAndProtocols_8 : (({ Tests.dev with host := { row := some 0, paused := true, cfg := { pfc := 3 } } } : State).alive = true) ∧
    (({ Tests.dev with host := { row := some 0, paused := true, cfg := { pfc := 3 } } } : State).host.row.isSome = true) ∧
    (({ Tests.dev with host := { row := some 0, paused := true, cfg := { pfc := 3 } } } : State).host.cfg.pfc < 8) ∧
    ((3 : Nat) = ({ Tests.dev with host := { row := some 0, paused := true, cfg := { pfc := 3 } } } : State).host.cfg.pfc) := by decide +kernel

theorem witness_HostPortModesAndProtocols_9 : ((4 : Nat) ≠ ({ Tests.dev with host := { row := some 0, cfg := { pfc := 3 } } } : State).host.cfg.pfc) := by decide +kernel

theorem witness_KeysAreMadeAndDestroyed_1 : (Admits (Tests.devKeys : State) .keyLoad (Tests.keyMsg 0 : Msg) (Tests.tenant : Session) = true) ∧
    ((Tests.devKeys : State).ctx? (Tests.keyMsg 0 : Msg).ctx = some (Tests.ctx0 : Ctx)) ∧
    ((Tests.ctx0 : Ctx).consortium = false) ∧
    ((Tests.keyMsg 0 : Msg).length = 64) ∧
    ((ofLe (slice (Tests.keyMsg 0).payload 0 64) : Nat) = ofLe (slice (Tests.keyMsg 0 : Msg).payload 0 64)) ∧
    ((anySet (ofLe (slice (Tests.keyMsg 0).payload 0 64) : Nat) 63 13 || anySet (ofLe (slice (Tests.keyMsg 0).payload 0 64) : Nat) 127 112 || anySet (ofLe (slice (Tests.keyMsg 0).payload 0 64) : Nat) 191 152 || anySet (ofLe (slice (Tests.keyMsg 0).payload 0 64) : Nat) 511 448) = false) ∧
    ((Tests.devKeys : State).freeKeyId = some (Tests.firstKey : Nat)) ∧
    ((Tests.devKeys : State).vault.slots.length < 1024) ∧
    (((Tests.devKeys : State).keysOf (Tests.ctx0 : Ctx)).length < 64) ∧
    (field (ofLe (slice (Tests.keyMsg 0).payload 0 64) : Nat) 11 0 = 0) ∧
    (field (ofLe (slice (Tests.keyMsg 0).payload 0 64) : Nat) 151 128 = 0) := by decide +kernel

theorem witness_KeysAreMadeAndDestroyed_2 : (Admits (Tests.devPaged : State) .keyLoad (Tests.keyMsg 1 : Msg) (Tests.tenant : Session) = true) ∧
    ((Tests.devPaged : State).ctx? (Tests.keyMsg 1 : Msg).ctx = some (Tests.ctxPaged : Ctx)) ∧
    ((Tests.ctxPaged : Ctx).consortium = false) ∧
    ((Tests.keyMsg 1 : Msg).length = 64) ∧
    ((ofLe (slice (Tests.keyMsg 1).payload 0 64) : Nat) = ofLe (slice (Tests.keyMsg 1 : Msg).payload 0 64)) ∧
    ((anySet (ofLe (slice (Tests.keyMsg 1).payload 0 64) : Nat) 63 13 || anySet (ofLe (slice (Tests.keyMsg 1).payload 0 64) : Nat) 127 112 || anySet (ofLe (slice (Tests.keyMsg 1).payload 0 64) : Nat) 191 152 || anySet (ofLe (slice (Tests.keyMsg 1).payload 0 64) : Nat) 511 448) = false) ∧
    ((Tests.devPaged : State).freeKeyId = some (Tests.firstKey : Nat)) ∧
    ((Tests.devPaged : State).vault.slots.length < 1024) ∧
    (((Tests.devPaged : State).keysOf (Tests.ctxPaged : Ctx)).length < 64) ∧
    (field (ofLe (slice (Tests.keyMsg 1).payload 0 64) : Nat) 11 0 = 0) ∧
    ((1 : Nat) = field (ofLe (slice (Tests.keyMsg 1).payload 0 64) : Nat) 151 128) ∧
    ((1 : Nat) ≠ 0) ∧
    ((0 : Nat) = field (ofLe (slice (Tests.keyMsg 1).payload 0 64) : Nat) 111 64) ∧
    ((0 : Nat) % pageSize = 0) ∧
    ((0 : Nat) + (1 : Nat) * pageSize ≤ 2 ^ 48) ∧
    ((Tests.ctxPaged : Ctx).mapped (0 : Nat) ((1 : Nat) * pageSize) = true) ∧
    (((Tests.ctxPaged : Ctx).rangePages ((0 : Nat) / pageSize) (1 : Nat)).all (fun p => p.share.isNone) = true) := by decide +kernel

theorem witness_KeysAreMadeAndDestroyed_3 : (Admits (Tests.devLoaded : State) .keyDerive ({ (Tests.keyMsg 0) with payload := toLe 64 Tests.firstKey } : Msg) (Tests.tenant : Session) = true) ∧
    ((Tests.devLoaded : State).ctx? ({ (Tests.keyMsg 0) with payload := toLe 64 Tests.firstKey } : Msg).ctx = some (Tests.ctx0 : Ctx)) ∧
    ((Tests.ctx0 : Ctx).consortium = false) ∧
    (({ (Tests.keyMsg 0) with payload := toLe 64 Tests.firstKey } : Msg).length = 64) ∧
    ((Tests.firstKey : Nat) = ofLe (slice ({ (Tests.keyMsg 0) with payload := toLe 64 Tests.firstKey } : Msg).payload 0 64)) ∧
    ((anySet (Tests.firstKey : Nat) 63 13 || anySet (Tests.firstKey : Nat) 127 112 || anySet (Tests.firstKey : Nat) 191 152 || anySet (Tests.firstKey : Nat) 511 448) = false) ∧
    ((Tests.devLoaded : State).freeKeyId = some (Tests.firstKey + 1 : Nat)) ∧
    ((Tests.devLoaded : State).vault.slots.length < 1024) ∧
    (((Tests.devLoaded : State).keysOf (Tests.ctx0 : Ctx)).length < 64) ∧
    (field (Tests.firstKey : Nat) 151 128 = 0) ∧
    ((Tests.devLoaded : State).namedKey (Tests.tenant : Session) (Tests.ctx0 : Ctx) (field (Tests.firstKey : Nat) 11 0) = some (Tests.loadedKey : KeySlot)) ∧
    ((Tests.loadedKey : KeySlot).derivable = true) := by decide +kernel

theorem witness_KeysAreMadeAndDestroyed_4 : (Admits (Tests.devLoaded : State) .keyDestroy ({ (Tests.keyMsg 0) with length := 8, payload := toLe 8 Tests.firstKey } : Msg) (Tests.tenant : Session) = true) ∧
    ((Tests.devLoaded : State).ctx? ({ (Tests.keyMsg 0) with length := 8, payload := toLe 8 Tests.firstKey } : Msg).ctx = some (Tests.ctx0 : Ctx)) ∧
    (({ (Tests.keyMsg 0) with length := 8, payload := toLe 8 Tests.firstKey } : Msg).length = 8) ∧
    ((Tests.firstKey : Nat) = ofLe (slice ({ (Tests.keyMsg 0) with length := 8, payload := toLe 8 Tests.firstKey } : Msg).payload 0 8)) ∧
    ((Tests.firstKey : Nat) = (Tests.firstKey : Nat)) ∧
    ((Tests.firstKey : Nat) < 4096) ∧
    (((Tests.devLoaded : State).namedKey (Tests.tenant : Session) (Tests.ctx0 : Ctx) (Tests.firstKey : Nat)).isSome = true) := by decide +kernel

theorem witness_CtxCreateMakesSuspendedContext_1 : (Admits (Tests.devBusy : State) .ctxCreate ({ session := 1, tag := 5, length := 48, payload := List.replicate 48 0 } : Msg) (Tests.tenant : Session) = true) ∧
    (({ session := 1, tag := 5, length := 48, payload := List.replicate 48 0 } : Msg).length = 48) ∧
    (anySet (ofLe (slice ({ session := 1, tag := 5, length := 48, payload := List.replicate 48 0 } : Msg).payload 0 48)) 127 0 = false) ∧
    (anySet (ofLe (slice ({ session := 1, tag := 5, length := 48, payload := List.replicate 48 0 } : Msg).payload 0 48)) 383 128 = false) ∧
    (pickId 4096 ((Tests.devBusy : State).ctxs.map (fun c => c.id) ++ (Tests.devBusy : State).links.lent.map (fun y => y.guest)) (Tests.devBusy : State).ctxsFreed (Tests.devBusy : State).hub.timer (fun n => (Tests.devBusy : State).ledger.entries.any (fun e => e.ctx == some n)) = some ((0 : Nat), (0 : Nat))) := by decide +kernel

theorem witness_CtxResumeMovesResidency_1 : (Admits (Tests.devNew : State) .ctxResume (Tests.resumeMsg : Msg) (Tests.tenant : Session) = true) ∧
    ((Tests.devNew : State).ctx? (Tests.resumeMsg : Msg).ctx = some (Tests.ctxNew : Ctx)) ∧
    ((Tests.resumeMsg : Msg).length = 32) ∧
    ((resumeOf (ofLe (slice Tests.resumeMsg.payload 0 32)) : Resume) = resumeOf (ofLe (slice (Tests.resumeMsg : Msg).payload 0 32))) ∧
    ((resumeOf (ofLe (slice Tests.resumeMsg.payload 0 32)) : Resume).rsvd = false) ∧
    ((resumeOf (ofLe (slice Tests.resumeMsg.payload 0 32)) : Resume).form = 0) ∧
    ((Tests.tenant : Session).owns (Tests.ctxNew : Ctx) = true) ∧
    ((Tests.ctxNew : Ctx).ring = none) ∧
    ((Tests.ctxNew : Ctx).consortium = false) ∧
    (10 ≤ (resumeOf (ofLe (slice Tests.resumeMsg.payload 0 32)) : Resume).evrLog2) ∧
    ((resumeOf (ofLe (slice Tests.resumeMsg.payload 0 32)) : Resume).scaleN ≤ 65536) ∧
    ((Tests.ctxNew : Ctx).resumeBeyond (resumeOf (ofLe (slice Tests.resumeMsg.payload 0 32)) : Resume) = false) ∧
    ((Tests.devNew.takeMail .ctxResume Tests.resumeMsg : State) = (Tests.devNew : State).takeMail .ctxResume (Tests.resumeMsg : Msg)) ∧
    (((Tests.devNew.takeMail .ctxResume Tests.resumeMsg : State).writeV (Tests.ctxNew : Ctx).id none [] (resumeOf (ofLe (slice Tests.resumeMsg.payload 0 32)) : Resume).scaleAddr ((List.range (resumeOf (ofLe (slice Tests.resumeMsg.payload 0 32)) : Resume).scaleN).flatMap (fun _ => ScaleSlot.new.bytes))).2 = none) := by decide +kernel

theorem witness_CtxResumeMovesResidency_2 : (Admits (Tests.devIdle .suspended : State) .ctxResume ({ session := 1, tag := 5, ctx := 3, ctxGen := 1, length := 32, payload := [1] ++ List.replicate 31 0 } : Msg) (Tests.tenant : Session) = true) ∧
    ((Tests.devIdle .suspended : State).ctx? ({ session := 1, tag := 5, ctx := 3, ctxGen := 1, length := 32, payload := [1] ++ List.replicate 31 0 } : Msg).ctx = some (Tests.ctxIdle .suspended : Ctx)) ∧
    (({ session := 1, tag := 5, ctx := 3, ctxGen := 1, length := 32, payload := [1] ++ List.replicate 31 0 } : Msg).length = 32) ∧
    ((resumeOf 1 : Resume) = resumeOf (ofLe (slice ({ session := 1, tag := 5, ctx := 3, ctxGen := 1, length := 32, payload := [1] ++ List.replicate 31 0 } : Msg).payload 0 32))) ∧
    ((resumeOf 1 : Resume).rsvd = false) ∧
    ((resumeOf 1 : Resume).form = 1) ∧
    ((Tests.ctxIdle .suspended : Ctx).ring.isSome = true) ∧
    ((Tests.ctxIdle .suspended : Ctx).res.state = .suspended) := by decide +kernel

theorem witness_CtxResumeMovesResidency_3 : (Admits ({ (Tests.devIdle .resident) with mem := { partitions := [{ share := 4, ceiling := 9 }] } } : State) .ctxResume ({ tag := 5, ctx := 3, ctxGen := 1, length := 32, payload := [2, 5, 0, 8, 16] ++ List.replicate 27 0 } : Msg) (Tests.mgmt : Session) = true) ∧
    (({ (Tests.devIdle .resident) with mem := { partitions := [{ share := 4, ceiling := 9 }] } } : State).ctx? ({ tag := 5, ctx := 3, ctxGen := 1, length := 32, payload := [2, 5, 0, 8, 16] ++ List.replicate 27 0 } : Msg).ctx = some (Tests.ctxIdle .resident : Ctx)) ∧
    (({ tag := 5, ctx := 3, ctxGen := 1, length := 32, payload := [2, 5, 0, 8, 16] ++ List.replicate 27 0 } : Msg).length = 32) ∧
    ((resumeOf 0x1008000502 : Resume) = resumeOf (ofLe (slice ({ tag := 5, ctx := 3, ctxGen := 1, length := 32, payload := [2, 5, 0, 8, 16] ++ List.replicate 27 0 } : Msg).payload 0 32))) ∧
    ((resumeOf 0x1008000502 : Resume).rsvd = false) ∧
    ((resumeOf 0x1008000502 : Resume).form = 2) ∧
    ((Tests.mgmt : Session).role = .management) ∧
    (({ (Tests.devIdle .resident) with mem := { partitions := [{ share := 4, ceiling := 9 }] } } : State).mem.partitions[(resumeOf 0x1008000502 : Resume).assign.part]? = some ({ share := 4, ceiling := 9 } : Partition)) ∧
    (({ share := 4, ceiling := 9 } : Partition).ceiling ≠ 0) ∧
    ((resumeOf 0x1008000502 : Resume).assign.linkShare ≤ (resumeOf 0x1008000502 : Resume).assign.linkCeil + 1) ∧
    ((resumeOf 0x1008000502 : Resume).assign.linkShare + ((({ (Tests.devIdle .resident) with mem := { partitions := [{ share := 4, ceiling := 9 }] } } : State).ctxs.filter (fun d => d.id != (Tests.ctxIdle .resident : Ctx).id)).map (fun d => d.assigned.linkShare)).sum ≤ 248) := by decide +kernel

theorem witness_CtxResumeMovesResidency_4 : (Admits (Tests.devIdle .suspended : State) .ctxSuspend ({ session := 1, tag := 5, ctx := 3, ctxGen := 1 } : Msg) (Tests.tenant : Session) = true) ∧
    ((Tests.devIdle .suspended : State).ctx? ({ session := 1, tag := 5, ctx := 3, ctxGen := 1 } : Msg).ctx = some (Tests.ctxIdle .suspended : Ctx)) ∧
    (({ session := 1, tag := 5, ctx := 3, ctxGen := 1 } : Msg).length = 0) ∧
    ((Tests.ctxIdle .suspended : Ctx).ckpt.stage = 0) ∧
    ((Tests.devIdle .suspended : State).waits.all (fun w => !(w.ctx == ({ session := 1, tag := 5, ctx := 3, ctxGen := 1 } : Msg).ctx && w.what == .suspend) && !(w.session == ({ session := 1, tag := 5, ctx := 3, ctxGen := 1 } : Msg).session && w.tag == ({ session := 1, tag := 5, ctx := 3, ctxGen := 1 } : Msg).tag)) = true) ∧
    ((Tests.ctxIdle .suspended : Ctx).res.state = .suspended) := by decide +kernel

theorem witness_CtxResumeMovesResidency_5 : (Admits (Tests.devIdle .ready : State) .ctxSuspend ({ session := 1, tag := 5, ctx := 3, ctxGen := 1 } : Msg) (Tests.tenant : Session) = true) ∧
    ((Tests.devIdle .ready : State).ctx? ({ session := 1, tag := 5, ctx := 3, ctxGen := 1 } : Msg).ctx = some (Tests.ctxIdle .ready : Ctx)) ∧
    (({ session := 1, tag := 5, ctx := 3, ctxGen := 1 } : Msg).length = 0) ∧
    ((Tests.ctxIdle .ready : Ctx).ckpt.stage = 0) ∧
    ((Tests.devIdle .ready : State).waits.all (fun w => !(w.ctx == ({ session := 1, tag := 5, ctx := 3, ctxGen := 1 } : Msg).ctx && w.what == .suspend) && !(w.session == ({ session := 1, tag := 5, ctx := 3, ctxGen := 1 } : Msg).session && w.tag == ({ session := 1, tag := 5, ctx := 3, ctxGen := 1 } : Msg).tag)) = true) ∧
    ((Tests.ctxIdle .ready : Ctx).res.state = .ready) := by decide +kernel

theorem witness_CtxResumeMovesResidency_6 : (Admits (Tests.devIdle .resident : State) .ctxSuspend ({ session := 1, tag := 5, ctx := 3, ctxGen := 1 } : Msg) (Tests.tenant : Session) = true) ∧
    ((Tests.devIdle .resident : State).ctx? ({ session := 1, tag := 5, ctx := 3, ctxGen := 1 } : Msg).ctx = some (Tests.ctxIdle .resident : Ctx)) ∧
    (({ session := 1, tag := 5, ctx := 3, ctxGen := 1 } : Msg).length = 0) ∧
    ((Tests.ctxIdle .resident : Ctx).ckpt.stage = 0) ∧
    ((Tests.ctxIdle .resident : Ctx).res.state = .resident) := by decide +kernel

theorem witness_ResidencyEntersAndLeaves_1 : (({ Tests.devLeaving with ledger := ({} : Ledger).issue 12288 (.transfer 3 0 0) (some 3) none } : State).alive = true) ∧
    (({ Tests.devLeaving with ledger := ({} : Ledger).issue 12288 (.transfer 3 0 0) (some 3) none } : State).ctx? (3 : Nat) = some (Tests.ctxLeaving : Ctx)) ∧
    ((Tests.ctxLeaving : Ctx).res.state = .resident) ∧
    ((Tests.ctxLeaving : Ctx).res.leaving ≠ .stays) ∧
    (({ Tests.devLeaving with ledger := ({} : Ledger).issue 12288 (.transfer 3 0 0) (some 3) none } : State).quiet (Tests.ctxLeaving : Ctx) = true) ∧
    ((Tests.ctxLeaving : Ctx).pages.all (fun p => p.tier.isNone && p.share.isNone) = true) ∧
    (({ Tests.devLeaving with ledger := ({} : Ledger).issue 12288 (.transfer 3 0 0) (some 3) none } : State).moves.all (fun v => v.ctx != (3 : Nat)) = true) ∧
    (({ Tests.devLeaving with ledger := ({} : Ledger).issue 12288 (.transfer 3 0 0) (some 3) none } : State).slotEntry (3 : Nat) = true) := by decide +kernel

theorem witness_ResidencyEntersAndLeaves_2 : ((Tests.devWaiting : State).alive = true) ∧
    ((Tests.devWaiting : State).ctx? (3 : Nat) = some (Tests.ctxWaiting : Ctx)) ∧
    ((Tests.devWaiting : State).freeSlot = some (0 : Nat)) ∧
    ((Tests.devWaiting : State).wants (Tests.ctxWaiting : Ctx) = true) ∧
    ((Tests.devWaiting : State).nextWanting = some (Tests.ctxWaiting : Ctx)) ∧
    ((Tests.ctxWaiting : Ctx).id = (3 : Nat)) ∧
    ((Tests.ctxWaiting : Ctx).queues.all (fun q => q.savedWindow.isNone) = true) := by decide +kernel

theorem witness_ResidencyEntersAndLeaves_3 : ((Tests.devFull48 : State).alive = true) ∧
    ((Tests.devFull48 : State).life.trial = none) ∧
    ((Tests.devFull48 : State).rotation = some (Tests.ctxIdle .resident : Ctx)) ∧
    ((Tests.ctxIdle .resident : Ctx).id = (3 : Nat)) := by decide +kernel

theorem witness_ResidencyEntersAndLeaves_4 : ((Tests.devLeaving : State).alive = true) ∧
    ((Tests.devLeaving : State).ctx? (3 : Nat) = some (Tests.ctxLeaving : Ctx)) ∧
    ((Tests.ctxLeaving : Ctx).res.state = .resident) ∧
    ((Tests.ctxLeaving : Ctx).res.leaving ≠ .stays) ∧
    ((Tests.devLeaving : State).quiet (Tests.ctxLeaving : Ctx) = true) ∧
    ((Tests.ctxLeaving : Ctx).pages.all (fun p => p.tier.isNone && p.share.isNone) = true) ∧
    ((Tests.devLeaving : State).moves.all (fun v => v.ctx != (3 : Nat)) = true) ∧
    ((Tests.devLeaving : State).slotEntry (3 : Nat) = false) := by decide +kernel

theorem witness_ResetTeardownAndDestroy_1 : (Admits (Tests.devBusy : State) .ctxReset ({ session := 1, tag := 5, ctx := 3, ctxGen := 1 } : Msg) (Tests.tenant : Session) = true) ∧
    ((Tests.devBusy : State).ctx? ({ session := 1, tag := 5, ctx := 3, ctxGen := 1 } : Msg).ctx = some (Tests.ctx0 : Ctx)) ∧
    (({ session := 1, tag := 5, ctx := 3, ctxGen := 1 } : Msg).length = 0) ∧
    ((Tests.ctx0 : Ctx).res.state ≠ .resetting) := by decide +kernel

theorem witness_ResetTeardownAndDestroy_2 : (Admits (Tests.devBusy : State) .ctxDestroy ({ session := 1, tag := 5, ctx := 3, ctxGen := 1 } : Msg) (Tests.tenant : Session) = true) ∧
    ((Tests.devBusy : State).ctx? ({ session := 1, tag := 5, ctx := 3, ctxGen := 1 } : Msg).ctx = some (Tests.ctx0 : Ctx)) ∧
    (({ session := 1, tag := 5, ctx := 3, ctxGen := 1 } : Msg).length = 0) ∧
    ((Tests.tenant : Session).owns (Tests.ctx0 : Ctx) = true) := by decide +kernel

theorem witness_ResetTeardownAndDestroy_3 : ((Tests.devDoomed : State).alive = true) ∧
    ((Tests.devDoomed : State).ctx? (3 : Nat) = some (Tests.ctxDoomed : Ctx)) ∧
    ((Tests.ctxDoomed : Ctx).destroying = true) ∧
    ((Tests.ctxDoomed : Ctx).res.state ≠ .resetting) ∧
    ((Tests.ctxDoomed : Ctx).queues.all (fun q => q.recs.isEmpty) = true) ∧
    ((Tests.ctxDoomed : Ctx).opt = []) ∧
    ((Tests.devDoomed : State).links.insts.all (fun i => i.ctx != (3 : Nat)) = true) ∧
    ((Tests.ctxDoomed : Ctx).ring = none ∨ ((Tests.ctxDoomed : Ctx).ring.any (fun g => g.used == 0 && g.held.isEmpty)) = true) := by decide +kernel

theorem witness_ResetTeardownAndDestroy_4 : ((Tests.devIdle .resetting : State).alive = true) ∧
    ((Tests.devIdle .resetting : State).ctx? (3 : Nat) = some (Tests.ctxIdle .resetting : Ctx)) ∧
    ((Tests.ctxIdle .resetting : Ctx).res.state = .resetting) ∧
    ((Tests.devIdle .resetting : State).ledgerClear (3 : Nat) = true) := by decide +kernel

theorem witness_QueuesAreCreatedAndRung_1 : (Admits (Tests.devPaged : State) .queueCreate (Tests.queueMsg : Msg) (Tests.tenant : Session) = true) ∧
    ((Tests.devPaged : State).ctx? (Tests.queueMsg : Msg).ctx = some (Tests.ctxPaged : Ctx)) ∧
    ((Tests.queueMsg : Msg).length = 16) ∧
    ((ofLe (slice Tests.queueMsg.payload 0 16) : Nat) = ofLe (slice (Tests.queueMsg : Msg).payload 0 16)) ∧
    ((5 : Nat) = field (ofLe (slice Tests.queueMsg.payload 0 16) : Nat) 5 0) ∧
    ((anySet (ofLe (slice Tests.queueMsg.payload 0 16) : Nat) 7 6 || anySet (ofLe (slice Tests.queueMsg.payload 0 16) : Nat) 31 16 || anySet (ofLe (slice Tests.queueMsg.payload 0 16) : Nat) 95 80 || anySet (ofLe (slice Tests.queueMsg.payload 0 16) : Nat) 127 102) = false) ∧
    (6 ≤ field (ofLe (slice Tests.queueMsg.payload 0 16) : Nat) 12 8) ∧
    (field (ofLe (slice Tests.queueMsg.payload 0 16) : Nat) 12 8 ≤ 16) ∧
    (((Tests.ctxPaged : Ctx).queue? (5 : Nat)) = none) ∧
    (flag (ofLe (slice Tests.queueMsg.payload 0 16) : Nat) 13 = true → (Tests.tenant : Session).has fAudit = true) ∧
    (flag (ofLe (slice Tests.queueMsg.payload 0 16) : Nat) 14 = true → (Tests.tenant : Session).has fGenMode = true ∧ (Tests.ctxPaged : Ctx).queues.all (fun y => !y.genMode) = true) ∧
    (field (ofLe (slice Tests.queueMsg.payload 0 16) : Nat) 101 96 ≤ 32) ∧
    (field (ofLe (slice Tests.queueMsg.payload 0 16) : Nat) 79 32 % 4096 = 0) ∧
    ((Tests.ctxPaged : Ctx).mapped (field (ofLe (slice Tests.queueMsg.payload 0 16) : Nat) 79 32) (128 * 2 ^ field (ofLe (slice Tests.queueMsg.payload 0 16) : Nat) 12 8) = true) ∧
    (field (ofLe (slice Tests.queueMsg.payload 0 16) : Nat) 101 96 ≠ 0 → ((Tests.devPaged : State).chooseHome (field (ofLe (slice Tests.queueMsg.payload 0 16) : Nat) 101 96) (fun _ => true)).isSome = true) := by decide +kernel

theorem witness_QueuesAreCreatedAndRung_2 : (Admits (Tests.devKeys : State) .doorbell ({ session := 1, tag := 5, ctx := 3, ctxGen := 1, length := 16, payload := toLe 8 0x40 ++ toLe 8 3 } : Msg) (Tests.tenant : Session) = true) ∧
    ((Tests.devKeys : State).ctx? ({ session := 1, tag := 5, ctx := 3, ctxGen := 1, length := 16, payload := toLe 8 0x40 ++ toLe 8 3 } : Msg).ctx = some (Tests.ctx0 : Ctx)) ∧
    (({ session := 1, tag := 5, ctx := 3, ctxGen := 1, length := 16, payload := toLe 8 0x40 ++ toLe 8 3 } : Msg).length = 16) ∧
    ((0x40 + 3 * 2 ^ 64 : Nat) = ofLe (slice ({ session := 1, tag := 5, ctx := 3, ctxGen := 1, length := 16, payload := toLe 8 0x40 ++ toLe 8 3 } : Msg).payload 0 16)) ∧
    ((0 : Nat) = field (0x40 + 3 * 2 ^ 64 : Nat) 5 0) ∧
    (field (0x40 + 3 * 2 ^ 64 : Nat) 7 6 = 1) ∧
    (field (0x40 + 3 * 2 ^ 64 : Nat) 31 16 = 0) ∧
    ((anySet (0x40 + 3 * 2 ^ 64 : Nat) 15 8 || anySet (0x40 + 3 * 2 ^ 64 : Nat) 63 32) = false) ∧
    ((Tests.ctx0 : Ctx).queue? (0 : Nat) = some (Tests.queue0 : Queue)) ∧
    ((Tests.queue0 : Queue).stopped = none) ∧
    ((Tests.queue0 : Queue).destroying = false) ∧
    ((Tests.queue0 : Queue).tail ≤ field (0x40 + 3 * 2 ^ 64 : Nat) 127 64) ∧
    (field (0x40 + 3 * 2 ^ 64 : Nat) 127 64 ≤ (Tests.queue0 : Queue).head + 2 ^ (Tests.queue0 : Queue).ringLog2) := by decide +kernel

theorem witness_QueuesAreCreatedAndRung_3 : (Admits (Tests.devPaged : State) .doorbell ({ session := 1, tag := 5, ctx := 3, ctxGen := 1, length := 144, payload := toLe 2 0 ++ toLe 2 1 ++ toLe 4 0 ++ toLe 8 0 ++ toLe 128 0x70 } : Msg) (Tests.tenant : Session) = true) ∧
    ((Tests.devPaged : State).ctx? ({ session := 1, tag := 5, ctx := 3, ctxGen := 1, length := 144, payload := toLe 2 0 ++ toLe 2 1 ++ toLe 4 0 ++ toLe 8 0 ++ toLe 128 0x70 } : Msg).ctx = some (Tests.ctxPaged : Ctx)) ∧
    ((2 ^ 16 : Nat) = ofLe (slice ({ session := 1, tag := 5, ctx := 3, ctxGen := 1, length := 144, payload := toLe 2 0 ++ toLe 2 1 ++ toLe 4 0 ++ toLe 8 0 ++ toLe 128 0x70 } : Msg).payload 0 16)) ∧
    ((0 : Nat) = field (2 ^ 16 : Nat) 5 0) ∧
    (field (2 ^ 16 : Nat) 7 6 = 0) ∧
    (({ session := 1, tag := 5, ctx := 3, ctxGen := 1, length := 144, payload := toLe 2 0 ++ toLe 2 1 ++ toLe 4 0 ++ toLe 8 0 ++ toLe 128 0x70 } : Msg).length = 16 + 128 * field (2 ^ 16 : Nat) 31 16) ∧
    ((anySet (2 ^ 16 : Nat) 15 8 || anySet (2 ^ 16 : Nat) 63 32) = false) ∧
    ((Tests.ctxPaged : Ctx).queue? (0 : Nat) = some (Tests.queue0 : Queue)) ∧
    ((Tests.queue0 : Queue).stopped = none) ∧
    ((Tests.queue0 : Queue).destroying = false) ∧
    (field (2 ^ 16 : Nat) 127 64 = (Tests.queue0 : Queue).tail) ∧
    ((Tests.queue0 : Queue).tail + field (2 ^ 16 : Nat) 31 16 ≤ (Tests.queue0 : Queue).head + 2 ^ (Tests.queue0 : Queue).ringLog2) ∧
    ((Tests.devPaged.takeMail .doorbell { session := 1, tag := 5, ctx := 3, ctxGen := 1, length := 144, payload := toLe 2 0 ++ toLe 2 1 ++ toLe 4 0 ++ toLe 8 0 ++ toLe 128 0x70 } : State) = (Tests.devPaged : State).takeMail .doorbell ({ session := 1, tag := 5, ctx := 3, ctxGen := 1, length := 144, payload := toLe 2 0 ++ toLe 2 1 ++ toLe 4 0 ++ toLe 8 0 ++ toLe 128 0x70 } : Msg)) ∧
    (((Tests.devPaged.takeMail .doorbell { session := 1, tag := 5, ctx := 3, ctxGen := 1, length := 144, payload := toLe 2 0 ++ toLe 2 1 ++ toLe 4 0 ++ toLe 8 0 ++ toLe 128 0x70 } : State).writeSlots (Tests.ctxPaged : Ctx).id [] (Tests.queue0 : Queue) (Tests.queue0 : Queue).tail (recordsOf (field (2 ^ 16 : Nat) 31 16) (({ session := 1, tag := 5, ctx := 3, ctxGen := 1, length := 144, payload := toLe 2 0 ++ toLe 2 1 ++ toLe 4 0 ++ toLe 8 0 ++ toLe 128 0x70 } : Msg).payload.drop 16))).2 = none) := by decide +kernel

theorem witness_QueuesAreCreatedAndRung_4 : (Admits (Tests.devWaiting : State) .queueDestroy ({ session := 1, tag := 5, ctx := 3, ctxGen := 1, arg0 := 0 } : Msg) (Tests.tenant : Session) = true) ∧
    ((Tests.devWaiting : State).ctx? ({ session := 1, tag := 5, ctx := 3, ctxGen := 1, arg0 := 0 } : Msg).ctx = some (Tests.ctxWaiting : Ctx)) ∧
    (({ session := 1, tag := 5, ctx := 3, ctxGen := 1, arg0 := 0 } : Msg).length = 0) ∧
    (({ session := 1, tag := 5, ctx := 3, ctxGen := 1, arg0 := 0 } : Msg).arg0 < 64) ∧
    ((Tests.ctxWaiting : Ctx).queue? ({ session := 1, tag := 5, ctx := 3, ctxGen := 1, arg0 := 0 } : Msg).arg0 = some ({ number := 0, tail := 1 } : Queue)) ∧
    (({ number := 0, tail := 1 } : Queue).destroying = false) ∧
    (({ number := 0, tail := 1 } : Queue).recs = []) := by decide +kernel

theorem witness_QueuesAreCreatedAndRung_5 : (Admits (Tests.devRun (Tests.waitRec .nop 0) : State) .queueDestroy ({ session := 1, tag := 5, ctx := 3, ctxGen := 1, arg0 := 0 } : Msg) (Tests.tenant : Session) = true) ∧
    ((Tests.devRun (Tests.waitRec .nop 0) : State).ctx? ({ session := 1, tag := 5, ctx := 3, ctxGen := 1, arg0 := 0 } : Msg).ctx = some (Tests.ctxOf (Tests.waitRec .nop 0) : Ctx)) ∧
    (({ session := 1, tag := 5, ctx := 3, ctxGen := 1, arg0 := 0 } : Msg).length = 0) ∧
    (({ session := 1, tag := 5, ctx := 3, ctxGen := 1, arg0 := 0 } : Msg).arg0 < 64) ∧
    ((Tests.ctxOf (Tests.waitRec .nop 0) : Ctx).queue? ({ session := 1, tag := 5, ctx := 3, ctxGen := 1, arg0 := 0 } : Msg).arg0 = some (Tests.qOf (Tests.waitRec .nop 0) : Queue)) ∧
    ((Tests.qOf (Tests.waitRec .nop 0) : Queue).destroying = false) ∧
    ((Tests.qOf (Tests.waitRec .nop 0) : Queue).recs ≠ []) ∧
    ((Tests.devRun (Tests.waitRec .nop 0) : State).links.insts.all (fun i => !(i.ctx == (Tests.ctxOf (Tests.waitRec .nop 0) : Ctx).id && i.queue == ({ session := 1, tag := 5, ctx := 3, ctxGen := 1, arg0 := 0 } : Msg).arg0 && i.audit.isNone)) = true) ∧
    ((Tests.qOf (Tests.waitRec .nop 0) : Queue).recs.all (fun r => r.phase != .running) = true) := by decide +kernel

theorem witness_QueuesAreCreatedAndRung_6 : (Admits (Tests.devKeys : State) .queueDestroy ({ session := 1, tag := 5, ctx := 3, ctxGen := 1, arg0 := 0 } : Msg) (Tests.tenant : Session) = true) ∧
    ((Tests.devKeys : State).ctx? ({ session := 1, tag := 5, ctx := 3, ctxGen := 1, arg0 := 0 } : Msg).ctx = some (Tests.ctx0 : Ctx)) ∧
    (({ session := 1, tag := 5, ctx := 3, ctxGen := 1, arg0 := 0 } : Msg).length = 0) ∧
    (({ session := 1, tag := 5, ctx := 3, ctxGen := 1, arg0 := 0 } : Msg).arg0 < 64) ∧
    ((Tests.ctx0 : Ctx).queue? ({ session := 1, tag := 5, ctx := 3, ctxGen := 1, arg0 := 0 } : Msg).arg0 = some (Tests.queue0 : Queue)) ∧
    ((Tests.queue0 : Queue).destroying = false) ∧
    ((Tests.queue0 : Queue).recs ≠ []) ∧
    ((Tests.devKeys : State).links.insts.all (fun i => !(i.ctx == (Tests.ctx0 : Ctx).id && i.queue == ({ session := 1, tag := 5, ctx := 3, ctxGen := 1, arg0 := 0 } : Msg).arg0 && i.audit.isNone)) = true) := by decide +kernel

theorem witness_RecordsAreTakenInAndDispatched_1 : ((Tests.devIntake : State).alive = true) ∧
    ((Tests.devIntake : State).ctx? (3 : Nat) = some (Tests.ctxIntake : Ctx)) ∧
    ((Tests.ctxIntake : Ctx).queue? (0 : Nat) = some ({ number := 0, tail := 1 } : Queue)) ∧
    ((Tests.ctxIntake : Ctx).ring = some ({ addr := 0 } : Ring)) ∧
    ((Tests.ctxIntake : Ctx).serves = true) ∧
    (({ number := 0, tail := 1 } : Queue).stopped = none) ∧
    (({ number := 0, tail := 1 } : Queue).destroying = false) ∧
    (({ number := 0, tail := 1 } : Queue).head < ({ number := 0, tail := 1 } : Queue).tail) ∧
    (0 < ({ addr := 0 } : Ring).free) ∧
    ((Tests.ctxIntake : Ctx).heldReads [({ number := 0, tail := 1 } : Queue).slotRegion ({ number := 0, tail := 1 } : Queue).head] = false) ∧
    ((((Tests.devIntake : State).readV (3 : Nat) none ([] : List Upset) (({ number := 0, tail := 1 } : Queue).ringAddr + (({ number := 0, tail := 1 } : Queue).head % 2 ^ ({ number := 0, tail := 1 } : Queue).ringLog2) * 128) 128).1.ledger.freeTag hubTags 4096).isSome = true) ∧
    (((Tests.devIntake : State).readV (3 : Nat) none ([] : List Upset) (({ number := 0, tail := 1 } : Queue).ringAddr + (({ number := 0, tail := 1 } : Queue).head % 2 ^ ({ number := 0, tail := 1 } : Queue).ringLog2) * 128) 128).2.toOption = some (List.replicate 128 0 : Bytes)) := by decide +kernel

theorem witness_RecordsAreTakenInAndDispatched_2 : ((Tests.devRun (Tests.waitRec .nop 0) : State).alive = true) ∧
    ((Tests.devRun (Tests.waitRec .nop 0) : State).ctx? (3 : Nat) = some (Tests.ctxOf (Tests.waitRec .nop 0) : Ctx)) ∧
    ((Tests.ctxOf (Tests.waitRec .nop 0) : Ctx).queue? (0 : Nat) = some (Tests.qOf (Tests.waitRec .nop 0) : Queue)) ∧
    ((Tests.qOf (Tests.waitRec .nop 0) : Queue).stopped = none) ∧
    ((Tests.qOf (Tests.waitRec .nop 0) : Queue).destroying = false) ∧
    ((Tests.qOf (Tests.waitRec .nop 0) : Queue).front = some (Tests.waitRec .nop 0 : Rec)) ∧
    ((Tests.ctxOf (Tests.waitRec .nop 0) : Ctx).mayLapse (Tests.qOf (Tests.waitRec .nop 0) : Queue) (Tests.waitRec .nop 0 : Rec) = true) ∧
    ((Tests.qOf (Tests.waitRec .nop 0) : Queue).barred (Tests.waitRec .nop 0 : Rec) = false) ∧
    ((Tests.devRun (Tests.waitRec .nop 0) : State).heldByBinding (Tests.ctxOf (Tests.waitRec .nop 0) : Ctx) (0 : Nat) = false) ∧
    ((Tests.waitRec .nop 0 : Rec).fenceIn = 0) ∧
    ((Tests.waitRec .nop 0 : Rec).adv = false) ∧
    ((Tests.qOf (Tests.waitRec .nop 0) : Queue).home = none) ∧
    ((Tests.waitRec .nop 0 : Rec).waitTag = none) ∧
    ((Tests.waitRec .nop 0 : Rec).op = some (.nop : CmdOp)) ∧
    (onCore (.nop : CmdOp) = false) := by decide +kernel

theorem witness_RecordsAreTakenInAndDispatched_3 : ((Tests.devRun (Tests.waitRec .fill 0) : State).alive = true) ∧
    ((Tests.devRun (Tests.waitRec .fill 0) : State).ctx? (3 : Nat) = some (Tests.ctxOf (Tests.waitRec .fill 0) : Ctx)) ∧
    ((Tests.ctxOf (Tests.waitRec .fill 0) : Ctx).queue? (0 : Nat) = some (Tests.qOf (Tests.waitRec .fill 0) : Queue)) ∧
    ((Tests.qOf (Tests.waitRec .fill 0) : Queue).stopped = none) ∧
    ((Tests.qOf (Tests.waitRec .fill 0) : Queue).destroying = false) ∧
    ((Tests.qOf (Tests.waitRec .fill 0) : Queue).front = some (Tests.waitRec .fill 0 : Rec)) ∧
    ((Tests.ctxOf (Tests.waitRec .fill 0) : Ctx).mayLapse (Tests.qOf (Tests.waitRec .fill 0) : Queue) (Tests.waitRec .fill 0 : Rec) = true) ∧
    ((Tests.qOf (Tests.waitRec .fill 0) : Queue).barred (Tests.waitRec .fill 0 : Rec) = false) ∧
    ((Tests.devRun (Tests.waitRec .fill 0) : State).heldByBinding (Tests.ctxOf (Tests.waitRec .fill 0) : Ctx) (0 : Nat) = false) ∧
    ((Tests.waitRec .fill 0 : Rec).fenceIn = 0) ∧
    ((Tests.waitRec .fill 0 : Rec).adv = false) ∧
    ((Tests.qOf (Tests.waitRec .fill 0) : Queue).home = none) ∧
    ((Tests.qOf (Tests.waitRec .fill 0) : Queue).rep = none) ∧
    ((Tests.waitRec .fill 0 : Rec).waitTag = none) ∧
    ((Tests.waitRec .fill 0 : Rec).op = some (.fill : CmdOp)) ∧
    (onCore (.fill : CmdOp) = true) ∧
    ((Tests.devRun (Tests.waitRec .fill 0) : State).coreFor (Tests.ctxOf (Tests.waitRec .fill 0) : Ctx) (Tests.qOf (Tests.waitRec .fill 0) : Queue) (Tests.waitRec .fill 0 : Rec) = some (0 : Nat)) ∧
    ((Tests.devRun (Tests.waitRec .fill 0) : State).givesWay (Tests.ctxOf (Tests.waitRec .fill 0) : Ctx) (Tests.waitRec .fill 0 : Rec) (0 : Nat) = false) ∧
    ((Tests.devRun (Tests.waitRec .fill 0) : State).ledger.freeTag (tileTags (tileOf (0 : Nat))) 2048 = some (0 : Nat)) := by decide +kernel

theorem witness_RecordsAreTakenInAndDispatched_4 : ((Tests.devAdv : State).alive = true) ∧
    ((Tests.devAdv : State).ctx? (3 : Nat) = some ({ (Tests.ctxOf Tests.recAdv) with pages := [Tests.pageA], scaleN := 2 } : Ctx)) ∧
    (({ (Tests.ctxOf Tests.recAdv) with pages := [Tests.pageA], scaleN := 2 } : Ctx).queue? (0 : Nat) = some (Tests.qOf Tests.recAdv : Queue)) ∧
    ((Tests.qOf Tests.recAdv : Queue).stopped = none) ∧
    ((Tests.qOf Tests.recAdv : Queue).destroying = false) ∧
    ((Tests.qOf Tests.recAdv : Queue).front = some (Tests.recAdv : Rec)) ∧
    (({ (Tests.ctxOf Tests.recAdv) with pages := [Tests.pageA], scaleN := 2 } : Ctx).mayLapse (Tests.qOf Tests.recAdv : Queue) (Tests.recAdv : Rec) = true) ∧
    ((Tests.qOf Tests.recAdv : Queue).barred (Tests.recAdv : Rec) = false) ∧
    ((Tests.devAdv : State).heldByBinding ({ (Tests.ctxOf Tests.recAdv) with pages := [Tests.pageA], scaleN := 2 } : Ctx) (0 : Nat) = false) ∧
    ((Tests.recAdv : Rec).fenceIn = 0) ∧
    ((Tests.recAdv : Rec).adv = true) ∧
    ((Tests.recAdv : Rec).advSlot < ({ (Tests.ctxOf Tests.recAdv) with pages := [Tests.pageA], scaleN := 2 } : Ctx).scaleN) ∧
    (((Tests.devAdv : State).readSlot (3 : Nat) ([] : List Upset) (Tests.recAdv : Rec).advSlot).2.toOption = some (Tests.badSlot : ScaleSlot)) ∧
    (3 ≤ (Tests.badSlot : ScaleSlot).fmt) := by decide +kernel

theorem witness_RecordsAreTakenInAndDispatched_5 : ((Tests.devRun Tests.recFenced : State).alive = true) ∧
    ((Tests.devRun Tests.recFenced : State).ctx? (3 : Nat) = some (Tests.ctxOf Tests.recFenced : Ctx)) ∧
    ((Tests.ctxOf Tests.recFenced : Ctx).queue? (0 : Nat) = some (Tests.qOf Tests.recFenced : Queue)) ∧
    ((Tests.qOf Tests.recFenced : Queue).stopped = none) ∧
    ((Tests.qOf Tests.recFenced : Queue).destroying = false) ∧
    ((Tests.qOf Tests.recFenced : Queue).front = some (Tests.recFenced : Rec)) ∧
    ((Tests.ctxOf Tests.recFenced : Ctx).mayLapse (Tests.qOf Tests.recFenced : Queue) (Tests.recFenced : Rec) = true) ∧
    ((Tests.recFenced : Rec).fenceIn ≠ 0) ∧
    ((Tests.recFenced : Rec).expired = false) ∧
    ((Tests.recFenced : Rec).waitTag = none) ∧
    ((Tests.devRun Tests.recFenced : State).fenceFor (Tests.ctxOf Tests.recFenced : Ctx) (Tests.recFenced : Rec).fenceIn = .error (.staleGeneration : Status)) := by
  refine ⟨by decide +kernel, by decide +kernel, by decide +kernel, by decide +kernel, by decide +kernel, by decide +kernel, by decide +kernel, by decide +kernel, by decide +kernel, by decide +kernel, by rfl⟩

theorem witness_RecordsAreTakenInAndDispatched_6 : ((Tests.devLateRec : State).alive = true) ∧
    ((Tests.devLateRec : State).ctx? (3 : Nat) = some ({ (Tests.ctxOf Tests.recLate) with fences := [4] } : Ctx)) ∧
    (({ (Tests.ctxOf Tests.recLate) with fences := [4] } : Ctx).queue? (0 : Nat) = some (Tests.qOf Tests.recLate : Queue)) ∧
    ((Tests.qOf Tests.recLate : Queue).front = some (Tests.recLate : Rec)) ∧
    (({ (Tests.ctxOf Tests.recLate) with fences := [4] } : Ctx).mayLapse (Tests.qOf Tests.recLate : Queue) (Tests.recLate : Rec) = true) ∧
    ((Tests.recLate : Rec).tmo = true) ∧
    ((Tests.recLate : Rec).fenceIn ≠ 0) ∧
    ((Tests.recLate : Rec).taken + (Tests.recLate : Rec).timeout * 1024 ≤ (Tests.devLateRec : State).hub.timer) ∧
    ((Tests.devLateRec : State).fenceFor ({ (Tests.ctxOf Tests.recLate) with fences := [4] } : Ctx) (Tests.recLate : Rec).fenceIn = .ok ({ index := 4, gen := 1, value := 0 } : Fence)) ∧
    (({ index := 4, gen := 1, value := 0 } : Fence).value < (Tests.recLate : Rec).inVal) := by
  refine ⟨by decide +kernel, by decide +kernel, by decide +kernel, by decide +kernel, by decide +kernel, by decide +kernel, by decide +kernel, by decide +kernel, by rfl, by decide +kernel⟩

theorem witness_CompletionsAreDelivered_1 : ((Tests.devDone : State).alive = true) ∧
    ((Tests.devDone : State).ctx? (3 : Nat) = some (Tests.ctxOf Tests.recDone : Ctx)) ∧
    ((Tests.ctxOf Tests.recDone : Ctx).queue? (0 : Nat) = some (Tests.qOf Tests.recDone : Queue)) ∧
    ((Tests.ctxOf Tests.recDone : Ctx).ring = some ({ addr := 0 } : Ring)) ∧
    ((Tests.qOf Tests.recDone : Queue).rec? (0 : Nat) 0 = some (Tests.recDone : Rec)) ∧
    ((Tests.recDone : Rec).phase = .ended .ok (7 : Nat) (0 : Nat) (true : Bool)) ∧
    ((Tests.ctxOf Tests.recDone : Ctx).res.state ≠ .resetting) ∧
    ((Tests.recDone : Rec).adv = false) ∧
    ((Tests.recDone : Rec).fenceOut = 0) ∧
    ((Tests.qOf Tests.recDone : Queue).destroying = false) := by decide +kernel

theorem witness_CompletionsAreDelivered_2 : ((Tests.devDone : State).alive = true) ∧
    ((Tests.devDone : State).ctx? (3 : Nat) = some (Tests.ctxOf Tests.recDone : Ctx)) ∧
    ((Tests.ctxOf Tests.recDone : Ctx).queue? (0 : Nat) = some (Tests.qOf Tests.recDone : Queue)) ∧
    ((Tests.ctxOf Tests.recDone : Ctx).ring = some ({ addr := 0 } : Ring)) ∧
    ((Tests.qOf Tests.recDone : Queue).rec? (0 : Nat) 0 = some (Tests.recDone : Rec)) ∧
    ((Tests.recDone : Rec).phase = .ended .ok (7 : Nat) (0 : Nat) (true : Bool)) ∧
    ((Tests.ctxOf Tests.recDone : Ctx).res.state ≠ .resetting) ∧
    ((Tests.recDone : Rec).adv = false) ∧
    ((Tests.recDone : Rec).fenceOut = 0) ∧
    ((Tests.qOf Tests.recDone : Queue).destroying = false) ∧
    ((Tests.recDone : Rec).notify = true) := by decide +kernel

theorem witness_HubCommandsEnd_1 : ((Tests.devRun (Tests.runRec .nop 0) : State).running? (3 : Nat) (0 : Nat) (0 : Nat) (0 : Nat) .nop = some ((Tests.ctxOf (Tests.runRec .nop 0) : Ctx), (Tests.qOf (Tests.runRec .nop 0) : Queue), ((Tests.runRec .nop 0) : Rec))) ∧
    (allZero (((Tests.runRec .nop 0) : Rec).image.drop 64) = true) := by decide +kernel

theorem witness_HubCommandsEnd_2 : ((Tests.devRun (Tests.runRec .nop 1) : State).running? (3 : Nat) (0 : Nat) (0 : Nat) (0 : Nat) .nop = some ((Tests.ctxOf (Tests.runRec .nop 1) : Ctx), (Tests.qOf (Tests.runRec .nop 1) : Queue), ((Tests.runRec .nop 1) : Rec))) ∧
    (allZero (((Tests.runRec .nop 1) : Rec).image.drop 64) = false) := by decide +kernel

theorem witness_HubCommandsEnd_3 : ((Tests.devRun { (Tests.runRec .repeatOp (2 + 2 ^ 32 + 8 * 2 ^ 64)) with seq := 1 } : State).running? (3 : Nat) (0 : Nat) (1 : Nat) (0 : Nat) .repeatOp = some ((Tests.ctxOf { (Tests.runRec .repeatOp (2 + 2 ^ 32 + 8 * 2 ^ 64)) with seq := 1 } : Ctx), (Tests.qOf { (Tests.runRec .repeatOp (2 + 2 ^ 32 + 8 * 2 ^ 64)) with seq := 1 } : Queue), ({ (Tests.runRec .repeatOp (2 + 2 ^ 32 + 8 * 2 ^ 64)) with seq := 1 } : Rec))) ∧
    ((Tests.qOf { (Tests.runRec .repeatOp (2 + 2 ^ 32 + 8 * 2 ^ 64)) with seq := 1 } : Queue).rep = none) ∧
    (({ (Tests.runRec .repeatOp (2 + 2 ^ 32 + 8 * 2 ^ 64)) with seq := 1 } : Rec).arg 63 48 = 0) ∧
    (({ (Tests.runRec .repeatOp (2 + 2 ^ 32 + 8 * 2 ^ 64)) with seq := 1 } : Rec).arg 511 128 = 0) ∧
    ((Tests.qOf { (Tests.runRec .repeatOp (2 + 2 ^ 32 + 8 * 2 ^ 64)) with seq := 1 } : Queue).genMode = true) ∧
    (({ (Tests.runRec .repeatOp (2 + 2 ^ 32 + 8 * 2 ^ 64)) with seq := 1 } : Rec).arg 47 32 ≠ 0) ∧
    (({ (Tests.runRec .repeatOp (2 + 2 ^ 32 + 8 * 2 ^ 64)) with seq := 1 } : Rec).arg 47 32 < 2 ^ (Tests.qOf { (Tests.runRec .repeatOp (2 + 2 ^ 32 + 8 * 2 ^ 64)) with seq := 1 } : Queue).ringLog2) ∧
    (({ (Tests.runRec .repeatOp (2 + 2 ^ 32 + 8 * 2 ^ 64)) with seq := 1 } : Rec).arg 47 32 ≤ (1 : Nat)) ∧
    ((Tests.devRun { (Tests.runRec .repeatOp (2 + 2 ^ 32 + 8 * 2 ^ 64)) with seq := 1 } : State).spanHasRepeat (3 : Nat) (Tests.qOf { (Tests.runRec .repeatOp (2 + 2 ^ 32 + 8 * 2 ^ 64)) with seq := 1 } : Queue) (1 : Nat) (({ (Tests.runRec .repeatOp (2 + 2 ^ 32 + 8 * 2 ^ 64)) with seq := 1 } : Rec).arg 47 32) = false) ∧
    (({ (Tests.runRec .repeatOp (2 + 2 ^ 32 + 8 * 2 ^ 64)) with seq := 1 } : Rec).arg 31 0 ≠ 0) := by decide +kernel

theorem witness_HubCommandsEnd_4 : ((Tests.devRun { (Tests.runRec .repeatOp (2 ^ 32)) with seq := 1 } : State).running? (3 : Nat) (0 : Nat) (1 : Nat) (0 : Nat) .repeatOp = some ((Tests.ctxOf { (Tests.runRec .repeatOp (2 ^ 32)) with seq := 1 } : Ctx), (Tests.qOf { (Tests.runRec .repeatOp (2 ^ 32)) with seq := 1 } : Queue), ({ (Tests.runRec .repeatOp (2 ^ 32)) with seq := 1 } : Rec))) ∧
    ((Tests.qOf { (Tests.runRec .repeatOp (2 ^ 32)) with seq := 1 } : Queue).rep = none) ∧
    (({ (Tests.runRec .repeatOp (2 ^ 32)) with seq := 1 } : Rec).arg 63 48 = 0) ∧
    (({ (Tests.runRec .repeatOp (2 ^ 32)) with seq := 1 } : Rec).arg 511 128 = 0) ∧
    ((Tests.qOf { (Tests.runRec .repeatOp (2 ^ 32)) with seq := 1 } : Queue).genMode = true) ∧
    (({ (Tests.runRec .repeatOp (2 ^ 32)) with seq := 1 } : Rec).arg 47 32 ≠ 0) ∧
    (({ (Tests.runRec .repeatOp (2 ^ 32)) with seq := 1 } : Rec).arg 47 32 < 2 ^ (Tests.qOf { (Tests.runRec .repeatOp (2 ^ 32)) with seq := 1 } : Queue).ringLog2) ∧
    (({ (Tests.runRec .repeatOp (2 ^ 32)) with seq := 1 } : Rec).arg 47 32 ≤ (1 : Nat)) ∧
    ((Tests.devRun { (Tests.runRec .repeatOp (2 ^ 32)) with seq := 1 } : State).spanHasRepeat (3 : Nat) (Tests.qOf { (Tests.runRec .repeatOp (2 ^ 32)) with seq := 1 } : Queue) (1 : Nat) (({ (Tests.runRec .repeatOp (2 ^ 32)) with seq := 1 } : Rec).arg 47 32) = false) ∧
    (({ (Tests.runRec .repeatOp (2 ^ 32)) with seq := 1 } : Rec).arg 31 0 = 0) := by decide +kernel

theorem witness_HubCommandsEnd_5 : ((Tests.devRepeat 3 : State).alive = true) ∧
    ((Tests.devRepeat 3 : State).ctx? (3 : Nat) = some (Tests.ctxRepeat 3 : Ctx)) ∧
    ((Tests.ctxRepeat 3 : Ctx).queue? (0 : Nat) = some (Tests.qRepeat 3 : Queue)) ∧
    ((Tests.qRepeat 3 : Queue).rep = some (Tests.rep 3 : RepeatRun)) ∧
    ((Tests.ctxRepeat 3 : Ctx).serves = true) ∧
    ((Tests.qRepeat 3 : Queue).stopped = none) ∧
    ((Tests.qRepeat 3 : Queue).destroying = false) ∧
    ((Tests.qRepeat 3 : Queue).recs.all (fun k => k.iter == 0) = true) ∧
    ((Tests.rep 3 : RepeatRun).count < (Tests.rep 3 : RepeatRun).next) ∧
    ((Tests.qRepeat 3 : Queue).rec? (Tests.rep 3 : RepeatRun).seq 0 = some ({ (Tests.runRec .repeatOp 0) with seq := 1 } : Rec)) := by decide +kernel

theorem witness_HubCommandsEnd_6 : ((Tests.devRepeat 1 : State).alive = true) ∧
    ((Tests.devRepeat 1 : State).ctx? (3 : Nat) = some (Tests.ctxRepeat 1 : Ctx)) ∧
    ((Tests.ctxRepeat 1 : Ctx).queue? (0 : Nat) = some (Tests.qRepeat 1 : Queue)) ∧
    ((Tests.qRepeat 1 : Queue).rep = some (Tests.rep 1 : RepeatRun)) ∧
    ((Tests.ctxRepeat 1 : Ctx).serves = true) ∧
    ((Tests.qRepeat 1 : Queue).stopped = none) ∧
    ((Tests.qRepeat 1 : Queue).destroying = false) ∧
    ((Tests.qRepeat 1 : Queue).recs.all (fun k => k.iter == 0) = true) ∧
    ((Tests.rep 1 : RepeatRun).next ≤ (Tests.rep 1 : RepeatRun).count) ∧
    ((Tests.ctxRepeat 1 : Ctx).heldReads ((List.range (Tests.rep 1 : RepeatRun).span).map (fun i => (Tests.qRepeat 1 : Queue).slotRegion ((Tests.rep 1 : RepeatRun).seq - (Tests.rep 1 : RepeatRun).span + i))) = false) ∧
    ((Tests.rep 1 : RepeatRun).next ≠ 2 ∨ (Tests.rep 1 : RepeatRun).pinned = true ∧ (Tests.devRepeat 1 : State).moves.all (fun v => !(v.ctx == (3 : Nat) && v.reason == .genMode)) = true) ∧
    (((Tests.devRepeat 1 : State).spanRecs (Tests.ctxRepeat 1 : Ctx) (Tests.qRepeat 1 : Queue) (Tests.rep 1 : RepeatRun) ([] : List Upset) (Tests.rep 1 : RepeatRun).span).isSome = true) := by decide +kernel

theorem witness_HubCommandsEnd_7 : ((Tests.devRepeat 2 : State).alive = true) ∧
    ((Tests.devRepeat 2 : State).ctx? (3 : Nat) = some (Tests.ctxRepeat 2 : Ctx)) ∧
    ((Tests.ctxRepeat 2 : Ctx).queue? (0 : Nat) = some (Tests.qRepeat 2 : Queue)) ∧
    ((Tests.qRepeat 2 : Queue).rep = some (Tests.rep 2 : RepeatRun)) ∧
    ((Tests.ctxRepeat 2 : Ctx).serves = true) ∧
    ((Tests.qRepeat 2 : Queue).stopped = none) ∧
    ((Tests.qRepeat 2 : Queue).destroying = false) ∧
    ((Tests.qRepeat 2 : Queue).recs.all (fun k => k.iter == 0) = true) ∧
    ((Tests.rep 2 : RepeatRun).next ≤ (Tests.rep 2 : RepeatRun).count) ∧
    ((Tests.ctxRepeat 2 : Ctx).heldReads ((List.range (Tests.rep 2 : RepeatRun).span).map (fun i => (Tests.qRepeat 2 : Queue).slotRegion ((Tests.rep 2 : RepeatRun).seq - (Tests.rep 2 : RepeatRun).span + i))) = false) ∧
    ((Tests.rep 2 : RepeatRun).next = 2) ∧
    ((Tests.rep 2 : RepeatRun).pinned = false) := by decide +kernel

theorem witness_HubCommandsEnd_8 : ((Tests.devScale : State).running? (3 : Nat) (0 : Nat) (0 : Nat) (0 : Nat) .scaleSet = some ((Tests.ctxScale : Ctx), (Tests.qOf Tests.recScale : Queue), (Tests.recScale : Rec))) ∧
    ((Tests.scaleWrite : ScaleWrite) = { scaleExp := (Tests.recScale : Rec).arg 71 64, fmt := (Tests.recScale : Rec).arg 74 72, margin := (Tests.recScale : Rec).arg 76 75, frozen := (Tests.recScale : Rec).arg 77 77 == 1, wmask := (Tests.recScale : Rec).arg 83 80, clearHist := (Tests.recScale : Rec).arg 84 84 == 1 }) ∧
    ((Tests.recScale : Rec).arg 63 40 = 0) ∧
    ((Tests.recScale : Rec).arg 79 78 = 0) ∧
    ((Tests.recScale : Rec).arg 511 85 = 0) ∧
    ((Tests.scaleWrite : ScaleWrite).fmt ≤ 2) ∧
    ((Tests.recScale : Rec).arg 39 16 ≠ 0) ∧
    ((Tests.recScale : Rec).arg 15 0 + (Tests.recScale : Rec).arg 39 16 ≤ (Tests.ctxScale : Ctx).scaleN) ∧
    ((Tests.scaleWrite : ScaleWrite).wmask ≠ 0 ∨ (Tests.scaleWrite : ScaleWrite).clearHist = true) ∧
    ((Tests.devScale : State).readSlots (3 : Nat) ((Tests.recScale : Rec).arg 15 0) ([] : List Upset) ((Tests.recScale : Rec).arg 39 16) = (((Tests.devScale.readSlots 3 1 [] 1).1 : State), none)) ∧
    (((Tests.devScale.readSlots 3 1 [] 1).1 : State).setSlots (3 : Nat) ((Tests.recScale : Rec).arg 15 0) (Tests.scaleWrite : ScaleWrite) ((Tests.recScale : Rec).arg 39 16) = ((((Tests.devScale.readSlots 3 1 [] 1).1.setSlots 3 1 Tests.scaleWrite 1).1 : State), none)) := by decide +kernel

theorem witness_HubCommandsEnd_9 : ((Tests.devRun (Tests.runRec .scaleSet (2 ^ 16)) : State).running? (3 : Nat) (0 : Nat) (0 : Nat) (0 : Nat) .scaleSet = some ((Tests.ctxOf (Tests.runRec .scaleSet (2 ^ 16)) : Ctx), (Tests.qOf (Tests.runRec .scaleSet (2 ^ 16)) : Queue), ((Tests.runRec .scaleSet (2 ^ 16)) : Rec))) ∧
    (((Tests.runRec .scaleSet (2 ^ 16)) : Rec).arg 63 40 = 0) ∧
    (((Tests.runRec .scaleSet (2 ^ 16)) : Rec).arg 79 78 = 0) ∧
    (((Tests.runRec .scaleSet (2 ^ 16)) : Rec).arg 511 85 = 0) ∧
    (((Tests.runRec .scaleSet (2 ^ 16)) : Rec).arg 74 72 ≤ 2) ∧
    (((Tests.runRec .scaleSet (2 ^ 16)) : Rec).arg 39 16 ≠ 0) ∧
    ((Tests.ctxOf (Tests.runRec .scaleSet (2 ^ 16)) : Ctx).scaleN < ((Tests.runRec .scaleSet (2 ^ 16)) : Rec).arg 15 0 + ((Tests.runRec .scaleSet (2 ^ 16)) : Rec).arg 39 16) := by decide +kernel

theorem witness_MoversMoveBytes_1 : ((Tests.devRun (Tests.runRec .fill Tests.fillArgs) : State).running? (3 : Nat) (0 : Nat) (0 : Nat) (0 : Nat) .fill = some ((Tests.ctxOf (Tests.runRec .fill Tests.fillArgs) : Ctx), (Tests.qOf (Tests.runRec .fill Tests.fillArgs) : Queue), ((Tests.runRec .fill Tests.fillArgs) : Rec))) ∧
    (((Tests.runRec .fill Tests.fillArgs) : Rec).core = some (0 : Nat)) ∧
    ((Tests.devRun (Tests.runRec .fill Tests.fillArgs) : State).mem.pieces = []) ∧
    ((Tests.devRun (Tests.runRec .fill Tests.fillArgs) : State).mem.rowErrors = []) ∧
    (cellsWf (Tests.devRun (Tests.runRec .fill Tests.fillArgs) : State).mem.cells = true) ∧
    ((Tests.ctxOf (Tests.runRec .fill Tests.fillArgs) : Ctx).heldRelease [((Tests.runRec .fill Tests.fillArgs).moverArgs : MoverArgs).dst] = false) ∧
    (Undisturbed (Tests.devRun (Tests.runRec .fill Tests.fillArgs) : State) (Tests.ctxOf (Tests.runRec .fill Tests.fillArgs) : Ctx) (Tests.qOf (Tests.runRec .fill Tests.fillArgs) : Queue) ((Tests.runRec .fill Tests.fillArgs) : Rec) = true) ∧
    ((Tests.devRun (Tests.runRec .fill Tests.fillArgs) : State).moverTurn (0 : Nat) ((Tests.runRec .fill Tests.fillArgs) : Rec) = true) ∧
    (((Tests.runRec .fill Tests.fillArgs).moverArgs : MoverArgs) = ((Tests.runRec .fill Tests.fillArgs) : Rec).moverArgs) ∧
    (((Tests.runRec .fill Tests.fillArgs).moverArgs : MoverArgs).dstSpace = 1) ∧
    (moverCheck (Tests.ctxOf (Tests.runRec .fill Tests.fillArgs) : Ctx) (Tests.qOf (Tests.runRec .fill Tests.fillArgs) : Queue) ((Tests.runRec .fill Tests.fillArgs) : Rec) false = none) := by decide +kernel

theorem witness_MoversMoveBytes_2 : (({ (Tests.devRun (Tests.runRec .copy Tests.copyArgs)) with mem := { cells := [(2 ^ 47, 5), (2 ^ 47 + 17, 6)] } } : State).running? (3 : Nat) (0 : Nat) (0 : Nat) (0 : Nat) .copy = some ((Tests.ctxOf (Tests.runRec .copy Tests.copyArgs) : Ctx), (Tests.qOf (Tests.runRec .copy Tests.copyArgs) : Queue), ((Tests.runRec .copy Tests.copyArgs) : Rec))) ∧
    (((Tests.runRec .copy Tests.copyArgs) : Rec).core = some (0 : Nat)) ∧
    (({ (Tests.devRun (Tests.runRec .copy Tests.copyArgs)) with mem := { cells := [(2 ^ 47, 5), (2 ^ 47 + 17, 6)] } } : State).mem.pieces = []) ∧
    (({ (Tests.devRun (Tests.runRec .copy Tests.copyArgs)) with mem := { cells := [(2 ^ 47, 5), (2 ^ 47 + 17, 6)] } } : State).mem.rowErrors = []) ∧
    (cellsWf ({ (Tests.devRun (Tests.runRec .copy Tests.copyArgs)) with mem := { cells := [(2 ^ 47, 5), (2 ^ 47 + 17, 6)] } } : State).mem.cells = true) ∧
    ((Tests.ctxOf (Tests.runRec .copy Tests.copyArgs) : Ctx).heldRelease [((Tests.runRec .copy Tests.copyArgs).moverArgs : MoverArgs).dst] = false) ∧
    (Undisturbed ({ (Tests.devRun (Tests.runRec .copy Tests.copyArgs)) with mem := { cells := [(2 ^ 47, 5), (2 ^ 47 + 17, 6)] } } : State) (Tests.ctxOf (Tests.runRec .copy Tests.copyArgs) : Ctx) (Tests.qOf (Tests.runRec .copy Tests.copyArgs) : Queue) ((Tests.runRec .copy Tests.copyArgs) : Rec) = true) ∧
    (({ (Tests.devRun (Tests.runRec .copy Tests.copyArgs)) with mem := { cells := [(2 ^ 47, 5), (2 ^ 47 + 17, 6)] } } : State).moverTurn (0 : Nat) ((Tests.runRec .copy Tests.copyArgs) : Rec) = true) ∧
    (((Tests.runRec .copy Tests.copyArgs).moverArgs : MoverArgs) = ((Tests.runRec .copy Tests.copyArgs) : Rec).moverArgs) ∧
    (((Tests.runRec .copy Tests.copyArgs).moverArgs : MoverArgs).srcSpace = 1) ∧
    (((Tests.runRec .copy Tests.copyArgs).moverArgs : MoverArgs).dstSpace = 1) ∧
    ((Tests.ctxOf (Tests.runRec .copy Tests.copyArgs) : Ctx).heldReads [((Tests.runRec .copy Tests.copyArgs).moverArgs : MoverArgs).src] = false) ∧
    (moverCheck (Tests.ctxOf (Tests.runRec .copy Tests.copyArgs) : Ctx) (Tests.qOf (Tests.runRec .copy Tests.copyArgs) : Queue) ((Tests.runRec .copy Tests.copyArgs) : Rec) true = none) := by decide +kernel

theorem witness_MatmulWritesItsOutputs_1 : ((Tests.devMat : State).running? (3 : Nat) (0 : Nat) (0 : Nat) (0 : Nat) .matmul = some ((Tests.ctxOf (Tests.runRec .matmul Tests.matArgs) : Ctx), (Tests.qOf (Tests.runRec .matmul Tests.matArgs) : Queue), (Tests.runRec .matmul Tests.matArgs : Rec))) ∧
    ((Tests.runRec .matmul Tests.matArgs : Rec).core = some (0 : Nat)) ∧
    ((Tests.devMat : State).ahead (0 : Nat) (fun op => op == .matmul) (Tests.runRec .matmul Tests.matArgs : Rec).order = 0) ∧
    ((Tests.runRec .matmul Tests.matArgs : Rec).leave = true) ∧
    ((Tests.devMat : State).gateClosed (tileOf (0 : Nat)) = false) ∧
    ((Tests.ctxOf (Tests.runRec .matmul Tests.matArgs) : Ctx).heldRelease (((Tests.runRec .matmul Tests.matArgs).matArgs : MatArgs).c.regions ((Tests.runRec .matmul Tests.matArgs).matArgs : MatArgs).m) = false) ∧
    ((Tests.ctxOf (Tests.runRec .matmul Tests.matArgs) : Ctx).heldReads (((Tests.runRec .matmul Tests.matArgs).matArgs : MatArgs).a.regions ((Tests.runRec .matmul Tests.matArgs).matArgs : MatArgs).shapeA.1 ++ ((Tests.runRec .matmul Tests.matArgs).matArgs : MatArgs).b.regions ((Tests.runRec .matmul Tests.matArgs).matArgs : MatArgs).shapeB.1 ++ ((Tests.runRec .matmul Tests.matArgs).matArgs : MatArgs).c.regions ((Tests.runRec .matmul Tests.matArgs).matArgs : MatArgs).m) = false) ∧
    (Undisturbed (Tests.devMat : State) (Tests.ctxOf (Tests.runRec .matmul Tests.matArgs) : Ctx) (Tests.qOf (Tests.runRec .matmul Tests.matArgs) : Queue) (Tests.runRec .matmul Tests.matArgs : Rec) = true) ∧
    (((Tests.runRec .matmul Tests.matArgs).matArgs : MatArgs) = (Tests.runRec .matmul Tests.matArgs : Rec).matArgs) ∧
    ((Tests.qOf (Tests.runRec .matmul Tests.matArgs) : Queue).audit = false) ∧
    (((Tests.runRec .matmul Tests.matArgs).matArgs : MatArgs).barred (Tests.runRec .matmul Tests.matArgs : Rec).features = false) ∧
    ((Tests.runRec .matmul Tests.matArgs : Rec).matReserved = false) ∧
    (((Tests.runRec .matmul Tests.matArgs).matArgs : MatArgs).a.useSlot = false) ∧
    (((Tests.runRec .matmul Tests.matArgs).matArgs : MatArgs).b.useSlot = false) ∧
    (((Tests.runRec .matmul Tests.matArgs).matArgs : MatArgs).a.space = 1) ∧
    (((Tests.runRec .matmul Tests.matArgs).matArgs : MatArgs).b.space = 1) ∧
    (((Tests.runRec .matmul Tests.matArgs).matArgs : MatArgs).a.form.isMx = false) ∧
    (((Tests.runRec .matmul Tests.matArgs).matArgs : MatArgs).b.form.isMx = false) ∧
    (((Tests.runRec .matmul Tests.matArgs).matArgs : MatArgs).c.form = .p32i) ∧
    (((Tests.runRec .matmul Tests.matArgs).matArgs : MatArgs).acc = false) ∧
    (((Tests.runRec .matmul Tests.matArgs).matArgs : MatArgs).grouped = false) ∧
    (matCheck (Tests.ctxOf (Tests.runRec .matmul Tests.matArgs) : Ctx) (Tests.qOf (Tests.runRec .matmul Tests.matArgs) : Queue) ((Tests.runRec .matmul Tests.matArgs).matArgs : MatArgs) [] = none) ∧
    ((Tests.devMat : State).mem.pieces = []) ∧
    ((Tests.devMat : State).mem.rowErrors = []) ∧
    (cellsWf (Tests.devMat : State).mem.cells = true) ∧
    ((Tests.matJob : MatJob) = { g := ((Tests.runRec .matmul Tests.matArgs).matArgs : MatArgs), a := (List.range ((Tests.runRec .matmul Tests.matArgs).matArgs : MatArgs).shapeA.1).map (fun i => readCells (Tests.devMat : State).mem.cells (windowAddr (Tests.qOf (Tests.runRec .matmul Tests.matArgs) : Queue) (0 : Nat) (((Tests.runRec .matmul Tests.matArgs).matArgs : MatArgs).a.addr + i * ((Tests.runRec .matmul Tests.matArgs).matArgs : MatArgs).a.stride)) (rowBytes ((Tests.runRec .matmul Tests.matArgs).matArgs : MatArgs).a.form ((Tests.runRec .matmul Tests.matArgs).matArgs : MatArgs).shapeA.2)), sa := [], b := (List.range ((Tests.runRec .matmul Tests.matArgs).matArgs : MatArgs).shapeB.1).map (fun i => readCells (Tests.devMat : State).mem.cells (windowAddr (Tests.qOf (Tests.runRec .matmul Tests.matArgs) : Queue) (0 : Nat) (((Tests.runRec .matmul Tests.matArgs).matArgs : MatArgs).b.addr + i * ((Tests.runRec .matmul Tests.matArgs).matArgs : MatArgs).b.stride)) (rowBytes ((Tests.runRec .matmul Tests.matArgs).matArgs : MatArgs).b.form ((Tests.runRec .matmul Tests.matArgs).matArgs : MatArgs).shapeB.2)), sb := [], slotExp := 0 }) ∧
    (((Tests.matJob : MatJob).rows ([], [])).2.sat = 0) := by decide +kernel

theorem witness_VectorRunsItsChain_1 : ((Tests.devVec : State).running? (3 : Nat) (0 : Nat) (0 : Nat) (0 : Nat) .vector = some ((Tests.ctxOf Tests.recVec : Ctx), (Tests.qOf Tests.recVec : Queue), (Tests.recVec : Rec))) ∧
    ((Tests.recVec : Rec).core = some (0 : Nat)) ∧
    ((Tests.devVec : State).ahead (0 : Nat) (fun op => op == .vector) (Tests.recVec : Rec).order = 0) ∧
    ((Tests.devVec : State).chainRunning (Tests.ctxOf Tests.recVec : Ctx) (Tests.qOf Tests.recVec : Queue) (Tests.recVec : Rec) = some (Tests.chainVec : Chain)) ∧
    ((Tests.recVec : Rec).arg 49 48 = 1) ∧
    ((Tests.chainVec : Chain).named.all (fun y => y.space == 1 && !y.useSlot) = true) ∧
    ((Tests.chainVec : Chain).elements ≤ 65536 ∨ (Tests.recVec : Rec).leave = true) ∧
    ((Tests.devVec : State).gateClosed (tileOf (0 : Nat)) = false) ∧
    ((Tests.ctxOf Tests.recVec : Ctx).heldReads ((Tests.recVec : Rec).chainRegion :: (Tests.chainVec : Chain).uses.flatMap (Tests.chainVec : Chain).reach) = false) ∧
    ((Tests.ctxOf Tests.recVec : Ctx).heldRelease (Tests.chainVec : Chain).outputs = false) ∧
    ((Tests.devVec : State).mem.pieces = []) ∧
    ((Tests.devVec : State).mem.rowErrors = []) ∧
    (cellsWf (Tests.devVec : State).mem.cells = true) ∧
    ((Tests.chainVec : Chain).overlapped = []) ∧
    ((Tests.devVec : State).entangled (Tests.ctxOf Tests.recVec : Ctx) (Tests.qOf Tests.recVec : Queue) (Tests.recVec : Rec) = false) ∧
    ((Tests.ctxOf Tests.recVec : Ctx).guarded = []) := by decide +kernel

theorem witness_VectorRunsItsChain_2 : ((Tests.devVec : State).running? (3 : Nat) (0 : Nat) (0 : Nat) (0 : Nat) .vector = some ((Tests.ctxOf Tests.recVec : Ctx), (Tests.qOf Tests.recVec : Queue), (Tests.recVec : Rec))) ∧
    ((Tests.recVec : Rec).core = some (0 : Nat)) ∧
    ((Tests.devVec : State).ahead (0 : Nat) (fun op => op == .vector) (Tests.recVec : Rec).order = 0) ∧
    ((Tests.siteVec : Site) = { ctx := (3 : Nat), queue := (0 : Nat), core := (0 : Nat), ups := [] }) ∧
    ((Tests.devVec : State).vecAdmit (Tests.siteVec : Site) (Tests.ctxOf Tests.recVec : Ctx) (Tests.qOf Tests.recVec : Queue) (Tests.recVec : Rec) = ((Tests.vec1 : State), some ((Tests.chainVec : Chain), ([] : List (Nat × ScaleSlot))))) ∧
    ((Tests.chainVec : Chain).elements ≤ 65536 ∨ (Tests.recVec : Rec).leave = true) ∧
    ((Tests.devVec : State).gateClosed (tileOf (0 : Nat)) = false) ∧
    ((Tests.recVec : Rec).chain.isSome = true ∨ (Tests.ctxOf Tests.recVec : Ctx).heldReads [(Tests.recVec : Rec).chainRegion] = false) ∧
    ((Tests.devVec : State).starved (Tests.ctxOf Tests.recVec : Ctx) (0 : Nat) ((Tests.chainVec : Chain).uses.flatMap (Tests.chainVec : Chain).reach) = false) ∧
    ((Tests.ctxOf Tests.recVec : Ctx).heldRelease (Tests.chainVec : Chain).outputs = false) ∧
    ((Tests.ctxOf Tests.recVec : Ctx).heldReads ((Tests.chainVec : Chain).uses.flatMap (Tests.chainVec : Chain).reach) = false) ∧
    ((Tests.chainVec : Chain).overlapped = []) ∧
    ((((Tests.vec1 : State).loadLevel (Tests.siteVec : Site) (Tests.chainVec : Chain) ([] : List (Nat × ScaleSlot)) (Tests.chainVec : Chain).stages { xs := (Tests.chainVec : Chain).start, draws := (Tests.ctxOf Tests.recVec : Ctx).drawsOn (0 : Nat) }).1, ((Tests.vec1 : State).loadLevel (Tests.siteVec : Site) (Tests.chainVec : Chain) ([] : List (Nat × ScaleSlot)) (Tests.chainVec : Chain).stages { xs := (Tests.chainVec : Chain).start, draws := (Tests.ctxOf Tests.recVec : Ctx).drawsOn (0 : Nat) }).2.toOption.map (fun fl0 => runStages (Tests.chainVec : Chain) ([] : List (Nat × ScaleSlot)) false 0 (Tests.chainVec : Chain).stages fl0)) = ((Tests.vec2.1 : State), some (Tests.flowVec : Flow))) ∧
    ((((Tests.vec2.1 : State).applyItems (Tests.siteVec : Site) (Tests.chainVec : Chain) (sortBy (fun (i : Item) => i.key) (Tests.flowVec : Flow).items.reverse) ([], [], .none)).1, ((Tests.vec2.1 : State).applyItems (Tests.siteVec : Site) (Tests.chainVec : Chain) (sortBy (fun (i : Item) => i.key) (Tests.flowVec : Flow).items.reverse) ([], [], .none)).2.toOption) = ((Tests.vec3.1 : State), some ((Tests.vecOut.1 : Overlay), (Tests.vecOut.2.1 : List (Nat × Nat × Bytes)), (Tests.vecOut.2.2 : Flags)))) ∧
    ((Tests.vec3.1 : State).putWrites (Tests.siteVec : Site) (joinWrites (sortBy (fun w => w.1 * 2 ^ 64 + w.2.1) ((Tests.vecOut.2.1 : List (Nat × Nat × Bytes)) ++ (Tests.vecOut.1 : Overlay).flatMap (fun o => pairWrites ((Tests.chainVec : Chain).stream o.1) o.2.1 o.2.2)))) = ((Tests.vec4 : State), none)) := by
  refine ⟨by decide +kernel, by decide +kernel, by decide +kernel, by decide +kernel, by decide +kernel, by decide +kernel, by decide +kernel, by decide +kernel, by decide +kernel, by decide +kernel, by decide +kernel, by decide +kernel, by rfl, by rfl, by decide +kernel⟩

theorem witness_FencesAreMadeSharedAndDropped_1 : (Admits (Tests.devFenced : State) .fenceCreate ((Tests.msg3 32 (toLe 16 0 ++ toLe 16 77)) : Msg) (Tests.tenant : Session) = true) ∧
    ((Tests.devFenced : State).ctx? ((Tests.msg3 32 (toLe 16 0 ++ toLe 16 77)) : Msg).ctx = some (Tests.ctxFenced : Ctx)) ∧
    ((Tests.devFenced : State).draining ((Tests.msg3 32 (toLe 16 0 ++ toLe 16 77)) : Msg).ctx = false) ∧
    (((Tests.msg3 32 (toLe 16 0 ++ toLe 16 77)) : Msg).length = 32) ∧
    ((ofLe (slice (toLe 16 0 ++ toLe 16 77) 0 32) : Nat) = ofLe (slice ((Tests.msg3 32 (toLe 16 0 ++ toLe 16 77)) : Msg).payload 0 32)) ∧
    (field (ofLe (slice (toLe 16 0 ++ toLe 16 77) 0 32) : Nat) 1 0 = 0) ∧
    ((anySet (ofLe (slice (toLe 16 0 ++ toLe 16 77) 0 32) : Nat) 63 2 || anySet (ofLe (slice (toLe 16 0 ++ toLe 16 77) 0 32) : Nat) 127 64 || anySet (ofLe (slice (toLe 16 0 ++ toLe 16 77) 0 32) : Nat) 255 192) = false) ∧
    ((Tests.devFenced : State).fences.length < 65536) ∧
    ((Tests.ctxFenced : Ctx).fences.length < 4096) ∧
    (pickId 65536 ((Tests.devFenced : State).fences.map (fun f => f.index) ++ (Tests.ctxFenced : Ctx).fenceMap.map (fun z => z.1 % 65536)) (Tests.devFenced : State).fencesFreed (Tests.devFenced : State).hub.timer (fun _ => false) = some ((0 : Nat), (0 : Nat))) ∧
    (({ index := 0, gen := 1, value := 77 } : Fence) = { index := (0 : Nat), gen := nextGen 16 (0 : Nat), value := field (ofLe (slice (toLe 16 0 ++ toLe 16 77) 0 32) : Nat) 191 128 }) := by decide +kernel

theorem witness_FencesAreMadeSharedAndDropped_2 : (Admits (Tests.devFenced : State) .fenceCreate ((Tests.msg3 32 (toLe 8 1 ++ toLe 24 0x10004)) : Msg) (Tests.tenant : Session) = true) ∧
    ((Tests.devFenced : State).ctx? ((Tests.msg3 32 (toLe 8 1 ++ toLe 24 0x10004)) : Msg).ctx = some (Tests.ctxFenced : Ctx)) ∧
    ((Tests.devFenced : State).draining ((Tests.msg3 32 (toLe 8 1 ++ toLe 24 0x10004)) : Msg).ctx = false) ∧
    (((Tests.msg3 32 (toLe 8 1 ++ toLe 24 0x10004)) : Msg).length = 32) ∧
    ((ofLe (slice (toLe 8 1 ++ toLe 24 0x10004) 0 32) : Nat) = ofLe (slice ((Tests.msg3 32 (toLe 8 1 ++ toLe 24 0x10004)) : Msg).payload 0 32)) ∧
    (field (ofLe (slice (toLe 8 1 ++ toLe 24 0x10004) 0 32) : Nat) 1 0 = 1) ∧
    ((anySet (ofLe (slice (toLe 8 1 ++ toLe 24 0x10004) 0 32) : Nat) 63 2 || anySet (ofLe (slice (toLe 8 1 ++ toLe 24 0x10004) 0 32) : Nat) 127 96 || anySet (ofLe (slice (toLe 8 1 ++ toLe 24 0x10004) 0 32) : Nat) 255 128) = false) ∧
    ((Tests.devFenced : State).heldFence (Tests.ctxFenced : Ctx) (field (ofLe (slice (toLe 8 1 ++ toLe 24 0x10004) 0 32) : Nat) 95 64) = some (Tests.fence4 : Fence)) ∧
    ((Tests.fence4 : Fence).abandoned = false) := by decide +kernel

theorem witness_FencesAreMadeSharedAndDropped_3 : (Admits (Tests.devUnref : State) .fenceCreate ((Tests.msg3 32 (toLe 8 2 ++ toLe 16 0x10004 ++ toLe 8 9)) : Msg) (Tests.tenant : Session) = true) ∧
    ((Tests.devUnref : State).ctx? ((Tests.msg3 32 (toLe 8 2 ++ toLe 16 0x10004 ++ toLe 8 9)) : Msg).ctx = some (Tests.ctx0 : Ctx)) ∧
    ((Tests.devUnref : State).draining ((Tests.msg3 32 (toLe 8 2 ++ toLe 16 0x10004 ++ toLe 8 9)) : Msg).ctx = false) ∧
    (((Tests.msg3 32 (toLe 8 2 ++ toLe 16 0x10004 ++ toLe 8 9)) : Msg).length = 32) ∧
    ((ofLe (slice (toLe 8 2 ++ toLe 16 0x10004 ++ toLe 8 9) 0 32) : Nat) = ofLe (slice ((Tests.msg3 32 (toLe 8 2 ++ toLe 16 0x10004 ++ toLe 8 9)) : Msg).payload 0 32)) ∧
    (field (ofLe (slice (toLe 8 2 ++ toLe 16 0x10004 ++ toLe 8 9) 0 32) : Nat) 1 0 = 2) ∧
    ((anySet (ofLe (slice (toLe 8 2 ++ toLe 16 0x10004 ++ toLe 8 9) 0 32) : Nat) 63 2 || anySet (ofLe (slice (toLe 8 2 ++ toLe 16 0x10004 ++ toLe 8 9) 0 32) : Nat) 127 96 || anySet (ofLe (slice (toLe 8 2 ++ toLe 16 0x10004 ++ toLe 8 9) 0 32) : Nat) 191 128) = false) ∧
    ((Tests.devUnref : State).fenceOf ((Tests.ctx0 : Ctx).translate (field (ofLe (slice (toLe 8 2 ++ toLe 16 0x10004 ++ toLe 8 9) 0 32) : Nat) 95 64)) = some (Tests.fence4 : Fence)) ∧
    ((Tests.fence4 : Fence).key = some (field (ofLe (slice (toLe 8 2 ++ toLe 16 0x10004 ++ toLe 8 9) 0 32) : Nat) 255 192)) ∧
    ((Tests.devUnref : State).ctxs.any (fun d => d.fences.contains (Tests.fence4 : Fence).index) = true) ∧
    ((Tests.fence4 : Fence).index ∉ (Tests.ctx0 : Ctx).fences) ∧
    ((Tests.ctx0 : Ctx).fenceMap.all (fun z => z.1 != field (ofLe (slice (toLe 8 2 ++ toLe 16 0x10004 ++ toLe 8 9) 0 32) : Nat) 95 64) = true) ∧
    ((Tests.fence4 : Fence).abandoned = false) ∧
    ((Tests.ctx0 : Ctx).fences.length < 4096) := by decide +kernel

theorem witness_FencesAreMadeSharedAndDropped_4 : (Admits (Tests.devFenced : State) .fenceDestroy ((Tests.msg3 8 (toLe 8 0x10004)) : Msg) (Tests.tenant : Session) = true) ∧
    ((Tests.devFenced : State).ctx? ((Tests.msg3 8 (toLe 8 0x10004)) : Msg).ctx = some (Tests.ctxFenced : Ctx)) ∧
    ((Tests.devFenced : State).draining ((Tests.msg3 8 (toLe 8 0x10004)) : Msg).ctx = false) ∧
    (((Tests.msg3 8 (toLe 8 0x10004)) : Msg).length = 8) ∧
    ((ofLe (slice (toLe 8 0x10004) 0 8) : Nat) = ofLe (slice ((Tests.msg3 8 (toLe 8 0x10004)) : Msg).payload 0 8)) ∧
    (anySet (ofLe (slice (toLe 8 0x10004) 0 8) : Nat) 63 32 = false) ∧
    ((Tests.devFenced : State).heldFence (Tests.ctxFenced : Ctx) (field (ofLe (slice (toLe 8 0x10004) 0 8) : Nat) 31 0) = some (Tests.fence4 : Fence)) := by decide +kernel

theorem witness_FenceSignalsReleaseTheirWaits_1 : (Admits (Tests.devFenceWaiting : State) .fenceSignal ((Tests.msg3 16 (toLe 8 0x10004 ++ toLe 8 9)) : Msg) (Tests.tenant : Session) = true) ∧
    ((Tests.devFenceWaiting : State).ctx? ((Tests.msg3 16 (toLe 8 0x10004 ++ toLe 8 9)) : Msg).ctx = some (Tests.ctxFenced : Ctx)) ∧
    ((Tests.devFenceWaiting : State).draining ((Tests.msg3 16 (toLe 8 0x10004 ++ toLe 8 9)) : Msg).ctx = false) ∧
    (((Tests.msg3 16 (toLe 8 0x10004 ++ toLe 8 9)) : Msg).length = 16) ∧
    ((ofLe (slice (toLe 8 0x10004 ++ toLe 8 9) 0 16) : Nat) = ofLe (slice ((Tests.msg3 16 (toLe 8 0x10004 ++ toLe 8 9)) : Msg).payload 0 16)) ∧
    (anySet (ofLe (slice (toLe 8 0x10004 ++ toLe 8 9) 0 16) : Nat) 63 32 = false) ∧
    ((Tests.devFenceWaiting : State).heldFence (Tests.ctxFenced : Ctx) (field (ofLe (slice (toLe 8 0x10004 ++ toLe 8 9) 0 16) : Nat) 31 0) = some (Tests.fence4 : Fence)) ∧
    ((Tests.fence4 : Fence).abandoned = false) ∧
    ((Tests.fence4 : Fence).value < field (ofLe (slice (toLe 8 0x10004 ++ toLe 8 9) 0 16) : Nat) 127 64) := by decide +kernel

theorem witness_FenceSignalsReleaseTheirWaits_2 : (Admits (Tests.devFenced : State) .fenceSignal ((Tests.msg3 16 (toLe 8 0x10004 ++ toLe 8 2)) : Msg) (Tests.tenant : Session) = true) ∧
    ((Tests.devFenced : State).ctx? ((Tests.msg3 16 (toLe 8 0x10004 ++ toLe 8 2)) : Msg).ctx = some (Tests.ctxFenced : Ctx)) ∧
    ((Tests.devFenced : State).draining ((Tests.msg3 16 (toLe 8 0x10004 ++ toLe 8 2)) : Msg).ctx = false) ∧
    (((Tests.msg3 16 (toLe 8 0x10004 ++ toLe 8 2)) : Msg).length = 16) ∧
    ((ofLe (slice (toLe 8 0x10004 ++ toLe 8 2) 0 16) : Nat) = ofLe (slice ((Tests.msg3 16 (toLe 8 0x10004 ++ toLe 8 2)) : Msg).payload 0 16)) ∧
    (anySet (ofLe (slice (toLe 8 0x10004 ++ toLe 8 2) 0 16) : Nat) 63 32 = false) ∧
    ((Tests.devFenced : State).heldFence (Tests.ctxFenced : Ctx) (field (ofLe (slice (toLe 8 0x10004 ++ toLe 8 2) 0 16) : Nat) 31 0) = some (Tests.fence4 : Fence)) ∧
    ((Tests.fence4 : Fence).abandoned = false) ∧
    (field (ofLe (slice (toLe 8 0x10004 ++ toLe 8 2) 0 16) : Nat) 127 64 ≤ (Tests.fence4 : Fence).value) := by decide +kernel

theorem witness_FenceSignalsReleaseTheirWaits_3 : (Admits (Tests.devFenced : State) .fenceWait ((Tests.msg3 24 (toLe 8 0x10004 ++ toLe 16 3)) : Msg) (Tests.tenant : Session) = true) ∧
    ((Tests.devFenced : State).ctx? ((Tests.msg3 24 (toLe 8 0x10004 ++ toLe 16 3)) : Msg).ctx = some (Tests.ctxFenced : Ctx)) ∧
    ((Tests.devFenced : State).draining ((Tests.msg3 24 (toLe 8 0x10004 ++ toLe 16 3)) : Msg).ctx = false) ∧
    (((Tests.msg3 24 (toLe 8 0x10004 ++ toLe 16 3)) : Msg).length = 24) ∧
    ((ofLe (slice (toLe 8 0x10004 ++ toLe 16 3) 0 24) : Nat) = ofLe (slice ((Tests.msg3 24 (toLe 8 0x10004 ++ toLe 16 3)) : Msg).payload 0 24)) ∧
    ((anySet (ofLe (slice (toLe 8 0x10004 ++ toLe 16 3) 0 24) : Nat) 63 32 || anySet (ofLe (slice (toLe 8 0x10004 ++ toLe 16 3) 0 24) : Nat) 191 160) = false) ∧
    ((Tests.devFenced : State).ledger.freeTag hubTags 4096 = some (12288 : Nat)) ∧
    ((Tests.devFenced : State).heldFence (Tests.ctxFenced : Ctx) (field (ofLe (slice (toLe 8 0x10004 ++ toLe 16 3) 0 24) : Nat) 31 0) = some (Tests.fence4 : Fence)) ∧
    ((Tests.fence4 : Fence).abandoned = false) ∧
    (field (ofLe (slice (toLe 8 0x10004 ++ toLe 16 3) 0 24) : Nat) 127 64 ≤ (Tests.fence4 : Fence).value ∨ field (ofLe (slice (toLe 8 0x10004 ++ toLe 16 3) 0 24) : Nat) 159 128 = 0) := by decide +kernel

theorem witness_FenceSignalsReleaseTheirWaits_4 : (Admits (Tests.devFenced : State) .fenceWait ((Tests.msg3 24 (toLe 8 0x10004 ++ toLe 8 3 ++ toLe 8 1)) : Msg) (Tests.tenant : Session) = true) ∧
    ((Tests.devFenced : State).ctx? ((Tests.msg3 24 (toLe 8 0x10004 ++ toLe 8 3 ++ toLe 8 1)) : Msg).ctx = some (Tests.ctxFenced : Ctx)) ∧
    ((Tests.devFenced : State).draining ((Tests.msg3 24 (toLe 8 0x10004 ++ toLe 8 3 ++ toLe 8 1)) : Msg).ctx = false) ∧
    (((Tests.msg3 24 (toLe 8 0x10004 ++ toLe 8 3 ++ toLe 8 1)) : Msg).length = 24) ∧
    ((ofLe (slice (toLe 8 0x10004 ++ toLe 8 3 ++ toLe 8 1) 0 24) : Nat) = ofLe (slice ((Tests.msg3 24 (toLe 8 0x10004 ++ toLe 8 3 ++ toLe 8 1)) : Msg).payload 0 24)) ∧
    ((anySet (ofLe (slice (toLe 8 0x10004 ++ toLe 8 3 ++ toLe 8 1) 0 24) : Nat) 63 32 || anySet (ofLe (slice (toLe 8 0x10004 ++ toLe 8 3 ++ toLe 8 1) 0 24) : Nat) 191 160) = false) ∧
    ((Tests.devFenced : State).ledger.freeTag hubTags 4096 = some (12288 : Nat)) ∧
    ((Tests.devFenced : State).heldFence (Tests.ctxFenced : Ctx) (field (ofLe (slice (toLe 8 0x10004 ++ toLe 8 3 ++ toLe 8 1) 0 24) : Nat) 31 0) = some (Tests.fence4 : Fence)) ∧
    ((Tests.fence4 : Fence).abandoned = false) ∧
    ((Tests.fence4 : Fence).value < field (ofLe (slice (toLe 8 0x10004 ++ toLe 8 3 ++ toLe 8 1) 0 24) : Nat) 127 64) ∧
    (field (ofLe (slice (toLe 8 0x10004 ++ toLe 8 3 ++ toLe 8 1) 0 24) : Nat) 159 128 ≠ 0) := by decide +kernel

theorem witness_FenceSignalsReleaseTheirWaits_5 : ((Tests.devFenceWaiting : State).alive = true) ∧
    ((Tests.devFenceWaiting : State).ledger.entry? (12288 : Nat) = some ({ tag := 12288, gen := 1, holder := .fenceWait 1 6, ctx := some 3, deadline := some 9 } : LedgerEntry)) ∧
    (({ tag := 12288, gen := 1, holder := .fenceWait 1 6, ctx := some 3, deadline := some 9 } : LedgerEntry).quarantine = none) ∧
    (({ tag := 12288, gen := 1, holder := .fenceWait 1 6, ctx := some 3, deadline := some 9 } : LedgerEntry).deadline = some (9 : Nat)) ∧
    ((9 : Nat) ≤ (Tests.devFenceWaiting : State).hub.timer) ∧
    ((Tests.devFenceWaiting : State).waits.find? (fun k => k.fenceTag == some (12288 : Nat)) = some ({ session := 1, sgen := 0, opcode := .fenceWait, tag := 6, ctx := 3, ctxGen := 1, what := .fence 4 7 12288 } : Wait)) ∧
    (({ session := 1, sgen := 0, opcode := .fenceWait, tag := 6, ctx := 3, ctxGen := 1, what := .fence 4 7 12288 } : Wait).what = .fence (4 : Nat) (7 : Nat) (12288 : Nat)) ∧
    ((Tests.devFenceWaiting : State).fence? (4 : Nat) = some (Tests.fence4 : Fence)) := by decide +kernel

theorem witness_BulkRequestsMoveRegions_1 : (Admits (Tests.devPaged : State) .bulkIn ({ (Tests.msg3 8 (toLe 8 0x0102030405060708)) with arg0 := 300 } : Msg) (Tests.tenant : Session) = true) ∧
    ((Tests.devPaged : State).ctx? ({ (Tests.msg3 8 (toLe 8 0x0102030405060708)) with arg0 := 300 } : Msg).ctx = some (Tests.ctxPaged : Ctx)) ∧
    ((Tests.devPaged : State).draining ({ (Tests.msg3 8 (toLe 8 0x0102030405060708)) with arg0 := 300 } : Msg).ctx = false) ∧
    ((Tests.ctxPaged : Ctx).heldRelease [{ space := 0, addr := field ({ (Tests.msg3 8 (toLe 8 0x0102030405060708)) with arg0 := 300 } : Msg).arg0 47 0, bytes := ({ (Tests.msg3 8 (toLe 8 0x0102030405060708)) with arg0 := 300 } : Msg).payload.length }] = false) ∧
    (anySet ({ (Tests.msg3 8 (toLe 8 0x0102030405060708)) with arg0 := 300 } : Msg).arg0 63 48 = false) ∧
    ((Tests.ctxPaged : Ctx).open_ (field ({ (Tests.msg3 8 (toLe 8 0x0102030405060708)) with arg0 := 300 } : Msg).arg0 47 0) ({ (Tests.msg3 8 (toLe 8 0x0102030405060708)) with arg0 := 300 } : Msg).payload.length = true) ∧
    ((Tests.ctxPaged : Ctx).writingHalf (field ({ (Tests.msg3 8 (toLe 8 0x0102030405060708)) with arg0 := 300 } : Msg).arg0 47 0) ({ (Tests.msg3 8 (toLe 8 0x0102030405060708)) with arg0 := 300 } : Msg).payload.length = false) ∧
    ((Tests.devPaged.takeMail .bulkIn { (Tests.msg3 8 (toLe 8 0x0102030405060708)) with arg0 := 300 } : State) = (Tests.devPaged : State).takeMail .bulkIn ({ (Tests.msg3 8 (toLe 8 0x0102030405060708)) with arg0 := 300 } : Msg)) ∧
    ((Tests.devPaged.takeMail .bulkIn { (Tests.msg3 8 (toLe 8 0x0102030405060708)) with arg0 := 300 } : State).bulkWrite (Tests.ctxPaged : Ctx).id ([] : List Upset) (field ({ (Tests.msg3 8 (toLe 8 0x0102030405060708)) with arg0 := 300 } : Msg).arg0 47 0) ({ (Tests.msg3 8 (toLe 8 0x0102030405060708)) with arg0 := 300 } : Msg).payload = ((((Tests.devPaged.takeMail .bulkIn { (Tests.msg3 8 (toLe 8 0x0102030405060708)) with arg0 := 300 }).bulkWrite 3 [] 300 (toLe 8 0x0102030405060708)).1 : State), none)) := by decide +kernel

theorem witness_BulkRequestsMoveRegions_2 : (Admits (Tests.devPaged : State) .bulkIn ({ (Tests.msg3 8 (toLe 8 0x0102030405060708)) with arg0 := 300 } : Msg) (Tests.tenant : Session) = true) ∧
    ((Tests.devPaged : State).ctx? ({ (Tests.msg3 8 (toLe 8 0x0102030405060708)) with arg0 := 300 } : Msg).ctx = some (Tests.ctxPaged : Ctx)) ∧
    ((Tests.devPaged : State).draining ({ (Tests.msg3 8 (toLe 8 0x0102030405060708)) with arg0 := 300 } : Msg).ctx = false) ∧
    ((Tests.ctxPaged : Ctx).heldRelease [{ space := 0, addr := field ({ (Tests.msg3 8 (toLe 8 0x0102030405060708)) with arg0 := 300 } : Msg).arg0 47 0, bytes := ({ (Tests.msg3 8 (toLe 8 0x0102030405060708)) with arg0 := 300 } : Msg).payload.length }] = false) ∧
    (anySet ({ (Tests.msg3 8 (toLe 8 0x0102030405060708)) with arg0 := 300 } : Msg).arg0 63 48 = false) ∧
    (PlainRegion (Tests.devPaged : State) (Tests.ctxPaged : Ctx) (field ({ (Tests.msg3 8 (toLe 8 0x0102030405060708)) with arg0 := 300 } : Msg).arg0 47 0) ({ (Tests.msg3 8 (toLe 8 0x0102030405060708)) with arg0 := 300 } : Msg).payload.length (0 : Nat) = true) ∧
    ((Tests.ctxPaged : Ctx).open_ (field ({ (Tests.msg3 8 (toLe 8 0x0102030405060708)) with arg0 := 300 } : Msg).arg0 47 0) ({ (Tests.msg3 8 (toLe 8 0x0102030405060708)) with arg0 := 300 } : Msg).payload.length = true) ∧
    ((Tests.ctxPaged : Ctx).writingHalf (field ({ (Tests.msg3 8 (toLe 8 0x0102030405060708)) with arg0 := 300 } : Msg).arg0 47 0) ({ (Tests.msg3 8 (toLe 8 0x0102030405060708)) with arg0 := 300 } : Msg).payload.length = false) ∧
    (cellsWf (Tests.devPaged : State).mem.cells = true) := by decide +kernel

theorem witness_BulkRequestsMoveRegions_3 : (Admits (Tests.devPaged : State) .bulkOut ({ (Tests.msg3 8 (toLe 8 4)) with arg0 := 300 } : Msg) (Tests.tenant : Session) = true) ∧
    ((Tests.devPaged : State).ctx? ({ (Tests.msg3 8 (toLe 8 4)) with arg0 := 300 } : Msg).ctx = some (Tests.ctxPaged : Ctx)) ∧
    (({ (Tests.msg3 8 (toLe 8 4)) with arg0 := 300 } : Msg).length = 8) ∧
    ((4 : Nat) = ofLe (slice ({ (Tests.msg3 8 (toLe 8 4)) with arg0 := 300 } : Msg).payload 0 8)) ∧
    ((Tests.ctxPaged : Ctx).heldReads [{ space := 0, addr := field ({ (Tests.msg3 8 (toLe 8 4)) with arg0 := 300 } : Msg).arg0 47 0, bytes := field (4 : Nat) 31 0 }] = false) ∧
    (anySet ({ (Tests.msg3 8 (toLe 8 4)) with arg0 := 300 } : Msg).arg0 63 48 = false) ∧
    (field (4 : Nat) 31 0 ≤ 65504) ∧
    (anySet (4 : Nat) 63 32 = false) ∧
    ((Tests.ctxPaged : Ctx).policy = none) ∧
    ((Tests.ctxPaged : Ctx).mapped (field ({ (Tests.msg3 8 (toLe 8 4)) with arg0 := 300 } : Msg).arg0 47 0) (field (4 : Nat) 31 0) = true) ∧
    ((Tests.devPaged.takeMail .bulkOut { (Tests.msg3 8 (toLe 8 4)) with arg0 := 300 } : State) = (Tests.devPaged : State).takeMail .bulkOut ({ (Tests.msg3 8 (toLe 8 4)) with arg0 := 300 } : Msg)) ∧
    (((Tests.devPaged.takeMail .bulkOut { (Tests.msg3 8 (toLe 8 4)) with arg0 := 300 } : State).readV (Tests.ctxPaged : Ctx).id none ([] : List Upset) (field ({ (Tests.msg3 8 (toLe 8 4)) with arg0 := 300 } : Msg).arg0 47 0) (field (4 : Nat) 31 0)).1 = (((Tests.devPaged.takeMail .bulkOut { (Tests.msg3 8 (toLe 8 4)) with arg0 := 300 }).readV 3 none [] 300 4).1 : State)) ∧
    (((Tests.devPaged.takeMail .bulkOut { (Tests.msg3 8 (toLe 8 4)) with arg0 := 300 } : State).readV (Tests.ctxPaged : Ctx).id none ([] : List Upset) (field ({ (Tests.msg3 8 (toLe 8 4)) with arg0 := 300 } : Msg).arg0 47 0) (field (4 : Nat) 31 0)).2.toOption = some ([0, 0, 0, 0] : Bytes)) := by decide +kernel

theorem witness_BulkRequestsMoveRegions_4 : (Admits ({ Tests.devPaged with mem := { hbmUse := [(0, .page)], cells := [(5, 7)] } } : State) .bulkOut ({ (Tests.msg3 8 (toLe 8 4)) with arg0 := 3 } : Msg) (Tests.tenant : Session) = true) ∧
    (({ Tests.devPaged with mem := { hbmUse := [(0, .page)], cells := [(5, 7)] } } : State).ctx? ({ (Tests.msg3 8 (toLe 8 4)) with arg0 := 3 } : Msg).ctx = some (Tests.ctxPaged : Ctx)) ∧
    (({ (Tests.msg3 8 (toLe 8 4)) with arg0 := 3 } : Msg).length = 8) ∧
    ((4 : Nat) = ofLe (slice ({ (Tests.msg3 8 (toLe 8 4)) with arg0 := 3 } : Msg).payload 0 8)) ∧
    ((Tests.ctxPaged : Ctx).heldReads [{ space := 0, addr := field ({ (Tests.msg3 8 (toLe 8 4)) with arg0 := 3 } : Msg).arg0 47 0, bytes := field (4 : Nat) 31 0 }] = false) ∧
    (anySet ({ (Tests.msg3 8 (toLe 8 4)) with arg0 := 3 } : Msg).arg0 63 48 = false) ∧
    (field (4 : Nat) 31 0 ≤ 65504) ∧
    (anySet (4 : Nat) 63 32 = false) ∧
    ((Tests.ctxPaged : Ctx).policy = none) ∧
    ((Tests.ctxPaged : Ctx).mapped (field ({ (Tests.msg3 8 (toLe 8 4)) with arg0 := 3 } : Msg).arg0 47 0) (field (4 : Nat) 31 0) = true) ∧
    (PlainRegion ({ Tests.devPaged with mem := { hbmUse := [(0, .page)], cells := [(5, 7)] } } : State) (Tests.ctxPaged : Ctx) (field ({ (Tests.msg3 8 (toLe 8 4)) with arg0 := 3 } : Msg).arg0 47 0) (field (4 : Nat) 31 0) (0 : Nat) = true) := by decide +kernel

theorem witness_MapGrantMapsPublishesAndAttaches_1 : (Admits (Tests.devGranted : State) .mapGrant ((Tests.msg3 32 (toLe 4 0 ++ toLe 8 2097152 ++ toLe 20 2)) : Msg) (Tests.tenant : Session) = true) ∧
    ((Tests.devGranted : State).ctx? ((Tests.msg3 32 (toLe 4 0 ++ toLe 8 2097152 ++ toLe 20 2)) : Msg).ctx = some (Tests.ctxGranted : Ctx)) ∧
    ((grantOf (ofLe (slice (toLe 4 0 ++ toLe 8 2097152 ++ toLe 20 2) 0 32)) : Grant) = grantOf (ofLe (slice ((Tests.msg3 32 (toLe 4 0 ++ toLe 8 2097152 ++ toLe 20 2)) : Msg).payload 0 32))) ∧
    ((Tests.devGranted.takeMail .mapGrant (Tests.msg3 32 (toLe 4 0 ++ toLe 8 2097152 ++ toLe 20 2)) : State) = (Tests.devGranted : State).takeMail .mapGrant ((Tests.msg3 32 (toLe 4 0 ++ toLe 8 2097152 ++ toLe 20 2)) : Msg)) ∧
    ((Tests.devGranted.takeMail .mapGrant (Tests.msg3 32 (toLe 4 0 ++ toLe 8 2097152 ++ toLe 20 2)) : State).grantCheck (Tests.tenant : Session) (Tests.ctxGranted : Ctx) ((Tests.msg3 32 (toLe 4 0 ++ toLe 8 2097152 ++ toLe 20 2)) : Msg).length (grantOf (ofLe (slice (toLe 4 0 ++ toLe 8 2097152 ++ toLe 20 2) 0 32)) : Grant) = none) ∧
    ((grantOf (ofLe (slice (toLe 4 0 ++ toLe 8 2097152 ++ toLe 20 2) 0 32)) : Grant).kind = 0) ∧
    ((grantOf (ofLe (slice (toLe 4 0 ++ toLe 8 2097152 ++ toLe 20 2) 0 32)) : Grant).pages ≤ (Tests.devGranted.takeMail .mapGrant (Tests.msg3 32 (toLe 4 0 ++ toLe 8 2097152 ++ toLe 20 2)) : State).localPart (Tests.ctxGranted : Ctx) (grantOf (ofLe (slice (toLe 4 0 ++ toLe 8 2097152 ++ toLe 20 2) 0 32)) : Grant).pages) := by decide +kernel

theorem witness_MapGrantMapsPublishesAndAttaches_2 : (Admits (Tests.devGranted : State) .mapGrant ((Tests.msg3 32 (toLe 4 0 ++ toLe 8 2097152 ++ toLe 20 1)) : Msg) (Tests.tenant : Session) = true) ∧
    ((Tests.devGranted : State).ctx? ((Tests.msg3 32 (toLe 4 0 ++ toLe 8 2097152 ++ toLe 20 1)) : Msg).ctx = some (Tests.ctxGranted : Ctx)) ∧
    ((grantOf (ofLe (slice (toLe 4 0 ++ toLe 8 2097152 ++ toLe 20 1) 0 32)) : Grant) = grantOf (ofLe (slice ((Tests.msg3 32 (toLe 4 0 ++ toLe 8 2097152 ++ toLe 20 1)) : Msg).payload 0 32))) ∧
    ((Tests.devGranted.takeMail .mapGrant (Tests.msg3 32 (toLe 4 0 ++ toLe 8 2097152 ++ toLe 20 1)) : State) = (Tests.devGranted : State).takeMail .mapGrant ((Tests.msg3 32 (toLe 4 0 ++ toLe 8 2097152 ++ toLe 20 1)) : Msg)) ∧
    ((Tests.devGranted.takeMail .mapGrant (Tests.msg3 32 (toLe 4 0 ++ toLe 8 2097152 ++ toLe 20 1)) : State).grantCheck (Tests.tenant : Session) (Tests.ctxGranted : Ctx) ((Tests.msg3 32 (toLe 4 0 ++ toLe 8 2097152 ++ toLe 20 1)) : Msg).length (grantOf (ofLe (slice (toLe 4 0 ++ toLe 8 2097152 ++ toLe 20 1) 0 32)) : Grant) = none) ∧
    ((grantOf (ofLe (slice (toLe 4 0 ++ toLe 8 2097152 ++ toLe 20 1) 0 32)) : Grant).kind = 0) ∧
    ((grantOf (ofLe (slice (toLe 4 0 ++ toLe 8 2097152 ++ toLe 20 1) 0 32)) : Grant).pages = 1) ∧
    ((Tests.devGranted.takeMail .mapGrant (Tests.msg3 32 (toLe 4 0 ++ toLe 8 2097152 ++ toLe 20 1)) : State).localPart (Tests.ctxGranted : Ctx) 1 = 1) ∧
    ((Tests.devGranted : State).freeHbm 0 = some (1 : Nat)) ∧
    (cellsWf (Tests.devGranted : State).mem.cells = true) := by decide +kernel

theorem witness_MapGrantMapsPublishesAndAttaches_3 : (Admits ({ Tests.devGranted with ctxs := [{ Tests.ctxGranted with limits := { nbrMax := 2 } }], links := { Links.boot with leases := [{ slot := 0, id := 1, gen := 1, lender := 7, ctx := 3 }] } } : State) .mapGrant ((Tests.msg3 32 (toLe 4 4 ++ toLe 8 2097152 ++ toLe 20 1)) : Msg) (Tests.tenant : Session) = true) ∧
    (({ Tests.devGranted with ctxs := [{ Tests.ctxGranted with limits := { nbrMax := 2 } }], links := { Links.boot with leases := [{ slot := 0, id := 1, gen := 1, lender := 7, ctx := 3 }] } } : State).ctx? ((Tests.msg3 32 (toLe 4 4 ++ toLe 8 2097152 ++ toLe 20 1)) : Msg).ctx = some ({ Tests.ctxGranted with limits := { nbrMax := 2 } } : Ctx)) ∧
    ((grantOf (ofLe (slice (toLe 4 4 ++ toLe 8 2097152 ++ toLe 20 1) 0 32)) : Grant) = grantOf (ofLe (slice ((Tests.msg3 32 (toLe 4 4 ++ toLe 8 2097152 ++ toLe 20 1)) : Msg).payload 0 32))) ∧
    ((({ Tests.devGranted with ctxs := [{ Tests.ctxGranted with limits := { nbrMax := 2 } }], links := { Links.boot with leases := [{ slot := 0, id := 1, gen := 1, lender := 7, ctx := 3 }] } } : State).takeMail .mapGrant (Tests.msg3 32 (toLe 4 4 ++ toLe 8 2097152 ++ toLe 20 1)) : State) = ({ Tests.devGranted with ctxs := [{ Tests.ctxGranted with limits := { nbrMax := 2 } }], links := { Links.boot with leases := [{ slot := 0, id := 1, gen := 1, lender := 7, ctx := 3 }] } } : State).takeMail .mapGrant ((Tests.msg3 32 (toLe 4 4 ++ toLe 8 2097152 ++ toLe 20 1)) : Msg)) ∧
    ((({ Tests.devGranted with ctxs := [{ Tests.ctxGranted with limits := { nbrMax := 2 } }], links := { Links.boot with leases := [{ slot := 0, id := 1, gen := 1, lender := 7, ctx := 3 }] } } : State).takeMail .mapGrant (Tests.msg3 32 (toLe 4 4 ++ toLe 8 2097152 ++ toLe 20 1)) : State).grantCheck (Tests.tenant : Session) ({ Tests.ctxGranted with limits := { nbrMax := 2 } } : Ctx) ((Tests.msg3 32 (toLe 4 4 ++ toLe 8 2097152 ++ toLe 20 1)) : Msg).length (grantOf (ofLe (slice (toLe 4 4 ++ toLe 8 2097152 ++ toLe 20 1) 0 32)) : Grant) = none) ∧
    ((grantOf (ofLe (slice (toLe 4 4 ++ toLe 8 2097152 ++ toLe 20 1) 0 32)) : Grant).kind = 0) ∧
    ((({ Tests.devGranted with ctxs := [{ Tests.ctxGranted with limits := { nbrMax := 2 } }], links := { Links.boot with leases := [{ slot := 0, id := 1, gen := 1, lender := 7, ctx := 3 }] } } : State).takeMail .mapGrant (Tests.msg3 32 (toLe 4 4 ++ toLe 8 2097152 ++ toLe 20 1)) : State).localPart ({ Tests.ctxGranted with limits := { nbrMax := 2 } } : Ctx) (grantOf (ofLe (slice (toLe 4 4 ++ toLe 8 2097152 ++ toLe 20 1) 0 32)) : Grant).pages < (grantOf (ofLe (slice (toLe 4 4 ++ toLe 8 2097152 ++ toLe 20 1) 0 32)) : Grant).pages) := by decide +kernel

theorem witness_MapGrantMapsPublishesAndAttaches_4 : (Admits (Tests.devGranted : State) .mapGrant ((Tests.msg3 32 (toLe 4 1 ++ toLe 12 0 ++ toLe 4 6 ++ toLe 4 3 ++ toLe 8 0)) : Msg) (Tests.tenant : Session) = true) ∧
    ((Tests.devGranted : State).ctx? ((Tests.msg3 32 (toLe 4 1 ++ toLe 12 0 ++ toLe 4 6 ++ toLe 4 3 ++ toLe 8 0)) : Msg).ctx = some (Tests.ctxGranted : Ctx)) ∧
    ((grantOf (ofLe (slice (toLe 4 1 ++ toLe 12 0 ++ toLe 4 6 ++ toLe 4 3 ++ toLe 8 0) 0 32)) : Grant) = grantOf (ofLe (slice ((Tests.msg3 32 (toLe 4 1 ++ toLe 12 0 ++ toLe 4 6 ++ toLe 4 3 ++ toLe 8 0)) : Msg).payload 0 32))) ∧
    ((Tests.devGranted.takeMail .mapGrant (Tests.msg3 32 (toLe 4 1 ++ toLe 12 0 ++ toLe 4 6 ++ toLe 4 3 ++ toLe 8 0)) : State) = (Tests.devGranted : State).takeMail .mapGrant ((Tests.msg3 32 (toLe 4 1 ++ toLe 12 0 ++ toLe 4 6 ++ toLe 4 3 ++ toLe 8 0)) : Msg)) ∧
    ((Tests.devGranted.takeMail .mapGrant (Tests.msg3 32 (toLe 4 1 ++ toLe 12 0 ++ toLe 4 6 ++ toLe 4 3 ++ toLe 8 0)) : State).grantCheck (Tests.tenant : Session) (Tests.ctxGranted : Ctx) ((Tests.msg3 32 (toLe 4 1 ++ toLe 12 0 ++ toLe 4 6 ++ toLe 4 3 ++ toLe 8 0)) : Msg).length (grantOf (ofLe (slice (toLe 4 1 ++ toLe 12 0 ++ toLe 4 6 ++ toLe 4 3 ++ toLe 8 0) 0 32)) : Grant) = none) ∧
    ((grantOf (ofLe (slice (toLe 4 1 ++ toLe 12 0 ++ toLe 4 6 ++ toLe 4 3 ++ toLe 8 0) 0 32)) : Grant).kind = 1) := by decide +kernel

theorem witness_MapGrantMapsPublishesAndAttaches_5 : (Admits (Tests.devGranted : State) .mapGrant ((Tests.msg3 32 (toLe 4 2 ++ toLe 8 0 ++ toLe 20 1)) : Msg) (Tests.tenant : Session) = true) ∧
    ((Tests.devGranted : State).ctx? ((Tests.msg3 32 (toLe 4 2 ++ toLe 8 0 ++ toLe 20 1)) : Msg).ctx = some (Tests.ctxGranted : Ctx)) ∧
    ((grantOf (ofLe (slice (toLe 4 2 ++ toLe 8 0 ++ toLe 20 1) 0 32)) : Grant) = grantOf (ofLe (slice ((Tests.msg3 32 (toLe 4 2 ++ toLe 8 0 ++ toLe 20 1)) : Msg).payload 0 32))) ∧
    ((Tests.devGranted.takeMail .mapGrant (Tests.msg3 32 (toLe 4 2 ++ toLe 8 0 ++ toLe 20 1)) : State) = (Tests.devGranted : State).takeMail .mapGrant ((Tests.msg3 32 (toLe 4 2 ++ toLe 8 0 ++ toLe 20 1)) : Msg)) ∧
    ((Tests.devGranted.takeMail .mapGrant (Tests.msg3 32 (toLe 4 2 ++ toLe 8 0 ++ toLe 20 1)) : State).grantCheck (Tests.tenant : Session) (Tests.ctxGranted : Ctx) ((Tests.msg3 32 (toLe 4 2 ++ toLe 8 0 ++ toLe 20 1)) : Msg).length (grantOf (ofLe (slice (toLe 4 2 ++ toLe 8 0 ++ toLe 20 1) 0 32)) : Grant) = none) ∧
    ((grantOf (ofLe (slice (toLe 4 2 ++ toLe 8 0 ++ toLe 20 1) 0 32)) : Grant).kind = 2) ∧
    ((grantOf (ofLe (slice (toLe 4 2 ++ toLe 8 0 ++ toLe 20 1) 0 32)) : Grant).pages ≠ 0) ∧
    (pickId 65536 ((Tests.devGranted : State).shares.map (fun z => z.index)) (Tests.devGranted : State).sharesFreed (Tests.devGranted : State).hub.timer (fun _ => false) = some ((0 : Nat), (0 : Nat))) ∧
    (((((Tests.devGranted.takeMail .mapGrant (Tests.msg3 32 (toLe 4 2 ++ toLe 8 0 ++ toLe 20 1)) : State).cancelMoves (fun z => z.ctx == (Tests.ctxGranted : Ctx).id && decide ((grantOf (ofLe (slice (toLe 4 2 ++ toLe 8 0 ++ toLe 20 1) 0 32)) : Grant).va / pageSize ≤ z.va) && decide (z.va < (grantOf (ofLe (slice (toLe 4 2 ++ toLe 8 0 ++ toLe 20 1) 0 32)) : Grant).va / pageSize + (grantOf (ofLe (slice (toLe 4 2 ++ toLe 8 0 ++ toLe 20 1) 0 32)) : Grant).pages))).draw 8).1.publishPages (Tests.ctxGranted : Ctx) (0 : Nat) ((List.range (grantOf (ofLe (slice (toLe 4 2 ++ toLe 8 0 ++ toLe 20 1) 0 32)) : Grant).pages).flatMap (fun j => (((Tests.ctxGranted : Ctx).page? ((grantOf (ofLe (slice (toLe 4 2 ++ toLe 8 0 ++ toLe 20 1) 0 32)) : Grant).va / pageSize + j)).map (fun p => (p, j))).toList))).isSome = true) := by decide +kernel

theorem witness_MapGrantMapsPublishesAndAttaches_6 : (Admits (Tests.devGranted : State) .mapGrant ((Tests.msg3 32 (toLe 32 2)) : Msg) (Tests.tenant : Session) = true) ∧
    ((Tests.devGranted : State).ctx? ((Tests.msg3 32 (toLe 32 2)) : Msg).ctx = some (Tests.ctxGranted : Ctx)) ∧
    ((grantOf (ofLe (slice (toLe 32 2) 0 32)) : Grant) = grantOf (ofLe (slice ((Tests.msg3 32 (toLe 32 2)) : Msg).payload 0 32))) ∧
    ((Tests.devGranted.takeMail .mapGrant (Tests.msg3 32 (toLe 32 2)) : State) = (Tests.devGranted : State).takeMail .mapGrant ((Tests.msg3 32 (toLe 32 2)) : Msg)) ∧
    ((Tests.devGranted.takeMail .mapGrant (Tests.msg3 32 (toLe 32 2)) : State).grantCheck (Tests.tenant : Session) (Tests.ctxGranted : Ctx) ((Tests.msg3 32 (toLe 32 2)) : Msg).length (grantOf (ofLe (slice (toLe 32 2) 0 32)) : Grant) = none) ∧
    ((grantOf (ofLe (slice (toLe 32 2) 0 32)) : Grant).kind = 2) ∧
    ((grantOf (ofLe (slice (toLe 32 2) 0 32)) : Grant).pages = 0) := by decide +kernel

theorem witness_MapGrantMapsPublishesAndAttaches_7 : (Admits (Tests.devObject : State) .mapGrant ((Tests.msg3 32 (toLe 4 3 ++ toLe 12 2097152 ++ toLe 4 0x10000 ++ toLe 12 6)) : Msg) (Tests.tenant : Session) = true) ∧
    ((Tests.devObject : State).ctx? ((Tests.msg3 32 (toLe 4 3 ++ toLe 12 2097152 ++ toLe 4 0x10000 ++ toLe 12 6)) : Msg).ctx = some (Tests.ctxGranted : Ctx)) ∧
    ((grantOf (ofLe (slice (toLe 4 3 ++ toLe 12 2097152 ++ toLe 4 0x10000 ++ toLe 12 6) 0 32)) : Grant) = grantOf (ofLe (slice ((Tests.msg3 32 (toLe 4 3 ++ toLe 12 2097152 ++ toLe 4 0x10000 ++ toLe 12 6)) : Msg).payload 0 32))) ∧
    ((Tests.devObject.takeMail .mapGrant (Tests.msg3 32 (toLe 4 3 ++ toLe 12 2097152 ++ toLe 4 0x10000 ++ toLe 12 6)) : State) = (Tests.devObject : State).takeMail .mapGrant ((Tests.msg3 32 (toLe 4 3 ++ toLe 12 2097152 ++ toLe 4 0x10000 ++ toLe 12 6)) : Msg)) ∧
    ((Tests.devObject.takeMail .mapGrant (Tests.msg3 32 (toLe 4 3 ++ toLe 12 2097152 ++ toLe 4 0x10000 ++ toLe 12 6)) : State).grantCheck (Tests.tenant : Session) (Tests.ctxGranted : Ctx) ((Tests.msg3 32 (toLe 4 3 ++ toLe 12 2097152 ++ toLe 4 0x10000 ++ toLe 12 6)) : Msg).length (grantOf (ofLe (slice (toLe 4 3 ++ toLe 12 2097152 ++ toLe 4 0x10000 ++ toLe 12 6) 0 32)) : Grant) = none) ∧
    ((grantOf (ofLe (slice (toLe 4 3 ++ toLe 12 2097152 ++ toLe 4 0x10000 ++ toLe 12 6) 0 32)) : Grant).kind = 3) ∧
    ((Tests.devObject : State).shareNamed (grantOf (ofLe (slice (toLe 4 3 ++ toLe 12 2097152 ++ toLe 4 0x10000 ++ toLe 12 6) 0 32)) : Grant) = some (Tests.objectX : Share)) := by decide +kernel

theorem witness_UnmapAndHintsChangeTheirPages_1 : (Admits (Tests.devGranted : State) .unmap ((Tests.msg3 16 (toLe 16 0)) : Msg) (Tests.tenant : Session) = true) ∧
    ((Tests.devGranted : State).ctx? ((Tests.msg3 16 (toLe 16 0)) : Msg).ctx = some (Tests.ctxGranted : Ctx)) ∧
    (((Tests.msg3 16 (toLe 16 0)) : Msg).length = 16) ∧
    ((ofLe (slice (toLe 16 0) 0 16) : Nat) = ofLe (slice ((Tests.msg3 16 (toLe 16 0)) : Msg).payload 0 16)) ∧
    ((anySet (ofLe (slice (toLe 16 0) 0 16) : Nat) 63 48 || anySet (ofLe (slice (toLe 16 0) 0 16) : Nat) 127 88) = false) ∧
    (field (ofLe (slice (toLe 16 0) 0 16) : Nat) 47 0 = (0 : Nat) * pageSize) ∧
    ((0 : Nat) = field (ofLe (slice (toLe 16 0) 0 16) : Nat) 87 64) ∧
    ((Tests.ctxGranted : Ctx).mappedPages (0 : Nat) (0 : Nat) = true) ∧
    ((Tests.devGranted : State).cutsObject (Tests.ctxGranted : Ctx) (0 : Nat) (0 : Nat) = false) ∧
    ((Tests.devGranted.takeMail .unmap (Tests.msg3 16 (toLe 16 0)) : State) = (Tests.devGranted : State).takeMail .unmap ((Tests.msg3 16 (toLe 16 0)) : Msg)) ∧
    ((0 : Nat) = 0) := by decide +kernel

theorem witness_UnmapAndHintsChangeTheirPages_2 : (Admits (Tests.devGranted : State) .unmap ((Tests.msg3 16 (toLe 8 0 ++ toLe 8 1)) : Msg) (Tests.tenant : Session) = true) ∧
    ((Tests.devGranted : State).ctx? ((Tests.msg3 16 (toLe 8 0 ++ toLe 8 1)) : Msg).ctx = some (Tests.ctxGranted : Ctx)) ∧
    (((Tests.msg3 16 (toLe 8 0 ++ toLe 8 1)) : Msg).length = 16) ∧
    ((ofLe (slice (toLe 8 0 ++ toLe 8 1) 0 16) : Nat) = ofLe (slice ((Tests.msg3 16 (toLe 8 0 ++ toLe 8 1)) : Msg).payload 0 16)) ∧
    ((anySet (ofLe (slice (toLe 8 0 ++ toLe 8 1) 0 16) : Nat) 63 48 || anySet (ofLe (slice (toLe 8 0 ++ toLe 8 1) 0 16) : Nat) 127 88) = false) ∧
    (field (ofLe (slice (toLe 8 0 ++ toLe 8 1) 0 16) : Nat) 47 0 = (0 : Nat) * pageSize) ∧
    ((1 : Nat) = field (ofLe (slice (toLe 8 0 ++ toLe 8 1) 0 16) : Nat) 87 64) ∧
    ((Tests.ctxGranted : Ctx).mappedPages (0 : Nat) (1 : Nat) = true) ∧
    ((Tests.devGranted : State).cutsObject (Tests.ctxGranted : Ctx) (0 : Nat) (1 : Nat) = false) ∧
    ((Tests.devGranted.takeMail .unmap (Tests.msg3 16 (toLe 8 0 ++ toLe 8 1)) : State) = (Tests.devGranted : State).takeMail .unmap ((Tests.msg3 16 (toLe 8 0 ++ toLe 8 1)) : Msg)) ∧
    ((1 : Nat) ≠ 0) ∧
    ((Tests.devGranted.takeMail .unmap (Tests.msg3 16 (toLe 8 0 ++ toLe 8 1)) : State).pagesHeld (Tests.ctxGranted : Ctx) (0 : Nat) (1 : Nat) = false) := by decide +kernel

theorem witness_UnmapAndHintsChangeTheirPages_3 : (Admits (Tests.devUsing : State) .unmap ((Tests.msg3 16 (toLe 8 0 ++ toLe 8 1)) : Msg) (Tests.tenant : Session) = true) ∧
    ((Tests.devUsing : State).ctx? ((Tests.msg3 16 (toLe 8 0 ++ toLe 8 1)) : Msg).ctx = some (Tests.ctxUsing : Ctx)) ∧
    (((Tests.msg3 16 (toLe 8 0 ++ toLe 8 1)) : Msg).length = 16) ∧
    ((ofLe (slice (toLe 8 0 ++ toLe 8 1) 0 16) : Nat) = ofLe (slice ((Tests.msg3 16 (toLe 8 0 ++ toLe 8 1)) : Msg).payload 0 16)) ∧
    ((anySet (ofLe (slice (toLe 8 0 ++ toLe 8 1) 0 16) : Nat) 63 48 || anySet (ofLe (slice (toLe 8 0 ++ toLe 8 1) 0 16) : Nat) 127 88) = false) ∧
    (field (ofLe (slice (toLe 8 0 ++ toLe 8 1) 0 16) : Nat) 47 0 = (0 : Nat) * pageSize) ∧
    ((1 : Nat) = field (ofLe (slice (toLe 8 0 ++ toLe 8 1) 0 16) : Nat) 87 64) ∧
    ((Tests.ctxUsing : Ctx).mappedPages (0 : Nat) (1 : Nat) = true) ∧
    ((Tests.devUsing : State).cutsObject (Tests.ctxUsing : Ctx) (0 : Nat) (1 : Nat) = false) ∧
    ((Tests.devUsing.takeMail .unmap (Tests.msg3 16 (toLe 8 0 ++ toLe 8 1)) : State) = (Tests.devUsing : State).takeMail .unmap ((Tests.msg3 16 (toLe 8 0 ++ toLe 8 1)) : Msg)) ∧
    ((1 : Nat) ≠ 0) ∧
    ((Tests.devUsing.takeMail .unmap (Tests.msg3 16 (toLe 8 0 ++ toLe 8 1)) : State).pagesHeld (Tests.ctxUsing : Ctx) (0 : Nat) (1 : Nat) = true) := by decide +kernel

theorem witness_UnmapAndHintsChangeTheirPages_4 : (Admits (Tests.devGranted : State) .pageHint ((Tests.msg3 16 (toLe 8 0 ++ toLe 8 (1 + 2 ^ 33 + 2 ^ 34))) : Msg) (Tests.tenant : Session) = true) ∧
    ((Tests.devGranted : State).ctx? ((Tests.msg3 16 (toLe 8 0 ++ toLe 8 (1 + 2 ^ 33 + 2 ^ 34))) : Msg).ctx = some (Tests.ctxGranted : Ctx)) ∧
    (((Tests.msg3 16 (toLe 8 0 ++ toLe 8 (1 + 2 ^ 33 + 2 ^ 34))) : Msg).length = 16) ∧
    ((ofLe (slice (toLe 8 0 ++ toLe 8 (1 + 2 ^ 33 + 2 ^ 34)) 0 16) : Nat) = ofLe (slice ((Tests.msg3 16 (toLe 8 0 ++ toLe 8 (1 + 2 ^ 33 + 2 ^ 34))) : Msg).payload 0 16)) ∧
    ((anySet (ofLe (slice (toLe 8 0 ++ toLe 8 (1 + 2 ^ 33 + 2 ^ 34)) 0 16) : Nat) 63 48 || anySet (ofLe (slice (toLe 8 0 ++ toLe 8 (1 + 2 ^ 33 + 2 ^ 34)) 0 16) : Nat) 95 88 || anySet (ofLe (slice (toLe 8 0 ++ toLe 8 (1 + 2 ^ 33 + 2 ^ 34)) 0 16) : Nat) 127 99) = false) ∧
    (field (ofLe (slice (toLe 8 0 ++ toLe 8 (1 + 2 ^ 33 + 2 ^ 34)) 0 16) : Nat) 47 0 = (0 : Nat) * pageSize) ∧
    ((1 : Nat) = field (ofLe (slice (toLe 8 0 ++ toLe 8 (1 + 2 ^ 33 + 2 ^ 34)) 0 16) : Nat) 87 64) ∧
    ((Tests.ctxGranted : Ctx).mappedPages (0 : Nat) (1 : Nat) = true) ∧
    (flag (ofLe (slice (toLe 8 0 ++ toLe 8 (1 + 2 ^ 33 + 2 ^ 34)) 0 16) : Nat) 96 = false) := by decide +kernel

theorem witness_UnmapAndHintsChangeTheirPages_5 : (Admits (Tests.devGranted : State) .pageHint ((Tests.msg3 16 (toLe 8 0 ++ toLe 8 (1 + 2 ^ 32))) : Msg) (Tests.tenant : Session) = true) ∧
    ((Tests.devGranted : State).ctx? ((Tests.msg3 16 (toLe 8 0 ++ toLe 8 (1 + 2 ^ 32))) : Msg).ctx = some (Tests.ctxGranted : Ctx)) ∧
    (((Tests.msg3 16 (toLe 8 0 ++ toLe 8 (1 + 2 ^ 32))) : Msg).length = 16) ∧
    ((ofLe (slice (toLe 8 0 ++ toLe 8 (1 + 2 ^ 32)) 0 16) : Nat) = ofLe (slice ((Tests.msg3 16 (toLe 8 0 ++ toLe 8 (1 + 2 ^ 32))) : Msg).payload 0 16)) ∧
    ((anySet (ofLe (slice (toLe 8 0 ++ toLe 8 (1 + 2 ^ 32)) 0 16) : Nat) 63 48 || anySet (ofLe (slice (toLe 8 0 ++ toLe 8 (1 + 2 ^ 32)) 0 16) : Nat) 95 88 || anySet (ofLe (slice (toLe 8 0 ++ toLe 8 (1 + 2 ^ 32)) 0 16) : Nat) 127 99) = false) ∧
    (field (ofLe (slice (toLe 8 0 ++ toLe 8 (1 + 2 ^ 32)) 0 16) : Nat) 47 0 = (0 : Nat) * pageSize) ∧
    ((1 : Nat) = field (ofLe (slice (toLe 8 0 ++ toLe 8 (1 + 2 ^ 32)) 0 16) : Nat) 87 64) ∧
    ((Tests.ctxGranted : Ctx).mappedPages (0 : Nat) (1 : Nat) = true) ∧
    (flag (ofLe (slice (toLe 8 0 ++ toLe 8 (1 + 2 ^ 32)) 0 16) : Nat) 96 = true) ∧
    (flag (ofLe (slice (toLe 8 0 ++ toLe 8 (1 + 2 ^ 32)) 0 16) : Nat) 97 = false) ∧
    (flag (ofLe (slice (toLe 8 0 ++ toLe 8 (1 + 2 ^ 32)) 0 16) : Nat) 98 = false) ∧
    (((Tests.ctxGranted : Ctx).rangePages (0 : Nat) (1 : Nat)).all (fun p => p.lease.isNone) = true) ∧
    ((Tests.ctxGranted : Ctx).pinned + (((Tests.ctxGranted : Ctx).rangePages (0 : Nat) (1 : Nat)).filter (fun p => !p.pin)).length ≤ (Tests.ctxGranted : Ctx).limits.sramMax) ∧
    ((Tests.devGranted.takeMail .pageHint (Tests.msg3 16 (toLe 8 0 ++ toLe 8 (1 + 2 ^ 32))) : State) = (Tests.devGranted : State).takeMail .pageHint ((Tests.msg3 16 (toLe 8 0 ++ toLe 8 (1 + 2 ^ 32))) : Msg)) ∧
    ((((Tests.devGranted.takeMail .pageHint (Tests.msg3 16 (toLe 8 0 ++ toLe 8 (1 + 2 ^ 32)))).modCtx 3 (fun d => { d with pages := d.pages.map (fun p => if 0 ≤ p.va ∧ p.va < 0 + 1 then (if p.share.isSome then { p with pin := true, affinity := none } else { p with pin := true, streamOnce := false, cold := false, affinity := none }) else p) })).retryPins : State) = ((Tests.devGranted.takeMail .pageHint (Tests.msg3 16 (toLe 8 0 ++ toLe 8 (1 + 2 ^ 32))) : State).modCtx (Tests.ctxGranted : Ctx).id (fun d => { d with pages := d.pages.map (fun p => if (0 : Nat) ≤ p.va ∧ p.va < (0 : Nat) + (1 : Nat) then (if p.share.isSome then { p with pin := true, affinity := none } else { p with pin := true, streamOnce := false, cold := false, affinity := none }) else p) })).retryPins) := by decide +kernel

theorem witness_UnmapAndHintsChangeTheirPages_6 : (Admits ({ Tests.devGranted with ctxs := [{ Tests.ctxGranted with res := {} }] } : State) .pageHint ((Tests.msg3 16 (toLe 8 0 ++ toLe 8 (1 + 2 ^ 32))) : Msg) (Tests.tenant : Session) = true) ∧
    (({ Tests.devGranted with ctxs := [{ Tests.ctxGranted with res := {} }] } : State).ctx? ((Tests.msg3 16 (toLe 8 0 ++ toLe 8 (1 + 2 ^ 32))) : Msg).ctx = some ({ Tests.ctxGranted with res := {} } : Ctx)) ∧
    (((Tests.msg3 16 (toLe 8 0 ++ toLe 8 (1 + 2 ^ 32))) : Msg).length = 16) ∧
    ((ofLe (slice (toLe 8 0 ++ toLe 8 (1 + 2 ^ 32)) 0 16) : Nat) = ofLe (slice ((Tests.msg3 16 (toLe 8 0 ++ toLe 8 (1 + 2 ^ 32))) : Msg).payload 0 16)) ∧
    ((anySet (ofLe (slice (toLe 8 0 ++ toLe 8 (1 + 2 ^ 32)) 0 16) : Nat) 63 48 || anySet (ofLe (slice (toLe 8 0 ++ toLe 8 (1 + 2 ^ 32)) 0 16) : Nat) 95 88 || anySet (ofLe (slice (toLe 8 0 ++ toLe 8 (1 + 2 ^ 32)) 0 16) : Nat) 127 99) = false) ∧
    (field (ofLe (slice (toLe 8 0 ++ toLe 8 (1 + 2 ^ 32)) 0 16) : Nat) 47 0 = (0 : Nat) * pageSize) ∧
    ((1 : Nat) = field (ofLe (slice (toLe 8 0 ++ toLe 8 (1 + 2 ^ 32)) 0 16) : Nat) 87 64) ∧
    (({ Tests.ctxGranted with res := {} } : Ctx).mappedPages (0 : Nat) (1 : Nat) = true) ∧
    ((1 : Nat) ≠ 0) ∧
    (flag (ofLe (slice (toLe 8 0 ++ toLe 8 (1 + 2 ^ 32)) 0 16) : Nat) 96 = true) ∧
    (flag (ofLe (slice (toLe 8 0 ++ toLe 8 (1 + 2 ^ 32)) 0 16) : Nat) 97 = false) ∧
    (flag (ofLe (slice (toLe 8 0 ++ toLe 8 (1 + 2 ^ 32)) 0 16) : Nat) 98 = false) ∧
    ((({ Tests.ctxGranted with res := {} } : Ctx).rangePages (0 : Nat) (1 : Nat)).all (fun p => p.lease.isNone) = true) ∧
    (({ Tests.ctxGranted with res := {} } : Ctx).pinned + ((({ Tests.ctxGranted with res := {} } : Ctx).rangePages (0 : Nat) (1 : Nat)).filter (fun p => !p.pin)).length ≤ ({ Tests.ctxGranted with res := {} } : Ctx).limits.sramMax) ∧
    (({ Tests.ctxGranted with res := {} } : Ctx).res.state ≠ .resident) ∧
    (({ Tests.devGranted with ctxs := [{ Tests.ctxGranted with res := {} }] } : State).allInTier ({ Tests.ctxGranted with res := {} } : Ctx) (0 : Nat) (1 : Nat) = false) ∧
    (({ Tests.devGranted with ctxs := [{ Tests.ctxGranted with res := {} }] } : State).moves = []) ∧
    (({ Tests.devGranted with ctxs := [{ Tests.ctxGranted with res := {} }] } : State).ctxs.all (fun d => d.pages.all (fun p => !p.pin)) = true) := by decide +kernel

theorem witness_PlacementIsRegulatedAndReported_1 : (Admits (Tests.devGranted : State) .regulate ({ tag := 5, length := 64, payload := toLe 4 (100 + 2 ^ 24) ++ toLe 4 (20 + 65536 * 30) ++ toLe 56 0 } : Msg) (Tests.mgmt : Session) = true) ∧
    ((Tests.mgmt : Session).role = .management) ∧
    (({ tag := 5, length := 64, payload := toLe 4 (100 + 2 ^ 24) ++ toLe 4 (20 + 65536 * 30) ++ toLe 56 0 } : Msg).length = 64) ∧
    ((List.range 16).all (fun i => !(anySet (ofLe (slice ({ tag := 5, length := 64, payload := toLe 4 (100 + 2 ^ 24) ++ toLe 4 (20 + 65536 * 30) ++ toLe 56 0 } : Msg).payload (4 * i) 4)) 15 9 || anySet (ofLe (slice ({ tag := 5, length := 64, payload := toLe 4 (100 + 2 ^ 24) ++ toLe 4 (20 + 65536 * 30) ++ toLe 56 0 } : Msg).payload (4 * i) 4)) 31 25)) = true) ∧
    ((partitionsOf ({ tag := 5, length := 64, payload := toLe 4 (100 + 2 ^ 24) ++ toLe 4 (20 + 65536 * 30) ++ toLe 56 0 } : Msg).payload).all (fun p => decide (p.share ≤ 252) && decide (p.ceiling ≤ 256) && decide (p.share ≤ p.ceiling)) = true) ∧
    (((partitionsOf ({ tag := 5, length := 64, payload := toLe 4 (100 + 2 ^ 24) ++ toLe 4 (20 + 65536 * 30) ++ toLe 56 0 } : Msg).payload).map (fun p => p.share)).sum ≤ 252) ∧
    ((partitionsOf ({ tag := 5, length := 64, payload := toLe 4 (100 + 2 ^ 24) ++ toLe 4 (20 + 65536 * 30) ++ toLe 56 0 } : Msg).payload).head?.all (fun p => p.ceiling != 0) = true) ∧
    ((Tests.devGranted : State).ctxs.all (fun c => (partitionsOf ({ tag := 5, length := 64, payload := toLe 4 (100 + 2 ^ 24) ++ toLe 4 (20 + 65536 * 30) ++ toLe 56 0 } : Msg).payload)[c.assigned.part]?.all (fun p => p.ceiling != 0)) = true) := by decide +kernel

theorem witness_PlacementIsRegulatedAndReported_2 : (Admits (Tests.devGranted : State) .regulate ({ tag := 5 } : Msg) (Tests.mgmt : Session) = true) ∧
    ((Tests.mgmt : Session).role = .management) ∧
    (({ tag := 5 } : Msg).length = 0) := by decide +kernel

theorem witness_PlacementIsRegulatedAndReported_3 : (Admits (Tests.devRecords : State) .placeLog ((Tests.msg3 8 (toLe 8 65536)) : Msg) (Tests.tenant : Session) = true) ∧
    ((Tests.devRecords : State).ctxs.find? (fun d => d.id == ((Tests.msg3 8 (toLe 8 65536)) : Msg).ctx && d.gen == ((Tests.msg3 8 (toLe 8 65536)) : Msg).ctxGen && ((Tests.msg3 8 (toLe 8 65536)) : Msg).ctxGen != 0) = some ({ Tests.ctxGranted with period := { records := [[1], [2]], lost := 3 } } : Ctx)) ∧
    (((Tests.msg3 8 (toLe 8 65536)) : Msg).length = 8) ∧
    ((65536 : Nat) = ofLe (slice ((Tests.msg3 8 (toLe 8 65536)) : Msg).payload 0 8)) ∧
    (field (65536 : Nat) 1 0 = 0) ∧
    ((anySet (65536 : Nat) 15 2 || anySet (65536 : Nat) 63 32) = false) ∧
    (field (65536 : Nat) 31 16 ≤ 16) ∧
    (field (65536 : Nat) 31 16 ≠ 0) ∧
    ((Tests.tenant : Session).role ≠ .management ∨ (Tests.devRecords : State).conf = false) := by decide +kernel

theorem witness_PlacementIsRegulatedAndReported_4 : (Admits (Tests.devRecords : State) .placeLog ({ tag := 5, length := 8, payload := toLe 8 (65536 + 1) } : Msg) (Tests.mgmt : Session) = true) ∧
    (({ tag := 5, length := 8, payload := toLe 8 (65536 + 1) } : Msg).length = 8) ∧
    ((65537 : Nat) = ofLe (slice ({ tag := 5, length := 8, payload := toLe 8 (65536 + 1) } : Msg).payload 0 8)) ∧
    (field (65537 : Nat) 1 0 = 1) ∧
    ((anySet (65537 : Nat) 15 2 || anySet (65537 : Nat) 63 32) = false) ∧
    (field (65537 : Nat) 31 16 ≤ 2047) ∧
    (field (65537 : Nat) 31 16 ≠ 0) ∧
    ((Tests.mgmt : Session).role = .management) ∧
    ((Tests.devRecords : State).conf = false) := by decide +kernel

theorem witness_PlacementIsRegulatedAndReported_5 : ((Tests.devRecords : State).alive = true) ∧
    ((Tests.devRecords : State).ctx? (3 : Nat) = some ({ Tests.ctxGranted with period := { records := [[1], [2]], lost := 3 } } : Ctx)) ∧
    (({ Tests.ctxGranted with period := { records := [[1], [2]], lost := 3 } } : Ctx).period.since + 2 ^ 28 ≤ (Tests.devRecords : State).hub.timer) := by decide +kernel

theorem witness_PlacementIsRegulatedAndReported_6 : (Admits ({ Tests.devKeys with ctxs := [Tests.ctxBack] } : State) .backfillBind (Tests.msg3 16 (toLe 16 (3 * 2 ^ 16 + 2 * 2 ^ 64)) : Msg) (Tests.tenant : Session) = true) ∧
    (({ Tests.devKeys with ctxs := [Tests.ctxBack] } : State).ctx? (Tests.msg3 16 (toLe 16 (3 * 2 ^ 16 + 2 * 2 ^ 64)) : Msg).ctx = some (Tests.ctxBack : Ctx)) ∧
    ((Tests.msg3 16 (toLe 16 (3 * 2 ^ 16 + 2 * 2 ^ 64)) : Msg).length = 16) ∧
    ((3 * 2 ^ 16 + 2 * 2 ^ 64 : Nat) = ofLe (slice (Tests.msg3 16 (toLe 16 (3 * 2 ^ 16 + 2 * 2 ^ 64)) : Msg).payload 0 16)) ∧
    ((0 : Nat) = field (3 * 2 ^ 16 + 2 * 2 ^ 64 : Nat) 5 0) ∧
    (flag (3 * 2 ^ 16 + 2 * 2 ^ 64 : Nat) 8 = false) ∧
    ((anySet (3 * 2 ^ 16 + 2 * 2 ^ 64 : Nat) 7 6 || anySet (3 * 2 ^ 16 + 2 * 2 ^ 64 : Nat) 15 9 || anySet (3 * 2 ^ 16 + 2 * 2 ^ 64 : Nat) 63 32) = false) ∧
    ((Tests.ctxBack : Ctx).queue? (0 : Nat) = some ({ number := 0 } : Queue)) ∧
    (({ number := 0 } : Queue).genMode = false) ∧
    (([1] : List Nat) = (List.range 64).filter (fun n => flag (3 * 2 ^ 16 + 2 * 2 ^ 64 : Nat) (64 + n))) ∧
    (([1] : List Nat) ≠ []) ∧
    ((∀ n ∈ ([1] : List Nat), n ≠ (0 : Nat) ∧ ((Tests.ctxBack : Ctx).queue? n).isSome = true)) ∧
    ((∀ b ∈ (Tests.ctxBack : Ctx).backfill, b.queue ≠ (0 : Nat) → (0 : Nat) ∉ b.leads ∧ b.queue ∉ ([1] : List Nat) ∧ ∀ n ∈ b.leads, n ∉ ([1] : List Nat))) := by decide +kernel

theorem witness_PlacementIsRegulatedAndReported_7 : (Admits ({ Tests.devKeys with ctxs := [Tests.ctxBound] } : State) .backfillBind (Tests.msg3 16 (toLe 16 (2 ^ 8)) : Msg) (Tests.tenant : Session) = true) ∧
    (({ Tests.devKeys with ctxs := [Tests.ctxBound] } : State).ctx? (Tests.msg3 16 (toLe 16 (2 ^ 8)) : Msg).ctx = some (Tests.ctxBound : Ctx)) ∧
    ((Tests.msg3 16 (toLe 16 (2 ^ 8)) : Msg).length = 16) ∧
    ((2 ^ 8 : Nat) = ofLe (slice (Tests.msg3 16 (toLe 16 (2 ^ 8)) : Msg).payload 0 16)) ∧
    ((0 : Nat) = field (2 ^ 8 : Nat) 5 0) ∧
    (flag (2 ^ 8 : Nat) 8 = true) ∧
    ((anySet (2 ^ 8 : Nat) 7 6 || anySet (2 ^ 8 : Nat) 15 9 || anySet (2 ^ 8 : Nat) 63 16 || anySet (2 ^ 8 : Nat) 127 64) = false) ∧
    ((Tests.ctxBound : Ctx).queue? (0 : Nat) = some ({ number := 0 } : Queue)) ∧
    ((Tests.ctxBound : Ctx).backfill.any (fun b => b.queue == (0 : Nat)) = true) := by decide +kernel

theorem witness_ReviewsStartMovesThatSwitchPages_1 : ((Tests.devWarm : State).alive = true) ∧
    ((Tests.devWarm : State).life.trial = none) ∧
    ((Tests.devWarm : State).ctx? (3 : Nat) = some (Tests.ctxHot : Ctx)) ∧
    ((Tests.ctxHot : Ctx).res.state = .resident) ∧
    ((Tests.ctxHot : Ctx).res.leaving = .stays) ∧
    ((Tests.ctxHot : Ctx).reviewed ≠ some (Tests.devWarm : State).period) := by decide +kernel

theorem witness_ReviewsStartMovesThatSwitchPages_2 : (({ Tests.devWarm with sessions := [Tests.mgmt, { Tests.tenant with features := 0 }] } : State).alive = true) ∧
    (({ Tests.devWarm with sessions := [Tests.mgmt, { Tests.tenant with features := 0 }] } : State).life.trial = none) ∧
    (({ Tests.devWarm with sessions := [Tests.mgmt, { Tests.tenant with features := 0 }] } : State).ctx? (3 : Nat) = some (Tests.ctxHot : Ctx)) ∧
    ((Tests.ctxHot : Ctx).res.state = .resident) ∧
    ((Tests.ctxHot : Ctx).res.leaving = .stays) ∧
    ((Tests.ctxHot : Ctx).res.pinning = false) ∧
    ((Tests.ctxHot : Ctx).reviewed ≠ some ({ Tests.devWarm with sessions := [Tests.mgmt, { Tests.tenant with features := 0 }] } : State).period) ∧
    ((Tests.ctxHot : Ctx).pages = [(Tests.hotPage : Page)]) ∧
    ((Tests.hotPage : Page).reviewable = true) ∧
    ((Tests.hotPage : Page).tier = none) ∧
    ((Tests.hotPage : Page).snap = false) ∧
    (16 ≤ (Tests.hotPage : Page).heatSum) ∧
    (({ Tests.devWarm with sessions := [Tests.mgmt, { Tests.tenant with features := 0 }] } : State).moves = []) ∧
    (1 ≤ ({ Tests.devWarm with sessions := [Tests.mgmt, { Tests.tenant with features := 0 }] } : State).allowance (Tests.ctxHot : Ctx)) ∧
    ((Tests.ctxHot : Ctx).queues = []) ∧
    (flag (({ Tests.devWarm with sessions := [Tests.mgmt, { Tests.tenant with features := 0 }] } : State).featuresOf (Tests.ctxHot : Ctx)) fLender = false) ∧
    (({ Tests.devWarm with sessions := [Tests.mgmt, { Tests.tenant with features := 0 }] } : State).links.leases = []) ∧
    (({ Tests.devWarm with sessions := [Tests.mgmt, { Tests.tenant with features := 0 }] } : State).ctxs.all (fun d => d.pages.all (fun q => !q.pin)) = true) ∧
    (({ Tests.devWarm with sessions := [Tests.mgmt, { Tests.tenant with features := 0 }] } : State).sliceFor (Tests.ctxHot : Ctx) (Tests.hotPage : Page) = some ((0 : Nat), (.heat : Reason))) ∧
    (({ Tests.devWarm with sessions := [Tests.mgmt, { Tests.tenant with features := 0 }] } : State).freeTierOf (0 : Nat) = some (2 ^ 23 : Nat)) ∧
    (({ Tests.devWarm with sessions := [Tests.mgmt, { Tests.tenant with features := 0 }] } : State).freshBudget.budgetLeft (tileOf (0 : Nat)) ≠ 0) := by decide +kernel

theorem witness_ReviewsStartMovesThatSwitchPages_3 : ((Tests.devMoving : State).alive = true) ∧
    ((Tests.devMoving : State).life.trial = none) ∧
    ((Tests.devMoving.pumpMoves : State) = (Tests.devMoving : State).pumpMoves) ∧
    ((Tests.devMoving.pumpMoves : State).ctx? (3 : Nat) = some (Tests.ctxHot : Ctx)) ∧
    ((Tests.ctxHot : Ctx).page? (0 : Nat) = some (Tests.hotPage : Page)) ∧
    ((Tests.devMoving.pumpMoves : State).moves.find? (fun k => k.ctx == (3 : Nat) && k.va == (0 : Nat) && k.going) = some (Tests.hotMove : Move)) ∧
    ((Tests.devMoving.pumpMoves : State).snapshotPage (3 : Nat) (0 : Nat) = false) ∧
    ((Tests.devMoving.pumpMoves : State).ledger.entries.all (fun e => e.quarantine.isSome || !(match e.holder with | .transfer c0 _ v => c0 == (3 : Nat) && v == (0 : Nat) | _ => false)) = true) := by decide +kernel

theorem witness_ReviewsStartMovesThatSwitchPages_4 : (({ Tests.devMoving with moves := [{ Tests.hotMove with reason := .heat }] } : State).alive = true) ∧
    (({ Tests.devMoving with moves := [{ Tests.hotMove with reason := .heat }] } : State).life.trial = none) ∧
    (({ Tests.devMoving with moves := [{ Tests.hotMove with reason := .heat }] } : State).ctx? (3 : Nat) = some (Tests.ctxHot : Ctx)) ∧
    ((Tests.ctxHot : Ctx).page? (0 : Nat) = some (Tests.hotPage : Page)) ∧
    (({ Tests.devMoving with moves := [{ Tests.hotMove with reason := .heat }] } : State).moves = [({ Tests.hotMove with reason := .heat } : Move)]) ∧
    (({ Tests.hotMove with reason := .heat } : Move).ctx = (3 : Nat)) ∧
    (({ Tests.hotMove with reason := .heat } : Move).va = (0 : Nat)) ∧
    (({ Tests.hotMove with reason := .heat } : Move).going = true) ∧
    (({ Tests.devMoving with moves := [{ Tests.hotMove with reason := .heat }] } : State).snapshotPage (3 : Nat) (0 : Nat) = false) ∧
    (({ Tests.devMoving with moves := [{ Tests.hotMove with reason := .heat }] } : State).ledger.entries = []) ∧
    (({ Tests.devMoving with moves := [{ Tests.hotMove with reason := .heat }] } : State).ctxs.all (fun d => d.pages.all (fun q => !q.pin)) = true) ∧
    (({ Tests.hotMove with reason := .heat } : Move).keyId = 0) ∧
    (isTier ({ Tests.hotMove with reason := .heat } : Move).dest = true) ∧
    ((Tests.hotPage : Page).share = none) ∧
    ((Tests.hotPage : Page).tier = none) ∧
    ((Tests.hotPage : Page).lease = none) ∧
    ((Tests.hotPage : Page).hbm = some (0 : Nat)) ∧
    (isHbm (0 : Nat) = true) ∧
    (cellsWf ({ Tests.devMoving with moves := [{ Tests.hotMove with reason := .heat }] } : State).mem.cells = true) ∧
    (cellsIn ({ Tests.devMoving with moves := [{ Tests.hotMove with reason := .heat }] } : State).mem.cells (physAt ({ Tests.hotMove with reason := .heat } : Move).dest 0) pageSize = []) := by decide +kernel

theorem witness_ReviewsStartMovesThatSwitchPages_5 : ((Tests.devNine : State).alive = true) ∧
    ((Tests.devNine : State).life.trial = none) ∧
    ((Tests.devNine : State).moves = (List.range ((8 : Nat) + 1)).map ((fun i => { ctx := 3, va := i, dest := 2 ^ 23 + i, reason := .heat, keyId := 0, tile := 0, paid := true, going := decide (i < 8) }) : Nat → Move)) ∧
    ((∀ i ≤ (8 : Nat), (((fun i => { ctx := 3, va := i, dest := 2 ^ 23 + i, reason := .heat, keyId := 0, tile := 0, paid := true, going := decide (i < 8) }) : Nat → Move) i).keyId = 0 ∧ (((fun i => { ctx := 3, va := i, dest := 2 ^ 23 + i, reason := .heat, keyId := 0, tile := 0, paid := true, going := decide (i < 8) }) : Nat → Move) i).tile = 0)) ∧
    (8 ≤ (8 : Nat)) ∧
    ((∀ i < (8 : Nat), (((fun i => { ctx := 3, va := i, dest := 2 ^ 23 + i, reason := .heat, keyId := 0, tile := 0, paid := true, going := decide (i < 8) }) : Nat → Move) i).going = true)) ∧
    ((((fun i => { ctx := 3, va := i, dest := 2 ^ 23 + i, reason := .heat, keyId := 0, tile := 0, paid := true, going := decide (i < 8) }) : Nat → Move) (8 : Nat)).going = false) ∧
    ((((fun i => { ctx := 3, va := i, dest := 2 ^ 23 + i, reason := .heat, keyId := 0, tile := 0, paid := true, going := decide (i < 8) }) : Nat → Move) (8 : Nat)).ctx = (3 : Nat)) ∧
    ((((fun i => { ctx := 3, va := i, dest := 2 ^ 23 + i, reason := .heat, keyId := 0, tile := 0, paid := true, going := decide (i < 8) }) : Nat → Move) (8 : Nat)).va = (8 : Nat)) ∧
    ((∀ i < (8 : Nat), ¬((((fun i => { ctx := 3, va := i, dest := 2 ^ 23 + i, reason := .heat, keyId := 0, tile := 0, paid := true, going := decide (i < 8) }) : Nat → Move) i).ctx = (3 : Nat) ∧ (((fun i => { ctx := 3, va := i, dest := 2 ^ 23 + i, reason := .heat, keyId := 0, tile := 0, paid := true, going := decide (i < 8) }) : Nat → Move) i).va = (8 : Nat)))) := by decide +kernel

theorem witness_CollectivesBeginTheirInstance_1 : ((Tests.devColl 0 Tests.groupOne : State).running? (3 : Nat) (0 : Nat) (0 : Nat) (0 : Nat) .collective = some ((Tests.ctxColl 0 : Ctx), (Tests.qOf (Tests.recColl 0) : Queue), (Tests.recColl 0 : Rec))) ∧
    ((collArgs (Tests.collArg 0) : CollArgs) = collArgs (ofLe ((Tests.recColl 0 : Rec).image.drop 64))) ∧
    ((collArgs (Tests.collArg 0) : CollArgs).coll = 0) ∧
    (flag (Tests.recColl 0 : Rec).features fMxfp4 = true ∨ ((collArgs (Tests.collArg 0) : CollArgs).srcFmt ≠ 4 ∧ (collArgs (Tests.collArg 0) : CollArgs).dstFmt ≠ 4)) ∧
    (((collArgs (Tests.collArg 0) : CollArgs).rsvd || (collArgs (Tests.collArg 0) : CollArgs).alg == 3 || decide (2 ≤ (collArgs (Tests.collArg 0) : CollArgs).srcSpace) || decide (2 ≤ (collArgs (Tests.collArg 0) : CollArgs).dstSpace)) = false) ∧
    ((collArgs (Tests.collArg 0) : CollArgs).count ≠ 0) ∧
    (((Tests.devColl 0 Tests.groupOne : State).collCheck (Tests.ctxColl 0 : Ctx) (Tests.qOf (Tests.recColl 0) : Queue).number (collArgs (Tests.collArg 0) : CollArgs)).toOption = some (Tests.groupOne : Group)) ∧
    ((Tests.devColl 0 Tests.groupOne : State).links.insts.length < 64) ∧
    ((Tests.devColl 0 Tests.groupOne : State).links.insts.all (fun i => !(i.ctx == (3 : Nat) && i.audit.isNone && i.queue == (0 : Nat) && i.seq == (0 : Nat) && i.iter == (0 : Nat))) = true) ∧
    ((Tests.ctxColl 0 : Ctx).heldReads [{ space := 0, addr := (collArgs (Tests.collArg 0) : CollArgs).src, bytes := (collArgs (Tests.collArg 0) : CollArgs).reads (Tests.groupOne : Group).members.length (Tests.groupOne : Group).rank * collElem (collArgs (Tests.collArg 0) : CollArgs).srcFmt }] = false) ∧
    ((Tests.devColl 0 Tests.groupOne : State).ledger.freeTag hubTags 4096 = some (12288 : Nat)) := by decide +kernel

theorem witness_CollectivesBeginTheirInstance_2 : ((Tests.devColl 1 Tests.groupOne : State).running? (3 : Nat) (0 : Nat) (0 : Nat) (0 : Nat) .collective = some ((Tests.ctxColl 1 : Ctx), (Tests.qOf (Tests.recColl 1) : Queue), (Tests.recColl 1 : Rec))) ∧
    ((collArgs (Tests.collArg 1) : CollArgs) = collArgs (ofLe ((Tests.recColl 1 : Rec).image.drop 64))) ∧
    ((collArgs (Tests.collArg 1) : CollArgs).coll = 1) ∧
    (flag (Tests.recColl 1 : Rec).features fMxfp4 = true ∨ ((collArgs (Tests.collArg 1) : CollArgs).srcFmt ≠ 4 ∧ (collArgs (Tests.collArg 1) : CollArgs).dstFmt ≠ 4)) ∧
    (((collArgs (Tests.collArg 1) : CollArgs).rsvd || (collArgs (Tests.collArg 1) : CollArgs).alg == 3 || decide (2 ≤ (collArgs (Tests.collArg 1) : CollArgs).srcSpace) || decide (2 ≤ (collArgs (Tests.collArg 1) : CollArgs).dstSpace)) = false) ∧
    ((collArgs (Tests.collArg 1) : CollArgs).count ≠ 0) ∧
    (((Tests.devColl 1 Tests.groupOne : State).collCheck (Tests.ctxColl 1 : Ctx) (Tests.qOf (Tests.recColl 1) : Queue).number (collArgs (Tests.collArg 1) : CollArgs)).toOption = some (Tests.groupOne : Group)) ∧
    ((Tests.devColl 1 Tests.groupOne : State).links.insts.length < 64) ∧
    ((Tests.devColl 1 Tests.groupOne : State).links.insts.all (fun i => !(i.ctx == (3 : Nat) && i.audit.isNone && i.queue == (0 : Nat) && i.seq == (0 : Nat) && i.iter == (0 : Nat))) = true) ∧
    ((Tests.ctxColl 1 : Ctx).heldReads [{ space := 0, addr := (collArgs (Tests.collArg 1) : CollArgs).src, bytes := (collArgs (Tests.collArg 1) : CollArgs).reads (Tests.groupOne : Group).members.length (Tests.groupOne : Group).rank * collElem (collArgs (Tests.collArg 1) : CollArgs).srcFmt }] = false) ∧
    ((Tests.devColl 1 Tests.groupOne : State).ledger.freeTag hubTags 4096 = some (12288 : Nat)) := by decide +kernel

theorem witness_CollectivesBeginTheirInstance_3 : ((Tests.devColl 2 Tests.groupOne : State).running? (3 : Nat) (0 : Nat) (0 : Nat) (0 : Nat) .collective = some ((Tests.ctxColl 2 : Ctx), (Tests.qOf (Tests.recColl 2) : Queue), (Tests.recColl 2 : Rec))) ∧
    ((collArgs (Tests.collArg 2) : CollArgs) = collArgs (ofLe ((Tests.recColl 2 : Rec).image.drop 64))) ∧
    ((collArgs (Tests.collArg 2) : CollArgs).coll = 2) ∧
    (flag (Tests.recColl 2 : Rec).features fMxfp4 = true ∨ ((collArgs (Tests.collArg 2) : CollArgs).srcFmt ≠ 4 ∧ (collArgs (Tests.collArg 2) : CollArgs).dstFmt ≠ 4)) ∧
    (((collArgs (Tests.collArg 2) : CollArgs).rsvd || (collArgs (Tests.collArg 2) : CollArgs).alg == 3 || decide (2 ≤ (collArgs (Tests.collArg 2) : CollArgs).srcSpace) || decide (2 ≤ (collArgs (Tests.collArg 2) : CollArgs).dstSpace)) = false) ∧
    ((collArgs (Tests.collArg 2) : CollArgs).count ≠ 0) ∧
    (((Tests.devColl 2 Tests.groupOne : State).collCheck (Tests.ctxColl 2 : Ctx) (Tests.qOf (Tests.recColl 2) : Queue).number (collArgs (Tests.collArg 2) : CollArgs)).toOption = some (Tests.groupOne : Group)) ∧
    ((Tests.devColl 2 Tests.groupOne : State).links.insts.length < 64) ∧
    ((Tests.devColl 2 Tests.groupOne : State).links.insts.all (fun i => !(i.ctx == (3 : Nat) && i.audit.isNone && i.queue == (0 : Nat) && i.seq == (0 : Nat) && i.iter == (0 : Nat))) = true) ∧
    ((Tests.ctxColl 2 : Ctx).heldReads [{ space := 0, addr := (collArgs (Tests.collArg 2) : CollArgs).src, bytes := (collArgs (Tests.collArg 2) : CollArgs).reads (Tests.groupOne : Group).members.length (Tests.groupOne : Group).rank * collElem (collArgs (Tests.collArg 2) : CollArgs).srcFmt }] = false) ∧
    ((Tests.devColl 2 Tests.groupOne : State).ledger.freeTag hubTags 4096 = some (12288 : Nat)) := by decide +kernel

theorem witness_CollectivesBeginTheirInstance_4 : ((Tests.devColl 3 Tests.groupOne : State).running? (3 : Nat) (0 : Nat) (0 : Nat) (0 : Nat) .collective = some ((Tests.ctxColl 3 : Ctx), (Tests.qOf (Tests.recColl 3) : Queue), (Tests.recColl 3 : Rec))) ∧
    ((collArgs (Tests.collArg 3) : CollArgs) = collArgs (ofLe ((Tests.recColl 3 : Rec).image.drop 64))) ∧
    ((collArgs (Tests.collArg 3) : CollArgs).coll = 3) ∧
    (flag (Tests.recColl 3 : Rec).features fMxfp4 = true ∨ ((collArgs (Tests.collArg 3) : CollArgs).srcFmt ≠ 4 ∧ (collArgs (Tests.collArg 3) : CollArgs).dstFmt ≠ 4)) ∧
    (((collArgs (Tests.collArg 3) : CollArgs).rsvd || (collArgs (Tests.collArg 3) : CollArgs).alg == 3 || decide (2 ≤ (collArgs (Tests.collArg 3) : CollArgs).srcSpace) || decide (2 ≤ (collArgs (Tests.collArg 3) : CollArgs).dstSpace)) = false) ∧
    ((collArgs (Tests.collArg 3) : CollArgs).count ≠ 0) ∧
    (((Tests.devColl 3 Tests.groupOne : State).collCheck (Tests.ctxColl 3 : Ctx) (Tests.qOf (Tests.recColl 3) : Queue).number (collArgs (Tests.collArg 3) : CollArgs)).toOption = some (Tests.groupOne : Group)) ∧
    ((Tests.devColl 3 Tests.groupOne : State).links.insts.length < 64) ∧
    ((Tests.devColl 3 Tests.groupOne : State).links.insts.all (fun i => !(i.ctx == (3 : Nat) && i.audit.isNone && i.queue == (0 : Nat) && i.seq == (0 : Nat) && i.iter == (0 : Nat))) = true) ∧
    ((Tests.ctxColl 3 : Ctx).heldReads [{ space := 0, addr := (collArgs (Tests.collArg 3) : CollArgs).src, bytes := (collArgs (Tests.collArg 3) : CollArgs).reads (Tests.groupOne : Group).members.length (Tests.groupOne : Group).rank * collElem (collArgs (Tests.collArg 3) : CollArgs).srcFmt }] = false) ∧
    ((Tests.devColl 3 Tests.groupOne : State).ledger.freeTag hubTags 4096 = some (12288 : Nat)) := by decide +kernel

theorem witness_CollectivesBeginTheirInstance_5 : ((Tests.devColl 4 Tests.groupOne : State).running? (3 : Nat) (0 : Nat) (0 : Nat) (0 : Nat) .collective = some ((Tests.ctxColl 4 : Ctx), (Tests.qOf (Tests.recColl 4) : Queue), (Tests.recColl 4 : Rec))) ∧
    ((collArgs (Tests.collArg 4) : CollArgs) = collArgs (ofLe ((Tests.recColl 4 : Rec).image.drop 64))) ∧
    ((collArgs (Tests.collArg 4) : CollArgs).coll = 4) ∧
    (flag (Tests.recColl 4 : Rec).features fMxfp4 = true ∨ ((collArgs (Tests.collArg 4) : CollArgs).srcFmt ≠ 4 ∧ (collArgs (Tests.collArg 4) : CollArgs).dstFmt ≠ 4)) ∧
    (((collArgs (Tests.collArg 4) : CollArgs).rsvd || (collArgs (Tests.collArg 4) : CollArgs).alg == 3 || decide (2 ≤ (collArgs (Tests.collArg 4) : CollArgs).srcSpace) || decide (2 ≤ (collArgs (Tests.collArg 4) : CollArgs).dstSpace)) = false) ∧
    ((collArgs (Tests.collArg 4) : CollArgs).count ≠ 0) ∧
    (((Tests.devColl 4 Tests.groupOne : State).collCheck (Tests.ctxColl 4 : Ctx) (Tests.qOf (Tests.recColl 4) : Queue).number (collArgs (Tests.collArg 4) : CollArgs)).toOption = some (Tests.groupOne : Group)) ∧
    ((Tests.devColl 4 Tests.groupOne : State).links.insts.length < 64) ∧
    ((Tests.devColl 4 Tests.groupOne : State).links.insts.all (fun i => !(i.ctx == (3 : Nat) && i.audit.isNone && i.queue == (0 : Nat) && i.seq == (0 : Nat) && i.iter == (0 : Nat))) = true) ∧
    ((Tests.ctxColl 4 : Ctx).heldReads [{ space := 0, addr := (collArgs (Tests.collArg 4) : CollArgs).src, bytes := (collArgs (Tests.collArg 4) : CollArgs).reads (Tests.groupOne : Group).members.length (Tests.groupOne : Group).rank * collElem (collArgs (Tests.collArg 4) : CollArgs).srcFmt }] = false) ∧
    ((Tests.devColl 4 Tests.groupOne : State).ledger.freeTag hubTags 4096 = some (12288 : Nat)) := by decide +kernel

theorem witness_CollectivesBeginTheirInstance_6 : ((Tests.devColl 5 Tests.groupOne : State).running? (3 : Nat) (0 : Nat) (0 : Nat) (0 : Nat) .collective = some ((Tests.ctxColl 5 : Ctx), (Tests.qOf (Tests.recColl 5) : Queue), (Tests.recColl 5 : Rec))) ∧
    ((collArgs (Tests.collArg 5) : CollArgs) = collArgs (ofLe ((Tests.recColl 5 : Rec).image.drop 64))) ∧
    ((collArgs (Tests.collArg 5) : CollArgs).coll = 5) ∧
    (flag (Tests.recColl 5 : Rec).features fMxfp4 = true ∨ ((collArgs (Tests.collArg 5) : CollArgs).srcFmt ≠ 4 ∧ (collArgs (Tests.collArg 5) : CollArgs).dstFmt ≠ 4)) ∧
    (((collArgs (Tests.collArg 5) : CollArgs).rsvd || (collArgs (Tests.collArg 5) : CollArgs).alg == 3 || decide (2 ≤ (collArgs (Tests.collArg 5) : CollArgs).srcSpace) || decide (2 ≤ (collArgs (Tests.collArg 5) : CollArgs).dstSpace)) = false) ∧
    ((collArgs (Tests.collArg 5) : CollArgs).count ≠ 0) ∧
    (((Tests.devColl 5 Tests.groupOne : State).collCheck (Tests.ctxColl 5 : Ctx) (Tests.qOf (Tests.recColl 5) : Queue).number (collArgs (Tests.collArg 5) : CollArgs)).toOption = some (Tests.groupOne : Group)) ∧
    ((Tests.devColl 5 Tests.groupOne : State).links.insts.length < 64) ∧
    ((Tests.devColl 5 Tests.groupOne : State).links.insts.all (fun i => !(i.ctx == (3 : Nat) && i.audit.isNone && i.queue == (0 : Nat) && i.seq == (0 : Nat) && i.iter == (0 : Nat))) = true) ∧
    ((Tests.ctxColl 5 : Ctx).heldReads [{ space := 0, addr := (collArgs (Tests.collArg 5) : CollArgs).src, bytes := (collArgs (Tests.collArg 5) : CollArgs).reads (Tests.groupOne : Group).members.length (Tests.groupOne : Group).rank * collElem (collArgs (Tests.collArg 5) : CollArgs).srcFmt }] = false) ∧
    ((Tests.devColl 5 Tests.groupOne : State).ledger.freeTag hubTags 4096 = some (12288 : Nat)) := by decide +kernel

theorem witness_CollectivesBeginTheirInstance_7 : ((Tests.devColl 6 Tests.groupTwo : State).running? (3 : Nat) (0 : Nat) (0 : Nat) (0 : Nat) .collective = some ((Tests.ctxColl 6 : Ctx), (Tests.qOf (Tests.recColl 6) : Queue), (Tests.recColl 6 : Rec))) ∧
    ((collArgs (Tests.collArg 6) : CollArgs) = collArgs (ofLe ((Tests.recColl 6 : Rec).image.drop 64))) ∧
    ((collArgs (Tests.collArg 6) : CollArgs).coll = 6) ∧
    (flag (Tests.recColl 6 : Rec).features fMxfp4 = true ∨ ((collArgs (Tests.collArg 6) : CollArgs).srcFmt ≠ 4 ∧ (collArgs (Tests.collArg 6) : CollArgs).dstFmt ≠ 4)) ∧
    (((collArgs (Tests.collArg 6) : CollArgs).rsvd || (collArgs (Tests.collArg 6) : CollArgs).alg == 3 || decide (2 ≤ (collArgs (Tests.collArg 6) : CollArgs).srcSpace) || decide (2 ≤ (collArgs (Tests.collArg 6) : CollArgs).dstSpace)) = false) ∧
    ((collArgs (Tests.collArg 6) : CollArgs).count ≠ 0) ∧
    (((Tests.devColl 6 Tests.groupTwo : State).collCheck (Tests.ctxColl 6 : Ctx) (Tests.qOf (Tests.recColl 6) : Queue).number (collArgs (Tests.collArg 6) : CollArgs)).toOption = some (Tests.groupTwo : Group)) ∧
    ((Tests.devColl 6 Tests.groupTwo : State).links.insts.length < 64) ∧
    ((Tests.devColl 6 Tests.groupTwo : State).links.insts.all (fun i => !(i.ctx == (3 : Nat) && i.audit.isNone && i.queue == (0 : Nat) && i.seq == (0 : Nat) && i.iter == (0 : Nat))) = true) ∧
    ((Tests.ctxColl 6 : Ctx).heldReads [{ space := 0, addr := (collArgs (Tests.collArg 6) : CollArgs).src, bytes := (collArgs (Tests.collArg 6) : CollArgs).reads (Tests.groupTwo : Group).members.length (Tests.groupTwo : Group).rank * collElem (collArgs (Tests.collArg 6) : CollArgs).srcFmt }] = false) ∧
    ((Tests.devColl 6 Tests.groupTwo : State).ledger.freeTag hubTags 4096 = some (12288 : Nat)) := by decide +kernel

theorem witness_CollectivesBeginTheirInstance_8 : ((Tests.devColl 7 Tests.groupTwo : State).running? (3 : Nat) (0 : Nat) (0 : Nat) (0 : Nat) .collective = some ((Tests.ctxColl 7 : Ctx), (Tests.qOf (Tests.recColl 7) : Queue), (Tests.recColl 7 : Rec))) ∧
    ((collArgs (Tests.collArg 7) : CollArgs) = collArgs (ofLe ((Tests.recColl 7 : Rec).image.drop 64))) ∧
    ((collArgs (Tests.collArg 7) : CollArgs).coll = 7) ∧
    (flag (Tests.recColl 7 : Rec).features fMxfp4 = true ∨ ((collArgs (Tests.collArg 7) : CollArgs).srcFmt ≠ 4 ∧ (collArgs (Tests.collArg 7) : CollArgs).dstFmt ≠ 4)) ∧
    (((collArgs (Tests.collArg 7) : CollArgs).rsvd || (collArgs (Tests.collArg 7) : CollArgs).alg == 3 || decide (2 ≤ (collArgs (Tests.collArg 7) : CollArgs).srcSpace) || decide (2 ≤ (collArgs (Tests.collArg 7) : CollArgs).dstSpace)) = false) ∧
    ((collArgs (Tests.collArg 7) : CollArgs).count ≠ 0) ∧
    (((Tests.devColl 7 Tests.groupTwo : State).collCheck (Tests.ctxColl 7 : Ctx) (Tests.qOf (Tests.recColl 7) : Queue).number (collArgs (Tests.collArg 7) : CollArgs)).toOption = some (Tests.groupTwo : Group)) ∧
    ((Tests.devColl 7 Tests.groupTwo : State).links.insts.length < 64) ∧
    ((Tests.devColl 7 Tests.groupTwo : State).links.insts.all (fun i => !(i.ctx == (3 : Nat) && i.audit.isNone && i.queue == (0 : Nat) && i.seq == (0 : Nat) && i.iter == (0 : Nat))) = true) ∧
    ((Tests.ctxColl 7 : Ctx).heldReads [{ space := 0, addr := (collArgs (Tests.collArg 7) : CollArgs).src, bytes := (collArgs (Tests.collArg 7) : CollArgs).reads (Tests.groupTwo : Group).members.length (Tests.groupTwo : Group).rank * collElem (collArgs (Tests.collArg 7) : CollArgs).srcFmt }] = false) ∧
    ((Tests.devColl 7 Tests.groupTwo : State).ledger.freeTag hubTags 4096 = some (12288 : Nat)) := by decide +kernel

theorem witness_CollectivesOfOneMemberCopy_1 : ((Tests.devColl 0 Tests.groupOne : State).running? (3 : Nat) (0 : Nat) (0 : Nat) (0 : Nat) .collective = some ((Tests.ctxColl 0 : Ctx), (Tests.qOf (Tests.recColl 0) : Queue), (Tests.recColl 0 : Rec))) ∧
    ((collArgs (Tests.collArg 0) : CollArgs) = collArgs (ofLe ((Tests.recColl 0 : Rec).image.drop 64))) ∧
    ((collArgs (Tests.collArg 0) : CollArgs).coll = 0) ∧
    (flag (Tests.recColl 0 : Rec).features fMxfp4 = true ∨ ((collArgs (Tests.collArg 0) : CollArgs).srcFmt ≠ 4 ∧ (collArgs (Tests.collArg 0) : CollArgs).dstFmt ≠ 4)) ∧
    (((collArgs (Tests.collArg 0) : CollArgs).rsvd || (collArgs (Tests.collArg 0) : CollArgs).alg == 3 || decide (2 ≤ (collArgs (Tests.collArg 0) : CollArgs).srcSpace) || decide (2 ≤ (collArgs (Tests.collArg 0) : CollArgs).dstSpace)) = false) ∧
    ((collArgs (Tests.collArg 0) : CollArgs).count ≠ 0) ∧
    (((Tests.devColl 0 Tests.groupOne : State).collCheck (Tests.ctxColl 0 : Ctx) (Tests.qOf (Tests.recColl 0) : Queue).number (collArgs (Tests.collArg 0) : CollArgs)).toOption = some (Tests.groupOne : Group)) ∧
    ((Tests.devColl 0 Tests.groupOne : State).links.insts.length < 64) ∧
    ((Tests.devColl 0 Tests.groupOne : State).links.insts.all (fun i => !(i.ctx == (3 : Nat) && i.audit.isNone && i.queue == (0 : Nat) && i.seq == (0 : Nat) && i.iter == (0 : Nat))) = true) ∧
    ((Tests.ctxColl 0 : Ctx).heldReads [{ space := 0, addr := (collArgs (Tests.collArg 0) : CollArgs).src, bytes := (collArgs (Tests.collArg 0) : CollArgs).reads (Tests.groupOne : Group).members.length (Tests.groupOne : Group).rank * collElem (collArgs (Tests.collArg 0) : CollArgs).srcFmt }] = false) ∧
    ((Tests.devColl 0 Tests.groupOne : State).ledger.freeTag hubTags 4096 = some (12288 : Nat)) ∧
    ((Tests.groupOne : Group).members.length = 1) ∧
    ((Tests.groupOne : Group).rank = 0) ∧
    ((Tests.groupOne : Group).early = []) ∧
    ((Tests.groupOne : Group).aborts = []) ∧
    ((Tests.devColl 0 Tests.groupOne : State).groupInsts (3 : Nat) (Tests.groupOne : Group).id = []) ∧
    ((collArgs (Tests.collArg 0) : CollArgs).srcFmt = codeP32I) ∧
    ((collArgs (Tests.collArg 0) : CollArgs).dstFmt = codeP32I) ∧
    ((Tests.ctxColl 0 : Ctx).policy = none) ∧
    ((Tests.ctxColl 0 : Ctx).guarded = []) ∧
    (PlainRegion (Tests.devColl 0 Tests.groupOne : State) (Tests.ctxColl 0 : Ctx) (collArgs (Tests.collArg 0) : CollArgs).src (4 * (collArgs (Tests.collArg 0) : CollArgs).count) (0 : Nat) = true) ∧
    (PlainRegion (Tests.devColl 0 Tests.groupOne : State) (Tests.ctxColl 0 : Ctx) (collArgs (Tests.collArg 0) : CollArgs).dst (4 * (collArgs (Tests.collArg 0) : CollArgs).count) (0 : Nat) = true) ∧
    (cellsWf (Tests.devColl 0 Tests.groupOne : State).mem.cells = true) ∧
    ((([1, 0, 0, 0], {}) : Bytes × Flags) = (solePairs (collArgs (Tests.collArg 0) : CollArgs).count (readCells (Tests.devColl 0 Tests.groupOne : State).mem.cells (physAt (0 : Nat) ((collArgs (Tests.collArg 0) : CollArgs).src % pageSize)) (4 * (collArgs (Tests.collArg 0) : CollArgs).count)))) := by decide +kernel

theorem witness_CollectivesOfOneMemberCopy_2 : ((Tests.devColl 1 Tests.groupOne : State).running? (3 : Nat) (0 : Nat) (0 : Nat) (0 : Nat) .collective = some ((Tests.ctxColl 1 : Ctx), (Tests.qOf (Tests.recColl 1) : Queue), (Tests.recColl 1 : Rec))) ∧
    ((collArgs (Tests.collArg 1) : CollArgs) = collArgs (ofLe ((Tests.recColl 1 : Rec).image.drop 64))) ∧
    ((collArgs (Tests.collArg 1) : CollArgs).coll = 1) ∧
    (flag (Tests.recColl 1 : Rec).features fMxfp4 = true ∨ ((collArgs (Tests.collArg 1) : CollArgs).srcFmt ≠ 4 ∧ (collArgs (Tests.collArg 1) : CollArgs).dstFmt ≠ 4)) ∧
    (((collArgs (Tests.collArg 1) : CollArgs).rsvd || (collArgs (Tests.collArg 1) : CollArgs).alg == 3 || decide (2 ≤ (collArgs (Tests.collArg 1) : CollArgs).srcSpace) || decide (2 ≤ (collArgs (Tests.collArg 1) : CollArgs).dstSpace)) = false) ∧
    ((collArgs (Tests.collArg 1) : CollArgs).count ≠ 0) ∧
    (((Tests.devColl 1 Tests.groupOne : State).collCheck (Tests.ctxColl 1 : Ctx) (Tests.qOf (Tests.recColl 1) : Queue).number (collArgs (Tests.collArg 1) : CollArgs)).toOption = some (Tests.groupOne : Group)) ∧
    ((Tests.devColl 1 Tests.groupOne : State).links.insts.length < 64) ∧
    ((Tests.devColl 1 Tests.groupOne : State).links.insts.all (fun i => !(i.ctx == (3 : Nat) && i.audit.isNone && i.queue == (0 : Nat) && i.seq == (0 : Nat) && i.iter == (0 : Nat))) = true) ∧
    ((Tests.ctxColl 1 : Ctx).heldReads [{ space := 0, addr := (collArgs (Tests.collArg 1) : CollArgs).src, bytes := (collArgs (Tests.collArg 1) : CollArgs).reads (Tests.groupOne : Group).members.length (Tests.groupOne : Group).rank * collElem (collArgs (Tests.collArg 1) : CollArgs).srcFmt }] = false) ∧
    ((Tests.devColl 1 Tests.groupOne : State).ledger.freeTag hubTags 4096 = some (12288 : Nat)) ∧
    ((Tests.groupOne : Group).members.length = 1) ∧
    ((Tests.groupOne : Group).rank = 0) ∧
    ((Tests.groupOne : Group).early = []) ∧
    ((Tests.groupOne : Group).aborts = []) ∧
    ((Tests.devColl 1 Tests.groupOne : State).groupInsts (3 : Nat) (Tests.groupOne : Group).id = []) ∧
    ((collArgs (Tests.collArg 1) : CollArgs).srcFmt = codeP32I) ∧
    ((collArgs (Tests.collArg 1) : CollArgs).dstFmt = codeP32I) ∧
    ((Tests.ctxColl 1 : Ctx).policy = none) ∧
    ((Tests.ctxColl 1 : Ctx).guarded = []) ∧
    (PlainRegion (Tests.devColl 1 Tests.groupOne : State) (Tests.ctxColl 1 : Ctx) (collArgs (Tests.collArg 1) : CollArgs).src (4 * (collArgs (Tests.collArg 1) : CollArgs).count) (0 : Nat) = true) ∧
    (PlainRegion (Tests.devColl 1 Tests.groupOne : State) (Tests.ctxColl 1 : Ctx) (collArgs (Tests.collArg 1) : CollArgs).dst (4 * (collArgs (Tests.collArg 1) : CollArgs).count) (0 : Nat) = true) ∧
    (cellsWf (Tests.devColl 1 Tests.groupOne : State).mem.cells = true) ∧
    ((([1, 0, 0, 0], {}) : Bytes × Flags) = (solePairs (collArgs (Tests.collArg 1) : CollArgs).count (readCells (Tests.devColl 1 Tests.groupOne : State).mem.cells (physAt (0 : Nat) ((collArgs (Tests.collArg 1) : CollArgs).src % pageSize)) (4 * (collArgs (Tests.collArg 1) : CollArgs).count)))) := by decide +kernel

theorem witness_CollectivesOfOneMemberCopy_3 : ((Tests.devColl 2 Tests.groupOne : State).running? (3 : Nat) (0 : Nat) (0 : Nat) (0 : Nat) .collective = some ((Tests.ctxColl 2 : Ctx), (Tests.qOf (Tests.recColl 2) : Queue), (Tests.recColl 2 : Rec))) ∧
    ((collArgs (Tests.collArg 2) : CollArgs) = collArgs (ofLe ((Tests.recColl 2 : Rec).image.drop 64))) ∧
    ((collArgs (Tests.collArg 2) : CollArgs).coll = 2) ∧
    (flag (Tests.recColl 2 : Rec).features fMxfp4 = true ∨ ((collArgs (Tests.collArg 2) : CollArgs).srcFmt ≠ 4 ∧ (collArgs (Tests.collArg 2) : CollArgs).dstFmt ≠ 4)) ∧
    (((collArgs (Tests.collArg 2) : CollArgs).rsvd || (collArgs (Tests.collArg 2) : CollArgs).alg == 3 || decide (2 ≤ (collArgs (Tests.collArg 2) : CollArgs).srcSpace) || decide (2 ≤ (collArgs (Tests.collArg 2) : CollArgs).dstSpace)) = false) ∧
    ((collArgs (Tests.collArg 2) : CollArgs).count ≠ 0) ∧
    (((Tests.devColl 2 Tests.groupOne : State).collCheck (Tests.ctxColl 2 : Ctx) (Tests.qOf (Tests.recColl 2) : Queue).number (collArgs (Tests.collArg 2) : CollArgs)).toOption = some (Tests.groupOne : Group)) ∧
    ((Tests.devColl 2 Tests.groupOne : State).links.insts.length < 64) ∧
    ((Tests.devColl 2 Tests.groupOne : State).links.insts.all (fun i => !(i.ctx == (3 : Nat) && i.audit.isNone && i.queue == (0 : Nat) && i.seq == (0 : Nat) && i.iter == (0 : Nat))) = true) ∧
    ((Tests.ctxColl 2 : Ctx).heldReads [{ space := 0, addr := (collArgs (Tests.collArg 2) : CollArgs).src, bytes := (collArgs (Tests.collArg 2) : CollArgs).reads (Tests.groupOne : Group).members.length (Tests.groupOne : Group).rank * collElem (collArgs (Tests.collArg 2) : CollArgs).srcFmt }] = false) ∧
    ((Tests.devColl 2 Tests.groupOne : State).ledger.freeTag hubTags 4096 = some (12288 : Nat)) ∧
    ((Tests.groupOne : Group).members.length = 1) ∧
    ((Tests.groupOne : Group).rank = 0) ∧
    ((Tests.groupOne : Group).early = []) ∧
    ((Tests.groupOne : Group).aborts = []) ∧
    ((Tests.devColl 2 Tests.groupOne : State).groupInsts (3 : Nat) (Tests.groupOne : Group).id = []) ∧
    ((collArgs (Tests.collArg 2) : CollArgs).srcFmt = codeP32I) ∧
    ((collArgs (Tests.collArg 2) : CollArgs).dstFmt = codeP32I) ∧
    ((Tests.ctxColl 2 : Ctx).policy = none) ∧
    ((Tests.ctxColl 2 : Ctx).guarded = []) ∧
    (PlainRegion (Tests.devColl 2 Tests.groupOne : State) (Tests.ctxColl 2 : Ctx) (collArgs (Tests.collArg 2) : CollArgs).src (4 * (collArgs (Tests.collArg 2) : CollArgs).count) (0 : Nat) = true) ∧
    (PlainRegion (Tests.devColl 2 Tests.groupOne : State) (Tests.ctxColl 2 : Ctx) (collArgs (Tests.collArg 2) : CollArgs).dst (4 * (collArgs (Tests.collArg 2) : CollArgs).count) (0 : Nat) = true) ∧
    (cellsWf (Tests.devColl 2 Tests.groupOne : State).mem.cells = true) ∧
    ((([1, 0, 0, 0], {}) : Bytes × Flags) = (readCells (Tests.devColl 2 Tests.groupOne : State).mem.cells (physAt (0 : Nat) ((collArgs (Tests.collArg 2) : CollArgs).src % pageSize)) (4 * (collArgs (Tests.collArg 2) : CollArgs).count), {})) := by decide +kernel

theorem witness_CollectivesOfOneMemberCopy_4 : ((Tests.devColl 3 Tests.groupOne : State).running? (3 : Nat) (0 : Nat) (0 : Nat) (0 : Nat) .collective = some ((Tests.ctxColl 3 : Ctx), (Tests.qOf (Tests.recColl 3) : Queue), (Tests.recColl 3 : Rec))) ∧
    ((collArgs (Tests.collArg 3) : CollArgs) = collArgs (ofLe ((Tests.recColl 3 : Rec).image.drop 64))) ∧
    ((collArgs (Tests.collArg 3) : CollArgs).coll = 3) ∧
    (flag (Tests.recColl 3 : Rec).features fMxfp4 = true ∨ ((collArgs (Tests.collArg 3) : CollArgs).srcFmt ≠ 4 ∧ (collArgs (Tests.collArg 3) : CollArgs).dstFmt ≠ 4)) ∧
    (((collArgs (Tests.collArg 3) : CollArgs).rsvd || (collArgs (Tests.collArg 3) : CollArgs).alg == 3 || decide (2 ≤ (collArgs (Tests.collArg 3) : CollArgs).srcSpace) || decide (2 ≤ (collArgs (Tests.collArg 3) : CollArgs).dstSpace)) = false) ∧
    ((collArgs (Tests.collArg 3) : CollArgs).count ≠ 0) ∧
    (((Tests.devColl 3 Tests.groupOne : State).collCheck (Tests.ctxColl 3 : Ctx) (Tests.qOf (Tests.recColl 3) : Queue).number (collArgs (Tests.collArg 3) : CollArgs)).toOption = some (Tests.groupOne : Group)) ∧
    ((Tests.devColl 3 Tests.groupOne : State).links.insts.length < 64) ∧
    ((Tests.devColl 3 Tests.groupOne : State).links.insts.all (fun i => !(i.ctx == (3 : Nat) && i.audit.isNone && i.queue == (0 : Nat) && i.seq == (0 : Nat) && i.iter == (0 : Nat))) = true) ∧
    ((Tests.ctxColl 3 : Ctx).heldReads [{ space := 0, addr := (collArgs (Tests.collArg 3) : CollArgs).src, bytes := (collArgs (Tests.collArg 3) : CollArgs).reads (Tests.groupOne : Group).members.length (Tests.groupOne : Group).rank * collElem (collArgs (Tests.collArg 3) : CollArgs).srcFmt }] = false) ∧
    ((Tests.devColl 3 Tests.groupOne : State).ledger.freeTag hubTags 4096 = some (12288 : Nat)) ∧
    ((Tests.groupOne : Group).members.length = 1) ∧
    ((Tests.groupOne : Group).rank = 0) ∧
    ((Tests.groupOne : Group).early = []) ∧
    ((Tests.groupOne : Group).aborts = []) ∧
    ((Tests.devColl 3 Tests.groupOne : State).groupInsts (3 : Nat) (Tests.groupOne : Group).id = []) ∧
    ((collArgs (Tests.collArg 3) : CollArgs).srcFmt = codeP32I) ∧
    ((collArgs (Tests.collArg 3) : CollArgs).dstFmt = codeP32I) ∧
    ((Tests.ctxColl 3 : Ctx).policy = none) ∧
    ((Tests.ctxColl 3 : Ctx).guarded = []) ∧
    (PlainRegion (Tests.devColl 3 Tests.groupOne : State) (Tests.ctxColl 3 : Ctx) (collArgs (Tests.collArg 3) : CollArgs).src (4 * (collArgs (Tests.collArg 3) : CollArgs).count) (0 : Nat) = true) ∧
    (PlainRegion (Tests.devColl 3 Tests.groupOne : State) (Tests.ctxColl 3 : Ctx) (collArgs (Tests.collArg 3) : CollArgs).dst (4 * (collArgs (Tests.collArg 3) : CollArgs).count) (0 : Nat) = true) ∧
    (cellsWf (Tests.devColl 3 Tests.groupOne : State).mem.cells = true) ∧
    ((([1, 0, 0, 0], {}) : Bytes × Flags) = (solePairs (collArgs (Tests.collArg 3) : CollArgs).count (readCells (Tests.devColl 3 Tests.groupOne : State).mem.cells (physAt (0 : Nat) ((collArgs (Tests.collArg 3) : CollArgs).src % pageSize)) (4 * (collArgs (Tests.collArg 3) : CollArgs).count)))) := by decide +kernel

theorem witness_CollectivesOfOneMemberCopy_5 : ((Tests.devColl 4 Tests.groupOne : State).running? (3 : Nat) (0 : Nat) (0 : Nat) (0 : Nat) .collective = some ((Tests.ctxColl 4 : Ctx), (Tests.qOf (Tests.recColl 4) : Queue), (Tests.recColl 4 : Rec))) ∧
    ((collArgs (Tests.collArg 4) : CollArgs) = collArgs (ofLe ((Tests.recColl 4 : Rec).image.drop 64))) ∧
    ((collArgs (Tests.collArg 4) : CollArgs).coll = 4) ∧
    (flag (Tests.recColl 4 : Rec).features fMxfp4 = true ∨ ((collArgs (Tests.collArg 4) : CollArgs).srcFmt ≠ 4 ∧ (collArgs (Tests.collArg 4) : CollArgs).dstFmt ≠ 4)) ∧
    (((collArgs (Tests.collArg 4) : CollArgs).rsvd || (collArgs (Tests.collArg 4) : CollArgs).alg == 3 || decide (2 ≤ (collArgs (Tests.collArg 4) : CollArgs).srcSpace) || decide (2 ≤ (collArgs (Tests.collArg 4) : CollArgs).dstSpace)) = false) ∧
    ((collArgs (Tests.collArg 4) : CollArgs).count ≠ 0) ∧
    (((Tests.devColl 4 Tests.groupOne : State).collCheck (Tests.ctxColl 4 : Ctx) (Tests.qOf (Tests.recColl 4) : Queue).number (collArgs (Tests.collArg 4) : CollArgs)).toOption = some (Tests.groupOne : Group)) ∧
    ((Tests.devColl 4 Tests.groupOne : State).links.insts.length < 64) ∧
    ((Tests.devColl 4 Tests.groupOne : State).links.insts.all (fun i => !(i.ctx == (3 : Nat) && i.audit.isNone && i.queue == (0 : Nat) && i.seq == (0 : Nat) && i.iter == (0 : Nat))) = true) ∧
    ((Tests.ctxColl 4 : Ctx).heldReads [{ space := 0, addr := (collArgs (Tests.collArg 4) : CollArgs).src, bytes := (collArgs (Tests.collArg 4) : CollArgs).reads (Tests.groupOne : Group).members.length (Tests.groupOne : Group).rank * collElem (collArgs (Tests.collArg 4) : CollArgs).srcFmt }] = false) ∧
    ((Tests.devColl 4 Tests.groupOne : State).ledger.freeTag hubTags 4096 = some (12288 : Nat)) ∧
    ((Tests.groupOne : Group).members.length = 1) ∧
    ((Tests.groupOne : Group).rank = 0) ∧
    ((Tests.groupOne : Group).early = []) ∧
    ((Tests.groupOne : Group).aborts = []) ∧
    ((Tests.devColl 4 Tests.groupOne : State).groupInsts (3 : Nat) (Tests.groupOne : Group).id = []) ∧
    ((collArgs (Tests.collArg 4) : CollArgs).srcFmt = codeP32I) ∧
    ((collArgs (Tests.collArg 4) : CollArgs).dstFmt = codeP32I) ∧
    ((Tests.ctxColl 4 : Ctx).policy = none) ∧
    ((Tests.ctxColl 4 : Ctx).guarded = []) ∧
    (PlainRegion (Tests.devColl 4 Tests.groupOne : State) (Tests.ctxColl 4 : Ctx) (collArgs (Tests.collArg 4) : CollArgs).src (4 * (collArgs (Tests.collArg 4) : CollArgs).count) (0 : Nat) = true) ∧
    (PlainRegion (Tests.devColl 4 Tests.groupOne : State) (Tests.ctxColl 4 : Ctx) (collArgs (Tests.collArg 4) : CollArgs).dst (4 * (collArgs (Tests.collArg 4) : CollArgs).count) (0 : Nat) = true) ∧
    (cellsWf (Tests.devColl 4 Tests.groupOne : State).mem.cells = true) ∧
    ((([1, 0, 0, 0], {}) : Bytes × Flags) = (readCells (Tests.devColl 4 Tests.groupOne : State).mem.cells (physAt (0 : Nat) ((collArgs (Tests.collArg 4) : CollArgs).src % pageSize)) (4 * (collArgs (Tests.collArg 4) : CollArgs).count), {})) := by decide +kernel

theorem witness_CollectivesOfOneMemberCopy_6 : ((Tests.devColl 5 Tests.groupOne : State).running? (3 : Nat) (0 : Nat) (0 : Nat) (0 : Nat) .collective = some ((Tests.ctxColl 5 : Ctx), (Tests.qOf (Tests.recColl 5) : Queue), (Tests.recColl 5 : Rec))) ∧
    ((collArgs (Tests.collArg 5) : CollArgs) = collArgs (ofLe ((Tests.recColl 5 : Rec).image.drop 64))) ∧
    ((collArgs (Tests.collArg 5) : CollArgs).coll = 5) ∧
    (flag (Tests.recColl 5 : Rec).features fMxfp4 = true ∨ ((collArgs (Tests.collArg 5) : CollArgs).srcFmt ≠ 4 ∧ (collArgs (Tests.collArg 5) : CollArgs).dstFmt ≠ 4)) ∧
    (((collArgs (Tests.collArg 5) : CollArgs).rsvd || (collArgs (Tests.collArg 5) : CollArgs).alg == 3 || decide (2 ≤ (collArgs (Tests.collArg 5) : CollArgs).srcSpace) || decide (2 ≤ (collArgs (Tests.collArg 5) : CollArgs).dstSpace)) = false) ∧
    ((collArgs (Tests.collArg 5) : CollArgs).count ≠ 0) ∧
    (((Tests.devColl 5 Tests.groupOne : State).collCheck (Tests.ctxColl 5 : Ctx) (Tests.qOf (Tests.recColl 5) : Queue).number (collArgs (Tests.collArg 5) : CollArgs)).toOption = some (Tests.groupOne : Group)) ∧
    ((Tests.devColl 5 Tests.groupOne : State).links.insts.length < 64) ∧
    ((Tests.devColl 5 Tests.groupOne : State).links.insts.all (fun i => !(i.ctx == (3 : Nat) && i.audit.isNone && i.queue == (0 : Nat) && i.seq == (0 : Nat) && i.iter == (0 : Nat))) = true) ∧
    ((Tests.ctxColl 5 : Ctx).heldReads [{ space := 0, addr := (collArgs (Tests.collArg 5) : CollArgs).src, bytes := (collArgs (Tests.collArg 5) : CollArgs).reads (Tests.groupOne : Group).members.length (Tests.groupOne : Group).rank * collElem (collArgs (Tests.collArg 5) : CollArgs).srcFmt }] = false) ∧
    ((Tests.devColl 5 Tests.groupOne : State).ledger.freeTag hubTags 4096 = some (12288 : Nat)) ∧
    ((Tests.groupOne : Group).members.length = 1) ∧
    ((Tests.groupOne : Group).rank = 0) ∧
    ((Tests.groupOne : Group).early = []) ∧
    ((Tests.groupOne : Group).aborts = []) ∧
    ((Tests.devColl 5 Tests.groupOne : State).groupInsts (3 : Nat) (Tests.groupOne : Group).id = []) ∧
    ((collArgs (Tests.collArg 5) : CollArgs).srcFmt = codeP32I) ∧
    ((collArgs (Tests.collArg 5) : CollArgs).dstFmt = codeP32I) ∧
    ((Tests.ctxColl 5 : Ctx).policy = none) ∧
    ((Tests.ctxColl 5 : Ctx).guarded = []) ∧
    (PlainRegion (Tests.devColl 5 Tests.groupOne : State) (Tests.ctxColl 5 : Ctx) (collArgs (Tests.collArg 5) : CollArgs).src (4 * (collArgs (Tests.collArg 5) : CollArgs).count) (0 : Nat) = true) ∧
    (PlainRegion (Tests.devColl 5 Tests.groupOne : State) (Tests.ctxColl 5 : Ctx) (collArgs (Tests.collArg 5) : CollArgs).dst (4 * (collArgs (Tests.collArg 5) : CollArgs).count) (0 : Nat) = true) ∧
    (cellsWf (Tests.devColl 5 Tests.groupOne : State).mem.cells = true) ∧
    ((([1, 0, 0, 0], {}) : Bytes × Flags) = (solePairs (collArgs (Tests.collArg 5) : CollArgs).count (readCells (Tests.devColl 5 Tests.groupOne : State).mem.cells (physAt (0 : Nat) ((collArgs (Tests.collArg 5) : CollArgs).src % pageSize)) (4 * (collArgs (Tests.collArg 5) : CollArgs).count)))) := by decide +kernel

theorem witness_SendAndRecvExchangeContributions_1 : ((Tests.devColl 7 Tests.groupTwo : State).alive = true) ∧
    ((Tests.devColl 7 Tests.groupTwo : State).groupOf (Tests.from1 2 { inst := 1, arg := 5 } : Delivered) = some (Tests.groupTwo : Group)) ∧
    ((Tests.groupTwo : Group).broken = false) ∧
    ((Tests.devColl 7 Tests.groupTwo : State).inst? (Tests.groupTwo : Group).ctx (Tests.groupTwo : Group).id (Tests.from1 2 { inst := 1, arg := 5 } : Delivered).inner.inst = none) ∧
    ((Tests.groupTwo : Group).nextInst ≤ (Tests.from1 2 { inst := 1, arg := 5 } : Delivered).inner.inst) := by decide +kernel

theorem witness_SendAndRecvExchangeContributions_2 : ((Tests.devInst 6 0 [] : State).alive = true) ∧
    ((Tests.devInst 6 0 [] : State).groupOf (Tests.from1 2 { inst := 1, arg := (collArgs (Tests.collArg 6)).signature } : Delivered) = some ({ Tests.groupTwo with nextInst := 2 } : Group)) ∧
    (({ Tests.groupTwo with nextInst := 2 } : Group).broken = false) ∧
    ((Tests.devInst 6 0 [] : State).inst? ({ Tests.groupTwo with nextInst := 2 } : Group).ctx ({ Tests.groupTwo with nextInst := 2 } : Group).id (Tests.from1 2 { inst := 1, arg := (collArgs (Tests.collArg 6)).signature } : Delivered).inner.inst = some (Tests.inst 6 0 [] : Inst)) ∧
    ((Tests.devInst 6 0 [] : State).groupInsts ({ Tests.groupTwo with nextInst := 2 } : Group).ctx ({ Tests.groupTwo with nextInst := 2 } : Group).id = [(Tests.inst 6 0 [] : Inst)]) ∧
    ((Tests.inst 6 0 [] : Inst).owed = []) ∧
    ((Tests.inst 6 0 [] : Inst).audit = none) ∧
    ((Tests.inst 6 0 [] : Inst).stage = 0) ∧
    ((Tests.inst 6 0 [] : Inst).members.length = 2) ∧
    (({ Tests.groupTwo with nextInst := 2 } : Group).members.length = 2) ∧
    (({ Tests.groupTwo with nextInst := 2 } : Group).rank < 2) ∧
    ((Tests.inst 6 0 [] : Inst).rank = ({ Tests.groupTwo with nextInst := 2 } : Group).rank) ∧
    ((Tests.from1 2 { inst := 1, arg := (collArgs (Tests.collArg 6)).signature } : Delivered).inner.rank = 1 - ({ Tests.groupTwo with nextInst := 2 } : Group).rank) ∧
    ((Tests.from1 2 { inst := 1, arg := (collArgs (Tests.collArg 6)).signature } : Delivered).inner.arg = (collArgs (Tests.inst 6 0 [] : Inst).args).signature) ∧
    ((collArgs (Tests.inst 6 0 [] : Inst).args).coll = 6) ∧
    ((collArgs (Tests.inst 6 0 [] : Inst).args).count ≠ 0) ∧
    ((Tests.inst 6 0 [] : Inst).step = 0) ∧
    ((Tests.inst 6 0 [] : Inst).sending = []) := by decide +kernel

theorem witness_SendAndRecvExchangeContributions_3 : ((Tests.devInst 7 0 [] : State).alive = true) ∧
    ((Tests.devInst 7 0 [] : State).groupOf (Tests.from1 1 { inst := 1, data := [9] } : Delivered) = some ({ Tests.groupTwo with nextInst := 2 } : Group)) ∧
    (({ Tests.groupTwo with nextInst := 2 } : Group).broken = false) ∧
    ((Tests.devInst 7 0 [] : State).inst? ({ Tests.groupTwo with nextInst := 2 } : Group).ctx ({ Tests.groupTwo with nextInst := 2 } : Group).id (Tests.from1 1 { inst := 1, data := [9] } : Delivered).inner.inst = some (Tests.inst 7 0 [] : Inst)) ∧
    (sparse (Tests.inst 7 0 [] : Inst).got (Tests.from1 1 { inst := 1, data := [9] } : Delivered).inner.rank ≤ (Tests.from1 1 { inst := 1, data := [9] } : Delivered).inner.arg) ∧
    ((Tests.inst 7 0 [] : Inst).parts.all (fun k => !(k.1 == (Tests.from1 1 { inst := 1, data := [9] } : Delivered).inner.rank && k.2.1 == (Tests.from1 1 { inst := 1, data := [9] } : Delivered).inner.arg)) = true) ∧
    ((Tests.from1 1 { inst := 1, data := [9] } : Delivered).inner.off * 256 = (((Tests.inst 7 0 [] : Inst).receiving.find? (fun k => k.peer == (Tests.from1 1 { inst := 1, data := [9] } : Delivered).inner.rank && k.num == (Tests.from1 1 { inst := 1, data := [9] } : Delivered).inner.arg)).getD { peer := (Tests.from1 1 { inst := 1, data := [9] } : Delivered).inner.rank, num := (Tests.from1 1 { inst := 1, data := [9] } : Delivered).inner.arg }).data.length) ∧
    ((Tests.from1 1 { inst := 1, data := [9] } : Delivered).inner.last = false) := by decide +kernel

theorem witness_SendAndRecvExchangeContributions_4 : ((Tests.devInst 7 0 [] : State).alive = true) ∧
    ((Tests.devInst 7 0 [] : State).groupOf (Tests.from1 1 { inst := 1, last := true, data := [9, 8, 7, 6], tally := tally [9, 8, 7, 6] } : Delivered) = some ({ Tests.groupTwo with nextInst := 2 } : Group)) ∧
    (({ Tests.groupTwo with nextInst := 2 } : Group).broken = false) ∧
    ((Tests.devInst 7 0 [] : State).inst? ({ Tests.groupTwo with nextInst := 2 } : Group).ctx ({ Tests.groupTwo with nextInst := 2 } : Group).id (Tests.from1 1 { inst := 1, last := true, data := [9, 8, 7, 6], tally := tally [9, 8, 7, 6] } : Delivered).inner.inst = some (Tests.inst 7 0 [] : Inst)) ∧
    ((Tests.devInst 7 0 [] : State).groupInsts ({ Tests.groupTwo with nextInst := 2 } : Group).ctx ({ Tests.groupTwo with nextInst := 2 } : Group).id = [(Tests.inst 7 0 [] : Inst)]) ∧
    ((Tests.inst 7 0 [] : Inst).owed = []) ∧
    ((Tests.inst 7 0 [] : Inst).audit = none) ∧
    ((Tests.inst 7 0 [] : Inst).stage = 0) ∧
    ((Tests.inst 7 0 [] : Inst).members.length = 2) ∧
    (({ Tests.groupTwo with nextInst := 2 } : Group).members.length = 2) ∧
    (({ Tests.groupTwo with nextInst := 2 } : Group).rank < 2) ∧
    ((Tests.inst 7 0 [] : Inst).rank = ({ Tests.groupTwo with nextInst := 2 } : Group).rank) ∧
    ((Tests.from1 1 { inst := 1, last := true, data := [9, 8, 7, 6], tally := tally [9, 8, 7, 6] } : Delivered).inner.rank = 1 - ({ Tests.groupTwo with nextInst := 2 } : Group).rank) ∧
    (({ Tests.groupTwo with nextInst := 2 } : Group).state = .live) ∧
    ((collArgs (Tests.inst 7 0 [] : Inst).args).coll = 7) ∧
    ((collArgs (Tests.inst 7 0 [] : Inst).args).count ≠ 0) ∧
    ((Tests.inst 7 0 [] : Inst).step = 0) ∧
    ((Tests.inst 7 0 [] : Inst).parts = []) ∧
    ((Tests.inst 7 0 [] : Inst).receiving = []) ∧
    ((Tests.inst 7 0 [] : Inst).sending = []) ∧
    ((Tests.inst 7 0 [] : Inst).dissent = []) ∧
    ((Tests.inst 7 0 [] : Inst).votes = []) ∧
    ((Tests.from1 1 { inst := 1, last := true, data := [9, 8, 7, 6], tally := tally [9, 8, 7, 6] } : Delivered).inner.arg = sparse (Tests.inst 7 0 [] : Inst).got (Tests.from1 1 { inst := 1, last := true, data := [9, 8, 7, 6], tally := tally [9, 8, 7, 6] } : Delivered).inner.rank) ∧
    ((Tests.from1 1 { inst := 1, last := true, data := [9, 8, 7, 6], tally := tally [9, 8, 7, 6] } : Delivered).inner.off = 0) ∧
    ((Tests.from1 1 { inst := 1, last := true, data := [9, 8, 7, 6], tally := tally [9, 8, 7, 6] } : Delivered).inner.last = true) ∧
    (tally (Tests.from1 1 { inst := 1, last := true, data := [9, 8, 7, 6], tally := tally [9, 8, 7, 6] } : Delivered).inner.data = (Tests.from1 1 { inst := 1, last := true, data := [9, 8, 7, 6], tally := tally [9, 8, 7, 6] } : Delivered).inner.tally) ∧
    ((Tests.from1 1 { inst := 1, last := true, data := [9, 8, 7, 6], tally := tally [9, 8, 7, 6] } : Delivered).inner.data.length = (collArgs (Tests.inst 7 0 [] : Inst).args).count * (collArgs (Tests.inst 7 0 [] : Inst).args).unitBytes) ∧
    ((Tests.inst 7 0 [] : Inst).acc.length ≤ (Tests.from1 1 { inst := 1, last := true, data := [9, 8, 7, 6], tally := tally [9, 8, 7, 6] } : Delivered).inner.data.length) ∧
    ((Tests.devInst 7 0 [] : State).ctx? (Tests.inst 7 0 [] : Inst).ctx = some (Tests.ctxColl 7 : Ctx)) ∧
    ((Tests.ctxColl 7 : Ctx).policy = none) ∧
    ((Tests.ctxColl 7 : Ctx).guarded = []) ∧
    (PlainRegion (Tests.devInst 7 0 [] : State) (Tests.ctxColl 7 : Ctx) (collArgs (Tests.inst 7 0 [] : Inst).args).dst (Tests.from1 1 { inst := 1, last := true, data := [9, 8, 7, 6], tally := tally [9, 8, 7, 6] } : Delivered).inner.data.length (0 : Nat) = true) ∧
    (cellsWf (Tests.devInst 7 0 [] : State).mem.cells = true) ∧
    (RecOf (Tests.devInst 7 0 [] : State) (Tests.inst 7 0 [] : Inst).ctx (Tests.inst 7 0 [] : Inst).queue (Tests.inst 7 0 [] : Inst).seq (Tests.inst 7 0 [] : Inst).iter = some (Tests.recColl 7 : Rec)) := by decide +kernel

theorem witness_SendAndRecvExchangeContributions_5 : ((Tests.devInst 6 1 [{ peer := 1, data := [1, 0, 0, 0], sentAt := 0 }] : State).alive = true) ∧
    ((Tests.devInst 6 1 [{ peer := 1, data := [1, 0, 0, 0], sentAt := 0 }] : State).groupOf (Tests.from1 3 { inst := 1 } : Delivered) = some ({ Tests.groupTwo with nextInst := 2 } : Group)) ∧
    (({ Tests.groupTwo with nextInst := 2 } : Group).broken = false) ∧
    ((Tests.devInst 6 1 [{ peer := 1, data := [1, 0, 0, 0], sentAt := 0 }] : State).inst? ({ Tests.groupTwo with nextInst := 2 } : Group).ctx ({ Tests.groupTwo with nextInst := 2 } : Group).id (Tests.from1 3 { inst := 1 } : Delivered).inner.inst = some (Tests.inst 6 1 [{ peer := 1, data := [1, 0, 0, 0], sentAt := 0 }] : Inst)) ∧
    ((Tests.devInst 6 1 [{ peer := 1, data := [1, 0, 0, 0], sentAt := 0 }] : State).groupInsts ({ Tests.groupTwo with nextInst := 2 } : Group).ctx ({ Tests.groupTwo with nextInst := 2 } : Group).id = [(Tests.inst 6 1 [{ peer := 1, data := [1, 0, 0, 0], sentAt := 0 }] : Inst)]) ∧
    ((Tests.inst 6 1 [{ peer := 1, data := [1, 0, 0, 0], sentAt := 0 }] : Inst).owed = []) ∧
    ((Tests.inst 6 1 [{ peer := 1, data := [1, 0, 0, 0], sentAt := 0 }] : Inst).audit = none) ∧
    ((Tests.inst 6 1 [{ peer := 1, data := [1, 0, 0, 0], sentAt := 0 }] : Inst).stage = 0) ∧
    ((Tests.inst 6 1 [{ peer := 1, data := [1, 0, 0, 0], sentAt := 0 }] : Inst).members.length = 2) ∧
    (({ Tests.groupTwo with nextInst := 2 } : Group).members.length = 2) ∧
    (({ Tests.groupTwo with nextInst := 2 } : Group).rank < 2) ∧
    ((Tests.inst 6 1 [{ peer := 1, data := [1, 0, 0, 0], sentAt := 0 }] : Inst).rank = ({ Tests.groupTwo with nextInst := 2 } : Group).rank) ∧
    ((Tests.from1 3 { inst := 1 } : Delivered).inner.rank = 1 - ({ Tests.groupTwo with nextInst := 2 } : Group).rank) ∧
    (({ Tests.groupTwo with nextInst := 2 } : Group).state = .live) ∧
    ((collArgs (Tests.inst 6 1 [{ peer := 1, data := [1, 0, 0, 0], sentAt := 0 }] : Inst).args).coll = 6) ∧
    ((collArgs (Tests.inst 6 1 [{ peer := 1, data := [1, 0, 0, 0], sentAt := 0 }] : Inst).args).count ≠ 0) ∧
    ((Tests.inst 6 1 [{ peer := 1, data := [1, 0, 0, 0], sentAt := 0 }] : Inst).step = 1) ∧
    ((Tests.inst 6 1 [{ peer := 1, data := [1, 0, 0, 0], sentAt := 0 }] : Inst).sending = [({ peer := 1, data := [1, 0, 0, 0], sentAt := 0 } : Sending)]) ∧
    (({ peer := 1, data := [1, 0, 0, 0], sentAt := 0 } : Sending).peer = (Tests.from1 3 { inst := 1 } : Delivered).inner.rank) ∧
    (({ peer := 1, data := [1, 0, 0, 0], sentAt := 0 } : Sending).num = (Tests.from1 3 { inst := 1 } : Delivered).inner.arg) ∧
    ((Tests.inst 6 1 [{ peer := 1, data := [1, 0, 0, 0], sentAt := 0 }] : Inst).votes = []) ∧
    ((Tests.inst 6 1 [{ peer := 1, data := [1, 0, 0, 0], sentAt := 0 }] : Inst).dissent = []) ∧
    (RecOf (Tests.devInst 6 1 [{ peer := 1, data := [1, 0, 0, 0], sentAt := 0 }] : State) (Tests.inst 6 1 [{ peer := 1, data := [1, 0, 0, 0], sentAt := 0 }] : Inst).ctx (Tests.inst 6 1 [{ peer := 1, data := [1, 0, 0, 0], sentAt := 0 }] : Inst).queue (Tests.inst 6 1 [{ peer := 1, data := [1, 0, 0, 0], sentAt := 0 }] : Inst).seq (Tests.inst 6 1 [{ peer := 1, data := [1, 0, 0, 0], sentAt := 0 }] : Inst).iter = some (Tests.recColl 6 : Rec)) := by decide +kernel

theorem witness_SendAndRecvExchangeContributions_6 : ((Tests.devInst 6 1 [{ peer := 1, data := [1, 0, 0, 0], sentAt := 0 }] : State).alive = true) ∧
    ((Tests.devInst 6 1 [{ peer := 1, data := [1, 0, 0, 0], sentAt := 0 }] : State).groupOf (Tests.from1 4 { inst := 1 } : Delivered) = some ({ Tests.groupTwo with nextInst := 2 } : Group)) ∧
    (({ Tests.groupTwo with nextInst := 2 } : Group).broken = false) ∧
    ((Tests.devInst 6 1 [{ peer := 1, data := [1, 0, 0, 0], sentAt := 0 }] : State).inst? ({ Tests.groupTwo with nextInst := 2 } : Group).ctx ({ Tests.groupTwo with nextInst := 2 } : Group).id (Tests.from1 4 { inst := 1 } : Delivered).inner.inst = some (Tests.inst 6 1 [{ peer := 1, data := [1, 0, 0, 0], sentAt := 0 }] : Inst)) ∧
    ((Tests.inst 6 1 [{ peer := 1, data := [1, 0, 0, 0], sentAt := 0 }] : Inst).sending.find? (fun b => b.peer == (Tests.from1 4 { inst := 1 } : Delivered).inner.rank && b.num == (Tests.from1 4 { inst := 1 } : Delivered).inner.arg) = some ({ peer := 1, data := [1, 0, 0, 0], sentAt := 0 } : Sending)) := by decide +kernel

theorem witness_InstancesEndAndBreakTheirGroup_1 : ((Tests.devInst 7 0 [] : State).alive = true) ∧
    ((Tests.devInst 7 0 [] : State).groupOf (Tests.from1 6 { inst := 1 } : Delivered) = some ({ Tests.groupTwo with nextInst := 2 } : Group)) ∧
    (({ Tests.groupTwo with nextInst := 2 } : Group).broken = false) ∧
    (({ Tests.groupTwo with nextInst := 2 } : Group).state = .live) ∧
    ((Tests.devInst 7 0 [] : State).group? ({ Tests.groupTwo with nextInst := 2 } : Group).ctx ({ Tests.groupTwo with nextInst := 2 } : Group).id = some ({ Tests.groupTwo with nextInst := 2 } : Group)) ∧
    ((Tests.devInst 7 0 [] : State).inst? ({ Tests.groupTwo with nextInst := 2 } : Group).ctx ({ Tests.groupTwo with nextInst := 2 } : Group).id (Tests.from1 6 { inst := 1 } : Delivered).inner.inst = some (Tests.inst 7 0 [] : Inst)) ∧
    ((Tests.inst 7 0 [] : Inst).audit = none) ∧
    (RecOf (Tests.devInst 7 0 [] : State) (Tests.inst 7 0 [] : Inst).ctx (Tests.inst 7 0 [] : Inst).queue (Tests.inst 7 0 [] : Inst).seq (Tests.inst 7 0 [] : Inst).iter = some (Tests.recColl 7 : Rec)) := by decide +kernel

theorem witness_InstancesEndAndBreakTheirGroup_2 : ((Tests.devColl 7 Tests.groupTwo : State).alive = true) ∧
    ((Tests.devColl 7 Tests.groupTwo : State).groupOf (Tests.from1 6 { inst := 4 } : Delivered) = some (Tests.groupTwo : Group)) ∧
    ((Tests.groupTwo : Group).broken = false) ∧
    ((Tests.groupTwo : Group).state = .live) ∧
    ((Tests.devColl 7 Tests.groupTwo : State).inst? (Tests.groupTwo : Group).ctx (Tests.groupTwo : Group).id (Tests.from1 6 { inst := 4 } : Delivered).inner.inst = none) ∧
    ((Tests.groupTwo : Group).nextInst ≤ (Tests.from1 6 { inst := 4 } : Delivered).inner.inst) := by decide +kernel

theorem witness_InstancesEndAndBreakTheirGroup_3 : ((Tests.devInst 7 0 [] : State).alive = true) ∧
    ((Tests.devInst 7 0 [] : State).group? (3 : Nat) (7 : Nat) = some ({ Tests.groupTwo with nextInst := 2 } : Group)) ∧
    (({ Tests.groupTwo with nextInst := 2 } : Group).state = .live) ∧
    ((Tests.devInst 7 0 [] : State).inst? (3 : Nat) (7 : Nat) (1 : Nat) = some (Tests.inst 7 0 [] : Inst)) ∧
    ((Tests.inst 7 0 [] : Inst).deadline ≤ (Tests.devInst 7 0 [] : State).hub.timer) ∧
    ((Tests.inst 7 0 [] : Inst).audit = none) ∧
    (RecOf (Tests.devInst 7 0 [] : State) (Tests.inst 7 0 [] : Inst).ctx (Tests.inst 7 0 [] : Inst).queue (Tests.inst 7 0 [] : Inst).seq (Tests.inst 7 0 [] : Inst).iter = some (Tests.recColl 7 : Rec)) := by decide +kernel

theorem witness_InstancesEndAndBreakTheirGroup_4 : ((Tests.devInst 6 1 [{ peer := 1, data := [1, 0, 0, 0], sentAt := 0 }] : State).alive = true) ∧
    ((Tests.devInst 6 1 [{ peer := 1, data := [1, 0, 0, 0], sentAt := 0 }] : State).group? (3 : Nat) (7 : Nat) = some ({ Tests.groupTwo with nextInst := 2 } : Group)) ∧
    ((Tests.devInst 6 1 [{ peer := 1, data := [1, 0, 0, 0], sentAt := 0 }] : State).inst? (3 : Nat) (7 : Nat) (1 : Nat) = some (Tests.inst 6 1 [{ peer := 1, data := [1, 0, 0, 0], sentAt := 0 }] : Inst)) ∧
    ((Tests.inst 6 1 [{ peer := 1, data := [1, 0, 0, 0], sentAt := 0 }] : Inst).sending.find? (fun b => b.peer == (1 : Nat) && !b.resent && decide (b.sentAt + 2 ^ 18 ≤ (Tests.devInst 6 1 [{ peer := 1, data := [1, 0, 0, 0], sentAt := 0 }] : State).hub.timer)) = some ({ peer := 1, data := [1, 0, 0, 0], sentAt := 0 } : Sending)) := by decide +kernel

theorem witness_InstancesEndAndBreakTheirGroup_5 : ((Tests.devColl 7 { Tests.groupTwo with broken := true } : State).alive = true) ∧
    ((Tests.devColl 7 { Tests.groupTwo with broken := true } : State).groupOf (Tests.from1 3 { inst := 4 } : Delivered) = some ({ Tests.groupTwo with broken := true } : Group)) ∧
    (({ Tests.groupTwo with broken := true } : Group).broken = true) ∧
    ((.retry (Tests.from1 3 { inst := 4 }) : Instr) ∈ [Instr.ready (Tests.from1 3 { inst := 4 } : Delivered), .chunk (Tests.from1 3 { inst := 4 } : Delivered), .ack (Tests.from1 3 { inst := 4 } : Delivered), .retry (Tests.from1 3 { inst := 4 } : Delivered), .rtally (Tests.from1 3 { inst := 4 } : Delivered), .abort (Tests.from1 3 { inst := 4 } : Delivered)]) := by decide +kernel

theorem witness_GroupsFormAndEnd_1 : (Admits ({ (Tests.devColl 0 Tests.groupOne) with mem := {} } : State) .groupCreate (Tests.groupMsg 1 0 : Msg) (Tests.tenant : Session) = true) ∧
    (({ (Tests.devColl 0 Tests.groupOne) with mem := {} } : State).ctx? (Tests.groupMsg 1 0 : Msg).ctx = some (Tests.ctxColl 0 : Ctx)) ∧
    ((Tests.groupMsg 1 0 : Msg).length = 32) ∧
    ((ofLe (slice (Tests.groupMsg 1 0).payload 0 32) : Nat) = ofLe (slice (Tests.groupMsg 1 0 : Msg).payload 0 32)) ∧
    ((anySet (ofLe (slice (Tests.groupMsg 1 0).payload 0 32) : Nat) 31 25 || anySet (ofLe (slice (Tests.groupMsg 1 0).payload 0 32) : Nat) 127 112 || anySet (ofLe (slice (Tests.groupMsg 1 0).payload 0 32) : Nat) 255 144) = false) ∧
    ((8 : Nat) = field (ofLe (slice (Tests.groupMsg 1 0).payload 0 32) : Nat) 15 0) ∧
    ((1 : Nat) = field (ofLe (slice (Tests.groupMsg 1 0).payload 0 32) : Nat) 23 16) ∧
    ((1 : Nat) = field (ofLe (slice (Tests.groupMsg 1 0).payload 0 32) : Nat) 63 32) ∧
    (flag (ofLe (slice (Tests.groupMsg 1 0).payload 0 32) : Nat) 24 = false) ∧
    ((Tests.ctxColl 0 : Ctx).consortium = false) ∧
    ((1 : Nat) ≠ 0) ∧
    ((1 : Nat) ≤ 65536) ∧
    (field (ofLe (slice (Tests.groupMsg 1 0).payload 0 32) : Nat) 111 64 % 64 = 0) ∧
    ((Tests.ctxColl 0 : Ctx).mapped (field (ofLe (slice (Tests.groupMsg 1 0).payload 0 32) : Nat) 111 64) (2 * (1 : Nat)) = true) ∧
    (field (ofLe (slice (Tests.groupMsg 1 0).payload 0 32) : Nat) 143 128 ≠ 0) ∧
    (({ (Tests.devColl 0 Tests.groupOne) with mem := {} } : State).links.early = []) ∧
    (({ (Tests.devColl 0 Tests.groupOne) with mem := {} }.takeMail .groupCreate (Tests.groupMsg 1 0) : State) = ({ (Tests.devColl 0 Tests.groupOne) with mem := {} } : State).takeMail .groupCreate (Tests.groupMsg 1 0 : Msg)) ∧
    ((({ (Tests.devColl 0 Tests.groupOne) with mem := {} }.takeMail .groupCreate (Tests.groupMsg 1 0) : State).readV (Tests.ctxColl 0 : Ctx).id none [] (field (ofLe (slice (Tests.groupMsg 1 0).payload 0 32) : Nat) 111 64) (2 * (1 : Nat))).1 = ((({ (Tests.devColl 0 Tests.groupOne) with mem := {} }.takeMail .groupCreate (Tests.groupMsg 1 0)).readV 3 none [] 64 2).1 : State)) ∧
    ((({ (Tests.devColl 0 Tests.groupOne) with mem := {} }.takeMail .groupCreate (Tests.groupMsg 1 0) : State).readV (Tests.ctxColl 0 : Ctx).id none [] (field (ofLe (slice (Tests.groupMsg 1 0).payload 0 32) : Nat) 111 64) (2 * (1 : Nat))).2.toOption = some ([0, 0] : Bytes)) ∧
    (hasDup (ordinalsOf (1 : Nat) ([0, 0] : Bytes)) = false) ∧
    (({ (Tests.devColl 0 Tests.groupOne) with mem := {} } : State).links.ordinal ∈ ordinalsOf (1 : Nat) ([0, 0] : Bytes)) ∧
    ((ordinalsOf (1 : Nat) ([0, 0] : Bytes)).all (fun o => decide (o ≤ ({ (Tests.devColl 0 Tests.groupOne) with mem := {} } : State).links.sizeM1)) = true) ∧
    (({ (Tests.devColl 0 Tests.groupOne) with mem := {} } : State).group? (Tests.ctxColl 0 : Ctx).id (8 : Nat) = none) ∧
    (({ (Tests.devColl 0 Tests.groupOne) with mem := {} } : State).links.groupGens.all (fun k => !(k.1 == (Tests.ctxColl 0 : Ctx).id && k.2.1 == (8 : Nat) && k.2.2 == (1 : Nat))) = true) ∧
    ((({ (Tests.devColl 0 Tests.groupOne) with mem := {} } : State).links.groups.filter (fun k => k.state != .forming)).length < 1024) := by decide +kernel

theorem witness_GroupsFormAndEnd_2 : (Admits (Tests.devColl 0 Tests.groupOne : State) .groupCreate ({ (Tests.groupMsg 1 1) with payload := toLe 32 (7 + 65536 + 2 ^ 24) } : Msg) (Tests.tenant : Session) = true) ∧
    ((Tests.devColl 0 Tests.groupOne : State).ctx? ({ (Tests.groupMsg 1 1) with payload := toLe 32 (7 + 65536 + 2 ^ 24) } : Msg).ctx = some (Tests.ctxColl 0 : Ctx)) ∧
    (({ (Tests.groupMsg 1 1) with payload := toLe 32 (7 + 65536 + 2 ^ 24) } : Msg).length = 32) ∧
    ((7 + 65536 + 2 ^ 24 : Nat) = ofLe (slice ({ (Tests.groupMsg 1 1) with payload := toLe 32 (7 + 65536 + 2 ^ 24) } : Msg).payload 0 32)) ∧
    ((anySet (7 + 65536 + 2 ^ 24 : Nat) 31 25 || anySet (7 + 65536 + 2 ^ 24 : Nat) 127 112 || anySet (7 + 65536 + 2 ^ 24 : Nat) 255 144) = false) ∧
    ((7 : Nat) = field (7 + 65536 + 2 ^ 24 : Nat) 15 0) ∧
    ((1 : Nat) = field (7 + 65536 + 2 ^ 24 : Nat) 23 16) ∧
    ((0 : Nat) = field (7 + 65536 + 2 ^ 24 : Nat) 63 32) ∧
    (flag (7 + 65536 + 2 ^ 24 : Nat) 24 = true) ∧
    ((Tests.devColl 0 Tests.groupOne : State).group? (Tests.ctxColl 0 : Ctx).id (7 : Nat) = some (Tests.groupOne : Group)) ∧
    ((Tests.groupOne : Group).gen = (1 : Nat)) ∧
    ((Tests.groupOne : Group).state = .live) ∧
    ((Tests.devColl 0 Tests.groupOne : State).groupInsts (Tests.ctxColl 0 : Ctx).id (7 : Nat) = []) := by decide +kernel

theorem witness_GroupsFormAndEnd_3 : (Admits (Tests.devInst 7 0 [] : State) .groupCreate ({ (Tests.groupMsg 1 1) with payload := toLe 32 (7 + 65536 + 2 ^ 24) } : Msg) (Tests.tenant : Session) = true) ∧
    ((Tests.devInst 7 0 [] : State).ctx? ({ (Tests.groupMsg 1 1) with payload := toLe 32 (7 + 65536 + 2 ^ 24) } : Msg).ctx = some (Tests.ctxColl 7 : Ctx)) ∧
    (({ (Tests.groupMsg 1 1) with payload := toLe 32 (7 + 65536 + 2 ^ 24) } : Msg).length = 32) ∧
    ((7 + 65536 + 2 ^ 24 : Nat) = ofLe (slice ({ (Tests.groupMsg 1 1) with payload := toLe 32 (7 + 65536 + 2 ^ 24) } : Msg).payload 0 32)) ∧
    ((anySet (7 + 65536 + 2 ^ 24 : Nat) 31 25 || anySet (7 + 65536 + 2 ^ 24 : Nat) 127 112 || anySet (7 + 65536 + 2 ^ 24 : Nat) 255 144) = false) ∧
    ((7 : Nat) = field (7 + 65536 + 2 ^ 24 : Nat) 15 0) ∧
    ((1 : Nat) = field (7 + 65536 + 2 ^ 24 : Nat) 23 16) ∧
    ((0 : Nat) = field (7 + 65536 + 2 ^ 24 : Nat) 63 32) ∧
    (flag (7 + 65536 + 2 ^ 24 : Nat) 24 = true) ∧
    ((Tests.devInst 7 0 [] : State).group? (Tests.ctxColl 7 : Ctx).id (7 : Nat) = some ({ Tests.groupTwo with nextInst := 2 } : Group)) ∧
    (({ Tests.groupTwo with nextInst := 2 } : Group).gen = (1 : Nat)) ∧
    (({ Tests.groupTwo with nextInst := 2 } : Group).state = .live) ∧
    ((Tests.devInst 7 0 [] : State).groupInsts (Tests.ctxColl 7 : Ctx).id (7 : Nat) ≠ []) := by decide +kernel

theorem witness_GroupsFormAndEnd_4 : ((Tests.devForming : State).alive = true) ∧
    ((Tests.devForming : State).groupOf (Tests.from1 5 { last := true, tally := 5, arg := 5 } : Delivered) = some ({ Tests.forming with rank := 0 } : Group)) ∧
    (({ Tests.forming with rank := 0 } : Group).broken = false) ∧
    (({ Tests.forming with rank := 0 } : Group).state = .forming) ∧
    ((Tests.from1 5 { last := true, tally := 5, arg := 5 } : Delivered).inner.inst = 0) ∧
    ((Tests.from1 5 { last := true, tally := 5, arg := 5 } : Delivered).inner.last = true) ∧
    ((Tests.from1 5 { last := true, tally := 5, arg := 5 } : Delivered).inner.tally = (Tests.from1 5 { last := true, tally := 5, arg := 5 } : Delivered).inner.arg) := by decide +kernel

theorem witness_GroupsFormAndEnd_5 : ((Tests.devForming : State).alive = true) ∧
    ((Tests.devForming : State).groupOf (Tests.from1 5 { last := true, tally := 5, arg := 6 } : Delivered) = some ({ Tests.forming with rank := 0 } : Group)) ∧
    (({ Tests.forming with rank := 0 } : Group).broken = false) ∧
    (({ Tests.forming with rank := 0 } : Group).state = .forming) ∧
    ((Tests.from1 5 { last := true, tally := 5, arg := 6 } : Delivered).inner.inst = 0) ∧
    ((Tests.from1 5 { last := true, tally := 5, arg := 6 } : Delivered).inner.last = true) ∧
    ((Tests.from1 5 { last := true, tally := 5, arg := 6 } : Delivered).inner.tally ≠ (Tests.from1 5 { last := true, tally := 5, arg := 6 } : Delivered).inner.arg) := by decide +kernel

theorem witness_GroupsFormAndEnd_6 : ((Tests.devForming : State).alive = true) ∧
    ((Tests.devForming : State).groupOf (Tests.from1 5 { tally := 5, arg := 5 } : Delivered) = some ({ Tests.forming with rank := 0 } : Group)) ∧
    (({ Tests.forming with rank := 0 } : Group).broken = false) ∧
    (({ Tests.forming with rank := 0 } : Group).state = .forming) ∧
    ((Tests.from1 5 { tally := 5, arg := 5 } : Delivered).inner.inst = 0) ∧
    ((Tests.from1 5 { tally := 5, arg := 5 } : Delivered).inner.last = false) := by decide +kernel

theorem witness_GroupsFormAndEnd_7 : ((Tests.devVote : State).alive = true) ∧
    ((Tests.devVote : State).groupOf (Tests.from1 5 { inst := 1, off := 1, tally := 9 } : Delivered) = some (Tests.groupThree : Group)) ∧
    ((Tests.groupThree : Group).broken = false) ∧
    ((Tests.devVote : State).inst? (Tests.groupThree : Group).ctx (Tests.groupThree : Group).id (Tests.from1 5 { inst := 1, off := 1, tally := 9 } : Delivered).inner.inst = some (Tests.instVote : Inst)) ∧
    ((Tests.groupThree : Group).rank = 0) ∧
    ((Tests.from1 5 { inst := 1, off := 1, tally := 9 } : Delivered).inner.last = false) ∧
    ((Tests.from1 5 { inst := 1, off := 1, tally := 9 } : Delivered).inner.inst ≠ 0) ∧
    ((Tests.groupThree : Group).state ≠ .forming) ∧
    ((Tests.devVote : State).firstInst (Tests.groupThree : Group).ctx (Tests.groupThree : Group).id = some (Tests.instVote : Inst)) ∧
    ((Tests.instVote : Inst).stage = 2) ∧
    ((Tests.instVote : Inst).rank = 0) ∧
    ((Tests.instVote : Inst).votes.length + 1 < (Tests.instVote : Inst).members.length) := by decide +kernel

theorem witness_GroupsFormAndEnd_8 : ((Tests.devForming : State).alive = true) ∧
    ((Tests.devForming : State).group? (3 : Nat) (7 : Nat) = some (Tests.forming : Group)) ∧
    ((Tests.forming : Group).state = .forming) ∧
    ((Tests.forming : Group).created + (Tests.forming : Group).tmo * 2 ^ 20 ≤ (Tests.devForming : State).hub.timer) := by decide +kernel

theorem witness_TransfersMeetTheirLedgerEntry_1 : ((Tests.devLease : State).alive = true) ∧
    ((Tests.devLease : State).ledger.entry? (12288 : Nat) = some ({ tag := 12288, gen := 1, holder := .transfer 3 0 0, ctx := some 3, deadline := some 9 } : LedgerEntry)) ∧
    (({ tag := 12288, gen := 1, holder := .transfer 3 0 0, ctx := some 3, deadline := some 9 } : LedgerEntry).gen = (1 : Nat)) ∧
    (({ tag := 12288, gen := 1, holder := .transfer 3 0 0, ctx := some 3, deadline := some 9 } : LedgerEntry).quarantine = none) ∧
    (({ tag := 12288, gen := 1, holder := .transfer 3 0 0, ctx := some 3, deadline := some 9 } : LedgerEntry).holder = .transfer (3 : Nat) (0 : Nat) (0 : Nat)) ∧
    (((Tests.devLease : State).ctx? (3 : Nat)).bind (fun c => (c.page? (0 : Nat)).bind (fun p => p.lease)) = some (2 ^ 25 : Nat)) ∧
    (cellsWf (Tests.devLease : State).mem.cells = true) := by decide +kernel

theorem witness_TransfersMeetTheirLedgerEntry_2 : ((Tests.devLease : State).alive = true) ∧
    ((Tests.devLease : State).ledger.entries.all (fun e => !(e.tag == (12288 : Nat) && e.gen == (2 : Nat))) = true) ∧
    ((Tests.devLease : State).ledger.entry? (12288 : Nat) = none ∨ ((Tests.devLease : State).ledger.entry? (12288 : Nat)).any (fun e => e.gen != (2 : Nat)) = true) := by decide +kernel

theorem witness_TransfersMeetTheirLedgerEntry_3 : ((Tests.devLate2 : State).alive = true) ∧
    ((Tests.devLate2 : State).ledger.entry? (12288 : Nat) = some ({ tag := 12288, gen := 1, holder := .transfer 3 0 0, ctx := some 3, deadline := some 9, quarantine := some 9 } : LedgerEntry)) ∧
    (({ tag := 12288, gen := 1, holder := .transfer 3 0 0, ctx := some 3, deadline := some 9, quarantine := some 9 } : LedgerEntry).gen = (1 : Nat)) ∧
    (({ tag := 12288, gen := 1, holder := .transfer 3 0 0, ctx := some 3, deadline := some 9, quarantine := some 9 } : LedgerEntry).quarantine.isSome = true) ∧
    (({ tag := 12288, gen := 1, holder := .transfer 3 0 0, ctx := some 3, deadline := some 9, quarantine := some 9 } : LedgerEntry).ctx = some (3 : Nat)) := by decide +kernel

theorem witness_TransfersMeetTheirLedgerEntry_4 : ((Tests.devLease : State).alive = true) ∧
    ((Tests.devLease : State).ledger.entry? (field ({ src := 1, inner := { iop := 0x13, inst := 12288 + 2 ^ 14, off := 1, data := [4, 5] } } : Delivered).inner.inst 13 0) = some ({ tag := 12288, gen := 1, holder := .transfer 3 0 0, ctx := some 3, deadline := some 9 } : LedgerEntry)) ∧
    (({ tag := 12288, gen := 1, holder := .transfer 3 0 0, ctx := some 3, deadline := some 9 } : LedgerEntry).gen = field ({ src := 1, inner := { iop := 0x13, inst := 12288 + 2 ^ 14, off := 1, data := [4, 5] } } : Delivered).inner.inst 21 14) ∧
    (({ tag := 12288, gen := 1, holder := .transfer 3 0 0, ctx := some 3, deadline := some 9 } : LedgerEntry).quarantine = none) ∧
    (({ tag := 12288, gen := 1, holder := .transfer 3 0 0, ctx := some 3, deadline := some 9 } : LedgerEntry).holder = .transfer (3 : Nat) (0 : Nat) (0 : Nat)) ∧
    (({ src := 1, inner := { iop := 0x13, inst := 12288 + 2 ^ 14, off := 1, data := [4, 5] } } : Delivered).inner.arg = 0) ∧
    (((Tests.devLease : State).ctx? (3 : Nat)).bind (fun c => (c.page? (0 : Nat)).bind (fun p => p.lease)) = some (2 ^ 25 : Nat)) := by decide +kernel

theorem witness_TransfersMeetTheirLedgerEntry_5 : (({ Tests.devLease with ledger := ({} : Ledger).issue 12288 (.probe 0) none (some 9) } : State).alive = true) ∧
    (({ Tests.devLease with ledger := ({} : Ledger).issue 12288 (.probe 0) none (some 9) } : State).ledger.entry? (field ({ src := 1, inner := { iop := 0x13, inst := 12288 + 2 ^ 14, off := 1, data := [4, 5] } } : Delivered).inner.inst 13 0) = some ({ tag := 12288, gen := 1, holder := .probe 0, ctx := none, deadline := some 9 } : LedgerEntry)) ∧
    (({ tag := 12288, gen := 1, holder := .probe 0, ctx := none, deadline := some 9 } : LedgerEntry).gen = field ({ src := 1, inner := { iop := 0x13, inst := 12288 + 2 ^ 14, off := 1, data := [4, 5] } } : Delivered).inner.inst 21 14) ∧
    (({ tag := 12288, gen := 1, holder := .probe 0, ctx := none, deadline := some 9 } : LedgerEntry).quarantine = none) ∧
    (({ tag := 12288, gen := 1, holder := .probe 0, ctx := none, deadline := some 9 } : LedgerEntry).holder = .probe (0 : Nat)) ∧
    (({ src := 1, inner := { iop := 0x13, inst := 12288 + 2 ^ 14, off := 1, data := [4, 5] } } : Delivered).inner.arg = 0) := by decide +kernel

theorem witness_TransfersMeetTheirLedgerEntry_6 : ((Tests.devLease : State).alive = true) ∧
    ((Tests.devLease : State).ledger.entry? (12288 : Nat) = some ({ tag := 12288, gen := 1, holder := .transfer 3 0 0, ctx := some 3, deadline := some 9 } : LedgerEntry)) ∧
    (({ tag := 12288, gen := 1, holder := .transfer 3 0 0, ctx := some 3, deadline := some 9 } : LedgerEntry).quarantine = none) ∧
    (({ tag := 12288, gen := 1, holder := .transfer 3 0 0, ctx := some 3, deadline := some 9 } : LedgerEntry).deadline = some (9 : Nat)) ∧
    ((9 : Nat) ≤ (Tests.devLease : State).hub.timer) ∧
    (({ tag := 12288, gen := 1, holder := .transfer 3 0 0, ctx := some 3, deadline := some 9 } : LedgerEntry).holder = .transfer (3 : Nat) (0 : Nat) (0 : Nat)) := by decide +kernel

theorem witness_TransfersMeetTheirLedgerEntry_7 : ((Tests.devLate2 : State).alive = true) ∧
    ((Tests.devLate2 : State).ledger.entry? (12288 : Nat) = some ({ tag := 12288, gen := 1, holder := .transfer 3 0 0, ctx := some 3, deadline := some 9, quarantine := some 9 } : LedgerEntry)) ∧
    (({ tag := 12288, gen := 1, holder := .transfer 3 0 0, ctx := some 3, deadline := some 9, quarantine := some 9 } : LedgerEntry).quarantine = some (9 : Nat)) ∧
    ((9 : Nat) + 2 ^ 24 ≤ (Tests.devLate2 : State).hub.timer) := by decide +kernel

theorem witness_TransfersMeetTheirLedgerEntry_8 : ((Tests.devLease : State).alive = true) ∧
    ((Tests.devLease : State).lease? (0 : Nat) = some (Tests.lease0 : Lease)) ∧
    ((Tests.lease0 : Lease).broken = false) ∧
    ((Tests.lease0 : Lease).probe = some (0 : Nat)) ∧
    ((0 : Nat) + 2 ^ 20 ≤ (Tests.devLease : State).hub.timer) := by decide +kernel

theorem witness_LenderServesItsLeases_1 : ((Tests.devLease : State).alive = true) ∧
    ((Tests.devLease : State).links.beaconAt.all (fun b => decide (b + 64 * 2 ^ 18 ≤ (Tests.devLease : State).hub.timer)) = true) ∧
    ((Tests.devLease : State).lenderFeature = true) ∧
    (2 * (Tests.devLease : State).residentFrames < 380928) ∧
    ((3 : Nat) < 25) ∧
    (512 ≤ (Tests.devLease : State).lendable) := by decide +kernel

theorem witness_LenderServesItsLeases_2 : ((Tests.devLent : State).alive = true) ∧
    ((Tests.devLent : State).links.beaconAt.all (fun b => decide (b + 64 * 2 ^ 18 ≤ (Tests.devLent : State).hub.timer)) = true) ∧
    (25 ≤ (30 : Nat) ∨ (Tests.devLent : State).lenderFeature = false ∨ (Tests.devLent : State).lendable < 512 ∨ 380928 ≤ 2 * (Tests.devLent : State).residentFrames) := by decide +kernel

theorem witness_LenderServesItsLeases_3 : (({ Tests.devLease with links := { Tests.devLease.links with beaconAt := some (2 ^ 24) } } : State).links.beaconAt = some (2 ^ 24 : Nat)) ∧
    (({ Tests.devLease with links := { Tests.devLease.links with beaconAt := some (2 ^ 24) } } : State).hub.timer < (2 ^ 24 : Nat) + 64 * 2 ^ 18) := by decide +kernel

theorem witness_LenderServesItsLeases_4 : ((Tests.askMsg : Msg).rsvd = 0) ∧
    ((Tests.askMsg : Msg).ctx = 0) ∧
    ((Tests.askMsg : Msg).ctxGen = 0) ∧
    ((Tests.askMsg : Msg).status = 0) ∧
    ((Tests.devLent : State).alive = true) ∧
    ((Tests.askMsg : Msg).arg0 = 0) ∧
    ((Tests.askMsg : Msg).payload.length = kxFirstLen) ∧
    ((Tests.devLent : State).links.lends = true) ∧
    ((Tests.devLent : State).mayLend = true) ∧
    (slice (Tests.askMsg : Msg).payload 1685 1 = toLe 1 (Tests.devLent : State).modeCode) ∧
    (slice (Tests.askMsg : Msg).payload 1686 2 = toLe 2 (Tests.devLent : State).links.job) ∧
    ((List.range 4096).find? (fun i => !((Tests.devLent : State).ctxs.map (fun c => c.id) ++ (Tests.devLent : State).vault.bank.map (fun b => b.ctx)).contains i) = some (0 : Nat)) := by decide +kernel

theorem witness_LenderServesItsLeases_5 : (({ length := 114, arg0 := 65537, payload := List.replicate 114 3 } : Msg).rsvd = 0) ∧
    (({ length := 114, arg0 := 65537, payload := List.replicate 114 3 } : Msg).ctx = 0) ∧
    (({ length := 114, arg0 := 65537, payload := List.replicate 114 3 } : Msg).ctxGen = 0) ∧
    (({ length := 114, arg0 := 65537, payload := List.replicate 114 3 } : Msg).status = 0) ∧
    (({ Tests.devLent with links := { (Tests.plane [] []) with lent := [{ Tests.lent1 with keyed := false }] } } : State).alive = true) ∧
    (({ length := 114, arg0 := 65537, payload := List.replicate 114 3 } : Msg).payload.length = 114) ∧
    (({ Tests.lent1 with keyed := false } : Lent) ∈ ({ Tests.devLent with links := { (Tests.plane [] []) with lent := [{ Tests.lent1 with keyed := false }] } } : State).links.lent) ∧
    (({ Tests.lent1 with keyed := false } : Lent).next = none) ∧
    (({ Tests.lent1 with keyed := false } : Lent).id + ({ Tests.lent1 with keyed := false } : Lent).gen * 65536 = ({ length := 114, arg0 := 65537, payload := List.replicate 114 3 } : Msg).arg0) ∧
    (({ Tests.lent1 with keyed := false } : Lent).borrower = (1 : Nat)) ∧
    (({ Tests.devLent with links := { (Tests.plane [] []) with lent := [{ Tests.lent1 with keyed := false }] } } : State).verifies ({ Tests.lent1 with keyed := false } : Lent).peerKey ({ Tests.lent1 with keyed := false } : Lent).hash ({ length := 114, arg0 := 65537, payload := List.replicate 114 3 } : Msg).payload = true) := by
  refine ⟨by decide +kernel, by decide +kernel, by decide +kernel, by decide +kernel, by decide +kernel, by decide +kernel, by decide +kernel, by decide +kernel, by decide +kernel, by decide +kernel, ?_⟩
  rw [State.verifies, Bool.or_eq_true]
  exact Or.inl (by decide +kernel)

theorem witness_LenderServesItsLeases_6 : (({ length := 114, arg0 := 65537, payload := List.replicate 114 3 } : Msg).rsvd = 0) ∧
    (({ length := 114, arg0 := 65537, payload := List.replicate 114 3 } : Msg).ctx = 0) ∧
    (({ length := 114, arg0 := 65537, payload := List.replicate 114 3 } : Msg).ctxGen = 0) ∧
    (({ length := 114, arg0 := 65537, payload := List.replicate 114 3 } : Msg).status = 0) ∧
    (({ Tests.devLent with links := { (Tests.plane [] []) with lent := [{ Tests.lent1 with next := some ([1], [6], [7]) }] } } : State).alive = true) ∧
    (({ length := 114, arg0 := 65537, payload := List.replicate 114 3 } : Msg).payload.length = 114) ∧
    (({ Tests.lent1 with next := some ([1], [6], [7]) } : Lent) ∈ ({ Tests.devLent with links := { (Tests.plane [] []) with lent := [{ Tests.lent1 with next := some ([1], [6], [7]) }] } } : State).links.lent) ∧
    (({ Tests.lent1 with next := some ([1], [6], [7]) } : Lent).next = some (([1] : Bytes), ([6] : Bytes), ([7] : Bytes))) ∧
    (({ Tests.lent1 with next := some ([1], [6], [7]) } : Lent).id + ({ Tests.lent1 with next := some ([1], [6], [7]) } : Lent).gen * 65536 = ({ length := 114, arg0 := 65537, payload := List.replicate 114 3 } : Msg).arg0) ∧
    (({ Tests.lent1 with next := some ([1], [6], [7]) } : Lent).borrower = (1 : Nat)) ∧
    (({ Tests.devLent with links := { (Tests.plane [] []) with lent := [{ Tests.lent1 with next := some ([1], [6], [7]) }] } } : State).verifies ([7] : Bytes) ([6] : Bytes) ({ length := 114, arg0 := 65537, payload := List.replicate 114 3 } : Msg).payload = true) := by
  refine ⟨by decide +kernel, by decide +kernel, by decide +kernel, by decide +kernel, by decide +kernel, by decide +kernel, by decide +kernel, by decide +kernel, by decide +kernel, by decide +kernel, ?_⟩
  rw [State.verifies, Bool.or_eq_true]
  exact Or.inl (by decide +kernel)

theorem witness_LenderServesItsLeases_7 : ((Tests.devLent : State).alive = true) ∧
    (((Tests.devLent : State).takeIn ({ src := 1, inner := { iop := 0x11, group := 1, gen := 1, off := 1 } } : Delivered)).lentFrame ({ src := 1, inner := { iop := 0x11, group := 1, gen := 1, off := 1 } } : Delivered) = some ((Tests.lent1 : Lent), (50 : Nat))) ∧
    (({ src := 1, inner := { iop := 0x11, group := 1, gen := 1, off := 1 } } : Delivered).inner.arg + min 16 (max 1 ({ src := 1, inner := { iop := 0x11, group := 1, gen := 1, off := 1 } } : Delivered).inner.off) * 256 ≤ pageSize) ∧
    (((Tests.devLent : State).mem.meta (50 : Nat)).poison = []) := by decide +kernel

theorem witness_LenderServesItsLeases_8 : ((Tests.devLent : State).alive = true) ∧
    (((Tests.devLent : State).takeIn ({ src := 1, inner := { iop := 0x12, group := 1, gen := 1, arg := 256, data := [9, 8] } } : Delivered)).lentFrame ({ src := 1, inner := { iop := 0x12, group := 1, gen := 1, arg := 256, data := [9, 8] } } : Delivered) = some ((Tests.lent1 : Lent), (50 : Nat))) ∧
    (({ src := 1, inner := { iop := 0x12, group := 1, gen := 1, arg := 256, data := [9, 8] } } : Delivered).inner.arg + ({ src := 1, inner := { iop := 0x12, group := 1, gen := 1, arg := 256, data := [9, 8] } } : Delivered).inner.data.length ≤ pageSize) ∧
    (({ src := 1, inner := { iop := 0x12, group := 1, gen := 1, arg := 256, data := [9, 8] } } : Delivered).inner.data ≠ []) ∧
    (((Tests.devLent : State).mem.meta (50 : Nat)).poison = []) ∧
    (((Tests.devLent : State).mem.meta (50 : Nat)).high + 2 ^ 14 < 2 ^ 24) ∧
    ((Tests.devLent : State).vault.bank.find? (fun k => k.ctx == (Tests.lent1 : Lent).guest) = some ({ ctx := 8, gen := 1, limit := 2 ^ 56 - 1 } : BankEntry)) ∧
    (({ ctx := 8, gen := 1, limit := 2 ^ 56 - 1 } : BankEntry).uses + 2 ^ 14 ≤ ({ ctx := 8, gen := 1, limit := 2 ^ 56 - 1 } : BankEntry).limit) ∧
    (cellsWf (Tests.devLent : State).mem.cells = true) := by decide +kernel

theorem witness_LenderServesItsLeases_9 : (({ arg0 := 65537 } : Msg).rsvd = 0) ∧
    (({ arg0 := 65537 } : Msg).ctx = 0) ∧
    (({ arg0 := 65537 } : Msg).ctxGen = 0) ∧
    (({ arg0 := 65537 } : Msg).status = 0) ∧
    ((Tests.devLent : State).alive = true) ∧
    ((Tests.devLent : State).links.lent.find? (fun k => k.id + k.gen * 65536 == ({ arg0 := 65537 } : Msg).arg0 && k.borrower == (1 : Nat)) = some (Tests.lent1 : Lent)) ∧
    ((Tests.lent1 : Lent).frames.all (fun f => !(Tests.devLent : State).mem.worn f) = true) ∧
    ((Tests.devLent : State).shares = []) ∧
    (cellsWf (Tests.devLent : State).mem.cells = true) := by decide +kernel

theorem witness_BorrowerAndLenderShipRecords_1 : (({ length := 4, payload := toLe 4 512 } : Msg).rsvd = 0) ∧
    (({ length := 4, payload := toLe 4 512 } : Msg).ctx = 0) ∧
    (({ length := 4, payload := toLe 4 512 } : Msg).ctxGen = 0) ∧
    (({ length := 4, payload := toLe 4 512 } : Msg).status = 0) ∧
    ((Tests.devLease : State).alive = true) := by decide +kernel

theorem witness_BorrowerAndLenderShipRecords_2 : (({ arg0 := 65537, payload := Tests.offerSecond ++ List.replicate 114 3 } : Msg).rsvd = 0) ∧
    (({ arg0 := 65537, payload := Tests.offerSecond ++ List.replicate 114 3 } : Msg).ctx = 0) ∧
    (({ arg0 := 65537, payload := Tests.offerSecond ++ List.replicate 114 3 } : Msg).ctxGen = 0) ∧
    (({ arg0 := 65537, payload := Tests.offerSecond ++ List.replicate 114 3 } : Msg).status = 0) ∧
    ((Tests.devAsks : State).alive = true) ∧
    ((Tests.devAsks : State).links.asked (1 : Nat) ({ arg0 := 65537, payload := Tests.offerSecond ++ List.replicate 114 3 } : Msg).arg0 = some (Tests.askOpen : Ask)) ∧
    ((Tests.askOpen : Ask).renew = none) ∧
    ((Tests.offerSecond : Bytes) = ({ arg0 := 65537, payload := Tests.offerSecond ++ List.replicate 114 3 } : Msg).payload.take kxSecondLen) ∧
    ((leaseHash [4] Tests.offerSecond 1 1 : Bytes) = leaseHash (Tests.askOpen : Ask).first (Tests.offerSecond : Bytes) (({ arg0 := 65537, payload := Tests.offerSecond ++ List.replicate 114 3 } : Msg).arg0 % 65536) (({ arg0 := 65537, payload := Tests.offerSecond ++ List.replicate 114 3 } : Msg).arg0 / 65536 % 256)) ∧
    (({ arg0 := 65537, payload := Tests.offerSecond ++ List.replicate 114 3 } : Msg).payload.length = kxSecondLen + 114) ∧
    ((Tests.devAsks : State).verifies (slice (Tests.offerSecond : Bytes) 1624 57) (leaseHash [4] Tests.offerSecond 1 1 : Bytes) (({ arg0 := 65537, payload := Tests.offerSecond ++ List.replicate 114 3 } : Msg).payload.drop kxSecondLen) = true) ∧
    ((List.range 16).find? (fun i => !(Tests.devAsks : State).links.leases.any (fun l => l.slot == i)) = some (0 : Nat)) := by
  refine ⟨by decide +kernel, by decide +kernel, by decide +kernel, by decide +kernel, by decide +kernel, by decide +kernel, by decide +kernel, by rfl, by rfl, by decide +kernel, ?_, by decide +kernel⟩
  rw [State.verifies, Bool.or_eq_true]
  exact Or.inl (by rw [show Tests.devAsks.hub.signatures = [{ key := slice Tests.offerSecond 1624 57, text := leaseHash [4] Tests.offerSecond 1 1, sig := List.replicate 114 3 }] from rfl, show (({ arg0 := 65537, payload := Tests.offerSecond ++ List.replicate 114 3 } : Msg).payload.drop kxSecondLen) = List.replicate 114 3 by decide +kernel]; simp)

theorem witness_BorrowerAndLenderShipRecords_3 : (({ } : Msg).rsvd = 0) ∧
    (({ } : Msg).ctx = 0) ∧
    (({ } : Msg).ctxGen = 0) ∧
    (({ } : Msg).status = 0) ∧
    ((Tests.devAsks : State).alive = true) ∧
    ((Tests.devAsks : State).links.asked (1 : Nat) ({ } : Msg).arg0 = some (Tests.askOpen : Ask)) ∧
    (({ } : Msg).payload.length ≠ kxSecondLen + 114) := by decide +kernel

theorem witness_BorrowerAndLenderShipRecords_4 : (({ arg0 := 65537, payload := toLe 40 77 } : Msg).rsvd = 0) ∧
    (({ arg0 := 65537, payload := toLe 40 77 } : Msg).ctx = 0) ∧
    (({ arg0 := 65537, payload := toLe 40 77 } : Msg).ctxGen = 0) ∧
    (({ arg0 := 65537, payload := toLe 40 77 } : Msg).status = 0) ∧
    ((Tests.devLent : State).alive = true) ∧
    ((Tests.devLent : State).links.lent.find? (fun k => k.id + k.gen * 65536 == ({ arg0 := 65537, payload := toLe 40 77 } : Msg).arg0 && k.borrower == (1 : Nat) && k.keyed) = some (Tests.lent1 : Lent)) := by decide +kernel

theorem witness_BorrowerAndLenderShipRecords_5 : (({ arg0 := 65537, payload := toLe 40 77 } : Msg).rsvd = 0) ∧
    (({ arg0 := 65537, payload := toLe 40 77 } : Msg).ctx = 0) ∧
    (({ arg0 := 65537, payload := toLe 40 77 } : Msg).ctxGen = 0) ∧
    (({ arg0 := 65537, payload := toLe 40 77 } : Msg).status = 0) ∧
    ((Tests.devLent : State).alive = true) ∧
    ((Tests.devLent : State).links.lent.find? (fun k => k.id + k.gen * 65536 == ({ arg0 := 65537, payload := toLe 40 77 } : Msg).arg0 && k.borrower == (1 : Nat) && k.keyed) = some (Tests.lent1 : Lent)) := by decide +kernel

theorem witness_BorrowerAndLenderShipRecords_6 : (({ arg0 := 65537, payload := toLe 24 77 ++ toLe 4 5 } : Msg).rsvd = 0) ∧
    (({ arg0 := 65537, payload := toLe 24 77 ++ toLe 4 5 } : Msg).ctx = 0) ∧
    (({ arg0 := 65537, payload := toLe 24 77 ++ toLe 4 5 } : Msg).ctxGen = 0) ∧
    (({ arg0 := 65537, payload := toLe 24 77 ++ toLe 4 5 } : Msg).status = 0) ∧
    ((Tests.devLease : State).alive = true) ∧
    ((Tests.devLease : State).links.leases.find? (fun k => k.id + k.gen * 65536 == ({ arg0 := 65537, payload := toLe 24 77 ++ toLe 4 5 } : Msg).arg0 && k.lender == (1 : Nat) && !k.broken) = some (Tests.lease0 : Lease)) := by decide +kernel

theorem witness_BorrowerAndLenderShipRecords_7 : (({ } : Msg).rsvd = 0) ∧
    (({ } : Msg).ctx = 0) ∧
    (({ } : Msg).ctxGen = 0) ∧
    (({ } : Msg).status = 0) ∧
    ((Tests.devLease : State).alive = true) ∧
    ((Tests.devLease : State).links.leases.find? (fun k => k.id + k.gen * 65536 == ({ } : Msg).arg0 && k.lender == (1 : Nat) && !k.broken) = none) := by decide +kernel

theorem witness_BorrowerAndLenderShipRecords_8 : (({ Tests.devLent with links := { Tests.devLent.links with ctrl := [(1, Opcode.optClip.code, { rsvd := 1 })] } } : State).alive = true) ∧
    (({ rsvd := 1 } : Msg).rsvd ≠ 0 ∨ ({ rsvd := 1 } : Msg).ctx ≠ 0 ∨ ({ rsvd := 1 } : Msg).ctxGen ≠ 0 ∨ ({ rsvd := 1 } : Msg).status ≠ 0) ∧
    (((.optClip 1 { rsvd := 1 } : Instr), (.optClip : Opcode)) ∈ [(Instr.lendBeacon (1 : Nat) ({ rsvd := 1 } : Msg), Opcode.lendBeacon), (.lendAsk (1 : Nat) ({ rsvd := 1 } : Msg), .lendAsk), (.lendOffer (1 : Nat) ({ rsvd := 1 } : Msg), .lendOffer), (.lendRelease (1 : Nat) ({ rsvd := 1 } : Msg), .lendRelease), (.optShip (1 : Nat) ({ rsvd := 1 } : Msg), .optShip), (.optClip (1 : Nat) ({ rsvd := 1 } : Msg), .optClip), (.optReturn (1 : Nat) ({ rsvd := 1 } : Msg), .optReturn)]) := by decide +kernel

theorem witness_PortsTrainAndRoute_1 : (Admits (Tests.devDirect Tests.chan1 : State) .linkConfig (Tests.linkMsg : Msg) (Tests.mgmt : Session) = true) ∧
    ((Tests.mgmt : Session).role = .management) ∧
    ((Tests.linkMsg : Msg).length = 32) ∧
    ((ofLe (slice Tests.linkMsg.payload 0 32) : Nat) = ofLe (slice (Tests.linkMsg : Msg).payload 0 32)) ∧
    ((anySet (ofLe (slice Tests.linkMsg.payload 0 32) : Nat) 63 52 || anySet (ofLe (slice Tests.linkMsg.payload 0 32) : Nat) 255 224) = false) ∧
    (field (ofLe (slice Tests.linkMsg.payload 0 32) : Nat) 15 0 ≤ field (ofLe (slice Tests.linkMsg.payload 0 32) : Nat) 47 32) ∧
    (anySet (field (ofLe (slice Tests.linkMsg.payload 0 32) : Nat) 175 128) 19 0 = false) ∧
    (field (ofLe (slice Tests.linkMsg.payload 0 32) : Nat) 191 176 ≠ 0) ∧
    ((Tests.devDirect Tests.chan1 : State).links.groups = [] ∨ (field (ofLe (slice Tests.linkMsg.payload 0 32) : Nat) 15 0 = (Tests.devDirect Tests.chan1 : State).links.ordinal ∧ field (ofLe (slice Tests.linkMsg.payload 0 32) : Nat) 31 16 = (Tests.devDirect Tests.chan1 : State).links.job ∧ field (ofLe (slice Tests.linkMsg.payload 0 32) : Nat) 47 32 = (Tests.devDirect Tests.chan1 : State).links.sizeM1)) := by decide +kernel

theorem witness_PortsTrainAndRoute_2 : ((Tests.devDirect Tests.chan1 : State).alive = true) ∧
    ((Tests.devDirect Tests.chan1 : State).port? (1 : Nat) = some ({ mode := 1, training := some 0 } : Port)) ∧
    (({ mode := 1, training := some 0 } : Port).mode ≠ 0) ∧
    (({ mode := 1, training := some 0 } : Port).training = some (0 : Nat)) ∧
    ((Tests.devDirect Tests.chan1 : State).hub.timer ≤ (0 : Nat) + 2 ^ 27) ∧
    ((List.replicate 8 true : List Bool) = List.replicate 8 true) ∧
    (({ mode := 1, training := some 0 } : Port).narrow = false) ∧
    ((false : Bool) = false) ∧
    (({ mode := 1, training := some 0 } : Port).mode = 1 → (2 : Nat) ≠ (Tests.devDirect Tests.chan1 : State).links.ordinal) ∧
    ((true : Bool) = (Tests.devDirect Tests.chan1 : State).conf) ∧
    (((Tests.devDirect Tests.chan1 : State).chan? (1 : Nat) (2 : Nat)).all (fun k => k.unacked.all (fun f => decide (f.resends < 8))) = true) := by decide +kernel

theorem witness_PortsTrainAndRoute_3 : ((Tests.devDirect Tests.chan1 : State).alive = true) ∧
    ((Tests.devDirect Tests.chan1 : State).port? (1 : Nat) = some ({ mode := 1, training := some 0 } : Port)) ∧
    (({ mode := 1, training := some 0 } : Port).mode ≠ 0) ∧
    (({ mode := 1, training := some 0 } : Port).training = some (0 : Nat)) ∧
    ((List.replicate 8 false : List Bool) = List.replicate 8 false) := by decide +kernel

theorem witness_PortsTrainAndRoute_4 : ((Tests.devDirect Tests.chan1 : State).alive = true) ∧
    ((Tests.devDirect Tests.chan1 : State).laneOf (0 : Nat) (3 : Nat) = some (3 : Nat)) ∧
    ((Tests.devDirect Tests.chan1 : State).port? ((0 : Nat) * 8 + (3 : Nat) / 8) = some ({ mode := 1, isUp := true, peer := some 1 } : Port)) ∧
    (16 < (17 : Nat)) ∧
    ((List.range 4).find? (fun i => !(Tests.devDirect Tests.chan1 : State).links.serdes.any (fun r => r.1 == (0 : Nat) && r.2.2 == 64 + i)) = some (0 : Nat)) ∧
    ((Tests.devDirect Tests.chan1 : State).otp.repair.length < 1024) := by decide +kernel

theorem witness_PortsTrainAndRoute_5 : (({ length := 64, arg0 := 1, payload := toLe 64 (2 + 65536) } : Msg).rsvd = 0) ∧
    (({ length := 64, arg0 := 1, payload := toLe 64 (2 + 65536) } : Msg).ctx = 0) ∧
    (({ length := 64, arg0 := 1, payload := toLe 64 (2 + 65536) } : Msg).ctxGen = 0) ∧
    (({ length := 64, arg0 := 1, payload := toLe 64 (2 + 65536) } : Msg).status = 0) ∧
    ((Tests.devDirect Tests.chan1 : State).alive = true) ∧
    (({ length := 64, arg0 := 1, payload := toLe 64 (2 + 65536) } : Msg).length = 64) ∧
    (({ length := 64, arg0 := 1, payload := toLe 64 (2 + 65536) } : Msg).arg0 % 65536 ≠ (Tests.devDirect Tests.chan1 : State).links.ordinal) ∧
    ((({ length := 64, arg0 := 1, payload := toLe 64 (2 + 65536) } : Msg).arg0 % 65536, portMapOf ({ length := 64, arg0 := 1, payload := toLe 64 (2 + 65536) } : Msg).payload) ∉ (Tests.devDirect Tests.chan1 : State).links.maps) := by decide +kernel

theorem witness_PortsTrainAndRoute_6 : ((Tests.devDirect Tests.chan1 : State).alive = true) ∧
    (({ src := 1, inner := { iop := 0x21, data := toLe 32 0x0C02 } } : Delivered).inner.iop = 0x21) ∧
    (32 ≤ ({ src := 1, inner := { iop := 0x21, data := toLe 32 0x0C02 } } : Delivered).inner.data.length) ∧
    ((0x0C02 : Nat) = ofLe (slice ({ src := 1, inner := { iop := 0x21, data := toLe 32 0x0C02 } } : Delivered).inner.data 0 32)) ∧
    (0x0C01 ≤ field (0x0C02 : Nat) 15 0) ∧
    (field (0x0C02 : Nat) 15 0 ≤ 0x0C08) ∧
    (flag (0x0C02 : Nat) 16 = false) ∧
    (flag (0x0C02 : Nat) 17 = false) ∧
    (({ src := 1, inner := { iop := 0x21, data := toLe 32 0x0C02 } } : Delivered).inner.data.length = 32 + field (0x0C02 : Nat) 127 96) := by decide +kernel

theorem witness_FramesCrossRasovi_1 : ((Tests.devDirect Tests.chan1 : State).alive = true) ∧
    ((Tests.devDirect Tests.chan1 : State).port? (Tests.outer1 : Outer).port = some ({ mode := 1, isUp := true, peer := some 1 } : Port)) ∧
    (({ mode := 1, isUp := true, peer := some 1 } : Port).isUp = true) ∧
    ((Tests.devDirect Tests.chan1 : State).chan? (Tests.outer1 : Outer).port (Tests.outer1 : Outer).hop = some (Tests.chan1 : Channel)) ∧
    ((Tests.outer1 : Outer).fcsOk = true) ∧
    ((Tests.devDirect Tests.chan1 : State).outerBad (Tests.outer1 : Outer) false = false) ∧
    ((Tests.chan1 : Channel).keyed = true) ∧
    ((Tests.outer1 : Outer).kphase = (Tests.chan1 : Channel).rxPhase) ∧
    ((Tests.outer1 : Outer).tagOk = true) ∧
    (innerBad (Tests.outer1 : Outer) ({ iop := 3 } : Inner) = false) ∧
    ((Tests.outer1 : Outer).dst = (Tests.devDirect Tests.chan1 : State).links.ordinal) ∧
    (({ mode := 1, isUp := true, peer := some 1 } : Port).mode = 1) ∧
    ((Tests.outer1 : Outer).seq = (Tests.chan1 : Channel).rxAck) := by decide +kernel

theorem witness_FramesCrossRasovi_2 : ((Tests.devDirect { Tests.chan1 with rxAck := 4 } : State).alive = true) ∧
    ((Tests.devDirect { Tests.chan1 with rxAck := 4 } : State).port? (Tests.outer1 : Outer).port = some ({ mode := 1, isUp := true, peer := some 1 } : Port)) ∧
    (({ mode := 1, isUp := true, peer := some 1 } : Port).isUp = true) ∧
    ((Tests.devDirect { Tests.chan1 with rxAck := 4 } : State).chan? (Tests.outer1 : Outer).port (Tests.outer1 : Outer).hop = some ({ Tests.chan1 with rxAck := 4 } : Channel)) ∧
    ((Tests.outer1 : Outer).fcsOk = true) ∧
    ((Tests.devDirect { Tests.chan1 with rxAck := 4 } : State).outerBad (Tests.outer1 : Outer) false = false) ∧
    (({ Tests.chan1 with rxAck := 4 } : Channel).keyed = true) ∧
    ((Tests.outer1 : Outer).kphase = ({ Tests.chan1 with rxAck := 4 } : Channel).rxPhase) ∧
    ((Tests.outer1 : Outer).tagOk = true) ∧
    (innerBad (Tests.outer1 : Outer) ({ iop := 3 } : Inner) = false) ∧
    ((Tests.outer1 : Outer).dst = (Tests.devDirect { Tests.chan1 with rxAck := 4 } : State).links.ordinal) ∧
    (({ mode := 1, isUp := true, peer := some 1 } : Port).mode = 1) ∧
    ((Tests.outer1 : Outer).seq < ({ Tests.chan1 with rxAck := 4 } : Channel).rxAck) ∧
    (({ Tests.chan1 with rxAck := 4 } : Channel).rxUnacked < 15) := by decide +kernel

theorem witness_FramesCrossRasovi_3 : ((Tests.devDirect Tests.chan1 : State).alive = true) ∧
    ((Tests.devDirect Tests.chan1 : State).port? ({ Tests.outer1 with seq := 3 } : Outer).port = some ({ mode := 1, isUp := true, peer := some 1 } : Port)) ∧
    (({ mode := 1, isUp := true, peer := some 1 } : Port).isUp = true) ∧
    ((Tests.devDirect Tests.chan1 : State).chan? ({ Tests.outer1 with seq := 3 } : Outer).port ({ Tests.outer1 with seq := 3 } : Outer).hop = some (Tests.chan1 : Channel)) ∧
    (({ Tests.outer1 with seq := 3 } : Outer).fcsOk = true) ∧
    ((Tests.devDirect Tests.chan1 : State).outerBad ({ Tests.outer1 with seq := 3 } : Outer) false = false) ∧
    ((Tests.chan1 : Channel).keyed = true) ∧
    (({ Tests.outer1 with seq := 3 } : Outer).kphase = (Tests.chan1 : Channel).rxPhase) ∧
    (({ Tests.outer1 with seq := 3 } : Outer).tagOk = true) ∧
    (innerBad ({ Tests.outer1 with seq := 3 } : Outer) ({ iop := 3 } : Inner) = false) ∧
    (({ Tests.outer1 with seq := 3 } : Outer).dst = (Tests.devDirect Tests.chan1 : State).links.ordinal) ∧
    (({ mode := 1, isUp := true, peer := some 1 } : Port).mode = 1) ∧
    ((Tests.chan1 : Channel).rxAck < ({ Tests.outer1 with seq := 3 } : Outer).seq) ∧
    ((Tests.chan1 : Channel).nakSent = false) ∧
    (({ mode := 1, isUp := true, peer := some 1 } : Port).paused = false) ∧
    ((Tests.chan1 : Channel).rxUnacked < 15) := by decide +kernel

theorem witness_FramesCrossRasovi_4 : ((Tests.devSwitched : State).alive = true) ∧
    ((Tests.devSwitched : State).port? (Tests.outer1 : Outer).port = some ({ mode := 2, isUp := true } : Port)) ∧
    (({ mode := 2, isUp := true } : Port).isUp = true) ∧
    ((Tests.devSwitched : State).chan? (Tests.outer1 : Outer).port (Tests.outer1 : Outer).hop = some (Tests.busyChan : Channel)) ∧
    ((Tests.outer1 : Outer).fcsOk = true) ∧
    ((Tests.devSwitched : State).outerBad (Tests.outer1 : Outer) false = false) ∧
    ((Tests.busyChan : Channel).keyed = true) ∧
    ((Tests.outer1 : Outer).kphase = (Tests.busyChan : Channel).rxPhase) ∧
    ((Tests.outer1 : Outer).tagOk = true) ∧
    (innerBad (Tests.outer1 : Outer) ({ iop := 3 } : Inner) = false) ∧
    ((Tests.outer1 : Outer).dst = (Tests.devSwitched : State).links.ordinal) ∧
    (({ mode := 2, isUp := true } : Port).mode ≠ 1) ∧
    (({ mode := 2, isUp := true } : Port).mode = 2 ∨ ({ mode := 2, isUp := true } : Port).mode = 3) ∧
    ((Tests.busyChan : Channel).rxHeld = []) ∧
    ((Tests.outer1 : Outer).seq = (Tests.busyChan : Channel).rxAck) := by decide +kernel

theorem witness_FramesCrossRasovi_5 : ((Tests.devDirect Tests.busyChan : State).alive = true) ∧
    ((Tests.devDirect Tests.busyChan : State).port? ({ cls := 0, chan := 2 ^ 31, src := 1, hop := 1 } : Outer).port = some ({ mode := 1, isUp := true, peer := some 1 } : Port)) ∧
    (({ mode := 1, isUp := true, peer := some 1 } : Port).isUp = true) ∧
    (({ mode := 1, isUp := true, peer := some 1 } : Port).mode = 1) ∧
    ((Tests.devDirect Tests.busyChan : State).chan? ({ cls := 0, chan := 2 ^ 31, src := 1, hop := 1 } : Outer).port ({ cls := 0, chan := 2 ^ 31, src := 1, hop := 1 } : Outer).hop = some (Tests.busyChan : Channel)) ∧
    (({ cls := 0, chan := 2 ^ 31, src := 1, hop := 1 } : Outer).fcsOk = true) ∧
    (({ cls := 0, chan := 2 ^ 31, src := 1, hop := 1 } : Outer).tagOk = true) ∧
    ((Tests.devDirect Tests.busyChan : State).outerBad ({ cls := 0, chan := 2 ^ 31, src := 1, hop := 1 } : Outer) true = false) ∧
    (({ ack := 1, crData := 4 } : LinkBody).rsvd = 0) ∧
    (({ ack := 1, crData := 4 } : LinkBody).sack = 0) ∧
    (({ ack := 1, crData := 4 } : LinkBody).nak = false) ∧
    (({ cls := 0, chan := 2 ^ 31, src := 1, hop := 1 } : Outer).dst = (Tests.devDirect Tests.busyChan : State).links.ordinal) ∧
    ((Tests.busyChan : Channel).keyed = true) ∧
    (({ cls := 0, chan := 2 ^ 31, src := 1, hop := 1 } : Outer).kphase = (Tests.busyChan : Channel).rxPhase) ∧
    ((Tests.devDirect Tests.busyChan : State).links.channels.filter (fun k => k.port == ({ cls := 0, chan := 2 ^ 31, src := 1, hop := 1 } : Outer).port) = [(Tests.busyChan : Channel)]) ∧
    ((Tests.busyChan : Channel).waiting = []) ∧
    ((Tests.busyChan : Channel).linkDue = none) ∧
    ((Tests.busyChan : Channel).unacked.all (fun f => !f.due) = true) := by decide +kernel

theorem witness_FramesCrossRasovi_6 : ((Tests.devDirect Tests.busyChan : State).alive = true) ∧
    ((Tests.devDirect Tests.busyChan : State).port? (0 : Nat) = some ({ mode := 1, isUp := true, peer := some 1 } : Port)) ∧
    ((Tests.devDirect Tests.busyChan : State).chan? (0 : Nat) (1 : Nat) = some (Tests.busyChan : Channel)) ∧
    (({ mode := 1, isUp := true, peer := some 1 } : Port).isUp = true) ∧
    (({ mode := 1, isUp := true, peer := some 1 } : Port).paused = false) ∧
    ((Tests.busyChan : Channel).oldDue = false) ∧
    (0 < (Tests.busyChan : Channel).rxUnacked ∨ (Tests.busyChan : Channel).owed ≠ (0, 0, 0)) ∧
    ((Tests.busyChan : Channel).rxSince + 256 ≤ (Tests.devDirect Tests.busyChan : State).hub.timer) := by decide +kernel

theorem witness_FramesCrossRasovi_7 : ((Tests.devDirect Tests.busyChan : State).alive = true) ∧
    ((Tests.devDirect Tests.busyChan : State).port? (0 : Nat) = some ({ mode := 1, isUp := true, peer := some 1 } : Port)) ∧
    ((Tests.devDirect Tests.busyChan : State).chan? (0 : Nat) (1 : Nat) = some (Tests.busyChan : Channel)) ∧
    (({ mode := 1, isUp := true, peer := some 1 } : Port).isUp = true) ∧
    (({ mode := 1, isUp := true, peer := some 1 } : Port).paused = false) ∧
    ((Tests.devDirect Tests.busyChan : State).links.channels.filter (fun k => k.port == (0 : Nat)) = [(Tests.busyChan : Channel)]) ∧
    ((Tests.busyChan : Channel).linkDue = none) ∧
    ((Tests.busyChan : Channel).waiting = []) ∧
    (({ mode := 1, isUp := true, peer := some 1 } : Port).mode = 1) ∧
    ((Tests.busyChan : Channel).unacked ≠ []) ∧
    ((Tests.busyChan : Channel).lastAdvance + 2 ^ 11 ≤ (Tests.devDirect Tests.busyChan : State).hub.timer) ∧
    ((Tests.busyChan : Channel).unacked.all (fun f => decide (f.resends < 8)) = true) := by decide +kernel

theorem witness_FramesCrossRasovi_8 : ((Tests.devDirect { Tests.busyChan with unacked := [{ Tests.sent0 with resends := 8 }] } : State).alive = true) ∧
    ((Tests.devDirect { Tests.busyChan with unacked := [{ Tests.sent0 with resends := 8 }] } : State).port? (0 : Nat) = some ({ mode := 1, isUp := true, peer := some 1 } : Port)) ∧
    ((Tests.devDirect { Tests.busyChan with unacked := [{ Tests.sent0 with resends := 8 }] } : State).chan? (0 : Nat) (1 : Nat) = some ({ Tests.busyChan with unacked := [{ Tests.sent0 with resends := 8 }] } : Channel)) ∧
    (({ mode := 1, isUp := true, peer := some 1 } : Port).isUp = true) ∧
    (({ mode := 1, isUp := true, peer := some 1 } : Port).mode = 1) ∧
    (({ Tests.busyChan with unacked := [{ Tests.sent0 with resends := 8 }] } : Channel).lastAdvance + 2 ^ 11 ≤ (Tests.devDirect { Tests.busyChan with unacked := [{ Tests.sent0 with resends := 8 }] } : State).hub.timer) ∧
    (({ Tests.busyChan with unacked := [{ Tests.sent0 with resends := 8 }] } : Channel).unacked.any (fun f => decide (8 ≤ f.resends)) = true) := by decide +kernel

theorem witness_FramesCrossRasovi_9 : ((Tests.devSwitched : State).alive = true) ∧
    ((Tests.devSwitched : State).port? (0 : Nat) = some ({ mode := 2, isUp := true } : Port)) ∧
    ((Tests.devSwitched : State).chan? (0 : Nat) (1 : Nat) = some (Tests.busyChan : Channel)) ∧
    (({ mode := 2, isUp := true } : Port).isUp = true) ∧
    (({ mode := 2, isUp := true } : Port).paused = false) ∧
    ((Tests.devSwitched : State).links.channels.filter (fun k => k.port == (0 : Nat)) = [(Tests.busyChan : Channel)]) ∧
    ((Tests.busyChan : Channel).linkDue = none) ∧
    ((Tests.busyChan : Channel).waiting = []) ∧
    (({ mode := 2, isUp := true } : Port).mode ≠ 1) ∧
    ((Tests.busyChan : Channel).unacked ≠ []) ∧
    ((Tests.busyChan : Channel).lastAdvance + (Tests.busyChan : Channel).rto ≤ (Tests.devSwitched : State).hub.timer) := by decide +kernel

theorem witness_FramesCrossRasovi_10 : ((Tests.devDirect { Tests.chan1 with keyed := false } : State).alive = true) ∧
    ((Tests.devDirect { Tests.chan1 with keyed := false } : State).port? (0 : Nat) = some ({ mode := 1, isUp := true, peer := some 1 } : Port)) ∧
    ((Tests.devDirect { Tests.chan1 with keyed := false } : State).chan? (0 : Nat) (1 : Nat) = some ({ Tests.chan1 with keyed := false } : Channel)) ∧
    (({ mode := 1, isUp := true, peer := some 1 } : Port).isUp = true) ∧
    ((Tests.devDirect { Tests.chan1 with keyed := false } : State).links.ordinal < (1 : Nat)) ∧
    (({ Tests.chan1 with keyed := false } : Channel).keyed = false) ∧
    (({ Tests.chan1 with keyed := false } : Channel).kx.stage = 0) := by decide +kernel

theorem witness_FramesCrossRasovi_11 : (({ (Tests.devDirect { Tests.chan1 with keyed := false }) with links := { Tests.directLinks { Tests.chan1 with keyed := false } with ordinal := 2 } } : State).alive = true) ∧
    (({ (Tests.devDirect { Tests.chan1 with keyed := false }) with links := { Tests.directLinks { Tests.chan1 with keyed := false } with ordinal := 2 } } : State).chan? ({ src := 1, inner := { iop := 0x22, data := Tests.kxFirst } } : Delivered).port ({ src := 1, inner := { iop := 0x22, data := Tests.kxFirst } } : Delivered).src = some ({ Tests.chan1 with keyed := false } : Channel)) ∧
    (({ src := 1, inner := { iop := 0x22, data := Tests.kxFirst } } : Delivered).inner.data.length = kxFirstLen) ∧
    (({ src := 1, inner := { iop := 0x22, data := Tests.kxFirst } } : Delivered).src < ({ (Tests.devDirect { Tests.chan1 with keyed := false }) with links := { Tests.directLinks { Tests.chan1 with keyed := false } with ordinal := 2 } } : State).links.ordinal) ∧
    (slice ({ src := 1, inner := { iop := 0x22, data := Tests.kxFirst } } : Delivered).inner.data 1685 1 = toLe 1 ({ (Tests.devDirect { Tests.chan1 with keyed := false }) with links := { Tests.directLinks { Tests.chan1 with keyed := false } with ordinal := 2 } } : State).modeCode) ∧
    (slice ({ src := 1, inner := { iop := 0x22, data := Tests.kxFirst } } : Delivered).inner.data 1686 2 = toLe 2 ({ (Tests.devDirect { Tests.chan1 with keyed := false }) with links := { Tests.directLinks { Tests.chan1 with keyed := false } with ordinal := 2 } } : State).links.job) := by decide +kernel

theorem witness_OptimiserRequestsRun_1 : (Admits ({ Tests.devOpt Tests.paramNat (Tests.optReq 0 1) with ctxs := [{ (Tests.ctxIdle .resident) with pages := [Tests.pageA] }], waits := [] } : State) .optStep (Tests.msg3 96 (Tests.optPayload 0 1) : Msg) (Tests.tenant : Session) = true) ∧
    (({ Tests.devOpt Tests.paramNat (Tests.optReq 0 1) with ctxs := [{ (Tests.ctxIdle .resident) with pages := [Tests.pageA] }], waits := [] } : State).ctx? (Tests.msg3 96 (Tests.optPayload 0 1) : Msg).ctx = some ({ (Tests.ctxIdle .resident) with pages := [Tests.pageA] } : Ctx)) ∧
    (((({ Tests.devOpt Tests.paramNat (Tests.optReq 0 1) with ctxs := [{ (Tests.ctxIdle .resident) with pages := [Tests.pageA] }], waits := [] } : State).takeMail .optStep (Tests.msg3 96 (Tests.optPayload 0 1))) : State) = ({ Tests.devOpt Tests.paramNat (Tests.optReq 0 1) with ctxs := [{ (Tests.ctxIdle .resident) with pages := [Tests.pageA] }], waits := [] } : State).takeMail .optStep (Tests.msg3 96 (Tests.optPayload 0 1) : Msg)) ∧
    ((Tests.msg3 96 (Tests.optPayload 0 1) : Msg).length = 96) ∧
    ((optArgs (Tests.optPayload 0 1) : OptArgs) = optArgs (Tests.msg3 96 (Tests.optPayload 0 1) : Msg).payload) ∧
    ((optArgs (Tests.optPayload 0 1) : OptArgs).rsvd = false) ∧
    ((optArgs (Tests.optPayload 0 1) : OptArgs).update = false) ∧
    ((optArgs (Tests.optPayload 0 1) : OptArgs).dp = false) ∧
    ((optArgs (Tests.optPayload 0 1) : OptArgs).table % 64 = 0) ∧
    (({ (Tests.ctxIdle .resident) with pages := [Tests.pageA] } : Ctx).mapped (recordAt (optArgs (Tests.optPayload 0 1) : OptArgs).table (optArgs (Tests.optPayload 0 1) : OptArgs).first) (128 * (optArgs (Tests.optPayload 0 1) : OptArgs).records) = true) ∧
    (({ (Tests.ctxIdle .resident) with pages := [Tests.pageA] } : Ctx).mapped (optArgs (Tests.optPayload 0 1) : OptArgs).norm 4 = true) ∧
    ((((({ Tests.devOpt Tests.paramNat (Tests.optReq 0 1) with ctxs := [{ (Tests.ctxIdle .resident) with pages := [Tests.pageA] }], waits := [] } : State).takeMail .optStep (Tests.msg3 96 (Tests.optPayload 0 1))) : State).readParams ({ (Tests.ctxIdle .resident) with pages := [Tests.pageA] } : Ctx).id [] (optArgs (Tests.optPayload 0 1) : OptArgs).table (optArgs (Tests.optPayload 0 1) : OptArgs).first (optArgs (Tests.optPayload 0 1) : OptArgs).records).1 = (((({ Tests.devOpt Tests.paramNat (Tests.optReq 0 1) with ctxs := [{ (Tests.ctxIdle .resident) with pages := [Tests.pageA] }], waits := [] } : State).takeMail .optStep (Tests.msg3 96 (Tests.optPayload 0 1))).readParams 3 [] 0 0 1).1 : State)) ∧
    ((((({ Tests.devOpt Tests.paramNat (Tests.optReq 0 1) with ctxs := [{ (Tests.ctxIdle .resident) with pages := [Tests.pageA] }], waits := [] } : State).takeMail .optStep (Tests.msg3 96 (Tests.optPayload 0 1))) : State).readParams ({ (Tests.ctxIdle .resident) with pages := [Tests.pageA] } : Ctx).id [] (optArgs (Tests.optPayload 0 1) : OptArgs).table (optArgs (Tests.optPayload 0 1) : OptArgs).first (optArgs (Tests.optPayload 0 1) : OptArgs).records).2.toOption = some ([Tests.param1] : List Param)) ∧
    (({ (Tests.ctxIdle .resident) with pages := [Tests.pageA] } : Ctx).policy = none) ∧
    (({ (Tests.ctxIdle .resident) with pages := [Tests.pageA] } : Ctx).consortium = false) ∧
    ((optArgs (Tests.optPayload 0 1) : OptArgs).bad = false) ∧
    (([Tests.param1] : List Param).all (fun p => !p.rsvd && !(((({ Tests.devOpt Tests.paramNat (Tests.optReq 0 1) with ctxs := [{ (Tests.ctxIdle .resident) with pages := [Tests.pageA] }], waits := [] } : State).takeMail .optStep (Tests.msg3 96 (Tests.optPayload 0 1))).readParams 3 [] 0 0 1).1 : State).slotReserved ({ (Tests.ctxIdle .resident) with pages := [Tests.pageA] } : Ctx) p && (((({ Tests.devOpt Tests.paramNat (Tests.optReq 0 1) with ctxs := [{ (Tests.ctxIdle .resident) with pages := [Tests.pageA] }], waits := [] } : State).takeMail .optStep (Tests.msg3 96 (Tests.optPayload 0 1))).readParams 3 [] 0 0 1).1 : State).consistent ({ (Tests.ctxIdle .resident) with pages := [Tests.pageA] } : Ctx) p && ({ (Tests.ctxIdle .resident) with pages := [Tests.pageA] } : Ctx).paramFits p) = true) ∧
    (({ (Tests.ctxIdle .resident) with pages := [Tests.pageA] } : Ctx).writable (optArgs (Tests.optPayload 0 1) : OptArgs).norm 4 = true) := by decide +kernel

theorem witness_OptimiserRequestsRun_2 : (Admits ({ Tests.devOpt Tests.paramNat (Tests.optReq 1 1) with ctxs := [{ (Tests.ctxIdle .resident) with pages := [Tests.pageA] }], waits := [] } : State) .optStep (Tests.msg3 96 (Tests.optPayload 1 1) : Msg) (Tests.tenant : Session) = true) ∧
    (({ Tests.devOpt Tests.paramNat (Tests.optReq 1 1) with ctxs := [{ (Tests.ctxIdle .resident) with pages := [Tests.pageA] }], waits := [] } : State).ctx? (Tests.msg3 96 (Tests.optPayload 1 1) : Msg).ctx = some ({ (Tests.ctxIdle .resident) with pages := [Tests.pageA] } : Ctx)) ∧
    (((({ Tests.devOpt Tests.paramNat (Tests.optReq 1 1) with ctxs := [{ (Tests.ctxIdle .resident) with pages := [Tests.pageA] }], waits := [] } : State).takeMail .optStep (Tests.msg3 96 (Tests.optPayload 1 1))) : State) = ({ Tests.devOpt Tests.paramNat (Tests.optReq 1 1) with ctxs := [{ (Tests.ctxIdle .resident) with pages := [Tests.pageA] }], waits := [] } : State).takeMail .optStep (Tests.msg3 96 (Tests.optPayload 1 1) : Msg)) ∧
    ((Tests.msg3 96 (Tests.optPayload 1 1) : Msg).length = 96) ∧
    ((optArgs (Tests.optPayload 1 1) : OptArgs) = optArgs (Tests.msg3 96 (Tests.optPayload 1 1) : Msg).payload) ∧
    ((optArgs (Tests.optPayload 1 1) : OptArgs).rsvd = false) ∧
    ((optArgs (Tests.optPayload 1 1) : OptArgs).update = true) ∧
    ((optArgs (Tests.optPayload 1 1) : OptArgs).dp = false) ∧
    ((optArgs (Tests.optPayload 1 1) : OptArgs).table % 64 = 0) ∧
    (({ (Tests.ctxIdle .resident) with pages := [Tests.pageA] } : Ctx).mapped (recordAt (optArgs (Tests.optPayload 1 1) : OptArgs).table (optArgs (Tests.optPayload 1 1) : OptArgs).first) (128 * (optArgs (Tests.optPayload 1 1) : OptArgs).records) = true) ∧
    (({ (Tests.ctxIdle .resident) with pages := [Tests.pageA] } : Ctx).mapped (optArgs (Tests.optPayload 1 1) : OptArgs).norm 4 = true) ∧
    ((((({ Tests.devOpt Tests.paramNat (Tests.optReq 1 1) with ctxs := [{ (Tests.ctxIdle .resident) with pages := [Tests.pageA] }], waits := [] } : State).takeMail .optStep (Tests.msg3 96 (Tests.optPayload 1 1))) : State).readParams ({ (Tests.ctxIdle .resident) with pages := [Tests.pageA] } : Ctx).id [] (optArgs (Tests.optPayload 1 1) : OptArgs).table (optArgs (Tests.optPayload 1 1) : OptArgs).first (optArgs (Tests.optPayload 1 1) : OptArgs).records).1 = (((({ Tests.devOpt Tests.paramNat (Tests.optReq 1 1) with ctxs := [{ (Tests.ctxIdle .resident) with pages := [Tests.pageA] }], waits := [] } : State).takeMail .optStep (Tests.msg3 96 (Tests.optPayload 1 1))).readParams 3 [] 0 0 1).1 : State)) ∧
    ((((({ Tests.devOpt Tests.paramNat (Tests.optReq 1 1) with ctxs := [{ (Tests.ctxIdle .resident) with pages := [Tests.pageA] }], waits := [] } : State).takeMail .optStep (Tests.msg3 96 (Tests.optPayload 1 1))) : State).readParams ({ (Tests.ctxIdle .resident) with pages := [Tests.pageA] } : Ctx).id [] (optArgs (Tests.optPayload 1 1) : OptArgs).table (optArgs (Tests.optPayload 1 1) : OptArgs).first (optArgs (Tests.optPayload 1 1) : OptArgs).records).2.toOption = some ([Tests.param1] : List Param)) ∧
    (({ (Tests.ctxIdle .resident) with pages := [Tests.pageA] } : Ctx).policy = none) ∧
    (({ (Tests.ctxIdle .resident) with pages := [Tests.pageA] } : Ctx).consortium = false) ∧
    ((optArgs (Tests.optPayload 1 1) : OptArgs).bad = false) ∧
    (([Tests.param1] : List Param).all (fun p => !p.rsvd && !(((({ Tests.devOpt Tests.paramNat (Tests.optReq 1 1) with ctxs := [{ (Tests.ctxIdle .resident) with pages := [Tests.pageA] }], waits := [] } : State).takeMail .optStep (Tests.msg3 96 (Tests.optPayload 1 1))).readParams 3 [] 0 0 1).1 : State).slotReserved ({ (Tests.ctxIdle .resident) with pages := [Tests.pageA] } : Ctx) p && (((({ Tests.devOpt Tests.paramNat (Tests.optReq 1 1) with ctxs := [{ (Tests.ctxIdle .resident) with pages := [Tests.pageA] }], waits := [] } : State).takeMail .optStep (Tests.msg3 96 (Tests.optPayload 1 1))).readParams 3 [] 0 0 1).1 : State).consistent ({ (Tests.ctxIdle .resident) with pages := [Tests.pageA] } : Ctx) p && ({ (Tests.ctxIdle .resident) with pages := [Tests.pageA] } : Ctx).paramFits p) = true) := by decide +kernel

theorem witness_OptimiserRequestsRun_3 : ((Tests.devOpt (Tests.paramNat) (Tests.optReq 1 0) : State).alive = true) ∧
    ((Tests.devOpt (Tests.paramNat) (Tests.optReq 1 0) : State).ctx? (3 : Nat) = some (Tests.ctxOpt (Tests.optReq 1 0) : Ctx)) ∧
    ((Tests.ctxOpt (Tests.optReq 1 0) : Ctx).opt.find? (fun z => z.kind != 2) = some (Tests.optReq 1 0 : OptReq)) ∧
    ((Tests.optReq 1 0 : OptReq).tag = (6 : Nat)) ∧
    ((Tests.optReq 1 0 : OptReq).run = none) ∧
    ((Tests.ctxOpt (Tests.optReq 1 0) : Ctx).begins = true) ∧
    ((optArgs (Tests.optPayload 1 0) : OptArgs) = optArgs (Tests.optReq 1 0 : OptReq).payload) ∧
    (((Tests.devOpt (Tests.paramNat) (Tests.optReq 1 0) : State).fenceGate (Tests.ctxOpt (Tests.optReq 1 0) : Ctx) (optArgs (Tests.optPayload 1 0) : OptArgs).fenceIn (optArgs (Tests.optPayload 1 0) : OptArgs).inVal).toOption = some true) ∧
    ((optArgs (Tests.optPayload 1 0) : OptArgs).records = 0) := by decide +kernel

theorem witness_OptimiserRequestsRun_4 : ((Tests.devOpt Tests.paramNat (Tests.optReq 0 1) : State).alive = true) ∧
    ((Tests.devOpt Tests.paramNat (Tests.optReq 0 1) : State).ctx? (3 : Nat) = some (Tests.ctxOpt (Tests.optReq 0 1) : Ctx)) ∧
    ((Tests.ctxOpt (Tests.optReq 0 1) : Ctx).opt.find? (fun z => z.kind != 2) = some (Tests.optReq 0 1 : OptReq)) ∧
    ((Tests.optReq 0 1 : OptReq).tag = (6 : Nat)) ∧
    ((Tests.optReq 0 1 : OptReq).run = none) ∧
    ((Tests.ctxOpt (Tests.optReq 0 1) : Ctx).begins = true) ∧
    ((optArgs (Tests.optPayload 0 1) : OptArgs) = optArgs (Tests.optReq 0 1 : OptReq).payload) ∧
    (((Tests.devOpt Tests.paramNat (Tests.optReq 0 1) : State).fenceGate (Tests.ctxOpt (Tests.optReq 0 1) : Ctx) (optArgs (Tests.optPayload 0 1) : OptArgs).fenceIn (optArgs (Tests.optPayload 0 1) : OptArgs).inVal).toOption = some true) ∧
    ((optArgs (Tests.optPayload 0 1) : OptArgs).records = 1) ∧
    (((Tests.devOpt Tests.paramNat (Tests.optReq 0 1) : State).readParams (3 : Nat) [] (optArgs (Tests.optPayload 0 1) : OptArgs).table (optArgs (Tests.optPayload 0 1) : OptArgs).first 1).2.toOption = some [(Tests.param1 : Param)]) ∧
    ((Tests.devOpt Tests.paramNat (Tests.optReq 0 1) : State).placeable.head? = some (0 : Nat)) ∧
    ((Tests.devOpt Tests.paramNat (Tests.optReq 0 1) : State).gateClosed (tileOf (0 : Nat)) = false) ∧
    ((Tests.param1 : Param).gradSpace = 0) ∧
    ((Tests.ctxOpt (Tests.optReq 0 1) : Ctx).policy = none) ∧
    ((Tests.ctxOpt (Tests.optReq 0 1) : Ctx).shipped = []) ∧
    ((Tests.devOpt Tests.paramNat (Tests.optReq 0 1) : State).links.leases = []) ∧
    (PlainRegion (Tests.devOpt Tests.paramNat (Tests.optReq 0 1) : State) (Tests.ctxOpt (Tests.optReq 0 1) : Ctx) (Tests.param1 : Param).gradAddr (4 * (Tests.param1 : Param).count) (0 : Nat) = true) ∧
    (PlainRegion (Tests.devOpt Tests.paramNat (Tests.optReq 0 1) : State) (Tests.ctxOpt (Tests.optReq 0 1) : Ctx) (optArgs (Tests.optPayload 0 1) : OptArgs).norm 4 (0 : Nat) = true) ∧
    (cellsWf (Tests.devOpt Tests.paramNat (Tests.optReq 0 1) : State).mem.cells = true) ∧
    ((optArgs (Tests.optPayload 0 1) : OptArgs).update = false) ∧
    ((optArgs (Tests.optPayload 0 1) : OptArgs).dp = false) ∧
    (physAt (0 : Nat) ((optArgs (Tests.optPayload 0 1) : OptArgs).norm % pageSize) + 4 ≤ physAt (0 : Nat) ((Tests.param1 : Param).gradAddr % pageSize) ∨ physAt (0 : Nat) ((Tests.param1 : Param).gradAddr % pageSize) + 4 * (Tests.param1 : Param).count ≤ physAt (0 : Nat) ((optArgs (Tests.optPayload 0 1) : OptArgs).norm % pageSize)) := by decide +kernel

theorem witness_OptimiserRequestsRun_5 : ((Tests.devOpt (Tests.paramNat + 2 ^ 62) (Tests.optReq 1 1) : State).alive = true) ∧
    ((Tests.devOpt (Tests.paramNat + 2 ^ 62) (Tests.optReq 1 1) : State).ctx? (3 : Nat) = some (Tests.ctxOpt (Tests.optReq 1 1) : Ctx)) ∧
    ((Tests.ctxOpt (Tests.optReq 1 1) : Ctx).opt.find? (fun z => z.kind != 2) = some (Tests.optReq 1 1 : OptReq)) ∧
    ((Tests.optReq 1 1 : OptReq).tag = (6 : Nat)) ∧
    ((Tests.optReq 1 1 : OptReq).run = none) ∧
    ((Tests.ctxOpt (Tests.optReq 1 1) : Ctx).begins = true) ∧
    ((optArgs (Tests.optPayload 1 1) : OptArgs) = optArgs (Tests.optReq 1 1 : OptReq).payload) ∧
    (((Tests.devOpt (Tests.paramNat + 2 ^ 62) (Tests.optReq 1 1) : State).fenceGate (Tests.ctxOpt (Tests.optReq 1 1) : Ctx) (optArgs (Tests.optPayload 1 1) : OptArgs).fenceIn (optArgs (Tests.optPayload 1 1) : OptArgs).inVal).toOption = some true) ∧
    ((optArgs (Tests.optPayload 1 1) : OptArgs).records = 1) ∧
    (((Tests.devOpt (Tests.paramNat + 2 ^ 62) (Tests.optReq 1 1) : State).readParams (3 : Nat) [] (optArgs (Tests.optPayload 1 1) : OptArgs).table (optArgs (Tests.optPayload 1 1) : OptArgs).first 1).2.toOption = some [(Tests.paramIced : Param)]) ∧
    ((Tests.devOpt (Tests.paramNat + 2 ^ 62) (Tests.optReq 1 1) : State).placeable.head? = some (0 : Nat)) ∧
    ((Tests.devOpt (Tests.paramNat + 2 ^ 62) (Tests.optReq 1 1) : State).gateClosed (tileOf (0 : Nat)) = false) ∧
    ((Tests.paramIced : Param).gradSpace = 0) ∧
    ((Tests.ctxOpt (Tests.optReq 1 1) : Ctx).policy = none) ∧
    ((Tests.ctxOpt (Tests.optReq 1 1) : Ctx).shipped = []) ∧
    ((Tests.devOpt (Tests.paramNat + 2 ^ 62) (Tests.optReq 1 1) : State).links.leases = []) ∧
    (PlainRegion (Tests.devOpt (Tests.paramNat + 2 ^ 62) (Tests.optReq 1 1) : State) (Tests.ctxOpt (Tests.optReq 1 1) : Ctx) (Tests.paramIced : Param).gradAddr (4 * (Tests.paramIced : Param).count) (0 : Nat) = true) ∧
    (PlainRegion (Tests.devOpt (Tests.paramNat + 2 ^ 62) (Tests.optReq 1 1) : State) (Tests.ctxOpt (Tests.optReq 1 1) : Ctx) (optArgs (Tests.optPayload 1 1) : OptArgs).norm 4 (0 : Nat) = true) ∧
    (cellsWf (Tests.devOpt (Tests.paramNat + 2 ^ 62) (Tests.optReq 1 1) : State).mem.cells = true) ∧
    ((optArgs (Tests.optPayload 1 1) : OptArgs).update = true) ∧
    ((Tests.optReq 1 1 : OptReq).kind = 1) ∧
    ((Tests.paramIced : Param).frozen = true) ∧
    (2 ≤ (Tests.paramIced : Param).workFmt) ∧
    ((Tests.ctxOpt (Tests.optReq 1 1) : Ctx).audit = []) := by decide +kernel

theorem witness_OptimiserRequestsRun_6 : (Admits ({ Tests.devOpt Tests.paramNat (Tests.exportReq 1) with ctxs := [{ (Tests.ctxIdle .resident) with pages := [Tests.pageA] }], waits := [] } : State) .paramExport (Tests.msg3 48 (Tests.exportReq 1).payload : Msg) (Tests.tenant : Session) = true) ∧
    (({ Tests.devOpt Tests.paramNat (Tests.exportReq 1) with ctxs := [{ (Tests.ctxIdle .resident) with pages := [Tests.pageA] }], waits := [] } : State).ctx? (Tests.msg3 48 (Tests.exportReq 1).payload : Msg).ctx = some ({ (Tests.ctxIdle .resident) with pages := [Tests.pageA] } : Ctx)) ∧
    (((({ Tests.devOpt Tests.paramNat (Tests.exportReq 1) with ctxs := [{ (Tests.ctxIdle .resident) with pages := [Tests.pageA] }], waits := [] } : State).takeMail .paramExport (Tests.msg3 48 (Tests.exportReq 1).payload)) : State) = ({ Tests.devOpt Tests.paramNat (Tests.exportReq 1) with ctxs := [{ (Tests.ctxIdle .resident) with pages := [Tests.pageA] }], waits := [] } : State).takeMail .paramExport (Tests.msg3 48 (Tests.exportReq 1).payload : Msg)) ∧
    ((Tests.msg3 48 (Tests.exportReq 1).payload : Msg).length = 48) ∧
    ((exportArgs (Tests.exportReq 1).payload : ExportArgs) = exportArgs (Tests.msg3 48 (Tests.exportReq 1).payload : Msg).payload) ∧
    ((exportArgs (Tests.exportReq 1).payload : ExportArgs).rsvd = false) ∧
    ((exportArgs (Tests.exportReq 1).payload : ExportArgs).table % 64 = 0) ∧
    (({ (Tests.ctxIdle .resident) with pages := [Tests.pageA] } : Ctx).mapped (recordAt (exportArgs (Tests.exportReq 1).payload : ExportArgs).table (exportArgs (Tests.exportReq 1).payload : ExportArgs).first) (128 * (exportArgs (Tests.exportReq 1).payload : ExportArgs).records) = true) ∧
    ((((({ Tests.devOpt Tests.paramNat (Tests.exportReq 1) with ctxs := [{ (Tests.ctxIdle .resident) with pages := [Tests.pageA] }], waits := [] } : State).takeMail .paramExport (Tests.msg3 48 (Tests.exportReq 1).payload)) : State).readParams ({ (Tests.ctxIdle .resident) with pages := [Tests.pageA] } : Ctx).id [] (exportArgs (Tests.exportReq 1).payload : ExportArgs).table (exportArgs (Tests.exportReq 1).payload : ExportArgs).first (exportArgs (Tests.exportReq 1).payload : ExportArgs).records).1 = (((({ Tests.devOpt Tests.paramNat (Tests.exportReq 1) with ctxs := [{ (Tests.ctxIdle .resident) with pages := [Tests.pageA] }], waits := [] } : State).takeMail .paramExport (Tests.msg3 48 (Tests.exportReq 1).payload)).readParams 3 [] 0 0 1).1 : State)) ∧
    ((((({ Tests.devOpt Tests.paramNat (Tests.exportReq 1) with ctxs := [{ (Tests.ctxIdle .resident) with pages := [Tests.pageA] }], waits := [] } : State).takeMail .paramExport (Tests.msg3 48 (Tests.exportReq 1).payload)) : State).readParams ({ (Tests.ctxIdle .resident) with pages := [Tests.pageA] } : Ctx).id [] (exportArgs (Tests.exportReq 1).payload : ExportArgs).table (exportArgs (Tests.exportReq 1).payload : ExportArgs).first (exportArgs (Tests.exportReq 1).payload : ExportArgs).records).2.toOption = some ([Tests.param1] : List Param)) ∧
    (({ (Tests.ctxIdle .resident) with pages := [Tests.pageA] } : Ctx).policy = none) ∧
    (({ (Tests.ctxIdle .resident) with pages := [Tests.pageA] } : Ctx).consortium = false) ∧
    ((exportArgs (Tests.exportReq 1).payload : ExportArgs).parts ≠ 0) ∧
    ((exportArgs (Tests.exportReq 1).payload : ExportArgs).dst % 64 = 0) ∧
    (([Tests.param1] : List Param).all (fun p => !p.rsvd && !(((({ Tests.devOpt Tests.paramNat (Tests.exportReq 1) with ctxs := [{ (Tests.ctxIdle .resident) with pages := [Tests.pageA] }], waits := [] } : State).takeMail .paramExport (Tests.msg3 48 (Tests.exportReq 1).payload)).readParams 3 [] 0 0 1).1 : State).slotReserved ({ (Tests.ctxIdle .resident) with pages := [Tests.pageA] } : Ctx) p && (((({ Tests.devOpt Tests.paramNat (Tests.exportReq 1) with ctxs := [{ (Tests.ctxIdle .resident) with pages := [Tests.pageA] }], waits := [] } : State).takeMail .paramExport (Tests.msg3 48 (Tests.exportReq 1).payload)).readParams 3 [] 0 0 1).1 : State).consistent ({ (Tests.ctxIdle .resident) with pages := [Tests.pageA] } : Ctx) p && ({ (Tests.ctxIdle .resident) with pages := [Tests.pageA] } : Ctx).paramFits p) = true) ∧
    ((exportArgs (Tests.exportReq 1).payload : ExportArgs).step ≠ 0) ∧
    ((130 : Nat) = imagesLength (([Tests.param1] : List Param).flatMap (fun p => (p.partsOf (exportArgs (Tests.exportReq 1).payload : ExportArgs).parts).map (fun z => z.2.2.2)))) ∧
    ((130 : Nat) ≤ (exportArgs (Tests.exportReq 1).payload : ExportArgs).len) ∧
    (({ (Tests.ctxIdle .resident) with pages := [Tests.pageA] } : Ctx).writable (exportArgs (Tests.exportReq 1).payload : ExportArgs).dst (130 : Nat) = true) := by decide +kernel

theorem witness_OptimiserRequestsRun_7 : ((Tests.devOpt Tests.paramNat (Tests.exportReq 0) : State).alive = true) ∧
    ((Tests.devOpt Tests.paramNat (Tests.exportReq 0) : State).ctx? (3 : Nat) = some (Tests.ctxOpt (Tests.exportReq 0) : Ctx)) ∧
    ((Tests.ctxOpt (Tests.exportReq 0) : Ctx).opt.find? (fun z => z.kind == 2 && z.tag == (6 : Nat)) = some (Tests.exportReq 0 : OptReq)) ∧
    ((Tests.ctxOpt (Tests.exportReq 0) : Ctx).begins = true) ∧
    ((exportArgs (Tests.exportReq 0).payload : ExportArgs) = exportArgs (Tests.exportReq 0 : OptReq).payload) ∧
    (((Tests.devOpt Tests.paramNat (Tests.exportReq 0) : State).fenceGate (Tests.ctxOpt (Tests.exportReq 0) : Ctx) (exportArgs (Tests.exportReq 0).payload : ExportArgs).fenceIn (exportArgs (Tests.exportReq 0).payload : ExportArgs).inVal).toOption = some true) ∧
    ((exportArgs (Tests.exportReq 0).payload : ExportArgs).records = 0) ∧
    ((Tests.ctxOpt (Tests.exportReq 0) : Ctx).policy = none) := by decide +kernel

theorem witness_OptimiserRequestsRun_8 : ((Tests.devOpt Tests.paramNat (Tests.exportReq 1) : State).alive = true) ∧
    ((Tests.devOpt Tests.paramNat (Tests.exportReq 1) : State).ctx? (3 : Nat) = some (Tests.ctxOpt (Tests.exportReq 1) : Ctx)) ∧
    ((Tests.ctxOpt (Tests.exportReq 1) : Ctx).opt.find? (fun z => z.kind == 2 && z.tag == (6 : Nat)) = some (Tests.exportReq 1 : OptReq)) ∧
    ((Tests.ctxOpt (Tests.exportReq 1) : Ctx).begins = true) ∧
    ((exportArgs (Tests.exportReq 1).payload : ExportArgs) = exportArgs (Tests.exportReq 1 : OptReq).payload) ∧
    (((Tests.devOpt Tests.paramNat (Tests.exportReq 1) : State).fenceGate (Tests.ctxOpt (Tests.exportReq 1) : Ctx) (exportArgs (Tests.exportReq 1).payload : ExportArgs).fenceIn (exportArgs (Tests.exportReq 1).payload : ExportArgs).inVal).toOption = some true) ∧
    ((exportArgs (Tests.exportReq 1).payload : ExportArgs).records = 1) ∧
    ((exportArgs (Tests.exportReq 1).payload : ExportArgs).parts = 2) ∧
    ((Tests.ctxOpt (Tests.exportReq 1) : Ctx).policy = none) ∧
    (((Tests.devOpt Tests.paramNat (Tests.exportReq 1) : State).readParams (3 : Nat) [] (exportArgs (Tests.exportReq 1).payload : ExportArgs).table (exportArgs (Tests.exportReq 1).payload : ExportArgs).first 1).2.toOption = some [(Tests.param1 : Param)]) ∧
    ((Tests.ctxOpt (Tests.exportReq 1) : Ctx).heldReads ((Tests.param1 : Param).regions.map (fun g => ({ space := 0, addr := g.1, bytes := g.2.1 } : Region))) = false) ∧
    (PlainRegion (Tests.devOpt Tests.paramNat (Tests.exportReq 1) : State) (Tests.ctxOpt (Tests.exportReq 1) : Ctx) (Tests.param1 : Param).mAddr (2 * (Tests.param1 : Param).count) (0 : Nat) = true) ∧
    (PlainRegion (Tests.devOpt Tests.paramNat (Tests.exportReq 1) : State) (Tests.ctxOpt (Tests.exportReq 1) : Ctx) (exportArgs (Tests.exportReq 1).payload : ExportArgs).dst (128 + 2 * (Tests.param1 : Param).count) (0 : Nat) = true) ∧
    (cellsWf (Tests.devOpt Tests.paramNat (Tests.exportReq 1) : State).mem.cells = true) ∧
    (([0, 0] : Bytes) = readCells (Tests.devOpt Tests.paramNat (Tests.exportReq 1) : State).mem.cells (physAt (0 : Nat) ((Tests.param1 : Param).mAddr % pageSize)) (2 * (Tests.param1 : Param).count)) := by decide +kernel

theorem witness_CheckpointsAreTaken_1 : (Admits ({ Tests.devCkpt 0 with ctxs := [Tests.ctxStore {}] } : State) .ckptConfig (Tests.msg3 64 Tests.ckptPayload : Msg) (Tests.tenant : Session) = true) ∧
    (({ Tests.devCkpt 0 with ctxs := [Tests.ctxStore {}] } : State).ctx? (Tests.msg3 64 Tests.ckptPayload : Msg).ctx = some (Tests.ctxStore {} : Ctx)) ∧
    ((Tests.msg3 64 Tests.ckptPayload : Msg).length = 64) ∧
    ((ckptCfgOf Tests.ckptPayload : CkptCfg) = ckptCfgOf (Tests.msg3 64 Tests.ckptPayload : Msg).payload) ∧
    ((ckptCfgOf Tests.ckptPayload : CkptCfg).rsvd = false) ∧
    ((Tests.ctxStore {} : Ctx).storeBeyond (ckptCfgOf Tests.ckptPayload : CkptCfg) = false) ∧
    ((ckptCfgOf Tests.ckptPayload : CkptCfg).pages % 2 = 0) ∧
    (2 ≤ (ckptCfgOf Tests.ckptPayload : CkptCfg).pages) ∧
    ((ckptCfgOf Tests.ckptPayload : CkptCfg).drainTmo ≠ 0) ∧
    ((ckptCfgOf Tests.ckptPayload : CkptCfg).keySrc = false) ∧
    ((Tests.ctxStore {} : Ctx).ckpt.stage = 0) ∧
    (((({ Tests.devCkpt 0 with ctxs := [Tests.ctxStore {}] } : State).ctxs.filter (fun d => d.id != (Tests.ctxStore {} : Ctx).id)).map (fun d => d.admitted)).sum + (Tests.ctxStore {} : Ctx).limits.localMax + (ckptCfgOf Tests.ckptPayload : CkptCfg).cowMax ≤ ({ Tests.devCkpt 0 with ctxs := [Tests.ctxStore {}] } : State).grantable) := by decide +kernel

theorem witness_CheckpointsAreTaken_2 : (Admits (Tests.devCkpt 0 : State) .ckptNow (Tests.msg3 0 [] : Msg) (Tests.tenant : Session) = true) ∧
    ((Tests.devCkpt 0 : State).ctx? (Tests.msg3 0 [] : Msg).ctx = some (Tests.ctxStore (Tests.ckpt 0) : Ctx)) ∧
    ((Tests.msg3 0 [] : Msg).length = 0) ∧
    ((Tests.ctxStore (Tests.ckpt 0) : Ctx).ckptCfg.enable = true) := by decide +kernel

theorem witness_CheckpointsAreTaken_3 : ((Tests.devCkpt 0 : State).ctx? (3 : Nat) = some (Tests.ctxStore (Tests.ckpt 0) : Ctx)) ∧
    ((Tests.devCkpt 0 : State).alive = true) ∧
    ((Tests.ctxStore (Tests.ckpt 0) : Ctx).ckptCfg.enable = true) ∧
    ((Tests.ctxStore (Tests.ckpt 0) : Ctx).ckptCfg.timerEvery ≠ 0) ∧
    ((Tests.ctxStore (Tests.ckpt 0) : Ctx).ckpt.lastCut + (Tests.ctxStore (Tests.ckpt 0) : Ctx).ckptCfg.timerEvery * 2 ^ 28 ≤ (Tests.devCkpt 0 : State).hub.timer) ∧
    ((Tests.ctxStore (Tests.ckpt 0) : Ctx).res.state ≠ .resetting) := by decide +kernel

theorem witness_CheckpointsAreTaken_4 : ((Tests.devCkpt 1 : State).ctx? (3 : Nat) = some (Tests.ctxStore (Tests.ckpt 1) : Ctx)) ∧
    ((Tests.devCkpt 1 : State).alive = true) ∧
    ((Tests.ctxStore (Tests.ckpt 1) : Ctx).ckpt.stage = 1) ∧
    ((Tests.devCkpt 1 : State).drained (Tests.ctxStore (Tests.ckpt 1) : Ctx) = true) := by decide +kernel

theorem witness_CheckpointsAreTaken_5 : ((Tests.devCkpt 1 : State).ctx? (3 : Nat) = some (Tests.ctxStore (Tests.ckpt 1) : Ctx)) ∧
    ((Tests.devCkpt 1 : State).alive = true) ∧
    ((Tests.ctxStore (Tests.ckpt 1) : Ctx).ckpt.stage = 1) ∧
    ((Tests.ctxStore (Tests.ckpt 1) : Ctx).ckpt.started + (Tests.ctxStore (Tests.ckpt 1) : Ctx).ckptCfg.drainTmo * 2 ^ 20 ≤ (Tests.devCkpt 1 : State).hub.timer) ∧
    ((Tests.ctxStore (Tests.ckpt 1) : Ctx).ring = some ({ addr := 0 } : Ring)) ∧
    (({ addr := 0 } : Ring).others < 16) ∧
    ((Tests.ctxStore (Tests.ckpt 1) : Ctx).res.state ≠ .resetting) ∧
    ((Tests.devCkpt 1 : State).waits.all (fun w => w.what != .ckpt ((Tests.ctxStore (Tests.ckpt 1) : Ctx).ckpt.genNow + 1)) = true) ∧
    ((Tests.devCkpt 1 : State).mem.hbmUse.all (fun u => u.2 != .snapshot (3 : Nat)) = true) := by decide +kernel

theorem witness_CheckpointsAreTaken_6 : ((Tests.devCkpt 2 : State).ctx? (3 : Nat) = some (Tests.ctxStore (Tests.ckpt 2) : Ctx)) ∧
    ((Tests.devCkpt 2 : State).alive = true) ∧
    ((Tests.ctxStore (Tests.ckpt 2) : Ctx).ckpt.stage = 2) ∧
    ((ckptCfgOf Tests.ckptPayload : CkptCfg) = (Tests.ctxStore (Tests.ckpt 2) : Ctx).ckptCfg) ∧
    ((Tests.ctxStore (Tests.ckpt 2) : Ctx).ckpt.torn = false) ∧
    ((Tests.devCkpt 2 : State).mem.hbmUse.all (fun u => u.2 != .snapshot (3 : Nat)) = true) ∧
    ((Tests.ctxStore (Tests.ckpt 2) : Ctx).pages.all (fun p => !p.snap) = true) ∧
    ((Tests.ctxStore (Tests.ckpt 2) : Ctx).ring = some ({ addr := 0 } : Ring)) ∧
    (({ addr := 0 } : Ring).others < 16) ∧
    ((Tests.ctxStore (Tests.ckpt 2) : Ctx).res.state ≠ .resetting) ∧
    ((Tests.devCkpt 2 : State).waits.all (fun w => w.what != .ckpt ((Tests.ctxStore (Tests.ckpt 2) : Ctx).ckpt.genNow + 1)) = true) ∧
    (PlainRegion (Tests.devCkpt 2 : State) (Tests.ctxStore (Tests.ckpt 2) : Ctx) (halfAt (ckptCfgOf Tests.ckptPayload : CkptCfg).va (ckptCfgOf Tests.ckptPayload : CkptCfg).pages (Tests.ctxStore (Tests.ckpt 2) : Ctx).ckpt.half) (halfBytes (ckptCfgOf Tests.ckptPayload : CkptCfg).pages) (1 : Nat) = true) ∧
    ((∀ p ∈ (Tests.ctxStore (Tests.ckpt 2) : Ctx).pages, p.tier ≠ some (1 : Nat) ∧ p.lease ≠ some (1 : Nat) ∧ (p.hbm = some (1 : Nat) → p.va = vpage (halfAt (ckptCfgOf Tests.ckptPayload : CkptCfg).va (ckptCfgOf Tests.ckptPayload : CkptCfg).pages (Tests.ctxStore (Tests.ckpt 2) : Ctx).ckpt.half)))) ∧
    (({ addr := 0 } : Ring).addr + 80 * 2 ^ ({ addr := 0 } : Ring).log2 ≤ halfAt (ckptCfgOf Tests.ckptPayload : CkptCfg).va (ckptCfgOf Tests.ckptPayload : CkptCfg).pages (Tests.ctxStore (Tests.ckpt 2) : Ctx).ckpt.half ∨ halfAt (ckptCfgOf Tests.ckptPayload : CkptCfg).va (ckptCfgOf Tests.ckptPayload : CkptCfg).pages (Tests.ctxStore (Tests.ckpt 2) : Ctx).ckpt.half + halfBytes (ckptCfgOf Tests.ckptPayload : CkptCfg).pages ≤ ({ addr := 0 } : Ring).addr) ∧
    (cellsWf (Tests.devCkpt 2 : State).mem.cells = true) ∧
    ((Tests.ctxStore (Tests.ckpt 2) : Ctx).ckpt.genNow < 2 ^ 64) := by decide +kernel

theorem witness_CheckpointsAreReadBack_1 : (Admits ({ Tests.devCkpt 0 with waits := [] } : State) .ckptVerify ((Tests.msg3 64 (toLe 32 (pageSize * 2 ^ 32 + 2 * 2 ^ 96) ++ List.replicate 32 7)) : Msg) (Tests.tenant : Session) = true) ∧
    (({ Tests.devCkpt 0 with waits := [] } : State).ctx? ((Tests.msg3 64 (toLe 32 (pageSize * 2 ^ 32 + 2 * 2 ^ 96) ++ List.replicate 32 7)) : Msg).ctx = some (Tests.ctxStore (Tests.ckpt 0) : Ctx)) ∧
    (((Tests.msg3 64 (toLe 32 (pageSize * 2 ^ 32 + 2 * 2 ^ 96) ++ List.replicate 32 7)) : Msg).length = 64) ∧
    ((restoreArgs (toLe 32 (pageSize * 2 ^ 32 + 2 * 2 ^ 96) ++ List.replicate 32 7) : RestoreArgs) = restoreArgs ((Tests.msg3 64 (toLe 32 (pageSize * 2 ^ 32 + 2 * 2 ^ 96) ++ List.replicate 32 7)) : Msg).payload) ∧
    ((restoreArgs (toLe 32 (pageSize * 2 ^ 32 + 2 * 2 ^ 96) ++ List.replicate 32 7) : RestoreArgs).rsvd = false) ∧
    ((restoreArgs (toLe 32 (pageSize * 2 ^ 32 + 2 * 2 ^ 96) ++ List.replicate 32 7) : RestoreArgs).form = 0) ∧
    ((restoreArgs (toLe 32 (pageSize * 2 ^ 32 + 2 * 2 ^ 96) ++ List.replicate 32 7) : RestoreArgs).va % pageSize = 0) ∧
    ((Tests.ctxStore (Tests.ckpt 0) : Ctx).mapped (restoreArgs (toLe 32 (pageSize * 2 ^ 32 + 2 * 2 ^ 96) ++ List.replicate 32 7) : RestoreArgs).va ((restoreArgs (toLe 32 (pageSize * 2 ^ 32 + 2 * 2 ^ 96) ++ List.replicate 32 7) : RestoreArgs).pages * pageSize) = true) ∧
    ((restoreArgs (toLe 32 (pageSize * 2 ^ 32 + 2 * 2 ^ 96) ++ List.replicate 32 7) : RestoreArgs).keySrc = false) ∧
    (({ Tests.devCkpt 0 with waits := [] } : State).waits.all (fun w => !(w.session == ((Tests.msg3 64 (toLe 32 (pageSize * 2 ^ 32 + 2 * 2 ^ 96) ++ List.replicate 32 7)) : Msg).session && w.tag == ((Tests.msg3 64 (toLe 32 (pageSize * 2 ^ 32 + 2 * 2 ^ 96) ++ List.replicate 32 7)) : Msg).tag)) = true) := by decide +kernel

theorem witness_CheckpointsAreReadBack_2 : (Admits ({ Tests.devCkpt 0 with waits := [], ctxs := [{ (Tests.ctxStore {}) with res := {}, ring := none }] } : State) .ckptRestore ((Tests.msg3 64 (toLe 32 (pageSize * 2 ^ 32 + 2 * 2 ^ 96) ++ List.replicate 32 7)) : Msg) (Tests.tenant : Session) = true) ∧
    (({ Tests.devCkpt 0 with waits := [], ctxs := [{ (Tests.ctxStore {}) with res := {}, ring := none }] } : State).ctx? ((Tests.msg3 64 (toLe 32 (pageSize * 2 ^ 32 + 2 * 2 ^ 96) ++ List.replicate 32 7)) : Msg).ctx = some ({ (Tests.ctxStore {}) with res := {}, ring := none } : Ctx)) ∧
    (((Tests.msg3 64 (toLe 32 (pageSize * 2 ^ 32 + 2 * 2 ^ 96) ++ List.replicate 32 7)) : Msg).length = 64) ∧
    ((restoreArgs (toLe 32 (pageSize * 2 ^ 32 + 2 * 2 ^ 96) ++ List.replicate 32 7) : RestoreArgs) = restoreArgs ((Tests.msg3 64 (toLe 32 (pageSize * 2 ^ 32 + 2 * 2 ^ 96) ++ List.replicate 32 7)) : Msg).payload) ∧
    ((restoreArgs (toLe 32 (pageSize * 2 ^ 32 + 2 * 2 ^ 96) ++ List.replicate 32 7) : RestoreArgs).rsvd = false) ∧
    ((restoreArgs (toLe 32 (pageSize * 2 ^ 32 + 2 * 2 ^ 96) ++ List.replicate 32 7) : RestoreArgs).form = 0) ∧
    ((restoreArgs (toLe 32 (pageSize * 2 ^ 32 + 2 * 2 ^ 96) ++ List.replicate 32 7) : RestoreArgs).va % pageSize = 0) ∧
    (({ (Tests.ctxStore {}) with res := {}, ring := none } : Ctx).mapped (restoreArgs (toLe 32 (pageSize * 2 ^ 32 + 2 * 2 ^ 96) ++ List.replicate 32 7) : RestoreArgs).va ((restoreArgs (toLe 32 (pageSize * 2 ^ 32 + 2 * 2 ^ 96) ++ List.replicate 32 7) : RestoreArgs).pages * pageSize) = true) ∧
    ((restoreArgs (toLe 32 (pageSize * 2 ^ 32 + 2 * 2 ^ 96) ++ List.replicate 32 7) : RestoreArgs).keySrc = false) ∧
    (({ (Tests.ctxStore {}) with res := {}, ring := none } : Ctx).ring = none) ∧
    (({ (Tests.ctxStore {}) with res := {}, ring := none } : Ctx).queues = []) ∧
    (({ (Tests.ctxStore {}) with res := {}, ring := none } : Ctx).pages.all (({ (Tests.ctxStore {}) with res := {}, ring := none } : Ctx).mayPrecede (restoreArgs (toLe 32 (pageSize * 2 ^ 32 + 2 * 2 ^ 96) ++ List.replicate 32 7) : RestoreArgs)) = true) ∧
    (({ (Tests.ctxStore {}) with res := {}, ring := none } : Ctx).consortium = false) ∧
    (({ Tests.devCkpt 0 with waits := [], ctxs := [{ (Tests.ctxStore {}) with res := {}, ring := none }] } : State).waits.all (fun w => !(w.session == ((Tests.msg3 64 (toLe 32 (pageSize * 2 ^ 32 + 2 * 2 ^ 96) ++ List.replicate 32 7)) : Msg).session && w.tag == ((Tests.msg3 64 (toLe 32 (pageSize * 2 ^ 32 + 2 * 2 ^ 96) ++ List.replicate 32 7)) : Msg).tag)) = true) := by decide +kernel

theorem witness_CheckpointsAreReadBack_3 : (Admits ({ Tests.devCkpt 0 with waits := [] } : State) .ckptRestore ((Tests.msg3 64 (toLe 32 (1 + pageSize * 2 ^ 32 + 2 * 2 ^ 96 + pageSize * 2 ^ 128) ++ List.replicate 32 7)) : Msg) (Tests.tenant : Session) = true) ∧
    (({ Tests.devCkpt 0 with waits := [] } : State).ctx? ((Tests.msg3 64 (toLe 32 (1 + pageSize * 2 ^ 32 + 2 * 2 ^ 96 + pageSize * 2 ^ 128) ++ List.replicate 32 7)) : Msg).ctx = some (Tests.ctxStore (Tests.ckpt 0) : Ctx)) ∧
    (((Tests.msg3 64 (toLe 32 (1 + pageSize * 2 ^ 32 + 2 * 2 ^ 96 + pageSize * 2 ^ 128) ++ List.replicate 32 7)) : Msg).length = 64) ∧
    ((restoreArgs (toLe 32 (1 + pageSize * 2 ^ 32 + 2 * 2 ^ 96 + pageSize * 2 ^ 128) ++ List.replicate 32 7) : RestoreArgs) = restoreArgs ((Tests.msg3 64 (toLe 32 (1 + pageSize * 2 ^ 32 + 2 * 2 ^ 96 + pageSize * 2 ^ 128) ++ List.replicate 32 7)) : Msg).payload) ∧
    ((restoreArgs (toLe 32 (1 + pageSize * 2 ^ 32 + 2 * 2 ^ 96 + pageSize * 2 ^ 128) ++ List.replicate 32 7) : RestoreArgs).rsvd = false) ∧
    ((restoreArgs (toLe 32 (1 + pageSize * 2 ^ 32 + 2 * 2 ^ 96 + pageSize * 2 ^ 128) ++ List.replicate 32 7) : RestoreArgs).form = 1) ∧
    ((restoreArgs (toLe 32 (1 + pageSize * 2 ^ 32 + 2 * 2 ^ 96 + pageSize * 2 ^ 128) ++ List.replicate 32 7) : RestoreArgs).va % pageSize = 0) ∧
    ((Tests.ctxStore (Tests.ckpt 0) : Ctx).mapped (restoreArgs (toLe 32 (1 + pageSize * 2 ^ 32 + 2 * 2 ^ 96 + pageSize * 2 ^ 128) ++ List.replicate 32 7) : RestoreArgs).va ((restoreArgs (toLe 32 (1 + pageSize * 2 ^ 32 + 2 * 2 ^ 96 + pageSize * 2 ^ 128) ++ List.replicate 32 7) : RestoreArgs).pages * pageSize) = true) ∧
    ((restoreArgs (toLe 32 (1 + pageSize * 2 ^ 32 + 2 * 2 ^ 96 + pageSize * 2 ^ 128) ++ List.replicate 32 7) : RestoreArgs).keySrc = false) ∧
    ((Tests.ctxStore (Tests.ckpt 0) : Ctx).ring.isSome = true) ∧
    ((Tests.tenant : Session).has fReslice = true) ∧
    ((Tests.ctxStore (Tests.ckpt 0) : Ctx).mapped (recordAt (restoreArgs (toLe 32 (1 + pageSize * 2 ^ 32 + 2 * 2 ^ 96 + pageSize * 2 ^ 128) ++ List.replicate 32 7) : RestoreArgs).table (restoreArgs (toLe 32 (1 + pageSize * 2 ^ 32 + 2 * 2 ^ 96 + pageSize * 2 ^ 128) ++ List.replicate 32 7) : RestoreArgs).first) (128 * (restoreArgs (toLe 32 (1 + pageSize * 2 ^ 32 + 2 * 2 ^ 96 + pageSize * 2 ^ 128) ++ List.replicate 32 7) : RestoreArgs).records) = true) ∧
    (((Pended ({ Tests.devCkpt 0 with waits := [] } : State) (Tests.tenant : Session) .ckptRestore ((Tests.msg3 64 (toLe 32 (1 + pageSize * 2 ^ 32 + 2 * 2 ^ 96 + pageSize * 2 ^ 128) ++ List.replicate 32 7)) : Msg) (.ckptRead (((Tests.msg3 64 (toLe 32 (1 + pageSize * 2 ^ 32 + 2 * 2 ^ 96 + pageSize * 2 ^ 128) ++ List.replicate 32 7)) : Msg).payload.take 64))).resliceTargets (Tests.ctxStore (Tests.ckpt 0) : Ctx) (restoreArgs (toLe 32 (1 + pageSize * 2 ^ 32 + 2 * 2 ^ 96 + pageSize * 2 ^ 128) ++ List.replicate 32 7) : RestoreArgs) []).2.toOption = some ([] : List Param)) ∧
    (({ Tests.devCkpt 0 with waits := [] } : State).waits.all (fun w => !(w.session == ((Tests.msg3 64 (toLe 32 (1 + pageSize * 2 ^ 32 + 2 * 2 ^ 96 + pageSize * 2 ^ 128) ++ List.replicate 32 7)) : Msg).session && w.tag == ((Tests.msg3 64 (toLe 32 (1 + pageSize * 2 ^ 32 + 2 * 2 ^ 96 + pageSize * 2 ^ 128) ++ List.replicate 32 7)) : Msg).tag)) = true) := by decide +kernel

theorem witness_ConsortiumRequestsBindAndRelease_1 : (Admits ({ Tests.devCons none with ctxs := [Tests.ctxCoord] } : State) .policyLoad (Tests.policyMsg : Msg) (Tests.tenant : Session) = true) ∧
    (({ Tests.devCons none with ctxs := [Tests.ctxCoord] } : State).ctx? (Tests.policyMsg : Msg).ctx = some (Tests.ctxCoord : Ctx)) ∧
    ((Tests.policyMsg.payload : Bytes) = (Tests.policyMsg : Msg).payload) ∧
    ((policyDoc Tests.policyMsg.payload : PolicyDoc) = policyDoc (Tests.policyMsg.payload : Bytes)) ∧
    (((policyDoc Tests.policyMsg.payload).policy Tests.policyMsg.payload : Policy) = (policyDoc Tests.policyMsg.payload : PolicyDoc).policy (Tests.policyMsg.payload : Bytes)) ∧
    (((({ Tests.devCons none with ctxs := [Tests.ctxCoord] } : State).takeMail .policyLoad Tests.policyMsg) : State) = ({ Tests.devCons none with ctxs := [Tests.ctxCoord] } : State).takeMail .policyLoad (Tests.policyMsg : Msg)) ∧
    ((Tests.policyMsg : Msg).length = (policyDoc Tests.policyMsg.payload : PolicyDoc).bytes) ∧
    ((policyDoc Tests.policyMsg.payload : PolicyDoc).reserved (Tests.policyMsg.payload : Bytes) = false) ∧
    (policyDenied (Tests.ctxCoord : Ctx) (Tests.policyMsg.payload : Bytes) (policyDoc Tests.policyMsg.payload : PolicyDoc) ((policyDoc Tests.policyMsg.payload).policy Tests.policyMsg.payload : Policy) = false) ∧
    (templatesDenied ((policyDoc Tests.policyMsg.payload).policy Tests.policyMsg.payload : Policy) = false) ∧
    (((policyDoc Tests.policyMsg.payload).policy Tests.policyMsg.payload : Policy).templates.all (fun z => z.2.1 % 128 == 0) = true) ∧
    (((policyDoc Tests.policyMsg.payload).policy Tests.policyMsg.payload : Policy).ranges.all (fun r => r.1 % pageSize == 0 && (Tests.ctxCoord : Ctx).mapped r.1 r.2) = true) ∧
    ((((({ Tests.devCons none with ctxs := [Tests.ctxCoord] } : State).takeMail .policyLoad Tests.policyMsg) : State).readV (Tests.ctxCoord : Ctx).id none [] ((policyDoc Tests.policyMsg.payload).policy Tests.policyMsg.payload : Policy).progAddr (((policyDoc Tests.policyMsg.payload).policy Tests.policyMsg.payload : Policy).progPages * pageSize)).1 = (((({ Tests.devCons none with ctxs := [Tests.ctxCoord] } : State).takeMail .policyLoad Tests.policyMsg).readV 3 none [] 0 0).1 : State)) ∧
    ((((({ Tests.devCons none with ctxs := [Tests.ctxCoord] } : State).takeMail .policyLoad Tests.policyMsg) : State).readV (Tests.ctxCoord : Ctx).id none [] ((policyDoc Tests.policyMsg.payload).policy Tests.policyMsg.payload : Policy).progAddr (((policyDoc Tests.policyMsg.payload).policy Tests.policyMsg.payload : Policy).progPages * pageSize)).2.toOption = some ([] : Bytes)) ∧
    (shake256 ([] : Bytes) 64 = slice (Tests.policyMsg.payload : Bytes) 24 64) ∧
    ((((({ Tests.devCons none with ctxs := [Tests.ctxCoord] } : State).takeMail .policyLoad Tests.policyMsg).readV 3 none [] 0 0).1 : State).policySigned (Tests.policyMsg.payload : Bytes) (policyDoc Tests.policyMsg.payload : PolicyDoc) ((policyDoc Tests.policyMsg.payload).policy Tests.policyMsg.payload : Policy) = true) := by
  refine ⟨by decide +kernel, by decide +kernel, rfl, rfl, rfl, rfl, by decide +kernel, by decide +kernel, by decide +kernel, by decide +kernel, by decide +kernel, by decide +kernel, rfl, by decide +kernel, by decide +kernel, ?_⟩
  have h : List.zip (List.range (policyDoc Tests.policyMsg.payload).owners) ((policyDoc Tests.policyMsg.payload).policy Tests.policyMsg.payload).owners =
      [(0, List.replicate 57 1), (1, List.replicate 57 2)] := by decide +kernel
  rw [State.policySigned, h]
  simp only [List.all_cons, List.all_nil, Bool.and_true, Bool.and_eq_true, State.verifies, Bool.or_eq_true]
  exact ⟨Or.inl (by decide +kernel), Or.inl (by decide +kernel)⟩

theorem witness_ConsortiumRequestsBindAndRelease_2 : (Admits (Tests.devCons (some Tests.pol) : State) .ownerJoin (Tests.msg3 128 (toLe 8 1 ++ List.replicate 114 5 ++ List.replicate 6 0) : Msg) (Tests.tenant : Session) = true) ∧
    ((Tests.devCons (some Tests.pol) : State).ctx? (Tests.msg3 128 (toLe 8 1 ++ List.replicate 114 5 ++ List.replicate 6 0) : Msg).ctx = some (Tests.ctxCons (some Tests.pol) : Ctx)) ∧
    ((Tests.msg3 128 (toLe 8 1 ++ List.replicate 114 5 ++ List.replicate 6 0) : Msg).length = 128) ∧
    (allZero (slice (Tests.msg3 128 (toLe 8 1 ++ List.replicate 114 5 ++ List.replicate 6 0) : Msg).payload 1 7) = true) ∧
    (allZero (slice (Tests.msg3 128 (toLe 8 1 ++ List.replicate 114 5 ++ List.replicate 6 0) : Msg).payload 122 6) = true) ∧
    ((Tests.ctxCons (some Tests.pol) : Ctx).policy = some (Tests.pol : Policy)) ∧
    ((1 : Nat) = ofLe (slice (Tests.msg3 128 (toLe 8 1 ++ List.replicate 114 5 ++ List.replicate 6 0) : Msg).payload 0 1)) ∧
    ((1 : Nat) < (Tests.pol : Policy).nOwners) ∧
    ((Tests.devCons (some Tests.pol) : State).indexJoined (Tests.ctxCons (some Tests.pol) : Ctx) (1 : Nat) = false) ∧
    ((Tests.tenant : Session).owns (Tests.ctxCons (some Tests.pol) : Ctx) = false) ∧
    ((Tests.devCons (some Tests.pol) : State).verifies ((Tests.pol : Policy).owners.getD (1 : Nat) []) (shake256 ((Tests.tenant : Session).transcript ++ (Tests.pol : Policy).hash ++ ascii "owner join") 64) (slice (Tests.msg3 128 (toLe 8 1 ++ List.replicate 114 5 ++ List.replicate 6 0) : Msg).payload 8 114) = true) := by
  refine ⟨by decide +kernel, by decide +kernel, by decide +kernel, by decide +kernel, by decide +kernel, by decide +kernel, by decide +kernel, by decide +kernel, by decide +kernel, by decide +kernel, ?_⟩
  rw [State.verifies, Bool.or_eq_true]
  exact Or.inl (by decide +kernel)

theorem witness_ConsortiumRequestsBindAndRelease_3 : (Admits (Tests.devCons (some Tests.pol) : State) .release (Tests.relMsg 0 1 : Msg) (Tests.tenant : Session) = true) ∧
    ((Tests.devCons (some Tests.pol) : State).ctx? (Tests.relMsg 0 1 : Msg).ctx = some (Tests.ctxCons (some Tests.pol) : Ctx)) ∧
    ((Tests.relMsg 0 1 : Msg).length = 16) ∧
    (anySet (ofLe (slice (Tests.relMsg 0 1 : Msg).payload 0 16)) 31 2 = false) ∧
    (anySet (ofLe (slice (Tests.relMsg 0 1 : Msg).payload 0 16)) 127 64 = false) ∧
    ((Tests.ctxCons (some Tests.pol) : Ctx).policy = some (Tests.pol : Policy)) ∧
    (field (ofLe (slice (Tests.relMsg 0 1 : Msg).payload 0 16)) 1 0 = 0) ∧
    ((Tests.pol : Policy).proposal = none) ∧
    (field (ofLe (slice (Tests.relMsg 0 1 : Msg).payload 0 16)) 63 32 = (Tests.pol : Policy).release) ∧
    ((((Tests.devCons (some Tests.pol)).takeMail .release (Tests.relMsg 0 1)) : State) = (Tests.devCons (some Tests.pol) : State).takeMail .release (Tests.relMsg 0 1 : Msg)) ∧
    (((((Tests.devCons (some Tests.pol)).takeMail .release (Tests.relMsg 0 1)) : State).readReleases (Tests.ctxCons (some Tests.pol) : Ctx).id (Tests.pol : Policy)).1 = ((((Tests.devCons (some Tests.pol)).takeMail .release (Tests.relMsg 0 1)).readReleases 3 Tests.pol).1 : State)) ∧
    (((((Tests.devCons (some Tests.pol)).takeMail .release (Tests.relMsg 0 1)) : State).readReleases (Tests.ctxCons (some Tests.pol) : Ctx).id (Tests.pol : Policy)).2.toOption = some ([] : Bytes)) := by decide +kernel

theorem witness_ConsortiumRequestsBindAndRelease_4 : (Admits (Tests.devCons (some { Tests.pol with proposal := some 77, quorum := 2 }) : State) .quorumSign (Tests.msg3 128 (toLe 8 1 ++ List.replicate 114 5 ++ List.replicate 6 0) : Msg) (Tests.tenant : Session) = true) ∧
    ((Tests.devCons (some { Tests.pol with proposal := some 77, quorum := 2 }) : State).ctx? (Tests.msg3 128 (toLe 8 1 ++ List.replicate 114 5 ++ List.replicate 6 0) : Msg).ctx = some (Tests.ctxCons (some { Tests.pol with proposal := some 77, quorum := 2 }) : Ctx)) ∧
    ((Tests.msg3 128 (toLe 8 1 ++ List.replicate 114 5 ++ List.replicate 6 0) : Msg).length = 128) ∧
    (allZero (slice (Tests.msg3 128 (toLe 8 1 ++ List.replicate 114 5 ++ List.replicate 6 0) : Msg).payload 4 4) = true) ∧
    (allZero (slice (Tests.msg3 128 (toLe 8 1 ++ List.replicate 114 5 ++ List.replicate 6 0) : Msg).payload 122 6) = true) ∧
    ((Tests.ctxCons (some { Tests.pol with proposal := some 77, quorum := 2 }) : Ctx).policy = some ({ Tests.pol with proposal := some 77, quorum := 2 } : Policy)) ∧
    (({ Tests.pol with proposal := some 77, quorum := 2 } : Policy).proposal = some (77 : Nat)) ∧
    (ofLe (slice (Tests.msg3 128 (toLe 8 1 ++ List.replicate 114 5 ++ List.replicate 6 0) : Msg).payload 0 4) = ({ Tests.pol with proposal := some 77, quorum := 2 } : Policy).release) ∧
    ((0 : Nat) ∈ (Tests.tenant : Session).joinedAs (Tests.ctxCons (some { Tests.pol with proposal := some 77, quorum := 2 }) : Ctx)) ∧
    (((Tests.tenant : Session).joinedAs (Tests.ctxCons (some { Tests.pol with proposal := some 77, quorum := 2 }) : Ctx)).length = 1) ∧
    ((Tests.devCons (some { Tests.pol with proposal := some 77, quorum := 2 }) : State).verifies (({ Tests.pol with proposal := some 77, quorum := 2 } : Policy).owners.getD (0 : Nat) []) (shake256 (({ Tests.pol with proposal := some 77, quorum := 2 } : Policy).hash ++ toLe 4 ({ Tests.pol with proposal := some 77, quorum := 2 } : Policy).release ++ toLe 8 (77 : Nat) ++ ascii "release") 64) (slice (Tests.msg3 128 (toLe 8 1 ++ List.replicate 114 5 ++ List.replicate 6 0) : Msg).payload 8 114) = true) ∧
    (([0] : List Nat) = (if ({ Tests.pol with proposal := some 77, quorum := 2 } : Policy).signed.contains (0 : Nat) then ({ Tests.pol with proposal := some 77, quorum := 2 } : Policy).signed else ({ Tests.pol with proposal := some 77, quorum := 2 } : Policy).signed ++ [(0 : Nat)])) ∧
    (([0] : List Nat).length < ({ Tests.pol with proposal := some 77, quorum := 2 } : Policy).quorum) := by
  refine ⟨by decide +kernel, by decide +kernel, by decide +kernel, by decide +kernel, by decide +kernel, by decide +kernel, by decide +kernel, by decide +kernel, by decide +kernel, by decide +kernel, ?_, by decide +kernel, by decide +kernel⟩
  rw [State.verifies, Bool.or_eq_true]
  exact Or.inl (by decide +kernel)

theorem witness_ConsortiumRequestsBindAndRelease_5 : (Admits (Tests.devCons (some { Tests.pol with proposal := some 77 }) : State) .quorumSign (Tests.msg3 128 (toLe 8 1 ++ List.replicate 114 5 ++ List.replicate 6 0) : Msg) (Tests.tenant : Session) = true) ∧
    ((Tests.devCons (some { Tests.pol with proposal := some 77 }) : State).ctx? (Tests.msg3 128 (toLe 8 1 ++ List.replicate 114 5 ++ List.replicate 6 0) : Msg).ctx = some (Tests.ctxCons (some { Tests.pol with proposal := some 77 }) : Ctx)) ∧
    ((Tests.msg3 128 (toLe 8 1 ++ List.replicate 114 5 ++ List.replicate 6 0) : Msg).length = 128) ∧
    (allZero (slice (Tests.msg3 128 (toLe 8 1 ++ List.replicate 114 5 ++ List.replicate 6 0) : Msg).payload 4 4) = true) ∧
    (allZero (slice (Tests.msg3 128 (toLe 8 1 ++ List.replicate 114 5 ++ List.replicate 6 0) : Msg).payload 122 6) = true) ∧
    ((Tests.ctxCons (some { Tests.pol with proposal := some 77 }) : Ctx).policy = some ({ Tests.pol with proposal := some 77 } : Policy)) ∧
    (({ Tests.pol with proposal := some 77 } : Policy).proposal = some (77 : Nat)) ∧
    (ofLe (slice (Tests.msg3 128 (toLe 8 1 ++ List.replicate 114 5 ++ List.replicate 6 0) : Msg).payload 0 4) = ({ Tests.pol with proposal := some 77 } : Policy).release) ∧
    ((0 : Nat) ∈ (Tests.tenant : Session).joinedAs (Tests.ctxCons (some { Tests.pol with proposal := some 77 }) : Ctx)) ∧
    (((Tests.tenant : Session).joinedAs (Tests.ctxCons (some { Tests.pol with proposal := some 77 }) : Ctx)).length = 1) ∧
    ((Tests.devCons (some { Tests.pol with proposal := some 77 }) : State).verifies (({ Tests.pol with proposal := some 77 } : Policy).owners.getD (0 : Nat) []) (shake256 (({ Tests.pol with proposal := some 77 } : Policy).hash ++ toLe 4 ({ Tests.pol with proposal := some 77 } : Policy).release ++ toLe 8 (77 : Nat) ++ ascii "release") 64) (slice (Tests.msg3 128 (toLe 8 1 ++ List.replicate 114 5 ++ List.replicate 6 0) : Msg).payload 8 114) = true) ∧
    (([0] : List Nat) = (if ({ Tests.pol with proposal := some 77 } : Policy).signed.contains (0 : Nat) then ({ Tests.pol with proposal := some 77 } : Policy).signed else ({ Tests.pol with proposal := some 77 } : Policy).signed ++ [(0 : Nat)])) ∧
    (({ Tests.pol with proposal := some 77 } : Policy).quorum ≤ ([0] : List Nat).length) ∧
    ((Tests.devCons (some { Tests.pol with proposal := some 77 }) : State).links.insts.all (fun k => k.ctx != (Tests.ctxCons (some { Tests.pol with proposal := some 77 }) : Ctx).id) = true) := by
  refine ⟨by decide +kernel, by decide +kernel, by decide +kernel, by decide +kernel, by decide +kernel, by decide +kernel, by decide +kernel, by decide +kernel, by decide +kernel, by decide +kernel, ?_, by decide +kernel, by decide +kernel⟩
  rw [State.verifies, Bool.or_eq_true]
  exact Or.inl (by decide +kernel)

theorem witness_ConsortiumRequestsBindAndRelease_6 : (Admits (Tests.devCons (some { Tests.pol with released := [1], release := 2 }) : State) .release (Tests.relMsg 1 1 : Msg) (Tests.tenant : Session) = true) ∧
    ((Tests.devCons (some { Tests.pol with released := [1], release := 2 }) : State).ctx? (Tests.relMsg 1 1 : Msg).ctx = some (Tests.ctxCons (some { Tests.pol with released := [1], release := 2 }) : Ctx)) ∧
    ((Tests.relMsg 1 1 : Msg).length = 16) ∧
    (anySet (ofLe (slice (Tests.relMsg 1 1 : Msg).payload 0 16)) 31 2 = false) ∧
    (anySet (ofLe (slice (Tests.relMsg 1 1 : Msg).payload 0 16)) 127 64 = false) ∧
    ((Tests.ctxCons (some { Tests.pol with released := [1], release := 2 }) : Ctx).policy = some ({ Tests.pol with released := [1], release := 2 } : Policy)) ∧
    (field (ofLe (slice (Tests.relMsg 1 1 : Msg).payload 0 16)) 1 0 = 1) ∧
    (field (ofLe (slice (Tests.relMsg 1 1 : Msg).payload 0 16)) 63 32 ∈ ({ Tests.pol with released := [1], release := 2 } : Policy).released.take 16) := by decide +kernel

theorem witness_ConsortiumRequestsBindAndRelease_7 : (Admits (Tests.devCons (some { Tests.pol with proposal := some 77 }) : State) .release (Tests.relMsg 2 1 : Msg) (Tests.tenant : Session) = true) ∧
    ((Tests.devCons (some { Tests.pol with proposal := some 77 }) : State).ctx? (Tests.relMsg 2 1 : Msg).ctx = some (Tests.ctxCons (some { Tests.pol with proposal := some 77 }) : Ctx)) ∧
    ((Tests.relMsg 2 1 : Msg).length = 16) ∧
    (anySet (ofLe (slice (Tests.relMsg 2 1 : Msg).payload 0 16)) 31 2 = false) ∧
    (anySet (ofLe (slice (Tests.relMsg 2 1 : Msg).payload 0 16)) 127 64 = false) ∧
    ((Tests.ctxCons (some { Tests.pol with proposal := some 77 }) : Ctx).policy = some ({ Tests.pol with proposal := some 77 } : Policy)) ∧
    (field (ofLe (slice (Tests.relMsg 2 1 : Msg).payload 0 16)) 1 0 = 2) ∧
    (({ Tests.pol with proposal := some 77 } : Policy).proposal.isSome = true) ∧
    ((Tests.devCons (some { Tests.pol with proposal := some 77 }) : State).links.insts.all (fun k => k.ctx != (Tests.ctxCons (some { Tests.pol with proposal := some 77 }) : Ctx).id) = true) := by decide +kernel

theorem witness_CoresAreTestedAndScrubbed_1 : ((Tests.dev : State).alive = true) ∧
    ((0 : Nat) < 96) ∧
    ((3 : Nat) < (if (false : Bool) then 2 ^ 23 else 2 ^ 19)) ∧
    (((false : Bool) = true ∨ (Tests.dev : State).scratchServes (0 : Nat) = true)) ∧
    ((Tests.dev : State).mem.badRows (Tests.dev : State).hub.timer = []) := by decide +kernel

theorem witness_CoresAreTestedAndScrubbed_2 : (({ Tests.dev with cores := [{}, { status := .fenced }] } : State).scratchServes (1 : Nat) = false) := by decide +kernel

theorem witness_CoresAreTestedAndScrubbed_3 : ((Tests.devTest {} {} : State).alive = true) ∧
    ((Tests.devTest {} {} : State).core? (0 : Nat) = some ({} : Core)) ∧
    ((Tests.devTest {} {} : State).mayTest (0 : Nat) = true) := by decide +kernel

theorem witness_CoresAreTestedAndScrubbed_4 : ((Tests.devTest { confirmed := some [1, 2, 3, 4, 5] } { underTest := true } : State).alive = true) ∧
    ((Tests.devTest { confirmed := some [1, 2, 3, 4, 5] } { underTest := true } : State).core? (0 : Nat) = some ({ underTest := true } : Core)) ∧
    (({ underTest := true } : Core).underTest = true) ∧
    (({ underTest := true } : Core).status = .active) ∧
    ((Tests.devTest { confirmed := some [1, 2, 3, 4, 5] } { underTest := true } : State).test.confirmed = some ([1, 2, 3, 4, 5] : List Nat)) ∧
    ((Tests.devTest { confirmed := some [1, 2, 3, 4, 5] } { underTest := true } : State).test.sparing = []) ∧
    (({ tallies := [1, 2, 3, 4, 5] } : TestResult).tallies = ([1, 2, 3, 4, 5] : List Nat)) ∧
    (({ tallies := [1, 2, 3, 4, 5] } : TestResult).march = true) ∧
    (({ tallies := [1, 2, 3, 4, 5] } : TestResult).checker = true) ∧
    ((Tests.devTest { confirmed := some [1, 2, 3, 4, 5] } { underTest := true } : State).test.ran.length + 2 ≤ ((List.range 96).filter (fun k => ((Tests.devTest { confirmed := some [1, 2, 3, 4, 5] } { underTest := true } : State).core? k).any (fun d => d.status == .active || d.status == .spare))).length) := by decide +kernel

theorem witness_CoresAreTestedAndScrubbed_5 : ((Tests.devTest { confirmed := some [1, 2, 3, 4, 5] } { underTest := true } : State).alive = true) ∧
    ((Tests.devTest { confirmed := some [1, 2, 3, 4, 5] } { underTest := true } : State).core? (0 : Nat) = some ({ underTest := true } : Core)) ∧
    (({ underTest := true } : Core).underTest = true) ∧
    (({ underTest := true } : Core).status = .active) ∧
    ((Tests.devTest { confirmed := some [1, 2, 3, 4, 5] } { underTest := true } : State).test.confirmed = some ([1, 2, 3, 4, 5] : List Nat)) ∧
    ((Tests.devTest { confirmed := some [1, 2, 3, 4, 5] } { underTest := true } : State).test.sparing = []) ∧
    ((({ tallies := [1, 2, 3, 9, 5] } : TestResult).tallies ≠ ([1, 2, 3, 4, 5] : List Nat) ∨ ({ tallies := [1, 2, 3, 9, 5] } : TestResult).march = false ∨ ({ tallies := [1, 2, 3, 9, 5] } : TestResult).checker = false)) ∧
    ((Tests.devTest { confirmed := some [1, 2, 3, 4, 5] } { underTest := true } : State).otp.repair.length < 1024) := by decide +kernel

theorem witness_CoresAreTestedAndScrubbed_6 : ((Tests.devTest {} {} : State).alive = true) ∧
    ((Tests.devTest {} {} : State).core? (0 : Nat) = some ({} : Core)) ∧
    ((Tests.devTest {} {} : State).test.force = true) ∧
    (({} : Core).status = .active ∨ ({} : Core).status = .spare) ∧
    ((Tests.devTest {} {} : State).homes (0 : Nat) = 0) ∧
    (({} : Core).lastTest + 2 ^ ((Tests.devTest {} {} : State).test.intervalLog2 + 2) ≤ (Tests.devTest {} {} : State).hub.timer) := by decide +kernel

theorem witness_CoresAreTestedAndScrubbed_7 : (Admits (Tests.dev : State) .testConfig ({ tag := 5, length := 32, payload := toLe 32 (33 * 2 ^ 8) } : Msg) (Tests.mgmt : Session) = true) ∧
    (({ tag := 5, length := 32, payload := toLe 32 (33 * 2 ^ 8) } : Msg).length = 32) ∧
    ((33 * 2 ^ 8 : Nat) = ofLe (slice ({ tag := 5, length := 32, payload := toLe 32 (33 * 2 ^ 8) } : Msg).payload 0 32)) ∧
    (field (33 * 2 ^ 8 : Nat) 1 0 = 0) ∧
    ((Tests.mgmt : Session).role = .management) ∧
    ((anySet (33 * 2 ^ 8 : Nat) 7 2 || anySet (33 * 2 ^ 8 : Nat) 31 15 || anySet (33 * 2 ^ 8 : Nat) 255 32) = false) ∧
    (30 ≤ field (33 * 2 ^ 8 : Nat) 13 8) ∧
    (field (33 * 2 ^ 8 : Nat) 13 8 ≤ 44) := by decide +kernel

theorem witness_CoresAreTestedAndScrubbed_8 : (Admits ({ Tests.devPaged with links := Tests.plane [Tests.groupOne] [] } : State) .testConfig (Tests.msg3 32 (toLe 32 (1 + 5 * 2 ^ 32 + 7 * 2 ^ 64 + 2 ^ 80 + 2 * 2 ^ 184)) : Msg) (Tests.tenant : Session) = true) ∧
    ((Tests.msg3 32 (toLe 32 (1 + 5 * 2 ^ 32 + 7 * 2 ^ 64 + 2 ^ 80 + 2 * 2 ^ 184)) : Msg).length = 32) ∧
    (((1 + 5 * 2 ^ 32 + 7 * 2 ^ 64 + 2 ^ 80 + 2 * 2 ^ 184) : Nat) = ofLe (slice (Tests.msg3 32 (toLe 32 (1 + 5 * 2 ^ 32 + 7 * 2 ^ 64 + 2 ^ 80 + 2 * 2 ^ 184)) : Msg).payload 0 32)) ∧
    (field ((1 + 5 * 2 ^ 32 + 7 * 2 ^ 64 + 2 ^ 80 + 2 * 2 ^ 184) : Nat) 1 0 = 1) ∧
    ((anySet ((1 + 5 * 2 ^ 32 + 7 * 2 ^ 64 + 2 ^ 80 + 2 * 2 ^ 184) : Nat) 7 2 || anySet ((1 + 5 * 2 ^ 32 + 7 * 2 ^ 64 + 2 ^ 80 + 2 * 2 ^ 184) : Nat) 14 8 || anySet ((1 + 5 * 2 ^ 32 + 7 * 2 ^ 64 + 2 ^ 80 + 2 * 2 ^ 184) : Nat) 31 15 || anySet ((1 + 5 * 2 ^ 32 + 7 * 2 ^ 64 + 2 ^ 80 + 2 * 2 ^ 184) : Nat) 95 88 || anySet ((1 + 5 * 2 ^ 32 + 7 * 2 ^ 64 + 2 ^ 80 + 2 * 2 ^ 184) : Nat) 159 144 || anySet ((1 + 5 * 2 ^ 32 + 7 * 2 ^ 64 + 2 ^ 80 + 2 * 2 ^ 184) : Nat) 255 208) = false) ∧
    (({ Tests.devPaged with links := Tests.plane [Tests.groupOne] [] } : State).ctxs.find? (fun d => d.id == (Tests.msg3 32 (toLe 32 (1 + 5 * 2 ^ 32 + 7 * 2 ^ 64 + 2 ^ 80 + 2 * 2 ^ 184)) : Msg).ctx && d.gen == (Tests.msg3 32 (toLe 32 (1 + 5 * 2 ^ 32 + 7 * 2 ^ 64 + 2 ^ 80 + 2 * 2 ^ 184)) : Msg).ctxGen && (Tests.msg3 32 (toLe 32 (1 + 5 * 2 ^ 32 + 7 * 2 ^ 64 + 2 ^ 80 + 2 * 2 ^ 184)) : Msg).ctxGen != 0) = some (Tests.ctxPaged : Ctx)) ∧
    ((Tests.tenant : Session).owns (Tests.ctxPaged : Ctx) = true) ∧
    (field ((1 + 5 * 2 ^ 32 + 7 * 2 ^ 64 + 2 ^ 80 + 2 * 2 ^ 184) : Nat) 143 96 % 64 = 0) ∧
    ((Tests.ctxPaged : Ctx).mapped (field ((1 + 5 * 2 ^ 32 + 7 * 2 ^ 64 + 2 ^ 80 + 2 * 2 ^ 184) : Nat) 143 96 + 128 * field ((1 + 5 * 2 ^ 32 + 7 * 2 ^ 64 + 2 ^ 80 + 2 * 2 ^ 184) : Nat) 183 160) (128 * field ((1 + 5 * 2 ^ 32 + 7 * 2 ^ 64 + 2 ^ 80 + 2 * 2 ^ 184) : Nat) 207 184) = true) ∧
    (((({ Tests.devPaged with links := Tests.plane [Tests.groupOne] [] } : State).takeMail .testConfig (Tests.msg3 32 (toLe 32 (1 + 5 * 2 ^ 32 + 7 * 2 ^ 64 + 2 ^ 80 + 2 * 2 ^ 184)) : Msg)).readV (Tests.msg3 32 (toLe 32 (1 + 5 * 2 ^ 32 + 7 * 2 ^ 64 + 2 ^ 80 + 2 * 2 ^ 184)) : Msg).ctx none ([] : List Upset) (field ((1 + 5 * 2 ^ 32 + 7 * 2 ^ 64 + 2 ^ 80 + 2 * 2 ^ 184) : Nat) 143 96 + 128 * field ((1 + 5 * 2 ^ 32 + 7 * 2 ^ 64 + 2 ^ 80 + 2 * 2 ^ 184) : Nat) 183 160) (128 * field ((1 + 5 * 2 ^ 32 + 7 * 2 ^ 64 + 2 ^ 80 + 2 * 2 ^ 184) : Nat) 207 184)).1 = (((({ Tests.devPaged with links := Tests.plane [Tests.groupOne] [] } : State).takeMail .testConfig (Tests.msg3 32 (toLe 32 (1 + 5 * 2 ^ 32 + 7 * 2 ^ 64 + 2 ^ 80 + 2 * 2 ^ 184)))).readV 3 none [] 0 256).1 : State)) ∧
    (((({ Tests.devPaged with links := Tests.plane [Tests.groupOne] [] } : State).takeMail .testConfig (Tests.msg3 32 (toLe 32 (1 + 5 * 2 ^ 32 + 7 * 2 ^ 64 + 2 ^ 80 + 2 * 2 ^ 184)) : Msg)).readV (Tests.msg3 32 (toLe 32 (1 + 5 * 2 ^ 32 + 7 * 2 ^ 64 + 2 ^ 80 + 2 * 2 ^ 184)) : Msg).ctx none ([] : List Upset) (field ((1 + 5 * 2 ^ 32 + 7 * 2 ^ 64 + 2 ^ 80 + 2 * 2 ^ 184) : Nat) 143 96 + 128 * field ((1 + 5 * 2 ^ 32 + 7 * 2 ^ 64 + 2 ^ 80 + 2 * 2 ^ 184) : Nat) 183 160) (128 * field ((1 + 5 * 2 ^ 32 + 7 * 2 ^ 64 + 2 ^ 80 + 2 * 2 ^ 184) : Nat) 207 184)).2.toOption.isSome = true) ∧
    ((((({ Tests.devPaged with links := Tests.plane [Tests.groupOne] [] } : State).takeMail .testConfig (Tests.msg3 32 (toLe 32 (1 + 5 * 2 ^ 32 + 7 * 2 ^ 64 + 2 ^ 80 + 2 * 2 ^ 184)))).readV 3 none [] 0 256).1 : State).liveGroup (Tests.msg3 32 (toLe 32 (1 + 5 * 2 ^ 32 + 7 * 2 ^ 64 + 2 ^ 80 + 2 * 2 ^ 184)) : Msg).ctx (field ((1 + 5 * 2 ^ 32 + 7 * 2 ^ 64 + 2 ^ 80 + 2 * 2 ^ 184) : Nat) 79 64) (field ((1 + 5 * 2 ^ 32 + 7 * 2 ^ 64 + 2 ^ 80 + 2 * 2 ^ 184) : Nat) 87 80) = true) := by decide +kernel

theorem witness_TallyIsThePolynomialDigest_3 : ((Tests.param1 : Param).ext.length = 4) ∧
    ((Tests.param1 : Param).off.length = 4) ∧
    ((Tests.param1 : Param).shp.length = 4) := by decide +kernel

theorem witness_NanIsWrittenCanonically_2 : ((0xFF : Nat) < 256) ∧
    ((0xFF : Nat) % 128 = 0x7F) := by decide +kernel

theorem witness_NanIsWrittenCanonically_3 : ((0xFD : Nat) < 256) ∧
    ((0xFD : Nat) / 4 % 32 = 31) ∧
    ((0xFD : Nat) % 4 ≠ 0) := by decide +kernel

theorem witness_NanIsWrittenCanonically_4 : ((0xFF81 : Nat) < 65536) ∧
    ((0xFF81 : Nat) / 128 % 256 = 255) ∧
    ((0xFF81 : Nat) % 128 ≠ 0) := by decide +kernel

theorem witness_NanIsWrittenCanonically_5 : ((0xFC01 : Nat) < 65536) ∧
    ((0xFC01 : Nat) / 1024 % 32 = 31) ∧
    ((0xFC01 : Nat) % 1024 ≠ 0) := by decide +kernel

theorem witness_StacksHoldCiphertextAndTags_1 : ((31743 : Nat) < 31744) ∧
    ((8191 : Nat) < 8192) := by decide +kernel

theorem witness_StacksHoldCiphertextAndTags_2 : ((31743 : Nat) < 31744) ∧
    ((511 : Nat) < 512) := by decide +kernel

theorem witness_StacksHoldCiphertextAndTags_3 : (0x7FE3E000 ≤ (0x7FE3E000 : Nat)) := by decide +kernel

theorem witness_StacksHoldCiphertextAndTags_6 : (((Tests.dev : State).mem.meta (3 : Nat)).poisoned? (5 : Nat) = none) ∧
    (sparse ((Tests.dev : State).mem.meta (3 : Nat)).minors (5 : Nat) < 255) := by decide +kernel

theorem witness_StacksHoldCiphertextAndTags_7 : ((((State.modMem Tests.dev (fun m => m.setMeta { m.meta 3 with poison := [{ block := 5, lastMinor := 1, key := 3, kspace := true, cause := 0 }] })) : State).mem.meta (3 : Nat)).poisoned? (5 : Nat) = some ({ block := 5, lastMinor := 1, key := 3, kspace := true, cause := 0 } : Poison)) := by decide +kernel

end Sys2Proof
end

/-! ### NaN in the number formats (R39, Table 02-2) -/

namespace Sys2Proof.Machine

@[simp] theorem narrow_nan_word (f : FloatFmt) (r : Rounding) : (narrow f r .nan).1 = f.nanWord := rfl

namespace FloatFmt

@[simp] theorem nanWord_fmtE4M3 : fmtE4M3.nanWord = 0x7F := by decide
@[simp] theorem nanWord_fmtE5M2 : fmtE5M2.nanWord = 0x7E := by decide
@[simp] theorem nanWord_fmtBF16 : fmtBF16.nanWord = 0x7FC0 := by decide
@[simp] theorem nanWord_fmtFP16 : fmtFP16.nanWord = 0x7E00 := by decide

/-- The one magnitude of E4M3 that is NaN, under either sign. -/
theorem decode_eq_nan_of_e4m3 {f : FloatFmt} {w : Nat} (hs : f.special = .e4m3)
    (hmag : w % 2 ^ (f.expBits + f.manBits) = 2 ^ (f.expBits + f.manBits) - 1) : f.decode w = .nan := by
  simp only [decode, hs, hmag, if_true]

/-- Without its sign, a word is its exponent field above its significand field. -/
theorem mag_eq_fields (f : FloatFmt) (w : Nat) :
    w % 2 ^ (f.expBits + f.manBits) =
      w % 2 ^ f.manBits + 2 ^ f.manBits * (w / 2 ^ f.manBits % 2 ^ f.expBits) := by
  rw [Nat.add_comm f.expBits, Nat.pow_add, Nat.mod_mul]

/-- Any significand other than 0 under the all-ones exponent of an IEEE-like format is NaN: neither the significand (the
payload) nor the sign is kept. -/
theorem decode_eq_nan_of_ieee {f : FloatFmt} {w : Nat} (hs : f.special = .ieee)
    (hexp : w / 2 ^ f.manBits % 2 ^ f.expBits = 2 ^ f.expBits - 1) (hman : w % 2 ^ f.manBits ≠ 0) :
    f.decode w = .nan := by
  have hmag := f.mag_eq_fields w
  rw [hexp, Nat.mul_comm] at hmag
  have hspecial : w % 2 ^ (f.expBits + f.manBits) ≥ (2 ^ f.expBits - 1) * 2 ^ f.manBits :=
    hmag ▸ Nat.le_add_left _ _
  have hsignif : w % 2 ^ (f.expBits + f.manBits) % 2 ^ f.manBits ≠ 0 := by
    rwa [hmag, Nat.add_mul_mod_self_right, Nat.mod_mod]
  simp only [decode, hs, if_pos hspecial, if_neg hsignif]

end FloatFmt

end Sys2Proof.Machine

namespace Sys2Proof
open Machine FloatFmt

/-- Settles O59: `narrow` answers NaN by the format's `nanWord` whatever the rounding, and `decode` meets each NaN row of
Table 02-2 by the rule of its kind of format. -/
theorem nanIsWrittenCanonically : Obligations.NanIsWrittenCanonically := by
  refine ⟨fun r => ?written, fun w _ => ?e4m3, fun w _ => ?e5m2, fun w _ => ?bf16, fun w _ => ?fp16⟩
  case written => simp
  case e4m3 => exact decode_eq_nan_of_e4m3 (f := fmtE4M3) rfl
  case e5m2 => exact decode_eq_nan_of_ieee (f := fmtE5M2) rfl
  case bf16 => exact decode_eq_nan_of_ieee (f := fmtBF16) rfl
  case fp16 => exact decode_eq_nan_of_ieee (f := fmtFP16) rfl

end Sys2Proof

/-! ### The tally of a byte string (R292) and its place in a shard image (Table 08-11) -/

namespace Sys2Proof.Machine

/-- The polynomial of R292 over the first `n` words of a run, at its fixed point: the earlier a word, the higher its power, and
the last word takes the first power, since the length follows it. -/
def tallyPoly (n : Nat) (bs : Bytes) : Nat :=
  ((List.range n).map (fun i => ofLe ((bs.drop (4 * i)).take 4) * tallyPoint ^ (n - i))).sum

@[simp] theorem tallyPoly_zero (bs : Bytes) : tallyPoly 0 bs = 0 := rfl

/-- The first word takes the highest power; the rest is the polynomial of the bytes after it. -/
theorem tallyPoly_succ (n : Nat) (bs : Bytes) :
    tallyPoly (n + 1) bs = ofLe (bs.take 4) * tallyPoint ^ (n + 1) + tallyPoly n (bs.drop 4) := by
  simp only [tallyPoly, List.range_succ_eq_map, List.map_cons, List.map_map, Function.comp_def, List.sum_cons, List.drop_drop,
    Nat.succ_eq_add_one, Nat.add_sub_add_right, Nat.mul_add, Nat.mul_zero, Nat.mul_one, Nat.sub_zero, List.drop_zero,
    Nat.add_comm 4]

/-- One turn of the loop of R292; the length goes in by the same turn as a word does. -/
def tallyStep (h w : Nat) : Nat := (h * tallyPoint + w) % tallyPrime

theorem tally_eq_tallyStep (bs : Bytes) :
    tally bs = tallyStep ((words32 (ceilDiv bs.length 4) bs).foldl tallyStep 0) bs.length := rfl

/-- Horner's rule for the loop of R292, from any value `h` of its variable: reducing at each word does not change the residue. -/
theorem foldl_words32_mul_mod (n h : Nat) (bs : Bytes) :
    (words32 n bs).foldl tallyStep h * tallyPoint % tallyPrime = (h * tallyPoint ^ (n + 1) + tallyPoly n bs) % tallyPrime := by
  induction n generalizing h bs with
  | zero => rw [words32, List.foldl_nil, tallyPoly_zero, Nat.zero_add, Nat.pow_one, Nat.add_zero]
  | succ n ih =>
    calc (words32 (n + 1) bs).foldl tallyStep h * tallyPoint % tallyPrime
      _ = (tallyStep h (ofLe (bs.take 4)) * tallyPoint ^ (n + 1) + tallyPoly n (bs.drop 4)) % tallyPrime := ih _ _
      _ = ((h * tallyPoint + ofLe (bs.take 4)) * tallyPoint ^ (n + 1) + tallyPoly n (bs.drop 4)) % tallyPrime := by
        rw [tallyStep, Nat.add_mod, Nat.mod_mul_mod, ← Nat.add_mod]
      _ = (h * tallyPoint ^ (n + 1 + 1) + tallyPoly (n + 1) bs) % tallyPrime := by
        rw [tallyPoly_succ, Nat.add_mul, Nat.mul_assoc, ← Nat.pow_succ', Nat.add_assoc]

/-- The tally in closed form: the words' polynomial, then the length. -/
theorem tally_eq_tallyPoly (bs : Bytes) :
    tally bs = (tallyPoly (ceilDiv bs.length 4) bs + bs.length) % tallyPrime := by
  have horner := foldl_words32_mul_mod (ceilDiv bs.length 4) 0 bs
  rw [Nat.zero_mul, Nat.zero_add] at horner
  rw [tally_eq_tallyStep, tallyStep, Nat.add_mod, horner, ← Nat.add_mod]

theorem tally_lt_tallyPrime (bs : Bytes) : tally bs < tallyPrime := Nat.mod_lt _ (by decide)

@[simp] theorem toLe_length (n v : Nat) : (toLe n v).length = n := by
  induction n generalizing v with
  | zero => rfl
  | succ n ih => rw [toLe, List.length_cons, ih]

@[simp] theorem flatMap_toLe_length (n : Nat) (vs : List Nat) : (vs.flatMap (toLe n)).length = vs.length * n := by
  simp only [List.length_flatMap, toLe_length, List.map_const', List.sum_replicate_nat]

/-- A field that lies wholly within a layout is read back whole. -/
theorem slice_append_append {pre mid : Bytes} {off n : Nat} (post : Bytes) (hoff : pre.length = off) (hn : mid.length = n) :
    slice (pre ++ mid ++ post) off n = mid := by
  subst hoff hn
  simp only [slice, List.append_assoc, List.drop_left, List.take_left, Nat.sub_self, List.replicate_zero, List.append_nil]

/-- Field `digest` of a shard image's header (Table 08-11, bits [703:640]), for a record of four dimensions. -/
theorem slice_imageHeader_digest {p : Param} (part fmt step scaleExp : Nat) (data : Bytes)
    (hext : p.ext.length = 4) (hoff : p.off.length = 4) (hshp : p.shp.length = 4) :
    slice (imageHeader p part fmt step scaleExp data) 80 8 = toLe 8 (tally data) :=
  slice_append_append _ (by simp only [List.length_append, toLe_length, flatMap_toLe_length, hext, hoff, hshp]) (toLe_length _ _)

end Sys2Proof.Machine

namespace Sys2Proof
open Machine

/-- Settles O58: the loop of R292 is Horner's rule for its polynomial, and the header of a shard image keeps the tally at
byte 80. -/
theorem tallyIsThePolynomialDigest : Obligations.TallyIsThePolynomialDigest := by
  refine ⟨fun bs => ⟨?closedForm, ?below⟩, ?worked, fun p part fmt step e bs hext hoff hshp => ?digest⟩
  case closedForm => exact tally_eq_tallyPoly bs
  case below => exact Nat.lt_trans (tally_lt_tallyPrime bs) (by decide)
  case worked => decide
  case digest => exact slice_imageHeader_digest part fmt step e bs hext hoff hshp

end Sys2Proof

/-! ### Steps, and the state after reset -/

namespace Sys2Proof
open Machine
set_option Elab.async false

/-- Settles O1, by the step equation of a waiting command. -/
theorem stepTakesFrontCommand : Obligations.StepTakesFrontCommand :=
  fun c rest s h => step_cons s c rest h

/-- Settles O2: a step on an empty queue is `idleTick`, whose guard reads the two pins and the clock. -/
theorem idleStepAdvancesTimer : Obligations.IdleStepAdvancesTimer := by
  refine ⟨fun s hq hheld hrst hclk => ?ticks, fun s hq hheld => ?held⟩
  case ticks =>
    rw [step_idle s hq, idleTick, hheld, hrst, beq_eq_false_iff_ne.mpr hclk]
    rfl
  case held =>
    rw [step_idle s hq, idleTick, hheld]
    rfl

/-- Settles O4: the state after reset is a literal, so each conjunct is read off it. -/
theorem resetLeavesShippedDevice : Obligations.ResetLeavesShippedDevice := by
  refine ⟨rfl, rfl, rfl, rfl, rfl, rfl, rfl, rfl, rfl, rfl, rfl, rfl, ?_, ?_, rfl, rfl, rfl⟩ <;> decide

end Sys2Proof

/-! ### A device that has stopped (R34, R433, R509, R517) -/

namespace Sys2Proof.Machine
section Stopped
set_option Elab.async false

/-- The commands that act whether or not the device runs: resets, pins, comparators and sensors, and the I3C bus. -/
def actsUnderStop : Instr → Bool
  | .resetNAssert .. | .coldReset .. | .internalColdReset .. | .pwrBrakeAssert .. | .pwrBrakeRelease | .refclkMissing .. | .railOutOfRange ..
  | .thermalBrakeComparator .. | .thermTripComparator .. | .stackTempReport .. | .i3cPrivateWrite .. | .i3cPrivateRead | .i3cAnswerDrop
  | .i3cAddressAssign .. => true
  | _ => false

variable {s : State} (h : s.alive = false)
include h

theorem State.hears_of_not_alive (op : Opcode) (m : Msg) : s.hears op m = false := by
  simp [State.hears, State.listens, h]

theorem State.request_of_not_alive (op : Opcode) (m : Msg) (body : State → Session → State × Option Reply) : s.request op m body = s :=
  State.request_unheard (State.hears_of_not_alive h op m)

theorem State.requestThen_of_not_alive (op : Opcode) (m : Msg) (body : State → Session → State × Option Reply) (after : State → State) :
    s.requestThen op m body after = s :=
  State.requestThen_unheard (State.hears_of_not_alive h op m)

theorem State.running?_of_not_alive (id q seq iter : Nat) (op : CmdOp) : s.running? id q seq iter op = none := by
  simp [State.running?, h]

theorem State.ctrlMsg_of_not_alive (src : Nat) (op : Opcode) (m : Msg) (f : State → State) : s.ctrlMsg src op m f = s := by
  simp [State.ctrlMsg, h]

theorem doCkptWrite_of_not_alive (id : Nat) (ups : List Upset) : doCkptWrite id ups s = s := by
  unfold doCkptWrite
  split
  · rfl
  · exact if_pos (by rw [h]; rfl)

/-- Every other command finds the device stopped and leaves the state as it is (LOG 3). The groups are the places of the check: the way
of a request, the record that an engine runs, a message of the control plane, or the command's own guard behind its lookups. -/
theorem exec_of_not_alive {i : Instr} (hi : actsUnderStop i = false) : exec i s = .next s := by
  cases i with
  | resetNAssert | coldReset | internalColdReset | pwrBrakeAssert | pwrBrakeRelease | refclkMissing | railOutOfRange
  | thermalBrakeComparator | thermTripComparator | stackTempReport | i3cPrivateWrite | i3cPrivateRead | i3cAnswerDrop
  | i3cAddressAssign => cases hi
  -- requests
  | features | attest | heartbeat | hostConfig | ctxCreate | ctxDestroy | ctxReset | ctxResumeReady | ctxResumeResume | ctxResumeAssign
  | optStepPrepare | optStepUpdate | paramExport | mapGrantMap | mapGrantLimits | mapGrantPublish | mapGrantAttach | unmap | pageHint
  | regulate | placeLogAggregate | placeLogMoves | queueCreate | doorbellInline | doorbellRing | backfillBind | backfillUnbind
  | ckptConfig | ckptNow | policyLoad | ownerJoin | quorumSign | releasePropose | releaseFetch | releaseWithdraw | errRead | telemetry
  | testConfigDevice | testConfigAudit | powerConfig | lcRead | lcEnrol | fwStage | fwActivate =>
    exact congrArg _ (State.request_of_not_alive h ..)
  | linkConfig | queueDestroy | groupCreate | groupDestroy | ckptRestoreWhole | ckptRestoreReslice | ckptVerify | keyLoad | keyDerive
  | keyDestroy | lcAdvance | debugCert | debugChallengeNonce | debugChallengeResponse =>
    exact congrArg _ (State.requestThen_of_not_alive h ..)
  | fenceCreate | fenceExport | fenceImport | fenceSignal | fenceWait | fenceDestroy | bulkIn | bulkOut =>
    simp only [exec, execFenceCreate, execFenceExport, execFenceImport, execFenceSignal, execFenceWait, execFenceDestroy, execBulkIn,
      execBulkOut, State.request_of_not_alive h, ite_self]
  | keyExchangeOpen | keyExchangeRekey =>
    simp only [exec, execKeyExchangeOpen, execKeyExchangeRekey, doKeyExchange, State.requestThen_of_not_alive h, h, Bool.false_and,
      Bool.false_eq_true, if_false]
  | ctxSuspend =>
    simp only [exec, execCtxSuspend, State.requestThen_of_not_alive h, ite_self]
    split <;> rfl
  | eventAnswer => simp only [exec, execEventAnswer, doEventAnswer, State.listens, h, Bool.false_and, Bool.not_false, if_true]
  -- records that an engine or the hub runs
  | nop | matmul | vector | copy | fill | scaleSet | repeatCmd | collectiveAllReduce | collectiveReduceScatter | collectiveAllGather
  | collectiveReduce | collectiveBroadcast | collectiveNorm | collectiveSend | collectiveRecv =>
    simp only [exec, execNop, execMatmul, execVector, execCopy, execFill, execScaleSet, execRepeat, execCollectiveAllReduce,
      execCollectiveReduceScatter, execCollectiveAllGather, execCollectiveReduce, execCollectiveBroadcast, execCollectiveNorm,
      execCollectiveSend, execCollectiveRecv, doNop, doMatmul, doVector, doCopy, doFill, doScaleSet, doRepeat, doCollective,
      State.running?_of_not_alive h]
  -- messages between Bursars
  | portMap | lendBeacon | lendAsk | lendOffer | lendRelease | optShip | optClip | optReturn =>
    exact congrArg _ (State.ctrlMsg_of_not_alive h ..)
  -- a guard in front
  | vcoreUndervoltage | samplePeriod | leaveGrant | pacingWindow | hello | chunk | ready | ack | retry | rtally | abort | xread | xwrite
  | xresp | transferResponse | linkKx | ctrlMsg | fenceWaitTimeout | lockstepMismatch | quekoDataFrame | quekoAckFrame | close
  | keyLimitStop | hostPortTrain | pageMoveSwitch | hbmWriteDrain | patrolScrub | fieldTestStart | hostProtocolFrame | pfcPauseFrame =>
    simp [exec, execVcoreUndervoltage, execSamplePeriod, execLeaveGrant, execPacingWindow, execHello, execChunk, execReady, execAck, execRetry,
      execRtally, execAbort, execXread, execXwrite, execXresp, execTransferResponse, execLinkKx, execCtrlMsg, execFenceWaitTimeout,
      execLockstepMismatch, execQuekoDataFrame, execQuekoAckFrame, execClose, execKeyLimitStop, execHostPortTrain, execPageMoveSwitch,
      execHbmWriteDrain, execPatrolScrub, execFieldTestStart, execHostProtocolFrame, execPfcPauseFrame,
      doVcoreUndervoltage, doSamplePeriod, doHello, doChunk, doReady, doAck, doRetry, doRtally, doAbort, doXread, doXwrite, doLinkKx,
      doCtrlMsg, doSegmentFrame, doAckFrame, doKeyLimitStop, doHostPortTrain, doPageMoveSwitch, doPatrolScrub, doFieldTestStart,
      doHostProtocol, doPfcPause, h]
  | lendBeaconSend =>
    have hlinks (f : Links → Links) : (s.modLinks f).alive = false := h
    simp [exec, execLendBeaconSend, doLendBeaconSend, hlinks]
  -- a guard behind one lookup
  | brakeEventInterval | voltageConfirmed | hbmTrainIdle | eventSend | macsecRevertTimeout | destroyDrainDone | teardownDone | slotAdmit
  | rotateOut | residencyExitDone | collectiveTimeout | transferTimeout | channelKeyExchange | rasoviLinkFrame | rasoviFrameReceive
  | rasoviAckTimer | rasoviReplayTimeout | switchedRetransmitTimeout | groupFormTimeout | ckptTimerTrigger | ckptCut | ckptDrainTimeout
  | fwConfirm | fwTrialTimeout | quekoAckTimer | quekoRetransmitTimeout | heartbeatLoss | handshakeTimeout | keyRotate
  | keyRotateRepeat | placementReview | fieldTestResult | testOverdue | aggregateRecordClose =>
    simp only [exec, execBrakeEventInterval, execVoltageConfirmed, execHbmTrainIdle, execEventSend, execMacsecRevertTimeout,
      execDestroyDrainDone, execTeardownDone, execSlotAdmit, execRotateOut, execResidencyExitDone, execCollectiveTimeout,
      execTransferTimeout, execChannelKeyExchange, execRasoviLinkFrame, execRasoviFrameReceive, execRasoviAckTimer,
      execRasoviReplayTimeout, execSwitchedRetransmitTimeout, execGroupFormTimeout, execCkptTimerTrigger, execCkptCut,
      execCkptDrainTimeout, execFwConfirm, execFwTrialTimeout, execQuekoAckTimer, execQuekoRetransmitTimeout,
      execHeartbeatLoss, execHandshakeTimeout, execKeyRotate, execKeyRotateRepeat, execPlacementReview, execFieldTestResult,
      execTestOverdue, execAggregateRecordClose, doBrakeEventInterval, doVoltageConfirmed, doHbmTrainIdle, doEventSend, doMacsecRevert,
      doDestroyDrain, doTeardownDone, doSlotAdmit, doRotateOut, doResidencyExit, doTransferTimeout, doChannelKeyExchange, doRasoviLink,
      doRasoviFrame, doCkptTimer, doCkptCut, doCkptDrainTimeout, doFwConfirm, doFwTrialTimeout, doAckTimer, doRetransmit,
      doHeartbeatLoss, doHandshakeTimeout, doKeyRotate, doKeyRotateRepeat, doPlacementReview, doFieldTestResult, doTestOverdue,
      doAggregateClose]
    split <;> simp [h]
  | ckptWriteDone id ups => exact congrArg _ (doCkptWrite_of_not_alive h id ups)
  -- a guard behind two lookups
  | avsbusSilent | eventResendTimeout | optStepRun | paramExportRun | commandDispatch | fenceInTimeout | recordIntake
  | portTrainDone | serdesReplace =>
    simp only [exec, execAvsbusSilent, execEventResendTimeout, execOptStepRun, execParamExportRun, execCommandDispatch, execFenceInTimeout,
      execRecordIntake, execPortTrainDone, execSerdesReplace,
      doAvsbusSilent, doEventResend, doOptStepRun, doParamExportRun, doCommandDispatch, doFenceInTimeout, doRecordIntake,
      doPortTrainDone, doSerdesReplace]
    split
    · rfl
    · split <;> simp [h]
  | contributionResendTimeout | ledgerQuarantineEnd | leaseProbeTimeout =>
    simp only [exec, execContributionResendTimeout, execLedgerQuarantineEnd, execLeaseProbeTimeout, doContributionResend]
    split
    · split <;> simp [h]
    · rfl
  | repeatIteration =>
    simp only [exec, execRepeatIteration, doRepeatIteration]
    split
    · rfl
    · split
      · rfl
      · split <;> simp [h]
  | commandComplete =>
    simp only [exec, execCommandComplete, doCommandComplete]
    split
    · rfl
    · split
      · split
        · split
          · simp [h]
          · rfl
          · rfl
        · rfl
      · rfl

end Stopped

/-- What a stop leaves free to move: the hub's pins, the leave of records, power and sensors, the stacks, the I3C target, and what leaves over
I3C. The device stays stopped. -/
def Stays (s t : State) : Prop := ∃ hub cs pw st i o,
  t = { s with hub := hub, ctxs := cs, power := pw, hbmStacks := st, i3c := i, out := o } ∧ (s.hub.halt.isSome = true → hub.halt.isSome = true)

namespace Stays

theorem refl (s : State) : Stays s s := ⟨_, _, _, _, _, _, rfl, id⟩

theorem trans {s t u : State} (h : Stays s t) (k : Stays t u) : Stays s u := by
  obtain ⟨_, _, _, _, _, _, rfl, hh⟩ := h
  obtain ⟨_, _, _, _, _, _, rfl, hk⟩ := k
  exact ⟨_, _, _, _, _, _, rfl, hk ∘ hh⟩

/-- A change of the hub that keeps the stop. -/
theorem modHub (s : State) (f : Hub → Hub) (hf : s.hub.halt.isSome = true → (f s.hub).halt.isSome = true) : Stays s (s.modHub f) :=
  ⟨_, _, _, _, _, _, rfl, hf⟩

/-- A change of what may move, but for the hub. -/
theorem of_eq (s : State) (cs : List Ctx) (pw : Power) (st : List Stack) (i : I3c) (o : List Out) :
    Stays s { s with ctxs := cs, power := pw, hbmStacks := st, i3c := i, out := o } := ⟨_, _, _, _, _, _, rfl, id⟩

theorem foldl {α : Type} {f : State → α → State} (hf : ∀ s x, Stays s (f s x)) (l : List α) (s : State) : Stays s (l.foldl f s) := by
  induction l generalizing s with
  | nil => exact refl s
  | cons x rest ih => exact (hf s x).trans (ih _)

theorem modTile (s : State) (n : Nat) (f : Tile → Tile) : Stays s (s.modTile n f) := of_eq ..
theorem modLinkTeller (s : State) (n : Nat) (f : Teller → Teller) : Stays s (s.modLinkTeller n f) := of_eq ..

theorem setLeave (s : State) (l : LeaveFor) (on : Bool) : Stays s (s.setLeave l on) := by
  cases l with
  | command | train => exact of_eq ..
  | port => exact refl s

theorem revokeTile (s : State) (n : Nat) : Stays s (s.revokeTile n) := by
  unfold State.revokeTile
  split
  · exact refl s
  · exact (foldl (fun s l => setLeave s l false) _ _).trans (modTile ..)

theorem revokeAll (s : State) : Stays s s.revokeAll :=
  (foldl (fun s n => revokeTile s n) _ _).trans (foldl (fun s n => modLinkTeller s n _) _ _)

end Stays

section Stopped

/-- While the device is stopped, the boot ROM answers LC_READ over I3C and nothing else, so that no rule of the life cycle is at work (R527). -/
theorem i3cRequest_fst_of_not_alive {s : State} (h : s.alive = false) (hs : s.i3cServes = true) (code : Nat) (m : Msg) (burn : Burn) :
    (s.i3cRequest code m burn).1 = s := by
  have hrom : s.romServes = true := by
    simp only [State.i3cServes, h, Bool.false_or, Bool.and_eq_true] at hs
    exact hs.2
  unfold State.i3cRequest
  split
  · rfl
  · split
    · rfl
    · next op _ =>
      split
      · rfl
      · next hmay =>
        have hop : op = .lcRead := And.right (by simpa [hrom] using hmay)
        subst hop
        simp only [State.i3cRun, lcRead]
        split
        · rfl
        · split <;> rfl

theorem settleLife_self (s t : State) (hhub : t.hub = s.hub) : s.settleLife t = t := by
  unfold State.settleLife
  rw [hhub]
  cases s.hub.inReset <;> cases s.hub.resetDue <;> rfl

theorem stays_i3cWrite {s : State} (h : s.alive = false) (data : Bytes) (burn : Burn) : Stays s (doI3cWrite data burn s) := by
  unfold doI3cWrite
  split
  · exact Stays.refl s
  · next hg =>
    have hs : s.i3cServes = true := by
      cases hs : s.i3cServes with
      | true => rfl
      | false =>
        rw [hs] at hg
        exact absurd rfl hg
    dsimp only
    split
    · exact Stays.of_eq ..
    · have hreq := i3cRequest_fst_of_not_alive h hs
      split
      · simp only [hreq]
        rw [settleLife_self]
        · exact Stays.of_eq ..
        · rfl
      · simp only [hreq]
        rw [settleLife_self s _ rfl]
        exact Stays.refl s

theorem stays_brakeAssert {s : State} (h : s.alive = false) (ns : Nat) : Stays s (doPwrBrakeAssert ns s) := by
  unfold doPwrBrakeAssert
  split
  · exact Stays.refl s
  · simp only [h, Bool.false_and, Bool.false_eq_true, if_false]
    exact ((Stays.modHub s _ id).trans (Stays.revokeAll _)).trans (Stays.of_eq ..)

theorem stays_brakeRelease (s : State) : Stays s (doPwrBrakeRelease s) := by
  unfold doPwrBrakeRelease
  split
  · exact Stays.refl s
  · exact ((Stays.modHub s _ id).trans (Stays.of_eq ..)).trans
      ((Stays.foldl (fun s n => Stays.modTile s n _) _ _).trans (Stays.foldl (fun s n => Stays.modLinkTeller s n _) _ _))

theorem stays_thermalBrake (n : Nat) (temp : Int) (s : State) : Stays s (doThermalBrake n temp s) := by
  unfold doThermalBrake
  split
  · exact Stays.refl s
  · exact (Stays.revokeTile s n).trans (Stays.modTile ..)

theorem stays_stackTempReport {s : State} (h : s.alive = false) (k : Nat) (temp : Option Int) : Stays s (doStackTempReport k temp s) := by
  unfold doStackTempReport
  split
  · exact Stays.refl s
  · simp only [h, or_true, if_true]
    split
    · exact Stays.refl s
    · exact Stays.of_eq ..

/-- A command other than a reset leaves a stopped device stopped, and of its work nothing moves. -/
theorem stays_of_exec {s t : State} {i : Instr} (h : s.alive = false) (hi : Resets i = false) (ht : exec i s = .next t) : Stays s t := by
  cases hact : actsUnderStop i with
  | false =>
    rw [exec_of_not_alive h hact] at ht
    cases ht
    exact Stays.refl s
  | true =>
    cases i with
    | resetNAssert | coldReset | internalColdReset => cases hi
    | pwrBrakeAssert ns => cases ht; exact stays_brakeAssert h ns
    | pwrBrakeRelease => cases ht; exact stays_brakeRelease s
    | refclkMissing ns =>
      cases ht
      unfold doRefclkMissing
      split
      · exact Stays.refl s
      · exact (Stays.modHub s _ fun _ => rfl).trans (Stays.modHub _ _ id)
    | railOutOfRange rail ns =>
      cases ht
      unfold doRailOutOfRange
      split
      · exact Stays.refl s
      · exact (Stays.modHub s _ fun _ => rfl).trans (Stays.modHub _ _ id)
    | thermalBrakeComparator n temp => cases ht; exact stays_thermalBrake n temp s
    | thermTripComparator die temp =>
      cases ht
      split
      · exact Stays.modHub s _ id
      · exact Stays.refl s
    | stackTempReport k temp => cases ht; exact stays_stackTempReport h k temp
    | i3cPrivateWrite data burn => cases ht; exact stays_i3cWrite h data burn
    | i3cPrivateRead =>
      cases ht
      unfold doI3cRead
      split
      · exact Stays.refl s
      · split
        · exact Stays.of_eq ..
        · exact Stays.refl s
    | i3cAnswerDrop =>
      cases ht
      unfold doI3cDrop
      split
      · exact Stays.refl s
      · split
        · exact Stays.of_eq ..
        · exact Stays.refl s
    | i3cAddressAssign st addr =>
      cases ht
      unfold doI3cAssign
      extract_lets named
      split
      · exact Stays.of_eq ..
      · exact Stays.refl s
    | _ => cases hact

/-- The tick of an empty queue moves the timer at most. -/
theorem stays_idleTick (s : State) : Stays s (idleTick s) := by
  unfold idleTick
  split
  · exact Stays.refl s
  · exact Stays.modHub s _ id

/-- An invariant of every step: the command in front of a stopped device's queue is no reset, and any other keeps the stop. -/
theorem stopped_step {s t : State} (hs : Stopped s) (ht : step s = .next t) : Stopped t ∧ ∃ q, Stays { s with pending := q } t := by
  obtain ⟨hhalt, hq⟩ := hs
  cases hp : s.pending with
  | nil =>
    rw [step_idle s hp] at ht
    cases ht
    have hst := stays_idleTick s
    refine ⟨?_, s.pending, hst⟩
    obtain ⟨_, _, _, _, _, _, ht, hkeep⟩ := hst
    rw [ht]
    exact ⟨hkeep hhalt, hq⟩
  | cons c rest =>
    rw [step_cons s c rest hp] at ht
    rw [hp] at hq
    have hdead : ({ s with pending := rest } : State).alive = false := by
      simp only [State.alive, Option.isNone_eq_false_iff.mpr hhalt, Bool.false_and]
    have hst := stays_of_exec hdead (hq c List.mem_cons_self) ht
    refine ⟨?_, rest, hst⟩
    obtain ⟨_, _, _, _, _, _, rfl, hkeep⟩ := hst
    exact ⟨hkeep hhalt, fun d hd => hq d (List.mem_cons_of_mem c hd)⟩

end Stopped
end Sys2Proof.Machine

namespace Sys2Proof
open Machine

/-- Settles O3: `stopped_step`, and what `Stays` leaves out. -/
theorem stoppedDeviceStaysStopped : Obligations.StoppedDeviceStaysStopped := by
  intro s t hs ht
  obtain ⟨hstop, _, _, _, _, _, _, _, rfl, _⟩ := stopped_step hs ht
  exact ⟨hstop, rfl, rfl, rfl, rfl, rfl, rfl, rfl, rfl, rfl, rfl, rfl, rfl⟩

end Sys2Proof

/-! ### Records and events: what filing one changes -/

namespace Sys2Proof.Machine
set_option Elab.async false

/-- `t` is `s` but for the logs, and for the counts of entries that the sessions have lost from the device's ring (R334). -/
def Told (s t : State) : Prop := (∃ ses lg, t = { s with sessions := ses, logs := lg }) ∧ SessionsKept s t

namespace Told

theorem refl (s : State) : Told s s := ⟨⟨_, _, rfl⟩, rfl⟩

theorem trans {s t u : State} (h : Told s t) (k : Told t u) : Told s u := by
  obtain ⟨⟨_, _, rfl⟩, hs⟩ := h
  obtain ⟨⟨_, _, rfl⟩, ks⟩ := k
  exact ⟨⟨_, _, rfl⟩, ks.trans hs⟩

/-- A change of the logs alone. -/
theorem of_logs (s : State) (lg : Logs) : Told s { s with logs := lg } := ⟨⟨_, _, rfl⟩, rfl⟩

theorem overwrite (s : State) : Told s s.overwrite := by
  unfold State.overwrite
  split
  · exact refl s
  · split
    · exact refl s
    · dsimp only
      split
      · exact of_logs ..
      · refine ⟨⟨_, _, rfl⟩, ?_⟩
        simp only [SessionsKept, List.map_map]
        refine List.map_congr_left fun x _ => ?_
        simp only [Function.comp_apply]
        split <;> rfl

theorem raiseTo (s : State) (dest : Option Nat) (ev : Event) (st : Status) (body : Bytes) : Told s (s.raiseTo dest ev st body) := by
  exact (overwrite s).trans (of_logs ..)

theorem raiseDevice (s : State) (ev : Event) (st : Status) (body : Bytes) : Told s (s.raiseDevice ev st body) := raiseTo s none ev st body

theorem sessions_nil {s t : State} (h : Told s t) (hs : s.sessions = []) : t.sessions = [] := by
  have hmap := h.2
  rw [SessionsKept, hs, List.map_nil, List.map_eq_nil_iff] at hmap
  exact hmap

theorem thermalEvent (s : State) (die old new : Nat) (temp : Int) : Told s (s.thermalEvent die old new temp) := by
  unfold State.thermalEvent
  split
  · exact refl s
  · exact raiseDevice ..

end Told

/-- Raising an event leaves the device log as it is. -/
theorem raiseDevice_log (s : State) (ev : Event) (st : Status) (body : Bytes) :
    (s.raiseDevice ev st body).logs.recNo = s.logs.recNo ∧ (s.raiseDevice ev st body).logs.records = s.logs.records := by
  have hov : s.overwrite.logs.recNo = s.logs.recNo ∧ s.overwrite.logs.records = s.logs.records := by
    unfold State.overwrite
    split
    · exact ⟨rfl, rfl⟩
    · split
      · exact ⟨rfl, rfl⟩
      · dsimp only
        split <;> exact ⟨rfl, rfl⟩
  exact hov

/-- A record that names no context goes into the device log, and its event, if it has one, to the management session. -/
theorem fileFor_nil (s : State) (e : ErrorRec) (toMgmt : Bool) :
    Told s (s.fileFor e toMgmt []) ∧ (s.fileFor e toMgmt []).logs.recNo = s.logs.recNo + 1 ∧
      (s.fileFor e toMgmt []).logs.records = (s.logs.keep (s.errorView .management e) (s.errorView .context e)).records := by
  unfold State.fileFor
  dsimp only
  split
  · exact ⟨Told.of_logs .., rfl, rfl⟩
  · cases toMgmt
    · exact ⟨Told.of_logs .., rfl, rfl⟩
    · have hlog := raiseDevice_log { s with logs := s.logs.keep (s.errorView .management e) (s.errorView .context e) }
      exact ⟨(Told.of_logs s _).trans (Told.raiseDevice ..), (hlog ..).1, (hlog ..).2⟩

theorem notice_eq_fileFor (s : State) (cause extra : Nat) (st : Status) (die : Nat) : ∃ e : ErrorRec, s.notice cause extra st die = s.fileFor e true [] :=
  ⟨{ cls := .notice, die := die, stage := noticeStage cause, status := st, detail := cause + extra * 65536,
     detailCtx := cause + extra * 65536 }, rfl⟩

theorem Told.notice (s : State) (cause extra : Nat) (st : Status) (die : Nat) : Told s (s.notice cause extra st die) := by
  obtain ⟨e, h⟩ := notice_eq_fileFor s cause extra st die
  rw [h]
  exact (fileFor_nil s e true).1

theorem notice_recNo (s : State) (cause extra : Nat) (st : Status) (die : Nat) : (s.notice cause extra st die).logs.recNo = s.logs.recNo + 1 := by
  obtain ⟨e, h⟩ := notice_eq_fileFor s cause extra st die
  rw [h]
  exact (fileFor_nil s e true).2.1

end Sys2Proof.Machine

/-! ### Reset and boot (R33, R433, R442, R519) -/

namespace Sys2Proof.Machine
set_option Elab.async false

/-- Whether an image is valid rests on the slots, the signatures known, the maker keys and the security version alone. -/
theorem imageValid_congr {s t : State} (n : Nat) (hsig : t.hub.signatures = s.hub.signatures) (hkeys : t.otp.makerKeys = s.otp.makerKeys)
    (hsvn : t.otp.svn = s.otp.svn) (ha : t.flash.slotA = s.flash.slotA) (hb : t.flash.slotB = s.flash.slotB) :
    t.imageValid n = s.imageValid n := by
  have hslot : t.flash.slot n = s.flash.slot n := by rw [Flash.slot, Flash.slot, ha, hb]
  have himage : t.flash.image n = s.flash.image n := by rw [Flash.image, Flash.image, hslot]
  have hbody : t.flash.body n = s.flash.body n := by rw [Flash.body, Flash.body, himage, hslot]
  have hwhole : t.imageWhole n = s.imageWhole n := by
    rw [State.imageWhole, State.imageWhole, State.verifies, State.verifies, himage, hbody, hsig, hkeys]
  have hruns : t.svnRuns n = s.svnRuns n := by rw [State.svnRuns, State.svnRuns, himage, hsvn]
  rw [State.imageValid, State.imageValid, hwhole, hruns]

theorem field_one_bit_le (w n : Nat) : field w n n ≤ 1 := by
  unfold field
  have h1 : n + 1 - n = 1 := by omega
  rw [h1]
  omega

theorem bootCfgOf_active_le {bs : Bytes} {c : BootCfg} (h : bootCfgOf bs = some c) : c.active ≤ 1 := by
  unfold bootCfgOf at h
  dsimp only at h
  split at h
  · cases h
    exact field_one_bit_le ..
  · cases h

theorem bootCfg_active_le (f : Flash) : f.bootCfg.2.active ≤ 1 := by
  unfold Flash.bootCfg
  split
  · next ha hb =>
    split
    · exact bootCfgOf_active_le hb
    · exact bootCfgOf_active_le ha
  · next ha _ => exact bootCfgOf_active_le ha
  · next hb => exact bootCfgOf_active_le hb
  · exact Nat.zero_le 1

/-- The slot tried first is one of the two, and the slots themselves are not written. -/
theorem pickSlot_spec (f : Flash) : f.pickSlot.2 ≤ 1 ∧ f.pickSlot.1.slotA = f.slotA ∧ f.pickSlot.1.slotB = f.slotB := by
  unfold Flash.pickSlot
  dsimp only
  split
  · exact ⟨Nat.sub_le 1 _, rfl, rfl⟩
  · exact ⟨bootCfg_active_le f, rfl, rfl⟩

/-- With a valid image in either slot, some slot's image runs. -/
theorem bootSlot_isSome {s : State} {first : Nat} (hf : first ≤ 1) (h : (s.imageValid 0 || s.imageValid 1) = true) :
    ∃ n, s.bootSlot first = some n := by
  unfold State.bootSlot
  split
  · exact ⟨_, rfl⟩
  · next h1 =>
    split
    · exact ⟨_, rfl⟩
    · next h2 =>
      obtain rfl | rfl : first = 0 ∨ first = 1 := by omega
      all_goals simp_all

/-- The Bursar's part of a boot: beside the TRNG, the Vault, HOST and the tests, it sets what the OTP gives, and may tell of it. -/
theorem startBursar_told (s : State) (stuck : Bool) : ∃ trng host vault test,
    Told { s with
      hub := { s.hub with trng := trng }, life := { s.life with opKey := s.otp.opKeys.getLast?, rights := s.life.standing },
      cores := bootCores s.otp, mem := bootMemory s.otp, links := { Links.boot with serdes := bootSerdes s.otp },
      vault := vault, test := test, host := host } (s.startBursar stuck) := by
  have hite (p : Prop) [Decidable p] (s t : State) (h : Told s t) : Told s (if p then t else s) := by
    split
    · exact h
    · exact Told.refl s
  refine ⟨s.hub.trng + 32 + 32, { row := some (if s.hub.straps.hostMax then 1 else 0) },
    { slots := (Vault.boot 0).slots ++ (s.otp.opKeys.getLast?.map operatorSlot).toList, bootNonce := (s.draw 32).2 },
    { seed := ((s.draw 32).1.draw 32).2 }, ?_⟩
  unfold State.startBursar
  dsimp only
  exact (((hite _ _ _ (Told.of_logs ..)).trans (hite _ _ _ (Told.notice ..))).trans (hite _ _ _ (Told.notice ..))).trans
    (hite _ _ _ (Told.notice ..))

/-- `t` runs after a boot that found `s` checked and its mode chosen: what stands, and what the boot has computed from the OTP. -/
structure Booted (s t : State) : Prop where
  hub : ∃ n, t.hub = { s.hub with trng := n }
  otp : t.otp = s.otp
  inForce : t.life.inForce = s.life.inForce
  mode : t.life.mode = s.life.mode
  forceOpen : t.life.forceOpen = s.life.forceOpen
  retained : t.life.retained = s.life.retained
  opKey : t.life.opKey = s.otp.opKeys.getLast?
  cores : t.cores = bootCores s.otp
  mem : t.mem = bootMemory s.otp
  power : t.power = s.power
  ctxs : t.ctxs = s.ctxs
  fences : t.fences = s.fences
  sessions : s.sessions = [] → t.sessions = []
  pending : t.pending = s.pending

/-- With a valid image, the boot ends in a running device. -/
theorem bootImage_booted {s : State} (stuck : Bool) (h : (s.imageValid 0 || s.imageValid 1) = true) : Booted s (s.bootImage stuck) := by
  obtain ⟨hfirst, ha, hb⟩ := pickSlot_spec s.flash
  have hvalid (n : Nat) : ({ s with flash := s.flash.pickSlot.1 } : State).imageValid n = s.imageValid n := imageValid_congr n rfl rfl rfl ha hb
  obtain ⟨n, hn⟩ := bootSlot_isSome (s := { s with flash := s.flash.pickSlot.1 }) hfirst (by rw [hvalid, hvalid, h])
  simp only [State.bootImage, hn]
  obtain ⟨trng, _, _, _, ⟨ses, lg, ht⟩, hses⟩ := startBursar_told { s with
    flash := s.flash.pickSlot.1
    life := { s.life with
      slot := n, build := (s.flash.pickSlot.1.image n).build, svn := (s.flash.pickSlot.1.image n).svn, measRom := Config.romDigest,
      measIdentity := s.otp.identityDigest, measFirmware := s.flash.pickSlot.1.measure n,
      measConfig := State.configMeasure { s with
        flash := s.flash.pickSlot.1
        life := { s.life with
          slot := n, build := (s.flash.pickSlot.1.image n).build, svn := (s.flash.pickSlot.1.image n).svn, measRom := Config.romDigest,
          measIdentity := s.otp.identityDigest, measFirmware := s.flash.pickSlot.1.measure n } } } } stuck
  rw [ht]
  rw [ht] at hses
  exact ⟨⟨trng, rfl⟩, rfl, rfl, rfl, rfl, rfl, rfl, rfl, rfl, rfl, rfl, rfl, fun h0 => Told.sessions_nil ⟨⟨_, _, rfl⟩, hses⟩ h0, rfl⟩

/-- A device reset from `s` once its boot epoch has advanced (Table 13-12, up to step 2). -/
def State.powered (s : State) (env : BootEnv) (retained : Bool) : State :=
  { s.wiped with
    hub := { s.wiped.hub with inReset := false, flashRel := false, straps := env }
    otp := { s.otp with bootEpoch := s.otp.bootEpoch + 1 }
    life := { inForce := decodeLife s.otp.lc, mode := parityMode s.otp.sealEpoch, forceOpen := retained } }

/-- The mode and the seal epoch that a boot takes are in force. -/
def State.withMode (u : State) (m : Mode × Nat) : State :=
  { u with otp := { u.otp with sealEpoch := m.2 }, life := { u.life with mode := m.1 } }

section Boots
variable {s u : State} {env : BootEnv} {retained : Bool}

/-- A boot whose checks pass comes to the choice of the image, with the root secret in the Vault. -/
theorem boot_of_checks (hlife : decodeLife s.otp.lc ≠ .scrapped) (hepoch : s.otp.bootEpoch < bootPositions)
    (hroot : (s.powered env retained).unwrapRoot env = some u) (hbridge : env.bridgeOk = true)
    (hid : shake256 (slice u.flash.identity 0 1512) 64 = u.otp.identityDigest) :
    s.boot env retained = (u.withMode (modeOfBoot (requestedMode retained env) u.otp.sealEpoch)).bootImage
      ((modeOfBoot (requestedMode retained env) u.otp.sealEpoch).1 != requestedMode retained env) := by
  have hepoch' : ¬ bootPositions ≤ s.wiped.otp.bootEpoch := Nat.not_le.mpr hepoch
  unfold State.boot
  dsimp only
  rw [if_neg hlife, if_neg hepoch']
  unfold State.powered at hroot
  erw [hroot]
  dsimp only
  rw [if_neg (by simp [hbridge]), if_neg (by simp [hid])]
  rfl

/-- The root secret of a device that has had one unwraps, and changes nothing. -/
theorem unwrapRoot_of_wrapped (hwrap : env.unwrapOk = true) (hblank : u.otp.root ≠ .blank) (herased : u.otp.root ≠ .erased) :
    u.unwrapRoot env = some u := by
  unfold State.unwrapRoot
  split
  · next h => exact absurd h hblank
  · exact if_pos hwrap
  · exact if_pos hwrap
  · next h => exact absurd h herased

theorem imageValid_withMode (m : Mode × Nat) (n : Nat) : (u.withMode m).imageValid n = u.imageValid n := imageValid_congr n rfl rfl rfl rfl rfl
theorem imageValid_powered (n : Nat) : (s.powered env retained).imageValid n = s.imageValid n := imageValid_congr n rfl rfl rfl rfl rfl

/-- A boot whose root secret unwraps. -/
theorem boot_booted (hlife : decodeLife s.otp.lc ≠ .scrapped) (hepoch : s.otp.bootEpoch < bootPositions) (hbridge : env.bridgeOk = true)
    (hid : shake256 (slice s.flash.identity 0 1512) 64 = s.otp.identityDigest) (himage : (s.imageValid 0 || s.imageValid 1) = true)
    (hwrap : env.unwrapOk = true) (hblank : s.otp.root ≠ .blank) (herased : s.otp.root ≠ .erased) :
    Booted ((s.powered env retained).withMode (modeOfBoot (requestedMode retained env) s.otp.sealEpoch)) (s.boot env retained) := by
  rw [boot_of_checks hlife hepoch (unwrapRoot_of_wrapped hwrap hblank herased) hbridge hid]
  exact bootImage_booted _ (by rw [imageValid_withMode, imageValid_withMode, imageValid_powered, imageValid_powered, himage])

/-- The first power-up: the root secret is drawn, wrapped and burnt (R409). -/
theorem boot_booted_blank (hlife : decodeLife s.otp.lc ≠ .scrapped) (hepoch : s.otp.bootEpoch < bootPositions) (hbridge : env.bridgeOk = true)
    (hid : shake256 (slice s.flash.identity 0 1512) 64 = s.otp.identityDigest) (himage : (s.imageValid 0 || s.imageValid 1) = true)
    (hblank : s.otp.root = .blank) : ∃ u : State, (∃ v, u.otp.root = .drawn v ∧ v.length = 32) ∧ u.alive = true ∧
      u.otp.bootEpoch = s.otp.bootEpoch + 1 ∧ u.otp.repair = s.otp.repair ∧ u.otp.good = s.otp.good ∧ u.otp.grade = s.otp.grade ∧
      Booted u (s.boot env retained) := by
  let p := s.powered env retained
  let d := p.draw 32
  let u : State := { d.1 with otp := { d.1.otp with root := .drawn d.2 } }
  have hroot : p.unwrapRoot env = some u := by
    have hp : p.otp.root = .blank := hblank
    unfold State.unwrapRoot
    rw [hp]
  refine ⟨u.withMode (modeOfBoot (requestedMode retained env) u.otp.sealEpoch), ⟨d.2, rfl, State.draw_length p 32⟩, rfl, rfl, rfl, rfl, rfl, ?_⟩
  rw [boot_of_checks hlife hepoch hroot hbridge hid]
  have hu (n : Nat) : u.imageValid n = s.imageValid n := imageValid_congr n rfl rfl rfl rfl rfl
  exact bootImage_booted _ (by rw [imageValid_withMode, imageValid_withMode, hu, hu, himage])

/-- Memory and cores at a boot rest on the repair map, the good cores and the grade alone. -/
theorem bootMemory_congr {o p : Otp} (h : o.repair = p.repair) : bootMemory o = bootMemory p := by
  have hr (k : Nat) : o.repairs k = p.repairs k := by rw [Otp.repairs, Otp.repairs, h]
  simp only [bootMemory, hr]

theorem bootCores_congr {o p : Otp} (h : o.repair = p.repair) (hgood : o.good = p.good) (hgrade : o.grade = p.grade) :
    bootCores o = bootCores p := by
  have hf : o.fencedCores = p.fencedCores := by rw [Otp.fencedCores, Otp.fencedCores, Otp.repairs, Otp.repairs, h]
  simp only [bootCores, hf, hgood, hgrade]

end Boots

end Sys2Proof.Machine

namespace Sys2Proof
open Machine
set_option Elab.async false

/-- Settles O5: a boot that passes its checks computes what `Booted` says, from the OTP as it was; RESET_N leaves what `wiped` lists. -/
theorem resetAndBoot : Obligations.ResetAndBoot := by
  refine ⟨?assert, ?cold, ?first, ?internal⟩
  case assert =>
    intro ns s hns
    refine ⟨s.wiped, ?_, rfl, rfl, rfl, rfl, rfl, rfl, rfl, rfl, rfl, rfl, rfl, rfl⟩
    simp [exec, execResetNAssert, doResetAssert, hns]
  case cold =>
    intro env s hreset hlife hepoch hwrap hblank herased hbridge hid himage
    refine ⟨s.boot env false, by simp [exec, execColdReset, doColdReset, hreset], ?_⟩
    have hb := boot_booted (retained := false) hlife hepoch hbridge hid himage hwrap hblank herased
    obtain ⟨n, hhub⟩ := hb.hub
    rw [State.alive, hhub, hb.otp, hb.inForce, hb.mem, hb.cores, hb.ctxs, hb.sessions rfl, hb.fences, hb.power, hb.opKey, hb.pending, hb.mode]
    exact ⟨rfl, rfl, rfl, rfl, rfl, rfl, rfl, rfl, rfl, rfl, rfl, rfl, rfl, rfl, rfl⟩
  case first =>
    intro env s hreset hlife hepoch hbridge hid himage hblank
    refine ⟨s.boot env false, by simp [exec, execColdReset, doColdReset, hreset], ?_⟩
    obtain ⟨u, hroot, halive, hep, hrepair, hgood, hgrade, hb⟩ := boot_booted_blank (retained := false) hlife hepoch hbridge hid himage hblank
    obtain ⟨n, hhub⟩ := hb.hub
    rw [State.alive, hhub, hb.otp, hb.mem, hb.cores, bootMemory_congr hrepair, bootCores_congr hrepair hgood hgrade]
    exact ⟨halive, hep, hroot, rfl, rfl⟩
  case internal =>
    intro env due s hreset hdue htime hlife hepoch hwrap hblank herased hbridge hid himage
    refine ⟨s.boot env s.life.retained, by simp [exec, execInternalColdReset, doInternalReset, hreset, hdue, htime], ?_⟩
    have hb := boot_booted (retained := s.life.retained) hlife hepoch hbridge hid himage hwrap hblank herased
    obtain ⟨n, hhub⟩ := hb.hub
    rw [State.alive, hhub, hb.otp, hb.inForce, hb.mem, hb.cores, hb.ctxs, hb.sessions rfl, hb.fences, hb.power, hb.opKey, hb.pending, hb.mode,
      hb.forceOpen, hb.retained]
    exact ⟨rfl, rfl, rfl, rfl, rfl, rfl, rfl, rfl, rfl, rfl, rfl, rfl, rfl, rfl, rfl, rfl⟩

end Sys2Proof

/-! ### Requests that answer at once -/

namespace Sys2Proof.Machine
set_option Elab.async false

/-- What has left since an earlier state holds what has left since a later one. -/
theorem Answered.of_grown {s u t : State} {op : Opcode} {m : Msg} {r : Reply} (hgrow : ∃ o, u.out = s.out ++ o) (h : Answered u t op m r) :
    Answered s t op m r := by
  obtain ⟨o, ho⟩ := hgrow
  unfold Answered at h ⊢
  rw [ho, List.length_append, ← List.drop_drop] at h
  exact List.mem_of_mem_drop h

/-- The way of an admitted request whose home rule answers: the answer leaves from what the rule has left. -/
theorem request_answered {s v : State} {op : Opcode} {m : Msg} {x : Session} {r : Reply} {body : State → Session → State × Option Reply}
    (h : Admits s op m x = true) (hb : body (s.takeMail op m) x = (v, some r)) (hout : ∃ o, v.out = (s.takeMail op m).out ++ o)
    (hses : (v.session? m.session).isSome = true) :
    s.request op m body = v.answer op m r ∧ Answered s (v.answer op m r) op m r := by
  obtain ⟨y, hy⟩ := Option.isSome_iff_exists.mp hses
  obtain ⟨o, ho⟩ := hout
  obtain ⟨o', ho'⟩ := (Sends.takeMail s op m).out
  exact ⟨State.request_of_admits h hb,
    Answered.of_grown ⟨o' ++ o, by rw [ho, ho', List.append_assoc]⟩ (State.answer_leaves hy)⟩

/-- The session of an admitted request stands once the request is taken from its mailbox. -/
theorem session?_of_admits {s : State} {op : Opcode} {m : Msg} {x : Session} (h : Admits s op m x = true) :
    (s.takeMail op m).session? m.session = some x := ((admits_iff s op m x).mp h).2.1

/-- A request whose home rule answers and changes nothing changes only what sending changes. -/
theorem request_onlySent {s : State} {op : Opcode} {m : Msg} {x : Session} {r : Reply} {body : State → Session → State × Option Reply}
    (h : Admits s op m x = true) (hb : body (s.takeMail op m) x = (s.takeMail op m, some r)) :
    Answered s (s.request op m body) op m r ∧ OnlySent s (s.request op m body) := by
  obtain ⟨heq, hans⟩ := request_answered h hb ⟨[], (List.append_nil _).symm⟩ (by rw [session?_of_admits h]; rfl)
  rw [heq]
  exact ⟨hans, ((Sends.takeMail s op m).trans (Sends.answer _ op m r)).onlySent⟩

end Sys2Proof.Machine

/-! ### POWER_CONFIG, and the requests that read -/

namespace Sys2Proof.Machine
set_option Elab.async false

/-- POWER_CONFIG of the management session, by length, reserved bits and range (R500, Table 16-3). -/
theorem doPowerConfig_set {m : Msg} {s : State} {x : Session} (hrole : x.role = .management) (hlen : m.length = 16)
    (hrsv : anySet (ofLe m.payload) 127 80 = false) (hin : (powerCfgOf (ofLe m.payload)).inRange (!s.conf && flag s.life.rights 5) = true) :
    doPowerConfig m s x = ({ s with power := { s.power with
      cfg := { s.power.cfg with budget := (powerCfgOf (ofLe m.payload)).budget }, next := powerCfgOf (ofLe m.payload),
      tiles := s.power.tiles.map (Tile.rebudget s.power.cfg.budget (powerCfgOf (ofLe m.payload)).budget) } },
      some { status := .ok, payload := (powerCfgOf (ofLe m.payload)).bytes }) := by
  simp [doPowerConfig, hrole, hlen, hrsv, hin, firstOf]

theorem doPowerConfig_read {m : Msg} {s : State} {x : Session} (hrole : x.role = .management) (hlen : m.length = 0) :
    doPowerConfig m s x = (s, some { status := .ok, payload := s.power.next.bytes }) := by
  simp [doPowerConfig, hrole, hlen, firstOf]

theorem doPowerConfig_denied {m : Msg} {s : State} {x : Session} (hrole : x.role = .management) (hlen : m.length = 16)
    (hrsv : anySet (ofLe m.payload) 127 80 = false) (hin : (powerCfgOf (ofLe m.payload)).inRange (!s.conf && flag s.life.rights 5) = false) :
    doPowerConfig m s x = (s, some { status := .denied, payload := s.power.next.bytes }) := by
  simp [doPowerConfig, hrole, hlen, hrsv, hin, firstOf]

end Sys2Proof.Machine

namespace Sys2Proof
open Machine
set_option Elab.async false

/-- Settles O10, by the three outcomes of `doPowerConfig`. -/
theorem powerConfigSetsAndReads : Obligations.PowerConfigSetsAndReads := by
  refine ⟨fun m x s hadm hrole hlen hrsv hin => ?sets, fun m x s hadm hrole hlen => ?reads, fun m x s hadm hrole hlen hrsv hin => ?denies⟩
  case sets =>
    have hsent := Sends.takeMail s .powerConfig m
    obtain ⟨heq, hans⟩ := request_answered hadm
      (doPowerConfig_set hrole hlen hrsv (by obtain ⟨_, _, _, h0⟩ := hsent; rw [h0]; exact hin))
      ⟨[], (List.append_nil _).symm⟩ (Option.isSome_iff_exists.mpr ⟨x, session?_of_admits hadm⟩)
    refine ⟨_, rfl, ?_⟩
    rw [heq]
    obtain ⟨_, _, _, ht⟩ := Sends.answer { s.takeMail .powerConfig m with power := { (s.takeMail .powerConfig m).power with
      cfg := { (s.takeMail .powerConfig m).power.cfg with budget := (powerCfgOf (ofLe m.payload)).budget }, next := powerCfgOf (ofLe m.payload),
      tiles := (s.takeMail .powerConfig m).power.tiles.map
        (Tile.rebudget (s.takeMail .powerConfig m).power.cfg.budget (powerCfgOf (ofLe m.payload)).budget) } } .powerConfig m
      { status := .ok, payload := (powerCfgOf (ofLe m.payload)).bytes }
    obtain ⟨_, _, _, h0⟩ := hsent
    refine ⟨?_, ?_, hans, ?_⟩
    · rw [ht]
    · rw [ht, h0]
    · rw [ht, h0]
  case reads =>
    obtain ⟨_, _, _, h0⟩ := Sends.takeMail s .powerConfig m
    obtain ⟨hans, hsent⟩ := request_onlySent hadm (doPowerConfig_read hrole hlen)
    exact ⟨_, rfl, by rw [h0] at hans; exact hans, hsent⟩
  case denies =>
    obtain ⟨_, _, _, h0⟩ := Sends.takeMail s .powerConfig m
    obtain ⟨hans, hsent⟩ := request_onlySent hadm (doPowerConfig_denied hrole hlen hrsv (by rw [h0]; exact hin))
    exact ⟨_, rfl, by rw [h0] at hans; exact hans, hsent⟩

end Sys2Proof

namespace Sys2Proof.Machine
set_option Elab.async false

/-- Taking a request from its mailbox leaves HOST as it is, but for the Bursar's round and the pause. -/
theorem takeMail_host (s : State) (op : Opcode) (m : Msg) : ∃ a b, (s.takeMail op m).host = { s.host with turn := a, pausing := b } := by
  have hwatch (u : State) : ∃ b, u.watchBuffers.host = { u.host with pausing := b } := by
    unfold State.watchBuffers
    dsimp only
    split
    · exact ⟨u.host.pausing, rfl⟩
    · exact ⟨_, rfl⟩
  obtain ⟨b, hb⟩ := hwatch ((s.modSession m.session (fun x => { x with rx := { x.rx with mailbox := dropFirst (op.code, m) x.rx.mailbox } })).modHost
    (fun h => if hubServed op.code then h else { h with turn := m.session + 1 }))
  unfold State.takeMail
  rw [hb]
  dsimp only [State.modHost_host, State.modSession_host]
  split
  · exact ⟨s.host.turn, b, rfl⟩
  · exact ⟨_, b, rfl⟩

/-- What TELEMETRY reports is not changed by the request's leaving its mailbox. -/
theorem section_takeMail (s : State) (op : Opcode) (m : Msg) (n : Nat) (observer : Bool) :
    (s.takeMail op m).section_ n observer = s.section_ n observer := by
  obtain ⟨a, b, hhost⟩ := takeMail_host s op m
  obtain ⟨ses, o, h, heq⟩ := Sends.takeMail s op m
  have hh : h = { s.host with turn := a, pausing := b } := by
    rw [heq] at hhost
    exact hhost
  rw [heq, hh]
  unfold State.section_
  split <;> rfl

theorem doErrRead_ok {m : Msg} {s : State} {x : Session} (hlen : m.length = 8) (hrole : x.role = .management) (hgen : m.ctxGen = 0)
    (hrsv : anySet (ofLe (slice m.payload 0 8)) 63 42 = false) :
    ∃ a, doErrRead m s x = (s, some
      { status := .ok
        arg0 := a
        payload := ((s.logs.records.filter (fun r => decide (field (ofLe (slice m.payload 0 8)) 31 0 ≤ r.1))).take
          (field (ofLe (slice m.payload 0 8)) 41 32)).flatMap (fun r => r.2.take 64) }) := by
  unfold doErrRead
  simp only [hlen, hrole, hgen, hrsv, firstOf, ne_eq, not_true_eq_false, decide_false, Bool.false_eq_true, if_false, bne_self_eq_false,
    beq_self_eq_true, Bool.true_or, Bool.and_true, if_true]
  exact ⟨_, rfl⟩

theorem doTelemetry_ok {m : Msg} {s : State} {x : Session} (hlen : m.length = 0) (harg : m.arg0 ≤ 4) (hrole : x.role = .management) :
    doTelemetry m s x = (s, some { status := s.telemetryStatus, payload := s.section_ m.arg0 false }) := by
  have hfield : field m.arg0 7 0 = m.arg0 := by
    simp only [field]
    omega
  have h4 : ¬ 4 < m.arg0 := Nat.not_lt.mpr harg
  have h8 : ¬ 256 ≤ m.arg0 := by omega
  have hobs : (Role.management == Role.observer) = false := by decide
  simp [doTelemetry, hlen, hrole, hfield, firstOf, h4, h8, hobs]

end Sys2Proof.Machine

namespace Sys2Proof
open Machine
set_option Elab.async false

/-- Settles O11: each home rule answers and hands the state on, and the counters that TELEMETRY reports are none that taking the request
changes. -/
theorem readingRequestsChangeNothing : Obligations.ReadingRequestsChangeNothing := by
  refine ⟨fun m x s hadm hlen => ?heartbeat, fun m x s hadm hlen => ?lcRead,
    fun m x w s hadm hlen hrole hgen hw hrsv => ?errRead, fun m x n s hadm hlen harg hn hrole => ?telemetry⟩
  case heartbeat =>
    obtain ⟨_, _, _, h0⟩ := Sends.takeMail s .heartbeat m
    obtain ⟨hans, hsent⟩ := request_onlySent hadm (body := doHeartbeat m) (by simp [doHeartbeat, hlen]; rfl)
    exact ⟨_, rfl, by rw [h0] at hans; exact hans, hsent⟩
  case lcRead =>
    obtain ⟨_, _, _, h0⟩ := Sends.takeMail s .lcRead m
    obtain ⟨hans, hsent⟩ := request_onlySent hadm (body := atOnce (lcRead m)) (by simp [atOnce, lcRead, hlen]; rfl)
    exact ⟨_, rfl, by rw [h0] at hans; exact hans, hsent⟩
  case errRead =>
    subst hw
    obtain ⟨_, _, _, h0⟩ := Sends.takeMail s .errRead m
    obtain ⟨a, hbody⟩ := doErrRead_ok (s := s.takeMail .errRead m) hlen hrole hgen hrsv
    obtain ⟨hans, hsent⟩ := request_onlySent hadm hbody
    exact ⟨_, rfl, ⟨a, by rw [h0] at hans; exact hans⟩, hsent⟩
  case telemetry =>
    subst harg
    obtain ⟨hans, hsent⟩ := request_onlySent hadm (doTelemetry_ok hlen hn hrole)
    rw [section_takeMail] at hans
    obtain ⟨_, _, _, h0⟩ := Sends.takeMail s .telemetry m
    exact ⟨_, rfl, by rw [h0] at hans; exact hans, hsent⟩

end Sys2Proof

/-! ### Tellers, tiles and stacks (R184–R187, R494–R498, R504, R505) -/

namespace Sys2Proof.Machine
set_option Elab.async false

@[simp] theorem getElem?_modAt_same {α : Type} (l : List α) (n : Nat) (f : α → α) : (modAt l n f)[n]? = l[n]?.map f := by
  unfold modAt
  split
  · next x hx =>
    obtain ⟨hn, _⟩ := List.getElem?_eq_some_iff.mp hx
    rw [List.getElem?_set_self hn, hx, Option.map_some]
  · next hx => rw [hx, Option.map_none]

theorem getElem?_modAt_other {α : Type} (l : List α) {n k : Nat} (h : k ≠ n) (f : α → α) : (modAt l n f)[k]? = l[k]? := by
  unfold modAt
  split
  · exact List.getElem?_set_ne (Ne.symm h)
  · rfl

@[simp] theorem length_modAt {α : Type} (l : List α) (n : Nat) (f : α → α) : (modAt l n f).length = l.length := by
  unfold modAt
  split
  · exact List.length_set
  · rfl

theorem modAt_id {α : Type} (l : List α) (n : Nat) : modAt l n id = l := by
  refine List.ext_getElem? fun k => ?_
  by_cases h : k = n
  · subst h
    rw [getElem?_modAt_same, Option.map_id, id]
  · rw [getElem?_modAt_other l h]

/-- The leave of a record or of a stack is a field of its own. -/
theorem setLeave_eq (s : State) (l : LeaveFor) (on : Bool) : ∃ cs st, s.setLeave l on = { s with ctxs := cs, hbmStacks := st } := by
  cases l with
  | command | train | port => exact ⟨_, _, rfl⟩

/-- A voltage request that waited may be sent; the Teller and what the regulator has confirmed stand (R505). -/
theorem sendRaise_eq (s : State) (n : Nat) : ∃ g o, s.sendRaise n = { s.modTile n g with out := o } ∧
    ∀ t : Tile, (g t).teller = t.teller ∧ (g t).confirmed = t.confirmed ∧ (g t).silent = t.silent := by
  have hid : s = { s.modTile n id with out := s.out } := by
    rw [State.modTile, modAt_id]
  unfold State.sendRaise
  split
  · exact ⟨id, s.out, hid, fun _ => ⟨rfl, rfl, rfl⟩⟩
  · split
    · exact ⟨id, s.out, hid, fun _ => ⟨rfl, rfl, rfl⟩⟩
    · split
      · exact ⟨_, _, rfl, fun _ => ⟨rfl, rfl, rfl⟩⟩
      · exact ⟨id, s.out, hid, fun _ => ⟨rfl, rfl, rfl⟩⟩

/-- A Teller grants its oldest request when that fits the budget and the window (R497, R498). -/
theorem Teller.grant_fits {t : Teller} {l : LeaveFor} {rest : List LeaveFor} {band budget : Nat} (hq : t.queue = l :: rest)
    (hb : t.held band + l.cost band ≤ budget) (hw : t.window + l.cost band ≤ 128) :
    t.grant band budget = ({ t with queue := rest, grants := t.grants ++ [l], window := t.window + l.cost band }, some l) := by
  simp [Teller.grant, hq, hb, hw]

/-- A request that does not fit is not granted, and no younger one before it. -/
theorem Teller.grant_unfit {t : Teller} {l : LeaveFor} {rest : List LeaveFor} {band budget : Nat} (hq : t.queue = l :: rest)
    (h : budget < t.held band + l.cost band ∨ 128 < t.window + l.cost band) : t.grant band budget = (t, none) := by
  have hn : ¬ (t.held band + l.cost band ≤ budget ∧ t.window + l.cost band ≤ 128) := by omega
  simp [Teller.grant, hq, hn]

end Sys2Proof.Machine

namespace Sys2Proof
open Machine
set_option Elab.async false

/-- Settles O9, by what `Teller.grant` does with its oldest request. -/
theorem tellerGrantsOldestThatFits : Obligations.TellerGrantsOldestThatFits := by
  refine ⟨fun n x l rest s hal hgate hx hq hb hw => ?grants, fun n x l rest s hal hx hq h => ?refuses,
    fun n x l rest s hal hpin hx hq hb hw => ?link, fun n x s hal hx => ?window, fun k x y s hal hx htrain hidle hy => ?idle⟩
  case grants =>
    have hg := Teller.grant_fits hq hb hw
    refine ⟨_, by simp only [exec, execLeaveGrant, hal, State.grantTile, hx, hgate, hg]; rfl, ?_⟩
    obtain ⟨cs, st, h⟩ := setLeave_eq (s.modTile n (fun t => { t with teller := (x.teller.grant x.band (x.budget s.power.cfg.budget)).1 })) l true
    rw [hg] at h
    simp only [Bool.not_true, Bool.false_eq_true, if_false]
    rw [h]
    exact ⟨⟨{ x with teller := { x.teller with queue := rest, grants := x.teller.grants ++ [l], window := x.teller.window + l.cost x.band } },
      by simp [hx], rfl, rfl, rfl⟩, rfl, rfl, rfl, rfl⟩
  case refuses =>
    refine ⟨s, ?_, rfl⟩
    simp only [exec, execLeaveGrant, hal, State.grantTile, hx, Teller.grant_unfit hq h, Bool.not_true, Bool.false_eq_true, ite_self]
  case link =>
    have hg := Teller.grant_fits hq hb hw
    refine ⟨_, rfl, ?_⟩
    simp only [hal, State.grantLink, hx, hpin, hg, Bool.not_true, Bool.false_eq_true, if_false]
    cases l with
    | command | train | port => exact ⟨⟨_, by simp [hx]; rfl, rfl, rfl, rfl⟩, rfl, rfl, rfl⟩
  case window =>
    refine ⟨_, rfl, ?_⟩
    simp only [hal, Bool.not_true, Bool.false_eq_true, if_false]
    exact ⟨⟨_, by simp [hx]; rfl, rfl⟩, rfl⟩
  case idle =>
    refine ⟨_, rfl, ?_⟩
    simp only [doHbmTrainIdle, hx, hal, htrain, hidle, decide_true, Bool.and_true, if_true, State.returnCoins]
    obtain ⟨g, o, h, hteller⟩ := sendRaise_eq ((s.modStack k (fun y => { y with train := false })).modTile (k / 2)
      (fun t => { t with teller := t.teller.drop (fun l => l == .train k) })) (k / 2)
    rw [h]
    refine ⟨⟨{ x with train := false }, by simp [hx], rfl⟩, ⟨g { y with teller := y.teller.drop (fun l => l == .train k) }, by simp [hy], ?_⟩, rfl, rfl⟩
    rw [(hteller _).1]
    rfl

end Sys2Proof

namespace Sys2Proof
open Machine
set_option Elab.async false

/-- A tile whose regulator has not yet confirmed 720 mV, and whose next request, for 700 mV, waits for it. -/
def waitingRaise : Tile := { asked := some 0, raise := some 700 }

/-- A running device whose first tile is such a one. -/
def devWaitingRaise : State := { power := { tiles := [waitingRaise] } }

/-- Refutes O12: in its fourth clause the confirmation of a voltage lets the request that waits go out to the regulator (R505), so that something
leaves the device. -/
theorem not_powerAndStackCommandsComplete : ¬ Obligations.PowerAndStackCommandsComplete := by
  rintro ⟨-, -, -, hconfirmed, -⟩
  obtain ⟨t, ht, -, -, -, hout⟩ := hconfirmed 0 waitingRaise devWaitingRaise rfl rfl rfl
  cases ht
  exact absurd hout (by decide)

end Sys2Proof

/-! ### An undervoltage revokes leave of records that it does not end (R516) -/

namespace Sys2Proof
open Machine
set_option Elab.async false

/-- A record that waits, though it holds leave. -/
def grantedWaiting : Rec := { seq := 0, image := [], leave := true }

/-- A device whose first tile's Teller holds a grant for that record, and runs nothing. -/
def devGrantedWaiting : State :=
  { power := { tiles := [{ teller := { grants := [.command 0 0 0 0 false] } }] }
    ctxs := [{ id := 0, gen := 0, owner := 0, queues := [{ number := 0, recs := [grantedWaiting] }] }] }

/-- Refutes O6: the last conjunct of its fifth clause keeps every record that no operation on the tile stands for exactly as it was, but the
revocation of the tile's grants takes the leave of the record that a grant names, on whatever tile or phase. -/
theorem not_supplyFaultsStopDevice : ¬ Obligations.SupplyFaultsStopDevice := by
  rintro ⟨-, -, -, -, hunder⟩
  obtain ⟨t, ht, -, -, -, -, -, hframe⟩ := hunder 0 { teller := { grants := [.command 0 0 0 0 false] } } devGrantedWaiting rfl (by decide) rfl
  cases ht
  have hkept := hframe 0 0 0 0 grantedWaiting rfl (by
    intro c hc _ y hy _ z hz _ _
    obtain rfl := List.mem_singleton.mp hc
    obtain rfl := List.mem_singleton.mp hy
    obtain rfl := List.mem_singleton.mp hz
    rfl)
  exact absurd (congrArg (Option.map Rec.leave) hkept) (by decide)

end Sys2Proof

/-! ### The sessions that LC_ADVANCE closes leave the contexts that they had joined (R331) -/

namespace Sys2Proof
open Machine
set_option Elab.async false

/-- The state that an outcome gives, to evaluate a counterexample with. -/
def after (o : Host.Outcome State Fault Refusal) : State := match o with
  | .next t => t
  | _ => {}

theorem after_exec {i : Instr} {s t : State} (h : exec i s = .next t) : after (exec i s) = t := by rw [h]; rfl

/-- LC_ADVANCE to RETURNED, signed by the operator. -/
def returnMsg : Msg :=
  { tag := 5, length := 192,
    payload := [3, 1, 0, 0, 0, 0, 0, 0] ++ List.replicate 57 9 ++ List.replicate 7 0 ++ List.replicate 114 3 ++ List.replicate 6 0 }

/-- A device whose management session has joined a consortium's context that no session owns. -/
def devJoined : State := { Tests.devSigned with ctxs := [{ id := 3, gen := 1, owner := 9, joined := [(0, 0, 0)] }] }

/-- Refutes O16: the reset that an accepted LC_ADVANCE makes due closes every session, and an ended session is struck from the `joined` list of
each context, so the contexts do not stay as they were even when no session owns one. -/
theorem not_i3cServesTheBmc : ¬ Obligations.I3cServesTheBmc := by
  rintro ⟨hadvance, -⟩
  obtain ⟨t, ht, -, -, -, hctxs⟩ := hadvance returnMsg Tests.mgmt .returned 1 0 devJoined (by decide +kernel) (by decide +kernel) (by decide +kernel)
    (by decide +kernel) (by decide +kernel) (by decide +kernel) (by decide +kernel) (by decide +kernel) (by decide +kernel) (by decide +kernel)
    (by decide +kernel) (by decide +kernel) (by decide +kernel)
  rw [← after_exec ht] at hctxs
  exact absurd (congrArg (List.map Ctx.joined) hctxs) (by decide +kernel)

end Sys2Proof

/-! ### Two contexts of one identifier, and a wait of one session's tag under another context

The statements below quantify over every state, so also over states in which an identifier or a tag is used twice. -/

namespace Sys2Proof
open Machine
set_option Elab.async false

/-- KEY_DESTROY of the key that `Tests.devLoaded` holds. -/
def destroyKeyMsg : Msg := { Tests.keyMsg 0 with length := 8, payload := toLe 8 Tests.firstKey }

/-- A device with that key where a request of the same session and tag waits for another context. -/
def devLoadedWaiting : State :=
  { Tests.devLoaded with
      waits := [{ session := 1, sgen := 0, opcode := .keyLoad, tag := 5, ctx := 9, ctxGen := 1, what := .keyBind 7 }] }

/-- Refutes O24: a KEY_DESTROY that ends at once ends every wait of its session and tag, also one of another context, so the waits need not be
those from before it. -/
theorem not_keysAreMadeAndDestroyed : ¬ Obligations.KeysAreMadeAndDestroyed := by
  rintro ⟨-, -, -, hdestroy⟩
  obtain ⟨t, ht, -, hends⟩ := hdestroy destroyKeyMsg Tests.tenant Tests.ctx0 Tests.firstKey Tests.firstKey devLoadedWaiting (by decide +kernel)
    (by decide +kernel) (by decide +kernel) (by decide +kernel) (by decide +kernel) (by decide +kernel) (by decide +kernel)
  obtain ⟨-, hwaits⟩ := hends (by decide +kernel) (by decide +kernel)
  rw [← after_exec ht] at hwaits
  exact absurd hwaits (by decide +kernel)

/-- CTX_RESUME, form 1. -/
def resumeAgainMsg : Msg := { session := 1, tag := 5, ctx := 3, ctxGen := 1, length := 32, payload := [1] ++ List.replicate 31 0 }

/-- A suspended context beside a resident one of the same identifier. -/
def devTwice : State := { Tests.devIdle .suspended with ctxs := [Tests.ctxIdle .suspended, Tests.ctxIdle .resident] }

/-- Refutes O26: a second context with the identifier that is resident is not READY after form 1 of CTX_RESUME. -/
theorem not_ctxResumeMovesResidency : ¬ Obligations.CtxResumeMovesResidency := by
  rintro ⟨-, hresume, -⟩
  obtain ⟨t, ht, -, hready, -⟩ := hresume resumeAgainMsg Tests.tenant (Tests.ctxIdle .suspended) (resumeOf 1) devTwice (by decide +kernel)
    (by decide +kernel) (by decide +kernel) (by decide +kernel) (by decide +kernel) (by decide +kernel) (by decide +kernel) (by decide +kernel)
  rw [← after_exec ht] at hready
  exact absurd hready (by decide +kernel)

/-- A leaving context with a Ledger entry for its work, beside a suspended one of the same identifier. -/
def devLeavingTwice : State :=
  { Tests.devLeaving with
      ctxs := [Tests.ctxLeaving, Tests.ctxIdle .suspended]
      ledger := ({} : Ledger).issue 12288 (.transfer 3 0 0) (some 3) none }

/-- Refutes O27: RESIDENCY_EXIT_DONE looks at the first context of the identifier, so a second one that is suspended is not RESIDENT after it. -/
theorem not_residencyEntersAndLeaves : ¬ Obligations.ResidencyEntersAndLeaves := by
  rintro ⟨hheld, -⟩
  obtain ⟨t, ht, hstays⟩ := hheld 3 Tests.ctxLeaving devLeavingTwice (by decide +kernel) (by decide +kernel) (by decide +kernel)
    (by decide +kernel) (by decide +kernel) (by decide +kernel) (by decide +kernel) (by decide +kernel)
  rw [← after_exec ht] at hstays
  exact absurd hstays (by decide +kernel)

end Sys2Proof

/-! ### A REPEAT within a generated iteration (R164) -/

namespace Sys2Proof
open Machine
set_option Elab.async false

/-- A running REPEAT with a count of 2 and a span of 1 that an iteration has put into the queue. -/
def innerRepeat : Rec := { (Tests.runRec .repeatOp (2 + 2 ^ 32)) with seq := 1, iter := 1 }

/-- Its queue and context. -/
def innerQueue : Queue := Tests.qOf innerRepeat
def innerCtx : Ctx := { Tests.ctx0 with queues := [innerQueue] }

/-- Refutes O32: a REPEAT of an iteration other than 0 ends with BAD_OPERAND, though its count and span are in order. -/
theorem not_hubCommandsEnd : ¬ Obligations.HubCommandsEnd := by
  rintro ⟨-, -, hbegin, -⟩
  obtain ⟨t, ht, hrep⟩ := hbegin 3 0 1 1 innerCtx innerQueue innerRepeat { Tests.devKeys with ctxs := [innerCtx] } (by decide +kernel)
    (by decide +kernel) (by decide +kernel) (by decide +kernel) (by decide +kernel) (by decide +kernel) (by decide +kernel) (by decide +kernel)
    (by decide +kernel) (by decide +kernel)
  rw [← after_exec ht] at hrep
  exact absurd (congrArg State.ctxs hrep) (by decide +kernel)

end Sys2Proof

/-! ### A pause in force, and a context with an unknown partition -/

namespace Sys2Proof
open Machine
set_option Elab.async false

/-- PAGE_HINT that pins page 0. -/
def pinMsg : Msg := Tests.msg3 16 (toLe 8 0 ++ toLe 8 (1 + 2 ^ 32))

/-- A suspended context with one page, on a device that pauses HOST though its buffers are empty. -/
def ctxSuspended : Ctx := { (Tests.ctxIdle .suspended) with limits := { localMax := 4, sramMax := 2 }, pages := [Tests.pageA] }
def devPausing : State := { Tests.devPaged with ctxs := [ctxSuspended], host := { row := some 0, cfg := { pfc := 0 }, pausing := true } }

/-- Refutes O40: a request that leaves its mailbox can end a pause of HOST, so something may leave the device though the pin is not answered. -/
theorem not_unmapAndHintsChangeTheirPages : ¬ Obligations.UnmapAndHintsChangeTheirPages := by
  rintro ⟨-, -, -, -, -, hpin⟩
  obtain ⟨t, ht, hout, -⟩ := hpin pinMsg Tests.tenant ctxSuspended (ofLe (slice pinMsg.payload 0 16)) 0 1 devPausing (by decide +kernel)
    (by decide +kernel) (by decide +kernel) rfl (by decide +kernel) (by decide +kernel) (by decide +kernel) (by decide +kernel)
    (by decide +kernel) (by decide +kernel) (by decide +kernel) (by decide +kernel) (by decide +kernel) (by decide +kernel) (by decide +kernel)
    (by decide +kernel) (by decide +kernel) (by decide +kernel)
  rw [← after_exec ht] at hout
  exact absurd hout (by decide +kernel)

/-- REGULATE with two partitions in use. -/
def regulateMsg : Msg := { tag := 5, length := 64, payload := toLe 4 (100 + 2 ^ 24) ++ toLe 4 (20 + 65536 * 30) ++ toLe 56 0 }

/-- A context that is assigned to a partition past the sixteen. -/
def devStray : State := { Tests.devGranted with ctxs := [{ Tests.ctxGranted with assigned := { part := 16 } }] }

/-- Refutes O41: REGULATE is refused while a context is assigned to a partition that does not exist. -/
theorem not_placementIsRegulatedAndReported : ¬ Obligations.PlacementIsRegulatedAndReported := by
  rintro ⟨hregulate, -⟩
  obtain ⟨t, ht, -, hforce, -⟩ := hregulate regulateMsg Tests.mgmt devStray (by decide +kernel) (by decide +kernel) (by decide +kernel)
    (by decide +kernel) (by decide +kernel) (by decide +kernel) (by decide +kernel) (by decide +kernel)
  rw [← after_exec ht] at hforce
  exact absurd hforce (by decide +kernel)

end Sys2Proof

/-! ### Two groups of one identifier -/

namespace Sys2Proof
open Machine
set_option Elab.async false

/-- A device whose table holds two groups with identifier 7 of one context: a newer one before the one that the command names. -/
def devTwins : State :=
  { Tests.devColl 0 Tests.groupTwo with links := Tests.plane [{ Tests.groupTwo with gen := 2 }, Tests.groupTwo] [] }

/-- Refutes O43: the group that takes the next turn is found by its generation, and another group of the same identifier may stand before it. -/
theorem not_collectivesBeginTheirInstance : ¬ Obligations.CollectivesBeginTheirInstance := by
  rintro ⟨hreduce, -⟩
  obtain ⟨t, ht, z, hz, -, -, hgen, -⟩ := hreduce 3 0 0 0 (Tests.ctxColl 0) (Tests.qOf (Tests.recColl 0)) (Tests.recColl 0)
    (collArgs (Tests.collArg 0)) Tests.groupTwo [] 12288 devTwins (by decide +kernel) (by decide +kernel) (by decide +kernel)
    (by decide +kernel) (by decide +kernel) (by decide +kernel) (by decide +kernel) (by decide +kernel) (by decide +kernel)
    (by decide +kernel) (by decide +kernel)
  have hfound : (t.group? 3 7).map Group.gen = some 1 := (congrArg (Option.map Group.gen) hz).trans (congrArg some hgen)
  rw [← after_exec ht] at hfound
  exact absurd hfound (by decide +kernel)

end Sys2Proof

/-! ### What the stacks hold (R383–R390) -/

namespace Sys2Proof
open Machine
set_option Elab.async false

theorem keyStream_length (k : Bytes) (key : Bool × Nat) (pa major minor : Nat) : (keyStream k key pa major minor).length = 256 := by
  unfold keyStream
  rw [List.length_flatMap]
  simp only [toLe_length]
  decide

/-- XOR with the same bytes twice gives the bytes back. -/
theorem xorBytes_xorBytes : ∀ (a b : Bytes), a.length ≤ b.length → xorBytes (xorBytes a b) b = a
  | [], _, _ => rfl
  | x :: a, y :: b, h => by
    have hx : x ^^^ y ^^^ y = x := by rw [BitVec.xor_assoc, BitVec.xor_self, BitVec.xor_zero]
    have ih := xorBytes_xorBytes a b (by simpa using h)
    simp only [xorBytes, List.zipWith_cons_cons, hx] at ih ⊢
    rw [ih]

theorem reserveWord_tagWordAt (s : State) (k p b : Nat) (hp : p < 31744) (hb : b < 8192) :
    s.reserveWord k (tagWordAt (8192 * p + b)) = s.tagWord (32768 * k + p) b := by
  have hoff : 8 * (8192 * p + b) < 0x7C000000 := by omega
  have hframe : 8 * (8192 * p + b) / 8 / 8192 = p := by omega
  have hblock : 8 * (8192 * p + b) / 8 % 8192 = b := by omega
  simp only [State.reserveWord, tagWordAt, if_pos hoff, hframe, hblock, Nat.mul_comm k]

theorem reserveWord_lowAt (s : State) (k p n : Nat) (hp : p < 31744) (hn : n < 512) :
    s.reserveWord k (lowAt (512 * p + n)) = sparse (s.mem.meta (32768 * k + p)).low n := by
  have hpast : ¬0x7C000000 + 4 * (512 * p + n) < 0x7C000000 := by omega
  have hoff : 0x7C000000 + 4 * (512 * p + n) < 0x7FE00000 := by omega
  have hframe : (0x7C000000 + 4 * (512 * p + n) - 0x7C000000) / 4 / 512 = p := by omega
  have hsector : (0x7C000000 + 4 * (512 * p + n) - 0x7C000000) / 4 % 512 = n := by omega
  simp only [State.reserveWord, lowAt, if_neg hpast, if_pos hoff, hframe, hsector, Nat.mul_comm k]

theorem reserveWord_pageWordAt (s : State) (k p : Nat) (hp : p < 31744) :
    s.reserveWord k (pageWordAt p) = (s.mem.meta (32768 * k + p)).pageWord := by
  have hpast : ¬0x7FE00000 + 8 * p < 0x7C000000 := by omega
  have hpast' : ¬0x7FE00000 + 8 * p < 0x7FE00000 := by omega
  have hoff : 0x7FE00000 + 8 * p < 0x7FE3E000 := by omega
  have hframe : (0x7FE00000 + 8 * p - 0x7FE00000) / 8 = p := by omega
  simp only [State.reserveWord, pageWordAt, if_neg hpast, if_neg hpast', if_pos hoff, hframe, Nat.mul_comm k]

theorem reserveWord_beyond (s : State) (k o : Nat) (ho : 0x7FE3E000 ≤ o) : s.reserveWord k o = 0 := by
  simp only [State.reserveWord, if_neg (show ¬o < 0x7C000000 by omega), if_neg (show ¬o < 0x7FE00000 by omega), if_neg (show ¬o < 0x7FE3E000 by omega)]

theorem xorBytes_cipherBlock (s : State) (f b : Nat) :
    xorBytes (s.cipherBlock f b) (keyStream (s.memoryKey (s.keyOfFrame f)) (s.keyOfFrame f) (physAt f (b * 256)) ((s.mem.meta f).major (b / 16))
      (sparse (s.mem.meta f).minors b)) = readCells s.mem.cells (physAt f (b * 256)) 256 :=
  xorBytes_xorBytes _ _ (Nat.le_of_eq (by rw [readCells_length, keyStream_length]))

theorem tagWord_minor (s : State) (f b : Nat) (hp : (s.mem.meta f).poisoned? b = none) (hm : sparse (s.mem.meta f).minors b < 255) :
    s.tagWord f b % 256 = sparse (s.mem.meta f).minors b := by
  simp only [State.tagWord, hp]
  omega

theorem tagWord_poison (s : State) (f b : Nat) (p : Poison) (hp : (s.mem.meta f).poisoned? b = some p) : s.tagWord f b % 256 = 0xFF := by
  simp only [State.tagWord, hp, Poison.word]
  omega

/-- Settles O60: each word of the reserve by the offset that Table 12-3 gives it, and the ciphertext by XOR with its own key stream. -/
theorem stacksHoldCiphertextAndTags : Obligations.StacksHoldCiphertextAndTags :=
  ⟨fun s k p b hp hb => ⟨reserveWord_tagWordAt s k p b hp hb, reserveWord_pageWordAt s k p hp⟩, reserveWord_lowAt, reserveWord_beyond, by decide,
    xorBytes_cipherBlock, tagWord_minor, tagWord_poison⟩

end Sys2Proof

/-! ### Two contexts of one identifier -/

namespace Sys2Proof
open Machine
set_option Elab.async false

/-- A device whose table holds two contexts with identifier 3: behind the one that the run finds, one with another request waiting. -/
def devTwinRun : State :=
  { Tests.devOpt Tests.paramNat (Tests.optReq 1 0) with
    ctxs := [Tests.ctxOpt (Tests.optReq 1 0), Tests.ctxOpt { Tests.optReq 1 0 with tag := 9 }] }

/-- Refutes O53: the run takes its request out of the list of every context with the identifier, each of which keeps its own others. -/
theorem not_optimiserRequestsRun : ¬ Obligations.OptimiserRequestsRun := by
  rintro ⟨-, -, hrun, -⟩
  obtain ⟨t, ht, hopt, -⟩ := hrun 3 6 (Tests.ctxOpt (Tests.optReq 1 0)) (Tests.optReq 1 0) (optArgs (Tests.optPayload 1 0)) devTwinRun
    (by decide +kernel) (by decide +kernel) (by decide +kernel) (by decide +kernel) (by decide +kernel) (by decide +kernel) rfl
    (by decide +kernel) (by decide +kernel)
  rw [← after_exec ht] at hopt
  exact absurd hopt (by decide +kernel)

end Sys2Proof

/-! ### A request that answers at once and has an effect -/

namespace Sys2Proof.Machine
set_option Elab.async false

/-- A request whose home rule answers and has the effect `f`, which reads and writes nothing of the transport. -/
theorem request_effect {s : State} {op : Opcode} {m : Msg} {x : Session} {r : Reply} {body : State → Session → State × Option Reply}
    (f : State → State) (h : Admits s op m x = true) (hb : body (s.takeMail op m) x = (f (s.takeMail op m), some r))
    (hf : ∀ ses o p, f { s with sessions := ses, out := o, host := p } = { f s with sessions := ses, out := o, host := p }) :
    Answered s (s.request op m body) op m r ∧ OnlySent (f s) (s.request op m body) := by
  have hses := session?_of_admits h
  obtain ⟨ses, o, p, h0⟩ := Sends.takeMail s op m
  have hout : (f (s.takeMail op m)).out = (s.takeMail op m).out := by rw [h0, hf]
  have hsession : (f (s.takeMail op m)).session? m.session = some x := by
    rw [← hses, h0, hf]
    rfl
  obtain ⟨heq, hans⟩ := request_answered h hb ⟨[], by rw [hout, List.append_nil]⟩ (Option.isSome_iff_exists.mpr ⟨x, hsession⟩)
  obtain ⟨ses', o', p', ht⟩ := Sends.answer (f (s.takeMail op m)) op m r
  rw [heq]
  refine ⟨hans, ?_⟩
  rw [ht, h0, hf ses (s.out ++ o) p]


/-- Bits that lie within bits that are all zero are zero. -/
theorem field_eq_zero_of_anySet {v hi lo hi' lo' : Nat} (h : anySet v hi lo = false) (hlo : lo ≤ lo') (hhi : hi' ≤ hi) : field v hi' lo' = 0 := by
  simp only [anySet, field, bne_eq_false_iff_eq] at h ⊢
  obtain ⟨k, rfl⟩ := Nat.exists_eq_add_of_le hlo
  rcases Nat.lt_or_ge hi' (lo + k) with hlt | hge
  · rw [Nat.sub_eq_zero_of_le hlt, Nat.pow_zero, Nat.mod_one]
  · have hdvd : 2 ^ k * 2 ^ (hi' + 1 - (lo + k)) ∣ v >>> lo := by
      rw [← Nat.pow_add]
      exact Nat.dvd_trans (Nat.pow_dvd_pow 2 (by omega)) (Nat.dvd_of_mod_eq_zero h)
    obtain ⟨q, hq⟩ := hdvd
    rw [Nat.shiftRight_add, Nat.shiftRight_eq_div_pow (v >>> lo), hq, Nat.mul_assoc, Nat.mul_div_cancel_left _ (Nat.two_pow_pos k)]
    exact Nat.mul_mod_right _ _

theorem anySet_of_anySet {v hi lo hi' lo' : Nat} (h : anySet v hi lo = false) (hlo : lo ≤ lo') (hhi : hi' ≤ hi) : anySet v hi' lo' = false := by
  simp only [anySet, bne_eq_false_iff_eq]
  exact field_eq_zero_of_anySet h hlo hhi

end Sys2Proof.Machine

/-! ### What sending leaves of a session -/

namespace Sys2Proof.Machine
set_option Elab.async false

/-- A session apart from what sending changes: its tags, what of its transmitter tells of frames, and what of its receiver tells of the
last ACK. -/
def Session.standing (x : Session) : Session :=
  { x with
    tags := []
    tx := { x.tx with seq := 0, ackSeq := 0, nextMsg := 0, waiting := [], unacked := [], lastAdvance := 0, frames := 0, oldLeft := 0 }
    rx := { x.rx with unacked := 0, ce := 0, offered := 0 } }

/-- Each session stands as it stood, apart from what sending changes. -/
def SessionsStand (s t : State) : Prop := ∀ n, (t.session? n).map Session.standing = (s.session? n).map Session.standing

theorem SessionsStand.refl (s : State) : SessionsStand s s := fun _ => rfl

theorem SessionsStand.trans {s t u : State} (h : SessionsStand s t) (k : SessionsStand t u) : SessionsStand s u :=
  fun n => (k n).trans (h n)

theorem SessionsStand.of_eq {s t : State} (h : t.sessions = s.sessions) : SessionsStand s t := fun n => by
  simp only [State.session?, h]

theorem Session.number_of_standing {x y : Session} (h : y.standing = x.standing) : y.number = x.number := by
  have hnum : y.standing.number = x.standing.number := by rw [h]
  exact hnum

theorem SessionsStand.modSession (s : State) (n : Nat) (f : Session → Session) (hf : ∀ x, (f x).standing = x.standing) :
    SessionsStand s (s.modSession n f) := fun k => by
  rw [State.session?_modSession s n k f (fun x => Session.number_of_standing (hf x)), Option.map_map]
  congr 1
  funext x
  dsimp only [Function.comp]
  split
  · exact hf x
  · rfl

theorem SessionsStand.of_map {s t : State} {n : Nat} {f : Session → Session}
    (h : t.sessions = s.sessions.map (fun x => if x.number = n then f x else x)) (hf : ∀ x, (f x).standing = x.standing) : SessionsStand s t :=
  (SessionsStand.modSession s n f hf).trans (SessionsStand.of_eq h)

/-- The session of a number is replaced, with its copies, by one that stands as it stood. -/
theorem SessionsStand.replace {s : State} {n : Nat} {x y : Session} (hx : s.session? n = some x) (hy : y.standing = x.standing) :
    SessionsStand s (s.modSession n (fun _ => y)) := fun k => by
  have hnum : y.number = n := (Session.number_of_standing hy).trans (State.session?_number hx)
  have hkeep : s.modSession n (fun _ => y) = s.modSession n (fun z => if z.number = n then y else z) := by
    simp only [State.modSession]
    congr 2
    funext z
    split <;> rfl
  rw [hkeep, State.session?_modSession s n k _ (fun z => by split <;> simp_all)]
  by_cases hk : k = n
  · subst hk
    simp [hx, hy, State.session?_number hx]
  · simp [hk]

theorem SessionsStand.turnHost (s : State) : SessionsStand s s.turnHost := by
  have hmod (u : State) (f : HostPort → HostPort) : (u.modHost f).sessions = u.sessions := rfl
  have hwatch (u : State) : u.watchBuffers.sessions = u.sessions := by
    unfold State.watchBuffers
    dsimp only
    split <;> rfl
  have hbegin (u : State) : u.hostBegin.sessions = u.sessions := by
    unfold State.hostBegin
    dsimp only
    split <;> split <;> rfl
  have hset (u : State) (c : HostCfg) (cak : Nat) : (u.setHost c cak).sessions = u.sessions := by
    unfold State.setHost
    dsimp only
    rw [hbegin, hwatch, hmod]
    split <;> rfl
  apply SessionsStand.of_eq
  unfold State.turnHost
  split
  · rfl
  · split
    · rfl
    · rw [hmod, hset]

theorem SessionsStand.pump (s : State) (n : Nat) : SessionsStand s (s.pump n) := by
  unfold State.pump
  split
  · exact SessionsStand.refl s
  · next x hx =>
    split
    · exact SessionsStand.refl s
    · exact (SessionsStand.replace (y := (x.pump s.hub.timer).1) hx rfl).trans
        (SessionsStand.trans (SessionsStand.of_eq rfl) (SessionsStand.turnHost _))

theorem SessionsStand.sendAck (s : State) (n : Nat) : SessionsStand s (s.sendAck n) := by
  unfold State.sendAck
  split
  · exact SessionsStand.refl s
  · split
    · exact SessionsStand.refl s
    · exact SessionsStand.of_map (n := n) rfl (fun _ => rfl)

theorem SessionsStand.reopen (s : State) (n : Nat) : SessionsStand s (s.reopen n) := by
  unfold State.reopen
  split
  · exact SessionsStand.refl s
  · split
    · exact SessionsStand.sendAck s n
    · exact SessionsStand.refl s

theorem SessionsStand.send (s : State) (n op : Nat) (ans dev : Bool) (ctx ctxGen tag status arg0 : Nat) (bs : Bytes) :
    SessionsStand s (s.send n op ans dev ctx ctxGen tag status arg0 bs) := by
  unfold State.send
  split
  · exact SessionsStand.refl s
  · exact SessionsStand.trans (SessionsStand.of_map (n := n) (f := fun x => x.enqueue _) rfl (fun _ => rfl)) (SessionsStand.pump _ n)

theorem SessionsStand.answer (s : State) (op : Opcode) (m : Msg) (r : Reply) : SessionsStand s (s.answer op m r) := by
  unfold State.answer
  dsimp only
  refine SessionsStand.trans ?_ (SessionsStand.reopen _ _)
  refine SessionsStand.trans ?_ (SessionsStand.send _ _ _ _ _ _ _ _ _ _ _)
  split
  · exact SessionsStand.modSession s _ _ (fun _ => rfl)
  · exact SessionsStand.refl s

theorem SessionsStand.finish (s : State) (w : Wait) (r : Reply) : SessionsStand s (s.finish w r) := by
  unfold State.finish
  dsimp only
  split
  · exact SessionsStand.of_eq rfl
  · split
    · exact SessionsStand.of_eq rfl
    · exact (SessionsStand.trans (SessionsStand.of_map (n := w.session) (f := fun y => { y with tags := y.tags.filter (fun t => t != w.tag) }) rfl (fun _ => rfl))
        (SessionsStand.send _ _ _ _ _ _ _ _ _ _ _)).trans (SessionsStand.reopen _ _)

/-- A session that stood still stands. -/
theorem SessionsStand.session? {s t : State} (h : SessionsStand s t) {n : Nat} {x : Session} (hx : s.session? n = some x) :
    ∃ y, t.session? n = some y ∧ y.standing = x.standing := by
  have hn := h n
  rw [hx, Option.map_some, Option.map_eq_some_iff] at hn
  exact hn

end Sys2Proof.Machine

/-! ### Fences (R363–R367) -/

namespace Sys2Proof.Machine
set_option Elab.async false

theorem State.mem_of_ctx? {s : State} {id : Nat} {c : Ctx} (h : s.ctx? id = some c) : c ∈ s.ctxs := List.mem_of_find?_eq_some h

/-- A fence that a context references is in force under the handle that it names. -/
theorem heldFence_iff {s : State} {c : Ctx} {h : Nat} {y : Fence} :
    s.heldFence c h = some y ↔ s.fenceOf (c.translate h) = some y ∧ y.index ∈ c.fences := by
  unfold State.heldFence
  split
  · next f hf =>
    simp only [List.contains_iff_mem, Option.ite_none_right_eq_some, Option.some.injEq, hf]
    constructor
    · rintro ⟨hmem, rfl⟩
      exact ⟨rfl, hmem⟩
    · rintro ⟨rfl, hmem⟩
      exact ⟨hmem, rfl⟩
  · next hf => simp [hf]

/-- A fence in force that some context references. -/
theorem fenceOf_filter {s : State} {h : Nat} {y : Fence} (hof : s.fenceOf h = some y)
    (hany : s.ctxs.any (fun d => d.fences.contains y.index) = true) :
    (s.fenceOf h).filter (fun f => s.ctxs.any (fun d => d.fences.contains f.index)) = some y := by
  rw [hof, Option.filter_some, if_pos hany]

/-- FENCE_CREATE kind 0 gives the new fence its index, generation and value, and its context a reference. -/
theorem doFenceCreate_new {m : Msg} {u : State} {x : Session} {c : Ctx} {i g : Nat} {y : Fence} (hc : u.ctx? m.ctx = some c)
    (hlen : m.length = 32) (hkind : field (ofLe (slice m.payload 0 32)) 1 0 = 0)
    (hrsv : (anySet (ofLe (slice m.payload 0 32)) 63 2 || anySet (ofLe (slice m.payload 0 32)) 127 64
      || anySet (ofLe (slice m.payload 0 32)) 255 192) = false)
    (hmany : u.fences.length < 65536) (hrefs : c.fences.length < 4096)
    (hpick : pickId 65536 (u.fences.map (fun f => f.index) ++ c.fenceMap.map (fun z => z.1 % 65536)) u.fencesFreed u.hub.timer (fun _ => false)
      = some (i, g))
    (hy : y = { index := i, gen := nextGen 16 g, value := field (ofLe (slice m.payload 0 32)) 191 128 }) :
    doFenceCreate m u x =
      (({ u with fences := u.fences ++ [y], fencesFreed := u.fencesFreed.filter (fun z => z.1 != i) } : State).modCtx c.id
        (fun d => { d with fences := d.fences ++ [i] }), some { status := .ok, arg0 := y.handle }) := by
  obtain ⟨⟨hlow, hmid⟩, hhigh⟩ := by simpa only [Bool.or_eq_false_iff] using hrsv
  have hhandle := field_eq_zero_of_anySet (hi' := 95) (lo' := 64) hmid (by decide) (by decide)
  have hrest := anySet_of_anySet (hi' := 127) (lo' := 96) hmid (by decide) (by decide)
  have hkey := field_eq_zero_of_anySet (hi' := 255) (lo' := 192) hhigh (by decide) (by decide)
  rw [doFenceCreate, withCtx_of_some hc]
  simp [hlen, hkind, hlow, hrest, hhandle, hkey, hpick, hy, firstOf, Nat.not_le.mpr hmany, Nat.not_le.mpr hrefs]

/-- FENCE_CREATE kind 1 draws the key of a fence that its context references. -/
theorem doFenceCreate_share {m : Msg} {u : State} {x : Session} {c : Ctx} {y : Fence} (hc : u.ctx? m.ctx = some c) (hlen : m.length = 32)
    (hkind : field (ofLe (slice m.payload 0 32)) 1 0 = 1)
    (hrsv : (anySet (ofLe (slice m.payload 0 32)) 63 2 || anySet (ofLe (slice m.payload 0 32)) 127 96
      || anySet (ofLe (slice m.payload 0 32)) 255 128) = false)
    (hheld : u.heldFence c (field (ofLe (slice m.payload 0 32)) 95 64) = some y) (hlive : y.abandoned = false) :
    doFenceCreate m u x = ((u.draw 8).1.modFence y.index (fun z => { z with key := some (ofLe (u.draw 8).2) }),
      some { status := .ok, payload := (u.draw 8).2 }) := by
  obtain ⟨⟨hlow, hmid⟩, hhigh⟩ := by simpa only [Bool.or_eq_false_iff] using hrsv
  have hvalue := field_eq_zero_of_anySet (hi' := 191) (lo' := 128) hhigh (by decide) (by decide)
  have hkey := field_eq_zero_of_anySet (hi' := 255) (lo' := 192) hhigh (by decide) (by decide)
  obtain ⟨hof, hmem⟩ := heldFence_iff.mp hheld
  have hfence := fenceOf_filter hof (List.any_eq_true.mpr ⟨c, State.mem_of_ctx? hc, by simpa using hmem⟩)
  rw [doFenceCreate, withCtx_of_some hc]
  simp only [hfence]
  simp [hlen, hkind, hlow, hmid, hvalue, hkey, hheld, hlive, firstOf]

/-- FENCE_CREATE kind 2 gives a context that knows a fence's key a reference to it. -/
theorem doFenceCreate_join {m : Msg} {u : State} {x : Session} {c : Ctx} {y : Fence} (hc : u.ctx? m.ctx = some c) (hlen : m.length = 32)
    (hkind : field (ofLe (slice m.payload 0 32)) 1 0 = 2)
    (hrsv : (anySet (ofLe (slice m.payload 0 32)) 63 2 || anySet (ofLe (slice m.payload 0 32)) 127 96
      || anySet (ofLe (slice m.payload 0 32)) 191 128) = false)
    (hof : u.fenceOf (c.translate (field (ofLe (slice m.payload 0 32)) 95 64)) = some y)
    (hkey : y.key = some (field (ofLe (slice m.payload 0 32)) 255 192)) (hany : u.ctxs.any (fun d => d.fences.contains y.index) = true)
    (hnew : y.index ∉ c.fences) (hmap : c.fenceMap.all (fun z => z.1 != field (ofLe (slice m.payload 0 32)) 95 64) = true)
    (hlive : y.abandoned = false) (hrefs : c.fences.length < 4096) :
    doFenceCreate m u x = (u.modCtx c.id (fun d => { d with fences := d.fences ++ [y.index] }), some { status := .ok, arg0 := y.handle }) := by
  obtain ⟨⟨hlow, hmid⟩, hhigh⟩ := by simpa only [Bool.or_eq_false_iff] using hrsv
  have hvalue := field_eq_zero_of_anySet (hi' := 191) (lo' := 128) hhigh (by decide) (by decide)
  have hheld : u.heldFence c (field (ofLe (slice m.payload 0 32)) 95 64) = none := by
    simp only [State.heldFence, hof, List.contains_iff_mem, hnew, if_false]
  have hnamed : c.fenceMap.any (fun z => z.1 == field (ofLe (slice m.payload 0 32)) 95 64) = false := by
    simpa [List.any_eq_false] using hmap
  have hfence := fenceOf_filter hof hany
  rw [doFenceCreate, withCtx_of_some hc]
  simp only [hfence]
  simp [hlen, hkind, hlow, hmid, hvalue, hheld, hlive, hkey, hnamed, firstOf, Nat.not_le.mpr hrefs]

end Sys2Proof.Machine

/-! ### Waits on fences end -/

namespace Sys2Proof.Machine
set_option Elab.async false

/-- Some waits have ended: what a wait holds and what its final answer changes is not what it was, and nothing else. -/
structure Released (s t : State) : Prop where
  effect : ∃ ses o h ws l, t = { s with sessions := ses, out := s.out ++ o, host := h, waits := ws, ledger := l }
  waits : ∀ z ∈ t.waits, z ∈ s.waits
  stand : SessionsStand s t

theorem Released.refl (s : State) : Released s s := ⟨⟨s.sessions, [], s.host, s.waits, s.ledger, by simp⟩, fun _ h => h, SessionsStand.refl s⟩

theorem Released.trans {s t u : State} (h : Released s t) (k : Released t u) : Released s u where
  effect := by
    obtain ⟨ses, o, p, ws, l, rfl⟩ := h.effect
    obtain ⟨ses', o', p', ws', l', rfl⟩ := k.effect
    exact ⟨ses', o ++ o', p', ws', l', by simp⟩
  waits := fun z hz => h.waits z (k.waits z hz)
  stand := h.stand.trans k.stand

theorem State.finish_waits (s : State) (w : Wait) (r : Reply) :
    (s.finish w r).waits = s.waits.filter (fun x => !(x.session == w.session && x.sgen == w.sgen && x.tag == w.tag)) := by
  obtain ⟨_, _, _, h⟩ := State.finish_sends s w r
  rw [h]

theorem Released.finish (s : State) (w : Wait) (r : Reply) : Released s (s.finish w r) where
  effect := by
    obtain ⟨ses, o, h, heq⟩ := State.finish_sends s w r
    exact ⟨ses, o, h, _, s.ledger, heq⟩
  waits := fun z hz => by
    rw [State.finish_waits] at hz
    exact (List.mem_filter.mp hz).1
  stand := SessionsStand.finish s w r

theorem Released.freeTag (s : State) (t : Nat) : Released s (s.freeTag t) :=
  ⟨⟨s.sessions, [], s.host, s.waits, _, by simp [State.freeTag]; rfl⟩, fun _ h => h, SessionsStand.of_eq rfl⟩

theorem Released.endFenceWait (s : State) (w : Wait) (st : Status) (v : Nat) : Released s (s.endFenceWait w st v) := by
  unfold State.endFenceWait
  split
  · exact (Released.freeTag s _).trans (Released.finish _ _ _)
  · exact Released.finish s _ _

theorem State.not_mem_waits_endFenceWait (s : State) (w : Wait) (st : Status) (v : Nat) : w ∉ (s.endFenceWait w st v).waits := by
  unfold State.endFenceWait
  dsimp only
  rw [State.finish_waits]
  simp

/-- Every wait that meets the test ends; the others stand or not. -/
theorem Released.endFenceWaits (s : State) (p : Wait → Bool) (st : Status) (v : Nat) :
    Released s (s.endFenceWaits p st v) ∧ ∀ z ∈ (s.endFenceWaits p st v).waits, p z = false := by
  have hfold (l : List Wait) : ∀ u : State, Released u (l.foldl (fun s w => s.endFenceWait w st v) u)
      ∧ ∀ z ∈ (l.foldl (fun s w => s.endFenceWait w st v) u).waits, z ∉ l := by
    induction l with
    | nil => exact fun u => ⟨Released.refl u, fun _ _ => List.not_mem_nil⟩
    | cons w rest ih =>
      intro u
      obtain ⟨hrel, hgone⟩ := ih (u.endFenceWait w st v)
      refine ⟨(Released.endFenceWait u w st v).trans hrel, fun z hz => ?_⟩
      rw [List.mem_cons]
      rintro (rfl | hrest)
      · exact State.not_mem_waits_endFenceWait u z st v (hrel.waits z hz)
      · exact hgone z hz hrest
  obtain ⟨hrel, hgone⟩ := hfold (s.waits.filter p) s
  refine ⟨hrel, fun z hz => ?_⟩
  have hnot := hgone z hz
  rw [List.mem_filter, not_and] at hnot
  exact Bool.eq_false_iff.mpr (hnot (hrel.waits z hz))

end Sys2Proof.Machine

/-! ### FENCE_SIGNAL, FENCE_WAIT and FENCE_DESTROY -/

namespace Sys2Proof.Machine
set_option Elab.async false

theorem fenceOf_modFence_value (s : State) (i v h : Nat) :
    (s.modFence i (fun z => { z with value := v })).fenceOf h
      = (s.fenceOf h).map (fun z => if z.index = i then { z with value := v } else z) := by
  unfold State.fenceOf State.modFence
  rw [List.find?_map]
  congr 2
  funext z
  dsimp only [Function.comp]
  split <;> rfl

/-- A signal above the fence's value raises it and ends the waits that it satisfies. -/
theorem doFenceSignal_raise {m : Msg} {u : State} {x : Session} {c : Ctx} {y : Fence} (hc : u.ctx? m.ctx = some c) (hlen : m.length = 16)
    (hrsv : anySet (ofLe (slice m.payload 0 16)) 63 32 = false)
    (hheld : u.heldFence c (field (ofLe (slice m.payload 0 16)) 31 0) = some y) (hlive : y.abandoned = false)
    (hmore : y.value < field (ofLe (slice m.payload 0 16)) 127 64) :
    doFenceSignal m u x = (u.raiseFence y (field (ofLe (slice m.payload 0 16)) 127 64),
      some { status := .ok, arg0 := field (ofLe (slice m.payload 0 16)) 127 64 }) := by
  have hid : u.ctx? c.id = some c := by rw [State.ctx?_id hc]; exact hc
  have hfits : field (ofLe (slice m.payload 0 16)) 127 64 < 18446744073709551616 := Nat.mod_lt _ (by decide)
  obtain ⟨hof, hmem⟩ := heldFence_iff.mp hheld
  have hraised : (u.raiseFence y (field (ofLe (slice m.payload 0 16)) 127 64)).heldFence c (field (ofLe (slice m.payload 0 16)) 31 0)
      = some { y with value := field (ofLe (slice m.payload 0 16)) 127 64 } := by
    obtain ⟨⟨_, _, _, _, _, heq⟩, _⟩ := (Released.endFenceWaits (u.modFence y.index (fun z => { z with value := field (ofLe (slice m.payload 0 16)) 127 64 }))
      (fun w => w.reached y.index (field (ofLe (slice m.payload 0 16)) 127 64)) .ok (field (ofLe (slice m.payload 0 16)) 127 64)).1
    refine heldFence_iff.mpr ⟨?_, hmem⟩
    calc (u.raiseFence y (field (ofLe (slice m.payload 0 16)) 127 64)).fenceOf (c.translate (field (ofLe (slice m.payload 0 16)) 31 0))
      _ = (u.modFence y.index (fun z => { z with value := field (ofLe (slice m.payload 0 16)) 127 64 })).fenceOf
            (c.translate (field (ofLe (slice m.payload 0 16)) 31 0)) := by rw [State.raiseFence, heq]; rfl
      _ = _ := by rw [fenceOf_modFence_value, hof, Option.map_some, if_pos rfl]
  rw [doFenceSignal, withCtx_of_some hc]
  simp [hlen, hrsv, firstOf, State.signal, hid, hheld, hlive, hmore, hfits, hraised]

theorem doFenceSignal_regression {m : Msg} {u : State} {x : Session} {c : Ctx} {y : Fence} (hc : u.ctx? m.ctx = some c) (hlen : m.length = 16)
    (hrsv : anySet (ofLe (slice m.payload 0 16)) 63 32 = false)
    (hheld : u.heldFence c (field (ofLe (slice m.payload 0 16)) 31 0) = some y) (hlive : y.abandoned = false)
    (hless : field (ofLe (slice m.payload 0 16)) 127 64 ≤ y.value) :
    doFenceSignal m u x = (u, some { status := .fenceRegression, arg0 := y.value }) := by
  have hid : u.ctx? c.id = some c := by rw [State.ctx?_id hc]; exact hc
  rw [doFenceSignal, withCtx_of_some hc]
  simp [hlen, hrsv, firstOf, State.signal, hid, hheld, hlive, Nat.not_lt.mpr hless]

/-- A wait that can be judged at once is answered at once. -/
theorem doFenceWait_judged {m : Msg} {u : State} {x : Session} {c : Ctx} {y : Fence} (hc : u.ctx? m.ctx = some c) (hlen : m.length = 24)
    (hrsv : (anySet (ofLe (slice m.payload 0 24)) 63 32 || anySet (ofLe (slice m.payload 0 24)) 191 160) = false)
    (hheld : u.heldFence c (field (ofLe (slice m.payload 0 24)) 31 0) = some y) (hlive : y.abandoned = false)
    (hnow : field (ofLe (slice m.payload 0 24)) 127 64 ≤ y.value ∨ field (ofLe (slice m.payload 0 24)) 159 128 = 0) :
    doFenceWait m u x =
      (u, some { status := if field (ofLe (slice m.payload 0 24)) 127 64 ≤ y.value then .ok else .timeout, arg0 := y.value }) := by
  rw [doFenceWait, withCtx_of_some hc]
  rcases Nat.lt_or_ge y.value (field (ofLe (slice m.payload 0 24)) 127 64) with hlt | hge
  · have hzero := hnow.resolve_left (Nat.not_le.mpr hlt)
    simp [hlen, hrsv, firstOf, hheld, hlive, hzero, Nat.not_le.mpr hlt]
  · simp [hlen, hrsv, firstOf, hheld, hlive, hge]

/-- A wait for a value to come takes an entry of the Ledger and waits. -/
theorem doFenceWait_pending {m : Msg} {u : State} {x : Session} {c : Ctx} {y : Fence} {tg : Nat} (hc : u.ctx? m.ctx = some c) (hlen : m.length = 24)
    (hrsv : (anySet (ofLe (slice m.payload 0 24)) 63 32 || anySet (ofLe (slice m.payload 0 24)) 191 160) = false)
    (htag : u.ledger.freeTag hubTags 4096 = some tg)
    (hheld : u.heldFence c (field (ofLe (slice m.payload 0 24)) 31 0) = some y) (hlive : y.abandoned = false)
    (hmore : y.value < field (ofLe (slice m.payload 0 24)) 127 64) (htime : field (ofLe (slice m.payload 0 24)) 159 128 ≠ 0) :
    doFenceWait m u x =
      (({ u with
          ledger := u.ledger.issue tg (.fenceWait m.session m.tag) (some c.id)
            (some (u.hub.timer + field (ofLe (slice m.payload 0 24)) 159 128 * 1024)) } : State).await x .fenceWait m
          (.fence y.index (field (ofLe (slice m.payload 0 24)) 127 64) tg),
        some { status := .pending, arg0 := y.value }) := by
  rw [doFenceWait, withCtx_of_some hc]
  simp [hlen, hrsv, firstOf, hheld, hlive, htime, Nat.not_le.mpr hmore, State.issue, htag]

theorem doFenceDestroy_drop {m : Msg} {u : State} {x : Session} {c : Ctx} {y : Fence} (hc : u.ctx? m.ctx = some c) (hlen : m.length = 8)
    (hrsv : anySet (ofLe (slice m.payload 0 8)) 63 32 = false)
    (hheld : u.heldFence c (field (ofLe (slice m.payload 0 8)) 31 0) = some y) :
    doFenceDestroy m u x = (u.dropFence c.id y.index, some (.of .ok)) := by
  rw [doFenceDestroy, withCtx_of_some hc]
  simp [hlen, hrsv, firstOf, hheld, okay]

/-- A context's reference to a fence goes, with its waits on it; memory, keys and OTP stand. -/
theorem dropFence_released (s : State) (id i : Nat) :
    (∃ ses o h ws l fs ff, s.dropFence id i
      = { s.modCtx id (fun c => { c with fences := c.fences.filter (fun k => k != i) }) with
          sessions := ses, out := s.out ++ o, host := h, waits := ws, ledger := l, fences := fs, fencesFreed := ff })
      ∧ (∀ z ∈ (s.dropFence id i).waits, (z.onFence i && z.ctx == id) = false) ∧ SessionsStand s (s.dropFence id i) := by
  obtain ⟨hrel, hgone⟩ := Released.endFenceWaits (s.modCtx id (fun c => { c with fences := c.fences.filter (fun k => k != i) }))
    (fun w => w.onFence i && w.ctx == id) .staleGeneration 0
  have hstand : SessionsStand s _ := (SessionsStand.of_eq (t := s.modCtx id _) rfl).trans hrel.stand
  obtain ⟨ses, o, h, ws, l, heq⟩ := hrel.effect
  have hreap : ∃ fs ff, s.dropFence id i = { ((s.modCtx id (fun c => { c with fences := c.fences.filter (fun k => k != i) })).endFenceWaits
      (fun w => w.onFence i && w.ctx == id) .staleGeneration 0) with fences := fs, fencesFreed := ff } := by
    unfold State.dropFence State.reapFence
    dsimp only
    split
    · exact ⟨_, _, rfl⟩
    · split <;> exact ⟨_, _, rfl⟩
  obtain ⟨fs, ff, hdrop⟩ := hreap
  rw [hdrop]
  refine ⟨⟨ses, o, h, ws, l, fs, ff, ?_⟩, hgone, hstand.trans (SessionsStand.of_eq rfl)⟩
  rw [heq]
  rfl

end Sys2Proof.Machine

/-! ### The requests on fences settle O36 and O37 -/

namespace Sys2Proof
open Machine
set_option Elab.async false

/-- What a request reads of the state is read after it has left its mailbox alike. -/
theorem heldFence_takeMail (s : State) (op : Opcode) (m : Msg) (c : Ctx) (h : Nat) : (s.takeMail op m).heldFence c h = s.heldFence c h := by
  obtain ⟨_, _, _, h0⟩ := Sends.takeMail s op m
  rw [h0]
  rfl

/-- Settles O36, by the effect of each kind of FENCE_CREATE and of `dropFence`. -/
theorem fencesAreMadeSharedAndDropped : Obligations.FencesAreMadeSharedAndDropped := by
  refine ⟨?create, ?share, ?join, ?destroy⟩
  case create =>
    intro m x c w i gg y s hadm hc hdrain hlen hw hkind hrsv hmany hrefs hpick hy
    subst hw
    obtain ⟨_, _, _, h0⟩ := Sends.takeMail s .fenceCreate m
    refine ⟨_, rfl, ?_⟩
    rw [if_neg (by simp [hdrain])]
    exact request_effect (fun u => ({ u with fences := u.fences ++ [y], fencesFreed := u.fencesFreed.filter (fun z => z.1 != i) } : State).modCtx c.id
        (fun d => { d with fences := d.fences ++ [i] })) hadm
      (doFenceCreate_new (by rw [State.takeMail_ctx?, hc]) hlen hkind hrsv (by rw [h0]; exact hmany) hrefs (by rw [h0]; exact hpick) hy)
      (fun _ _ _ => rfl)
  case share =>
    intro m x c w y s hadm hc hdrain hlen hw hkind hrsv hheld hlive
    subst hw
    obtain ⟨_, _, _, h0⟩ := Sends.takeMail s .fenceCreate m
    have hdraw : ((s.takeMail .fenceCreate m).draw 8).2 = (s.draw 8).2 := by rw [h0]; rfl
    refine ⟨_, rfl, ?_⟩
    rw [if_neg (by simp [hdrain]), ← hdraw]
    have := request_effect (fun u => (u.draw 8).1.modFence y.index (fun z => { z with key := some (ofLe (u.draw 8).2) })) hadm
      (doFenceCreate_share (by rw [State.takeMail_ctx?, hc]) hlen hkind hrsv (by rw [heldFence_takeMail, hheld]) hlive) (fun _ _ _ => rfl)
    rw [hdraw] at this ⊢
    exact this
  case join =>
    intro m x c w y s hadm hc hdrain hlen hw hkind hrsv hof hkey hany hnew hmap hlive hrefs
    subst hw
    obtain ⟨_, _, _, h0⟩ := Sends.takeMail s .fenceCreate m
    refine ⟨_, rfl, ?_⟩
    rw [if_neg (by simp [hdrain])]
    exact request_effect (fun u => u.modCtx c.id (fun d => { d with fences := d.fences ++ [y.index] })) hadm
      (doFenceCreate_join (by rw [State.takeMail_ctx?, hc]) hlen hkind hrsv (by rw [h0]; exact hof) hkey (by rw [h0]; exact hany) hnew hmap hlive hrefs)
      (fun _ _ _ => rfl)
  case destroy =>
    intro m x c w y s hadm hc hdrain hlen hw hrsv hheld
    subst hw
    refine ⟨_, rfl, ?_⟩
    rw [if_neg (by simp [hdrain])]
    obtain ⟨⟨ses, o, h, ws, l, fs, ff, hdrop⟩, hwaits, hstand⟩ := dropFence_released (s.takeMail .fenceDestroy m) c.id y.index
    obtain ⟨z, hz, -⟩ := hstand.session? (session?_of_admits hadm)
    obtain ⟨heq, hans⟩ := request_answered hadm
      (doFenceDestroy_drop (by rw [State.takeMail_ctx?, hc]) hlen hrsv (by rw [heldFence_takeMail, hheld]))
      ⟨o, by rw [hdrop]⟩ (Option.isSome_iff_exists.mpr ⟨z, hz⟩)
    obtain ⟨_, _, _, ht⟩ := Sends.answer ((s.takeMail .fenceDestroy m).dropFence c.id y.index) .fenceDestroy m (.of .ok)
    obtain ⟨_, _, _, h0⟩ := Sends.takeMail s .fenceDestroy m
    rw [heq]
    refine ⟨hans, ?_, ?_, ?_, ?_, ?_⟩
    · rw [ht, hdrop]
      intro d hd hid
      obtain ⟨e, -, rfl⟩ := List.mem_map.mp hd
      by_cases hk : e.id = c.id
      · simp [hk]
      · simp [hk] at hid
    · rw [ht]
      intro z hz hboth
      have := hwaits z hz
      simp [hboth.1, hboth.2] at this
    · rw [ht, hdrop, h0]; rfl
    · rw [ht, hdrop, h0]; rfl
    · rw [ht, hdrop, h0]; rfl

/-- Settles O37, by the outcome of each request and of the expiry of a wait. -/
theorem fenceSignalsReleaseTheirWaits : Obligations.FenceSignalsReleaseTheirWaits := by
  refine ⟨?raise, ?regression, ?judged, ?pending, ?expiry⟩
  case raise =>
    intro m x c w y s hadm hc hdrain hlen hw hrsv hheld hlive hmore
    subst hw
    obtain ⟨hrel, hgone⟩ := Released.endFenceWaits ((s.takeMail .fenceSignal m).modFence y.index
      (fun z => { z with value := field (ofLe (slice m.payload 0 16)) 127 64 }))
      (fun z => z.reached y.index (field (ofLe (slice m.payload 0 16)) 127 64)) .ok (field (ofLe (slice m.payload 0 16)) 127 64)
    obtain ⟨ses, o, h, ws, l, hraise⟩ := hrel.effect
    obtain ⟨z, hz, -⟩ := hrel.stand.session? (session?_of_admits hadm)
    obtain ⟨heq, hans⟩ := request_answered hadm
      (doFenceSignal_raise (by rw [State.takeMail_ctx?, hc]) hlen hrsv (by rw [heldFence_takeMail, hheld]) hlive hmore)
      ⟨o, by rw [State.raiseFence, hraise]; rfl⟩ (Option.isSome_iff_exists.mpr ⟨z, hz⟩)
    obtain ⟨_, _, _, ht⟩ := Sends.answer ((s.takeMail .fenceSignal m).raiseFence y (field (ofLe (slice m.payload 0 16)) 127 64)) .fenceSignal m
      { status := .ok, arg0 := field (ofLe (slice m.payload 0 16)) 127 64 }
    obtain ⟨_, _, _, h0⟩ := Sends.takeMail s .fenceSignal m
    refine ⟨_, rfl, ?_⟩
    rw [if_neg (by simp [hdrain]), heq]
    refine ⟨hans, ?_, ?_⟩
    · rw [ht]
      exact hgone
    · rw [ht, State.raiseFence, hraise, h0]
      rfl
  case regression =>
    intro m x c w y s hadm hc hdrain hlen hw hrsv hheld hlive hless
    subst hw
    refine ⟨_, rfl, ?_⟩
    rw [if_neg (by simp [hdrain])]
    exact request_onlySent hadm
      (doFenceSignal_regression (by rw [State.takeMail_ctx?, hc]) hlen hrsv (by rw [heldFence_takeMail, hheld]) hlive hless)
  case judged =>
    intro m x c w tg y s hadm hc hdrain hlen hw hrsv htag hheld hlive hnow
    subst hw
    refine ⟨_, rfl, ?_⟩
    rw [if_neg (by simp [hdrain, htag])]
    exact request_onlySent hadm
      (doFenceWait_judged (by rw [State.takeMail_ctx?, hc]) hlen hrsv (by rw [heldFence_takeMail, hheld]) hlive hnow)
  case pending =>
    intro m x c w tg y s hadm hc hdrain hlen hw hrsv htag hheld hlive hmore htime
    subst hw
    obtain ⟨_, _, _, h0⟩ := Sends.takeMail s .fenceWait m
    refine ⟨_, rfl, ?_⟩
    rw [if_neg (by simp [hdrain, htag])]
    exact request_effect (fun u => ({ u with
        ledger := u.ledger.issue tg (.fenceWait m.session m.tag) (some c.id)
          (some (u.hub.timer + field (ofLe (slice m.payload 0 24)) 159 128 * 1024)) } : State).await x .fenceWait m
        (.fence y.index (field (ofLe (slice m.payload 0 24)) 127 64) tg)) hadm
      (doFenceWait_pending (by rw [State.takeMail_ctx?, hc]) hlen hrsv (by rw [h0]; exact htag) (by rw [heldFence_takeMail, hheld]) hlive hmore htime)
      (fun _ _ _ => rfl)
  case expiry =>
    intro tg d0 i v e z y s halive hentry hquar hdead hdue hwait hwhat hfence
    refine ⟨_, rfl, ?_⟩
    rw [if_pos halive]
    have hrun : doFenceWaitTimeout tg s
        = ({ s with ledger := s.ledger.expire tg s.hub.timer } : State).finish z { status := .timeout, arg0 := y.value } := by
      simp [doFenceWaitTimeout, hentry, hwait, hquar, hdead, hdue, hwhat, hfence]
    rw [hrun]
    refine ⟨rfl, ?_, ?_⟩
    · obtain ⟨_, _, _, ht⟩ := State.finish_sends ({ s with ledger := s.ledger.expire tg s.hub.timer } : State) z { status := .timeout, arg0 := y.value }
      rw [ht]
    · intro k hk
      rw [State.finish_waits, List.mem_filter] at hk
      rintro ⟨hs, hg, ht⟩
      simp [hs, hg, ht] at hk

end Sys2Proof

/-! ### CTX_CREATE (R347, R348, R406) -/

namespace Sys2Proof.Machine
set_option Elab.async false

theorem flag_eq_false_of_anySet {v hi lo i : Nat} (h : anySet v hi lo = false) (hlo : lo ≤ i) (hhi : i ≤ hi) : flag v i = false := by
  have hbit : v / 2 ^ i % 2 = 0 := by
    have := field_eq_zero_of_anySet h hlo hhi
    simpa [field, Nat.shiftRight_eq_div_pow] using this
  simp [flag, Nat.testBit_eq_decide_div_mod_eq, hbit]

/-- The context and the key that CTX_CREATE without a seed makes, of an identifier, a generation and 64 random bytes. -/
def newCtx (u : State) (x : Session) (i g : Nat) : Ctx :=
  { id := i, gen := g, owner := x.number, ownerGen := x.gen, seed := ofLe (u.draw 32).2, period := { since := u.hub.timer },
    res := { lastWork := u.hub.timer } }

def newKey (u : State) (i g : Nat) : BankEntry :=
  { ctx := i, gen := g, limit := memoryKeyLimit, issue := sparse u.vault.issues (bankIssue i) + 1, material := ((u.draw 32).1.draw 32).2 }

theorem doCtxCreate_fresh {m : Msg} {u : State} {x : Session} {i g : Nat} (hlen : m.length = 48)
    (hlow : anySet (ofLe (slice m.payload 0 48)) 127 0 = false) (hhigh : anySet (ofLe (slice m.payload 0 48)) 383 128 = false)
    (hpick : pickId 4096 (u.ctxs.map (fun c => c.id) ++ u.links.lent.map (fun y => y.guest)) u.ctxsFreed u.hub.timer
      (fun n => u.ledger.entries.any (fun e => e.ctx == some n)) = some (i, g)) :
    doCtxCreate m u x =
      ({ u with
          hub := { u.hub with trng := u.hub.trng + 64 }
          ctxs := u.ctxs ++ [newCtx u x i (nextGen 16 g)]
          ctxsFreed := u.ctxsFreed.filter (fun f => f.1 != i)
          vault := { u.vault with
            bank := newKey u i (nextGen 16 g) :: u.vault.bank.filter (fun b => b.ctx != i)
            issues := setSparse u.vault.issues (bankIssue i) (sparse u.vault.issues (bankIssue i) + 1) } },
        some { status := .ok, named := some (i, nextGen 16 g) }) := by
  have hcons := flag_eq_false_of_anySet (i := 0) hlow (by decide) (by decide)
  have hseeded := flag_eq_false_of_anySet (i := 1) hlow (by decide) (by decide)
  have hrest := anySet_of_anySet (hi' := 127) (lo' := 2) hlow (by decide) (by decide)
  unfold doCtxCreate
  simp only [hlen, hcons, hseeded, hrest, hhigh, hpick, firstOf]
  rfl

end Sys2Proof.Machine

namespace Sys2Proof
open Machine
set_option Elab.async false

/-- Settles O25: the request adds `newCtx` and `newKey`. -/
theorem ctxCreateMakesSuspendedContext : Obligations.CtxCreateMakesSuspendedContext := by
  intro m x i g s hadm hlen hlow hhigh hpick
  obtain ⟨_, _, _, h0⟩ := Sends.takeMail s .ctxCreate m
  obtain ⟨hans, hsent⟩ := request_effect (fun u => { u with
      hub := { u.hub with trng := u.hub.trng + 64 }
      ctxs := u.ctxs ++ [newCtx u x i (nextGen 16 g)]
      ctxsFreed := u.ctxsFreed.filter (fun f => f.1 != i)
      vault := { u.vault with
        bank := newKey u i (nextGen 16 g) :: u.vault.bank.filter (fun b => b.ctx != i)
        issues := setSparse u.vault.issues (bankIssue i) (sparse u.vault.issues (bankIssue i) + 1) } }) hadm
    (doCtxCreate_fresh hlen hlow hhigh (by rw [h0]; exact hpick)) (fun _ _ _ => rfl)
  refine ⟨_, rfl, hans, ?_⟩
  have hctxs := congrArg State.ctxs hsent
  have hbank := congrArg (fun u : State => u.vault) hsent
  dsimp only at hctxs hbank
  refine ⟨⟨newCtx s x i (nextGen 16 g), hctxs, rfl, rfl, rfl, rfl, rfl, rfl, rfl, rfl, rfl, rfl, rfl, rfl⟩,
    ⟨newKey s i (nextGen 16 g), congrArg Vault.bank hbank, rfl, rfl, rfl, rfl, rfl⟩, ?_⟩
  refine Eq.trans hsent ?_
  rw [hctxs, hbank]

end Sys2Proof

/-! ### Records of fences that no spare serves push the record of the scrub out of the log (R459, R468) -/

namespace Sys2Proof.Machine
set_option Elab.async false

/-- The records kept bear the last numbers before the next one, and are at most 4,096. -/
def Logs.Recent (l : Logs) : Prop := ∃ a n, l.records.map Prod.fst = List.range' a n ∧ a + n = l.recNo ∧ n ≤ 4096

theorem Logs.Recent.keep {l : Logs} (h : l.Recent) (m c : Bytes) : (l.keep m c).Recent := by
  obtain ⟨a, n, hnos, hnext, hcap⟩ := h
  have hlen : l.records.length = n := by simpa using congrArg List.length hnos
  have hall : (l.records ++ [(l.recNo, m ++ c)]).map Prod.fst = List.range' a (n + 1) := by
    rw [List.map_append, hnos, List.range'_concat, ← hnext]
    simp
  unfold Logs.keep
  dsimp only
  split
  · next hfits => exact ⟨a, n + 1, hall, by simp only; omega, by simp [hlen] at hfits; omega⟩
  · exact ⟨a + 1, n, by rw [List.map_drop, hall, List.drop_range']; simp, by simp only; omega, hcap⟩

/-- A record whose number lies 4,096 or more before the last is kept no more. -/
theorem Logs.Recent.dropped {l : Logs} (h : l.Recent) {r : Nat} (hold : r + 4096 < l.recNo) : ¬ ∃ k ∈ l.records, k.1 = r := by
  obtain ⟨a, n, hnos, hnext, hcap⟩ := h
  rintro ⟨k, hk, rfl⟩
  have hin : k.1 ∈ List.range' a n := hnos ▸ List.mem_map_of_mem hk
  have := (List.mem_range'_1.mp hin).1
  omega

/-- `n` records have been filed from `s` to `t`, and nothing but the logs and the counts of lost entries has changed. -/
def Filed (s t : State) (n : Nat) : Prop := Told s t ∧ t.logs.recNo = s.logs.recNo + n ∧ (s.logs.Recent → t.logs.Recent)

theorem Filed.file (s : State) (e : ErrorRec) (he : e.ctxGen = 0) : Filed s (s.file e) 1 := by
  unfold State.file
  simp only [he, bne_self_eq_false, Bool.not_false, Bool.true_or, Bool.false_eq_true, if_false]
  obtain ⟨htold, hno, hrecs⟩ := fileFor_nil s e true
  refine ⟨htold, hno, fun hr => ?_⟩
  have hkept := hr.keep (s.errorView .management e) (s.errorView .context e)
  obtain ⟨a, n, h1, h2, h3⟩ := hkept
  exact ⟨a, n, by rw [hrecs]; exact h1, by rw [hno]; exact h2, h3⟩

theorem Filed.trans {s t u : State} {m n : Nat} (h : Filed s t m) (k : Filed t u n) : Filed s u (m + n) :=
  ⟨h.1.trans k.1, by rw [k.2.1, h.2.1]; omega, fun hr => k.2.2 (h.2.2 hr)⟩

theorem Filed.belowRating (s : State) : Filed s { s with logs := { s.logs with belowRating := true } } 0 := ⟨Told.of_logs s _, rfl, id⟩

theorem Filed.fileFence (s : State) (n cause : Nat) : Filed s (s.fileFence n cause) 1 := by
  unfold State.fileFence
  dsimp only
  split
  · exact (Filed.belowRating s).trans (Filed.file _ _ rfl)
  · exact Filed.file s _ rfl

theorem Told.cores {s t : State} (h : Told s t) : t.cores = s.cores := by
  obtain ⟨⟨_, _, rfl⟩, -⟩ := h
  rfl

/-- With no spare in service a fence is recorded without one. -/
theorem serveSpare_of_no_spare {s : State} (h : ∀ c ∈ s.cores, c.status ≠ .spare) (f cause : Nat) : s.serveSpare f cause = s.fileFence f cause := by
  have hnone : s.spares = [] := by
    unfold State.spares
    rw [List.filter_eq_nil_iff]
    intro n _
    cases hc : s.core? n with
    | none => simp
    | some c => simp [h c (List.mem_of_getElem? hc)]
  unfold State.serveSpare State.nextSpare
  rw [hnone]
  rfl

/-- Fences that wait for a spare, where none is in service, are each recorded. -/
theorem Filed.serveSpares (l : List (Nat × Nat × Nat)) : ∀ {s : State}, (∀ c ∈ s.cores, c.status ≠ .spare) →
    Filed s (l.foldl (fun s w => s.serveSpare w.1 w.2.1) s) l.length := by
  induction l with
  | nil => exact fun _ => ⟨Told.refl _, rfl, id⟩
  | cons w l ih =>
    intro s h
    rw [List.foldl_cons, serveSpare_of_no_spare h, List.length_cons, Nat.add_comm]
    have hone := Filed.fileFence s w.1 w.2.1
    exact hone.trans (ih (by rw [hone.1.cores]; exact h))

/-- Without contexts no work moves away from a core. -/
theorem moveAway_of_no_ctxs {s : State} (h : s.ctxs = []) (n : Nat) : s.moveAway n = s := by
  have hhomes : s.moveHomes n = s := by rw [State.moveHomes, h]; rfl
  rw [State.moveAway, hhomes]
  unfold State.moveSpans
  split
  · rfl
  · rw [h]; rfl

/-- A spare that is fenced, in a device without contexts and other cores, leaves every fence that waited for it recorded. -/
theorem fenceCore_files {s : State} {n : Nat} (cls : RecClass) (hctxs : s.ctxs = []) (hcores : s.cores = [{ status := .spare }])
    (hrepair : s.otp.repair = []) (hwait : s.test.sparing = List.replicate n (0, 0, 0)) :
    (s.fenceCore 0 cls).logs.recNo = s.logs.recNo + 1 + n ∧ (s.logs.Recent → (s.fenceCore 0 cls).logs.Recent) := by
  unfold State.fenceCore
  simp only [State.core?, hcores, List.getElem?_cons_zero]
  rw [if_neg (by decide), if_pos trivial, State.burnRepair, if_pos (by simp [State.modCore, hrepair]), moveAway_of_no_ctxs (by exact hctxs)]
  generalize hu : ({ s.modCore 0 _ with otp := _ } : State) = u
  have hbare : u.cores = [{ status := .fenced }] := by rw [← hu, State.modCore, hcores]; rfl
  have hone := Filed.fileFence u 0 cls.code
  obtain ⟨⟨ses, lg, hv⟩, -⟩ := hone.1
  have hfilter : (u.fileFence 0 cls.code).test.sparing.filter (fun w => w.2.2 == 0) = List.replicate n (0, 0, 0) := by
    rw [hv, ← hu]
    simp [State.modCore, hwait]
  rw [State.serveOthers, hfilter]
  have hrest := Filed.serveSpares (List.replicate n (0, 0, 0))
    (s := { u.fileFence 0 cls.code with test := { (u.fileFence 0 cls.code).test with
      sparing := (u.fileFence 0 cls.code).test.sparing.filter (fun w => w.2.2 != 0) } }) (by
      intro c hc
      obtain rfl : c = { status := .fenced } := by simpa [hv, hbare] using hc
      decide)
  rw [List.length_replicate] at hrest
  obtain ⟨-, hno, hrecent⟩ := hone
  have hlogs : u.logs = s.logs := by rw [← hu]; rfl
  rw [hlogs] at hno hrecent
  exact ⟨by rw [hrest.2.1, ← hno], fun h => hrest.2.2 (hrecent h)⟩

end Sys2Proof.Machine

namespace Sys2Proof
open Machine
set_option Elab.async false

/-- A device with one core, a spare, for which 4,096 fences wait, and whose bank 0 has no spare row left. -/
def devUnserved : State :=
  { cores := [{ status := .spare }], test := { sparing := List.replicate 4096 (0, 0, 0) }, mem := { rowSpares := [(2 * 2 ^ 48, 16)] } }

/-- Its memory once the scrub has found the first piece of the scratchpad in error. -/
def scrubbed : Memory := (devUnserved.mem.noteRow (scratchBase 0) 0 false).poisonPiece (scratchBase 0)

/-- What the scrub finds there fences the core, after its record. -/
theorem scrub_devUnserved : ∃ s : State, doPatrolScrub 0 false 0 false devUnserved = s.fenceCore 0 .corrected ∧ s.ctxs = [] ∧
    s.cores = [{ status := .spare }] ∧ s.otp.repair = [] ∧ s.test.sparing = List.replicate 4096 (0, 0, 0) ∧ s.logs.recNo = 1 ∧ s.logs.Recent := by
  unfold doPatrolScrub
  rw [if_neg (by decide +kernel)]
  dsimp only
  generalize hv : State.file _ _ = v
  have hone := hv ▸ Filed.file _ _ rfl
  obtain ⟨⟨⟨ses, lg, heq⟩, -⟩, hno, hrecent⟩ := hone
  have hmem : v.mem = scrubbed := by rw [heq]; rfl
  have htime : v.hub.timer = 0 := by rw [heq]; rfl
  have hrows : (v.mem.badRows v.hub.timer).eraseDups = [2 * 2 ^ 48] := by rw [hmem, htime]; decide +kernel
  have hused : ¬ sparse v.mem.rowSpares (rowUnit (2 * 2 ^ 48)) < 16 := by rw [hmem]; decide +kernel
  rw [State.repairRows, hrows, List.foldl_cons, List.foldl_nil, State.repairSramRow, if_neg hused, if_pos (by decide)]
  refine ⟨_, rfl, ?_, ?_, ?_, ?_, hno, hrecent ⟨0, 0, rfl, rfl, by decide⟩⟩
  all_goals rw [heq]; rfl

/-- Refutes O57: a core that has no spare row left is fenced, and each of the 4,096 fences that waited for it is recorded in its turn; the log
keeps the last 4,096 records, so that of the scrub's error is gone. -/
theorem not_coresAreTestedAndScrubbed : ¬ Obligations.CoresAreTestedAndScrubbed := by
  rintro ⟨hscrub, -⟩
  obtain ⟨t, ht, hkept, -⟩ := hscrub 0 0 false false devUnserved (by decide +kernel) (by decide) (by decide) (Or.inr (by decide +kernel))
    (by decide +kernel)
  have hdo : after (exec (.patrolScrub 0 false 0 false) devUnserved) = doPatrolScrub 0 false 0 false devUnserved := rfl
  rw [← after_exec ht, hdo] at hkept
  obtain ⟨s, hs, hctxs, hcores, hrepair, hwait, hno, hrecent⟩ := scrub_devUnserved
  obtain ⟨hlast, hrecent'⟩ := fenceCore_files .corrected hctxs hcores hrepair hwait
  rw [← hs] at hlast hrecent'
  exact (hrecent' hrecent).dropped (by rw [hlast, hno]; decide) hkept

end Sys2Proof

/-! ### What sending on Rasovi, and reading, leave as they were -/

namespace Sys2Proof.Machine
set_option Elab.async false

/-- `t` is `s` after frames may have been sent on Rasovi: ports, channels and what has left alone differ. -/
def Carried (s t : State) : Prop := ∃ ps chs o, t = { s with links := { s.links with ports := ps, channels := chs }, out := s.out ++ o }

namespace Carried

theorem refl (s : State) : Carried s s := ⟨s.links.ports, s.links.channels, [], by simp⟩

theorem trans {s t u : State} (h : Carried s t) (k : Carried t u) : Carried s u := by
  obtain ⟨_, _, o, rfl⟩ := h
  obtain ⟨ps, chs, o', rfl⟩ := k
  exact ⟨ps, chs, o ++ o', by simp⟩

theorem sayMore {s t : State} (h : Carried s t) (o : List Out) : Carried s { t with out := t.out ++ o } :=
  h.trans ⟨t.links.ports, t.links.channels, o, rfl⟩

theorem modChan (s : State) (p q : Nat) (f : Channel → Channel) : Carried s (s.modChan p q f) := ⟨_, _, [], by rw [List.append_nil]; rfl⟩

theorem modPort (s : State) (p : Nat) (f : Port → Port) : Carried s (s.modPort p f) := ⟨_, _, [], by rw [List.append_nil]; rfl⟩

theorem foldl {α : Type} (f : State → α → State) (hf : ∀ s x, Carried s (f s x)) (l : List α) : ∀ s, Carried s (l.foldl f s) := by
  induction l with
  | nil => exact refl
  | cons x rest ih => exact fun s => (hf s x).trans (ih _)

theorem emitLink (s : State) (port peer : Nat) (old nak : Bool) : Carried s (s.emitLink port peer old nak) := by
  unfold State.emitLink
  split
  · exact ((modChan ..).trans (modPort ..)).sayMore _
  · exact refl s

theorem sendLink (s : State) (port peer : Nat) (old nak : Bool) : Carried s (s.sendLink port peer old nak) := by
  unfold State.sendLink
  split
  · split
    · exact refl s
    · split
      · exact modChan ..
      · exact emitLink ..
  · exact refl s

theorem emitDue (s : State) (port peer : Nat) : Carried s (s.emitDue port peer) := by
  unfold State.emitDue
  split
  · exact refl s
  · exact ((modChan ..).trans (modPort ..)).sayMore _

theorem pumpFrames (port fuel : Nat) : ∀ s : State, Carried s (s.pumpFrames port fuel) := by
  induction fuel with
  | zero => exact refl
  | succ n ih =>
    intro s
    rw [State.pumpFrames]
    split
    · exact refl s
    · split
      · exact refl s
      · split
        · exact refl s
        · split
          · exact refl s
          · exact (((modChan ..).trans (modPort ..)).sayMore _).trans (ih _)

theorem pumpPort (s : State) (port : Nat) : Carried s (s.pumpPort port) := by
  unfold State.pumpPort
  split
  · exact refl s
  · split
    · exact refl s
    · refine ((foldl _ (fun s c => ?_) _ s).trans (foldl _ (fun s (c : Channel) => emitDue s port c.peer) _ _)).trans (pumpFrames port 1024 _)
      split
      · exact emitLink ..
      · exact refl s

theorem openChan (s : State) (port peer : Nat) : Carried s (s.openChan port peer) := by
  unfold State.openChan
  split
  · exact refl s
  · exact ⟨_, _, [], by rw [List.append_nil]; rfl⟩

theorem sendFrom (s : State) (ctx : Option Nat) (src dst : Nat) (i : Inner) : Carried s (s.sendFrom ctx src dst i) := by
  unfold State.sendFrom
  split
  · exact refl s
  · exact ((openChan ..).trans (modChan ..)).trans (pumpPort ..)

/-- An operation that no lease carries uses no lease. -/
theorem sendR (s : State) (ctx : Option Nat) (dst : Nat) (i : Inner) (h : ¬ (0x11 ≤ i.iop ∧ i.iop ≤ 0x13)) : Carried s (s.sendR ctx dst i) := by
  unfold State.sendR
  rw [if_neg h]
  exact sendFrom ..

theorem sendCtrl (s : State) (dst : Nat) (op : Opcode) (arg0 : Nat) (payload : Bytes) : Carried s (s.sendCtrl dst op arg0 payload) :=
  sendR _ _ _ _ (by simp)

theorem resend_none {s : State} {port peer : Nat} (h : s.chan? port peer = none) (which : RSent → Bool) : s.resend port peer which = s := by
  simp [State.resend, h]

end Carried

/-- What a context is but for its pages. -/
def Ctx.unpaged (c : Ctx) : Ctx := { c with pages := [] }

/-- `t` is `s` after a read without upsets: what it notes differs, in contexts that are the same but for their pages. -/
def Accessed (s t : State) : Prop := ∃ cs st pw lg tr ps chs les lts o,
  t = { s with
    ctxs := cs
    hbmStacks := st
    power := pw
    ledger := lg
    traffic := tr
    links := { s.links with ports := ps, channels := chs, leases := les, lent := lts }
    out := s.out ++ o } ∧ cs.map Ctx.unpaged = s.ctxs.map Ctx.unpaged

namespace Accessed

theorem of_carried {s t : State} (h : Carried s t) : Accessed s t := by
  obtain ⟨ps, chs, o, rfl⟩ := h
  exact ⟨_, _, _, _, _, ps, chs, _, _, o, rfl, rfl⟩

theorem refl (s : State) : Accessed s s := of_carried (Carried.refl s)

theorem trans {s t u : State} (h : Accessed s t) (k : Accessed t u) : Accessed s u := by
  obtain ⟨_, _, _, _, _, _, _, _, _, o, rfl, hc⟩ := h
  obtain ⟨_, _, _, _, _, _, _, _, _, o', rfl, kc⟩ := k
  exact ⟨_, _, _, _, _, _, _, _, _, o ++ o', by rw [← List.append_assoc], kc.trans hc⟩

theorem foldl {α : Type} (f : State → α → State) (hf : ∀ s x, Accessed s (f s x)) (l : List α) : ∀ s, Accessed s (l.foldl f s) := by
  induction l with
  | nil => exact refl
  | cons x rest ih => exact fun s => (hf s x).trans (ih _)

theorem modPage (s : State) (id vp : Nat) (f : Page → Page) : Accessed s (s.modPage id vp f) := by
  refine ⟨_, s.hbmStacks, s.power, s.ledger, s.traffic, s.links.ports, s.links.channels, s.links.leases, s.links.lent, [],
    by rw [List.append_nil]; rfl, ?_⟩
  rw [List.map_map]
  refine List.map_congr_left fun c _ => ?_
  simp only [Function.comp_apply]
  split <;> rfl

theorem ledger (s : State) (lg : Ledger) : Accessed s { s with ledger := lg } := ⟨_, _, _, _, _, _, _, _, _, [], by rw [List.append_nil], rfl⟩

theorem transfer (s : State) (pl : Place) (core : Option Nat) (off n : Nat) : Accessed s (s.transfer pl core off n) := by
  unfold State.transfer
  split
  · exact ledger ..
  · exact refl s

theorem chargeCtx (s : State) (id n : Nat) : Accessed s (s.chargeCtx id n) := ⟨_, _, _, _, _, _, _, _, _, [], by rw [List.append_nil]; rfl, rfl⟩

theorem noteRequest (s : State) (k : Nat) : Accessed s (s.noteRequest k) := by
  obtain ⟨st, pw, h⟩ := noteRequest_ctxs s k
  exact ⟨_, st, pw, _, _, _, _, _, _, [], by rw [h, List.append_nil], rfl⟩

theorem useLease (s : State) (peer id gen : Nat) : Accessed s (s.useLease peer id gen) :=
  ⟨_, _, _, _, _, _, _, _, _, [], by rw [List.append_nil]; rfl, rfl⟩

theorem sendR (s : State) (ctx : Option Nat) (dst : Nat) (i : Inner) : Accessed s (s.sendR ctx dst i) := by
  unfold State.sendR
  split
  · split
    · exact refl s
    · exact (useLease ..).trans (of_carried (Carried.sendFrom ..))
  · exact of_carried (Carried.sendFrom ..)

theorem crossPiece (s : State) (va pfn off n : Nat) (data : Option Bytes) : Accessed s (s.crossPiece va pfn off n data) := by
  unfold State.crossPiece
  split
  · exact refl s
  · split
    · exact refl s
    · refine foldl _ (fun s x => ?_) _ s
      split
      · next r hr =>
        unfold State.cross at hr
        obtain ⟨q, hq, rfl⟩ := Option.map_eq_some_iff.mp hr
        have hissue : Accessed s q.1 := by
          unfold State.issue at hq
          split at hq
          · cases hq
          · cases hq; exact ledger ..
        exact (hissue.trans (sendR ..)).trans (ledger ..)
      · exact refl s

theorem readPiece (s : State) (id : Nat) (core : Option Nat) (vp off n : Nat) : Accessed s (s.readPiece id core [] vp off n).1 := by
  unfold State.readPiece
  split
  · exact refl s
  · split
    · exact refl s
    · next p _ =>
      have h0 := (modPage s id vp (fun q => q.touch core off n)).trans (transfer _ (s.placeOf p core) core off n)
      simp only [fabricFails, List.any_nil, Bool.false_and, Bool.false_eq_true, if_false]
      split
      · exact h0
      · exact (h0.trans (noteRequest _ _)).trans (chargeCtx _ _ _)
      · exact h0
      · simpa using h0.trans (crossPiece ..)

/-- A read without upsets. -/
theorem readV (s : State) (id : Nat) (core : Option Nat) (va n : Nat) : Accessed s (s.readV id core [] va n).1 := by
  have go : ∀ (l : List (Nat × Nat × Nat)) (acc : State × Option (Nat × Status)), Accessed acc.1
      (l.foldl (fun (acc : State × Option (Nat × Status)) pc =>
        let t := acc.1.readPiece id core [] pc.1 pc.2.1 pc.2.2
        (t.1, match acc.2 with
              | some f => some f
              | none => t.2)) acc).1 := by
    intro l
    induction l with
    | nil => exact fun acc => refl acc.1
    | cons pc rest ih => exact fun acc => (readPiece acc.1 id core pc.1 pc.2.1 pc.2.2).trans (ih _)
  unfold State.readV
  dsimp only
  split <;> exact go _ _

/-- The context that is found is the same but for its pages. -/
theorem ctx? {s t : State} (h : Accessed s t) {id : Nat} {c : Ctx} (hc : s.ctx? id = some c) :
    ∃ d, t.ctx? id = some d ∧ d.unpaged = c.unpaged := by
  obtain ⟨cs, _, _, _, _, _, _, _, _, _, rfl, hmap⟩ := h
  have hfind (l : List Ctx) : (l.map Ctx.unpaged).find? (fun d => d.id == id) = (l.find? (fun d => d.id == id)).map Ctx.unpaged := by
    rw [List.find?_map]; rfl
  have heq : (cs.find? (fun d => d.id == id)).map Ctx.unpaged = some c.unpaged := by
    rw [← hfind, hmap, hfind]
    exact congrArg (Option.map Ctx.unpaged) hc
  exact Option.map_eq_some_iff.mp heq

theorem noted {s t : State} (h : Accessed s t) : Noted s t := by
  obtain ⟨_, _, _, _, _, _, _, _, _, _, rfl, -⟩ := h
  exact ⟨_, _, _, _, _, _, _, rfl⟩

theorem out {s t : State} (h : Accessed s t) : ∃ o, t.out = s.out ++ o := by
  obtain ⟨_, _, _, _, _, _, _, _, _, o, rfl, -⟩ := h
  exact ⟨o, rfl⟩

end Accessed
end Sys2Proof.Machine

/-! ### Requests of consortium contexts (R374–R381) -/

namespace Sys2Proof.Machine
set_option Elab.async false

/-- An admitted request whose home rule answers from `v`: the answer leaves, and sending changes no more. -/
theorem request_from {s v : State} {op : Opcode} {m : Msg} {x : Session} {r : Reply} {body : State → Session → State × Option Reply}
    (h : Admits s op m x = true) (hb : body (s.takeMail op m) x = (v, some r)) (hout : ∃ o, v.out = (s.takeMail op m).out ++ o)
    (hses : v.sessions = (s.takeMail op m).sessions) : Answered s (s.request op m body) op m r ∧ Sends v (s.request op m body) := by
  obtain ⟨heq, hans⟩ := request_answered h hb hout (by rw [State.session?, hses]; exact congrArg Option.isSome (session?_of_admits h))
  rw [heq]
  exact ⟨hans, Sends.answer v op m r⟩

theorem Sends.ctx? {s t : State} (h : Sends s t) (id : Nat) : t.ctx? id = s.ctx? id := by
  obtain ⟨_, _, _, rfl⟩ := h
  rfl

theorem Sends.mem {s t : State} (h : Sends s t) : t.mem = s.mem := by
  obtain ⟨_, _, _, rfl⟩ := h
  rfl

theorem Sends.hub {s t : State} (h : Sends s t) : t.hub = s.hub := by
  obtain ⟨_, _, _, rfl⟩ := h
  rfl

/-- A page of the program region becomes read-only. -/
def sealPage (p : Policy) (x : Page) : Page :=
  if p.progAddr / pageSize ≤ x.va ∧ x.va < p.progAddr / pageSize + p.progPages then { x with ro := true } else x

theorem sealPage_ro (p : Policy) (x : Page) :
    (!(decide (p.progAddr / pageSize ≤ (sealPage p x).va) && decide ((sealPage p x).va < p.progAddr / pageSize + p.progPages)) || (sealPage p x).ro) = true := by
  unfold sealPage
  split
  · simp
  · next h =>
    simp only [Bool.or_eq_true, Bool.not_eq_true', Bool.and_eq_false_iff, decide_eq_false_iff_not]
    exact Or.inl (Decidable.not_and_iff_or_not.mp h)

theorem doPolicyLoad_okay {m : Msg} {u v : State} {x : Session} {c : Ctx} {bs prog : Bytes} {d : PolicyDoc} {p : Policy}
    (hc : u.ctx? m.ctx = some c) (hbs : bs = m.payload) (hd : d = policyDoc bs) (hp : p = d.policy bs) (hlen : m.length = d.bytes)
    (hrsv : d.reserved bs = false) (hdeny : policyDenied c bs d p = false) (htmpl : templatesDenied p = false)
    (halign : p.templates.all (fun z => z.2.1 % 128 == 0) = true)
    (hmap : p.ranges.all (fun r => r.1 % pageSize == 0 && c.mapped r.1 r.2) = true)
    (hv : (u.readV c.id none [] p.progAddr (p.progPages * pageSize)).1 = v)
    (hprog : (u.readV c.id none [] p.progAddr (p.progPages * pageSize)).2.toOption = some prog) (hdig : shake256 prog 64 = slice bs 24 64)
    (hsigned : v.policySigned bs d p = true) :
    doPolicyLoad m [] u x = okay ((v.draw 32).1.modCtx c.id (fun e =>
      { e with policy := some { p with jobKey := (v.draw 32).2 }, pages := e.pages.map (sealPage p) })) := by
  subst hbs hd hv
  have hread : (u.readV c.id none [] p.progAddr (p.progPages * pageSize)).2 = .ok prog := by
    revert hprog
    cases (u.readV c.id none [] p.progAddr (p.progPages * pageSize)).2 <;> simp [Except.toOption]
  have htemplates : p.templates.any (fun t => decide (t.2.1 % 128 ≠ 0)) = false := by
    rw [List.any_eq_false]
    intro t ht
    simpa using List.all_eq_true.mp halign t ht
  have hranges : (p.ranges.any (fun r => decide (r.1 % pageSize ≠ 0)) || p.ranges.any (fun r => !c.mapped r.1 r.2)) = false := by
    rw [Bool.or_eq_false_iff, List.any_eq_false, List.any_eq_false]
    refine ⟨fun r hr => ?_, fun r hr => ?_⟩ <;>
    · have := List.all_eq_true.mp hmap r hr
      simp_all
  unfold doPolicyLoad
  rw [withCtx_of_some hc]
  dsimp only
  rw [← hp, hrsv, hdeny, htemplates, htmpl, hranges]
  simp only [hlen, firstOf, hread, hdig, hsigned]
  simp
  rfl

theorem watchBuffers_sessions (s : State) : s.watchBuffers.sessions = s.sessions := by
  unfold State.watchBuffers
  dsimp only
  split <;> rfl

theorem takeMail_sessions (s : State) (op : Opcode) (m : Msg) : (s.takeMail op m).sessions = s.sessions.map (fun x =>
    if x.number = m.session then { x with rx := { x.rx with mailbox := dropFirst (op.code, m) x.rx.mailbox } } else x) := by
  unfold State.takeMail
  rw [watchBuffers_sessions]
  rfl

/-- Taking a request from its mailbox leaves who has joined as which owner. -/
theorem indexJoined_takeMail (s : State) (op : Opcode) (m : Msg) (c : Ctx) (i : Nat) : (s.takeMail op m).indexJoined c i = s.indexJoined c i := by
  simp only [State.indexJoined, takeMail_sessions, List.any_map]
  congr 1
  funext j
  congr 2
  funext y
  simp only [Function.comp_apply]
  split <;> rfl

theorem doOwnerJoin_okay {m : Msg} {u : State} {x : Session} {c : Ctx} {p : Policy} (hc : u.ctx? m.ctx = some c) (hlen : m.length = 128)
    (h1 : allZero (slice m.payload 1 7) = true) (h2 : allZero (slice m.payload 122 6) = true) (hp : c.policy = some p)
    (hi : ofLe (slice m.payload 0 1) < p.nOwners) (hfree : u.indexJoined c (ofLe (slice m.payload 0 1)) = false) (hown : x.owns c = false)
    (hsig : u.verifies (p.owners.getD (ofLe (slice m.payload 0 1)) []) (shake256 (x.transcript ++ p.hash ++ ascii "owner join") 64)
      (slice m.payload 8 114) = true) :
    doOwnerJoin m u x = okay (u.modCtx c.id (fun d =>
      { d with joined := d.joined.filter (fun j => j.2.2 != ofLe (slice m.payload 0 1)) ++ [(x.number, x.gen, ofLe (slice m.payload 0 1))] })) := by
  unfold doOwnerJoin
  rw [withCtx_of_some hc]
  simp only [hlen, h1, h2, firstOf, hp, hfree, hown, hsig]
  simp [Nat.not_le.mpr hi]

/-- Read one more region behind those read so far. -/
def readMore (id : Nat) (acc : State × Except Status Bytes) (va n : Nat) : State × Except Status Bytes :=
  match acc.2 with
  | .error e => (acc.1, .error e)
  | .ok bs =>
    let r := acc.1.readV id none [] va n
    (r.1, match r.2 with
          | .error e => .error e
          | .ok more => .ok (bs ++ more))

theorem Accessed.readMore (id : Nat) (acc : State × Except Status Bytes) (va n : Nat) : Accessed acc.1 (Machine.readMore id acc va n).1 := by
  obtain ⟨s, e | bs⟩ := acc
  · exact Accessed.refl s
  · exact Accessed.readV s id none va n

/-- Reading the release windows is reading. -/
theorem Accessed.readReleases (s : State) (id : Nat) (p : Policy) : Accessed s (s.readReleases id p).1 := by
  have go (l : List PolicyWindow) : ∀ acc, Accessed acc.1 (l.foldl (fun acc w => Machine.readMore id acc w.va (w.pages * pageSize)) acc).1 := by
    induction l with
    | nil => exact fun acc => Accessed.refl acc.1
    | cons w l ih => exact fun acc => (Accessed.readMore id acc w.va _).trans (ih _)
  have hfold : s.readReleases id p = (sortBy (fun w => w.va) (p.windows.filter (fun w => w.kind == 3))).foldl
    (fun acc w => Machine.readMore id acc w.va (w.pages * pageSize)) (s, .ok []) := rfl
  rw [hfold]
  exact go _ _

section Release
variable {m : Msg} {u : State} {x : Session} {c : Ctx} {p : Policy} (hc : u.ctx? m.ctx = some c) (hlen : m.length = 16)
  (hlow : anySet (ofLe (slice m.payload 0 16)) 31 2 = false) (hhigh : anySet (ofLe (slice m.payload 0 16)) 127 64 = false) (hp : c.policy = some p)
include hc hlen hlow hhigh hp

theorem doRelease_propose {bs : Bytes} (hop : field (ofLe (slice m.payload 0 16)) 1 0 = 0) (hnone : p.proposal = none)
    (hno : field (ofLe (slice m.payload 0 16)) 63 32 = p.release) (hread : (u.readReleases c.id p).2.toOption = some bs) :
    doRelease m u x = ((u.readReleases c.id p).1.modPolicy c.id (fun q => { q with proposal := some (tally bs), signed := [] }),
      some { status := .ok, arg0 := tally bs }) := by
  have hok : (u.readReleases c.id p).2 = .ok bs := by
    revert hread
    cases (u.readReleases c.id p).2 <;> simp [Except.toOption]
  unfold doRelease
  rw [withCtx_of_some hc]
  simp [hlen, hlow, hhigh, hop, firstOf, hp, hnone, hno, hok]

theorem doRelease_fetch (hop : field (ofLe (slice m.payload 0 16)) 1 0 = 1)
    (hin : field (ofLe (slice m.payload 0 16)) 63 32 ∈ p.released.take 16) :
    doRelease m u x = (u, some { status := .ok, payload := p.releaseKey (field (ofLe (slice m.payload 0 16)) 63 32) }) := by
  unfold doRelease
  rw [withCtx_of_some hc]
  simp [hlen, hlow, hhigh, hop, firstOf, hp, hin]

theorem doRelease_withdraw (hop : field (ofLe (slice m.payload 0 16)) 1 0 = 2) (hopen : p.proposal.isSome = true) :
    doRelease m u x = okay (u.closeProposal c.id false) := by
  have hsome : p.proposal ≠ none := by rintro h; simp [h] at hopen
  unfold doRelease
  rw [withCtx_of_some hc]
  simp [hlen, hlow, hhigh, hop, firstOf, hp, hsome]

end Release

theorem runGroup_idle {s : State} {id gid : Nat} (h : s.firstInst id gid = none) (fuel : Nat) : s.runGroup id gid fuel = s := by
  cases fuel with
  | zero => rfl
  | succ n => rw [State.runGroup, h]

/-- Closing a proposal of a context that no collective waits for changes its policy alone. -/
theorem closeProposal_idle {s : State} {id : Nat} (released : Bool) (h : s.links.insts.all (fun k => k.ctx != id) = true) :
    s.closeProposal id released = s.modPolicy id (fun p =>
      { p with proposal := none, signed := [], released := if released then p.release :: p.released else p.released, release := p.release + 1,
               keyFrom := p.counter }) := by
  unfold State.closeProposal
  dsimp only
  generalize hu : s.modPolicy id _ = u
  have hinsts : u.links.insts = s.links.insts := by rw [← hu]; rfl
  have hidle (gid : Nat) : u.firstInst id gid = none := by
    have hnone : u.groupInsts id gid = [] := by
      unfold State.groupInsts
      rw [List.filter_eq_nil_iff, hinsts]
      intro k hk
      have := List.all_eq_true.mp h k hk
      simp_all
    rw [State.firstInst, hnone]
    rfl
  generalize u.links.groups.filter _ = l
  induction l with
  | nil => rfl
  | cons g l ih => rw [List.foldl_cons, runGroup_idle (hidle g.id), ih]

theorem doQuorumSign_okay {m : Msg} {u : State} {x : Session} {c : Ctx} {p : Policy} {y i : Nat} {n : List Nat} (hc : u.ctx? m.ctx = some c)
    (hlen : m.length = 128) (h1 : allZero (slice m.payload 4 4) = true) (h2 : allZero (slice m.payload 122 6) = true) (hp : c.policy = some p)
    (hprop : p.proposal = some y) (hno : ofLe (slice m.payload 0 4) = p.release) (hi : i ∈ x.joinedAs c) (hone : (x.joinedAs c).length = 1)
    (hsig : u.verifies (p.owners.getD i []) (shake256 (p.hash ++ toLe 4 p.release ++ toLe 8 y ++ ascii "release") 64) (slice m.payload 8 114) = true)
    (hn : n = (if p.signed.contains i then p.signed else p.signed ++ [i])) :
    doQuorumSign m u x = (if p.quorum ≤ n.length then (u.modPolicy c.id (fun q => { q with signed := n })).closeProposal c.id true
      else u.modPolicy c.id (fun q => { q with signed := n }), some { status := .ok, arg0 := n.length }) := by
  obtain ⟨j, hj⟩ := List.length_eq_one_iff.mp hone
  obtain rfl : i = j := by rwa [hj, List.mem_singleton] at hi
  unfold doQuorumSign
  rw [withCtx_of_some hc]
  simp only [hlen, h1, h2, firstOf, hp, hprop, hno, hj, List.find?_cons, hsig, ← hn]
  simp

/-- The policy of a context once `modPolicy` has changed it. -/
theorem policy_modPolicy {v : State} {id : Nat} {d : Ctx} {p : Policy} (hd : v.ctx? id = some d) (hp : d.policy = some p) (f : Policy → Policy) :
    ((v.modPolicy id f).ctx? id).map (fun d => d.policy) = some (some (f p)) := by
  unfold State.modPolicy
  rw [State.ctx?_modCtx v id id (fun d => { d with policy := d.policy.map f }) (fun _ => rfl), hd]
  simp [hp]

theorem modPolicy_modPolicy (s : State) (id : Nat) (f g : Policy → Policy) :
    (s.modPolicy id f).modPolicy id g = s.modPolicy id (fun p => g (f p)) := by
  simp only [State.modPolicy, State.modCtx, List.map_map]
  congr 2
  funext c
  simp only [Function.comp_apply]
  split
  · simp_all [Option.map_map]
    rfl
  · simp_all

end Sys2Proof.Machine

namespace Sys2Proof
open Machine
set_option Elab.async false

/-- Settles O56: each request by the equation of its home rule; reading leaves the policy, and no collective waits for a proposal that closes. -/
theorem consortiumRequestsBindAndRelease : Obligations.ConsortiumRequestsBindAndRelease := by
  refine ⟨?load, ?join, ?propose, ?sign, ?quorum, ?fetch, ?withdraw⟩
  case load =>
    intro m x c bs prog d p u v s hadm hc hbs hd hp hu hlen hrsv hdeny htmpl halign hmap hv hprog hdig hsigned
    subst hu
    have hc0 : (s.takeMail .policyLoad m).ctx? c.id = some c := by rw [State.takeMail_ctx?, State.ctx?_id hc]; exact hc
    have hacc : Accessed (s.takeMail .policyLoad m) v := hv ▸ Accessed.readV ..
    obtain ⟨d', hd', -⟩ := hacc.ctx? hc0
    have hctx := State.ctx?_modCtx (v.draw 32).1 c.id c.id (fun e =>
        { e with policy := some { p with jobKey := (v.draw 32).2 }, pages := e.pages.map (sealPage p) }) (fun _ => rfl)
    rw [show (v.draw 32).1.ctx? c.id = v.ctx? c.id from rfl, hd'] at hctx
    obtain ⟨hans, hsends⟩ := request_from hadm
      (doPolicyLoad_okay (by rw [State.takeMail_ctx?, hc]) hbs hd hp hlen hrsv hdeny htmpl halign hmap hv hprog hdig hsigned)
      hacc.out (congrArg State.sessions hacc.noted.rest :)
    refine ⟨_, rfl, hans, ?_, ?_, ?_, ?_⟩
    · rw [hsends.ctx?, hctx]
      simp
    · rw [hsends.hub]
      rfl
    · rw [hsends.ctx?, hctx]
      have hro := sealPage_ro p
      simp_all
    · rw [hsends.mem]
      exact congrArg Memory.cells (hacc.noted.mem.trans (Sends.takeMail s .policyLoad m).mem)
  case join =>
    intro m x c i p s hadm hc hlen h1 h2 hp hi hlt hfree hown hsig
    subst hi
    refine ⟨_, rfl, ?_⟩
    obtain ⟨_, _, _, h0⟩ := Sends.takeMail s .ownerJoin m
    exact request_effect (fun u => u.modCtx c.id _) hadm
      (doOwnerJoin_okay (by rw [State.takeMail_ctx?, hc]) hlen h1 h2 hp hlt (by rw [indexJoined_takeMail, hfree]) hown (by rw [h0]; exact hsig))
      (fun _ _ _ => rfl)
  case propose =>
    intro m x c p bs u v s hadm hc hlen hlow hhigh hp hop hnone hno hu hv hread
    subst hu
    have hc0 : (s.takeMail .release m).ctx? c.id = some c := by rw [State.takeMail_ctx?, State.ctx?_id hc]; exact hc
    have hacc : Accessed (s.takeMail .release m) v := hv ▸ Accessed.readReleases ..
    obtain ⟨d', hd', hun⟩ := hacc.ctx? hc0
    have hp' : d'.policy = some p := (congrArg Ctx.policy hun).trans hp
    obtain ⟨hans, hsends⟩ := request_from hadm (doRelease_propose (by rw [State.takeMail_ctx?, hc]) hlen hlow hhigh hp hop hnone hno hread)
      (by rw [hv]; exact hacc.out) (by rw [hv]; exact (congrArg State.sessions hacc.noted.rest :))
    rw [hv] at hsends
    refine ⟨_, rfl, hans, ?_, ?_⟩
    · rw [hsends.ctx?, policy_modPolicy hd' hp']
    · rw [hsends.mem]
      exact congrArg Memory.cells (hacc.noted.mem.trans (Sends.takeMail s .release m).mem)
  case sign =>
    intro m x c y i n p s hadm hc hlen h1 h2 hp hprop hno hi hone hsig hn hlt
    have hc0 : (s.takeMail .quorumSign m).ctx? c.id = some c := by rw [State.takeMail_ctx?, State.ctx?_id hc]; exact hc
    obtain ⟨_, _, _, h0⟩ := Sends.takeMail s .quorumSign m
    have hdo := doQuorumSign_okay (u := s.takeMail .quorumSign m) (by rw [State.takeMail_ctx?, hc]) hlen h1 h2 hp hprop hno hi hone
      (by rw [h0]; exact hsig) hn
    rw [if_neg (Nat.not_le.mpr hlt)] at hdo
    obtain ⟨hans, hsends⟩ := request_from hadm hdo ⟨[], (List.append_nil _).symm⟩ rfl
    refine ⟨_, rfl, hans, ?_, ?_⟩
    · rw [hsends.ctx?, policy_modPolicy hc0 hp]
    · rw [hsends.mem]
      exact (Sends.takeMail s .quorumSign m).mem
  case quorum =>
    intro m x c y i n p s hadm hc hlen h1 h2 hp hprop hno hi hone hsig hn hle hidle
    have hc0 : (s.takeMail .quorumSign m).ctx? c.id = some c := by rw [State.takeMail_ctx?, State.ctx?_id hc]; exact hc
    obtain ⟨_, _, _, h0⟩ := Sends.takeMail s .quorumSign m
    have hdo := doQuorumSign_okay (u := s.takeMail .quorumSign m) (by rw [State.takeMail_ctx?, hc]) hlen h1 h2 hp hprop hno hi hone
      (by rw [h0]; exact hsig) hn
    rw [if_pos hle, closeProposal_idle true (by rw [h0]; exact hidle), modPolicy_modPolicy] at hdo
    obtain ⟨hans, hsends⟩ := request_from hadm hdo ⟨[], (List.append_nil _).symm⟩ rfl
    refine ⟨_, rfl, hans, ?_⟩
    rw [hsends.ctx?, policy_modPolicy hc0 hp]
    rfl
  case fetch =>
    intro m x c p s hadm hc hlen hlow hhigh hp hop hin
    exact ⟨_, rfl, request_onlySent hadm (doRelease_fetch (by rw [State.takeMail_ctx?, hc]) hlen hlow hhigh hp hop hin)⟩
  case withdraw =>
    intro m x c p s hadm hc hlen hlow hhigh hp hop hopen hidle
    have hc0 : (s.takeMail .release m).ctx? c.id = some c := by rw [State.takeMail_ctx?, State.ctx?_id hc]; exact hc
    obtain ⟨_, _, _, h0⟩ := Sends.takeMail s .release m
    have hdo := doRelease_withdraw (u := s.takeMail .release m) (x := x) (by rw [State.takeMail_ctx?, hc]) hlen hlow hhigh hp hop hopen
    rw [closeProposal_idle false (by rw [h0]; exact hidle)] at hdo
    obtain ⟨hans, hsends⟩ := request_from hadm hdo ⟨[], (List.append_nil _).symm⟩ rfl
    refine ⟨_, rfl, hans, ?_⟩
    rw [hsends.ctx?, policy_modPolicy hc0 hp]
    rfl

end Sys2Proof

/-! ### Finding what an update has changed -/

namespace Sys2Proof.Machine
set_option Elab.async false

/-- A search after an update of what it searches for, which keeps the test. -/
theorem find?_map_same {α : Type} (l : List α) (p : α → Bool) (f : α → α) (hf : ∀ x, p (f x) = p x) :
    (l.map f).find? p = (l.find? p).map f := by
  rw [List.find?_map, show p ∘ f = p from funext hf]

theorem rec?_modRec (x : Queue) (seq iter : Nat) (f : Rec → Rec) (hf : ∀ r, (f r).seq = r.seq ∧ (f r).iter = r.iter) :
    (x.modRec seq iter f).rec? seq iter = (x.rec? seq iter).map f := by
  unfold Queue.modRec Queue.rec?
  dsimp only
  rw [find?_map_same _ _ _ (fun r => by split <;> simp [hf])]
  cases h : x.recs.find? (fun r => r.seq == seq && r.iter == iter) with
  | none => rfl
  | some r =>
    have hkey := List.find?_some h
    simp only [Bool.and_eq_true, beq_iff_eq] at hkey
    simp [hkey]

theorem queue?_modQueue (c : Ctx) (q : Nat) (f : Queue → Queue) (hf : ∀ x, (f x).number = x.number) :
    (c.modQueue q f).queue? q = (c.queue? q).map f := by
  have := find?_map_keep c.queues (fun x => x.number) q q f hf
  simpa [Ctx.modQueue, Ctx.queue?] using this

/-- The record that `modRec` names is the changed one. -/
theorem recOf_modRec (s : State) (id q seq iter : Nat) (f : Rec → Rec) (hf : ∀ r, (f r).seq = r.seq ∧ (f r).iter = r.iter) :
    RecOf (s.modRec id q seq iter f) id q seq iter = (RecOf s id q seq iter).map f := by
  rw [State.modRec_eq, State.modQueue_eq]
  unfold RecOf QueueOf
  rw [State.ctx?_modCtx s id id (fun c => c.modQueue q (fun x => x.modRec seq iter f)) (fun _ => rfl)]
  cases s.ctx? id with
  | none => rfl
  | some c =>
    simp only [if_true, Option.map_some, Option.bind_some]
    rw [queue?_modQueue c q (fun x => x.modRec seq iter f) (fun _ => rfl)]
    cases c.queue? q with
    | none => rfl
    | some x =>
      simp only [Option.map_some, Option.bind_some]
      exact rec?_modRec x seq iter f hf

theorem recOf_congr {s t : State} (h : t.ctxs = s.ctxs) (id q seq iter : Nat) : RecOf t id q seq iter = RecOf s id q seq iter := by
  simp only [RecOf, QueueOf, State.ctx?, h]

/-- A record that is ended has ended. -/
theorem ended_endRec {s : State} {id q seq iter : Nat} {r : Rec} (h : RecOf s id q seq iter = some r) (st : Status) (a b : Nat) (sig : Bool) :
    Ended (s.endRec id q seq iter st a b sig) id q seq iter st a b sig := by
  unfold State.endRec
  rw [Ended, recOf_modRec s id q seq iter (fun y => { y with phase := .ended st a b sig }) (fun _ => ⟨rfl, rfl⟩), h]
  rfl

theorem group?_modGroup (s : State) (id gid : Nat) (f : Group → Group) (hf : ∀ g, (f g).ctx = g.ctx ∧ (f g).id = g.id) :
    (s.modGroup id gid f).group? id gid = (s.group? id gid).map f := by
  unfold State.modGroup State.group?
  rw [State.modLinks_links]
  dsimp only
  rw [find?_map_same _ _ _ (fun g => by split <;> simp [hf])]
  cases h : s.links.groups.find? (fun g => g.ctx == id && g.id == gid) with
  | none => rfl
  | some g =>
    have hkey := List.find?_some h
    simp only [Bool.and_eq_true, beq_iff_eq] at hkey
    simp [hkey]

theorem inst?_key {s : State} {id gid n : Nat} {i : Inst} (h : s.inst? id gid n = some i) : i.ctx = id ∧ i.group = gid ∧ i.inst = n := by
  have hkey := List.find?_some h
  simpa only [Bool.and_eq_true, beq_iff_eq, and_assoc] using hkey

theorem group?_key {s : State} {id gid : Nat} {g : Group} (h : s.group? id gid = some g) : g.ctx = id ∧ g.id = gid := by
  have hkey := List.find?_some h
  simpa only [Bool.and_eq_true, beq_iff_eq] using hkey

end Sys2Proof.Machine

/-! ### Taking a frame in -/

namespace Sys2Proof.Machine
set_option Elab.async false

/-- What is taken from its place frees its cells, which its channel owes. -/
theorem takeIn_eq (s : State) (d : Delivered) : ∃ ib chs, s.takeIn d = { s with links := { s.links with inbox := ib, channels := chs } } := by
  have howe (u : State) (a b c n : Nat) : ∃ chs, u.oweCells a b c n = { u with links := { u.links with channels := chs } } := by
    unfold State.oweCells
    split
    · exact ⟨_, rfl⟩
    · exact ⟨_, rfl⟩
  unfold State.takeIn
  split
  · dsimp only
    split
    · split
      · obtain ⟨chs, h⟩ := howe (s.modLinks (fun l => { l with inbox := dropFirst d l.inbox })) _ _ _ _
        exact ⟨_, chs, h⟩
      · exact ⟨_, _, rfl⟩
    · exact ⟨_, _, rfl⟩
  · exact ⟨_, _, rfl⟩

theorem withGroup_of_live {s : State} {d : Delivered} {g : Group} (hg : s.groupOf d = some g) (hb : g.broken = false) (f : State → Group → State) :
    (s.takeIn d).withGroup d f = f (s.takeIn d) g := by
  obtain ⟨_, _, h⟩ := takeIn_eq s d
  have hg' : (s.takeIn d).groupOf d = some g := by rw [h]; exact hg
  simp [State.withGroup, hg', hb]

theorem withGroup_of_broken {s : State} {d : Delivered} {g : Group} (hg : s.groupOf d = some g) (hb : g.broken = true) (f : State → Group → State) :
    (s.takeIn d).withGroup d f = (s.takeIn d).dropFrame g d := by
  obtain ⟨_, _, h⟩ := takeIn_eq s d
  have hg' : (s.takeIn d).groupOf d = some g := by rw [h]; exact hg
  simp [State.withGroup, hg', hb]

theorem Carried.sendRank (s : State) (g : Group) (rank : Nat) (i : Inner) (h : ¬ (0x11 ≤ i.iop ∧ i.iop ≤ 0x13)) : Carried s (s.sendRank g rank i) := by
  unfold State.sendRank
  split
  · exact Carried.sendR _ _ _ _ h
  · exact Carried.refl s

theorem Carried.sendAbort (s : State) (g : Group) (n : Nat) : Carried s (s.sendAbort g n) := by
  unfold State.sendAbort
  refine Carried.foldl _ (fun s r => ?_) _ s
  split
  · exact Carried.refl s
  · exact Carried.sendRank _ _ _ _ (by simp)

end Sys2Proof.Machine

/-! ### What the end of a collective leaves unspecified -/

namespace Sys2Proof.Machine
set_option Elab.async false

/-- `t` is `s` but for bytes in memory, and for the free values that have been used. -/
def Spoilt (s t : State) : Prop := ∃ cs n, t = { s with mem := { s.mem with cells := cs }, hub := { s.hub with free := n } }

theorem Spoilt.refl (s : State) : Spoilt s s := ⟨_, _, rfl⟩

theorem Spoilt.trans {s t u : State} (h : Spoilt s t) (k : Spoilt t u) : Spoilt s u := by
  obtain ⟨_, _, rfl⟩ := h
  obtain ⟨cs, n, rfl⟩ := k
  exact ⟨cs, n, rfl⟩

theorem Spoilt.pokeV (s : State) (id va : Nat) (bs : Bytes) : Spoilt s (s.pokeV id va bs) := by
  unfold State.pokeV
  have go (l : List (Nat × Nat × Nat)) : ∀ acc : State × Bytes, Spoilt acc.1 (l.foldl (fun (acc : State × Bytes) pc =>
      let s := acc.1
      let b := acc.2.take pc.2.2
      let s1 := match s.ctx? id with
        | none => s
        | some c => match c.page? pc.1 with
          | none => s
          | some p => match s.placeOf p none with
            | .hbm f | .tier f | .lease f => s.modCells (fun cs => writeCells cs (physAt f pc.2.1) b)
            | .lost => s
      (s1, acc.2.drop pc.2.2)) acc).1 := by
    induction l with
    | nil => exact fun acc => Spoilt.refl acc.1
    | cons pc l ih =>
      intro acc
      rw [List.foldl_cons]
      refine Spoilt.trans ?_ (ih _)
      dsimp only
      split
      · exact Spoilt.refl _
      · split
        · exact Spoilt.refl _
        · split <;> exact ⟨_, _, rfl⟩
  exact go _ (s, bs)

/-- Bytes put into one HBM page under its context's key lie at its frame. -/
theorem pokeV_plain {s : State} {id : Nat} {c : Ctx} {va f : Nat} {bs : Bytes} (hc : s.ctx? id = some c)
    (h : PlainRegion s c va bs.length f = true) : s.pokeV id va bs = s.modCells (fun cs => writeCells cs (physAt f (va % pageSize)) bs) := by
  obtain ⟨h1, h2, -, ⟨p, hp, a1, a2, a3, a4, a5, -, a7, -⟩, -, -, -⟩ := (plainRegion_iff s c va bs.length f).mp h
  unfold State.pokeV
  rw [piecesOf_page h1 h2, List.foldl_cons, List.foldl_nil]
  simp only [hc, hp, placeOf_plain none a1 a2 a3 a4 a5 a7, List.take_length]

@[simp] theorem freeBytes_length (s : State) (n : Nat) : (s.freeBytes n).2.length = n := by simp [State.freeBytes]

theorem Spoilt.freeBytes (s : State) (n : Nat) : Spoilt s (s.freeBytes n).1 := ⟨_, _, rfl⟩

theorem Spoilt.target (s : State) (i : Inst) (st : Status) : Spoilt s (s.spoilTarget i st) := by
  unfold State.spoilTarget
  split
  · exact Spoilt.refl s
  · unfold State.scramble Inst.target
    dsimp only
    split
    · exact Spoilt.refl s
    · exact (Spoilt.freeBytes ..).trans (Spoilt.pokeV ..)

theorem spoilTarget_nil {s : State} {i : Inst} (h : i.target = []) (st : Status) : s.spoilTarget i st = s := by
  unfold State.spoilTarget
  split
  · rfl
  · rw [h]
    rfl

/-- Outside the destination, when that lies in a plain page, no byte is spoilt. -/
theorem spoilTarget_outside {s : State} {i : Inst} {c : Ctx} {f : Nat} (st : Status) (hc : s.ctx? i.ctx = some c)
    (h : PlainRegion s c (collArgs i.args).dst ((collArgs i.args).writes i.members.length i.rank * collElem (collArgs i.args).dstFmt) f = true)
    (hwf : cellsWf s.mem.cells = true) {b : Nat} (hb : ¬ (physAt f ((collArgs i.args).dst % pageSize) ≤ b ∧
      b < physAt f ((collArgs i.args).dst % pageSize) + (collArgs i.args).writes i.members.length i.rank * collElem (collArgs i.args).dstFmt)) :
    cellAt (s.spoilTarget i st).mem.cells b = cellAt s.mem.cells b := by
  unfold State.spoilTarget
  split
  · rfl
  · unfold Inst.target
    dsimp only
    generalize (collArgs i.args).writes i.members.length i.rank * collElem (collArgs i.args).dstFmt = n at *
    split
    · rfl
    · rw [State.scramble, List.foldl_cons, List.foldl_nil]
      dsimp only
      rw [State.pokeS, if_pos rfl, pokeV_plain (s := (s.freeBytes n).1) (c := c) (f := f) hc (by rw [freeBytes_length]; exact h)]
      exact cellAt_writeCells_outside hwf (by rw [freeBytes_length]; exact hb)

/-- The end of a collective in a group that is not being destroyed. -/
theorem endInst_eq {s : State} {i : Inst} (st : Status) (haudit : i.audit = none)
    (hgroup : ∀ g, s.group? i.ctx i.group = some g → g.state ≠ .destroying) :
    s.endInst i st = ((if st = .timeout then { s.spoilTarget i st with ledger := (s.spoilTarget i st).ledger.expire i.tag (s.spoilTarget i st).hub.timer }
        else (s.spoilTarget i st).freeTag i.tag).modLinks
          (fun l => { l with insts := l.insts.filter (fun j => !(j.ctx == i.ctx && j.group == i.group && j.inst == i.inst)) })).endRec
      i.ctx i.queue i.seq i.iter st (if i.carries st then i.result else 0)
        (i.res1 i.rank (st == Status.divergence && i.winner.isNone && !i.votes.isEmpty)) true := by
  unfold State.endInst
  simp only [haudit]
  generalize hu : State.endRec _ _ _ _ _ _ _ _ _ = u
  have hlinks : u.group? i.ctx i.group = s.group? i.ctx i.group := by
    rw [← hu]
    obtain ⟨_, _, h⟩ := Spoilt.target s i st
    rw [h]
    split <;> rfl
  unfold State.settleGroup
  split
  · rfl
  · next g hg =>
    rw [if_pos]
    simp [hgroup g (hlinks ▸ hg)]

/-- The statuses of a collective that another member or its deadline ends. -/
def Cut (st : Status) : Prop := st = .abandoned ∨ st = .timeout

/-- What the end of a collective that is cut leaves. -/
theorem endInst_cut {s : State} {i : Inst} {r : Rec} {st : Status} (hst : Cut st) (haudit : i.audit = none)
    (hgroup : ∀ g, s.group? i.ctx i.group = some g → g.state ≠ .destroying) (hr : RecOf s i.ctx i.queue i.seq i.iter = some r) :
    Ended (s.endInst i st) i.ctx i.queue i.seq i.iter st 0 (i.res1 i.rank false) true ∧
    (s.endInst i st).links = { s.links with insts := s.links.insts.filter (fun j => !(j.ctx == i.ctx && j.group == i.group && j.inst == i.inst)) } ∧
    (s.endInst i st).ledger = (if st = .timeout then s.ledger.expire i.tag s.hub.timer else s.ledger.free i.tag) ∧
    (s.endInst i st).mem = (s.spoilTarget i st).mem ∧ (s.endInst i st).vault = s.vault := by
  have hcarry : i.carries st = false := by rcases hst with rfl | rfl <;> rfl
  have hvote : (st == Status.divergence && i.winner.isNone && !i.votes.isEmpty) = false := by rcases hst with rfl | rfl <;> rfl
  obtain ⟨cs, n, hspoilt⟩ := Spoilt.target s i st
  rw [endInst_eq st haudit hgroup, hcarry, hvote, hspoilt]
  refine ⟨ended_endRec (r := r) ?_ .., ?_, ?_, ?_, ?_⟩
  · rw [← hr]
    split <;> exact recOf_congr rfl ..
  all_goals split <;> rfl

theorem inst?_filter (l : List Inst) (id gid n : Nat) :
    (l.filter (fun j => !(j.ctx == id && j.group == gid && j.inst == n))).find? (fun j => j.ctx == id && j.group == gid && j.inst == n) = none := by
  rw [List.find?_eq_none]
  intro j hj
  have hkeep := (List.mem_filter.mp hj).2
  rw [Bool.not_eq_true'] at hkeep
  exact Bool.eq_false_iff.mp hkeep

end Sys2Proof.Machine

namespace Sys2Proof
open Machine
set_option Elab.async false

/-- Settles O46: the group stays, so that the end of the collective is `endInst_cut`; what is sent to the members changes neither. -/
theorem instancesEndAndBreakTheirGroup : Obligations.InstancesEndAndBreakTheirGroup := by
  refine ⟨?abort, ?early, ?timeout, ?resend, ?broken⟩
  case abort =>
    intro d y i r s halive hof hbroken hlive hy hi haudit hr
    obtain ⟨ib, chs, h0⟩ := takeIn_eq s d
    obtain ⟨hk1, hk2, hk3⟩ := inst?_key hi
    obtain ⟨u, hu⟩ : ∃ u, u = (s.takeIn d).modGroup y.ctx y.id (fun g => { g with broken := true }) := ⟨_, rfl⟩
    have hui : u.inst? y.ctx y.id d.inner.inst = some i := by rw [hu, h0]; exact hi
    have huy : u.group? y.ctx y.id = some { y with broken := true } := by
      rw [hu, group?_modGroup _ _ _ (fun g => { g with broken := true }) (fun _ => ⟨rfl, rfl⟩), show (s.takeIn d).group? y.ctx y.id = some y by rw [h0]; exact hy]
      rfl
    have hexec : exec (.abort d) s = .next (u.endInst i .abandoned) := by
      show Host.Outcome.next (doAbort d s) = _
      rw [doAbort, if_neg (by simp [halive]), withGroup_of_live hof hbroken]
      dsimp only
      rw [← hu, hui]
    obtain ⟨hended, hlinks, hledger, hmem, hvault⟩ := endInst_cut (s := u) (i := i) (r := r) (Or.inl rfl) haudit
      (by rw [hk1, hk2, huy]; rintro _ ⟨⟩; simp [hlive]) (by rw [← hr, hu, h0]; exact recOf_congr rfl ..)
    refine ⟨_, hexec, hended, ?_, ?_, ?_, ?_, ?_, ?_⟩
    · rw [State.group?, hlinks]
      exact congrArg (Option.map Group.broken) huy
    · rw [State.inst?, hlinks, hk1, hk2, hk3]
      exact inst?_filter ..
    · rw [hledger, if_neg (by decide), hu, h0]
      rfl
    · intro htarget
      rw [hmem, spoilTarget_nil htarget, hu, h0]
      rfl
    · intro c f hc hplain hwf b hb
      rw [hmem, spoilTarget_outside (s := u) (c := c) (f := f) .abandoned (by rw [hu, h0]; exact hc) (by rw [hu, h0]; exact hplain)
        (by rw [hu, h0]; exact hwf) hb, hu, h0]
      rfl
    · rw [hvault, hu, h0]
      rfl
  case early =>
    intro d y s halive hof hbroken hlive hi hlt
    refine ⟨_, rfl, ?_⟩
    obtain ⟨ib, chs, h0⟩ := takeIn_eq s d
    rw [doAbort, if_neg (by simp [halive]), withGroup_of_live hof hbroken]
    dsimp only
    have hui : ((s.takeIn d).modGroup y.ctx y.id (fun g => { g with broken := true })).inst? y.ctx y.id d.inner.inst = none := by rw [h0]; exact hi
    rw [hui]
    simp only [Nat.not_lt.mpr hlt, if_false]
    unfold State.modGroup State.modLinks
    simp only [List.map_map]
    congr 3
    funext z
    simp only [Function.comp_apply]
    split <;> simp_all
  case timeout =>
    intro id gid n y i r s halive hy hlive hi hdue haudit hr
    obtain ⟨hk1, hk2, hk3⟩ := inst?_key hi
    obtain ⟨u, hu⟩ : ∃ u, u = s.breakGroup i.ctx i.group i.inst := ⟨_, rfl⟩
    have hbreak : ∃ ps chs o, u = { s with
        links := { s.links with
          groups := s.links.groups.map (fun g => if g.ctx = id ∧ g.id = gid then { g with broken := true } else g)
          ports := ps
          channels := chs }
        out := s.out ++ o } := by
      rw [hu, hk1, hk2, State.breakGroup, hy]
      obtain ⟨ps, chs, o, h⟩ := Carried.sendAbort (s.modGroup id gid (fun g => { g with broken := true })) y i.inst
      exact ⟨ps, chs, o, h⟩
    obtain ⟨ps, chs, o, h0⟩ := hbreak
    have huy : u.group? id gid = some { y with broken := true } := by
      have := group?_modGroup s id gid (fun g => { g with broken := true }) (fun _ => ⟨rfl, rfl⟩)
      rw [hy] at this
      rw [h0]
      exact this
    have hexec : exec (.collectiveTimeout id gid n) s = .next (u.endInst i .timeout) := by
      show execCollectiveTimeout id gid n s = _
      simp only [execCollectiveTimeout, hi, halive, hdue, decide_true, Bool.and_self, if_true, State.failInst, hu]
    obtain ⟨hended, hlinks, hledger, hmem, hvault⟩ := endInst_cut (s := u) (i := i) (r := r) (Or.inr rfl) haudit
      (by rw [hk1, hk2, huy]; rintro _ ⟨⟩; simp [hlive]) (by rw [← hr, h0]; exact recOf_congr rfl ..)
    refine ⟨_, hexec, hended, ?_, ?_, ?_, ?_, ?_, ?_⟩
    · rw [State.group?, hlinks]
      exact congrArg (Option.map Group.broken) huy
    · rw [State.inst?, hlinks, hk1, hk2, hk3]
      exact inst?_filter ..
    · rw [hledger, if_pos rfl, h0]
    · intro htarget
      rw [hmem, spoilTarget_nil htarget, h0]
    · intro c f hc hplain hwf b hb
      rw [hmem, spoilTarget_outside (s := u) (c := c) (f := f) .timeout (by rw [h0]; exact hc) (by rw [h0]; exact hplain)
        (by rw [h0]; exact hwf) hb, h0]
    · rw [hvault, h0]
  case resend =>
    intro id gid n p y i k s halive hy hi hk
    refine ⟨_, rfl, ?_⟩
    simp only [doContributionResend, hi, hy, hk]
    simp [halive]
  case broken =>
    intro d y k s halive hof hbroken hk
    have hbulk : (s.groupOf d).isNone = false := by rw [hof]; rfl
    obtain ⟨ib, chs, h0⟩ := takeIn_eq s d
    have hof' : (s.takeIn d).groupOf d = some y := by rw [h0]; exact hof
    simp only [List.mem_cons, List.not_mem_nil, or_false] at hk
    rcases hk with rfl | rfl | rfl | rfl | rfl | rfl <;> refine ⟨_, rfl, ?_⟩
    · rw [doReady, if_neg (by simp [halive]), withGroup_of_broken hof hbroken]
    · rw [doChunk, if_neg (by simp [halive])]
      simp only [hof', Option.isNone_some, Bool.and_false, Bool.false_eq_true, if_false]
      rw [withGroup_of_broken hof hbroken]
    · rw [doAck, if_neg (by simp [halive]), if_neg (by simp [hof]), withGroup_of_broken hof hbroken]
    · rw [doRetry, if_neg (by simp [halive]), if_neg (by simp [hof]), withGroup_of_broken hof hbroken]
    · simp [doRtally, halive, hof', hbroken]
    · rw [doAbort, if_neg (by simp [halive]), withGroup_of_broken hof hbroken]

end Sys2Proof

/-! ### Groups form and end (R278–R280) -/

namespace Sys2Proof.Machine
set_option Elab.async false

/-- Every wait that meets the test ends, each with its final answer. -/
theorem Released.finishAll (s : State) (p : Wait → Bool) (r : Wait → Reply) :
    Released s (s.finishAll p r) ∧ ∀ z ∈ (s.finishAll p r).waits, p z = false := by
  have hfold (l : List Wait) : ∀ u : State, Released u (l.foldl (fun s w => s.finish w (r w)) u)
      ∧ ∀ z ∈ (l.foldl (fun s w => s.finish w (r w)) u).waits, z ∉ l := by
    induction l with
    | nil => exact fun u => ⟨Released.refl u, fun _ _ => List.not_mem_nil⟩
    | cons w rest ih =>
      intro u
      obtain ⟨hrel, hgone⟩ := ih (u.finish w (r w))
      refine ⟨(Released.finish u w (r w)).trans hrel, fun z hz => ?_⟩
      rw [List.mem_cons]
      rintro (rfl | hrest)
      · have hleft := hrel.waits z hz
        rw [State.finish_waits] at hleft
        simp at hleft
      · exact hgone z hz hrest
  obtain ⟨hrel, hgone⟩ := hfold (s.waits.filter p) s
  refine ⟨hrel, fun z hz => ?_⟩
  have hnot := hgone z hz
  rw [List.mem_filter, not_and] at hnot
  exact Bool.eq_false_iff.mpr (hnot (hrel.waits z hz))

theorem Released.links {s t : State} (h : Released s t) : t.links = s.links := by
  obtain ⟨_, _, _, _, _, rfl⟩ := h.effect
  rfl

theorem Released.mem {s t : State} (h : Released s t) : t.mem = s.mem := by
  obtain ⟨_, _, _, _, _, rfl⟩ := h.effect
  rfl

theorem Released.ctxs {s t : State} (h : Released s t) : t.ctxs = s.ctxs := by
  obtain ⟨_, _, _, _, _, rfl⟩ := h.effect
  rfl

theorem Released.out {s t : State} (h : Released s t) : ∃ o, t.out = s.out ++ o := by
  obtain ⟨_, o, _, _, _, rfl⟩ := h.effect
  exact ⟨o, rfl⟩

theorem Sends.waits {s t : State} (h : Sends s t) : t.waits = s.waits := by
  obtain ⟨_, _, _, rfl⟩ := h
  rfl

theorem Sends.links {s t : State} (h : Sends s t) : t.links = s.links := by
  obtain ⟨_, _, _, rfl⟩ := h
  rfl

theorem Sends.ctxs {s t : State} (h : Sends s t) : t.ctxs = s.ctxs := by
  obtain ⟨_, _, _, rfl⟩ := h
  rfl

/-- What has left by a state has left by a later one. -/
theorem Answered.later {s t u : State} {op : Opcode} {m : Msg} {r : Reply} (h : Answered s t op m r) (hgrow : ∃ o, u.out = t.out ++ o) :
    Answered s u op m r := by
  obtain ⟨o, ho⟩ := hgrow
  unfold Answered at h ⊢
  rw [ho]
  rcases Nat.le_total s.out.length t.out.length with hle | hle
  · rw [List.drop_append_of_le_length hle]
    exact List.mem_append_left _ h
  · rw [List.drop_eq_nil_of_le hle] at h
    exact absurd h List.not_mem_nil

/-- An admitted request that its home rule leaves waiting holds its tag. -/
theorem request_waiting {s u v : State} {op : Opcode} {m : Msg} {x : Session} {body : State → Session → State × Option Reply}
    (h : Admits s op m x = true) (hu : s.takeMail op m = u) (hb : body u x = (v, none)) : s.hears op m = true ∧ Sends v (s.request op m body) := by
  subst hu
  obtain ⟨hhears, hses, hfits⟩ := (admits_iff s op m x).mp h
  have hreq : s.request op m body = v.holdTag m := by simp [State.request, hhears, hses, hfits, hb]
  rw [hreq]
  exact ⟨hhears, Sends.holdTag v m⟩

theorem Carried.mem {s t : State} (h : Carried s t) : t.mem = s.mem := by
  obtain ⟨_, _, _, rfl⟩ := h
  rfl

theorem Carried.groups {s t : State} (h : Carried s t) : t.links.groups = s.links.groups := by
  obtain ⟨_, _, _, rfl⟩ := h
  rfl

theorem Carried.out {s t : State} (h : Carried s t) : ∃ o, t.out = s.out ++ o := by
  obtain ⟨_, _, o, rfl⟩ := h
  exact ⟨o, rfl⟩

theorem group?_congr {s t : State} (h : t.links.groups = s.links.groups) (id gid : Nat) : t.group? id gid = s.group? id gid := by
  simp only [State.group?, h]

theorem group?_filter (l : List Group) (id gid : Nat) :
    (l.filter (fun g => !(g.ctx == id && g.id == gid))).find? (fun g => g.ctx == id && g.id == gid) = none := by
  rw [List.find?_eq_none]
  intro g hg
  have hkeep := (List.mem_filter.mp hg).2
  rw [Bool.not_eq_true'] at hkeep
  exact Bool.eq_false_iff.mp hkeep

/-- A group that never became live is gone, and no request waits for it. -/
theorem dropForming_gone (s : State) (id gid : Nat) (st : Status) : (s.dropForming id gid st).group? id gid = none ∧
    (∀ k ∈ (s.dropForming id gid st).waits, ¬ (k.ctx = id ∧ k.what = .group gid)) ∧ (s.dropForming id gid st).mem = s.mem := by
  obtain ⟨hrel, hgone⟩ := Released.finishAll
    (s.modLinks (fun l => { l with groups := l.groups.filter (fun g => !(g.ctx == id && g.id == gid)) }))
    (fun w => w.ctx == id && w.what == .group gid) (fun _ => .of st)
  unfold State.dropForming
  refine ⟨?_, fun k hk => ?_, hrel.mem⟩
  · rw [group?_congr (congrArg Links.groups hrel.links)]
    exact group?_filter ..
  · have := hgone k hk
    simp_all

/-- A comparison that ends tells the children, and then the group is live or gone. -/
theorem formed_eq (s : State) (g : Group) (lo hi : Nat) : ∃ u, Carried s u ∧ s.formed g lo hi =
    if lo = hi then (u.modGroup g.ctx g.id (fun g => { g with state := .live })).finishAll (fun w => w.ctx == g.ctx && w.what == .group g.id) (fun _ => .of .ok)
    else u.dropForming g.ctx g.id .digestMismatch :=
  ⟨_, Carried.foldl _ (fun s c => Carried.sendRank s g c _ (by simp)) (childrenOf g.members.length g.rank) s, rfl⟩

/-- A group whose tallies agree is live. -/
theorem formed_live (s : State) (g : Group) (t : Nat) :
    (s.formed g t t).links.groups = s.links.groups.map (fun z => if z.ctx = g.ctx ∧ z.id = g.id then { z with state := .live } else z) ∧
    (∀ k ∈ (s.formed g t t).waits, ¬ (k.ctx = g.ctx ∧ k.what = .group g.id)) ∧ (s.formed g t t).mem = s.mem ∧
    ∃ o, (s.formed g t t).out = s.out ++ o := by
  obtain ⟨u, hu, heq⟩ := formed_eq s g t t
  rw [if_pos rfl] at heq
  obtain ⟨hrel, hgone⟩ := Released.finishAll (u.modGroup g.ctx g.id (fun g => { g with state := .live }))
    (fun w => w.ctx == g.ctx && w.what == .group g.id) (fun _ => .of .ok)
  obtain ⟨o, ho⟩ := hrel.out
  obtain ⟨o', ho'⟩ := hu.out
  rw [heq]
  refine ⟨?_, fun k hk => ?_, hrel.mem.trans hu.mem, o' ++ o, ?_⟩
  · rw [hrel.links, State.modGroup, State.modLinks_links, hu.groups]
  · have := hgone k hk
    simp_all
  · rw [ho, show (u.modGroup g.ctx g.id (fun g => { g with state := .live })).out = u.out from rfl, ho', List.append_assoc]

/-- The first two bytes of a run decide its first two bytes' number. -/
theorem field_slice_low (bs : Bytes) : field (ofLe (slice bs 0 2)) 15 0 = field (ofLe (slice bs 0 32)) 15 0 := by
  have hbyte (b : Byte) : b.toNat < 256 := b.isLt
  match bs with
  | [] => decide
  | [b] => simp [slice, ofLe, field, List.replicate]
  | b :: c :: r =>
    have hb := hbyte b
    have hc := hbyte c
    simp only [slice, List.drop_zero, List.take_succ_cons, List.take_zero, List.cons_append, ofLe, List.length_cons, List.length_nil, field]
    simp [ofLe]
    omega

/-- The group that GROUP_CREATE makes, before anything has been heard of it. -/
def newGroup (s : State) (c : Ctx) (payload bs : Bytes) (gid gen n tmo : Nat) : Group :=
  { ctx := c.id, ctxGen := c.gen, id := gid, gen := gen, members := ordinalsOf n bs,
    rank := ((ordinalsOf n bs).findIdx? (fun o => o == s.links.ordinal)).getD 0, tmo := tmo, created := s.hub.timer,
    form := tally (payload.take 8 ++ List.replicate 6 0 ++ slice payload 14 18 ++ bs) }

/-- What GROUP_CREATE leaves: the group stands and its request waits. -/
def grouped (v : State) (x : Session) (m : Msg) (g : Group) : State :=
  (v.modLinks (fun l => { l with
    groups := l.groups ++ [g]
    early := l.early.filter (fun e => !(e.1 == g.id && e.2.1 == g.gen))
    groupGens := (g.ctx, g.id, g.gen) :: l.groupGens.filter (fun y => !(y.1 == g.ctx && y.2.1 == g.id)) })).await x .groupCreate m (.group g.id)

section Create
variable {m : Msg} {u v : State} {x : Session} {c : Ctx} {w n : Nat} {bs : Bytes} (hc : u.ctx? m.ctx = some c) (hlen : m.length = 32)
  (hw : w = ofLe (slice m.payload 0 32)) (hrsv : (anySet w 31 25 || anySet w 127 112 || anySet w 255 144) = false)
include hc hlen hw hrsv

theorem doGroupCreate_new (hn : n = field w 63 32) (hkind : flag w 24 = false) (hcons : c.consortium = false) (hn0 : n ≠ 0) (hcap : n ≤ 65536)
    (halign : field w 111 64 % 64 = 0) (hmap : c.mapped (field w 111 64) (2 * n) = true) (htmo : field w 143 128 ≠ 0)
    (hearly : v.links.early = [])
    (hv : (u.readV c.id none [] (field w 111 64) (2 * n)).1 = v)
    (hread : (u.readV c.id none [] (field w 111 64) (2 * n)).2.toOption = some bs) (hdup : hasDup (ordinalsOf n bs) = false)
    (hown : u.links.ordinal ∈ ordinalsOf n bs) (hjob : (ordinalsOf n bs).all (fun o => decide (o ≤ u.links.sizeM1)) = true)
    (hfree : u.group? c.id (field w 15 0) = none)
    (hgen : u.links.groupGens.all (fun k => !(k.1 == c.id && k.2.1 == field w 15 0 && k.2.2 == field w 23 16)) = true)
    (hroom : (u.links.groups.filter (fun k => k.state != .forming)).length < 1024) :
    doGroupCreate m [] u x = (grouped v x m (newGroup u c m.payload bs (field w 15 0) (field w 23 16) n (field w 143 128)), some (.of .pending)) := by
  subst hw hn
  have hok : (u.readV c.id none [] (field (ofLe (slice m.payload 0 32)) 111 64) (2 * field (ofLe (slice m.payload 0 32)) 63 32)).2 = .ok bs := by
    revert hread
    cases (u.readV c.id none [] (field (ofLe (slice m.payload 0 32)) 111 64) (2 * field (ofLe (slice m.payload 0 32)) 63 32)).2 <;>
      simp [Except.toOption]
  have hout : (ordinalsOf (field (ofLe (slice m.payload 0 32)) 63 32) bs).any (fun o => decide (u.links.sizeM1 < o)) = false := by
    rw [List.any_eq_false]
    intro o ho
    simpa using List.all_eq_true.mp hjob o ho
  have hnew : u.links.groups.any (fun g => g.ctx == c.id && g.id == field (ofLe (slice m.payload 0 32)) 15 0) = false := by
    rw [List.any_eq_false]
    exact List.find?_eq_none.mp hfree
  have hgens : u.links.groupGens.any (fun g => g.1 == c.id && g.2.1 == field (ofLe (slice m.payload 0 32)) 15 0 &&
      g.2.2 == field (ofLe (slice m.payload 0 32)) 23 16) = false := by
    rw [List.any_eq_false]
    intro k hk
    have := List.all_eq_true.mp hgen k hk
    rw [Bool.not_eq_true'] at this
    exact Bool.eq_false_iff.mp this
  unfold doGroupCreate
  rw [withCtx_of_some hc]
  simp only [hlen, hrsv, firstOf, hkind]
  simp only [ne_eq, not_true_eq_false, decide_false, Bool.false_eq_true, if_false]
  unfold createGroup
  simp only [hcons, hmap, halign, hok, hv, hdup, hout, hnew, hgens, hearly, firstOf]
  simp only [Nat.not_lt.mpr hcap, Nat.not_le.mpr hroom]
  simp [hn0, htmo, hown, grouped, newGroup]

end Create

/-- A collective whose rank 0 has not every vote waits. -/
theorem stepInst_votes {s : State} {i : Inst} (hstage : i.stage = 2) (hrank : i.rank = 0) (hvotes : i.votes.length < i.members.length) :
    s.stepInst i = none := by
  unfold State.stepInst
  simp [hstage, hrank, hvotes]

theorem leastBy_map {α : Type} (key : α → Nat) (f : α → α) (hf : ∀ x, key (f x) = key x) (l : List α) :
    leastBy key (l.map f) = (leastBy key l).map f := by
  induction l with
  | nil => rfl
  | cons x l ih =>
    rw [List.map_cons, leastBy, leastBy, ih]
    cases leastBy key l with
    | none => rfl
    | some y =>
      simp only [Option.map_some, hf]
      split <;> rfl

section Destroy
variable {m : Msg} {u : State} {x : Session} {c : Ctx} {w : Nat} {y : Group} (hc : u.ctx? m.ctx = some c) (hlen : m.length = 32)
  (hw : w = ofLe (slice m.payload 0 32)) (hrsv : (anySet w 31 25 || anySet w 127 112 || anySet w 255 144) = false) (hkind : flag w 24 = true)
  (hy : u.group? c.id (field w 15 0) = some y) (hgen : y.gen = field w 23 16) (hlive : y.state = .live)
include hc hlen hw hrsv hkind hy hgen hlive

theorem doGroupDestroy_idle (hidle : u.groupInsts c.id (field w 15 0) = []) :
    doGroupCreate m [] u x = okay ((u.modGroup c.id (field w 15 0) (fun g => { g with state := .destroying })).settleGroup c.id (field w 15 0)) := by
  subst hw
  obtain ⟨-, hid⟩ := group?_key hy
  unfold doGroupCreate destroyGroup
  rw [withCtx_of_some hc]
  simp [hlen, hrsv, firstOf, hkind, hy, hgen, hlive, hid, hidle]

theorem doGroupDestroy_waits (hbusy : u.groupInsts c.id (field w 15 0) ≠ []) :
    doGroupCreate m [] u x =
      ((u.modGroup c.id (field w 15 0) (fun g => { g with state := .destroying })).await x .groupCreate m (.groupEnd (field w 15 0)), none) := by
  subst hw
  obtain ⟨-, hid⟩ := group?_key hy
  unfold doGroupCreate destroyGroup
  rw [withCtx_of_some hc]
  simp [hlen, hrsv, firstOf, hkind, hy, hgen, hlive, hid, hbusy]

end Destroy

/-- Destroying a group without collectives: it is gone, and requests that waited for its end are answered. -/
theorem destroyed_idle {s : State} {id gid : Nat} {y : Group} (hy : s.group? id gid = some y) (hidle : s.groupInsts id gid = []) :
    ∃ t, (s.modGroup id gid (fun g => { g with state := .destroying })).settleGroup id gid = t ∧ t.group? id gid = none ∧ t.mem = s.mem ∧
      t.ctxs = s.ctxs ∧ SessionsStand s t ∧ ∃ o, t.out = s.out ++ o := by
  have hdead := group?_modGroup s id gid (fun g => { g with state := .destroying }) (fun _ => ⟨rfl, rfl⟩)
  rw [hy, Option.map_some] at hdead
  have hidle' : (s.modGroup id gid (fun g => { g with state := .destroying })).groupInsts id gid = [] := hidle
  generalize hu : s.modGroup id gid _ = u at *
  obtain ⟨hrel, -⟩ := Released.finishAll (u.modLinks (fun l => { l with groups := l.groups.filter (fun y => !(y.ctx == id && y.id == gid)) }))
    (fun w => w.ctx == id && w.what == .groupEnd gid) (fun _ => .of .ok)
  refine ⟨_, rfl, ?_⟩
  unfold State.settleGroup
  rw [hdead]
  simp only [hidle', List.isEmpty_nil, Bool.not_true, Bool.or_false]
  rw [if_neg (by simp)]
  refine ⟨?_, ?_, ?_, SessionsStand.trans (SessionsStand.of_eq (by rw [← hu]; rfl)) hrel.stand, ?_⟩
  · rw [group?_congr (congrArg Links.groups hrel.links)]
    exact group?_filter ..
  · rw [hrel.mem, ← hu]
    rfl
  · rw [hrel.ctxs, ← hu]
    rfl
  · obtain ⟨o, ho⟩ := hrel.out
    exact ⟨o, by rw [ho, ← hu]; rfl⟩

theorem grouped_group? {v : State} (x : Session) (m : Msg) (g : Group) (hfree : v.group? g.ctx g.id = none) :
    (grouped v x m g).group? g.ctx g.id = some g := by
  have hfind : (v.links.groups ++ [g]).find? (fun k => k.ctx == g.ctx && k.id == g.id) = some g := by
    rw [List.find?_append, show v.links.groups.find? (fun k => k.ctx == g.ctx && k.id == g.id) = none from hfree]
    simp
  exact hfind

theorem findIdx?_of_mem {l : List Nat} {o : Nat} (h : o ∈ l) : ∃ k, l.findIdx? (fun a => a == o) = some k ∧ l[k]? = some o := by
  have hsome : (l.findIdx? (fun a => a == o)).isSome = true := by
    rw [List.findIdx?_isSome, List.any_eq_true]
    exact ⟨o, h, by simp⟩
  obtain ⟨k, hk⟩ := Option.isSome_iff_exists.mp hsome
  obtain ⟨hlt, hat, -⟩ := List.findIdx?_eq_some_iff_getElem.mp hk
  exact ⟨k, hk, List.getElem?_eq_some_iff.mpr ⟨hlt, by simpa using hat⟩⟩

theorem ordinalsOf_length (n : Nat) : ∀ bs, (ordinalsOf n bs).length = n := by
  induction n with
  | zero => exact fun _ => rfl
  | succ n ih => exact fun bs => by rw [ordinalsOf, List.length_cons, ih]

/-- Only a group that forms advances. -/
theorem formStep_of_formed {s : State} {id gid : Nat} (h : ∀ g, s.group? id gid = some g → g.state ≠ .forming) : s.formStep id gid = s := by
  unfold State.formStep
  split
  · rfl
  · next g hg => simp [h g hg]

/-- The root of a tree has no children when it is alone, and then only. -/
theorem childrenOf_root {n : Nat} (h : childrenOf n 0 = []) : n ≤ 1 := by
  refine Nat.le_of_not_lt fun hn => ?_
  have hmem : 1 ∈ childrenOf n 0 := by
    simp [childrenOf]
    omega
  rw [h] at hmem
  exact List.not_mem_nil hmem

/-- A new group of one member is live at once; any other forms on. -/
theorem formStep_new {s : State} {id gid : Nat} {g : Group} (hg : s.group? id gid = some g) (hstate : g.state = .forming)
    (hheard : g.heard = []) (hsent : g.sentUp = false) (hrank : g.rank < g.members.length) :
    (∃ z, (s.formStep id gid).group? id gid = some z ∧ { z with state := g.state, sentUp := g.sentUp } = g ∧
      z.state = if g.members.length = 1 then .live else .forming) ∧
    (s.formStep id gid).mem = s.mem ∧ ∃ o, (s.formStep id gid).out = s.out ++ o := by
  obtain ⟨hctx, hid⟩ := group?_key hg
  unfold State.formStep
  simp only [hg, hstate, hheard, hsent, List.any_nil, List.foldl_nil]
  by_cases hkids : childrenOf g.members.length g.rank = []
  · rw [if_neg (by simp [hkids])]
    by_cases hroot : g.rank = 0
    · rw [if_pos hroot]
      obtain ⟨hgroups, -, hmem, hout⟩ := formed_live s g g.form
      have hone : g.members.length = 1 := by
        rw [hroot] at hkids
        have := childrenOf_root hkids
        omega
      refine ⟨⟨{ g with state := .live }, ?_, ?_, by rw [if_pos hone]⟩, hmem, hout⟩
      · have hmod := group?_modGroup s id gid (fun z => { z with state := .live }) (fun _ => ⟨rfl, rfl⟩)
        rw [hg] at hmod
        exact (group?_congr (by rw [hgroups, hctx, hid]; rfl) id gid).trans hmod
      · rw [← hstate, ← hsent]
    · rw [if_neg hroot]
      have hmod := group?_modGroup s id gid (fun z => { z with sentUp := true }) (fun _ => ⟨rfl, rfl⟩)
      rw [hg] at hmod
      have hcarried := Carried.sendRank (s.modGroup id gid (fun z => { z with sentUp := true })) g ((g.rank - 1) / 2)
        { iop := 5, tally := g.form, arg := g.form } (by simp)
      refine ⟨⟨{ g with sentUp := true }, (group?_congr hcarried.groups id gid).trans hmod, ?_, ?_⟩, hcarried.mem, hcarried.out⟩
      · rw [← hstate, ← hsent]
      · rw [if_neg (by omega)]
        exact hstate
  · have hall : (childrenOf g.members.length g.rank).all (fun _ => false) = false := by
      rw [List.all_eq_false]
      obtain ⟨k, hk⟩ := List.exists_mem_of_ne_nil _ hkids
      exact ⟨k, hk, by decide⟩
    rw [if_pos (by simp [hall])]
    refine ⟨⟨g, hg, ?_, ?_⟩, rfl, [], (List.append_nil _).symm⟩
    · rw [← hstate, ← hsent]
    · rw [if_neg, hstate]
      intro hone
      rw [hone, show g.rank = 0 by omega] at hkids
      exact hkids (by decide)

theorem runGroup_stuck {s : State} {id gid : Nat} {j : Inst} (hfirst : s.firstInst id gid = some j) (hstep : s.stepInst j = none) (fuel : Nat) :
    s.runGroup id gid fuel = s := by
  cases fuel with
  | zero => rfl
  | succ n => simp only [State.runGroup, hfirst, hstep]

/-- The vote of a rank that came to rank 0 while others are missing. -/
theorem runInst_votes {s : State} {i : Inst} {f : Inst → Inst} (hf : ∀ j, (f j).ctx = j.ctx ∧ (f j).group = j.group ∧ (f j).inst = j.inst)
    (hfirst : s.firstInst i.ctx i.group = some i) (hwait : ∀ t : State, t.stepInst (f i) = none) :
    (s.modInst i f).runInst i = s.modInst i f := by
  have hinsts : (s.modInst i f).groupInsts i.ctx i.group =
      (s.groupInsts i.ctx i.group).map (fun j => if j.ctx = i.ctx ∧ j.group = i.group ∧ j.inst = i.inst then f j else j) := by
    unfold State.groupInsts State.modInst
    rw [State.modLinks_links]
    dsimp only
    rw [List.filter_map]
    congr 2
    funext j
    simp only [Function.comp_apply]
    split <;> simp [hf]
  have hstuck : (s.modInst i f).firstInst i.ctx i.group = some (f i) := by
    rw [State.firstInst, hinsts, leastBy_map _ _ (fun j => by split <;> simp [hf])]
    rw [State.firstInst] at hfirst
    rw [hfirst]
    simp
  exact runGroup_stuck hstuck (hwait _) instFuel

end Sys2Proof.Machine

namespace Sys2Proof
open Machine
set_option Elab.async false

/-- Settles O47: each request and each frame by the outcome of its rule. -/
theorem groupsFormAndEnd : Obligations.GroupsFormAndEnd := by
  refine ⟨?create, ?destroy, ?busy, ?agreed, ?split, ?heard, ?vote, ?late⟩
  case create =>
    intro m x c w gid ge n bs u v s hadm hc hlen hw hrsv hgid hge hn hkind hcons hn0 hcap halign hmap htmo hearly hu hv hread hdup hown hjob hfree
      hgens hroom
    subst hu hgid hge
    obtain ⟨_, _, _, h0⟩ := Sends.takeMail s .groupCreate m
    have hmc := State.ctx?_id hc
    have hacc : Accessed (s.takeMail .groupCreate m) v := hv ▸ Accessed.readV ..
    have hlinks : v.links.early = s.links.early ∧ v.links.groups = s.links.groups := by
      obtain ⟨_, _, _, _, _, _, _, _, _, _, h, -⟩ := hacc
      rw [h, h0]
      exact ⟨rfl, rfl⟩
    have hdo := doGroupCreate_new (u := s.takeMail .groupCreate m) (x := x) (by rw [State.takeMail_ctx?, hc]) hlen hw hrsv hn hkind hcons hn0 hcap halign
      hmap htmo (hlinks.1.trans hearly) hv hread hdup (by rw [h0]; exact hown) (by rw [h0]; exact hjob) (by rw [h0]; exact hfree)
      (by rw [h0]; exact hgens) (by rw [h0]; exact hroom)
    obtain ⟨hans, hsends⟩ := request_from hadm hdo hacc.out (congrArg State.sessions hacc.noted.rest :)
    have hstands := grouped_group? (v := v) x m (newGroup (s.takeMail .groupCreate m) c m.payload bs (field w 15 0) (field w 23 16) n (field w 143 128))
      (by rw [group?_congr hlinks.2]; exact hfree)
    have hown' : s.links.ordinal ∈ ordinalsOf n bs := hown
    obtain ⟨k, hk, hat⟩ := findIdx?_of_mem hown'
    have hrank : (newGroup (s.takeMail .groupCreate m) c m.payload bs (field w 15 0) (field w 23 16) n (field w 143 128)).rank = k := by
      rw [h0]
      simp [newGroup, hk]
    have hmem0 : (s.takeMail .groupCreate m).mem = s.mem := by rw [h0]
    have htime : (s.takeMail .groupCreate m).hub.timer = s.hub.timer := by rw [h0]
    generalize hg0 : newGroup (s.takeMail .groupCreate m) c m.payload bs (field w 15 0) (field w 23 16) n (field w 143 128) = g0 at *
    generalize hreq : s.request .groupCreate m (doGroupCreate m []) = t1 at *
    have hstands1 : t1.group? c.id (field w 15 0) = some g0 := by
      rw [group?_congr (congrArg Links.groups hsends.links), ← hstands, ← hg0]
      rfl
    obtain ⟨⟨z, hz, hfields, hstate⟩, hmem, hout⟩ := formStep_new hstands1 (by rw [← hg0]; rfl) (by rw [← hg0]; rfl) (by rw [← hg0]; rfl) (by
      rw [hrank, ← hg0]
      exact (List.getElem?_eq_some_iff.mp hat).1)
    refine ⟨_, rfl, ?_⟩
    rw [State.requestThen, if_neg (by simp [((admits_iff s .groupCreate m x).mp hadm).1]), hreq, field_slice_low, ← hw]
    have hids : m.ctx = c.id := hmc.symm
    rw [hids]
    generalize t1.formStep c.id (field w 15 0) = t at *
    refine ⟨Answered.later hans hout, ⟨z, hz, ?_⟩, ?_⟩
    · rw [← hg0] at hfields hstate
      have hmembers : z.members = ordinalsOf n bs := congrArg Group.members hfields
      rw [← hg0] at hrank
      have hzrank : z.rank = k := (congrArg Machine.Group.rank hfields :).trans hrank
      refine ⟨congrArg Group.gen hfields, hmembers, ?_, congrArg Group.tmo hfields, (congrArg Group.created hfields :).trans htime,
        congrArg Group.nextInst hfields, ?_, congrArg Group.form hfields⟩
      · rw [hmembers, hzrank]
        exact hat
      · rw [hstate]
        simp [newGroup, ordinalsOf_length]
    · rw [hmem, hsends.mem, ← hmem0]
      exact hacc.noted.mem
  case destroy =>
    intro m x c w gid ge n y s hadm hc hlen hw hrsv hgid hge hn hkind hy hgen hlive hidle
    subst hgid hge
    obtain ⟨_, _, _, h0⟩ := Sends.takeMail s .groupCreate m
    have hmc := State.ctx?_id hc
    have hdo := doGroupDestroy_idle (u := s.takeMail .groupCreate m) (x := x) (by rw [State.takeMail_ctx?, hc]) hlen hw hrsv hkind
      (by rw [h0]; exact hy) hgen hlive (by rw [h0]; exact hidle)
    obtain ⟨t, ht, hgone, hmem, hctxs, hstand, hout⟩ := destroyed_idle (s := s.takeMail .groupCreate m) (by rw [h0]; exact hy) (by rw [h0]; exact hidle)
    rw [ht] at hdo
    obtain ⟨z, hz, -⟩ := hstand.session? (session?_of_admits hadm)
    obtain ⟨heq, hans⟩ := request_answered hadm hdo hout (Option.isSome_iff_exists.mpr ⟨z, hz⟩)
    have hsends := Sends.answer t .groupCreate m (.of .ok)
    generalize t.answer .groupCreate m (.of .ok) = v at *
    rw [← group?_congr (congrArg Links.groups hsends.links)] at hgone
    refine ⟨_, rfl, ?_⟩
    rw [State.requestThen_of_admits hadm hdo, ← State.request_of_admits hadm hdo, heq, field_slice_low, ← hw, ← hmc,
      formStep_of_formed (fun g hg => absurd (hgone.symm.trans hg) (by simp))]
    exact ⟨hans, hgone, by rw [hsends.mem, hmem, h0], by rw [hsends.ctxs, hctxs, h0]⟩
  case busy =>
    intro m x c w gid ge n y s hadm hc hlen hw hrsv hgid hge hn hkind hy hgen hlive hbusy
    subst hgid hge
    obtain ⟨_, _, _, h0⟩ := Sends.takeMail s .groupCreate m
    have hmc := State.ctx?_id hc
    have hdo := doGroupDestroy_waits (u := s.takeMail .groupCreate m) (x := x) (by rw [State.takeMail_ctx?, hc]) hlen hw hrsv hkind
      (by rw [h0]; exact hy) hgen hlive (by rw [h0]; exact hbusy)
    have hu : ∃ u, s.takeMail .groupCreate m = u ∧ u.group? c.id (field w 15 0) = some y ∧ u.waits = s.waits ∧ u.mem = s.mem ∧ u.ctxs = s.ctxs ∧
        u.links.insts = s.links.insts := ⟨_, rfl, by rw [h0]; exact hy, by rw [h0], by rw [h0], by rw [h0], by rw [h0]⟩
    obtain ⟨u, hu, huy, huw, hum, huc, hui⟩ := hu
    rw [hu] at hdo
    have hdead := group?_modGroup u c.id (field w 15 0) (fun g => { g with state := .destroying }) (fun _ => ⟨rfl, rfl⟩)
    rw [huy] at hdead
    obtain ⟨hhears, hsends⟩ := request_waiting hadm hu hdo
    have hdead' := (group?_congr (congrArg Links.groups hsends.links) c.id (field w 15 0)).trans hdead
    refine ⟨_, rfl, ?_⟩
    rw [State.requestThen, if_neg (by simp [hhears])]
    generalize s.request .groupCreate m (doGroupCreate m []) = t1 at *
    rw [field_slice_low, ← hw, ← hmc, formStep_of_formed (fun g hg => by obtain rfl := Option.some.inj (hdead'.symm.trans hg); simp)]
    refine ⟨congrArg (Option.map Group.state) hdead', ?_, ?_, ?_, ?_⟩
    · rw [hsends.waits, ← huw, hmc]
      rfl
    · rw [hsends.mem, ← hum]
      rfl
    · rw [hsends.ctxs, ← huc]
      rfl
    · rw [hsends.links, ← hui]
      rfl
  case agreed =>
    intro d y s halive hof hbroken hforming h0 hlast htally
    obtain ⟨ib, chs, hin⟩ := takeIn_eq s d
    have hof' : (s.takeIn d).groupOf d = some y := by rw [hin]; exact hof
    refine ⟨(s.takeIn d).formed y d.inner.tally d.inner.tally, ?_, ?_⟩
    · show Host.Outcome.next (doRtally d s) = _
      simp [doRtally, halive, hof', hbroken, hforming, h0, hlast, htally]
    · obtain ⟨hgroups, hwaits, hmem, -⟩ := formed_live (s.takeIn d) y d.inner.tally
      rw [hgroups]
      refine ⟨?_, ?_, hwaits, by rw [hmem, hin]⟩
      · intro z hz hctx hid
        obtain ⟨k, -, rfl⟩ := List.mem_map.mp hz
        split
        · rfl
        · next hne => simp_all
      · rw [List.map_map, hin]
        refine List.map_congr_left fun z _ => ?_
        simp only [Function.comp_apply]
        split <;> rfl
  case split =>
    intro d y s halive hof hbroken hforming h0 hlast htally
    obtain ⟨ib, chs, hin⟩ := takeIn_eq s d
    have hof' : (s.takeIn d).groupOf d = some y := by rw [hin]; exact hof
    refine ⟨(s.takeIn d).formed y d.inner.tally d.inner.arg, ?_, ?_⟩
    · show Host.Outcome.next (doRtally d s) = _
      simp [doRtally, halive, hof', hbroken, hforming, h0, hlast]
    · obtain ⟨u, hu, heq⟩ := formed_eq (s.takeIn d) y d.inner.tally d.inner.arg
      rw [if_neg htally] at heq
      obtain ⟨hgone, hwaits, hmem⟩ := dropForming_gone u y.ctx y.id .digestMismatch
      rw [heq]
      exact ⟨hgone, hwaits, by rw [hmem, hu.mem, hin]⟩
  case heard =>
    intro d y s halive hof hbroken hforming h0 hlast
    obtain ⟨ib, chs, hin⟩ := takeIn_eq s d
    have hof' : (s.takeIn d).groupOf d = some y := by rw [hin]; exact hof
    refine ⟨_, rfl, ?_⟩
    simp [doRtally, halive, hof', hbroken, hforming, h0, hlast]
  case vote =>
    intro d y i s halive hof hbroken hi hrank hlast hinst hstate hfirst hstage hir hvotes
    obtain ⟨ib, chs, hin⟩ := takeIn_eq s d
    have hof' : (s.takeIn d).groupOf d = some y := by rw [hin]; exact hof
    have hi' : (s.takeIn d).inst? y.ctx y.id d.inner.inst = some i := by rw [hin]; exact hi
    obtain ⟨hk1, hk2, -⟩ := inst?_key hi
    refine ⟨_, rfl, ?_⟩
    simp only [doRtally, halive, hof', hbroken, hlast, hinst, hi', hrank]
    exact runInst_votes (fun _ => ⟨rfl, rfl, rfl⟩) (by rw [hk1, hk2, hin]; exact hfirst)
      (fun t => stepInst_votes hstage hir (by simpa using hvotes))
  case late =>
    intro id gid y s halive hy hforming hdue
    obtain ⟨hgone, hwaits, -⟩ := dropForming_gone s id gid .timeout
    refine ⟨_, rfl, ?_, ?_⟩
    · simp only [hy, halive, hforming, hdue]
      rfl
    · simp only [hy, halive, hforming, hdue]
      exact ⟨hgone, hwaits⟩

end Sys2Proof

/-! ### What sending keeps of ports and channels -/

namespace Sys2Proof.Machine
set_option Elab.async false

theorem filter_keeps_all {α : Type} (l : List α) : l.filter (fun _ => true) = l := List.filter_eq_self.mpr (fun _ _ => rfl)

/-- A port apart from what the regulator and the counts of sent frames make of it. -/
def Port.kept (p : Port) : Port := { p with window := 0, shares := [], turn := [], sent := 0, resent := 0 }

/-- A channel apart from what sending changes. -/
def Channel.kept (c : Channel) : Channel :=
  { c with
    txSeq := 0, txLink := 0, frames := 0, linkFrames := 0, unacked := [], waiting := [], linkDue := none, crCtrl := 0, crData := 0, crXfer := 0,
    lastAdvance := 0, rxUnacked := 0, rxCe := 0, owed := (0, 0, 0), oldLink := 0, oldDue := false }

/-- The ports are what they were, apart from what sending changes. -/
def PortsKept (s t : State) : Prop := t.links.ports.map Port.kept = s.links.ports.map Port.kept

/-- The channels are what they were, apart from what sending changes. -/
def ChansKept (s t : State) : Prop := t.links.channels.map Channel.kept = s.links.channels.map Channel.kept

theorem map_modAt {α β : Type} (g : α → β) (l : List α) (i : Nat) (f : α → α) (hf : ∀ x, l[i]? = some x → g (f x) = g x) :
    (modAt l i f).map g = l.map g := by
  unfold modAt
  split
  · next x hx =>
    rw [List.map_set, hf x hx]
    obtain ⟨hlt, rfl⟩ := List.getElem?_eq_some_iff.mp hx
    exact (List.set_getElem_self (as := l.map g) (i := i) (by simpa using hlt)) ▸ by simp
  · rfl

theorem PortsKept.modPort (s : State) (p : Nat) (f : Port → Port) (hf : ∀ x, s.port? p = some x → (f x).kept = x.kept) : PortsKept s (s.modPort p f) :=
  map_modAt Port.kept s.links.ports p f hf

theorem ChansKept.modChan (s : State) (p q : Nat) (f : Channel → Channel) (hf : ∀ c, (f c).kept = c.kept) : ChansKept s (s.modChan p q f) := by
  unfold ChansKept
  rw [State.modChan_eq, State.modLinks_links, List.map_map]
  refine List.map_congr_left fun c _ => ?_
  simp only [Function.comp_apply]
  split
  · exact hf c
  · rfl

theorem Channel.spend_kept (c : Channel) (cls n : Nat) : (c.spend cls n).kept = c.kept := by
  unfold Channel.spend
  split
  · rfl
  · split <;> rfl

/-- Sending on the channels that there are: ports and channels are what they were, apart from what sending changes. -/
structure Pumped (s t : State) : Prop where
  carried : Carried s t
  ports : PortsKept s t
  chans : ChansKept s t

namespace Pumped

theorem refl (s : State) : Pumped s s := ⟨Carried.refl s, rfl, rfl⟩

theorem trans {s t u : State} (h : Pumped s t) (k : Pumped t u) : Pumped s u :=
  ⟨h.carried.trans k.carried, Eq.trans k.ports h.ports, Eq.trans k.chans h.chans⟩

theorem sayMore {s t : State} (h : Pumped s t) (o : List Out) : Pumped s { t with out := t.out ++ o } := ⟨h.carried.sayMore o, h.ports, h.chans⟩

theorem modChan (s : State) (p q : Nat) (f : Channel → Channel) (hf : ∀ c, (f c).kept = c.kept) : Pumped s (s.modChan p q f) :=
  ⟨Carried.modChan s p q f, rfl, ChansKept.modChan s p q f hf⟩

theorem modPort (s : State) (p : Nat) (f : Port → Port) (hf : ∀ x, s.port? p = some x → (f x).kept = x.kept) : Pumped s (s.modPort p f) :=
  ⟨Carried.modPort s p f, PortsKept.modPort s p f hf, rfl⟩

theorem foldl {α : Type} (f : State → α → State) (hf : ∀ s x, Pumped s (f s x)) (l : List α) : ∀ s, Pumped s (l.foldl f s) := by
  induction l with
  | nil => exact refl
  | cons x rest ih => exact fun s => (hf s x).trans (ih _)

theorem emitLink (s : State) (port peer : Nat) (old nak : Bool) : Pumped s (s.emitLink port peer old nak) := by
  unfold State.emitLink
  split
  · refine sayMore (trans (modChan _ _ _ _ (fun c => ?_)) (modPort _ _ _ (fun x _ => ?_))) _
    · cases old <;> rfl
    · rfl
  · exact refl s

theorem sendLink (s : State) (port peer : Nat) (old nak : Bool) : Pumped s (s.sendLink port peer old nak) := by
  unfold State.sendLink
  split
  · split
    · exact refl s
    · split
      · refine modChan _ _ _ _ (fun c => ?_)
        rfl
      · exact emitLink ..
  · exact refl s

theorem emitDue (s : State) (port peer : Nat) : Pumped s (s.emitDue port peer) := by
  unfold State.emitDue
  split
  · exact refl s
  · refine sayMore (trans (modChan _ _ _ _ (fun c => ?_)) (modPort _ _ _ (fun x _ => ?_))) _ <;> rfl

theorem countFrame_kept (s : State) (p : Port) (shares : List PortShare) (window id : Nat) : (s.countFrame p shares window id).kept = p.kept := by
  unfold State.countFrame
  dsimp only
  split <;> rfl

/-- The port that `nextFrame` gives has its frame counted, and is the same otherwise. -/
theorem nextFrame_kept {s : State} {port : Nat} {p q : Port} {peer : Nat} {w : Waiting} (h : s.nextFrame port p = some (peer, w, q)) : q.kept = p.kept := by
  unfold State.nextFrame at h
  dsimp only at h
  split at h
  · cases h; rfl
  · split at h
    · cases h; exact countFrame_kept ..
    · split at h
      · cases h; exact countFrame_kept ..
      · obtain ⟨_, -, hq⟩ := Option.map_eq_some_iff.mp h
        cases hq; rfl

theorem pumpFrames (port fuel : Nat) : ∀ s : State, Pumped s (s.pumpFrames port fuel) := by
  induction fuel with
  | zero => exact refl
  | succ n ih =>
    intro s
    rw [State.pumpFrames]
    split
    · exact refl s
    · next p hp =>
      split
      · exact refl s
      · split
        · exact refl s
        · next peer w q hq =>
          split
          · exact refl s
          · refine Pumped.trans (Pumped.sayMore (Pumped.trans (modChan _ _ _ _ (fun c => ?_)) (modPort _ _ _ (fun x hx => ?_))) _) (ih _)
            · have hspend := Channel.spend_kept c w.cls (cellsOfFrame w.inner.data.length)
              split
              · exact hspend
              · rfl
            · obtain rfl := Option.some.inj (hp.symm.trans hx)
              exact (show Port.kept _ = q.kept from rfl).trans (nextFrame_kept hq)

theorem pumpPort (s : State) (port : Nat) : Pumped s (s.pumpPort port) := by
  unfold State.pumpPort
  split
  · exact refl s
  · split
    · exact refl s
    · refine ((foldl _ (fun s c => ?_) _ s).trans (foldl _ (fun s (c : Channel) => emitDue s port c.peer) _ _)).trans (pumpFrames port 1024 _)
      split
      · exact emitLink ..
      · exact refl s

/-- The channel that is found is the same, apart from what sending changes. -/
theorem chan? {s t : State} (h : Pumped s t) {port peer : Nat} {c : Channel} (hc : s.chan? port peer = some c) :
    ∃ d, t.chan? port peer = some d ∧ d.kept = c.kept := by
  have hfind (l : List Channel) : (l.map Channel.kept).find? (fun d => d.port == port && d.peer == peer) =
      (l.find? (fun d => d.port == port && d.peer == peer)).map Channel.kept := by
    rw [List.find?_map]; rfl
  have heq : (t.links.channels.find? (fun d => d.port == port && d.peer == peer)).map Channel.kept = some c.kept := by
    rw [← hfind, h.chans, hfind]
    exact congrArg (Option.map Channel.kept) hc
  exact Option.map_eq_some_iff.mp heq

end Pumped

/-- The port of a number is the same, apart from what sending changes. -/
theorem PortsKept.port? {s t : State} (h : PortsKept s t) (p : Nat) : (t.port? p).map Port.kept = (s.port? p).map Port.kept := by
  rw [State.port?, State.port?, ← List.getElem?_map, ← List.getElem?_map, h]

theorem PortsKept.sendFrom (s : State) (ctx : Option Nat) (src dst : Nat) (i : Inner) : PortsKept s (s.sendFrom ctx src dst i) := by
  unfold State.sendFrom
  split
  · rfl
  · refine Eq.trans (Pumped.pumpPort _ _).ports ?_
    rw [State.modChan_eq, State.openChan]
    split <;> rfl

theorem PortsKept.sendCtrl (s : State) (dst : Nat) (op : Opcode) (arg0 : Nat) (payload : Bytes) : PortsKept s (s.sendCtrl dst op arg0 payload) := by
  unfold State.sendCtrl State.sendR
  dsimp only
  rw [if_neg (by simp)]
  exact PortsKept.sendFrom ..

/-- New routes, and the port map that goes to every device reached, leave ports, contexts and memory. -/
theorem reroute_keeps (s : State) : PortsKept s s.reroute ∧ s.reroute.ctxs = s.ctxs ∧ s.reroute.mem = s.mem := by
  have go (l : List Nat) : ∀ u : State, PortsKept u (u.sendMap l) ∧ Carried u (u.sendMap l) := by
    induction l with
    | nil => exact fun u => ⟨rfl, Carried.refl u⟩
    | cons d l ih =>
      intro u
      have hone := Carried.sendCtrl u d .portMap u.links.ordinal u.portMapBytes
      obtain ⟨hports, hcarried⟩ := ih (u.sendCtrl d .portMap u.links.ordinal u.portMapBytes)
      exact ⟨Eq.trans hports (PortsKept.sendCtrl ..), hone.trans hcarried⟩
  obtain ⟨hports, ps, chs, o, hcarried⟩ := go (s.newRoutes.links.routes.map (fun r => r.1)) s.newRoutes
  refine ⟨hports, ?_, ?_⟩
  all_goals
    unfold State.reroute
    rw [hcarried]
    rfl

theorem modChan_chan? (s : State) (port peer : Nat) (f : Channel → Channel) (hf : ∀ c, (f c).port = c.port ∧ (f c).peer = c.peer) :
    (s.modChan port peer f).chan? port peer = (s.chan? port peer).map f := by
  rw [State.modChan_eq]
  unfold State.chan?
  rw [State.modLinks_links]
  dsimp only
  rw [find?_map_same _ _ _ (fun c => by split <;> simp [hf])]
  cases h : s.links.channels.find? (fun c => c.port == port && c.peer == peer) with
  | none => rfl
  | some c =>
    have hkey := List.find?_some h
    simp only [Bool.and_eq_true, beq_iff_eq] at hkey
    simp [hkey]

theorem modChan_chan?_any (s : State) (port peer : Nat) (f : Channel → Channel) (hf : ∀ c, (f c).port = c.port ∧ (f c).peer = c.peer) (a b : Nat) :
    (s.modChan port peer f).chan? a b = (s.chan? a b).map (fun c => if c.port = port ∧ c.peer = peer then f c else c) := by
  rw [State.modChan_eq]
  unfold State.chan?
  rw [State.modLinks_links]
  exact find?_map_same _ _ _ (fun c => by split <;> simp [hf])

theorem Pumped.ackNow (s : State) (port peer : Nat) : Pumped s (s.ackNow port peer) := by
  unfold State.ackNow
  split
  · next c _ =>
    dsimp only
    refine Pumped.trans ?_ (Pumped.sendLink ..)
    split
    · refine Pumped.trans (Pumped.modChan _ _ _ _ (fun c => ?_)) (Pumped.sendLink ..)
      rfl
    · exact Pumped.refl s
  · exact Pumped.refl s

/-- A port on which nothing waits sends no new frame. -/
theorem pumpFrames_idle {s : State} {port : Nat} (h : ∀ c ∈ s.links.channels.filter (fun c => c.port == port), c.waiting = []) (fuel : Nat) :
    s.pumpFrames port fuel = s := by
  have hall (own : Nat) (p : Port) : (s.links.channels.filter (fun c => c.port == port)).flatMap (fun c =>
      ((c.heads own).filter (fun w => c.canSend p.direct w)).map (fun w => (c.peer, w))) = [] := by
    rw [List.flatMap_eq_nil_iff]
    intro c hc
    simp [Channel.heads, h c hc]
  have hnone (p : Port) : s.nextFrame port p = none := by
    unfold State.nextFrame
    dsimp only
    rw [hall]
    simp [State.regulate, leastBy]
  cases fuel with
  | zero => rfl
  | succ n =>
    rw [State.pumpFrames]
    split
    · rfl
    · split
      · rfl
      · rw [hnone]

/-- What goes again has left, and is due no more. -/
theorem emitDue_eq {s : State} {port peer : Nat} {c : Channel} (hc : s.chan? port peer = some c) :
    (s.emitDue port peer).out = s.out ++ (c.unacked.filter (fun f => f.due)).map (fun f => .rasovi peer f.hdr f.outer f.inner) ∧
    (s.emitDue port peer).chan? port peer = some { c with unacked := c.unacked.map (fun f => { f with due := false }) } := by
  have hmod := modChan_chan? s port peer (fun c => { c with unacked := c.unacked.map (fun f => { f with due := false }) }) (fun _ => ⟨rfl, rfl⟩)
  rw [hc] at hmod
  unfold State.emitDue
  rw [hc]
  exact ⟨rfl, hmod⟩

/-- A port of one channel, which holds no new frame and no LINK frame, sends what goes again. -/
theorem pumpPort_single {s : State} {port : Nat} {p : Port} {c : Channel} (hp : s.port? port = some p) (hsend : p.sends = true)
    (hone : s.links.channels.filter (fun k => k.port == port) = [c]) (hlink : c.linkDue = none) (hwait : c.waiting = []) :
    s.pumpPort port = s.emitDue port c.peer := by
  unfold State.pumpPort
  rw [hp]
  simp only [hsend, Bool.not_true, Bool.false_eq_true, if_false, hone, List.foldl_cons, List.foldl_nil, hlink]
  refine pumpFrames_idle (fun k hk => ?_) 1024
  have hmem := List.mem_filter.mp hk
  have hfrom : ∀ k ∈ (s.emitDue port c.peer).links.channels, k.port == port → k.waiting = [] := by
    have hwas : ∀ k ∈ s.links.channels, k.port == port → k.waiting = [] := by
      intro k hk hport
      have hin : k ∈ s.links.channels.filter (fun k => k.port == port) := List.mem_filter.mpr ⟨hk, hport⟩
      rw [hone, List.mem_singleton] at hin
      rw [hin, hwait]
    unfold State.emitDue
    split
    · exact hwas
    · intro k hk hport
      obtain ⟨j, hj, rfl⟩ := List.mem_map.mp hk
      by_cases hkey : j.port = port ∧ j.peer = c.peer
      · rw [if_pos hkey] at hport ⊢
        exact hwas j hj hport
      · rw [if_neg hkey] at hport ⊢
        exact hwas j hj hport
  exact hfrom k hmem.1 hmem.2

theorem pumpPort_held {s : State} {port : Nat} {p : Port} (hp : s.port? port = some p) (hsend : p.sends = false) : s.pumpPort port = s := by
  unfold State.pumpPort
  rw [hp]
  simp [hsend]

theorem modChan_single {s : State} {port peer : Nat} {c : Channel} (f : Channel → Channel) (hf : ∀ c, (f c).port = c.port)
    (hone : s.links.channels.filter (fun k => k.port == port) = [c]) (hport : c.port = port) (hpeer : c.peer = peer) :
    (s.modChan port peer f).links.channels.filter (fun k => k.port == port) = [f c] := by
  rw [State.modChan_eq, State.modLinks_links]
  dsimp only
  rw [List.filter_map]
  have hsame : ((fun k : Channel => k.port == port) ∘ fun c => if c.port = port ∧ c.peer = peer then f c else c) = fun k => k.port == port := by
    funext k
    simp only [Function.comp_apply]
    split <;> simp [hf]
  rw [hsame, hone]
  simp [hport, hpeer]

theorem chan?_key {s : State} {port peer : Nat} {c : Channel} (h : s.chan? port peer = some c) : c.port = port ∧ c.peer = peer := by
  have hkey := List.find?_some h
  simpa only [Bool.and_eq_true, beq_iff_eq] using hkey

/-- When no frame is missing none goes again. -/
theorem resend_none {s : State} {port peer : Nat} {which : RSent → Bool} (h : ∀ f, which f = false) : s.resend port peer which = s := by
  have hnone (l : List RSent) : l.filter which = [] := by
    rw [List.filter_eq_nil_iff]
    exact fun f _ => by simp [h f]
  unfold State.resend
  split
  · rw [hnone]
    rfl
  · rfl

/-- A frame that goes again: it counts its resends. -/
def RSent.again (f : RSent) : RSent := { f with resends := f.resends + 1, due := true }

/-- Every unacknowledged frame of a channel goes again, unless one has gone eight times over a cable. -/
theorem resend_all {s : State} {port peer : Nat} {p : Port} {c : Channel} (hp : s.port? port = some p) (hc : s.chan? port peer = some c)
    (hup : p.isUp = true) (hsome : c.unacked ≠ []) (hfew : p.direct = true → c.unacked.all (fun f => decide (f.resends < 8)) = true) :
    s.resend port peer (fun _ => true) = (s.modChan port peer (fun c =>
      { c with unacked := c.unacked.map RSent.again, lastAdvance := s.hub.timer })).pumpPort port := by
  have hnever : (p.direct && c.unacked.any (fun f => decide (8 ≤ f.resends))) = false := by
    rw [Bool.and_eq_false_iff]
    by_cases hdirect : p.direct = true
    · right
      rw [List.any_eq_false]
      intro f hf
      have := List.all_eq_true.mp (hfew hdirect) f hf
      simp at this ⊢
      exact this
    · exact Or.inl (by simpa using hdirect)
  unfold State.resend
  simp only [hp, hc, filter_keeps_all, hup, hnever]
  rw [if_neg (by simp [hsome])]
  rfl

/-! ### A frame that comes -/

/-- `t` is `s` but for ports and channels. -/
def Relined (s t : State) : Prop := ∃ ps chs, t = { s with links := { s.links with ports := ps, channels := chs } }

theorem Relined.trans {s t u : State} (h : Relined s t) (k : Relined t u) : Relined s u := by
  obtain ⟨_, _, rfl⟩ := h
  obtain ⟨ps, chs, rfl⟩ := k
  exact ⟨ps, chs, rfl⟩

theorem Relined.refl (s : State) : Relined s s := ⟨_, _, rfl⟩

theorem Relined.modChan (s : State) (p q : Nat) (f : Channel → Channel) : Relined s (s.modChan p q f) := ⟨_, _, rfl⟩

theorem Relined.modPort (s : State) (p : Nat) (f : Port → Port) : Relined s (s.modPort p f) := ⟨_, _, rfl⟩

/-- A channel as the count of a frame that came leaves it. -/
def Channel.heard (c : Channel) (now : Nat) (ce : Bool) : Channel :=
  { c with rxUnacked := c.rxUnacked + 1, rxSince := if c.rxUnacked = 0 ∧ c.owed = (0, 0, 0) then now else c.rxSince,
           rxCe := c.rxCe + (if ce then 1 else 0), oldDue := c.oldDue || false }

/-- What stands once a frame under the key in force has been counted. -/
def arrived (s : State) (o : Outer) : State := (s.modPort o.port (fun y => { y with received := stepCount y.received })).heardFrame o false

section Receipt
variable {s : State} {o : Outer} {i : Inner} {p : Port} {c : Channel} (halive : s.alive = true) (hp : s.port? o.port = some p)
  (hup : p.isUp = true) (hc : s.chan? o.port o.hop = some c)

include hp in
theorem arrived_port? : (arrived s o).port? o.port = some { p with received := stepCount p.received } := by
  show (modAt s.links.ports o.port _)[o.port]? = _
  rw [getElem?_modAt_same, show s.links.ports[o.port]? = some p from hp]
  rfl

include hc in
theorem arrived_chan? : (arrived s o).chan? o.port o.hop = some (c.heard s.hub.timer o.ce) := by
  have hmod := modChan_chan? (s.modPort o.port (fun y => { y with received := stepCount y.received })) o.port o.hop
    (fun c => c.heard s.hub.timer o.ce) (fun _ => ⟨rfl, rfl⟩)
  rw [show (s.modPort o.port (fun y => { y with received := stepCount y.received })).chan? o.port o.hop = some c from hc] at hmod
  exact hmod

include halive hp hup hc in
/-- A sound frame under the key in force is judged by its order; after sixteen frames a LINK frame goes. -/
theorem doRasoviFrame_sound (hfcs : o.fcsOk = true) (houter : s.outerBad o false = false) (hkeyed : c.keyed = true) (hphase : o.kphase = c.rxPhase)
    (htag : o.tagOk = true) : doRasoviFrame o i s = match ((arrived s o).orderFrame p c false o i).chan? o.port o.hop with
      | some d => if 16 ≤ d.rxUnacked then ((arrived s o).orderFrame p c false o i).ackNow o.port o.hop else (arrived s o).orderFrame p c false o i
      | none => (arrived s o).orderFrame p c false o i := by
  have hopen : (s.modPort o.port (fun y => { y with received := stepCount y.received })).openChan o.port o.hop
      = s.modPort o.port (fun y => { y with received := stepCount y.received }) := by
    unfold State.openChan
    rw [if_pos (by rw [show (s.modPort o.port _).chan? o.port o.hop = some c from hc]; rfl)]
  have hjudge : (arrived s o).judgeFrame p c false o i = (arrived s o).orderFrame p c false o i := by
    unfold State.judgeFrame
    rw [if_neg (by simp [hfcs]), show (arrived s o).outerBad o false = false from houter]
    simp [hkeyed, htag]
  unfold doRasoviFrame
  rw [hp]
  simp only [halive, hup, Bool.not_true, Bool.or_self, Bool.false_eq_true, if_false]
  rw [hopen, show (s.modPort o.port _).chan? o.port o.hop = some c from hc]
  simp only [hkeyed, hphase, bne_self_eq_false, Bool.and_false]
  rw [← hjudge]
  rfl

/-- A frame in order is delivered here. -/
theorem deliverFrame_here {u : State} (hinner : innerBad o i = false) (hdst : o.dst = u.links.ordinal) :
    u.deliverFrame o i = u.modLinks (fun l => { l with inbox := l.inbox ++ [{ src := o.src, port := o.port, inner := i }] }) := by
  unfold State.deliverFrame
  simp only [hinner, Bool.false_eq_true, if_false]
  rw [if_pos hdst]

/-- What is accepted leaves the order of the channel as it is. -/
theorem acceptFrame_facts (u : State) (o : Outer) {k : Channel} (hk : u.chan? o.port o.hop = some k) :
    ((u.acceptFrame o false).chan? o.port o.hop) =
      some { k with nakSent := false, rxNew := k.rxNew + 1, oldKept := k.oldKept && decide (k.rxNew + 1 < 2 ^ 16) } ∧
    Relined u (u.acceptFrame o false) := by
  have hmod := modChan_chan? u o.port o.hop
    (fun c => { c with nakSent := false, rxNew := c.rxNew + 1, oldKept := c.oldKept && decide (c.rxNew + 1 < 2 ^ 16) }) (fun _ => ⟨rfl, rfl⟩)
  rw [hk] at hmod
  exact ⟨hmod, (Relined.modChan ..).trans (Relined.modPort ..)⟩

theorem arrived_relined (s : State) (o : Outer) : Relined s (arrived s o) := (Relined.modPort ..).trans (Relined.modChan ..)

/-- After a frame has been judged, sixteen frames or not, what the device has taken in and the order of the channel stand. -/
theorem judged_facts {u : State} {port hop : Nat} {k : Channel} (hk : u.chan? port hop = some k) :
    ∃ t, (match u.chan? port hop with
      | some d => if 16 ≤ d.rxUnacked then u.ackNow port hop else u
      | none => u) = t ∧ Pumped u t := by
  rw [hk]
  dsimp only
  split
  · exact ⟨_, rfl, Pumped.ackNow u port hop⟩
  · exact ⟨_, rfl, Pumped.refl u⟩

theorem Carried.keeps {s t : State} (h : Carried s t) : t.links.inbox = s.links.inbox ∧ t.ctxs = s.ctxs ∧ t.mem = s.mem := by
  obtain ⟨_, _, _, rfl⟩ := h
  exact ⟨rfl, rfl, rfl⟩

/-- A switched channel that holds the awaited frame alone delivers it, and awaits the next. -/
theorem deliverHeld_one {u : State} {k : Channel} (hk : u.chan? o.port o.hop = some k) (hheld : k.rxHeld = [(k.rxAck, o, i)])
    (hinner : innerBad o i = false) (hdst : o.dst = u.links.ordinal) {n : Nat} (hn : 2 ≤ n) :
    ∃ d, (u.deliverHeld o.port o.hop false n).chan? o.port o.hop = some d ∧ d.rxAck = k.rxAck + 1 ∧
      Relined (u.modLinks (fun l => { l with inbox := l.inbox ++ [{ src := o.src, port := o.port, inner := i }] }))
        (u.deliverHeld o.port o.hop false n) := by
  obtain ⟨fuel, rfl⟩ := Nat.exists_eq_add_of_le' hn
  have hmod := modChan_chan? u o.port o.hop (fun c => { c with rxAck := c.rxAck + 1, rxHeld := c.rxHeld.filter (fun x => x.1 != k.rxAck) })
    (fun _ => ⟨rfl, rfl⟩)
  rw [hk, Option.map_some, hheld] at hmod
  simp only [List.filter_cons, bne_self_eq_false, Bool.false_eq_true, if_false, List.filter_nil] at hmod
  have hrun : u.deliverHeld o.port o.hop false (fuel + 2) =
      (((u.modChan o.port o.hop (fun c => { c with rxAck := c.rxAck + 1, rxHeld := c.rxHeld.filter (fun x => x.1 != k.rxAck) })).deliverFrame o i).deliverHeld
        o.port o.hop false (fuel + 1)) := by
    rw [State.deliverHeld, hk]
    simp only [Bool.false_eq_true, if_false, hheld, List.find?_cons, beq_self_eq_true]
  have hlined := Relined.modChan u o.port o.hop (fun c => { c with rxAck := c.rxAck + 1, rxHeld := c.rxHeld.filter (fun x => x.1 != k.rxAck) })
  generalize u.modChan o.port o.hop (fun c => { c with rxAck := c.rxAck + 1, rxHeld := c.rxHeld.filter (fun x => x.1 != k.rxAck) }) = v at *
  rw [deliverFrame_here hinner (by obtain ⟨_, _, h⟩ := hlined; rw [h]; exact hdst)] at hrun
  have hstop : (v.modLinks (fun l => { l with inbox := l.inbox ++ [{ src := o.src, port := o.port, inner := i }] })).deliverHeld o.port o.hop false (fuel + 1)
      = v.modLinks (fun l => { l with inbox := l.inbox ++ [{ src := o.src, port := o.port, inner := i }] }) := by
    rw [State.deliverHeld, show (v.modLinks (fun l => { l with inbox := l.inbox ++ [{ src := o.src, port := o.port, inner := i }] })).chan? o.port o.hop = _ from hmod]
    rfl
  rw [hrun, hstop]
  refine ⟨_, hmod, rfl, ?_⟩
  obtain ⟨ps, chs, rfl⟩ := hlined
  exact ⟨ps, chs, rfl⟩

/-- The order of a channel is not what sending changes. -/
theorem Channel.rxAck_of_kept {c d : Channel} (h : d.kept = c.kept) : d.rxAck = c.rxAck := by
  have : d.kept.rxAck = c.kept.rxAck := by rw [h]
  exact this

include halive hp hup hc in
/-- A frame that its channel awaits is taken in, and the next is awaited; on a cable, or on a switched channel that holds none. -/
theorem doRasoviFrame_taken (hfcs : o.fcsOk = true) (houter : s.outerBad o false = false) (hkeyed : c.keyed = true) (hphase : o.kphase = c.rxPhase)
    (htag : o.tagOk = true) (hinner : innerBad o i = false) (hdst : o.dst = s.links.ordinal) (hseq : o.seq = c.rxAck)
    (hmode : p.mode = 1 ∨ p.mode ≠ 1 ∧ c.rxHeld = []) :
    (doRasoviFrame o i s).links.inbox = s.links.inbox ++ [{ src := o.src, port := o.port, inner := i }] ∧
    ((doRasoviFrame o i s).chan? o.port o.hop).map (fun k => k.rxAck) = some (c.rxAck + 1) ∧
    (doRasoviFrame o i s).ctxs = s.ctxs ∧ (doRasoviFrame o i s).mem = s.mem := by
  have harrived := arrived_chan? (o := o) hc
  have horder : ∃ k, ((arrived s o).orderFrame p c false o i).chan? o.port o.hop = some k ∧ k.rxAck = c.rxAck + 1 ∧
      ((arrived s o).orderFrame p c false o i).links.inbox = s.links.inbox ++ [{ src := o.src, port := o.port, inner := i }] ∧
      ((arrived s o).orderFrame p c false o i).ctxs = s.ctxs ∧ ((arrived s o).orderFrame p c false o i).mem = s.mem := by
    rcases hmode with hdirect | ⟨hswitched, hheld⟩
    · have hmod := modChan_chan? (arrived s o) o.port o.hop (fun c => { c with rxAck := c.rxAck + 1 }) (fun _ => ⟨rfl, rfl⟩)
      rw [harrived] at hmod
      obtain ⟨haccept, hlined⟩ := acceptFrame_facts _ o hmod
      obtain ⟨ps, chs, heq⟩ := ((arrived_relined s o).trans (Relined.modChan ..)).trans hlined
      have hrun : (arrived s o).orderFrame p c false o i =
          (((arrived s o).modChan o.port o.hop (fun c => { c with rxAck := c.rxAck + 1 })).acceptFrame o false).deliverFrame o i := by
        unfold State.orderFrame
        simp [Port.direct, hdirect, hseq]
      generalize ((arrived s o).modChan o.port o.hop (fun c => { c with rxAck := c.rxAck + 1 })).acceptFrame o false = u at *
      rw [hrun, deliverFrame_here hinner (by rw [heq]; exact hdst)]
      exact ⟨_, haccept, rfl, by rw [heq]; rfl, by rw [heq]; rfl, by rw [heq]; rfl⟩
    · have hmod := modChan_chan? (arrived s o) o.port o.hop (fun c => { c with rxHeld := c.rxHeld ++ [(o.seq, o, i)] }) (fun _ => ⟨rfl, rfl⟩)
      rw [harrived] at hmod
      obtain ⟨haccept, hlined⟩ := acceptFrame_facts _ o hmod
      have hlined' := ((arrived_relined s o).trans (Relined.modChan ..)).trans hlined
      have hrun : (arrived s o).orderFrame p c false o i =
          (((arrived s o).modChan o.port o.hop (fun c => { c with rxHeld := c.rxHeld ++ [(o.seq, o, i)] })).acceptFrame o false).deliverHeld
            o.port o.hop false 4096 := by
        unfold State.orderFrame
        simp [Port.direct, hswitched, hseq, hheld, show ¬c.rxAck + 4096 ≤ c.rxAck by omega]
      generalize ((arrived s o).modChan o.port o.hop (fun c => { c with rxHeld := c.rxHeld ++ [(o.seq, o, i)] })).acceptFrame o false = u at *
      obtain ⟨k, hk, hack, ps, chs, heq⟩ := deliverHeld_one (u := u) haccept (by simp [Channel.heard, hheld, hseq]) hinner (by
        obtain ⟨_, _, h⟩ := hlined'
        rw [h]
        exact hdst) (show 2 ≤ 4096 by decide)
      rw [hrun]
      obtain ⟨_, _, rfl⟩ := hlined'
      exact ⟨k, hk, hack, by rw [heq]; rfl, by rw [heq]; rfl, by rw [heq]; rfl⟩
  obtain ⟨k, hk, hack, hinbox, hctxs, hmem⟩ := horder
  rw [doRasoviFrame_sound halive hp hup hc hfcs houter hkeyed hphase htag]
  obtain ⟨t, ht, hpumped⟩ := judged_facts hk
  rw [ht]
  obtain ⟨hi, hc', hm⟩ := hpumped.carried.keeps
  obtain ⟨d, hd, hkept⟩ := hpumped.chan? hk
  refine ⟨hi.trans hinbox, ?_, hc'.trans hctxs, hm.trans hmem⟩
  rw [hd, Option.map_some, Channel.rxAck_of_kept hkept, hack]

end Receipt

/-! ### LINK frames, resends and the exchange of keys -/

/-- What a LINK frame under the key in force tells, and what it leaves of its channel. -/
theorem emitLink_facts {u : State} {port peer : Nat} {p : Port} {c : Channel} (hp : u.port? port = some p) (hc : u.chan? port peer = some c) (nak : Bool) :
    (∃ b : LinkBody, (u.emitLink port peer false nak).out = u.out ++ [.link peer (u.links.wireHdr port p peer)
        (u.links.outerHdr port p 0 c.kphase u.links.ordinal peer c.txLink 0) b] ∧
      b.ack = c.rxAck ∧ b.nak = nak ∧ (b.crCtrl, b.crData, b.crXfer) = c.owed) ∧
    (u.emitLink port peer false nak).chan? port peer =
      some { c with txLink := c.txLink + 1, linkFrames := c.linkFrames + 1, owed := (0, 0, 0), rxUnacked := 0, rxCe := 0, linkDue := none } := by
  have hmod := modChan_chan? u port peer
    (fun c => { c with txLink := c.txLink + 1, linkFrames := c.linkFrames + 1, owed := (0, 0, 0), rxUnacked := 0, rxCe := 0, linkDue := none })
    (fun _ => ⟨rfl, rfl⟩)
  rw [hc] at hmod
  unfold State.emitLink
  rw [hp, hc]
  simp only [Bool.bne_false]
  exact ⟨⟨_, rfl, rfl, rfl, rfl⟩, hmod⟩

theorem sendLink_now {u : State} {port peer : Nat} {p : Port} (hp : u.port? port = some p) (hup : p.isUp = true) (hfree : p.paused = false) (old nak : Bool) :
    u.sendLink port peer old nak = u.emitLink port peer old nak := by
  unfold State.sendLink
  rw [hp]
  simp [hup, hfree]

theorem countDiscard_port? {u : State} {n : Nat} {p : Port} (hp : u.port? n = some p) :
    (u.countDiscard n).port? n = some { p with discarded := stepCount p.discarded } := by
  show (modAt u.links.ports n _)[n]? = _
  rw [getElem?_modAt_same, show u.links.ports[n]? = some p from hp]
  rfl

section Receipt
variable {s : State} {o : Outer} {i : Inner} {p : Port} {c : Channel} (halive : s.alive = true) (hp : s.port? o.port = some p)
  (hup : p.isUp = true) (hc : s.chan? o.port o.hop = some c)
include halive hp hup hc

/-- A frame that has come before is discarded. -/
theorem doRasoviFrame_again (hfcs : o.fcsOk = true) (houter : s.outerBad o false = false) (hkeyed : c.keyed = true) (hphase : o.kphase = c.rxPhase)
    (htag : o.tagOk = true) (hdirect : p.mode = 1) (hseq : o.seq < c.rxAck) (hfew : c.rxUnacked < 15) :
    doRasoviFrame o i s = (arrived s o).countDiscard o.port := by
  have hchan : ((arrived s o).countDiscard o.port).chan? o.port o.hop = some (c.heard s.hub.timer o.ce) := arrived_chan? hc
  have hrun : (arrived s o).orderFrame p c false o i = (arrived s o).countDiscard o.port := by
    unfold State.orderFrame
    simp [Port.direct, hdirect, Nat.ne_of_lt hseq, Nat.not_lt.mpr (Nat.le_of_lt hseq)]
  rw [doRasoviFrame_sound halive hp hup hc hfcs houter hkeyed hphase htag, hrun, hchan]
  dsimp only
  rw [if_neg]
  simp only [Channel.heard]
  omega

/-- A frame after one that is missing is discarded, and one LINK frame asks for the missing one. -/
theorem doRasoviFrame_gap (hfcs : o.fcsOk = true) (houter : s.outerBad o false = false) (hkeyed : c.keyed = true) (hphase : o.kphase = c.rxPhase)
    (htag : o.tagOk = true) (hdirect : p.mode = 1) (hseq : c.rxAck < o.seq) (hnak : c.nakSent = false) (hfree : p.paused = false) :
    ∃ t, doRasoviFrame o i s = t ∧ (∃ b : LinkBody, t.out = s.out ++ [.link o.hop (s.links.wireHdr o.port p o.hop)
      (s.links.outerHdr o.port p 0 c.kphase s.links.ordinal o.hop c.txLink 0) b] ∧ b.nak = true ∧ b.ack = c.rxAck) ∧
      t.links.inbox = s.links.inbox ∧ t.ctxs = s.ctxs ∧ t.mem = s.mem := by
  have hlined : Relined s ((arrived s o).countDiscard o.port) := (arrived_relined s o).trans (Relined.modPort ..)
  have hport := countDiscard_port? (arrived_port? hp)
  have hchan : ((arrived s o).countDiscard o.port).chan? o.port o.hop = some (c.heard s.hub.timer o.ce) := arrived_chan? hc
  have hrun : (arrived s o).orderFrame p c false o i = ((arrived s o).countDiscard o.port).sendNak o false := by
    unfold State.orderFrame
    simp [Port.direct, hdirect, Nat.ne_of_gt hseq, hseq]
  rw [doRasoviFrame_sound halive hp hup hc hfcs houter hkeyed hphase htag, hrun]
  generalize (arrived s o).countDiscard o.port = u at *
  have hasked := modChan_chan? u o.port o.hop (fun c => { c with nakSent := true }) (fun _ => ⟨rfl, rfl⟩)
  rw [hchan] at hasked
  have hsend : u.sendNak o false = (u.modChan o.port o.hop (fun c => { c with nakSent := true })).emitLink o.port o.hop false true := by
    unfold State.sendNak
    rw [hchan]
    simp only [show (c.heard s.hub.timer o.ce).nakSent = false from hnak, Bool.false_eq_true, if_false]
    exact sendLink_now (u := u.modChan o.port o.hop (fun c => { c with nakSent := true })) (p := { p with received := stepCount p.received, discarded := stepCount p.discarded }) hport hup hfree false true
  obtain ⟨⟨b, hout, hack, hbnak, -⟩, hafter⟩ := emitLink_facts (u := u.modChan o.port o.hop (fun c => { c with nakSent := true })) hport hasked true
  have hcarried := (Carried.emitLink (u.modChan o.port o.hop (fun c => { c with nakSent := true })) o.port o.hop false true).keeps
  rw [hsend, hafter]
  dsimp only
  rw [if_neg (by simp)]
  obtain ⟨_, _, rfl⟩ := hlined
  refine ⟨_, rfl, ⟨b, hout, hbnak, hack⟩, ?_⟩
  exact hcarried

end Receipt

/-- The channel `d` is `c` as a LINK frame leaves it: its unacknowledged frames are `left`, and it has the credits of the frame. -/
structure Linked (b : LinkBody) (left : List RSent) (c d : Channel) : Prop where
  key : d.port = c.port ∧ d.peer = c.peer
  unacked : d.unacked = left
  idle : d.waiting = c.waiting ∧ d.linkDue = c.linkDue
  credits : d.crCtrl = c.crCtrl + b.crCtrl ∧ d.crData = c.crData + b.crData ∧ d.crXfer = c.crXfer + b.crXfer

/-- On a cable a LINK frame acknowledges the frames of its key below its number, and without `nak` shows none missing. -/
theorem takeLink_direct {v : State} {o : Outer} {b : LinkBody} {p : Port} {k : Channel} (hk : v.chan? o.port o.hop = some k) (hdirect : p.mode = 1)
    (hnak : b.nak = false) : ∃ f, v.takeLink p o b false = (v.modChan o.port o.hop f).pumpPort o.port ∧
      ∀ c, Linked b (k.unacked.filter (fun f => !(f.outer.kphase == o.kphase && decide (f.outer.seq < b.ack)))) c (f c) := by
  have hcovers : k.unacked.filter (fun f => !linkCovers b p.direct o.kphase f) =
      k.unacked.filter (fun f => !(f.outer.kphase == o.kphase && decide (f.outer.seq < b.ack))) := by
    simp [linkCovers, Port.direct, hdirect]
  unfold State.takeLink
  rw [hk]
  dsimp only
  rw [resend_none (fun f => by simp [linkMisses, Port.direct, hdirect, hnak]), hcovers]
  exact ⟨_, rfl, fun c => ⟨⟨rfl, rfl⟩, rfl, ⟨rfl, rfl⟩, rfl, rfl, rfl⟩⟩

/-- A port that has no frame to send again, and none that waits, sends nothing. -/
theorem pumpPort_quiet {s : State} {port peer : Nat} {p : Port} {c : Channel} (hp : s.port? port = some p) (hc : s.chan? port peer = some c)
    (hone : s.links.channels.filter (fun k => k.port == port) = [c]) (hlink : c.linkDue = none) (hwait : c.waiting = [])
    (hdue : ∀ f ∈ c.unacked, f.due = false) : (s.pumpPort port).chan? port peer = some c ∧ (s.pumpPort port).out = s.out := by
  obtain ⟨-, hcpeer⟩ := chan?_key hc
  by_cases hsend : p.sends = true
  · obtain ⟨hout, hchan⟩ := emitDue_eq hc
    have hnone : c.unacked.filter (fun f => f.due) = [] := by
      rw [List.filter_eq_nil_iff]
      exact fun f hf => by simp [hdue f hf]
    have hsame : c.unacked.map (fun f => { f with due := false }) = c.unacked :=
      (List.map_congr_left fun f hf => by rw [← hdue f hf]; rfl).trans (List.map_id _)
    rw [hnone, List.map_nil, List.append_nil] at hout
    rw [hsame] at hchan
    rw [pumpPort_single hp hsend hone hlink hwait, hcpeer]
    exact ⟨hchan, hout⟩
  · rw [pumpPort_held hp (by simpa using hsend)]
    exact ⟨hc, rfl⟩

/-- A LINK frame without `nak` on a cable: what it acknowledges is free, and its credits are added. -/
theorem doRasoviLink_taken {s : State} {o : Outer} {b : LinkBody} {p : Port} {c : Channel} (halive : s.alive = true) (hp : s.port? o.port = some p)
    (hup : p.isUp = true) (hdirect : p.mode = 1) (hc : s.chan? o.port o.hop = some c) (hfcs : o.fcsOk = true) (htag : o.tagOk = true)
    (houter : s.outerBad o true = false) (hrsvd : b.rsvd = 0) (hsack : b.sack = 0) (hnak : b.nak = false) (hdst : o.dst = s.links.ordinal)
    (hkeyed : c.keyed = true) (hphase : o.kphase = c.rxPhase) (hone : s.links.channels.filter (fun k => k.port == o.port) = [c])
    (hwait : c.waiting = []) (hlink : c.linkDue = none) (hdue : c.unacked.all (fun f => !f.due) = true) :
    ∃ t, doRasoviLink o b s = t ∧ (∃ k, t.chan? o.port o.hop = some k ∧
      k.unacked = c.unacked.filter (fun f => !(f.outer.kphase == o.kphase && decide (f.outer.seq < b.ack))) ∧
      k.crCtrl = c.crCtrl + b.crCtrl ∧ k.crData = c.crData + b.crData ∧ k.crXfer = c.crXfer + b.crXfer) ∧
      t.out = s.out ∧ t.ctxs = s.ctxs ∧ t.mem = s.mem := by
  obtain ⟨hcport, hcpeer⟩ := chan?_key hc
  let s0 := s.modPort o.port (fun x => { x with received := stepCount x.received })
  have hrun : doRasoviLink o b s = (s0.acceptFrame o false).takeLink p o b false := by
    unfold doRasoviLink
    rw [hp]
    simp only [halive, hup, Bool.not_true, Bool.or_self, Bool.false_eq_true, if_false]
    rw [if_neg (by simp [hfcs, show s0.outerBad o true = false from houter, s0, hdst, hrsvd, hsack, hnak]),
      show (s.modPort o.port _).chan? o.port o.hop = some c from hc]
    simp [hkeyed, hphase, htag, s0]
  obtain ⟨haccept, hlined⟩ := acceptFrame_facts s0 o (show s0.chan? o.port o.hop = some c from hc)
  have hsingle : (s0.acceptFrame o false).links.channels.filter (fun k => k.port == o.port) =
      [{ c with nakSent := false, rxNew := c.rxNew + 1, oldKept := c.oldKept && decide (c.rxNew + 1 < 2 ^ 16) }] :=
    modChan_single (s := s0) (fun c => { c with nakSent := false, rxNew := c.rxNew + 1, oldKept := c.oldKept && decide (c.rxNew + 1 < 2 ^ 16) })
      (fun _ => rfl) hone hcport hcpeer
  have hport : (s0.acceptFrame o false).port? o.port =
      some { p with received := stepCount p.received, far := some (field o.chan 3 0) } := by
    refine (getElem?_modAt_same ..).trans ((congrArg _ (arrived_port? (o := o) hp)).trans (congrArg some (if_pos ?_)))
    simp [Port.direct, hdirect]
  rw [hrun]
  obtain ⟨ps, chs, heq⟩ := (Relined.modPort s o.port (fun x => { x with received := stepCount x.received })).trans hlined
  generalize s0.acceptFrame o false = v at *
  obtain ⟨f, htake, hlinked⟩ := takeLink_direct haccept hdirect hnak
  have hmod := modChan_chan? v o.port o.hop f (fun c => (hlinked c).key)
  rw [haccept, Option.map_some] at hmod
  have hlinked' := hlinked { c with nakSent := false, rxNew := c.rxNew + 1, oldKept := c.oldKept && decide (c.rxNew + 1 < 2 ^ 16) }
  obtain ⟨-, hleft, ⟨hwaits, hlinks⟩, hcredits⟩ := hlinked'
  obtain ⟨hchan, hout⟩ := pumpPort_quiet (s := v.modChan o.port o.hop f) (peer := o.hop) hport hmod
    (modChan_single f (fun c => (hlinked c).key.1) hsingle hcport hcpeer) (hlinks.trans hlink) (hwaits.trans hwait) (fun g hg => by
      rw [hleft] at hg
      simpa using List.all_eq_true.mp hdue g (List.mem_filter.mp hg).1)
  obtain ⟨_, _, _, hcarried⟩ := Carried.pumpPort (v.modChan o.port o.hop f) o.port
  rw [htake]
  refine ⟨_, rfl, ⟨_, hchan, hleft, hcredits⟩, ?_, ?_⟩
  · exact hout.trans (congrArg State.out heq :)
  · rw [hcarried, heq]
    exact ⟨rfl, rfl⟩

theorem Port.direct_iff (p : Port) : p.direct = true ↔ p.mode = 1 := by simp [Port.direct]

theorem again_eq {l : List RSent} : (l.map RSent.again).filter (fun f => f.due) = l.map RSent.again := by
  rw [List.filter_eq_self]
  intro f hf
  obtain ⟨g, -, rfl⟩ := List.mem_map.mp hf
  rfl

/-- Every frame of the one channel of a port goes again. -/
theorem resend_single {s : State} {port peer : Nat} {p : Port} {c : Channel} (hp : s.port? port = some p) (hc : s.chan? port peer = some c)
    (hup : p.isUp = true) (hfree : p.paused = false) (hone : s.links.channels.filter (fun k => k.port == port) = [c]) (hlink : c.linkDue = none)
    (hwait : c.waiting = []) (hsome : c.unacked ≠ []) (hfew : p.direct = true → c.unacked.all (fun f => decide (f.resends < 8)) = true) :
    ∃ t k, s.resend port peer (fun _ => true) = t ∧ t.out = s.out ++ c.unacked.map (fun f => .rasovi peer f.hdr f.outer f.inner) ∧
      t.chan? port peer = some k ∧ k.unacked.map (fun f => f.resends) = c.unacked.map (fun f => f.resends + 1) ∧ k.rto = c.rto ∧ t.mem = s.mem := by
  obtain ⟨hcport, hcpeer⟩ := chan?_key hc
  have hmod := modChan_chan? s port peer (fun c => { c with unacked := c.unacked.map RSent.again, lastAdvance := s.hub.timer }) (fun _ => ⟨rfl, rfl⟩)
  rw [hc, Option.map_some] at hmod
  have hsingle := modChan_single (s := s) (fun c => { c with unacked := c.unacked.map RSent.again, lastAdvance := s.hub.timer }) (fun _ => rfl) hone
    hcport hcpeer
  have hpump := pumpPort_single (s := s.modChan port peer (fun c => { c with unacked := c.unacked.map RSent.again, lastAdvance := s.hub.timer }))
    (p := p) hp (by simp [Port.sends, hup, hfree]) hsingle hlink hwait
  dsimp only at hpump
  rw [hcpeer] at hpump
  obtain ⟨hout, hchan⟩ := emitDue_eq hmod
  rw [resend_all hp hc hup hsome hfew, hpump]
  refine ⟨_, _, rfl, ?_, hchan, ?_, rfl, ?_⟩
  · rw [hout]
    dsimp only
    rw [again_eq, List.map_map]
    rfl
  · simp only [List.map_map]
    rfl
  · exact (Carried.emitDue ..).mem

/-- After the eighth resend of a frame a cable trains again. -/
theorem resend_retrains {s : State} {port peer : Nat} {p : Port} {c : Channel} (hp : s.port? port = some p) (hc : s.chan? port peer = some c)
    (hup : p.isUp = true) (hdirect : p.mode = 1) (hmany : c.unacked.any (fun f => decide (8 ≤ f.resends)) = true) :
    ∃ t, s.resend port peer (fun _ => true) = t ∧ (t.port? port).map (fun y => (y.isUp, y.training)) = some (false, some s.hub.timer) ∧
      t.mem = s.mem ∧ t.ctxs = s.ctxs := by
  have hsome : c.unacked.isEmpty = false := by
    cases h : c.unacked with
    | nil => rw [h] at hmany; simp at hmany
    | cons => rfl
  refine ⟨_, rfl, ?_⟩
  unfold State.resend
  simp only [hp, hc, filter_keeps_all, hup, hsome, (Port.direct_iff p).mpr hdirect, hmany]
  simp only [Bool.not_true, Bool.or_self, Bool.false_eq_true, if_false, Bool.and_self, if_true]
  have hlined : Relined s (s.modChan port peer (fun c => { c with unacked := c.unacked.map (fun f => { f with resends := 0 }) })) := Relined.modChan ..
  have hport : (s.modChan port peer (fun c => { c with unacked := c.unacked.map (fun f => { f with resends := 0 }) })).port? port = some p := hp
  generalize s.modChan port peer (fun c => { c with unacked := c.unacked.map (fun f => { f with resends := 0 }) }) = u at *
  have hdown : (u.modPort port (fun x => { x with isUp := false, training := some u.hub.timer })).port? port =
      some { p with isUp := false, training := some u.hub.timer } := by
    show (modAt u.links.ports port _)[port]? = _
    rw [getElem?_modAt_same, show u.links.ports[port]? = some p from hport]
    rfl
  obtain ⟨hports, hctxs, hmem⟩ := reroute_keeps (u.modPort port (fun x => { x with isUp := false, training := some u.hub.timer }))
  have hafter := hports.port? port
  rw [hdown] at hafter
  obtain ⟨y, hy, hkept⟩ := Option.map_eq_some_iff.mp hafter
  obtain ⟨_, _, rfl⟩ := hlined
  refine ⟨?_, hmem, hctxs⟩
  rw [State.retrain, hy, Option.map_some]
  exact congrArg some (congrArg (fun q : Port => (q.isUp, q.training)) hkept)

/-- The lower ordinal of a channel without a key opens the exchange. -/
theorem doChannelKeyExchange_opens {s : State} {port peer : Nat} {p : Port} {c : Channel} (halive : s.alive = true) (hp : s.port? port = some p)
    (hc : s.chan? port peer = some c) (hup : p.isUp = true) (hlt : s.links.ordinal < peer) (hkeyed : c.keyed = false) (hstage : c.kx.stage = 0) :
    (doChannelKeyExchange port peer s).hub.trng = s.hub.trng + 120 ∧
    (∃ k, (doChannelKeyExchange port peer s).chan? port peer = some k ∧ k.kx.stage = 1 ∧ k.kx.since = s.hub.timer ∧
      k.kx.first = exchangeOpen (s.draw 120).2 ++ s.kxIdentity) ∧
    (doChannelKeyExchange port peer s).mem = s.mem ∧ (doChannelKeyExchange port peer s).ctxs = s.ctxs := by
  have hopen : s.openChan port peer = s := by
    unfold State.openChan
    rw [if_pos (by rw [hc]; rfl)]
  have hmod := modChan_chan? (s.draw 120).1 port peer (fun c =>
    { c with kx := { stage := 1, since := s.hub.timer, seed := (s.draw 120).2, first := exchangeOpen (s.draw 120).2 ++ s.kxIdentity, second := [], rekey := c.keyed },
             waiting := c.waiting ++ [s.links.kxFrame peer (exchangeOpen (s.draw 120).2 ++ s.kxIdentity)] }) (fun _ => ⟨rfl, rfl⟩)
  rw [show (s.draw 120).1.chan? port peer = some c from hc] at hmod
  have hpumped := Pumped.pumpPort ((s.draw 120).1.modChan port peer (fun c =>
    { c with kx := { stage := 1, since := s.hub.timer, seed := (s.draw 120).2, first := exchangeOpen (s.draw 120).2 ++ s.kxIdentity, second := [], rekey := c.keyed },
             waiting := c.waiting ++ [s.links.kxFrame peer (exchangeOpen (s.draw 120).2 ++ s.kxIdentity)] })) port
  obtain ⟨d, hd, hkept⟩ := hpumped.chan? hmod
  have hkx := congrArg Channel.kx hkept
  have hrun : doChannelKeyExchange port peer s = ((s.draw 120).1.modChan port peer (fun c =>
    { c with kx := { stage := 1, since := s.hub.timer, seed := (s.draw 120).2, first := exchangeOpen (s.draw 120).2 ++ s.kxIdentity, second := [], rekey := c.keyed },
             waiting := c.waiting ++ [s.links.kxFrame peer (exchangeOpen (s.draw 120).2 ++ s.kxIdentity)] })).pumpPort port := by
    unfold doChannelKeyExchange
    rw [hp]
    dsimp only
    rw [if_neg (by simp [halive, hup, hlt]), hopen, hc]
    simp [hkeyed, hstage]
  rw [hrun]
  obtain ⟨_, _, _, hcarried⟩ := hpumped.carried
  refine ⟨?_, ⟨d, hd, ?_, ?_, ?_⟩, ?_⟩
  · rw [hcarried]; rfl
  · exact congrArg Kx.stage hkx
  · exact congrArg Kx.since hkx
  · exact congrArg Kx.first hkx
  · rw [hcarried]; exact ⟨rfl, rfl⟩

theorem oweCells_chan? {s : State} {port peer : Nat} {c : Channel} (hc : s.chan? port peer = some c) (a b m n : Nat) :
    ∃ k, (s.oweCells a b m n).chan? port peer = some k := by
  unfold State.oweCells
  split
  · exact ⟨c, hc⟩
  · refine ⟨_, Eq.trans (modChan_chan?_any _ _ _ _ ?_ _ _) (congrArg (Option.map _) hc)⟩
    exact fun _ => ⟨rfl, rfl⟩

/-- Taking an operation in leaves the channels that there are. -/
theorem takeIn_chan? {s : State} {d : Delivered} {port peer : Nat} {c : Channel} (hc : s.chan? port peer = some c) :
    ∃ k, (s.takeIn d).chan? port peer = some k := by
  have hbox : (s.modLinks (fun l => { l with inbox := dropFirst d l.inbox })).chan? port peer = some c := hc
  unfold State.takeIn
  split
  · dsimp only
    split
    · split
      · exact oweCells_chan? hbox ..
      · exact ⟨c, hbox⟩
    · exact ⟨c, hbox⟩
  · exact ⟨c, hc⟩

/-- The higher ordinal answers a first message of its own mode and job. -/
theorem doLinkKx_answers {s : State} {d : Delivered} {c : Channel} (halive : s.alive = true) (hc : s.chan? d.port d.src = some c)
    (hlen : d.inner.data.length = kxFirstLen) (hlt : d.src < s.links.ordinal) (hmode : slice d.inner.data 1685 1 = toLe 1 s.modeCode)
    (hjob : slice d.inner.data 1686 2 = toLe 2 s.links.job) :
    (doLinkKx d s).hub.trng = s.hub.trng + 88 ∧ (∃ k, (doLinkKx d s).chan? d.port d.src = some k ∧ k.kx.stage = 2 ∧ k.kx.first = d.inner.data ∧
      k.kx.second = exchangeAnswer (s.draw 88).2 d.inner.data ++ s.attestPub ++ toLe 4 s.otp.bootEpoch ++ toLe 1 s.modeCode) ∧
    (doLinkKx d s).mem = s.mem ∧ (doLinkKx d s).ctxs = s.ctxs := by
  obtain ⟨k, hk⟩ := takeIn_chan? (d := d) hc
  obtain ⟨ib, chs, htake⟩ := takeIn_eq s d
  generalize hx : exchangeAnswer (s.draw 88).2 d.inner.data ++ s.attestPub ++ toLe 4 s.otp.bootEpoch ++ toLe 1 s.modeCode = second
  have hdraw : ((s.takeIn d).draw 88).2 = (s.draw 88).2 := by rw [htake]; rfl
  have hrun : doLinkKx d s = (((((s.takeIn d).draw 88).1.attestSign (shake256 (d.inner.data ++ second) 64)).1.modChan d.port d.src (fun c =>
      { c with kx := { stage := 2, since := s.hub.timer, seed := (s.draw 88).2, first := d.inner.data, second := second, rekey := c.keyed } })).sendKx
      d.port d.src (second ++ (((s.takeIn d).draw 88).1.attestSign (shake256 (d.inner.data ++ second) 64)).2)) := by
    unfold doLinkKx
    simp only [halive, hk, hlen, if_true, Bool.not_true, Bool.false_eq_true, if_false, hdraw]
    rw [if_neg (by simp [hlt, hmode, hjob]), hx]
  have hchan : (((s.takeIn d).draw 88).1.attestSign (shake256 (d.inner.data ++ second) 64)).1.chan? d.port d.src = some k := hk
  have hhub : (((s.takeIn d).draw 88).1.attestSign (shake256 (d.inner.data ++ second) 64)).1.hub.trng = s.hub.trng + 88 := by
    rw [htake]; rfl
  have hkeep : (((s.takeIn d).draw 88).1.attestSign (shake256 (d.inner.data ++ second) 64)).1.mem = s.mem ∧
      (((s.takeIn d).draw 88).1.attestSign (shake256 (d.inner.data ++ second) 64)).1.ctxs = s.ctxs := by
    rw [htake]; exact ⟨rfl, rfl⟩
  rw [hrun]
  generalize ((s.takeIn d).draw 88).1.attestSign (shake256 (d.inner.data ++ second) 64) = u at *
  have hmod := modChan_chan? u.1 d.port d.src (fun c =>
      { c with kx := { stage := 2, since := s.hub.timer, seed := (s.draw 88).2, first := d.inner.data, second := second, rekey := c.keyed } })
      (fun _ => ⟨rfl, rfl⟩)
  rw [hchan, Option.map_some] at hmod
  generalize hv : u.1.modChan d.port d.src (fun c =>
      { c with kx := { stage := 2, since := s.hub.timer, seed := (s.draw 88).2, first := d.inner.data, second := second, rekey := c.keyed } }) = v at *
  have hpumped : Pumped v (v.sendKx d.port d.src (second ++ u.2)) := by
    refine Pumped.trans (Pumped.modChan _ _ _ _ ?_) (Pumped.pumpPort ..)
    exact fun _ => rfl
  obtain ⟨e, he, hkept⟩ := hpumped.chan? hmod
  have hkx := congrArg Channel.kx hkept
  obtain ⟨_, _, _, hcarried⟩ := hpumped.carried
  have hvhub : v.hub = u.1.hub ∧ v.mem = u.1.mem ∧ v.ctxs = u.1.ctxs := by rw [← hv]; exact ⟨rfl, rfl, rfl⟩
  obtain ⟨hvh, hvm, hvc⟩ := hvhub
  refine ⟨?_, ⟨e, he, congrArg Kx.stage hkx, congrArg Kx.first hkx, congrArg Kx.second hkx⟩, ?_, ?_⟩
  · rw [hcarried]; exact (congrArg Hub.trng hvh).trans hhub
  · rw [hcarried]; exact hvm.trans hkeep.1
  · rw [hcarried]; exact hvc.trans hkeep.2

end Sys2Proof.Machine

namespace Sys2Proof
open Machine
set_option Elab.async false

/-- Settles O52, by what each frame, timer and message of the exchange makes of its port and channel. -/
theorem framesCrossRasovi : Obligations.FramesCrossRasovi := by
  refine ⟨?direct, ?again, ?gap, ?switched, ?link, ?ack, ?replay, ?retrain, ?retransmit, ?open_, ?answer⟩
  case direct =>
    intro o i p c s halive hp hup hc hfcs houter hkeyed hphase htag hinner hdst hmode hseq
    exact ⟨_, rfl, doRasoviFrame_taken halive hp hup hc hfcs houter hkeyed hphase htag hinner hdst hseq (Or.inl hmode)⟩
  case again =>
    intro o i p c s halive hp hup hc hfcs houter hkeyed hphase htag hinner hdst hmode hseq hfew
    exact ⟨_, rfl, doRasoviFrame_again halive hp hup hc hfcs houter hkeyed hphase htag hmode hseq hfew⟩
  case gap =>
    intro o i p c s halive hp hup hc hfcs houter hkeyed hphase htag hinner hdst hmode hseq hnak hfree hfew
    obtain ⟨t, ht, hfacts⟩ := doRasoviFrame_gap (i := i) halive hp hup hc hfcs houter hkeyed hphase htag hmode hseq hnak hfree
    exact ⟨t, congrArg _ ht, hfacts⟩
  case switched =>
    intro o i p c s halive hp hup hc hfcs houter hkeyed hphase htag hinner hdst hmode _ hheld hseq
    exact ⟨_, rfl, doRasoviFrame_taken halive hp hup hc hfcs houter hkeyed hphase htag hinner hdst hseq (Or.inr ⟨hmode, hheld⟩)⟩
  case link =>
    intro o b p c s halive hp hup hmode hc hfcs htag houter hrsvd hsack hnak hdst hkeyed hphase hone hwait hlink hdue
    obtain ⟨t, ht, hfacts⟩ := doRasoviLink_taken halive hp hup hmode hc hfcs htag houter hrsvd hsack hnak hdst hkeyed hphase hone hwait hlink hdue
    exact ⟨t, congrArg _ ht, hfacts⟩
  case ack =>
    intro port peer p c s halive hp hc hup hfree hold hdue htime
    have hnow : s.ackNow port peer = s.sendLink port peer false false := by
      unfold State.ackNow
      rw [hc]
      simp [hold]
    obtain ⟨⟨b, hout, hack, hnak, howed⟩, hafter⟩ := emitLink_facts hp hc false
    refine ⟨_, ?_, rfl, ?_⟩
    · show execRasoviAckTimer port peer s = _
      unfold execRasoviAckTimer
      rw [hc]
      dsimp only
      rw [if_pos, hnow]
      simpa [halive, htime] using hdue
    · rw [sendLink_now hp hup hfree, hafter]
      exact ⟨⟨b, hout, hack, hnak, howed⟩, rfl⟩
  case replay =>
    intro port peer p c s halive hp hc hup hfree hone hlink hwait hmode hsome htime hfew
    obtain ⟨t, k, ht, hout, hk, hresends, -, hmem⟩ := resend_single hp hc hup hfree hone hlink hwait hsome (fun _ => hfew)
    refine ⟨t, ?_, hout, by rw [hk, Option.map_some, hresends], hmem⟩
    show execRasoviReplayTimeout port peer s = _
    unfold execRasoviReplayTimeout
    rw [hp, hc]
    dsimp only
    rw [if_pos, ht]
    simpa [halive, (Port.direct_iff p).mpr hmode, hsome] using htime
  case retrain =>
    intro port peer p c s halive hp hc hup hmode htime hmany
    obtain ⟨t, ht, hfacts⟩ := resend_retrains hp hc hup hmode hmany
    have hsome : c.unacked ≠ [] := by
      rintro h
      rw [h] at hmany
      simp at hmany
    refine ⟨t, ?_, hfacts⟩
    show execRasoviReplayTimeout port peer s = _
    unfold execRasoviReplayTimeout
    rw [hp, hc]
    dsimp only
    rw [if_pos, ht]
    simpa [halive, (Port.direct_iff p).mpr hmode, hsome] using htime
  case retransmit =>
    intro port peer p c s halive hp hc hup hfree hone hlink hwait hmode hsome htime
    have hswitched : p.direct = false := by simpa [Port.direct] using hmode
    obtain ⟨t, k, ht, hout, hk, -, hrto, hmem⟩ := resend_single hp hc hup hfree hone hlink hwait hsome (by simp [hswitched])
    have hmod := modChan_chan? t port peer (fun c => { c with rto := min (2 * c.rto) 65536 }) (fun _ => ⟨rfl, rfl⟩)
    rw [hk] at hmod
    refine ⟨t.modChan port peer (fun c => { c with rto := min (2 * c.rto) 65536 }), ?_, hout, by rw [hmod, ← hrto]; rfl, hmem⟩
    show execSwitchedRetransmitTimeout port peer s = _
    unfold execSwitchedRetransmitTimeout
    rw [hp, hc]
    dsimp only
    rw [if_pos, ht]
    simp [halive, hswitched, hsome, htime]
  case open_ =>
    intro port peer p c s halive hp hc hup hlt hkeyed hstage
    exact ⟨_, rfl, doChannelKeyExchange_opens halive hp hc hup hlt hkeyed hstage⟩
  case answer =>
    intro d c s halive hc hlen hlt hmode hjob
    exact ⟨_, rfl, doLinkKx_answers halive hc hlen hlt hmode hjob⟩

end Sys2Proof

/-! ### The configuration of HOST in force, and what a message on a free session sends -/

namespace Sys2Proof.Machine
set_option Elab.async false

/-- What HOST_CONFIG and its revert change of HOST. -/
def HostPort.setting (h : HostPort) : HostCfg × Nat × Bool × Option (HostCfg × Nat × Nat) × Option HostNext :=
  (h.cfg, h.cak, h.secured, h.previous, h.next)

theorem watchBuffers_setting (s : State) : s.watchBuffers.host.setting = s.host.setting := by
  unfold State.watchBuffers
  dsimp only
  split <;> rfl

theorem hostBegin_setting (s : State) : s.hostBegin.host.setting = s.host.setting := by
  unfold State.hostBegin
  dsimp only
  split <;> split <;> rfl

theorem setHost_setting (s : State) (c : HostCfg) (cak : Nat) : (s.setHost c cak).host.setting = (s.host.apply c cak).setting := by
  unfold State.setHost
  dsimp only
  rw [hostBegin_setting, watchBuffers_setting]
  split <;> rfl

theorem sendAck_setting (s : State) (n : Nat) : (s.sendAck n).host.setting = s.host.setting := by
  unfold State.sendAck
  split
  · rfl
  · split <;> rfl

theorem reopen_setting (s : State) (n : Nat) : (s.reopen n).host.setting = s.host.setting := by
  unfold State.reopen
  split
  · rfl
  · split
    · exact sendAck_setting s n
    · rfl

theorem turnHost_of_none {s : State} (h : s.host.next = none) : s.turnHost = s := by
  unfold State.turnHost
  rw [h]

/-- What stands once a session has sent what its window allows, before HOST turns to a new configuration. -/
def State.pumped (s : State) (n : Nat) (x : Session) : State :=
  ({ s.modSession n (fun _ => (x.pump s.hub.timer).1) with out := s.out ++ (x.pump s.hub.timer).2.map (s.frameOut x) } : State).modHost
    (fun h => { h with sent := hostCount h.sent (x.pump s.hub.timer).2.length })

theorem pump_eq {s : State} {n : Nat} {x : Session} (hx : s.session? n = some x) (hsends : s.hostSends = true) : s.pump n = (s.pumped n x).turnHost := by
  unfold State.pump
  rw [hx]
  simp only [hsends]
  rfl

theorem pump_held {s : State} (h : s.hostSends = false) (n : Nat) : s.pump n = s := by
  unfold State.pump
  split
  · rfl
  · simp [h]

theorem pump_setting {s : State} (h : s.host.next = none) (n : Nat) : (s.pump n).host.setting = s.host.setting := by
  cases hsends : s.hostSends with
  | false => rw [pump_held hsends]
  | true =>
    cases hx : s.session? n with
    | none => unfold State.pump; rw [hx]
    | some x =>
      rw [pump_eq hx hsends, turnHost_of_none (s := s.pumped n x) h]
      rfl

/-- A configuration whose answer has left comes into force, on trial where it requires MACsec that does not stand. -/
theorem turnHost_of_left {v : State} {k : HostNext} {y : Session} (hn : v.host.next = some k) (hy : v.session? k.session = some y)
    (hleft : y.tx.waiting = []) : v.turnHost = (v.setHost k.cfg k.cak).modHost (fun h =>
      { h with previous := if h.cfg.macsecReq && !h.secured then some (v.host.cfg, v.host.cak, v.hub.timer + 2 ^ 28) else none }) := by
  unfold State.turnHost
  rw [hn]
  dsimp only
  rw [hy, if_neg (by simp [hleft])]

theorem next_of_setting {h g : HostPort} (heq : h.setting = g.setting) : h.next = g.next := congrArg (fun p => p.2.2.2.2) heq

theorem pumpAll_setting {s : State} (h : s.host.next = none) : s.pumpAll.host.setting = s.host.setting := by
  have go (l : List Nat) : ∀ u : State, u.host.next = none → (l.foldl (fun s n => s.pump n) u).host.setting = u.host.setting := by
    induction l with
    | nil => exact fun _ _ => rfl
    | cons n l ih =>
      intro u hu
      have hpump := pump_setting hu n
      exact (ih _ ((next_of_setting hpump).trans hu)).trans hpump
  exact go _ s h

theorem Sends.pumpAll (s : State) : Sends s s.pumpAll := by
  have go (l : List Nat) : ∀ u : State, Sends u (l.foldl (fun s n => s.pump n) u) := by
    induction l with
    | nil => exact Sends.refl
    | cons n l ih => exact fun u => (Sends.pump u n).trans (ih _)
  exact go _ s

theorem session?_replaced {s : State} {n : Nat} {x y : Session} (hx : s.session? n = some x) (hy : y.number = n) :
    (s.modSession n (fun _ => y)).session? n = some y := by
  have hkeep : s.modSession n (fun _ => y) = s.modSession n (fun z => if z.number = n then y else z) := by
    simp only [State.modSession]
    congr 2
    funext z
    split <;> rfl
  rw [hkeep, State.session?_modSession s n n _ (fun z => by split <;> simp_all), hx]
  simp [State.session?_number hx]

theorem headerBytes_length (opcode : Nat) (ans dev : Bool) (ctx ctxGen tag length status arg0 : Nat) :
    (headerBytes opcode ans dev ctx ctxGen tag length status arg0).length = 32 := by
  simp [headerBytes, toLe_length]

/-- A message no longer than a segment is one segment. -/
theorem enqueue_short (x : Session) {bs : Bytes} (h : bs.length ≤ 2 ^ x.segLog2) :
    (x.enqueue bs).tx.waiting = x.tx.waiting ++ [{ msg := x.tx.nextMsg, off := 0, slen := bs.length, last := true, data := bs }] := by
  have hcut : segmentsOf x.tx.nextMsg (2 ^ x.segLog2) (bs.length / 2 ^ x.segLog2 + 1) 0 bs =
      [{ msg := x.tx.nextMsg, off := 0, slen := bs.length, last := true, data := bs }] := by
    rw [segmentsOf, List.drop_eq_nil_of_le h, List.take_of_length_le h]
    rfl
  exact congrArg (x.tx.waiting ++ ·) hcut

/-- A session with nothing waiting and room in its window sends a short message at once. -/
theorem pump_enqueue_waiting {x : Session} {bs : Bytes} (hwait : x.tx.waiting = []) (hroom : x.tx.unacked.length < min x.tx.window 1024)
    (hshort : bs.length ≤ 2 ^ x.segLog2) (now : Nat) : ((x.enqueue bs).pump now).1.tx.waiting = [] := by
  have hseg := enqueue_short x hshort
  rw [hwait, List.nil_append] at hseg
  show ((x.enqueue bs).tx.waiting.drop (min x.tx.window 1024 - x.tx.unacked.length)) = []
  rw [hseg]
  exact List.drop_eq_nil_of_le (by simp only [List.length_singleton]; omega)

end Sys2Proof.Machine

/-! ### HOST_CONFIG -/

namespace Sys2Proof.Machine
set_option Elab.async false

/-- The state once a configuration waits for the answer to its request. -/
def State.awaitCfg (s : State) (x : Session) (w : Nat) : State :=
  s.modHost (fun h => { h with next := some { cfg := hostCfgOf w, cak := if field w 511 256 = 0 then h.cak else field w 511 256, session := x.number, msg := x.tx.nextMsg } })

theorem takeMail_hostSends (s : State) (op : Opcode) (m : Msg) : (s.takeMail op m).hostSends = s.hostSends := by
  obtain ⟨_, _, hhost⟩ := takeMail_host s op m
  obtain ⟨_, _, _, hmail⟩ := Sends.takeMail s op m
  unfold State.hostSends
  rw [hhost]
  rw [hmail]
  rfl

/-- While HOST may not send, an answer leaves it as it is. -/
theorem answer_held {u : State} (h : u.hostSends = false) (op : Opcode) (m : Msg) (r : Reply) : (u.answer op m r).host.setting = u.host.setting := by
  have hsend (v : State) (hv : v.hostSends = false) (n o : Nat) (a d : Bool) (c g tg st ar : Nat) (bs : Bytes) :
      (v.send n o a d c g tg st ar bs).host = v.host := by
    unfold State.send
    split
    · rfl
    · refine Eq.trans (congrArg State.host (pump_held ?_ n)) ?_
      · exact hv
      · rfl
  unfold State.answer
  dsimp only
  rw [reopen_setting]
  split
  · exact congrArg HostPort.setting (hsend (u.modSession m.session _) h ..)
  · rw [hsend _ h]

/-- HOST_CONFIG in order answers OK, and its configuration waits for the answer. -/
theorem doHostConfig_ok {m : Msg} {s : State} {x : Session} {w : Nat} (hrole : x.role = .management) (hlen : m.length = 80)
    (hw : w = ofLe (slice m.payload 0 80)) (hlow : anySet w 15 13 = false) (hhigh : anySet w 127 96 = false) (h6 : (hostCfgOf w).ip6Plen ≤ 128)
    (h4 : (hostCfgOf w).ip4Plen ≤ 32) (hreq : (hostCfgOf w).macsecReq = true → (hostCfgOf w).macsec = true)
    (hsec : (hostCfgOf w).macsec = true → x.has fMacsec = true ∧ field w 511 256 ≠ 0) :
    doHostConfig m s x = (s.awaitCfg x w, some (.of .ok)) := by
  subst hw
  have hcfg : ((hostCfgOf (ofLe (slice m.payload 0 80))).macsecReq && !(hostCfgOf (ofLe (slice m.payload 0 80))).macsec) = false := by
    rw [Bool.and_eq_false_iff]
    by_cases h : (hostCfgOf (ofLe (slice m.payload 0 80))).macsecReq = true
    · exact Or.inr (by simp [hreq h])
    · exact Or.inl (by simpa using h)
  have hkeyed : ((hostCfgOf (ofLe (slice m.payload 0 80))).macsec && (!x.has fMacsec || (s.host.cak == 0 && field (ofLe (slice m.payload 0 80)) 511 256 == 0))) = false := by
    rw [Bool.and_eq_false_iff]
    by_cases h : (hostCfgOf (ofLe (slice m.payload 0 80))).macsec = true
    · obtain ⟨hhas, hkey⟩ := hsec h
      exact Or.inr (by simp [hhas, hkey])
    · exact Or.inl (by simpa using h)
  unfold doHostConfig
  dsimp only
  rw [hcfg, hkeyed]
  simp only [hrole, hlen, hlow, hhigh, h6, h4, firstOf, bne_self_eq_false, ne_eq, not_true_eq_false, decide_false, Bool.or_self, Nat.not_lt.mpr]
  rfl

/-- What stands of HOST when the answer to HOST_CONFIG has left: the configuration is in force. -/
theorem answer_turns {u : State} {m : Msg} {x : Session} {w : Nat} (hx : u.session? m.session = some x) (hsends : u.hostSends = true)
    (hwait : x.tx.waiting = []) (hroom : x.tx.unacked.length < min x.tx.window 1024) (hseg : 5 ≤ x.segLog2) :
    ((u.awaitCfg x w).answer .hostConfig m (.of .ok)).host.setting =
      ((u.host.apply (hostCfgOf w) (if field w 511 256 = 0 then u.host.cak else field w 511 256)).cfg,
       (u.host.apply (hostCfgOf w) (if field w 511 256 = 0 then u.host.cak else field w 511 256)).cak,
       (u.host.apply (hostCfgOf w) (if field w 511 256 = 0 then u.host.cak else field w 511 256)).secured,
       if (hostCfgOf w).macsecReq && !(u.host.apply (hostCfgOf w) (if field w 511 256 = 0 then u.host.cak else field w 511 256)).secured then
         some (u.host.cfg, u.host.cak, u.hub.timer + 2 ^ 28) else none,
       none) := by
  have hnum := State.session?_number hx
  generalize hcak : (if field w 511 256 = 0 then u.host.cak else field w 511 256) = cak
  have hnext : (u.awaitCfg x w).host.next = some { cfg := hostCfgOf w, cak := cak, session := x.number, msg := x.tx.nextMsg } := by
    rw [← hcak]; rfl
  generalize hbs : headerBytes (Opcode.code .hostConfig) true false m.ctx m.ctxGen m.tag 0 (Status.code .ok) 0 ++ [] = bs
  have hlen : bs.length ≤ 2 ^ x.segLog2 := by
    rw [← hbs, List.append_nil, headerBytes_length]
    exact Nat.pow_le_pow_right (n := 2) (by decide) hseg
  generalize hv : ({ (u.awaitCfg x w).modSession m.session (fun y => y.enqueue bs) with
    out := u.out ++ [.message m.session (Opcode.code .hostConfig) true false m.ctx m.ctxGen m.tag (Status.code .ok) 0 []] } : State) = v
  have henq : v.session? m.session = some (x.enqueue bs) := by
    rw [← hv]
    refine (State.session?_modSession (u.awaitCfg x w) m.session m.session (fun y => y.enqueue bs) (fun _ => rfl)).trans ?_
    rw [show (u.awaitCfg x w).session? m.session = some x from hx]
    simp
  have hhost : v.host = (u.awaitCfg x w).host ∧ v.hostSends = true ∧ v.hub = u.hub := by rw [← hv]; exact ⟨rfl, hsends, rfl⟩
  obtain ⟨hvhost, hvsends, hvhub⟩ := hhost
  have hrun : (u.awaitCfg x w).answer .hostConfig m (.of .ok) = (v.pump m.session).reopen m.session := by
    unfold State.answer
    dsimp only
    rw [if_neg (by simp [Reply.of])]
    unfold State.send
    rw [show (u.awaitCfg x w).session? m.session = some x from hx, ← hv, ← hbs]
    rfl
  have hpumped : (v.pumped m.session (x.enqueue bs)).session? m.session = some ((x.enqueue bs).pump v.hub.timer).1 := session?_replaced henq hnum
  have hturn := turnHost_of_left (v := v.pumped m.session (x.enqueue bs)) (show v.host.next = _ by rw [hvhost, hnext]) ((congrArg _ hnum).trans hpumped)
    (pump_enqueue_waiting hwait hroom hlen v.hub.timer)
  have hset := setHost_setting (v.pumped m.session (x.enqueue bs)) (hostCfgOf w) cak
  have hcfg : ((v.pumped m.session (x.enqueue bs)).host.apply (hostCfgOf w) cak).setting = (u.host.apply (hostCfgOf w) cak).setting := by
    show (HostPort.apply v.host (hostCfgOf w) cak).setting = _
    rw [hvhost]
    rfl
  rw [hcfg] at hset
  have hold : (v.pumped m.session (x.enqueue bs)).host.cfg = u.host.cfg ∧ (v.pumped m.session (x.enqueue bs)).host.cak = u.host.cak ∧
      (v.pumped m.session (x.enqueue bs)).hub.timer = u.hub.timer := by
    refine ⟨?_, ?_, congrArg Hub.timer hvhub⟩
    · exact (congrArg HostPort.cfg hvhost :)
    · exact (congrArg HostPort.cak hvhost :)
  obtain ⟨hocfg, hocak, hotime⟩ := hold
  rw [hocfg, hocak, hotime] at hturn
  generalize (v.pumped m.session (x.enqueue bs)).setHost (hostCfgOf w) cak = z at *
  rw [hrun, reopen_setting, pump_eq henq hvsends, hturn]
  simp only [HostPort.setting, Prod.mk.injEq, State.modHost_host] at hset ⊢
  obtain ⟨h1, h2, h3, h4, h5⟩ := hset
  rw [h1, h2, h3, h5]
  exact ⟨rfl, rfl, rfl, rfl, rfl⟩

/-- MACSEC_REVERT_TIMEOUT at its deadline, with MACsec not secure. -/
theorem doMacsecRevert_reverts {s : State} {c : HostCfg} {k due : Nat} (halive : s.alive = true) (hprev : s.host.previous = some (c, k, due))
    (hdue : due ≤ s.hub.timer) (hsec : s.host.secured = false) :
    (doMacsecRevert s).host.cfg = c ∧ (doMacsecRevert s).host.cak = k ∧ (doMacsecRevert s).host.previous = none ∧
    (doMacsecRevert s).logs.recNo = s.logs.recNo + 1 ∧ (doMacsecRevert s).mem = s.mem ∧ (doMacsecRevert s).ctxs = s.ctxs ∧
    (doMacsecRevert s).otp = s.otp ∧ (doMacsecRevert s).vault = s.vault := by
  have hrun : doMacsecRevert s = ((s.setHost c k).notice 0xB 0 .ok dieHub).pumpAll := by
    unfold doMacsecRevert
    rw [hprev]
    simp [halive, hdue, hsec]
  have hset := setHost_setting s c k
  have hlogs := notice_recNo (s.setHost c k) 0xB 0 .ok dieHub
  obtain ⟨⟨_, lg, htold⟩, -⟩ := Told.notice (s.setHost c k) 0xB 0 .ok dieHub
  obtain ⟨_, _, _, hsent⟩ := Sends.setHost s c k
  generalize (s.setHost c k).notice 0xB 0 .ok dieHub = u at *
  have hu : u.host = (s.setHost c k).host := by rw [htold]
  rw [← hu] at hset
  have hpumped := (pumpAll_setting (next_of_setting hset)).trans hset
  obtain ⟨_, _, _, hpump⟩ := Sends.pumpAll u
  rw [hrun]
  refine ⟨congrArg (fun p => p.1) hpumped, congrArg (fun p => p.2.1) hpumped, congrArg (fun p => p.2.2.2.1) hpumped, ?_, ?_⟩
  · rw [hpump]
    exact hlogs.trans (by rw [hsent])
  · rw [hpump, htold, hsent]
    exact ⟨rfl, rfl, rfl, rfl⟩

end Sys2Proof.Machine

namespace Sys2Proof
open Machine
set_option Elab.async false

/-- HOST_CONFIG answers OK, and all but the sessions, HOST and what left stands. -/
theorem hostConfig_answers {m : Msg} {s : State} {x : Session} {w : Nat} (hadm : Admits s .hostConfig m x = true)
    (hbody : doHostConfig m (s.takeMail .hostConfig m) x = ((s.takeMail .hostConfig m).awaitCfg x w, some (.of .ok))) :
    ∃ t, exec (.hostConfig m) s = .next t ∧ t = ((s.takeMail .hostConfig m).awaitCfg x w).answer .hostConfig m (.of .ok) ∧
      Answered s t .hostConfig m (.of .ok) ∧ OnlySent s t := by
  obtain ⟨heq, hans⟩ := request_answered hadm hbody ⟨[], (List.append_nil _).symm⟩ (by
    rw [show ((s.takeMail .hostConfig m).awaitCfg x w).session? m.session = some x from session?_of_admits hadm]; rfl)
  exact ⟨_, congrArg Host.Outcome.next heq, rfl, hans,
    (((Sends.takeMail s .hostConfig m).trans (Sends.modHost _ _)).trans (Sends.answer _ .hostConfig m (.of .ok))).onlySent⟩

/-- Settles O22, by what HOST has in force once the answer has left, or at the deadline. -/
theorem hostConfigAndRevert : Obligations.HostConfigAndRevert := by
  refine ⟨?now, ?later, ?trial, ?revert⟩
  case now =>
    intro m x w s hadm hrole hlen hw hlow hhigh h6 h4 hsends hwait hroom hseg hmac hreq
    obtain ⟨t, ht, heq, hans, honly⟩ := hostConfig_answers hadm (doHostConfig_ok hrole hlen hw hlow hhigh h6 h4 (by simp [hreq]) (by simp [hmac]))
    obtain ⟨a, b, hhost⟩ := takeMail_host s .hostConfig m
    have hset := answer_turns (w := w) (session?_of_admits hadm) ((takeMail_hostSends ..).trans hsends) hwait hroom hseg
    rw [← heq, hhost] at hset
    simp only [HostPort.setting, Prod.mk.injEq] at hset
    obtain ⟨hc, hk, hs, hp, -⟩ := hset
    refine ⟨t, ht, hans, hc, hk, by rw [hp, hreq]; rfl, ?_, honly⟩
    rw [hs]
    simp [HostPort.apply, hmac]
  case later =>
    intro m x w s hadm hrole hlen hw hlow hhigh h6 h4 hsends hmac hreq
    obtain ⟨t, ht, heq, hans, honly⟩ := hostConfig_answers hadm (doHostConfig_ok hrole hlen hw hlow hhigh h6 h4 (by simp [hreq]) (by simp [hmac]))
    obtain ⟨a, b, hhost⟩ := takeMail_host s .hostConfig m
    have hset := answer_held (u := (s.takeMail .hostConfig m).awaitCfg x w) ((takeMail_hostSends s .hostConfig m).trans hsends) .hostConfig m (.of .ok)
    rw [← heq] at hset
    simp only [HostPort.setting, Prod.mk.injEq, State.awaitCfg, State.modHost_host, hhost] at hset
    obtain ⟨hc, hk, -, -, hn⟩ := hset
    exact ⟨t, ht, hans, hc, hk, hn, honly⟩
  case trial =>
    intro m x w s hadm hrole hlen hw hlow hhigh h6 h4 hsends hwait hroom hseg hmac hreq hhas hkey hsec
    obtain ⟨t, ht, heq, hans, honly⟩ := hostConfig_answers hadm (doHostConfig_ok hrole hlen hw hlow hhigh h6 h4 (fun _ => hmac) (fun _ => ⟨hhas, hkey⟩))
    obtain ⟨a, b, hhost⟩ := takeMail_host s .hostConfig m
    have hset := answer_turns (w := w) (session?_of_admits hadm) ((takeMail_hostSends ..).trans hsends) hwait hroom hseg
    rw [← heq, hhost] at hset
    simp only [HostPort.setting, Prod.mk.injEq] at hset
    obtain ⟨hc, hk, hs, hp, -⟩ := hset
    refine ⟨t, ht, hans, hc, by rw [hk]; simp [HostPort.apply, hkey], ?_, honly⟩
    rw [hp, hreq]
    obtain ⟨_, _, _, hmail⟩ := Sends.takeMail s .hostConfig m
    simp [HostPort.apply, hsec, hmail]
  case revert =>
    intro c k due s halive hprev hdue hsec
    exact ⟨_, rfl, doMacsecRevert_reverts halive hprev hdue hsec⟩

end Sys2Proof

/-! ### Rekeys, FEATURES and KEY_ROTATE -/

namespace Sys2Proof.Machine
set_option Elab.async false

theorem session?_changed {s : State} {n : Nat} {x : Session} (hx : s.session? n = some x) {f : Session → Session} (hf : ∀ y, (f y).number = y.number) :
    (s.modSession n f).session? n = some (f x) := by
  rw [State.session?_modSession s n n f hf, hx, Option.map_some, if_pos rfl]

/-- A rekey that was formed comes into force: new keys, flipped phases, counts at 0. -/
theorem Session.turn_of_next {y : Session} {i o : Bytes} (h : y.next = some (i, o)) :
    y.turn.keyIn = i ∧ y.turn.keyOut = o ∧ (y.turn.rx.kphase = !y.rx.kphase) ∧ (y.turn.tx.kphase = !y.tx.kphase) ∧ y.turn.rx.frames = 0 ∧
    y.turn.tx.frames = 0 ∧ y.turn.next = none ∧ y.turn.number = y.number := by
  unfold Session.turn
  rw [h]
  exact ⟨rfl, rfl, rfl, rfl, rfl, rfl, rfl, rfl⟩

theorem Session.turn_number (y : Session) : y.turn.number = y.number := by
  cases h : y.next with
  | none => unfold Session.turn; rw [h]
  | some p => exact (Session.turn_of_next h).2.2.2.2.2.2.2

theorem requestThen_of_hears {s : State} {op : Opcode} {m : Msg} {body : State → Session → State × Option Reply} {after : State → State}
    (h : s.hears op m = true) : s.requestThen op m body after = after (s.request op m body) := by
  unfold State.requestThen
  simp [h]

/-- An admitted request is of an open session. -/
theorem isOpen_of_hears {s : State} {op : Opcode} {m : Msg} (h : s.hears op m = true) : ∃ y, s.session? m.session = some y ∧ y.isOpen = true := by
  have hlisten : s.listens m.session = true := (Bool.and_eq_true _ _ ▸ h).1
  unfold State.listens at hlisten
  rw [Bool.and_eq_true] at hlisten
  cases hy : s.session? m.session with
  | none => rw [hy] at hlisten; simp at hlisten
  | some y => exact ⟨y, rfl, by rw [hy] at hlisten; exact hlisten.2⟩

/-- The session once the answer to a request has left stands as the home rule left it. -/
theorem answer_session {v : State} {n : Nat} {y : Session} (hy : v.session? n = some y) (op : Opcode) (m : Msg) (r : Reply) :
    ∃ z, (v.answer op m r).session? n = some z ∧ z.standing = y.standing := (SessionsStand.answer v op m r).session? hy

/-- What the session has once KEY_ROTATE has been noted. -/
theorem noteRotate_rotation (y : Session) (toHost : Bool) (now : Nat) : (y.noteRotate toHost now).rotation toHost = (true, now) := by
  cases toHost <;> rfl

/-- KEY_ROTATE is the newest entry of the device's ring, and the session notes it. -/
theorem raiseRotate_facts {s : State} {n : Nat} {x : Session} (hx : s.session? n = some x) (toHost again : Bool) (now : Nat) :
    (∃ y, ((s.raiseRotate n toHost again).modSession n (fun y => y.noteRotate toHost now)).session? n = some y ∧ y.rotation toHost = (true, now)) ∧
    (s.raiseRotate n toHost again).logs.ring.getLast? = some
      { rseq := s.logs.rseq, event := .keyRotate, status := .ok,
        body := toLe 64 (x.keyFrames toHost % 2 ^ 64 + toHost.toNat * 2 ^ 64 + again.toNat * 2 ^ 65), dest := some n } ∧
    (s.raiseRotate n toHost again).logs.rseq = s.logs.rseq + 1 ∧ Told s (s.raiseRotate n toHost again) := by
  have hover : s.overwrite.logs.rseq = s.logs.rseq := by
    unfold State.overwrite
    split
    · rfl
    · split
      · rfl
      · dsimp only
        split <;> rfl
  have hrun : s.raiseRotate n toHost again = s.raiseTo (some n) .keyRotate .ok
      (toLe 64 (x.keyFrames toHost % 2 ^ 64 + toHost.toNat * 2 ^ 64 + again.toNat * 2 ^ 65)) := by
    unfold State.raiseRotate
    rw [hx]
  have htold := Told.raiseTo s (some n) .keyRotate .ok (toLe 64 (x.keyFrames toHost % 2 ^ 64 + toHost.toNat * 2 ^ 64 + again.toNat * 2 ^ 65))
  rw [← hrun] at htold
  have hsession : ∃ z, (s.raiseRotate n toHost again).session? n = some z := by
    have hfind (l : List Session) : (l.map (fun x => { x with ownLost := 0 })).find? (fun x => x.number == n) =
        (l.find? (fun x => x.number == n)).map (fun x => { x with ownLost := 0 }) := by
      rw [List.find?_map]; rfl
    have heq := congrArg (fun l => l.find? (fun x => x.number == n)) htold.2
    rw [hfind, hfind, show s.sessions.find? (fun x => x.number == n) = some x from hx] at heq
    obtain ⟨z, hz, -⟩ := Option.map_eq_some_iff.mp heq
    exact ⟨z, hz⟩
  obtain ⟨z, hz⟩ := hsession
  refine ⟨⟨z.noteRotate toHost now, ?_, noteRotate_rotation ..⟩, ?_, ?_, htold⟩
  · exact session?_changed hz (fun y => by cases toHost <;> rfl)
  · rw [hrun]
    show ((s.overwrite.logs.raise _ _ _ _).ring).getLast? = _
    unfold Logs.raise
    simp [hover]
  · rw [hrun]
    exact congrArg (· + 1) hover

end Sys2Proof.Machine

namespace Sys2Proof
open Machine
set_option Elab.async false

/-- Settles O18, by what each request leaves of its session, and the entry that KEY_ROTATE adds to the ring. -/
theorem rekeyAndFeaturesChangeTheirSession : Obligations.RekeyAndFeaturesChangeTheirSession := by
  refine ⟨?rekey, ?features, ?rotate, ?again⟩
  case rekey =>
    intro m x s hadm harg hlen
    have hhears := ((admits_iff s .keyExchange m x).mp hadm).1
    obtain ⟨y, hy, hopen⟩ := isOpen_of_hears hhears
    obtain ⟨ses, o, p, hmail⟩ := Sends.takeMail s .keyExchange m
    have hsession := session?_of_admits hadm
    generalize hks : kmac256 (x.keyIn ++ sharedOfAnswer (s.draw 88).2 m.payload) x.transcript "QUEKO REKEY" 64 = ks
    have hdraw : ((s.takeMail .keyExchange m).draw 88).2 = (s.draw 88).2 := by rw [hmail]; rfl
    have hbody : doRekey m (s.takeMail .keyExchange m) x = (((s.takeMail .keyExchange m).draw 88).1.modSession m.session
        (fun y => { y with next := some (ks.take 32, ks.drop 32) }), some { status := .ok, payload := exchangeAnswer (s.draw 88).2 m.payload }) := by
      unfold doRekey
      rw [show exchangeCheck m true = none by simp [exchangeCheck, firstOf, harg, hlen]]
      dsimp only
      rw [hdraw, hks]
    have hnext : (((s.takeMail .keyExchange m).draw 88).1.modSession m.session
        (fun y => { y with next := some (ks.take 32, ks.drop 32) })).session? m.session = some { x with next := some (ks.take 32, ks.drop 32) } :=
      session?_changed (s := ((s.takeMail .keyExchange m).draw 88).1) hsession (fun _ => rfl)
    have hkeep : ∃ ses o p, (((s.takeMail .keyExchange m).draw 88).1.modSession m.session
        (fun y => { y with next := some (ks.take 32, ks.drop 32) })) = { (s.draw 88).1 with sessions := ses, out := o, host := p } := by
      rw [hmail]; exact ⟨_, _, _, rfl⟩
    obtain ⟨heq, hans⟩ := request_answered hadm hbody ⟨[], (List.append_nil _).symm⟩ (by rw [hnext]; rfl)
    generalize ((s.takeMail .keyExchange m).draw 88).1.modSession m.session (fun y => { y with next := some (ks.take 32, ks.drop 32) }) = v at *
    obtain ⟨z, hz, hstand⟩ := answer_session hnext .keyExchange m { status := .ok, payload := exchangeAnswer (s.draw 88).2 m.payload }
    have hznext : z.next = some (ks.take 32, ks.drop 32) := congrArg Session.next hstand
    obtain ⟨hin, hout, hrx, htx, hrf, htf, hnone, -⟩ := Session.turn_of_next hznext
    have hrun : doKeyExchange m s = (v.answer .keyExchange m { status := .ok, payload := exchangeAnswer (s.draw 88).2 m.payload }).modSession m.session Session.turn := by
      unfold doKeyExchange
      rw [if_neg (by simp [hy, hopen]), requestThen_of_hears hhears, heq]
    refine ⟨_, congrArg Host.Outcome.next hrun, hans, ?_, z.turn, ?_, hin, hout, ?_, ?_, hrf, htf, hnone⟩
    · obtain ⟨_, _, _, hsent⟩ := Sends.answer v .keyExchange m { status := .ok, payload := exchangeAnswer (s.draw 88).2 m.payload }
      obtain ⟨_, _, _, rfl⟩ := hkeep
      rw [hsent]
      rfl
    · exact session?_changed hz Session.turn_number
    · rw [hrx, show z.rx.kphase = x.rx.kphase from (congrArg (fun y : Session => y.rx.kphase) hstand :)]
    · rw [htx, show z.tx.kphase = x.tx.kphase from (congrArg (fun y : Session => y.tx.kphase) hstand :)]
  case features =>
    intro m x s hadm hlen
    have hsession := session?_of_admits hadm
    obtain ⟨_, _, _, hmail⟩ := Sends.takeMail s .features m
    have hbody : doFeatures m (s.takeMail .features m) x = ((s.takeMail .features m).modSession m.session
        (fun y => { y with features := x.features &&& ofLe (slice m.payload 0 16) }),
        some { status := .ok, payload := toLe 16 (x.features &&& ofLe (slice m.payload 0 16)) }) := by
      unfold doFeatures
      rw [if_neg (by simp [hlen])]
    have hset : ((s.takeMail .features m).modSession m.session (fun y => { y with features := x.features &&& ofLe (slice m.payload 0 16) })).session?
        m.session = some { x with features := x.features &&& ofLe (slice m.payload 0 16) } :=
      session?_changed hsession (fun _ => rfl)
    obtain ⟨heq, hans⟩ := request_answered hadm hbody ⟨[], (List.append_nil _).symm⟩ (by rw [hset]; rfl)
    obtain ⟨z, hz, hstand⟩ := answer_session hset .features m { status := .ok, payload := toLe 16 (x.features &&& ofLe (slice m.payload 0 16)) }
    refine ⟨_, congrArg Host.Outcome.next heq, hans, ?_, z, hz, congrArg Session.features hstand⟩
    exact (((Sends.takeMail s .features m).trans (Sends.modSession _ _ _)).trans (Sends.answer _ .features m _)).onlySent
  case rotate =>
    intro n toHost x s halive hx hopen hframes hfirst
    obtain ⟨⟨y, hy, hrot⟩, hring, hrseq, ⟨_, _, htold⟩, -⟩ := raiseRotate_facts hx toHost false 0
    have hrun : doKeyRotate n toHost s = (s.raiseRotate n toHost false).modSession n (fun y => y.noteRotate toHost 0) := by
      unfold doKeyRotate
      rw [hx]
      simp only [halive, hopen, hframes, hfirst, decide_true, Bool.not_false, Bool.and_self, if_true]
    refine ⟨_, congrArg Host.Outcome.next hrun, ⟨y, hy, by rw [hrot]⟩, ?_, hrseq, ?_⟩
    · exact hring.trans (by cases toHost <;> rfl)
    · rw [htold]
      exact ⟨rfl, rfl, rfl⟩
  case again =>
    intro n toHost x s halive hx hopen hframes hlast
    obtain ⟨⟨y, hy, hrot⟩, hring, hrseq, ⟨_, _, htold⟩, -⟩ := raiseRotate_facts hx toHost true s.hub.timer
    have hdue : ((x.rotation toHost).2 == 0 || decide ((x.rotation toHost).2 + 2 ^ 26 ≤ s.hub.timer)) = true := by simpa using hlast
    have hrun : doKeyRotateRepeat n toHost s = (s.raiseRotate n toHost true).modSession n (fun y => y.noteRotate toHost s.hub.timer) := by
      unfold doKeyRotateRepeat
      rw [hx]
      simp only [halive, hopen, hframes, hdue, decide_true, Bool.and_self, if_true]
    refine ⟨_, congrArg Host.Outcome.next hrun, ⟨y, hy, hrot⟩, ?_, hrseq, ?_⟩
    · exact hring.trans (by cases toHost <;> rfl)
    · rw [htold]
      exact ⟨rfl, rfl, rfl⟩

end Sys2Proof

/-! ### EVENT requests of the device's ring -/

namespace Sys2Proof.Machine
set_option Elab.async false

/-- A request with entries of the device's ring on the management session. -/
theorem sendEvent_facts {s : State} {n tg : Nat} {x : Session} {es : List Entry} {again : Nat} (hx : s.session? n = some x)
    (hrole : x.role = .management) (htag : s.ledger.freeTag hubTags 4096 = some tg) :
    ∃ t y r et, s.sendEvent n none es again = some t ∧ t.session? n = some y ∧
      (y.events = x.events ++ [r] ∧ r.tag = tg ∧ r.ctx = none ∧ r.entries = es ∧ r.deadline = s.hub.timer + 2 ^ 26 ∧ r.answered = false ∧ y.ownLost = 0) ∧
      t.ledger = s.ledger.issue tg (.event n tg) none (some (s.hub.timer + 2 ^ 26)) ∧ t.logs = { s.logs with lost := 0 } ∧
      Out.message n Opcode.event.code false true 0 0 et 0 (es.length + min (again + s.logs.lost + x.ownLost) (2 ^ 32 - 1) * 2 ^ 32)
        (es.flatMap Entry.bytes) ∈ t.out.drop s.out.length ∧ t.mem = s.mem ∧ t.ctxs = s.ctxs := by
  let l := s.ledger.issue tg (.event n tg) none (some (s.hub.timer + 2 ^ 26))
  let lost := min (again + s.logs.lost + x.ownLost) (2 ^ 32 - 1)
  let r : EventReq := { tag := tg, gen := l.genOf tg, ctx := none, ctxGen := 0, entries := es, lost := lost, deadline := s.hub.timer + 2 ^ 26 }
  let u := ({ s with ledger := l, logs := { s.logs with lost := s.logs.lost - s.logs.lost } } : State).modSession n
    (fun y => { y with events := y.events ++ [r], ownLost := y.ownLost - x.ownLost })
  have hrun : s.sendEvent n none es again = some (u.send n Opcode.event.code false true 0 0 (eventTag tg (l.genOf tg)) 0 (es.length + lost * 2 ^ 32)
      (es.flatMap Entry.bytes)) := by
    unfold State.sendEvent
    rw [hx]
    dsimp only
    rw [htag]
    dsimp only [Option.map, Option.isNone]
    rw [if_pos (⟨hrole, rfl⟩ : x.role = .management ∧ true = true)]
    rfl
  have hu : u.session? n = some { x with events := x.events ++ [r], ownLost := x.ownLost - x.ownLost } :=
    session?_changed (s := { s with ledger := l, logs := { s.logs with lost := s.logs.lost - s.logs.lost } }) hx (fun _ => rfl)
  obtain ⟨y, hy, hstand⟩ := (SessionsStand.send u n Opcode.event.code false true 0 0 (eventTag tg (l.genOf tg)) 0 (es.length + lost * 2 ^ 32)
    (es.flatMap Entry.bytes)).session? hu
  obtain ⟨o, hout⟩ := State.send_leaves hu Opcode.event.code false true 0 0 (eventTag tg (l.genOf tg)) 0 (es.length + lost * 2 ^ 32) (es.flatMap Entry.bytes)
  obtain ⟨_, _, _, hsent⟩ := Sends.send u n Opcode.event.code false true 0 0 (eventTag tg (l.genOf tg)) 0 (es.length + lost * 2 ^ 32) (es.flatMap Entry.bytes)
  have hevents : y.events = x.events ++ [r] := (congrArg Session.events hstand :)
  have hlost : y.ownLost = x.ownLost - x.ownLost := (congrArg Session.ownLost hstand :)
  refine ⟨_, y, r, eventTag tg (l.genOf tg), hrun, hy, ⟨hevents, rfl, rfl, rfl, rfl, rfl, by rw [hlost, Nat.sub_self]⟩, ?_, ?_, ?_, ?_⟩
  · rw [hsent]; rfl
  · rw [hsent]
    show ({ s.logs with lost := s.logs.lost - s.logs.lost } : Logs) = _
    rw [Nat.sub_self]
  · rw [hout]
    show _ ∈ (s.out ++ _).drop s.out.length
    rw [List.drop_left]
    exact List.mem_cons_self
  · rw [hsent]; exact ⟨rfl, rfl⟩

/-- Watching the buffers may let HOST send a pause, and nothing else. -/
theorem watchBuffers_out (s : State) : ∃ o h, s.watchBuffers = { s with out := s.out ++ o, host := h } ∧ ∀ x ∈ o, ∃ b, x = Out.pfc s.host.cfg.pfc b := by
  unfold State.watchBuffers
  dsimp only
  split
  · exact ⟨[], s.host, by simp, by simp⟩
  · exact ⟨_, _, rfl, fun x hx => ⟨_, List.mem_singleton.mp hx⟩⟩

/-- An answer OK to a request of the device's ring. -/
theorem doEventAnswer_ok {m : Msg} {s : State} {x : Session} {e : EventReq} (hlisten : s.listens m.session = true) (hx : s.session? m.session = some x)
    (hquiet : s.links.leases.all (fun l => !l.probeDue) = true) (hstatus : m.status = 0)
    (he : x.events.find? (fun r => r.tag == m.tag % 2 ^ 14 && r.gen == m.tag / 2 ^ 14 && !r.answered) = some e) (hctx : e.ctx = none) :
    ∃ t, doEventAnswer m s = t ∧ t.logs.ring = s.logs.ring.filter (fun k => !k.goesTo x || decide (min m.arg0 s.logs.rseq ≤ k.rseq)) ∧
      t.ledger = s.ledger.free (m.tag % 2 ^ 14) ∧
      (∃ y, t.session? m.session = some y ∧ y.events = x.events.filter (fun r => !(r.tag == e.tag && r.gen == e.gen))) ∧
      t.mem = s.mem ∧ t.ctxs = s.ctxs ∧ (∀ o ∈ t.out.drop s.out.length, ∃ b, o = Out.pfc s.host.cfg.pfc b) := by
  generalize hv : s.modSession m.session (fun x => { x with rx := { x.rx with mailbox := dropFirst (eventAnswerCode, m) x.rx.mailbox } }) = v
  have hvx : v.session? m.session = some { x with rx := { x.rx with mailbox := dropFirst (eventAnswerCode, m) x.rx.mailbox } } := by
    rw [← hv]
    exact session?_changed hx (fun _ => rfl)
  obtain ⟨o, h, hwatch, hpause⟩ := watchBuffers_out v
  have hprobe (u : State) (hu : u.links = s.links) : u.dueProbes = u := by
    unfold State.dueProbes
    rw [hu, List.filter_eq_nil_iff.mpr (fun l hl => by simpa using List.all_eq_true.mp hquiet l hl)]
    rfl
  have hvlinks : v.links = s.links := by rw [← hv]; rfl
  have hfree : (v.watchBuffers.freeTag (m.tag % 2 ^ 14)).dueProbes = v.watchBuffers.freeTag (m.tag % 2 ^ 14) :=
    hprobe _ (by rw [hwatch]; exact hvlinks)
  have hsession : v.watchBuffers.session? m.session = some { x with rx := { x.rx with mailbox := dropFirst (eventAnswerCode, m) x.rx.mailbox } } := by
    rw [hwatch]; exact hvx
  have hrun : doEventAnswer m s = ((v.watchBuffers.freeTag (m.tag % 2 ^ 14)).endEvent m.session e).consumeDevice
      { x with rx := { x.rx with mailbox := dropFirst (eventAnswerCode, m) x.rx.mailbox } } m.arg0 := by
    unfold doEventAnswer
    rw [hv]
    simp only [hlisten, hsession, he, hfree, hstatus, hctx]
    rfl
  refine ⟨_, hrun, ?_, ?_, ⟨_, session?_changed (s := v.watchBuffers.freeTag (m.tag % 2 ^ 14)) hsession (fun _ => rfl), rfl⟩, ?_, ?_, ?_⟩
  · rw [hwatch, ← hv]; rfl
  · rw [hwatch, ← hv]; rfl
  · rw [hwatch, ← hv]; rfl
  · rw [hwatch, ← hv]; rfl
  · have hvout : v.out = s.out ∧ v.host = s.host := by rw [← hv]; exact ⟨rfl, rfl⟩
    obtain ⟨hvo, hvh⟩ := hvout
    rw [hwatch]
    show ∀ y ∈ (v.out ++ o).drop s.out.length, _
    rw [hvo, List.drop_left, ← hvh]
    exact hpause

end Sys2Proof.Machine

namespace Sys2Proof
open Machine
set_option Elab.async false

/-- Settles O21, by what a request with entries, an answer and the timer leave of the session, the Ledger and the ring. -/
theorem eventsGoToManagement : Obligations.EventsGoToManagement := by
  refine ⟨?send, ?answer, ?resend⟩
  case send =>
    intro n x tg s halive htrial hx hopen hrole hfew hsome htag
    obtain ⟨t, y, r, et, ht, hy, ⟨hevents, hrtag, hrctx, hrent, hrdead, hrans, hlost⟩, hledger, hlogs, hout, hmem, hctxs⟩ :=
      sendEvent_facts (es := (s.deviceEntries x).take 818) (again := 0) hx hrole htag
    have hrun : doEventSend n none s = t.noteSent n (pastLast ((s.deviceEntries x).take 818)) (x.role == .management) := by
      unfold doEventSend
      rw [hx]
      dsimp only
      rw [if_neg (by simp [halive, htrial, hopen]; omega), if_neg (by simpa using hsome), ht]
    have hnoted : ∃ lg, t.noteSent n (pastLast ((s.deviceEntries x).take 818)) (x.role == .management) =
        { t.modSession n (fun y => { y with ownSent := max y.ownSent (pastLast ((s.deviceEntries x).take 818)) }) with logs := { t.logs with sent := lg } } := by
      unfold State.noteSent
      rw [hrole]
      exact ⟨_, rfl⟩
    obtain ⟨lg, hnoted⟩ := hnoted
    refine ⟨_, congrArg Host.Outcome.next (hrun.trans hnoted), ⟨_, session?_changed hy (fun _ => rfl), r, hevents, hrtag, hrctx, hrent, hrdead, hrans, hlost⟩,
      ?_, ?_, ?_, ⟨et, ?_⟩, hmem, hctxs⟩
    · show ∃ k ∈ t.ledger.entries, _
      rw [hledger]
      exact ⟨_, List.mem_cons_self, rfl, rfl⟩
    · exact (congrArg Logs.lost hlogs :)
    · exact (congrArg Logs.ring hlogs :)
    · rw [Nat.zero_add] at hout
      exact hout
  case answer =>
    intro m x e s hlisten hx hrole hquiet hstatus he hctx
    obtain ⟨t, ht, hfacts⟩ := doEventAnswer_ok hlisten hx hquiet hstatus he hctx
    exact ⟨t, congrArg Host.Outcome.next ht, hfacts⟩
  case resend =>
    intro n tag tg x e s halive htrial hx hrole he hctx hans hsome htag
    have hended : (({ s with ledger := s.ledger.expire tag s.hub.timer } : State).endEvent n e).session? n =
        some { x with events := x.events.filter (fun r => !(r.tag == e.tag && r.gen == e.gen)) } :=
      session?_changed (s := { s with ledger := s.ledger.expire tag s.hub.timer }) hx (fun _ => rfl)
    obtain ⟨t, y, r, et, ht, hy, ⟨hevents, hrtag, -, hrent, hrdead, -, -⟩, hledger, hlogs, -, hmem, hctxs⟩ :=
      sendEvent_facts (s := ({ s with ledger := s.ledger.expire tag s.hub.timer } : State).endEvent n e) (es := s.unconsumed x e) (again := e.lost)
        hended hrole htag
    have hrun : doEventResend n tag s = t := by
      unfold doEventResend
      rw [hx]
      dsimp only
      rw [he]
      dsimp only
      rw [if_neg (by simp [halive, htrial]), if_neg (by simpa using hsome), if_pos (by simp [State.maySpeak, hctx]), hans, hctx]
      simp only [Bool.false_eq_true, if_false, Option.bind_none]
      rw [ht]
    refine ⟨t, congrArg Host.Outcome.next hrun, ⟨y, hy, r, by rw [hevents]; simp, hrtag, hrent, hrdead⟩, ?_, hmem, hctxs, (congrArg Logs.ring hlogs :)⟩
    intro k hk hktag hne
    rw [hledger] at hk
    rcases List.mem_cons.mp hk with rfl | hk
    · exact absurd hktag.symm hne
    · obtain ⟨j, -, rfl⟩ := List.mem_map.mp hk
      by_cases hj : j.tag = tag
      · rw [if_pos hj]
      · rw [if_neg hj] at hktag
        exact absurd hktag hj

end Sys2Proof

/-! ### What no reset, teardown or report touches: which contexts, sessions and waits there are -/

namespace Sys2Proof.Machine
set_option Elab.async false

theorem SessionsStand.gen {s t : State} (h : SessionsStand s t) (n : Nat) : (t.session? n).map (fun x => x.gen) = (s.session? n).map (fun x => x.gen) := by
  have hgen := congrArg (Option.map fun x => x.gen) (h n)
  rwa [Option.map_map, Option.map_map] at hgen

/-- What of a context its resets and its end go by. -/
def Ctx.line (c : Ctx) : Nat × Nat × CtxState × ResetCounts × Bool := (c.id, c.gen, c.res.state, c.counts, c.destroying)

/-- No context, session or key of a context comes, goes or changes its state; no wait comes, what had left stands in front, and nothing is
drawn. -/
structure Persist (s t : State) : Prop where
  lines : t.ctxs.map Ctx.line = s.ctxs.map Ctx.line
  sessions : ∀ n, (t.session? n).map (fun x => x.gen) = (s.session? n).map (fun x => x.gen)
  freed : t.sessionsFreed = s.sessionsFreed
  waits : ∀ w ∈ t.waits, w ∈ s.waits
  bank : t.vault.bank.map (fun b => b.ctx) = s.vault.bank.map (fun b => b.ctx)
  out : ∃ o, t.out = s.out ++ o
  random : t.hub.trng = s.hub.trng

namespace Persist

theorem refl (s : State) : Persist s s := ⟨rfl, fun _ => rfl, rfl, fun _ h => h, rfl, ⟨[], by simp⟩, rfl⟩

theorem trans {s t u : State} (h : Persist s t) (k : Persist t u) : Persist s u where
  lines := k.lines.trans h.lines
  sessions n := (k.sessions n).trans (h.sessions n)
  freed := k.freed.trans h.freed
  waits w hw := h.waits w (k.waits w hw)
  bank := k.bank.trans h.bank
  out := by
    obtain ⟨a, ha⟩ := h.out
    obtain ⟨b, hb⟩ := k.out
    exact ⟨a ++ b, by rw [hb, ha, List.append_assoc]⟩
  random := k.random.trans h.random

/-- A change of other parts of the state. -/
theorem of_eq {s t : State} (h : (t.ctxs, t.sessions, t.sessionsFreed, t.waits, t.vault.bank, t.out, t.hub.trng) =
    (s.ctxs, s.sessions, s.sessionsFreed, s.waits, s.vault.bank, s.out, s.hub.trng)) : Persist s t := by
  simp only [Prod.mk.injEq] at h
  obtain ⟨hc, hs, hf, hw, hb, ho, hr⟩ := h
  exact ⟨by rw [hc], fun n => by rw [State.session?, hs]; rfl, hf, fun w h => hw ▸ h, by rw [hb], ⟨[], by rw [ho, List.append_nil]⟩, hr⟩

theorem modCtx (s : State) (id : Nat) (f : Ctx → Ctx) (hf : ∀ c, (f c).line = c.line) : Persist s (s.modCtx id f) where
  lines := by
    show (s.ctxs.map _).map Ctx.line = _
    rw [List.map_map]
    refine List.map_congr_left fun c _ => ?_
    simp only [Function.comp_apply]
    split
    · exact hf c
    · rfl
  sessions _ := rfl
  freed := rfl
  waits _ h := h
  bank := rfl
  out := ⟨[], by simp [State.modCtx]⟩
  random := rfl

theorem foldl {α : Type} (f : State → α → State) (hf : ∀ s x, Persist s (f s x)) (l : List α) : ∀ s, Persist s (l.foldl f s) := by
  induction l with
  | nil => exact refl
  | cons x rest ih => exact fun s => (hf s x).trans (ih _)

theorem of_carried {s t : State} (h : Carried s t) : Persist s t := by
  obtain ⟨_, _, o, rfl⟩ := h
  exact ⟨rfl, fun _ => rfl, rfl, fun _ h => h, rfl, ⟨o, rfl⟩, rfl⟩

theorem of_spoilt {s t : State} (h : Spoilt s t) : Persist s t := by
  obtain ⟨_, _, rfl⟩ := h
  exact of_eq rfl

theorem of_released {s t : State} (h : Released s t) : Persist s t := by
  obtain ⟨⟨_, o, _, _, _, heq⟩, hwaits, hstand⟩ := h
  refine ⟨by rw [heq], fun n => ?_, by rw [heq], hwaits, by rw [heq], ⟨o, by rw [heq]⟩, by rw [heq]⟩
  exact hstand.gen n

theorem of_told {s t : State} (h : Told s t) : Persist s t := by
  obtain ⟨⟨_, _, heq⟩, hkept⟩ := h
  refine ⟨by rw [heq], fun n => ?_, by rw [heq], fun w hw => by rw [heq] at hw; exact hw, by rw [heq], ⟨[], by rw [heq, List.append_nil]⟩, by rw [heq]⟩
  have hfind (l : List Session) : (l.map (fun x => { x with ownLost := 0 })).find? (fun x => x.number == n) =
      (l.find? (fun x => x.number == n)).map (fun x => { x with ownLost := 0 }) := by
    rw [List.find?_map]; rfl
  have hgen := congrArg (fun l => (l.find? (fun x => x.number == n)).map (fun x => x.gen)) hkept
  rw [hfind, hfind, Option.map_map, Option.map_map] at hgen
  exact hgen

theorem modMem (s : State) (f : Memory → Memory) : Persist s (s.modMem f) := of_eq rfl

theorem modCells (s : State) (f : List Host.Cell → List Host.Cell) : Persist s (s.modCells f) := of_eq rfl

theorem modLinks (s : State) (f : Links → Links) : Persist s (s.modLinks f) := of_eq rfl

theorem modTile (s : State) (n : Nat) (f : Tile → Tile) : Persist s (s.modTile n f) := of_eq rfl

theorem modShare (s : State) (i : Nat) (f : Share → Share) : Persist s (s.modShare i f) := of_eq rfl

theorem modFence (s : State) (i : Nat) (f : Fence → Fence) : Persist s (s.modFence i f) := of_eq rfl

/-- The sessions that there are stay. -/
theorem session?_isSome {s t : State} (h : Persist s t) (n : Nat) : (t.session? n).isSome = (s.session? n).isSome := by
  rw [← Option.isSome_map (f := fun x : Session => x.gen), h.sessions n, Option.isSome_map]

/-! #### Keys, memory and rings -/

theorem useKey {s t : State} {key : Bool × Nat} {n : Nat} (h : s.useKey key n = some t) : Persist s t := by
  unfold State.useKey at h
  split at h
  · split at h
    · cases h
    · split at h
      · cases h
      · cases h
        refine ⟨rfl, fun _ => rfl, rfl, fun _ h => h, ?_, ⟨[], by simp⟩, rfl⟩
        show (s.vault.bank.map _).map _ = _
        rw [List.map_map]
        refine List.map_congr_left fun b _ => ?_
        simp only [Function.comp_apply]
        split <;> rfl
  · split at h
    · cases h
    · split at h
      · cases h
      · cases h
        exact of_eq rfl

theorem useAnyway (s : State) (key : Bool × Nat) (n : Nat) : Persist s (s.useAnyway key n) := by
  unfold State.useAnyway
  cases h : s.useKey key n with
  | none => exact refl s
  | some t => exact useKey h

theorem writeSram (s : State) (a : Nat) (bs : Bytes) : Persist s (s.writeSram a bs).1 := by
  unfold State.writeSram
  dsimp only
  split
  · exact refl s
  · exact of_eq rfl

theorem hubWrite (s : State) (id a : Nat) (bs : Bytes) : Persist s (s.hubWrite id a bs) := by
  unfold State.hubWrite
  split
  · exact refl s
  · dsimp only
    split
    · exact writeSram ..
    · exact of_eq rfl
    · split
      · exact refl s
      · split
        · next t g ht _ => exact (useKey ht).trans (of_eq rfl)
        · exact refl s
    · exact refl s

theorem writeRing (s : State) (id first : Nat) : Persist s (s.writeRing id first) := by
  unfold State.writeRing
  split
  · exact refl s
  · exact foldl _ (fun s (e : Entry) => foldl _ (fun s (x : Nat × Bytes) => hubWrite s id x.1 x.2) _ s) _ s

theorem raiseCtx (s : State) (id : Nat) (ev : Event) (st : Status) (body : Bytes) : Persist s (s.raiseCtx id ev st body) := by
  refine (modCtx s id _ (fun c => ?_)).trans (writeRing ..)
  unfold Ctx.raise
  split
  · rfl
  · split
    · rfl
    · split <;> rfl

theorem fileFor (s : State) (e : ErrorRec) (toMgmt : Bool) (more : List Nat) : Persist s (s.fileFor e toMgmt more) := by
  unfold State.fileFor
  dsimp only
  split
  · exact of_eq rfl
  · refine Persist.trans ?_ (foldl _ (fun s id => raiseCtx s id _ _ _) more _)
    split
    · exact (of_eq rfl).trans (of_told (Told.raiseDevice ..))
    · exact of_eq rfl

theorem file (s : State) (e : ErrorRec) : Persist s (s.file e) := fileFor ..

theorem notice (s : State) (cause extra : Nat) (st : Status) (die : Nat) : Persist s (s.notice cause extra st die) := file ..

theorem burnRepair (s : State) (kind pos core index : Nat) : Persist s (s.burnRepair kind pos core index) := by
  unfold State.burnRepair
  split
  · exact of_eq rfl
  · exact notice ..

/-! #### Frames and moves -/

theorem logMove (s : State) (c : Ctx) (vp : Nat) (src dst : Option Nat) (why : Reason) : Persist s (s.logMove c vp src dst why) := by
  unfold State.logMove
  split
  · exact refl s
  · exact of_eq rfl

theorem logShared (s : State) (share k : Nat) (src dst : Option Nat) : Persist s (s.logShared share k src dst) := by
  unfold State.logShared
  split
  · exact refl s
  · split
    · exact logMove ..
    · exact refl s

theorem copyPage (s : State) (key : Bool × Nat) (src dest : Nat) : Persist s (s.copyPage key src dest) := by
  unfold State.copyPage
  dsimp only
  split <;> exact of_eq rfl

theorem healMirror (s : State) (f : Nat) : Persist s (s.healMirror f) := by
  unfold State.healMirror
  split
  · exact refl s
  · split
    · exact refl s
    · refine Persist.trans ?_ (logShared ..)
      refine Persist.trans ?_ (modShare ..)
      refine Persist.trans ?_ (copyPage ..)
      exact (useAnyway ..).trans (modMem ..)

theorem retire (s : State) (pfn : Nat) : Persist s (s.retire pfn) :=
  ((modMem ..).trans (burnRepair ..)).trans (notice ..)

theorem freeFrame (s : State) (f : Nat) : Persist s (s.freeFrame f) := by
  unfold State.freeFrame
  dsimp only
  split
  · exact (modMem ..).trans (retire ..)
  · exact ((modMem ..).trans (modMem ..)).trans (healMirror ..)

theorem cancelMoves (s : State) (p : Move → Bool) : Persist s (s.cancelMoves p) := by
  unfold State.cancelMoves
  dsimp only
  refine Persist.trans ?_ (foldl _ (fun s m => ?_) _ _)
  · exact of_eq rfl
  split
  · exact refl s
  · split
    · exact of_eq rfl
    · split
      · exact freeFrame ..
      · exact refl s

theorem dropSnapshots (s : State) (id : Nat) : Persist s (s.dropSnapshots id) := foldl _ (fun s (u : Nat × FrameUse) => freeFrame s u.1) _ s

/-! #### Records, instances, leases and fences -/

theorem endRec (s : State) (id q seq iter : Nat) (st : Status) (res0 res1 : Nat) (signals : Bool) :
    Persist s (s.endRec id q seq iter st res0 res1 signals) := modCtx _ _ _ (fun _ => rfl)

theorem pokeS (s : State) (e : Site) (space addr : Nat) (bs : Bytes) : Persist s (s.pokeS e space addr bs) := by
  unfold State.pokeS
  split
  · exact of_spoilt (Spoilt.pokeV ..)
  · split
    · exact refl s
    · split
      · exact refl s
      · exact modCells ..

theorem scramble (s : State) (e : Site) (rs : List Region) : Persist s (s.scramble e rs) := by
  refine foldl _ (fun s r => ?_) rs s
  refine Persist.trans ?_ (pokeS ..)
  exact of_eq rfl

theorem freeNat (s : State) : Persist s s.freeNat.1 := of_eq rfl

theorem moverFails (s : State) (e : Site) (r : Rec) (st : Status) : Persist s (s.moverFails e r st) :=
  ((scramble ..).trans (freeNat _)).trans (endRec ..)

theorem matFails (s : State) (e : Site) (r : Rec) (st : Status) (whole : MatStat) (re audit : Nat) : Persist s (s.matFails e r st whole re audit) :=
  (((scramble ..).trans (freeNat _)).trans (freeNat _)).trans (endRec ..)

theorem vecFails (s : State) (e : Site) (g : Chain) (r : Rec) (st : Status) (re : Nat) : Persist s (s.vecFails e g r st re) :=
  (((scramble ..).trans (freeNat _)).trans (freeNat _)).trans (endRec ..)

theorem freeUpTo (bound n : Nat) : ∀ s : State, Persist s (s.freeUpTo bound n).1 := by
  induction n with
  | zero => exact refl
  | succ n ih => exact fun s => (freeNat s).trans (ih s.freeNat.1)

theorem spendSome (s : State) (c : Ctx) (core : Nat) (g : Chain) (re : Nat) : Persist s (s.spendSome c core g re) :=
  (freeUpTo ..).trans (modCtx _ _ _ (fun _ => rfl))

theorem abortRun (s : State) (c : Ctx) (x : Queue) (st : Status) (r : Rec) : Persist s (s.abortRun c x st r) := by
  unfold State.abortRun
  dsimp only
  split
  · split
    · exact endRec ..
    · exact moverFails ..
  · split
    · exact endRec ..
    · exact moverFails ..
  · split
    · exact matFails ..
    · exact endRec ..
  · split
    · exact endRec ..
    · exact (spendSome ..).trans (vecFails ..)
  all_goals exact endRec ..

theorem sendRaise (s : State) (n : Nat) : Persist s (s.sendRaise n) := by
  unfold State.sendRaise
  split
  · exact refl s
  · split
    · exact refl s
    · split
      · exact ⟨rfl, fun _ => rfl, rfl, fun _ h => h, rfl, ⟨_, rfl⟩, rfl⟩
      · exact refl s

theorem returnLeave (s : State) (id q seq iter : Nat) : Persist s (s.returnLeave id q seq iter) :=
  foldl _ (fun s n => (modTile s n _).trans (sendRaise _ n)) _ s

theorem dropRecs (s : State) (id : Nat) : Persist s (s.dropRecs id) := by
  unfold State.dropRecs
  split
  · exact refl s
  · next c _ =>
    refine Persist.trans (Persist.trans (foldl _ (fun s x => ?_) _ s) (foldl _ (fun s x => ?_) _ _)) (modCtx _ _ _ (fun _ => rfl))
    · exact foldl _ (fun s r => abortRun s c x _ r) _ s
    · refine foldl _ (fun s r => ?_) _ s
      refine Persist.trans ?_ (returnLeave ..)
      refine of_eq ?_
      split <;> split <;> split <;> rfl

theorem sendLeaseCtrl (s : State) (dst : Nat) (op : Opcode) (id gen : Nat) (payload : Bytes) : Persist s (s.sendLeaseCtrl dst op id gen payload) :=
  (modLinks s _).trans (of_carried (Carried.sendCtrl ..))

theorem endLease (s : State) (l : Lease) : Persist s (s.endLease l) := by
  unfold State.endLease
  dsimp only
  split
  · exact (modCells ..).trans (modLinks ..)
  · exact ((sendLeaseCtrl ..).trans (modCells ..)).trans (modLinks ..)

theorem releaseLeases (s : State) (id : Nat) : Persist s (s.releaseLeases id) := by
  unfold State.releaseLeases
  dsimp only
  refine Persist.trans ?_ (modCtx _ _ _ ?_)
  · refine Persist.trans ?_ (modLinks ..)
    refine Persist.trans ?_ (foldl _ (fun s l => endLease s l) _ _)
    exact of_eq rfl
  · exact fun _ => rfl

theorem sendAbort (s : State) (g : Group) (n : Nat) : Persist s (s.sendAbort g n) := of_carried (Carried.sendAbort ..)

theorem breakGroup (s : State) (ctx gid n : Nat) : Persist s (s.breakGroup ctx gid n) := by
  unfold State.breakGroup
  split
  · exact refl s
  · exact (modLinks ..).trans (sendAbort ..)

theorem settleGroup (s : State) (ctx gid : Nat) : Persist s (s.settleGroup ctx gid) := by
  unfold State.settleGroup
  split
  · exact refl s
  · split
    · exact refl s
    · exact (modLinks ..).trans (of_released (Released.finishAll ..).1)

theorem endInst (s : State) (i : Inst) (st : Status) : Persist s (s.endInst i st) := by
  unfold State.endInst
  dsimp only
  refine Persist.trans ?_ (settleGroup ..)
  have hspoil : Persist s (s.spoilTarget i st) := by
    unfold State.spoilTarget
    split
    · exact refl s
    · exact scramble ..
  have hfree (u : State) : Persist u ((if st = .timeout then { u with ledger := u.ledger.expire i.tag u.hub.timer } else u.freeTag i.tag).modLinks
      (fun l => { l with insts := l.insts.filter (fun j => !(j.ctx == i.ctx && j.group == i.group && j.inst == i.inst)) })) := by
    split <;> exact of_eq rfl
  refine (hspoil.trans (hfree _)).trans ?_
  cases i.audit with
  | none => exact endRec ..
  | some t =>
    refine modCtx _ _ _ ?_
    exact fun _ => rfl

theorem endInsts (s : State) (id : Nat) : Persist s (s.endInsts id) :=
  (foldl _ (fun s (g : Group) => breakGroup s id g.id _) _ s).trans (foldl _ (fun s i => endInst s i .contextReset) _ _)

theorem leaveFence (s : State) (id index : Nat) (abandon : Bool) : Persist s (s.leaveFence id index abandon) := by
  unfold State.leaveFence
  dsimp only
  have hown : Persist s ((s.waits.filter (fun w => w.onFence index && w.ctx == id)).foldl (fun s w => match w.fenceTag with
      | some t => s.freeTag t
      | none => s) s) := by
    refine foldl _ (fun s w => ?_) _ s
    split
    · exact of_eq rfl
    · exact refl s
  refine (hown.trans (modCtx _ id (fun c => { c with fences := c.fences.filter (fun i => i != index) }) (fun _ => rfl))).trans ?_
  split
  · exact refl _
  · split
    · exact (modFence ..).trans (of_released (Released.endFenceWaits ..).1)
    · exact of_eq rfl

end Persist

/-! ### The beginning of a teardown, and a reset -/

/-- A context that is RESETTING, with the counts of its reset. -/
def Ctx.torn (c : Ctx) (k : ResetCounts) : Ctx := { c with res := { c.res with state := .resetting }, counts := k }

/-- The counts of a reset as its teardown begins. -/
def State.tornCounts (s : State) (c : Ctx) (id cause : Nat) (abandon : Bool) : ResetCounts :=
  { cause := cause, aborted := (c.queues.map (fun x => (x.recs.filter Rec.unfinished).length)).sum, retracted := (c.ring.map Ring.used).getD 0,
    fences := (c.fences.filter (fun i => abandon && s.fenceShared id i)).length, pages := 0 }

namespace Persist

/-- What persists does so too beside a change of contexts that touches the same of each line. -/
theorem modCtx_both {s t : State} (h : Persist s t) (id : Nat) {f g : Ctx → Ctx} (k : ResetCounts)
    (hf : ∀ c, (f c).line = (c.torn k).line) (hg : ∀ c, (g c).line = (c.torn k).line) : Persist (s.modCtx id f) (t.modCtx id g) where
  lines := by
    have hset (l : List Ctx) (e : Ctx → Ctx) (he : ∀ c, (e c).line = (c.torn k).line) : (l.map (fun c => if c.id = id then e c else c)).map Ctx.line =
        (l.map Ctx.line).map (fun y => if y.1 = id then (y.1, y.2.1, CtxState.resetting, k, y.2.2.2.2) else y) := by
      rw [List.map_map, List.map_map]
      refine List.map_congr_left fun c _ => ?_
      simp only [Function.comp_apply]
      by_cases hid : c.id = id
      · rw [if_pos hid, he, if_pos (show c.line.1 = id from hid)]
        rfl
      · rw [if_neg hid, if_neg (show ¬c.line.1 = id from hid)]
    show (t.ctxs.map _).map _ = (s.ctxs.map _).map _
    rw [hset _ _ hg, hset _ _ hf, h.lines]
  sessions := h.sessions
  freed := h.freed
  waits := h.waits
  bank := h.bank
  out := h.out
  random := h.random

/-- A teardown begins: the contexts of the identifier are RESETTING for the cause, and the other lines stand. -/
theorem beginTeardown {s : State} {id : Nat} {c : Ctx} (hc : s.ctx? id = some c) (cause : Nat) (abandon : Bool) :
    Persist (s.modCtx id (fun d => d.torn (s.tornCounts c id cause abandon))) (s.beginTeardown id cause abandon) := by
  have hopt (l : List OptReq) : ∀ acc : State × List (Nat × Nat × Bytes), Persist acc.1 (l.foldl (fun (acc : State × List (Nat × Nat × Bytes)) o =>
      let a := acc.1.optAnswer id o (o.run.getD {})
      (a.1, acc.2 ++ [(o.session, o.tag, a.2)])) acc).1 := by
    induction l with
    | nil => exact fun acc => refl acc.1
    | cons o l ih =>
      intro acc
      refine Persist.trans ?_ (ih _)
      show Persist acc.1 (acc.1.optAnswer id o (o.run.getD {})).1
      unfold State.optAnswer
      dsimp only
      split
      · exact refl _
      · split
        · exact refl _
        · exact freeNat _
  unfold State.beginTeardown
  rw [hc]
  dsimp only
  refine Persist.trans ?_ (cancelMoves ..)
  refine Persist.trans ?_ (foldl _ (fun s i => leaveFence s id i abandon) _ _)
  refine Persist.trans ?_ (releaseLeases ..)
  refine Persist.trans ?_ (dropRecs ..)
  refine Persist.trans ?_ (endInsts ..)
  refine Persist.trans ?_ (dropSnapshots ..)
  refine modCtx_both (hopt _ (s, [])) id (s.tornCounts c id cause abandon) (fun _ => rfl) (fun d => ?_)
  unfold State.tornCounts
  cases c.ring <;> rfl

end Persist

/-- A reset of a context that is not RESETTING begins its teardown. -/
theorem resetCtx_begins {s : State} {id : Nat} {c : Ctx} (hc : s.ctx? id = some c) (hstate : c.res.state ≠ .resetting) (cause : Nat) :
    s.resetCtx id cause = s.beginTeardown id cause true := by
  unfold State.resetCtx
  rw [hc]
  simp [hstate]

/-- What a line of a context tells of another state's. -/
theorem Persist.ctx_of_mem {s t : State} (h : Persist s t) {d : Ctx} (hd : d ∈ t.ctxs) : ∃ c ∈ s.ctxs, c.line = d.line := by
  have hin : d.line ∈ s.ctxs.map Ctx.line := h.lines ▸ List.mem_map_of_mem hd
  exact List.mem_map.mp hin

end Sys2Proof.Machine

/-! ### The end of a teardown -/

namespace Sys2Proof.Machine
set_option Elab.async false

namespace Persist

theorem removeQueue (s : State) (id q : Nat) : Persist s (s.removeQueue id q) := by
  unfold State.removeQueue
  split
  · exact refl s
  · split
    · exact refl s
    · dsimp only
      refine Persist.trans ?_ (modCtx _ _ _ ?_)
      · split
        · exact of_eq rfl
        · exact refl s
      · exact fun _ => rfl

theorem noteMove (s : State) (c : Ctx) (vp : Nat) (src dst : Option Nat) (why : Reason) : Persist s (s.noteMove c vp src dst why) := by
  refine Persist.trans (modCtx _ _ _ ?_) (logMove ..)
  exact fun _ => rfl

theorem dropTier (s : State) (f : Nat) : Persist s (s.dropTier f) := modMem ..

theorem dropCopy (s : State) (c : Ctx) (p : Page) (i k : Nat) (why : Reason) : Persist s (s.dropCopy c p i k why) := by
  unfold State.dropCopy
  split
  · exact refl s
  · split
    · exact refl s
    · exact ((dropTier ..).trans (modShare ..)).trans (noteMove ..)

theorem dropPinnedCopy (s : State) (c : Ctx) (p : Page) : Persist s (s.dropPinnedCopy c p) := by
  unfold State.dropPinnedCopy
  split
  · exact refl s
  · dsimp only
    split
    · exact cancelMoves ..
    · exact (cancelMoves ..).trans (dropCopy ..)

theorem releasePage (s : State) (id : Nat) (p : Page) : Persist s (s.releasePage id p) := by
  unfold State.releasePage
  split
  · exact refl s
  · have htier : Persist s (match p.tier with
        | some t => s.dropTier t
        | none => s) := by
      cases p.tier with
      | none => exact refl s
      | some t => exact dropTier ..
    have hhbm (u : State) : Persist u (match p.hbm with
        | some h => if p.snap then (u.modMem (fun m => m.takeHbm h (.snapshot id))).modCtx id (fun d =>
            { d with ckpt := { d.ckpt with torn := d.ckpt.torn || s.pageBad p } }) else u.freeFrame h
        | none => u) := by
      cases p.hbm with
      | none => exact refl u
      | some h =>
        dsimp only
        split
        · refine (modMem ..).trans (modCtx _ _ _ ?_)
          exact fun _ => rfl
        · exact freeFrame ..
    have hlease (u : State) : Persist u (match p.lease with
        | some l => u.modCells (fun cs => clearCells cs (physAt l 0) pageSize)
        | none => u) := by
      cases p.lease with
      | none => exact refl u
      | some l => exact modCells ..
    exact (htier.trans (hhbm _)).trans (hlease _)

theorem reapShare (s : State) (i : Nat) : Persist s (s.reapShare i) := by
  unfold State.reapShare
  split
  · exact refl s
  · next x _ =>
    split
    · exact refl s
    · dsimp only
      refine Persist.trans ?_ (foldl _ (fun s f => freeFrame s f) _ _)
      exact (foldl _ (fun s t => dropTier s t) (x.pages.flatMap (fun p => p.tier.toList)) s).trans (of_eq rfl)

theorem destroyKey (s : State) (k : Nat) : Persist s (s.destroyKey k) := by
  unfold State.destroyKey
  split
  · exact refl s
  · dsimp only
    refine Persist.trans ?_ (foldl _ (fun s (y : Nat × Nat) => modShare s y.1 _) _ _)
    refine Persist.trans ?_ (modCtx _ _ _ ?_)
    · exact of_eq rfl
    · exact fun _ => rfl

theorem finish (s : State) (w : Wait) (r : Reply) : Persist s (s.finish w r) := of_released (Released.finish ..)

theorem settleKeys (s : State) (id : Nat) : Persist s (s.settleKeys id) := by
  refine foldl _ (fun s w => ?_) _ s
  split
  · split
    · exact refl s
    · exact finish ..
  · split
    · exact refl s
    · exact (destroyKey ..).trans (finish ..)
  · exact refl s

theorem unmapPages (s : State) (id vp n : Nat) : Persist s (s.unmapPages id vp n) := by
  unfold State.unmapPages
  split
  · exact refl s
  · dsimp only
    refine Persist.trans ?_ (settleKeys ..)
    refine Persist.trans ?_ (foldl _ (fun s i => (modShare ..).trans (reapShare ..)) _ _)
    refine Persist.trans ?_ (foldl _ (fun s p => releasePage s id p) _ _)
    refine (cancelMoves ..).trans (modCtx _ _ _ ?_)
    exact fun _ => rfl

end Persist

/-- Fences that nothing holds any more go, and nothing else. -/
theorem reapFences_keeps (s : State) : ∃ fs fr, s.reapFences = { s with fences := fs, fencesFreed := fr } := by
  have go (l : List Nat) : ∀ u : State, ∃ fs fr, l.foldl (fun s i => s.reapFence i) u = { u with fences := fs, fencesFreed := fr } := by
    induction l with
    | nil => exact fun u => ⟨_, _, rfl⟩
    | cons i l ih =>
      intro u
      obtain ⟨fs, fr, h⟩ := ih (u.reapFence i)
      have hone : ∃ fs fr, u.reapFence i = { u with fences := fs, fencesFreed := fr } := by
        unfold State.reapFence
        split
        · exact ⟨_, _, rfl⟩
        · split <;> exact ⟨_, _, rfl⟩
      obtain ⟨fs', fr', h'⟩ := hone
      exact ⟨fs, fr, by rw [List.foldl_cons, h, h']⟩
  exact go _ s

/-- The end of a teardown: the context, its keys, its requests and its groups are gone, and its identifier is freed. -/
theorem doTeardownDone_ends {s : State} {id : Nat} {c : Ctx} (halive : s.alive = true) (hc : s.ctx? id = some c) (hstate : c.res.state = .resetting)
    (hclear : s.ledgerClear id = true) :
    (∀ d ∈ (doTeardownDone id s).ctxs, d.id ≠ id) ∧ (∀ k ∈ (doTeardownDone id s).vault.bank, k.ctx ≠ id) ∧
    (∀ w ∈ (doTeardownDone id s).waits, ¬(w.ctx = id ∧ w.ctxGen = c.gen)) ∧ (∀ g ∈ (doTeardownDone id s).links.groups, g.ctx ≠ id) ∧
    (∃ now, (id, c.gen, now) ∈ (doTeardownDone id s).ctxsFreed) := by
  unfold doTeardownDone
  rw [hc]
  dsimp only
  rw [if_neg (by simp [halive, hstate, hclear])]
  let dead := s.vault.slots.filter (fun k => k.ctx == id && k.ctxGen == c.gen && k.keyId != 0)
  generalize hs1 : ({ s with vault := { s.vault with
    slots := s.vault.slots.filter (fun k => !(k.ctx == id && k.ctxGen == c.gen && k.keyId != 0)),
    freed := s.vault.freed ++ dead.map (fun (k : KeySlot) => (k.keyId, s.hub.timer)),
    bank := s.vault.bank.filter (fun b => b.ctx != id) } } : State) = s1
  have hbank : ∀ b ∈ s1.vault.bank.map (fun b => b.ctx), b ≠ id := by
    rw [← hs1]
    intro b hb
    obtain ⟨k, hk, rfl⟩ := List.mem_map.mp hb
    simpa using (List.mem_filter.mp hk).2
  have hpages : Persist s1 ((c.pages.foldl (fun (s : State) p => s.dropPinnedCopy c { p with pin := false })
      ((c.queues.foldl (fun s x => s.removeQueue id x.number) s1).modCtx id (fun d =>
        { d with pages := d.pages.map (fun p => { p with pin := false }) }))).unmapPages id 0 (2 ^ 27)) := by
    refine Persist.trans ?_ (Persist.unmapPages ..)
    refine Persist.trans ?_ (Persist.foldl _ (fun s p => Persist.dropPinnedCopy s c _) _ _)
    refine Persist.trans (Persist.foldl _ (fun s (x : Queue) => Persist.removeQueue s id x.number) _ s1) (Persist.modCtx _ _ _ ?_)
    exact fun _ => rfl
  generalize (c.pages.foldl (fun (s : State) p => s.dropPinnedCopy c { p with pin := false })
      ((c.queues.foldl (fun s x => s.removeQueue id x.number) s1).modCtx id (fun d =>
        { d with pages := d.pages.map (fun p => { p with pin := false }) }))).unmapPages id 0 (2 ^ 27) = s4 at *
  generalize hs5 : s4.modLinks (fun l => { l with groups := l.groups.filter (fun g => g.ctx != id), channels := l.channels.map (fun (k : Channel) =>
      { k with waiting := k.waiting.filter (fun w => w.ctx != some id) }) }) = s5
  have hgroups : ∀ g ∈ s5.links.groups, g.ctx ≠ id := by
    rw [← hs5]
    intro g hg
    simpa using (List.mem_filter.mp hg).2
  have hlinks : Persist s4 s5 := by
    rw [← hs5]
    exact Persist.modLinks ..
  obtain ⟨hreleased, hwaits⟩ := Released.finishAll s5 (fun w => w.ctx == id && w.ctxGen == c.gen)
    (fun w => s5.lastAnswer { c with counts := { c.counts with pages := (c.pages.filter (fun p => p.share.isNone)).length } } w)
  have hgone := hreleased.links
  generalize s5.finishAll (fun w => w.ctx == id && w.ctxGen == c.gen)
    (fun w => s5.lastAnswer { c with counts := { c.counts with pages := (c.pages.filter (fun p => p.share.isNone)).length } } w) = s6 at *
  generalize s6.resetBody { c with counts := { c.counts with pages := (c.pages.filter (fun p => p.share.isNone)).length } } s6.conf = body
  have htold := Told.raiseDevice s6 .contextResetDone .ok body
  generalize s6.raiseDevice .contextResetDone .ok body = s7 at *
  have hbank7 := (Persist.of_told htold).bank.trans ((Persist.of_released hreleased).bank.trans (hlinks.bank.trans hpages.bank))
  obtain ⟨⟨_, _, htold⟩, -⟩ := htold
  obtain ⟨fs, fr, hreap⟩ := reapFences_keeps { s7 with ctxs := s7.ctxs.filter (fun d => d.id != id), ctxsFreed := s7.ctxsFreed ++ [(id, c.gen, s.hub.timer)] }
  rw [hreap]
  refine ⟨fun d hd => ?_, fun k hk => ?_, fun w hw => ?_, fun g hg => ?_, s.hub.timer, ?_⟩
  · simpa using (List.mem_filter.mp hd).2
  · exact hbank k.ctx (hbank7 ▸ List.mem_map_of_mem hk)
  · have hin : w ∈ s6.waits := by rw [htold] at hw; exact hw
    simpa using hwaits w hin
  · have hin : g ∈ s6.links.groups := by rw [htold] at hg; exact hg
    exact hgroups g (hgone ▸ hin)
  · exact List.mem_append_right _ List.mem_cons_self

end Sys2Proof.Machine

namespace Sys2Proof
open Machine
set_option Elab.async false

/-- The contexts of an identifier once their teardown has begun. -/
theorem torn_of_begun {s t : State} {id : Nat} {k : ResetCounts} (h : Persist (s.modCtx id (fun d => d.torn k)) t) {d : Ctx} (hd : d ∈ t.ctxs)
    (hid : d.id = id) : d.res.state = .resetting ∧ d.counts.cause = k.cause := by
  obtain ⟨e, he, hline⟩ := h.ctx_of_mem hd
  obtain ⟨f, -, rfl⟩ := List.mem_map.mp he
  have heid : (if f.id = id then f.torn k else f).id = id := (congrArg (fun y => y.1) hline).trans hid
  by_cases hf : f.id = id
  · rw [if_pos hf] at hline
    exact ⟨(congrArg (fun y => y.2.2.1) hline).symm, (congrArg (fun y => y.2.2.2.1.cause) hline).symm⟩
  · rw [if_neg hf] at heid
    exact absurd heid hf

/-- The tags of records that waited are free, and nothing else changes. -/
theorem dropWaitTags_keeps (qs : List Queue) : ∀ s : State, ∃ l, qs.foldl (fun s q => s.dropWaitTags (q.recs.filter (fun r => r.phase == .waiting))) s =
    { s with ledger := l } := by
  have hrecs (rs : List Rec) : ∀ s : State, ∃ l, s.dropWaitTags rs = { s with ledger := l } := by
    induction rs with
    | nil => exact fun s => ⟨_, rfl⟩
    | cons r rs ih =>
      intro s
      unfold State.dropWaitTags
      rw [List.foldl_cons]
      cases r.waitTag with
      | none => exact ih s
      | some t => exact ih (s.freeTag t)
  induction qs with
  | nil => exact fun s => ⟨_, rfl⟩
  | cons q qs ih =>
    intro s
    obtain ⟨l, h⟩ := hrecs (q.recs.filter (fun r => r.phase == .waiting)) s
    rw [List.foldl_cons, h]
    exact ih { s with ledger := l }

/-- Settles O28, by what of each context, session and wait persists through a teardown. -/
theorem resetTeardownAndDestroy : Obligations.ResetTeardownAndDestroy := by
  refine ⟨?reset, ?destroy, ?drain, ?done⟩
  case reset =>
    intro m x c s hadm hc hlen hstate
    have hmail : (s.takeMail .ctxReset m).ctx? m.ctx = some c := (State.takeMail_ctx? ..).trans hc
    have hid := State.ctx?_id hc
    have hbody : doCtxReset m (s.takeMail .ctxReset m) x =
        (((s.takeMail .ctxReset m).resetCtx c.id (if x.owns c then 0 else 1)).await x .ctxReset m .reset, some (.of .pending)) := by
      unfold doCtxReset
      rw [withCtx_of_some hmail, if_neg (by simp [hlen])]
    have hbegun := Persist.beginTeardown (hid ▸ hmail) (if x.owns c then 0 else 1) true
    rw [← resetCtx_begins (hid ▸ hmail) hstate] at hbegun
    generalize (s.takeMail .ctxReset m).resetCtx c.id (if x.owns c then 0 else 1) = u at *
    have hsession : (u.session? m.session).isSome = true := by
      rw [hbegun.session?_isSome]
      exact Option.isSome_iff_exists.mpr ⟨x, session?_of_admits hadm⟩
    obtain ⟨heq, hans⟩ := request_answered hadm hbody hbegun.out hsession
    refine ⟨_, congrArg Host.Outcome.next heq, fun d hd hdid => ?_, List.mem_of_mem_drop hans⟩
    obtain ⟨_, _, _, hsent⟩ := Sends.answer (u.await x .ctxReset m .reset) .ctxReset m (.of .pending)
    rw [hsent] at hd
    exact torn_of_begun hbegun hd hdid
  case destroy =>
    intro m x c s hadm hc hlen howns
    have hmail : (s.takeMail .ctxDestroy m).ctx? m.ctx = some c := (State.takeMail_ctx? ..).trans hc
    obtain ⟨l, htags⟩ := dropWaitTags_keeps c.queues (s.takeMail .ctxDestroy m)
    have hbody : doCtxDestroy m (s.takeMail .ctxDestroy m) x =
        (((({ s.takeMail .ctxDestroy m with ledger := l } : State).modCtx c.id (fun d =>
          { d with destroying := true, res := { d.res with leaving := .stays },
                   queues := d.queues.map (fun q => q.stopWaiting (c.res.state == .resident)) })).await x .ctxDestroy m .destroy), some (.of .pending)) := by
      unfold doCtxDestroy
      rw [withCtx_of_some hmail, if_neg (by simp [hlen]), if_neg (by simp [howns]), htags]
    obtain ⟨hans, hsends⟩ := request_from hadm hbody ⟨[], (List.append_nil _).symm⟩ rfl
    refine ⟨_, rfl, hans, fun d hd hid => ?_, hsends.waits.trans ?_, ?_⟩
    · rw [hsends.ctxs] at hd
      obtain ⟨e, -, rfl⟩ := List.mem_map.mp hd
      by_cases he : e.id = c.id
      · rw [if_pos he]
      · rw [if_neg he] at hid
        exact absurd hid he
    · obtain ⟨_, _, _, h⟩ := Sends.takeMail s .ctxDestroy m
      rw [h]
      rfl
    · obtain ⟨_, _, _, h⟩ := Sends.takeMail s .ctxDestroy m
      obtain ⟨_, _, _, h'⟩ := hsends
      rw [h', h]
      exact ⟨rfl, rfl, rfl⟩
  case drain =>
    intro id c s halive hc hdest hstate hqueues hopt hinsts hring
    have hrun : doDestroyDrain id s = s.beginTeardown id 3 false := by
      unfold doDestroyDrain
      rw [hc]
      dsimp only
      rw [if_pos]
      have hquiet : (s.links.insts.any (fun i => i.ctx == id)) = false := by
        rw [List.any_eq_false]
        intro i hi
        simpa using List.all_eq_true.mp hinsts i hi
      simp only [halive, hdest, hqueues, hopt, hquiet]
      rcases hring with h | h
      · simp [h, hstate]
      · cases hg : c.ring with
        | none => simp [hstate]
        | some g =>
          rw [hg] at h
          simpa [hstate] using h
    exact ⟨_, congrArg Host.Outcome.next hrun, fun d hd hid => torn_of_begun (Persist.beginTeardown hc 3 false) hd hid⟩
  case done =>
    intro id c s halive hc hstate hclear
    exact ⟨_, rfl, doTeardownDone_ends halive hc hstate hclear⟩

end Sys2Proof

/-! ### The end of a session -/

namespace Sys2Proof.Machine
set_option Elab.async false

/-- Two entries of a list agree when they have one key and no two entries share theirs. -/
theorem eq_of_nodup_map {α β : Type} {f : α → β} : ∀ {l : List α}, (l.map f).Nodup → ∀ {x y : α}, x ∈ l → y ∈ l → f x = f y → x = y
  | [], _, _, _, hx, _, _ => absurd hx List.not_mem_nil
  | a :: l, h, x, y, hx, hy, he => by
    rw [List.map_cons, List.nodup_cons] at h
    obtain ⟨hnot, hrest⟩ := h
    rcases List.mem_cons.mp hx with rfl | hxl
    · rcases List.mem_cons.mp hy with rfl | hyl
      · rfl
      · exact (hnot (he ▸ List.mem_map.mpr ⟨y, hyl, rfl⟩)).elim
    · rcases List.mem_cons.mp hy with rfl | hyl
      · exact (hnot (he ▸ List.mem_map.mpr ⟨x, hxl, rfl⟩)).elim
      · exact eq_of_nodup_map hrest hxl hyl he

/-- `t` is what persists of `s`, whatever became of its contexts. -/
def Outlasts (s t : State) : Prop := ∃ cs, Persist { s with ctxs := cs } t

namespace Outlasts

theorem refl (s : State) : Outlasts s s := ⟨s.ctxs, Persist.refl s⟩

theorem of_persist {s t : State} (h : Persist s t) : Outlasts s t := ⟨s.ctxs, h⟩

theorem trans {s t u : State} (h : Outlasts s t) (k : Outlasts t u) : Outlasts s u := by
  obtain ⟨cs, h⟩ := h
  obtain ⟨ds, k⟩ := k
  exact ⟨ds, Persist.trans (t := { t with ctxs := ds }) ⟨rfl, h.sessions, h.freed, h.waits, h.bank, h.out, h.random⟩ k⟩

theorem foldl {α : Type} (f : State → α → State) (hf : ∀ s x, Outlasts s (f s x)) (l : List α) : ∀ s, Outlasts s (l.foldl f s) := by
  induction l with
  | nil => exact refl
  | cons x rest ih => exact fun s => (hf s x).trans (ih _)

theorem resetCtx (s : State) (id cause : Nat) : Outlasts s (s.resetCtx id cause) := by
  cases hc : s.ctx? id with
  | none =>
    unfold State.resetCtx
    rw [hc]
    exact refl s
  | some c =>
    by_cases hstate : c.res.state = .resetting
    · unfold State.resetCtx
      rw [hc]
      dsimp only
      rw [if_pos hstate]
      split
      · exact ⟨_, Persist.refl _⟩
      · exact refl s
    · rw [resetCtx_begins hc hstate]
      exact ⟨_, Persist.beginTeardown hc cause true⟩

end Outlasts

theorem turnHost_sessions (s : State) : s.turnHost.sessions = s.sessions := by
  have hwatch (u : State) : u.watchBuffers.sessions = u.sessions := by
    unfold State.watchBuffers
    dsimp only
    split <;> rfl
  have hbegin (u : State) : u.hostBegin.sessions = u.sessions := by
    unfold State.hostBegin
    dsimp only
    split <;> split <;> rfl
  have hset (u : State) (c : HostCfg) (cak : Nat) : (u.setHost c cak).sessions = u.sessions := by
    unfold State.setHost
    dsimp only
    rw [hbegin, hwatch]
    split <;> rfl
  unfold State.turnHost
  split
  · rfl
  · split
    · rfl
    · exact hset _ _ _

theorem Persist.turnHost (s : State) : Persist s s.turnHost := by
  have hses := turnHost_sessions s
  obtain ⟨_, o, _, h⟩ := Sends.turnHost s
  rw [h] at hses ⊢
  exact ⟨rfl, fun n => by rw [State.session?, hses]; rfl, rfl, fun _ h => h, rfl, ⟨o, rfl⟩, rfl⟩

theorem Persist.watchBuffers (s : State) : Persist s s.watchBuffers := by
  obtain ⟨o, _, h, -⟩ := watchBuffers_out s
  rw [h]
  exact ⟨rfl, fun _ => rfl, rfl, fun _ h => h, rfl, ⟨o, rfl⟩, rfl⟩

/-- What a session that is dropped leaves: no session of its number, no wait of its own, and its number freed. -/
structure Dropped (x : Session) (t : State) : Prop where
  session : t.session? x.number = none
  waits : ∀ w ∈ t.waits, ¬(w.session = x.number ∧ w.sgen = x.gen)
  freed : ∃ now, (x.number, x.gen, now) ∈ t.sessionsFreed

theorem Dropped.dropSession (s : State) (x : Session) : Dropped x (s.dropSession x) where
  session := by
    show (s.sessions.filter (fun y => y.number != x.number)).find? (fun y => y.number == x.number) = none
    rw [List.find?_eq_none]
    intro y hy
    simpa using (List.mem_filter.mp hy).2
  waits := by
    rintro w hw ⟨hnum, hgen⟩
    have := (List.mem_filter.mp hw).2
    simp [hnum, hgen] at this
  freed := ⟨s.hub.timer, List.mem_append_right _ List.mem_cons_self⟩

theorem Dropped.outlasts {x : Session} {s t : State} (h : Dropped x s) (k : Outlasts s t) : Dropped x t := by
  obtain ⟨cs, k⟩ := k
  refine ⟨?_, fun w hw => h.waits w (k.waits w hw), ?_⟩
  · have := k.sessions x.number
    rw [show ({ s with ctxs := cs } : State).session? x.number = none from h.session] at this
    simpa using this
  · obtain ⟨now, hnow⟩ := h.freed
    exact ⟨now, by rw [k.freed]; exact hnow⟩

/-- What has left when the end of a session begins: the CLOSE, if one is due. -/
def State.closing (s : State) (n : Nat) (close : Option Status) : State := match close with
  | some st => s.sendClose n st
  | none => s

theorem closing_sends (s : State) (n : Nat) (close : Option Status) : Sends s (s.closing n close) := by
  cases close with
  | none => exact Sends.refl s
  | some st =>
    show Sends s (s.sendClose n st)
    unfold State.sendClose
    split
    · exact Sends.refl s
    · split
      · exact Sends.refl s
      · exact ⟨_, _, _, rfl⟩

/-- The contexts that end with a session. -/
def State.ownedBy (s : State) (x : Session) : List Ctx := if x.role = .tenant then s.ctxs.filter (fun c => x.owns c) else []

theorem endSession_eq {s : State} {n : Nat} {x : Session} (hx : s.session? n = some x) (cause : Nat) (close : Option Status) :
    s.endSession n cause close =
      ((s.ownedBy x).foldl (fun s c => s.resetCtx c.id cause) ((s.closing n close).dropSession x).turnHost).watchBuffers := by
  unfold State.endSession
  rw [hx]
  cases close <;> rfl

/-- A session that ends is gone, with its waits, and its number is freed; what had left stands. -/
theorem endSession_drops {s : State} {n : Nat} {x : Session} (hx : s.session? n = some x) (cause : Nat) (close : Option Status) :
    Dropped x (s.endSession n cause close) ∧ ∃ o, (s.endSession n cause close).out = (s.closing n close).out ++ o := by
  have hlast : Outlasts ((s.closing n close).dropSession x) (s.endSession n cause close) := by
    rw [endSession_eq hx]
    refine (Outlasts.of_persist (Persist.turnHost _)).trans (Outlasts.trans ?_ (Outlasts.of_persist (Persist.watchBuffers _)))
    exact Outlasts.foldl _ (fun s (c : Ctx) => Outlasts.resetCtx s c.id cause) _ _
  obtain ⟨cs, hpersist⟩ := hlast
  exact ⟨(Dropped.dropSession _ x).outlasts ⟨cs, hpersist⟩, hpersist.out⟩

/-- A session that owns no context ends beside the rest of the device. -/
theorem endSession_quiet {s : State} {n : Nat} {x : Session} (hx : s.session? n = some x) (cause : Nat) (close : Option Status)
    (hnone : s.ctxs.all (fun c => !x.owns c) = true) :
    (s.endSession n cause close).mem = s.mem ∧ (s.endSession n cause close).otp = s.otp ∧ (s.endSession n cause close).vault = s.vault ∧
    (s.endSession n cause close).links = s.links ∧ (s.endSession n cause close).hub = s.hub ∧ (s.endSession n cause close).fences = s.fences := by
  have hempty : s.ownedBy x = [] := by
    unfold State.ownedBy
    split
    · rw [List.filter_eq_nil_iff]
      intro c hc
      simpa using List.all_eq_true.mp hnone c hc
    · rfl
  obtain ⟨_, _, _, hsent⟩ := closing_sends s n close
  obtain ⟨_, _, _, hturn⟩ := Sends.turnHost ((s.closing n close).dropSession x)
  obtain ⟨_, _, _, hwatch⟩ := Sends.watchBuffers ((s.closing n close).dropSession x).turnHost
  rw [endSession_eq hx, hempty, List.foldl_nil, hwatch, hturn, hsent]
  exact ⟨rfl, rfl, rfl, rfl, rfl, rfl⟩

/-- The CLOSE of a session that ends has left. -/
theorem endSession_closes {s : State} {n : Nat} {x : Session} (hx : s.session? n = some x) (cause : Nat) (st : Status) (hrow : s.host.row.isSome = true) :
    s.frameOut x { seq := x.tx.seq, kphase := x.tx.kphase, isClose := true, seg := closeSegment st } ∈ (s.endSession n cause (some st)).out.drop s.out.length := by
  obtain ⟨-, o, hout⟩ := endSession_drops hx cause (some st)
  have hclose : (s.closing n (some st)).out = s.out ++ [s.frameOut x { seq := x.tx.seq, kphase := x.tx.kphase, isClose := true, seg := closeSegment st }] := by
    show (s.sendClose n st).out = _
    unfold State.sendClose
    rw [hx]
    dsimp only
    rw [if_neg (by simp [Option.isNone_iff_eq_none, ← Option.isSome_iff_ne_none, hrow])]
    rfl
  rw [hout, hclose, List.append_assoc, List.drop_left]
  exact List.mem_append_left _ List.mem_cons_self

/-! #### The contexts of a session that ends -/

/-- The identifier, generation and state of a context. -/
def Ctx.place (c : Ctx) : Nat × Nat × CtxState := (c.id, c.gen, c.res.state)

/-- A place of an identifier that is reset. -/
def placeReset (id : Nat) (y : Nat × Nat × CtxState) : Nat × Nat × CtxState := if y.1 = id then (y.1, y.2.1, .resetting) else y

theorem Persist.places {s t : State} (h : Persist s t) : t.ctxs.map Ctx.place = s.ctxs.map Ctx.place := by
  have hof (l : List Ctx) : l.map Ctx.place = (l.map Ctx.line).map (fun y => (y.1, y.2.1, y.2.2.1)) := by
    rw [List.map_map]; rfl
  rw [hof, hof, h.lines]

theorem resetCtx_places {s : State} (hnodup : (s.ctxs.map (fun c => c.id)).Nodup) (id cause : Nat) :
    (s.resetCtx id cause).ctxs.map Ctx.place = (s.ctxs.map Ctx.place).map (placeReset id) := by
  have hsame (h : ∀ c ∈ s.ctxs, c.id = id → c.res.state = .resetting) : s.ctxs.map Ctx.place = (s.ctxs.map Ctx.place).map (placeReset id) := by
    rw [List.map_map]
    refine List.map_congr_left fun c hc => ?_
    simp only [Function.comp_apply, placeReset]
    by_cases hid : c.id = id
    · rw [if_pos (show c.place.1 = id from hid)]
      exact congrArg (fun z => (c.id, c.gen, z)) (h c hc hid)
    · rw [if_neg (show ¬c.place.1 = id from hid)]
  cases hc : s.ctx? id with
  | none =>
    unfold State.resetCtx
    rw [hc]
    refine hsame fun c hmem hid => ?_
    have := List.find?_eq_none.mp hc c hmem
    simp [hid] at this
  | some c =>
    have hcid := State.ctx?_id hc
    have hmem := List.mem_of_find?_eq_some hc
    by_cases hstate : c.res.state = .resetting
    · have hall : ∀ d ∈ s.ctxs, d.id = id → d.res.state = .resetting := fun d hd hid => by
        rw [eq_of_nodup_map hnodup hd hmem (hid.trans hcid.symm)]
        exact hstate
      have hkeep : (s.resetCtx id cause).ctxs.map Ctx.place = s.ctxs.map Ctx.place := by
        unfold State.resetCtx
        rw [hc]
        dsimp only
        rw [if_pos hstate]
        split
        · show (s.ctxs.map _).map _ = _
          rw [List.map_map]
          refine List.map_congr_left fun d _ => ?_
          simp only [Function.comp_apply]
          split <;> rfl
        · rfl
      exact hkeep.trans (hsame hall)
    · rw [resetCtx_begins hc hstate, (Persist.beginTeardown hc cause true).places]
      show (s.ctxs.map _).map _ = _
      rw [List.map_map, List.map_map]
      refine List.map_congr_left fun d _ => ?_
      simp only [Function.comp_apply, placeReset]
      by_cases hid : d.id = id
      · rw [if_pos hid, if_pos (show d.place.1 = id from hid)]
        rfl
      · rw [if_neg hid, if_neg (show ¬d.place.1 = id from hid)]

/-- After the reset of several contexts each of them is RESETTING, and the others are in the state in which they were. -/
theorem resetAll_places (l : List Ctx) (cause : Nat) : ∀ s : State, (s.ctxs.map (fun c => c.id)).Nodup → ∀ c ∈ s.ctxs,
    ∃ d ∈ (l.foldl (fun s c => s.resetCtx c.id cause) s).ctxs, d.id = c.id ∧ d.gen = c.gen ∧
      d.res.state = if l.any (fun e => e.id == c.id) then .resetting else c.res.state := by
  induction l with
  | nil => exact fun s _ c hc => ⟨c, hc, rfl, rfl, by simp⟩
  | cons e l ih =>
    intro s hnodup c hc
    have hplaces := resetCtx_places hnodup e.id cause
    have hids : (s.resetCtx e.id cause).ctxs.map (fun c => c.id) = s.ctxs.map (fun c => c.id) := by
      have hof (m : List Ctx) : m.map (fun c => c.id) = (m.map Ctx.place).map (fun y => y.1) := by rw [List.map_map]; rfl
      rw [hof, hof, hplaces, List.map_map]
      refine List.map_congr_left fun y _ => ?_
      simp only [Function.comp_apply, placeReset]
      split <;> rfl
    have hin : placeReset e.id c.place ∈ (s.resetCtx e.id cause).ctxs.map Ctx.place := by
      rw [hplaces]
      exact List.mem_map_of_mem (List.mem_map_of_mem hc)
    obtain ⟨k, hk, hplace⟩ := List.mem_map.mp hin
    obtain ⟨d, hd, hdid, hdgen, hdstate⟩ := ih _ (by rw [hids]; exact hnodup) k hk
    by_cases hid : c.id = e.id
    · rw [placeReset, if_pos (show c.place.1 = e.id from hid)] at hplace
      have hkid : k.id = c.id := congrArg (fun y => y.1) hplace
      have hkgen : k.gen = c.gen := congrArg (fun y => y.2.1) hplace
      have hkstate : k.res.state = .resetting := congrArg (fun y => y.2.2) hplace
      refine ⟨d, hd, hdid.trans hkid, hdgen.trans hkgen, ?_⟩
      rw [hdstate, hkstate]
      simp [hid]
    · rw [placeReset, if_neg (show ¬c.place.1 = e.id from hid)] at hplace
      have hkid : k.id = c.id := congrArg (fun y => y.1) hplace
      have hkgen : k.gen = c.gen := congrArg (fun y => y.2.1) hplace
      have hkstate : k.res.state = c.res.state := congrArg (fun y => y.2.2) hplace
      refine ⟨d, hd, hdid.trans hkid, hdgen.trans hkgen, ?_⟩
      rw [hdstate, hkstate, hkid, List.any_cons, show (e.id == c.id) = false by simpa using Ne.symm hid, Bool.false_or]

/-- When a tenant session ends, its contexts are RESETTING and the others are in the state in which they were. -/
theorem endSession_places {s : State} {n : Nat} {x : Session} (hx : s.session? n = some x) (hrole : x.role = .tenant) (cause : Nat)
    (close : Option Status) (hnodup : (s.ctxs.map (fun c => c.id)).Nodup) : ∀ c ∈ s.ctxs,
    ∃ d ∈ (s.endSession n cause close).ctxs, d.id = c.id ∧ d.gen = c.gen ∧ d.res.state = if x.owns c then .resetting else c.res.state := by
  intro c hc
  have hctxs : ((s.closing n close).dropSession x).turnHost.ctxs.map Ctx.place = s.ctxs.map Ctx.place := by
    obtain ⟨_, _, _, hsent⟩ := closing_sends s n close
    rw [(Persist.turnHost _).places]
    show ((s.closing n close).ctxs.map _).map _ = _
    rw [hsent, List.map_map]
    rfl
  have hend := endSession_eq hx cause close
  generalize ((s.closing n close).dropSession x).turnHost = u at *
  have hids : u.ctxs.map (fun c => c.id) = s.ctxs.map (fun c => c.id) := by
    have hof (m : List Ctx) : m.map (fun c => c.id) = (m.map Ctx.place).map (fun y => y.1) := by rw [List.map_map]; rfl
    rw [hof, hof, hctxs]
  obtain ⟨k, hk, hplace⟩ := List.mem_map.mp (hctxs ▸ List.mem_map_of_mem hc : c.place ∈ u.ctxs.map Ctx.place)
  obtain ⟨d, hd, hdid, hdgen, hdstate⟩ := resetAll_places (s.ownedBy x) cause u (by rw [hids]; exact hnodup) k hk
  have hkid : k.id = c.id := congrArg (fun y => y.1) hplace
  have hkgen : k.gen = c.gen := congrArg (fun y => y.2.1) hplace
  have hkstate : k.res.state = c.res.state := congrArg (fun y => y.2.2) hplace
  have hany : (s.ownedBy x).any (fun e => e.id == c.id) = x.owns c := by
    unfold State.ownedBy
    rw [if_pos hrole]
    cases howns : x.owns c with
    | true => exact List.any_eq_true.mpr ⟨c, List.mem_filter.mpr ⟨hc, howns⟩, by simp⟩
    | false =>
      rw [List.any_eq_false]
      intro e he
      obtain ⟨hmem, hown⟩ := List.mem_filter.mp he
      intro hid
      rw [eq_of_nodup_map hnodup hmem hc (by simpa using hid), howns] at hown
      exact absurd hown (by simp)
  have hwatch : (s.endSession n cause close).ctxs = ((s.ownedBy x).foldl (fun s c => s.resetCtx c.id cause) u).ctxs := by
    obtain ⟨_, _, _, hwatch⟩ := Sends.watchBuffers ((s.ownedBy x).foldl (fun s c => s.resetCtx c.id cause) u)
    rw [hend, hwatch]
  refine ⟨d, by rw [hwatch]; exact hd, hdid.trans hkid, hdgen.trans hkgen, ?_⟩
  rw [hdstate, hkid, hany, hkstate]

/-! #### A frame that ends its session -/

theorem Persist.of_stand {s t : State} (h : Sends s t) (k : SessionsStand s t) : Persist s t := by
  obtain ⟨_, o, _, rfl⟩ := h
  exact ⟨rfl, k.gen, rfl, fun _ h => h, rfl, ⟨o, rfl⟩, rfl⟩

theorem Persist.modSession (s : State) (n : Nat) (f : Session → Session) (hf : ∀ y, (f y).number = y.number) (hgen : ∀ y, (f y).gen = y.gen) :
    Persist s (s.modSession n f) := by
  refine ⟨rfl, fun k => ?_, rfl, fun _ h => h, rfl, ⟨[], by simp [State.modSession]⟩, rfl⟩
  rw [State.session?_modSession _ _ _ _ hf, Option.map_map]
  congr 1
  funext y
  dsimp only [Function.comp_apply]
  split
  · exact hgen y
  · rfl

theorem Persist.noteFrame (s : State) (n : Nat) : Persist s (s.noteFrame n) := by
  unfold State.noteFrame
  dsimp only
  have hcount : Persist s (s.modSession n (fun x =>
      { x with rx := { x.rx with unacked := x.rx.unacked + 1, since := if x.rx.unacked = 0 then s.hub.timer else x.rx.since } })) :=
    Persist.modSession _ _ _ (fun _ => rfl) (fun _ => rfl)
  split
  · split
    · exact hcount.trans (Persist.of_stand (Sends.sendAck ..) (SessionsStand.sendAck _ n))
    · exact hcount
  · exact hcount

section Frame
variable {s : State} {f : QFrame} {x : Session} (hsec : s.host.cfg.macsecReq = false ∨ f.sec = true) (hver : f.ver = 1) (hrsvd : f.rsvd = 0)
  (htag : f.tagOk = true) (hx : s.session? f.session = some x) (hgen : x.gen = f.sgen) (hphase : f.kphase = x.rx.kphase)
include hsec hver hrsvd htag hx hgen hphase

/-- A frame that passes renews its session. -/
theorem hostFrame_passes {kind : Nat} (hkind : f.kind = kind) : s.hostFrame kind f =
    ((s.modHost (fun h => { h with received := hostCount h.received 1 })).modSession f.session (fun y => y.heard f s.hub.timer),
      some (x.heard f s.hub.timer)) := by
  have hmac : (s.host.cfg.macsecReq && !f.sec) = false := by
    rcases hsec with h | h <;> simp [h]
  have hfound : (s.modHost (fun h => { h with received := hostCount h.received 1 })).session? f.session = some x := hx
  unfold State.hostFrame
  simp only [hmac, hver, hkind, hrsvd, hfound, hgen, htag, Session.opens, hphase]
  simp only [bne_self_eq_false, Bool.or_self, Bool.false_eq_true, if_false, ne_eq, not_true_eq_false, Bool.not_true, beq_self_eq_true, Bool.true_or]
  exact congrArg (Prod.mk _) (session?_changed hfound (fun _ => rfl))

/-- A DATA or CLOSE frame that passes, in the window and not held, is held, and what is in order is taken. -/
theorem doSegmentFrame_held {g : Segment} {isClose : Bool} (halive : s.alive = true) (hrow : s.host.row.isSome = true)
    (hkind : f.kind = if isClose then 3 else 0) (hg : g.rsvd = 0)
    (hclose : isClose = true → g.msg = 0xFFFFFFFF ∧ g.data.length = 16 ∧ allZero (g.data.drop 2) = true)
    (hlow : x.rx.ack ≤ f.seq) (hhigh : f.seq < x.rx.ack + 4096) (hnew : x.rx.held.any (fun h => h.seq == f.seq) = false) :
    doSegmentFrame f g isClose s = ((((((s.modHost (fun h => { h with received := hostCount h.received 1 })).modSession f.session
      (fun y => y.heard f s.hub.timer)).modSession f.session (fun y =>
        { y with rx := { y.rx with held := y.rx.held ++ [{ seq := f.seq, isClose := isClose, seg := g }], oldKept := x.rx.oldKept.map (fun q => min q f.seq) } })).inOrder
          f.session (x.rx.held.length + 1)).modSession f.session Session.shedOld).noteFrame f.session).watchBuffers := by
  have hpass := hostFrame_passes hsec hver hrsvd htag hx hgen hphase hkind
  have hbody : (g.rsvd != 0 || (isClose && (g.msg != 0xFFFFFFFF || g.data.length != 16 || !allZero (g.data.drop 2)))) = false := by
    cases isClose with
    | false => simp [hg]
    | true =>
      obtain ⟨hmsg, hlen, hzero⟩ := hclose rfl
      simp [hg, hmsg, hlen, hzero]
  have hrow' : s.host.row.isNone = false := by simpa [← Option.not_isSome] using hrow
  unfold doSegmentFrame
  rw [if_neg (by rw [halive, hrow']; simp)]
  dsimp only
  rw [hpass]
  dsimp only [Session.heard]
  rw [hbody, hnew]
  simp only [Bool.false_eq_true, if_false, hphase, if_true]
  rw [if_neg (by simp; omega), if_neg (by omega)]

/-- A CLOSE in order ends the session. -/
theorem doSegmentFrame_close {g : Segment} (halive : s.alive = true) (hrow : s.host.row.isSome = true) (hkind : f.kind = 3)
    (hseq : f.seq = x.rx.ack) (hheld : x.rx.held = []) (hg : g.rsvd = 0) (hmsg : g.msg = 0xFFFFFFFF)
    (hlen : g.data.length = 16) (hzero : allZero (g.data.drop 2) = true) : Dropped x (doSegmentFrame f g true s) := by
  have hnum := State.session?_number hx
  rw [doSegmentFrame_held (isClose := true) hsec hver hrsvd htag hx hgen hphase halive hrow hkind hg (fun _ => ⟨hmsg, hlen, hzero⟩) (by omega) (by omega)
    (by simp [hheld])]
  have hfound : ((s.modHost (fun h => { h with received := hostCount h.received 1 })).modSession f.session
      (fun y => y.heard f s.hub.timer)).session? f.session = some (x.heard f s.hub.timer) :=
    session?_changed (s := s.modHost (fun h => { h with received := hostCount h.received 1 })) hx (fun _ => rfl)
  generalize ((s.modHost (fun h => { h with received := hostCount h.received 1 })).modSession f.session (fun y => y.heard f s.hub.timer)) = u at *
  have hkept := session?_changed hfound (f := fun y => { y with
    rx := { y.rx with held := y.rx.held ++ [{ seq := f.seq, isClose := true, seg := g }], oldKept := x.rx.oldKept.map (fun q => min q f.seq) } }) (fun _ => rfl)
  generalize u.modSession f.session (fun y =>
    { y with rx := { y.rx with held := y.rx.held ++ [{ seq := f.seq, isClose := true, seg := g }], oldKept := x.rx.oldKept.map (fun q => min q f.seq) } }) = v at *
  have hend : v.inOrder f.session (x.rx.held.length + 1) = v.endSession f.session 4 none := by
    rw [State.inOrder, hkept]
    simp [Session.heard, hheld, hseq]
  obtain ⟨⟨hses, hwaits, hfreed⟩, -⟩ := endSession_drops hkept 4 none
  have hdropped : Dropped x (v.endSession f.session 4 none) := ⟨hses, hwaits, hfreed⟩
  rw [hend]
  refine hdropped.outlasts (Outlasts.of_persist ?_)
  refine Persist.trans ?_ (Persist.watchBuffers _)
  refine Persist.trans ?_ (Persist.noteFrame ..)
  exact Persist.modSession _ _ _ (fun _ => rfl) (fun _ => rfl)

end Frame

end Sys2Proof.Machine

namespace Sys2Proof
open Machine
set_option Elab.async false

/-- Settles O19, by what the end of a session leaves. -/
theorem sessionsEnd : Obligations.SessionsEnd := by
  refine ⟨?silence, ?handshake, ?close, ?limit, ?tenant⟩
  case silence =>
    intro n x s halive hx hopen htime
    have hrun : doHeartbeatLoss n s = s.endSession n 2 (some .timeout) := by
      unfold doHeartbeatLoss
      rw [hx]
      simp only [halive, hopen, decide_eq_true htime, Bool.and_self, if_true]
    obtain ⟨⟨hses, hwaits, hfreed⟩, -⟩ := endSession_drops hx 2 (some .timeout)
    rw [State.session?_number hx] at hses hwaits hfreed
    exact ⟨_, congrArg Host.Outcome.next hrun, hses, hwaits, hfreed, endSession_quiet hx _ _, fun _ => endSession_closes hx _ _⟩
  case handshake =>
    intro n x s halive hx hopen htime
    have hrun : doHandshakeTimeout n s = s.endSession n 4 none := by
      unfold doHandshakeTimeout
      rw [hx]
      simp only [halive, hopen, decide_eq_true htime, Bool.not_false, Bool.and_self, if_true]
    obtain ⟨⟨hses, hwaits, hfreed⟩, -⟩ := endSession_drops hx 4 none
    rw [State.session?_number hx] at hses hwaits hfreed
    exact ⟨_, congrArg Host.Outcome.next hrun, hses, hwaits, hfreed, endSession_quiet hx _ _⟩
  case close =>
    intro f g n x s hn halive hrow hsec hver hkind hrsvd htag hx hgen hphase hold hseq hheld hg hmsg hlen hzero
    subst hn
    obtain ⟨hses, hwaits, hfreed⟩ := doSegmentFrame_close hsec hver hrsvd htag hx hgen hphase halive hrow hkind hseq hheld hg hmsg hlen hzero
    rw [State.session?_number hx] at hses hwaits hfreed
    exact ⟨_, rfl, hses, hwaits, hfreed⟩
  case limit =>
    intro n x toHost s halive hx hopen hframes
    have hnum := State.session?_number hx
    have hrun : doKeyLimitStop (some n) none none toHost s = s.endSession n 4 (some .keyExhausted) := by
      unfold doKeyLimitStop
      simp only [halive, Option.bind, hx, hopen, hnum]
      rw [if_neg (by simp), if_pos (by simp only [Bool.true_and]; exact decide_eq_true hframes)]
    obtain ⟨⟨hses, hwaits, hfreed⟩, -⟩ := endSession_drops hx 4 (some .keyExhausted)
    rw [hnum] at hses hwaits hfreed
    exact ⟨_, congrArg Host.Outcome.next hrun, hses, hwaits, hfreed, endSession_quiet hx _ _, fun _ => endSession_closes hx _ _⟩
  case tenant =>
    intro n x s halive hx hopen hrole htime hnodup
    have hrun : doHeartbeatLoss n s = s.endSession n 2 (some .timeout) := by
      unfold doHeartbeatLoss
      rw [hx]
      simp only [halive, hopen, decide_eq_true htime, Bool.and_self, if_true]
    refine ⟨_, congrArg Host.Outcome.next hrun, fun c hc howns => ?_, fun c hc howns => ?_⟩
    all_goals
      obtain ⟨d, hd, hid, hgen, hstate⟩ := endSession_places hx hrole 2 (some .timeout) hnodup c hc
      rw [howns] at hstate
      exact ⟨d, hd, hid, hgen, hstate⟩

end Sys2Proof

/-! ### HELLO and KEY_EXCHANGE -/

namespace Sys2Proof.Machine
set_option Elab.async false

/-- What stands once the frames of a HELLO have been counted. -/
def State.greeted (s : State) (frames : List (QFrame × Segment)) : State :=
  (s.modHost (fun h => { h with received := hostCount h.received frames.length })).hostDrops (frames.filter (fun x => !HsFits s x)).length

theorem length_filter_split {α : Type} (p : α → Bool) (l : List α) : l.length = (l.filter p).length + (l.filter (fun x => !p x)).length := by
  induction l with
  | nil => rfl
  | cons a l ih =>
    cases h : p a with
    | true =>
      rw [List.filter_cons_of_pos h, List.filter_cons_of_neg (by simp [h]), List.length_cons, List.length_cons]
      omega
    | false =>
      rw [List.filter_cons_of_neg (by simp [h]), List.filter_cons_of_pos (by simp [h]), List.length_cons, List.length_cons]
      omega

theorem greeted_eq (s : State) (frames : List (QFrame × Segment)) :
    (s.modHost (fun h => { h with received := hostCount h.received frames.length })).hostDrops (frames.length - (frames.filter (HsFits s)).length) =
      s.greeted frames := by
  have hlen := length_filter_split (HsFits s) frames
  unfold State.greeted
  rw [show frames.length - (frames.filter (HsFits s)).length = (frames.filter (fun x => !HsFits s x)).length by omega]

theorem mem_of_mem_sortBy {α : Type} {key : α → Nat} {l : List α} {x : α} (h : x ∈ sortBy key l) : x ∈ l := by
  have hins (y : α) (m : List α) : x ∈ insertBy key y m → x = y ∨ x ∈ m := by
    induction m with
    | nil => simp [insertBy]
    | cons z m ih =>
      unfold insertBy
      split
      · simp
      · intro hx
        rcases List.mem_cons.mp hx with rfl | hx
        · exact Or.inr List.mem_cons_self
        · exact (ih hx).imp_right (List.mem_cons_of_mem _)
  induction l with
  | nil => exact h
  | cons y l ih =>
    rcases hins y _ h with rfl | hx
    · exact List.mem_cons_self
    · exact List.mem_cons_of_mem _ (ih hx)

/-- HELLO by the first of the frames that break no check, and the run of its handshake and address. -/
theorem doHello_eq {s : State} {frames : List (QFrame × Segment)} (halive : s.alive = true) (hrow : s.host.row.isSome = true) :
    doHello frames s = ((frames.filter (HsFits s)).head?.map (fun f =>
      if !(HsRun s frames f).any (fun g => g.last) then s.greeted frames
      else
        let r := msgOf 0 (segsWhole 0 (HsRun s frames f)) ((HsRun s frames f).flatMap (fun g => g.data))
        if r.1 != Opcode.hello.code || r.2.1 || r.2.2.1 then (s.greeted frames).hostDrops 1
        else (s.greeted frames).meet f.1.seq f.1.peer r.2.2.2)).getD (s.greeted frames) := by
  have hrow' : s.host.row.isNone = false := by simpa [← Option.not_isSome] using hrow
  have hrun : doHello frames s = if !s.alive || s.host.row.isNone then s else match frames.filter (HsFits s) with
    | [] => (s.modHost (fun h => { h with received := hostCount h.received frames.length })).hostDrops (frames.length - (frames.filter (HsFits s)).length)
    | f :: _ =>
      if !(HsRun s frames f).any (fun g => g.last) then
        (s.modHost (fun h => { h with received := hostCount h.received frames.length })).hostDrops (frames.length - (frames.filter (HsFits s)).length)
      else
        let r := msgOf 0 (segsWhole 0 (HsRun s frames f)) ((HsRun s frames f).flatMap (fun g => g.data))
        if r.1 != Opcode.hello.code || r.2.1 || r.2.2.1 then
          ((s.modHost (fun h => { h with received := hostCount h.received frames.length })).hostDrops (frames.length - (frames.filter (HsFits s)).length)).hostDrops 1
        else ((s.modHost (fun h => { h with received := hostCount h.received frames.length })).hostDrops
          (frames.length - (frames.filter (HsFits s)).length)).meet f.1.seq f.1.peer r.2.2.2 := by
    unfold doHello
    congr 1
  rw [hrun, if_neg (by rw [halive, hrow']; simp), greeted_eq]
  cases frames.filter (HsFits s) <;> rfl

/-- A HELLO whose frames make up a whole message is met. -/
theorem doHello_whole {s : State} {frames : List (QFrame × Segment)} {f : QFrame × Segment} {m : Msg} (halive : s.alive = true)
    (hrow : s.host.row.isSome = true) (hfind : frames.find? (HsFits s) = some f) (hlast : (HsRun s frames f).any (fun g => g.last) = true)
    (hmsg : msgOf 0 (segsWhole 0 (HsRun s frames f)) ((HsRun s frames f).flatMap (fun g => g.data)) = (Opcode.hello.code, false, false, m)) :
    doHello frames s = (s.greeted frames).meet f.1.seq f.1.peer m := by
  rw [doHello_eq halive hrow, List.head?_filter, hfind, Option.map_some, Option.getD_some, hlast]
  dsimp only
  rw [hmsg]
  simp

/-- A HELLO without its last segment is not answered. -/
theorem doHello_unfinished {s : State} {frames : List (QFrame × Segment)} (halive : s.alive = true) (hrow : s.host.row.isSome = true)
    (hnone : (frames.filter (HsFits s)).all (fun x => !x.2.last) = true) : doHello frames s = s.greeted frames := by
  have hrun (f : QFrame × Segment) : (HsRun s frames f).any (fun g => g.last) = false := by
    rw [List.any_eq_false]
    intro g hg
    obtain ⟨x, hx, rfl⟩ := List.mem_map.mp (mem_of_mem_sortBy hg)
    simpa using List.all_eq_true.mp hnone x (List.mem_filter.mp hx).1
  rw [doHello_eq halive hrow]
  cases (frames.filter (HsFits s)).head? with
  | none => rfl
  | some f =>
    rw [Option.map_some, Option.getD_some, hrun]
    rfl

/-- The payload of an accepted HELLO's answer begins with the device's features. -/
theorem greet_payload (s : State) (peer : Nat) (m : Msg) (n g : Nat) : ∃ p, (s.greet peer m n g).2.2 = helloMaps ++ p := by
  unfold State.greet
  simp only [List.append_assoc]
  exact ⟨_, rfl⟩

theorem sendHs_out (u : State) (hs peer tag : Nat) (st : Status) (payload : Bytes) : (u.sendHs hs peer tag st payload).out =
    u.out ++ Out.hello hs tag st.code payload :: (segmentsOf 0 1024 2 0 (headerBytes Opcode.hello.code true false 0 0 tag payload.length st.code 0 ++ payload)).map
      (fun g => Out.queko (u.host.hdr peer) { kind := 2, seq := hs } g) := rfl

theorem sendHs_keeps (u : State) (hs peer tag : Nat) (st : Status) (payload : Bytes) : ∃ o h, u.sendHs hs peer tag st payload = { u with out := o, host := h } :=
  ⟨_, _, rfl⟩

theorem greeted_keeps (s : State) (frames : List (QFrame × Segment)) (peer : Nat) :
    (s.greeted frames).out = s.out ∧ (s.greeted frames).host.hdr peer = s.host.hdr peer ∧
    (s.greeted frames).logs = { s.logs with hostDiscarded := min (s.logs.hostDiscarded + (frames.filter (fun x => !HsFits s x)).length) (2 ^ 64 - 1) } ∧
    { s.greeted frames with out := s.out, host := s.host, logs := s.logs } = s := ⟨rfl, rfl, rfl, rfl⟩

/-- KEY_EXCHANGE on a session in handshake, by what opens it. -/
theorem doKeyExchange_handshake {m : Msg} {x : Session} {s : State} (halive : s.alive = true) (hturn : s.inTurn .keyExchange m = true)
    (hx : (s.takeMail .keyExchange m).session? m.session = some x) (hclosed : x.isOpen = false) : doKeyExchange m s = doKeyOpen m s := by
  have hopen : ∃ y, s.session? m.session = some y ∧ y.isOpen = false := by
    have hmail : (s.takeMail .keyExchange m).session? m.session = (s.modSession m.session (fun x =>
        { x with rx := { x.rx with mailbox := dropFirst (Opcode.keyExchange.code, m) x.rx.mailbox } })).session? m.session :=
      congrArg (fun l => l.find? (fun x => x.number == m.session)) (takeMail_sessions s .keyExchange m)
    rw [hmail, State.session?_modSession] at hx
    rotate_left
    · exact fun _ => rfl
    obtain ⟨y, hy, rfl⟩ := Option.map_eq_some_iff.mp hx
    refine ⟨y, hy, ?_⟩
    rw [if_pos rfl] at hclosed
    exact hclosed
  obtain ⟨y, hy, hyopen⟩ := hopen
  unfold doKeyExchange
  rw [hy, if_pos (by simp [halive, hturn, hyopen])]

end Sys2Proof.Machine

namespace Sys2Proof
open Machine
set_option Elab.async false

/-- Settles O17, by what a HELLO whose frames are whole and what a KEY_EXCHANGE leave. -/
theorem helloAndKeyExchangeOpenSession : Obligations.HelloAndKeyExchangeOpenSession := by
  refine ⟨?accepted, ?refused, ?unfinished, ?open_, ?denied⟩
  case accepted =>
    intro q g0 more frames f m n sg s halive hrow hframes hfind hlast hmsg hstatus hnext
    subst hframes
    have hrun := doHello_whole halive hrow hfind hlast hmsg
    generalize hu : s.greeted ((q, g0) :: more) = u at hrun
    have hmeet : u.meet f.1.seq f.1.peer m = ({ (u.greet f.1.peer m n sg).1 with
        sessions := u.sessions ++ [{ (u.greet f.1.peer m n sg).2.1 with hsId := f.1.seq }],
        sessionsFreed := u.sessionsFreed.filter (fun f => f.1 != n) } : State).sendHs f.1.seq f.1.peer m.tag .ok (u.greet f.1.peer m n sg).2.2 := by
      unfold State.meet
      rw [show u.helloStatus m = .ok by rw [← hu]; exact hstatus, show u.nextSession = some (n, sg) by rw [← hu]; exact hnext]
      rfl
    obtain ⟨p, hp⟩ := greet_payload u f.1.peer m n sg
    rw [hp] at hmeet
    obtain ⟨hout, hhdr, hlogs, hkeep⟩ := greeted_keeps s ((q, g0) :: more) f.1.peer
    rw [hu] at hout hhdr hlogs
    generalize hv : ({ (u.greet f.1.peer m n sg).1 with
        sessions := u.sessions ++ [{ (u.greet f.1.peer m n sg).2.1 with hsId := f.1.seq }],
        sessionsFreed := u.sessionsFreed.filter (fun f => f.1 != n) } : State) = v at hmeet
    have hsent := sendHs_out v f.1.seq f.1.peer m.tag .ok (helloMaps ++ p)
    obtain ⟨_, _, hrest⟩ := sendHs_keeps v f.1.seq f.1.peer m.tag .ok (helloMaps ++ p)
    rw [show v.out = u.out by rw [← hv]; rfl, show v.host.hdr f.1.peer = u.host.hdr f.1.peer by rw [← hv]; rfl, hout, hhdr] at hsent
    refine ⟨_, congrArg Host.Outcome.next (hrun.trans hmeet), ⟨{ (u.greet f.1.peer m n sg).2.1 with hsId := f.1.seq }, ?_, ?_⟩, ⟨p, hsent⟩, ?_⟩
    · rw [hrest, ← hv, ← hu]; rfl
    · rw [← hu]
      refine ⟨rfl, rfl, rfl, rfl, rfl, ?_, rfl, rfl, rfl, rfl, rfl⟩
      show Role.ofCode (field _ 1 0) = _
      simp [field]
    · rw [hrest]
      refine ⟨?_, ?_, ?_, ?_, ?_, ?_⟩
      · rw [← hv, ← hu]; rfl
      · rw [← hv, ← hu]; rfl
      · rw [← hv, ← hu]; rfl
      · rw [← hv, ← hu]; rfl
      · rw [← hv, ← hu]; rfl
      · exact (show v.logs = u.logs by rw [← hv]; rfl).trans hlogs
  case refused =>
    intro q g0 more frames f m s halive hrow hframes hfind hlast hmsg hstatus
    subst hframes
    have hrun := doHello_whole halive hrow hfind hlast hmsg
    have hmeet : (s.greeted ((q, g0) :: more)).meet f.1.seq f.1.peer m =
        (s.greeted ((q, g0) :: more)).sendHs f.1.seq f.1.peer m.tag (s.helloStatus m) (helloMaps ++ List.replicate 1856 0) := by
      unfold State.meet
      split
      · next h _ => exact absurd h hstatus
      · rfl
    generalize List.replicate 1856 (0 : Byte) = p at hmeet
    obtain ⟨hout, hhdr, hlogs, hkeep⟩ := greeted_keeps s ((q, g0) :: more) f.1.peer
    have hsent := sendHs_out (s.greeted ((q, g0) :: more)) f.1.seq f.1.peer m.tag (s.helloStatus m) (helloMaps ++ p)
    obtain ⟨_, _, hrest⟩ := sendHs_keeps (s.greeted ((q, g0) :: more)) f.1.seq f.1.peer m.tag (s.helloStatus m) (helloMaps ++ p)
    rw [hout, hhdr] at hsent
    refine ⟨_, congrArg Host.Outcome.next (hrun.trans hmeet), ⟨p, hsent⟩, ?_⟩
    rw [hrest]
    exact ⟨hlogs, hkeep⟩
  case unfinished =>
    intro q g0 more frames s halive hrow hframes hnone
    subst hframes
    exact ⟨_, congrArg Host.Outcome.next (doHello_unfinished halive hrow hnone), rfl, rfl⟩
  case open_ =>
    intro m x s halive hturn hx hclosed hrefusal harg hlen hzero hverify
    obtain ⟨_, _, _, hmail⟩ := Sends.takeMail s .keyExchange m
    have hstatus : (s.takeMail .keyExchange m).openStatus x m = .ok := by
      unfold State.openStatus
      rw [hrefusal, show exchangeCheck m false = none by simp [exchangeCheck, firstOf, harg, hlen]]
      dsimp only
      rw [hzero, show (s.takeMail .keyExchange m).verifies x.hostKey (x.transcript ++ ascii "host") (slice m.payload 0 114) = true by rw [hmail]; exact hverify]
      rfl
    have hrun : doKeyExchange m s = ((s.takeMail .keyExchange m).modSession m.session (fun y => { y with isOpen := true, lastFrame := s.hub.timer })).answer
        .keyExchange m (.of .ok) := by
      rw [doKeyExchange_handshake halive hturn hx hclosed]
      unfold doKeyOpen
      dsimp only
      rw [hx]
      dsimp only
      rw [hstatus]
    have hset := session?_changed hx (f := fun y => { y with isOpen := true, lastFrame := s.hub.timer }) (fun _ => rfl)
    obtain ⟨z, hz, hstand⟩ := answer_session hset .keyExchange m (.of .ok)
    have hsends := (Sends.takeMail s .keyExchange m).trans (Sends.modSession _ m.session (fun y => { y with isOpen := true, lastFrame := s.hub.timer }))
    generalize (s.takeMail .keyExchange m).modSession m.session (fun y => { y with isOpen := true, lastFrame := s.hub.timer }) = u at *
    refine ⟨_, congrArg Host.Outcome.next hrun, Answered.of_grown hsends.out (State.answer_leaves hset), ?_, z, hz, ?_⟩
    · exact (hsends.trans (Sends.answer u .keyExchange m (.of .ok))).onlySent
    · exact ⟨(congrArg Session.isOpen hstand :), (congrArg Session.lastFrame hstand :), (congrArg Session.role hstand :), (congrArg Session.features hstand :),
        (congrArg Session.keyIn hstand :), (congrArg Session.keyOut hstand :)⟩
  case denied =>
    intro m x s halive hturn hx hclosed hrefusal harg hlen
    have hstatus : (s.takeMail .keyExchange m).openStatus x m = .denied := by
      unfold State.openStatus
      rw [hrefusal, show exchangeCheck m false = some .denied by simp [exchangeCheck, firstOf, harg, hlen]]
    have hrun : doKeyExchange m s = ((s.takeMail .keyExchange m).answer .keyExchange m (.of .denied)).endSession m.session 4 none := by
      rw [doKeyExchange_handshake halive hturn hx hclosed]
      unfold doKeyOpen
      dsimp only
      rw [hx]
      dsimp only
      rw [hstatus]
    obtain ⟨z, hz, -⟩ := answer_session hx .keyExchange m (.of .denied)
    obtain ⟨hdropped, o, hout⟩ := endSession_drops hz 4 none
    have hnum := State.session?_number hz
    refine ⟨_, congrArg Host.Outcome.next hrun, hnum ▸ hdropped.session, fun _ => ?_⟩
    have hans := Answered.of_grown (Sends.takeMail s .keyExchange m).out (State.answer_leaves hx (op := .keyExchange) (r := .of .denied))
    obtain ⟨a, ha⟩ := ((Sends.takeMail s .keyExchange m).trans (Sends.answer _ .keyExchange m (.of .denied))).out
    unfold Answered at hans ⊢
    rw [hout]
    show _ ∈ (((s.takeMail .keyExchange m).answer .keyExchange m (.of .denied)).out ++ o).drop s.out.length
    rw [ha] at hans ⊢
    rw [List.drop_left] at hans
    rw [List.append_assoc, List.drop_left]
    exact List.mem_append_left _ hans

end Sys2Proof

/-! ### Frames of a session, its acknowledgements and resends -/

namespace Sys2Proof.Machine
set_option Elab.async false

/-- Every opcode is the one of its code. -/
theorem ofCode_code (op : Opcode) : Opcode.ofCode op.code = some op := by cases op <;> rfl

/-- The session once a frame has been counted and an ACK may have gone. -/
theorem noteFrame_session {u : State} {n : Nat} {y : Session} (hy : u.session? n = some y) :
    (∃ z since, (u.noteFrame n).session? n = some z ∧ z.standing = { y with rx := { y.rx with since := since } }.standing) ∧ Sends u (u.noteFrame n) := by
  have hset := session?_changed hy (f := fun x => { x with
    rx := { x.rx with unacked := x.rx.unacked + 1, since := if x.rx.unacked = 0 then u.hub.timer else x.rx.since } }) (fun _ => rfl)
  have hsends := Sends.modSession u n (fun x => { x with
    rx := { x.rx with unacked := x.rx.unacked + 1, since := if x.rx.unacked = 0 then u.hub.timer else x.rx.since } })
  unfold State.noteFrame
  dsimp only
  rw [hset]
  dsimp only
  split
  · obtain ⟨z, hz, hstand⟩ := (SessionsStand.sendAck _ n).session? hset
    exact ⟨⟨z, _, hz, hstand⟩, hsends.trans (Sends.sendAck ..)⟩
  · exact ⟨⟨_, _, hset, rfl⟩, hsends⟩

/-- What a DATA frame leaves once what is in order has been taken. -/
theorem taken_session {u : State} {n : Nat} {y : Session} (hy : u.session? n = some y) :
    ∃ z since kept, (((u.modSession n Session.shedOld).noteFrame n).watchBuffers).session? n = some z ∧
      { z.standing with oldIn := [], oldOut := [] } =
        { y.standing with oldIn := [], oldOut := [], rx := { y.standing.rx with since := since, oldKept := kept } } := by
  have hshed := session?_changed hy (f := Session.shedOld) (fun _ => rfl)
  obtain ⟨⟨z, since, hz, hstand⟩, -⟩ := noteFrame_session hshed
  refine ⟨z, since, y.shedOld.rx.oldKept, ?_, ?_⟩
  · exact (congrArg (fun l => l.find? (fun x => x.number == n)) (watchBuffers_sessions _)).trans hz
  · rw [hstand]
    rfl

theorem taken_sends (u : State) (n : Nat) (h : ∃ y, u.session? n = some y) : Sends u (((u.modSession n Session.shedOld).noteFrame n).watchBuffers) := by
  obtain ⟨y, hy⟩ := h
  obtain ⟨-, hsends⟩ := noteFrame_session (session?_changed hy (f := Session.shedOld) (fun _ => rfl))
  exact ((Sends.modSession ..).trans hsends).trans (Sends.watchBuffers _)

/-- The session while a frame is held. -/
def Session.holding (x : Session) (f : QFrame) (now : Nat) (g : Segment) : Session :=
  { x.heard f now with
    rx := { (x.heard f now).rx with held := x.rx.held ++ [{ seq := f.seq, isClose := false, seg := g }], oldKept := x.rx.oldKept.map (fun q => min q f.seq) } }

section Frame
variable {s : State} {f : QFrame} {x : Session} {g : Segment} (halive : s.alive = true) (hrow : s.host.row.isSome = true)
  (hsec : s.host.cfg.macsecReq = false ∨ f.sec = true) (hver : f.ver = 1) (hkind : f.kind = 0) (hrsvd : f.rsvd = 0)
  (htag : f.tagOk = true) (hx : s.session? f.session = some x) (hgen : x.gen = f.sgen) (hphase : f.kphase = x.rx.kphase) (hg : g.rsvd = 0)
include halive hrow hsec hver hkind hrsvd htag hx hgen hphase hg

/-- A DATA frame that passes is held, and then what is in order is taken. -/
theorem doSegmentFrame_data (hlow : x.rx.ack ≤ f.seq) (hhigh : f.seq < x.rx.ack + 4096) (hnew : x.rx.held.any (fun h => h.seq == f.seq) = false) :
    ∃ v, Sends s v ∧ v.session? f.session = some (x.holding f s.hub.timer g) ∧
      doSegmentFrame f g false s = ((((v.inOrder f.session (x.rx.held.length + 1)).modSession f.session Session.shedOld).noteFrame f.session).watchBuffers) := by
  have hrun := doSegmentFrame_held (isClose := false) hsec hver hrsvd htag hx hgen hphase halive hrow hkind hg (by simp) hlow hhigh hnew
  refine ⟨_, ?_, ?_, hrun⟩
  · exact ((Sends.modHost ..).trans (Sends.modSession ..)).trans (Sends.modSession ..)
  · refine session?_changed (session?_changed (s := s.modHost (fun h => { h with received := hostCount h.received 1 })) hx ?_) ?_
    · exact fun _ => rfl
    · exact fun _ => rfl

end Frame

/-- The session once its one held frame, in order, has been taken. -/
def Session.ordered (y : Session) (g : Segment) : Session := { y with rx := { y.rx with ack := y.rx.ack + 1, held := [], segs := y.rx.segs ++ [g] } }

/-- One held frame in order joins the segments, and what is whole is handed over. -/
theorem inOrder_one {v : State} {n : Nat} {y : Session} {h : HeldFrame} (hy : v.session? n = some y) (hheld : y.rx.held = [h]) (hseq : h.seq = y.rx.ack)
    (hdata : h.isClose = false) (hmsg : h.seg.msg = y.rx.nextMsg) :
    ∃ u, Sends v u ∧ u.session? n = some (y.ordered h.seg) ∧ v.inOrder n 1 = u.assemble n (y.rx.segs.length + 1) := by
  refine ⟨v.modSession n (fun z => { z with
    rx := { z.rx with ack := z.rx.ack + 1, held := z.rx.held.filter (fun k => k.seq != h.seq), segs := if h.seg.msg < z.rx.nextMsg then z.rx.segs else z.rx.segs ++ [h.seg] } }),
    Sends.modSession .., ?_, ?_⟩
  · refine (session?_changed hy ?_).trans (congrArg some ?_)
    · exact fun _ => rfl
    · rw [hheld, hmsg, if_neg (Nat.lt_irrefl _)]
      simp [Session.ordered]
  · rw [State.inOrder, hy]
    simp [hheld, hseq, hdata, State.inOrder]

/-- While no last segment of the next message is there, none is handed over. -/
theorem assemble_waits {u : State} {n : Nat} {y : Session} (hy : u.session? n = some y)
    (hnone : (y.rx.segs.any (fun h => h.msg == y.rx.nextMsg && h.last)) = false) (fuel : Nat) : u.assemble n fuel = u := by
  cases fuel with
  | zero => rfl
  | succ k =>
    rw [State.assemble, hy]
    simp only [List.any_filter, hnone, Bool.not_false, if_true]

/-- A request that is one whole segment goes into the mailbox of its open session. -/
theorem assemble_whole {u : State} {n : Nat} {y : Session} {g : Segment} {op : Opcode} {m : Msg} (hy : u.session? n = some y)
    (hsegs : y.rx.segs = [g]) (hmsg : g.msg = y.rx.nextMsg) (hlast : g.last = true) (hoff : g.off = 0) (hlen : g.slen = g.data.length)
    (hopen : y.isOpen = true) (hfamily : op.code / 256 ≠ 12) (hhello : op ≠ .hello) (hevent : op ≠ .event)
    (hcode : (msgOf n true g.data).1 = op.code) (hask : (msgOf n true g.data).2.1 = false) (hm : (msgOf n true g.data).2.2.2 = m) :
    ∃ t, u.assemble n 1 = t ∧ Sends u t ∧
      t.session? n = some { y with rx := { y.rx with segs := [], nextMsg := y.rx.nextMsg + 1, mailbox := y.rx.mailbox ++ [(op.code, m)] } } := by
  have hnext := session?_changed hy (f := fun z => { z with
    rx := { z.rx with segs := z.rx.segs.filter (fun k => k.msg != y.rx.nextMsg), nextMsg := z.rx.nextMsg + 1 } }) (fun _ => rfl)
  have hsends := Sends.modSession u n (fun z => { z with
    rx := { z.rx with segs := z.rx.segs.filter (fun k => k.msg != y.rx.nextMsg), nextMsg := z.rx.nextMsg + 1 } })
  have hrun : u.assemble n 1 = (u.modSession n (fun z => { z with
    rx := { z.rx with segs := z.rx.segs.filter (fun k => k.msg != y.rx.nextMsg), nextMsg := z.rx.nextMsg + 1 } })).handOver n (msgOf n true g.data) := by
    rw [State.assemble, hy]
    simp [hsegs, hmsg, hlast, sortBy, insertBy, segsWhole, hoff, hlen, State.assemble]
  generalize u.modSession n (fun z => { z with
    rx := { z.rx with segs := z.rx.segs.filter (fun k => k.msg != y.rx.nextMsg), nextMsg := z.rx.nextMsg + 1 } }) = v at *
  have hput : v.handOver n (msgOf n true g.data) = v.putMail n op.code m := by
    unfold State.handOver
    rw [hnext]
    dsimp only
    rw [hask, hcode, hm, if_neg (by simp), if_neg (by simp [hopen]), if_neg hfamily, ofCode_code]
    cases op <;> first | rfl | exact absurd rfl hhello | exact absurd rfl hevent
  refine ⟨_, hrun.trans hput, hsends.trans (Sends.modSession ..), (session?_changed hnext ?_).trans (congrArg some ?_)⟩
  · exact fun _ => rfl
  · simp [hsegs, hmsg]

/-- A session with nothing that waits keeps what is unacknowledged when its window moves. -/
theorem pump_unwaiting {s : State} {n : Nat} {x : Session} (hx : s.session? n = some x) (hwait : x.tx.waiting = []) :
    ∃ y, (s.pump n).session? n = some y ∧ y.rx = x.rx ∧ y.tx.window = x.tx.window ∧ y.tx.unacked = x.tx.unacked := by
  cases hsends : s.hostSends with
  | false => exact ⟨x, (congrArg (fun t => State.session? t n) (pump_held hsends n)).trans hx, rfl, rfl, rfl⟩
  | true =>
    have hfind : (s.pump n).session? n = (s.pumped n x).session? n :=
      (congrArg (fun t => State.session? t n) (pump_eq hx hsends)).trans
        (congrArg (fun l => l.find? (fun z => z.number == n)) (turnHost_sessions _))
    refine ⟨_, hfind.trans (session?_replaced hx ?_), rfl, rfl, ?_⟩
    · exact (State.session?_number hx : x.number = n)
    · simp [Session.pump, hwait, framesOf]

/-- The session once an ACK frame has been taken. -/
def Session.acked (y : Session) (f : QFrame) (b : AckBody) (x : Session) (now : Nat) : Session :=
  let gone := x.tx.unacked.filter (ackCovers b)
  let t : TxHalf := { y.tx with unacked := x.tx.unacked.filter (fun u => !ackCovers b u), window := b.window,
                                lastAdvance := if gone.isEmpty then y.tx.lastAdvance else now,
                                rto := if gone.isEmpty then y.tx.rto else 4096 }
  ({ y with rx := { y.rx with ackSeq := f.seq + 1 }, tx := t.pace b.ack b.ce } : Session).shedOld

/-- The frames of a session that a later one, covered, has overtaken. -/
def overtaken (b : AckBody) (x : Session) : List SentFrame :=
  (x.tx.unacked.filter (fun u => !ackCovers b u)).filter (fun u => decide (b.ack ≤ u.seq) && decide (0 < b.sack >>> (u.seq - b.ack)))

/-- What is sent again leaves, and no session changes. -/
theorem resendFrames_eq {s : State} {n : Nat} {x : Session} (hx : s.session? n = some x) (hsends : s.hostSends = true) (fs : List SentFrame) :
    s.resendFrames n fs = ({ s with out := s.out ++ fs.map (s.frameOut x) } : State).modHost (fun h => { h with resent := hostCount h.resent fs.length }) := by
  unfold State.resendFrames
  rw [hx]
  simp only [hsends]
  rfl

theorem resendFrames_held {s : State} (hsends : s.hostSends = false) (n : Nat) (fs : List SentFrame) : s.resendFrames n fs = s := by
  unfold State.resendFrames
  rw [if_pos (by simp [hsends])]

theorem resendFrames_session {s : State} {n : Nat} {x : Session} (hx : s.session? n = some x) (fs : List SentFrame) :
    (s.resendFrames n fs).session? n = some x ∧ Sends s (s.resendFrames n fs) := by
  cases hsends : s.hostSends with
  | false =>
    rw [resendFrames_held hsends]
    exact ⟨hx, Sends.refl s⟩
  | true =>
    rw [resendFrames_eq hx hsends]
    exact ⟨hx, s.sessions, _, _, rfl⟩

end Sys2Proof.Machine

namespace Sys2Proof
open Machine
set_option Elab.async false

/-- Settles O20, by what each frame and timer leaves of its session. -/
theorem framesMoveSegments : Obligations.FramesMoveSegments := by
  refine ⟨?part, ?whole, ?ahead, ?ack, ?timer, ?resend⟩
  case part =>
    intro f g x s halive hrow hsec hver hkind hrsvd htag hx hgen hphase hold hseq hheld hg hmsg hlast hnone
    obtain ⟨v, hsv, hv, hrun⟩ := doSegmentFrame_data halive hrow hsec hver hkind hrsvd htag hx hgen hphase hg (by omega) (by omega) (by simp [hheld])
    obtain ⟨u, hvu, hu, hin⟩ := inOrder_one hv (h := { seq := f.seq, isClose := false, seg := g }) (by simp [Session.holding, hheld]) hseq rfl hmsg
    have hquiet : (x.rx.segs ++ [g]).any (fun h => h.msg == x.rx.nextMsg && h.last) = false := by
      rw [List.any_append, hnone]
      simp [hlast]
    rw [assemble_waits hu hquiet] at hin
    rw [hheld, show ([] : List HeldFrame).length + 1 = 1 from rfl, hin] at hrun
    obtain ⟨z, since, kept, hz, hstand⟩ := taken_session hu
    refine ⟨_, congrArg Host.Outcome.next hrun, ⟨z, hz, ?_⟩, ((hsv.trans hvu).trans (taken_sends u f.session ⟨_, hu⟩)).onlySent⟩
    refine ⟨(congrArg (fun y : Session => y.rx.ack) hstand :), (congrArg (fun y : Session => y.rx.segs) hstand :),
      (congrArg (fun y : Session => y.rx.mailbox) hstand :), (congrArg (fun y : Session => y.lastFrame) hstand :),
      (congrArg (fun y : Session => y.peer) hstand :), (congrArg (fun y : Session => y.rx.frames) hstand :).trans ?_⟩
    show x.rx.frames + (if f.kphase = x.rx.kphase then 1 else 0) = _
    rw [if_pos hphase]
  case whole =>
    intro f g x op s halive hrow hsec hver hkind hrsvd htag hx hgen hphase hold hseq hheld hopen hg hmsg hno hlast hoff hlen hsegs hfamily hhello hevent hcode hask
    obtain ⟨v, hsv, hv, hrun⟩ := doSegmentFrame_data halive hrow hsec hver hkind hrsvd htag hx hgen hphase hg (by omega) (by omega) (by simp [hheld])
    obtain ⟨u, hvu, hu, hin⟩ := inOrder_one hv (h := { seq := f.seq, isClose := false, seg := g }) (by simp [Session.holding, hheld]) hseq rfl hmsg
    obtain ⟨w, hw, huw, hfound⟩ := assemble_whole (g := g) (op := op) hu (by simp [Session.ordered, Session.holding, Session.heard, hsegs]) hmsg hlast hoff hlen hopen hfamily hhello hevent
      hcode hask rfl
    rw [show (x.holding f s.hub.timer g).rx.segs.length + 1 = 1 by simp [Session.holding, Session.heard, hsegs], hw] at hin
    rw [hheld, show ([] : List HeldFrame).length + 1 = 1 from rfl, hin] at hrun
    obtain ⟨z, since, kept, hz, hstand⟩ := taken_session hfound
    refine ⟨_, congrArg Host.Outcome.next hrun, ⟨z, hz, ?_⟩, (((hsv.trans hvu).trans huw).trans (taken_sends w f.session ⟨_, hfound⟩)).onlySent⟩
    exact ⟨(congrArg (fun y : Session => y.rx.ack) hstand :), (congrArg (fun y : Session => y.rx.segs) hstand :),
      (congrArg (fun y : Session => y.rx.nextMsg) hstand :), (congrArg (fun y : Session => y.rx.mailbox) hstand :)⟩
  case ahead =>
    intro f g x s halive hrow hsec hver hkind hrsvd htag hx hgen hphase hold hlow hhigh hnone hg
    have hnew : x.rx.held.any (fun h => h.seq == f.seq) = false := by
      rw [List.any_eq_false] at hnone ⊢
      exact fun h hh heq => hnone h hh (by simp [heq])
    obtain ⟨v, hsv, hv, hrun⟩ := doSegmentFrame_data halive hrow hsec hver hkind hrsvd htag hx hgen hphase hg (by omega) hhigh hnew
    have hin : v.inOrder f.session (x.rx.held.length + 1) = v := by
      rw [State.inOrder, hv]
      have hfind : (x.holding f s.hub.timer g).rx.held.find? (fun h => h.seq == (x.holding f s.hub.timer g).rx.ack) = none := by
        rw [List.find?_eq_none]
        intro h hh
        rcases List.mem_append.mp hh with hh | hh
        · have := List.any_eq_false.mp hnone h hh
          intro heq
          exact this (by simp [show (h.seq == x.rx.ack) = true from heq])
        · rw [List.mem_singleton.mp hh]
          simpa [Session.holding, Session.heard] using Nat.ne_of_gt hlow
      simp only [hfind]
    rw [hin] at hrun
    obtain ⟨z, since, kept, hz, hstand⟩ := taken_session hv
    refine ⟨_, congrArg Host.Outcome.next hrun, ⟨z, hz, ?_⟩, (hsv.trans (taken_sends v f.session ⟨_, hv⟩)).onlySent⟩
    exact ⟨(congrArg (fun y : Session => y.rx.ack) hstand :), (congrArg (fun y : Session => y.rx.held) hstand :),
      (congrArg (fun y : Session => y.rx.segs) hstand :), (congrArg (fun y : Session => y.rx.mailbox) hstand :)⟩
  case ack =>
    intro f b x s halive hrow hsec hver hkind hrsvd htag hx hgen hphase hb hwin hseq hwait
    have hpass := hostFrame_passes hsec hver hrsvd htag hx hgen hphase hkind
    have hheard : ((s.modHost (fun h => { h with received := hostCount h.received 1 })).modSession f.session
        (fun y => y.heard f s.hub.timer)).session? f.session = some (x.heard f s.hub.timer) := by
      refine session?_changed (s := s.modHost (fun h => { h with received := hostCount h.received 1 })) hx ?_
      exact fun _ => rfl
    have hacked := session?_changed hheard (f := fun y => (y.acked f b x s.hub.timer)) (fun _ => rfl)
    have hrow' : s.host.row.isNone = false := by simpa [← Option.not_isSome] using hrow
    have hrun : doAckFrame f b s = ((((s.modHost (fun h => { h with received := hostCount h.received 1 })).modSession f.session
        (fun y => y.heard f s.hub.timer)).modSession f.session (fun y => y.acked f b x s.hub.timer)).resendFrames f.session (overtaken b x)).pump f.session := by
      unfold doAckFrame
      rw [if_neg (by simp [halive, hrow'])]
      dsimp only
      rw [hpass]
      dsimp only
      rw [if_neg (by
        have : ¬ f.seq < (x.heard f s.hub.timer).rx.ackSeq := Nat.not_lt.mpr hseq
        simp [hb, this, hwin])]
      rfl
    have hsent : Sends s (((s.modHost (fun h => { h with received := hostCount h.received 1 })).modSession f.session
        (fun y => y.heard f s.hub.timer)).modSession f.session (fun y => y.acked f b x s.hub.timer)) :=
      ((Sends.modHost ..).trans (Sends.modSession ..)).trans (Sends.modSession ..)
    obtain ⟨hfound, hresent⟩ := resendFrames_session hacked (overtaken b x)
    obtain ⟨y, hy, hrx, hwindow, hunacked⟩ := pump_unwaiting hfound hwait
    refine ⟨_, congrArg Host.Outcome.next hrun, ⟨y, hy, ?_, hwindow, hunacked⟩, ?_, ((hsent.trans hresent).trans (Sends.pump ..)).onlySent⟩
    · exact (congrArg RxHalf.ackSeq hrx :)
    · intro u hu hopen hlow hover hsends
      obtain ⟨o, hout⟩ := (Sends.pump (((((s.modHost (fun h => { h with received := hostCount h.received 1 })).modSession f.session
        (fun y => y.heard f s.hub.timer)).modSession f.session (fun y => y.acked f b x s.hub.timer)).resendFrames f.session (overtaken b x))) f.session).out
      rw [hout, resendFrames_eq hacked hsends]
      have hmiss : u ∈ overtaken b x := by
        refine List.mem_filter.mpr ⟨List.mem_filter.mpr ⟨hu, by simp [hopen]⟩, ?_⟩
        simp only [decide_eq_true hlow, decide_eq_true hover, Bool.and_self]
      change _ ∈ ((s.out ++ (overtaken b x).map (s.frameOut { x with peer := f.peer })) ++ o).drop s.out.length
      rw [List.append_assoc, List.drop_left]
      exact List.mem_append_left _ (List.mem_map_of_mem hmiss)
  case timer =>
    intro n x s halive hsends hx hsome htime
    have hrun : doAckTimer n s = s.sendAck n := by
      unfold doAckTimer
      rw [hx]
      simp only [halive, decide_eq_true hsome, decide_eq_true htime, Bool.and_self, if_true]
    have hset := session?_changed hx (f := fun y => { y with rx := { y.rx with unacked := 0, ce := 0, offered := s.windowFor x }, tx := { y.tx with ackSeq := y.tx.ackSeq + 1, frames := y.tx.frames + 1 } })
      (fun _ => rfl)
    have hack : s.sendAck n = ({ s.modSession n (fun y =>
        { y with rx := { y.rx with unacked := 0, ce := 0, offered := s.windowFor x }, tx := { y.tx with ackSeq := y.tx.ackSeq + 1, frames := y.tx.frames + 1 } }) with
          out := s.out ++ [Out.ack (s.host.hdr x.peer) { kind := 1, session := n, kphase := x.tx.kphase, sgen := x.gen, seq := x.tx.ackSeq }
            { ack := x.rx.ack, sack := x.rx.sack, window := s.windowFor x, ce := x.rx.ce }] } : State).modHost (fun h => { h with sent := hostCount h.sent 1 }) := by
      unfold State.sendAck
      rw [hx]
      simp only [hsends]
      rfl
    exact ⟨_, congrArg Host.Outcome.next (hrun.trans hack), rfl, ⟨_, hset, rfl, rfl, rfl, rfl⟩, rfl⟩
  case resend =>
    intro n x s hsends hx hsome htime
    have halive : s.alive = true := by
      unfold State.hostSends at hsends
      simp only [Bool.and_eq_true] at hsends
      exact hsends.1.1
    have hset := session?_changed hx (f := fun y => { y with tx := { y.tx with rto := min (2 * y.tx.rto) 65536, lastAdvance := s.hub.timer } }) (fun _ => rfl)
    have hrun : doRetransmit n s = (s.modSession n (fun y =>
        { y with tx := { y.tx with rto := min (2 * y.tx.rto) 65536, lastAdvance := s.hub.timer } })).resendFrames n x.tx.unacked := by
      unfold doRetransmit
      rw [hx]
      dsimp only
      rw [if_pos]
      simpa [halive, hsends, hsome] using htime
    have hout : (s.modSession n (fun y =>
        { y with tx := { y.tx with rto := min (2 * y.tx.rto) 65536, lastAdvance := s.hub.timer } })).resendFrames n x.tx.unacked =
        ({ s.modSession n (fun y => { y with tx := { y.tx with rto := min (2 * y.tx.rto) 65536, lastAdvance := s.hub.timer } }) with
          out := s.out ++ x.tx.unacked.map (s.frameOut x) } : State).modHost (fun h => { h with resent := hostCount h.resent x.tx.unacked.length }) := by
      unfold State.resendFrames
      rw [if_neg (by simp [show (s.modSession n _).hostSends = true from hsends]), hset]
      rfl
    exact ⟨_, congrArg Host.Outcome.next (hrun.trans hout), rfl, ⟨_, hset, rfl, rfl, rfl⟩, rfl⟩

end Sys2Proof

/-! ### Blocks written under a context's key -/

namespace Sys2Proof.Machine
set_option Elab.async false

/-- `t` is `s` after a write into one block of frame `f` under the key of context `id`: its counters are then `g`, and `n` blocks are
counted under the key. -/
def Blocked (s t : State) (id f off : Nat) (bs : Bytes) (g : FrameMeta) (n : Nat) : Prop :=
  ∃ st tr, t = { s with
    vault := { s.vault with bank := s.vault.bank.map (fun x => if x.ctx = id then { x with uses := x.uses + n } else x) }
    mem := { s.mem.setMeta g with cells := writeCells s.mem.cells (physAt f off) bs }
    hbmStacks := st, traffic := tr }

theorem meta_setMeta (m : Memory) (g : FrameMeta) : (m.setMeta g).meta g.pfn = g := by simp [Memory.setMeta, Memory.meta]

theorem meta_pfn (m : Memory) (f : Nat) : (m.meta f).pfn = f := by
  unfold Memory.meta
  split
  · next g hg => simpa using List.find?_some hg
  · rfl

/-- The entry of a context in the key bank after uses have been counted. -/
theorem find?_counted (l : List BankEntry) (id n : Nat) : (l.map (fun x => if x.ctx = id then { x with uses := x.uses + n } else x)).find? (fun b => b.ctx == id) =
    (l.find? (fun b => b.ctx == id)).map (fun b => { b with uses := b.uses + n }) := by
  induction l with
  | nil => rfl
  | cons x rest ih =>
    by_cases h : x.ctx = id
    · simp [h]
    · simp [h, ih]

theorem refailed_nil (vp : Nat) (f g : FrameMeta) (b : Nat) : refailed [] vp f g b = [] := by
  unfold refailed
  dsimp only
  split <;> rfl

section Block
variable {s : State} {c : Ctx} {p : Page} {f off : Nat} {bs : Bytes} {g : FrameMeta} {e : BankEntry}
  (hkey : p.keyId = 0) (hpoison : (s.mem.meta f).poison = []) (hstep : (s.mem.meta f).stepBlock (off / 256) = some g)
  (he : s.vault.bank.find? (fun b => b.ctx == c.id) = some e)
include hkey hpoison hstep he

/-- A write into a block that is not poisoned, whose counter can step, under a key with uses left. -/
theorem writeBlock_steps (huses : e.uses + (s.mem.meta f).written (some g) (off / 256) ≤ e.limit) :
    ∃ t, s.writeBlock c p [] f off bs = (t, none) ∧ Blocked s t c.id f off bs g ((s.mem.meta f).written (some g) (off / 256)) := by
  have hnone : (s.mem.meta f).poisoned? (off / 256) = none := by simp [FrameMeta.poisoned?, hpoison]
  have hkeep : (s.mem.meta f).keepFailed g (true, c.id) [] = g := rfl
  unfold State.writeBlock
  simp only [hnone, List.any_nil, Bool.and_false, Bool.false_eq_true, if_false, hstep, Option.map_some, refailed_nil, keyOf, hkey, if_true, hkeep]
  simp only [State.useKey, if_true, he, Nat.not_lt.mpr huses, if_false, gt_iff_lt]
  exact ⟨_, rfl, _, _, rfl⟩

/-- Under a key without uses left nothing is written (R405). -/
theorem writeBlock_exhausted (huses : e.limit < e.uses + (s.mem.meta f).written (some g) (off / 256)) :
    s.writeBlock c p [] f off bs = (s, some .keyExhausted) := by
  have hnone : (s.mem.meta f).poisoned? (off / 256) = none := by simp [FrameMeta.poisoned?, hpoison]
  have hkeep : (s.mem.meta f).keepFailed g (true, c.id) [] = g := rfl
  unfold State.writeBlock
  simp only [hnone, List.any_nil, Bool.and_false, Bool.false_eq_true, if_false, hstep, Option.map_some, refailed_nil, keyOf, hkey, if_true, hkeep]
  simp only [State.useKey, if_true, he, huses, gt_iff_lt]

end Block

/-- A run of bytes goes to the blocks of a frame one by one, until one is refused. -/
def State.writeBlocks (s : State) (c : Ctx) (p : Page) (f : Nat) (l : List (Nat × Bytes)) : State × Option Status :=
  l.foldl (fun (acc : State × Option Status) x =>
    match acc.2 with
    | some e => (acc.1, some e)
    | none => acc.1.writeBlock c p [] f x.1 x.2) (s, none)

theorem writeBlocks_cons {s t : State} {c : Ctx} {p : Page} {f : Nat} {x : Nat × Bytes} {l : List (Nat × Bytes)}
    (h : s.writeBlock c p [] f x.1 x.2 = (t, none)) : s.writeBlocks c p f (x :: l) = t.writeBlocks c p f l := by
  unfold State.writeBlocks
  rw [List.foldl_cons]
  dsimp only
  rw [h]

theorem writeBlocks_refused {s t : State} {c : Ctx} {p : Page} {f : Nat} {x : Nat × Bytes} {l : List (Nat × Bytes)} {st : Status}
    (h : s.writeBlock c p [] f x.1 x.2 = (t, some st)) : s.writeBlocks c p f (x :: l) = (t, some st) := by
  unfold State.writeBlocks
  rw [List.foldl_cons]
  dsimp only
  rw [h]
  induction l with
  | nil => rfl
  | cons y rest ih => exact ih

/-! ### A page whose last block steps its frame's H -/

/-- Writing into blocks changes the Vault, the bytes and counters of memory, and what the stacks and partitions count. -/
def Stored (s t : State) : Prop :=
  ∃ v cs ms st tr, t = { s with vault := v, mem := { s.mem with cells := cs, metas := ms }, hbmStacks := st, traffic := tr }

theorem Stored.refl (s : State) : Stored s s := ⟨_, _, _, _, _, rfl⟩

theorem Stored.trans {s t u : State} (h : Stored s t) (k : Stored t u) : Stored s u := by
  obtain ⟨_, _, _, _, _, rfl⟩ := h
  obtain ⟨_, _, _, _, _, rfl⟩ := k
  exact ⟨_, _, _, _, _, rfl⟩

section Blocked
variable {s t : State} {id f off n : Nat} {bs : Bytes} {g : FrameMeta} (h : Blocked s t id f off bs g n)
include h

theorem Blocked.stored : Stored s t := by
  obtain ⟨_, _, rfl⟩ := h
  exact ⟨_, _, _, _, _, rfl⟩

theorem Blocked.cells : t.mem.cells = writeCells s.mem.cells (physAt f off) bs := by
  obtain ⟨_, _, rfl⟩ := h
  rfl

theorem Blocked.counters (hg : g.pfn = f) : t.mem.meta f = g := by
  obtain ⟨_, _, rfl⟩ := h
  subst hg
  exact meta_setMeta s.mem g

theorem Blocked.entry {e : BankEntry} (he : s.vault.bank.find? (fun b => b.ctx == id) = some e) :
    t.vault.bank.find? (fun b => b.ctx == id) = some { e with uses := e.uses + n } := by
  obtain ⟨_, _, rfl⟩ := h
  exact (find?_counted s.vault.bank id n).trans (congrArg (Option.map _) he)

end Blocked

theorem sparse_setSparse_other (l : List (Nat × Nat)) {k j : Nat} (v : Nat) (h : j ≠ k) : sparse (setSparse l k v) j = sparse l j := by
  have hfilter : (l.filter (fun x => x.1 != k)).find? (fun x => x.1 == j) = l.find? (fun x => x.1 == j) := by
    rw [List.find?_filter]
    congr 1
    funext x
    by_cases hx : x.1 = j
    · simp [hx, h]
    · simp [hx]
  unfold setSparse
  dsimp only
  split
  · rw [sparse, sparse, hfilter]
  · rw [sparse, sparse, List.find?_cons_of_neg (by simpa using Ne.symm h), hfilter]

/-- The blocks of frame `f` from `j` to the last but one have not been written; the last one's counter is at its end, and so is L of its
sector; `u` blocks are counted under the key of context `id`, of which `limit` may be. -/
structure Brimming (s : State) (id f limit j u : Nat) : Prop where
  poison : (s.mem.meta f).poison = []
  high : (s.mem.meta f).high = 0
  low : sparse (s.mem.meta f).low 511 = 2 ^ 32 - 1
  last : sparse (s.mem.meta f).minors 8191 = 254
  fresh : ∀ k, j ≤ k → k < 8191 → sparse (s.mem.meta f).minors k = 0
  entry : ∃ e, s.vault.bank.find? (fun b => b.ctx == id) = some e ∧ e.uses = u ∧ e.limit = limit

section Brimming
variable {s : State} {c : Ctx} {p : Page} {f limit j u : Nat} (hkey : p.keyId = 0) (h : Brimming s c.id f limit j u)
include hkey h

/-- The next block is written, and counted once. -/
theorem Brimming.step (hj : j < 8191) (hu : u + 1 ≤ limit) (bs : Bytes) : ∃ t, s.writeBlock c p [] f (256 * j) bs = (t, none) ∧
    Brimming t c.id f limit (j + 1) (u + 1) ∧ Stored s t ∧ t.mem.cells = writeCells s.mem.cells (physAt f (256 * j)) bs := by
  obtain ⟨e, he, rfl, rfl⟩ := h.entry
  have hb : 256 * j / 256 = j := by omega
  have hminor : sparse (s.mem.meta f).minors j = 0 := h.fresh j (Nat.le_refl j) hj
  have hstep : (s.mem.meta f).stepBlock (256 * j / 256) = some { s.mem.meta f with minors := setSparse (s.mem.meta f).minors j 1 } := by
    rw [hb, FrameMeta.stepBlock, hminor]
    rfl
  have hcost : (s.mem.meta f).written (some { s.mem.meta f with minors := setSparse (s.mem.meta f).minors j 1 }) (256 * j / 256) = 1 := by
    simp [FrameMeta.written]
  obtain ⟨t, ht, hblocked⟩ := writeBlock_steps (bs := bs) hkey h.poison hstep he (by rw [hcost]; exact hu)
  rw [hcost] at hblocked
  have hmeta := hblocked.counters (meta_pfn s.mem f)
  refine ⟨t, ht, ⟨?_, ?_, ?_, ?_, fun k hk hlast => ?_, _, hblocked.entry he, rfl, rfl⟩, hblocked.stored, hblocked.cells⟩
  · rw [hmeta]; exact h.poison
  · rw [hmeta]; exact h.high
  · rw [hmeta]; exact h.low
  · rw [hmeta]; exact (sparse_setSparse_other _ (k := j) 1 (by omega)).trans h.last
  · rw [hmeta]; exact (sparse_setSparse_other _ (k := j) 1 (by omega)).trans (h.fresh k (by omega) hlast)

/-- The last block steps H, which counts every block of the frame (R399, R404): too many for the key. -/
theorem Brimming.over (hj : j = 8191) (hu : limit < u + 8192) (bs : Bytes) : s.writeBlock c p [] f (256 * j) bs = (s, some .keyExhausted) := by
  obtain ⟨e, he, rfl, rfl⟩ := h.entry
  subst hj
  have hstep : (s.mem.meta f).stepBlock (256 * 8191 / 256) = some { s.mem.meta f with high := 1, low := [], minors := [] } := by
    rw [show 256 * 8191 / 256 = 8191 from rfl, FrameMeta.stepBlock, h.last, if_neg (by omega), FrameMeta.stepSector,
      show 8191 / 16 = 511 from rfl, h.low, if_neg (by omega), h.high, if_pos (by omega)]
  refine writeBlock_exhausted hkey h.poison hstep he ?_
  have hcost : (s.mem.meta f).written (some { s.mem.meta f with high := 1, low := [], minors := [] }) (256 * 8191 / 256) = 8192 := by
    simp [FrameMeta.written, h.high, h.poison]
  rw [hcost]
  exact hu

end Brimming

theorem cutAt_whole {fuel off : Nat} {bs : Bytes} (hoff : off % 256 = 0) (hne : bs ≠ []) :
    cutAt 256 (fuel + 1) off bs = (off, bs.take 256) :: cutAt 256 fuel (off + 256) (bs.drop 256) := by
  rw [cutAt, if_neg (by simpa using hne)]
  simp only [hoff, Nat.sub_zero]

/-- The rest of the page is not written to its end: the last block is refused. -/
theorem Brimming.exhausts {c : Ctx} {p : Page} {f limit : Nat} (hkey : p.keyId = 0) {n : Nat} : ∀ {s : State} {j u fuel : Nat} {bs : Bytes},
    Brimming s c.id f limit j u → j + n = 8191 → bs.length = 256 * (n + 1) → n < fuel → u + n ≤ limit → limit < u + n + 8192 →
    cellsWf s.mem.cells = true →
    ∃ t, s.writeBlocks c p f (cutAt 256 fuel (256 * j) bs) = (t, some .keyExhausted) ∧ Stored s t ∧
      ∀ x, physAt f (256 * 8191) ≤ x → cellAt t.mem.cells x = cellAt s.mem.cells x := by
  induction n with
  | zero =>
    intro s j u fuel bs h hj hlen hfuel hlow hhigh hwf
    obtain ⟨k, rfl⟩ := Nat.exists_eq_add_of_lt hfuel
    rw [show 0 + k + 1 = k + 1 by omega, cutAt_whole (Nat.mul_mod_right ..) (by rintro rfl; simp at hlen)]
    exact ⟨s, writeBlocks_refused (h.over hkey hj hhigh _), Stored.refl s, fun _ _ => rfl⟩
  | succ n ih =>
    intro s j u fuel bs h hj hlen hfuel hlow hhigh hwf
    obtain ⟨k, rfl⟩ := Nat.exists_eq_add_of_lt hfuel
    obtain ⟨t, ht, hnext, hstored, hcells⟩ := h.step hkey (by omega) (by omega) (bs.take 256)
    rw [show n + 1 + k + 1 = (n + k + 1) + 1 by omega, cutAt_whole (Nat.mul_mod_right ..) (by rintro rfl; simp at hlen)]
    obtain ⟨v, hv, hv2, hfar⟩ := ih (fuel := n + k + 1) (bs := bs.drop 256) hnext (by omega) (by rw [List.length_drop]; omega) (by omega) (by omega) (by omega)
      (by rw [hcells]; exact writeCells_wf hwf ..)
    refine ⟨v, (writeBlocks_cons ht).trans (by rw [← hv, Nat.mul_succ]), hstored.trans hv2, fun x hx => (hfar x hx).trans ?_⟩
    rw [hcells]
    refine cellAt_writeCells_outside hwf ?_
    have : (bs.take 256).length ≤ 256 := by rw [List.length_take]; omega
    simp only [physAt] at hx ⊢
    omega

/-- Counters of a frame that a write of the whole page exhausts a key of 16,384 uses: the first block steps its sector's L, the last one the
frame's H. -/
def brim (f : Nat) : FrameMeta := { pfn := f, low := [(511, 2 ^ 32 - 1)], minors := [(0, 254), (8191, 254)] }

/-- The first block of such a frame counts every block of its sector. -/
theorem brim_first {s : State} {c : Ctx} {p : Page} {f off : Nat} {bs : Bytes} {e : BankEntry} (hkey : p.keyId = 0) (hmeta : s.mem.meta f = brim f)
    (he : s.vault.bank.find? (fun b => b.ctx == c.id) = some e) (huses : e.uses = 0) (hlimit : e.limit = 2 ^ 14) (hoff : off / 256 = 0) :
    ∃ t, s.writeBlock c p [] f off bs = (t, none) ∧ Brimming t c.id f (2 ^ 14) 1 16 ∧ Stored s t ∧ t.mem.cells = writeCells s.mem.cells (physAt f off) bs := by
  have hstep : (s.mem.meta f).stepBlock (off / 256) = some { pfn := f, low := [(0, 1), (511, 2 ^ 32 - 1)], minors := [(8191, 254)] } := by
    rw [hmeta, hoff]
    rfl
  have hcost : (s.mem.meta f).written (some { pfn := f, low := [(0, 1), (511, 2 ^ 32 - 1)], minors := [(8191, 254)] }) (off / 256) = 16 := by
    rw [hmeta, hoff]
    rfl
  obtain ⟨t, ht, hblocked⟩ := writeBlock_steps (bs := bs) (off := off) hkey (by rw [hmeta]; rfl) hstep he (by rw [hcost]; omega)
  rw [hcost] at hblocked
  have hm := hblocked.counters rfl
  refine ⟨t, ht, ⟨by rw [hm], by rw [hm], by rw [hm]; rfl, by rw [hm]; rfl, fun k h1 h2 => ?_, _, hblocked.entry he, by simp [huses], hlimit⟩, hblocked.stored,
    hblocked.cells⟩
  rw [hm]
  simp [sparse, Nat.ne_of_gt h2]

/-- A write of a whole page whose counters stand so is refused at its last block. -/
theorem brim_exhausts {s : State} {c : Ctx} {p : Page} {f fuel : Nat} {bs : Bytes} {e : BankEntry} (hkey : p.keyId = 0) (hmeta : s.mem.meta f = brim f)
    (he : s.vault.bank.find? (fun b => b.ctx == c.id) = some e) (huses : e.uses = 0) (hlimit : e.limit = 2 ^ 14) (hlen : bs.length = pageSize)
    (hfuel : 8191 < fuel) (hwf : cellsWf s.mem.cells = true) :
    ∃ t, s.writeBlocks c p f (cutAt 256 fuel 0 bs) = (t, some .keyExhausted) ∧ Stored s t ∧
      ∀ x, physAt f (256 * 8191) ≤ x → cellAt t.mem.cells x = cellAt s.mem.cells x := by
  obtain ⟨k, rfl⟩ := Nat.exists_eq_add_of_lt hfuel
  have hlen' : bs.length = 256 * 8192 := hlen
  obtain ⟨t, ht, hbrim, hfirst, hcells⟩ := brim_first (bs := bs.take 256) hkey hmeta he huses hlimit (Nat.zero_div 256)
  obtain ⟨v, hv, hstored, hfar⟩ := hbrim.exhausts (fuel := 8191 + k) (bs := bs.drop 256) hkey (n := 8190) (by omega) (by rw [List.length_drop]; omega) (by omega) (by omega) (by omega)
    (by rw [hcells]; exact writeCells_wf hwf ..)
  rw [show 8191 + k + 1 = (8191 + k) + 1 by omega, cutAt_whole (by omega) (by rintro rfl; simp at hlen')]
  refine ⟨v, (writeBlocks_cons ht).trans hv, hfirst.trans hstored, fun x hx => (hfar x hx).trans ?_⟩
  rw [hcells]
  refine cellAt_writeCells_outside hwf ?_
  have : (bs.take 256).length ≤ 256 := by rw [List.length_take]; omega
  simp only [physAt] at hx ⊢
  omega

end Sys2Proof.Machine

/-! ### A lender's page whose key is spent within one XWRITE -/

namespace Sys2Proof.Machine
set_option Elab.async false

/-- A lender whose guest key has as many uses left as a page has blocks twice over, and whose lent frame's counters stand at `brim`. -/
def lenderAtBrim : State :=
  { Tests.devLent with
    vault := { bank := [{ ctx := 8, gen := 1, limit := 2 ^ 14 }] }
    mem := { hbmUse := [(50, .lent 1), (51, .lent 1)], metas := [brim 50] } }

/-- An XWRITE of a whole page. -/
def pageWrite (data : Bytes) : Delivered := { src := 1, inner := { iop := 0x12, group := 1, gen := 1, data := data } }

/-- The XWRITE of a whole page leaves the last block of the frame as it was. -/
theorem xwrite_at_brim {data : Bytes} {t : State} (hlen : data.length = pageSize) (ht : exec (.xwrite (pageWrite data)) lenderAtBrim = .next t)
    {x : Nat} (hx : physAt 50 (256 * 8191) ≤ x) : cellAt t.mem.cells x = 0 := by
  have hfound : (lenderAtBrim.takeIn (pageWrite data)).lentFrame (pageWrite data) = some (Tests.lent1, 50) := rfl
  have hin : lenderAtBrim.takeIn (pageWrite data) = lenderAtBrim := rfl
  have hnoted := Noted.noteRequest lenderAtBrim (stackOf 50)
  obtain ⟨v, hv, -, hfar⟩ := brim_exhausts (s := lenderAtBrim.noteRequest (stackOf 50)) (c := Tests.lent1.guestCtx) (p := { va := 0, hbm := some 50 })
    (f := 50) (fuel := data.length / 256 + 2) (bs := data) (e := { ctx := 8, gen := 1, limit := 2 ^ 14 }) rfl (by rw [hnoted.mem]; rfl)
    (by rw [hnoted.vault]; rfl) rfl rfl hlen (by rw [hlen]; decide) (by rw [hnoted.mem]; rfl)
  have hrun : doXwrite (pageWrite data) lenderAtBrim = v.sendXresp (pageWrite data) .keyExhausted [] := by
    unfold doXwrite
    rw [if_neg (by decide)]
    simp only [hfound]
    rw [if_neg (by simp [pageWrite, hlen, pageSize])]
    simp only [hin]
    change (State.sendXresp (State.writeBlocks _ _ _ _ _).1 _ ((State.writeBlocks _ _ _ _ _).2.getD .ok) []) = _
    rw [show (pageWrite data).inner.arg = 0 from rfl, show (pageWrite data).inner.data = data from rfl, hv]
    rfl
  have heq : t = v.sendXresp (pageWrite data) .keyExhausted [] := by
    rw [← hrun]
    exact (Host.Outcome.next.inj ht).symm
  obtain ⟨_, _, _, _, _, _, _, _, _, _, hsent, -⟩ := Accessed.sendR v none 1 { iop := 0x13, group := 1, gen := 1, inst := 0, arg := Status.keyExhausted.code, data := [] }
  rw [heq, show v.sendXresp (pageWrite data) .keyExhausted [] = v.sendR none 1 { iop := 0x13, group := 1, gen := 1, inst := 0, arg := Status.keyExhausted.code, data := [] } from rfl, hsent]
  exact (hfar x hx).trans (by rw [hnoted.mem]; rfl)

end Sys2Proof.Machine

namespace Sys2Proof
open Machine
set_option Elab.async false

/-- Refutes O49: 2^14 uses of the guest's key are fewer than a write of a whole page may take, when its first block steps a sector's L and its
last one the frame's H (R399, R404): the last block is refused, and does not read as it was sent. -/
theorem not_lenderServesItsLeases : ¬ Obligations.LenderServesItsLeases := by
  rintro ⟨-, -, -, -, -, -, -, hwrite, -⟩
  obtain ⟨data, hdata⟩ : ∃ data : Bytes, data = List.replicate pageSize 1 := ⟨_, rfl⟩
  have hlen : data.length = pageSize := by rw [hdata, List.length_replicate]
  obtain ⟨t, ht, hread, -, hwf, -⟩ := hwrite (pageWrite data) Tests.lent1 50 { ctx := 8, gen := 1, limit := 2 ^ 14 } lenderAtBrim (by decide +kernel) rfl
    (by simp [pageWrite, hlen]) (by rintro h; simp [show data = [] from h, pageSize] at hlen) (by decide +kernel) (by decide +kernel) (by decide +kernel) (by decide +kernel)
    (by decide +kernel)
  have hlast := readCells_getElem (cs := t.mem.cells) hwf (physAt 50 0) pageSize (256 * 8191) (by decide)
  have hone : (readCells t.mem.cells (physAt 50 0) pageSize)[256 * 8191]? = some 1 := by
    rw [← hlen]
    refine (congrArg (fun l : Bytes => l[256 * 8191]?) hread).trans ?_
    rw [show (pageWrite data).inner.data = data from rfl, hdata, List.getElem?_replicate, if_pos (by decide)]
  have hblank : cellAt t.mem.cells (physAt 50 0 + 256 * 8191) = 0 := xwrite_at_brim hlen ht (by simp [physAt])
  exact absurd (Option.some.inj (hlast.symm.trans hone)) (by rw [hblank]; decide)

end Sys2Proof

/-! ### Writes into a plain page -/

namespace Sys2Proof.Machine
set_option Elab.async false

/-- What an access notes before it writes: contexts, free choices, and what stacks and Tellers see. -/
def Poised (s t : State) : Prop := ∃ cs n st pw, t = { s with ctxs := cs, hub := { s.hub with free := n }, hbmStacks := st, power := pw }

theorem Poised.trans {s t u : State} (h : Poised s t) (k : Poised t u) : Poised s u := by
  obtain ⟨_, _, _, _, rfl⟩ := h
  obtain ⟨_, _, _, _, rfl⟩ := k
  exact ⟨_, _, _, _, rfl⟩

theorem Poised.modCtx (s : State) (id : Nat) (f : Ctx → Ctx) : Poised s (s.modCtx id f) := ⟨_, _, _, _, rfl⟩

theorem Poised.noteRequest (s : State) (k : Nat) : Poised s (s.noteRequest k) := by
  obtain ⟨st, pw, h⟩ := noteRequest_ctxs s k
  exact ⟨s.ctxs, s.hub.free, st, pw, by rw [h]⟩

theorem Poised.holdWrite (s : State) (id : Nat) : Poised s (s.holdWrite id) := by
  unfold State.holdWrite
  dsimp only
  split <;> exact ⟨_, _, _, _, rfl⟩

/-- The page of a context that a plain region lies in. -/
structure PlainPage (p : Page) (f : Nat) : Prop where
  hbm : p.hbm = some f
  tier : p.tier = none
  lease : p.lease = none
  share : p.share = none
  lost : p.lost = false
  keyId : p.keyId = 0
  snap : p.snap = false

/-- The page that a context has. -/
def PageOf (s : State) (id vp : Nat) (p : Page) : Prop := ∃ c, s.ctx? id = some c ∧ c.page? vp = some p

theorem PageOf.modPage {s : State} {id vp : Nat} {p : Page} (h : PageOf s id vp p) {g : Page → Page} (hg : ∀ q, (g q).va = q.va) (hp : g p = p) :
    PageOf (s.modPage id vp g) id vp p := by
  obtain ⟨c, hc, hpage⟩ := h
  refine ⟨c.modPage vp g, ?_, by rw [page?_modPage _ _ _ hg, hpage, Option.map_some, hp]⟩
  rw [State.modPage_eq, State.ctx?_modCtx s id id (fun d => d.modPage vp g) (fun _ => rfl), hc]
  simp

theorem PageOf.congr {s t : State} {id vp : Nat} {p : Page} (h : PageOf s id vp p) (hctxs : t.ctxs = s.ctxs) : PageOf t id vp p := by
  obtain ⟨c, hc, hpage⟩ := h
  exact ⟨c, by rw [← hc]; simp only [State.ctx?, hctxs], hpage⟩

theorem PageOf.holdWrite {s : State} {id vp : Nat} {p : Page} (h : PageOf s id vp p) : PageOf (s.holdWrite id) id vp p := by
  unfold State.holdWrite
  dsimp only
  split
  · obtain ⟨c, hc, hpage⟩ := h
    refine ⟨{ c with period := { c.period with heldWrites := c.period.heldWrites + 1 } }, ?_, hpage⟩
    rw [State.ctx?_modCtx s.freeNat.1 id id (fun c => { c with period := { c.period with heldWrites := c.period.heldWrites + 1 } }) (fun _ => rfl),
      show s.freeNat.1.ctx? id = some c from hc]
    simp
  · exact h.congr rfl

/-- A device that is about to write into a page of a context that lies in frame `f`. -/
def State.poised (s : State) (id vp f : Nat) : State :=
  (if s.moves.any (fun m => m.ctx == id && m.va == vp && m.keyId == 0 && m.going) then (s.modPage id vp (fun q => { q with snap := false })).holdWrite id
    else s.modPage id vp (fun q => { q with snap := false })).noteRequest (stackOf f)

theorem Poised.poised (s : State) (id vp f : Nat) : Poised s (s.poised id vp f) := by
  have hpage : Poised s (s.modPage id vp (fun q => { q with snap := false })) := by
    rw [State.modPage_eq]
    exact Poised.modCtx ..
  refine Poised.trans ?_ (Poised.noteRequest _ (stackOf f))
  split
  · exact hpage.trans (Poised.holdWrite ..)
  · exact hpage

theorem PageOf.poised {s : State} {id vp : Nat} {p : Page} (h : PageOf s id vp p) (hsnap : p.snap = false) (f : Nat) :
    PageOf (s.poised id vp f) id vp p := by
  have hpage := h.modPage (g := fun q : Page => { q with snap := false }) (fun _ => rfl) (by cases p; simp_all)
  unfold State.poised
  obtain ⟨st, pw, hrequest⟩ := noteRequest_ctxs (if s.moves.any (fun m => m.ctx == id && m.va == vp && m.keyId == 0 && m.going)
    then (s.modPage id vp (fun q => { q with snap := false })).holdWrite id else s.modPage id vp (fun q => { q with snap := false })) (stackOf f)
  rw [hrequest]
  refine PageOf.congr ?_ rfl
  split
  · exact hpage.holdWrite
  · exact hpage

/-- A piece of a plain page goes to the blocks of its frame. -/
theorem writePiece_plain {s : State} {id vp off f : Nat} {c : Ctx} {p : Page} {bs : Bytes} (hc : s.ctx? id = some c) (hpage : c.page? vp = some p)
    (hp : PlainPage p f) : s.writePiece id none [] vp off bs = (s.poised id vp f).writeBlocks c p f (cutAt 256 (bs.length / 256 + 2) off bs) := by
  have hpl : ∀ u : State, u.placeOf p none = .hbm f := fun u => placeOf_plain none hp.hbm hp.tier hp.lease hp.share hp.lost hp.keyId
  unfold State.writePiece
  simp only [hc, hpage, hp.snap, Bool.false_eq_true, if_false, hpl]
  rfl

/-- A write into a plain page goes to the blocks of its frame. -/
theorem writeV_plain {s : State} {id va f : Nat} {c : Ctx} {p : Page} {bs : Bytes} (hc : s.ctx? id = some c) (hpage : c.page? (vpage va) = some p)
    (hp : PlainPage p f) (hne : bs.length ≠ 0) (hfit : va % pageSize + bs.length ≤ pageSize) :
    s.writeV id none [] va bs = (s.poised id (vpage va) f).writeBlocks c p f (cutAt 256 (bs.length / 256 + 2) (va % pageSize) bs) := by
  unfold State.writeV
  rw [piecesOf_page hne hfit, List.foldl_cons, List.foldl_nil]
  dsimp only
  rw [List.take_length, writePiece_plain hc hpage hp]

end Sys2Proof.Machine

/-! ### A collective whose destination is refused -/

namespace Sys2Proof.Machine
set_option Elab.async false

theorem Spoilt.scramble (e : Site) (rs : List Region) : ∀ s : State, Spoilt s (s.scramble e rs) := by
  unfold State.scramble
  induction rs with
  | nil => exact Spoilt.refl
  | cons r rest ih =>
    intro s
    rw [List.foldl_cons]
    refine ((Spoilt.freeBytes s r.bytes).trans ?_).trans (ih _)
    dsimp only
    unfold State.pokeS
    split
    · exact Spoilt.pokeV ..
    · split
      · exact Spoilt.refl _
      · split <;> exact ⟨_, _, rfl⟩

theorem trespass_links (s : State) (id q : Nat) (r : Rec) : (s.trespass id q r).links = s.links := by
  have go (e : Guarded → Site) (rs : Guarded → List Region) (l : List Guarded) : ∀ u : State,
      (l.foldl (fun u g => u.scramble (e g) (rs g)) u).links = u.links := by
    induction l with
    | nil => exact fun _ => rfl
    | cons g rest ih =>
      intro u
      obtain ⟨_, _, h⟩ := Spoilt.scramble (e g) (rs g) u
      rw [List.foldl_cons, ih, h]
  unfold State.trespass
  split
  · rfl
  · split
    · rfl
    · exact go (fun g => { ctx := id, queue := g.queue, core := _, ups := [] }) (fun g => [{ space := g.space, addr := g.addr, bytes := g.bytes }]) _ s

theorem wrote_links (s : State) (id q : Nat) (r : Rec) : (s.wrote id q r).links = s.links := by
  unfold State.wrote
  rw [trespass_links]
  unfold State.tangle
  split
  · rfl
  · split
    · rfl
    · dsimp only
      split <;> rfl

section Refused
variable {s w : State} {i : Inst} {e : Status} (haudit : i.audit = none) (hout : i.output ≠ [])
  (hw : s.writeV i.ctx none [] (collArgs i.args).dst i.output = (w, some e))
include hout hw

/-- A destination that is refused ends the collective with the status of the refusal. -/
theorem finishMain_refused : ∃ u : State, s.finishMain i = u.endInst i e ∧ u.links = w.links := by
  have hcoll : ∃ u : State, s.collWrite i i.output = (u, some e) ∧ u.links = w.links := by
    unfold State.collWrite
    rw [hw]
    dsimp only
    split
    · exact ⟨_, rfl, wrote_links ..⟩
    · exact ⟨_, rfl, rfl⟩
  obtain ⟨u, hu, hlinks⟩ := hcoll
  refine ⟨u, ?_, hlinks⟩
  unfold State.finishMain
  dsimp only
  rw [if_neg (by simpa using hout), hu]

include haudit

/-- Once its plan is done and its destination is refused, a collective that is its group's only one ends with that status. -/
theorem runGroup_refused {k : Nat} (hstage : i.stage = 0) (hplan : (planOf (collArgs i.args) i.members.length i.rank)[i.step]? = none)
    (hsending : i.sending = []) (hheld : s.heldOutput i = false) (hinsts : w.links.insts = [i])
    (hlone : s.groupInsts i.ctx i.group = [i]) (hgroup : ∀ g, w.group? i.ctx i.group = some g → g.state ≠ .destroying) :
    ∃ u : State, s.runGroup i.ctx i.group (k + 2) = u.endInst i e ∧ u.links = w.links := by
  obtain ⟨u, hu, hlinks⟩ := finishMain_refused hout hw
  have hstep : s.stepInst i = some (s.finishMain i) := by
    unfold State.stepInst
    simp only [hstage, if_true, hplan, hsending, hheld]
    rfl
  have hended : (u.endInst i e).links.insts = [] := by
    rw [endInst_eq e haudit (fun g hg => hgroup g (by rw [← hg]; simp only [State.group?, hlinks]))]
    have hspoilt : (u.spoilTarget i e).links = u.links := by
      obtain ⟨_, _, h⟩ := Spoilt.target u i e
      rw [h]
    have : (if e = Status.timeout then { u.spoilTarget i e with ledger := (u.spoilTarget i e).ledger.expire i.tag (u.spoilTarget i e).hub.timer }
        else (u.spoilTarget i e).freeTag i.tag).links = u.links := by
      split
      · exact hspoilt
      · exact hspoilt
    refine (congrArg (fun l : Links => l.insts.filter (fun j => !(j.ctx == i.ctx && j.group == i.group && j.inst == i.inst))) this).trans ?_
    rw [hlinks, hinsts]
    simp
  refine ⟨u, ?_, hlinks⟩
  have hfirst : s.firstInst i.ctx i.group = some i := by
    rw [State.firstInst, hlone]
    rfl
  rw [State.runGroup, hfirst]
  dsimp only
  rw [hstep, hu]
  dsimp only
  rw [State.runGroup, State.firstInst, State.groupInsts, hended]
  rfl

end Refused

/-- A record that has ended with one status has not ended with another. -/
theorem not_ended_endInst {u : State} {i : Inst} {e st : Status} {a b : Nat} {sig : Bool} (haudit : i.audit = none)
    (hgroup : ∀ g, u.group? i.ctx i.group = some g → g.state ≠ .destroying) (hne : e ≠ st) :
    ¬ Ended (u.endInst i e) i.ctx i.queue i.seq i.iter st a b sig := by
  rw [endInst_eq e haudit hgroup, Ended, State.endRec, recOf_modRec]
  · rw [Option.map_map]
    intro h
    obtain ⟨r, -, hr⟩ := Option.map_eq_some_iff.mp h
    simp only [Function.comp_apply, Phase.ended.injEq] at hr
    exact hne hr.1
  · exact fun _ => ⟨rfl, rfl⟩

/-- A write of a whole page into a frame whose counters stand at `brim` spends its key. -/
theorem writeV_brim {s : State} {id vp f : Nat} {c : Ctx} {p : Page} {bs : Bytes} {b : BankEntry} (hc : s.ctx? id = some c) (hpage : c.page? vp = some p)
    (hp : PlainPage p f) (hlen : bs.length = pageSize) (hmeta : s.mem.meta f = brim f) (hb : s.vault.bank.find? (fun b => b.ctx == id) = some b)
    (huses : b.uses = 0) (hlimit : b.limit = 2 ^ 14) (hwf : cellsWf s.mem.cells = true) :
    ∃ w : State, s.writeV id none [] (vp * pageSize) bs = (w, some .keyExhausted) ∧ w.links = s.links := by
  have hva : vp * pageSize % pageSize = 0 := Nat.mul_mod_left ..
  have hvp : vpage (vp * pageSize) = vp := Nat.mul_div_cancel _ (by decide)
  have hcid : c.id = id := State.ctx?_id hc
  obtain ⟨cs, n, st, pw, hpoised⟩ := Poised.poised s id vp f
  obtain ⟨t, ht, ⟨_, _, _, _, _, hstored⟩, -⟩ := brim_exhausts (s := s.poised id vp f) (c := c) (p := p) (f := f) (fuel := bs.length / 256 + 2) (bs := bs) (e := b)
    hp.keyId (by rw [hpoised]; exact hmeta) (by rw [hpoised, hcid]; exact hb) huses hlimit hlen (by rw [hlen]; decide) (by rw [hpoised]; exact hwf)
  refine ⟨t, ?_, ?_⟩
  · rw [writeV_plain hc (by rw [hvp]; exact hpage) hp (by rw [hlen]; decide) (by rw [hva, hlen]; decide), hva, hvp, ht]
  · rw [hstored, hpoised]

/-! ### A RECV into a page whose key is spent -/

/-- A RECV of 524,288 pairs into page 0. -/
def recvPage : Inst := { Tests.inst 7 0 [] with args := 7 + 0x7700 + 7 * 2 ^ 16 + 2 ^ 32 + 2 ^ 19 * 2 ^ 192, acc := [] }

/-- A member whose context's key has 2^14 uses left, in whose group that RECV waits. -/
def recvAtBrim : State :=
  { Tests.devInst 7 0 [] with
    links := Tests.plane [{ Tests.groupTwo with nextInst := 2 }] [recvPage]
    vault := { bank := [{ ctx := 3, gen := 1, limit := 2 ^ 14 }] }
    mem := { hbmUse := [(0, .page)], metas := [brim 0] } }

/-- The whole contribution of the peer, in one frame. -/
def pageChunk (data : Bytes) : Delivered := Tests.from1 1 { inst := 1, last := true, data := data, tally := tally data }

/-- That RECV once its contribution is there. -/
def recvHeard (data : Bytes) : Inst := { recvPage with parts := [(1, 0, data)] }

/-- That RECV once it has taken its contribution. -/
def recvTaken (data : Bytes) : Inst := { recvPage with got := [(1, 1)], step := 1, acc := data }

/-- A contribution that comes whole, in one frame with its tally, is acknowledged, and its group runs. -/
theorem doChunk_whole {s : State} {d : Delivered} {y : Group} {i : Inst} (halive : s.alive = true) (hof : s.groupOf d = some y) (hbroken : y.broken = false)
    (hi : s.inst? y.ctx y.id d.inner.inst = some i) (hinsts : s.links.insts = [i]) (hparts : i.parts = []) (hreceiving : i.receiving = [])
    (harg : d.inner.arg = sparse i.got d.inner.rank) (hoff : d.inner.off = 0) (hlast : d.inner.last = true) (htally : tally d.inner.data = d.inner.tally) :
    ∃ ib ps chs o, doChunk d s = ({ s with
      links := { s.links with inbox := ib, ports := ps, channels := chs, insts := [{ i with parts := [(d.inner.rank, d.inner.arg, d.inner.data)] }] }
      out := o } : State).runInst i := by
  obtain ⟨ib, chs, hin⟩ := takeIn_eq s d
  have hof' : (s.takeIn d).groupOf d = some y := by rw [hin]; exact hof
  have hi' : (s.takeIn d).inst? y.ctx y.id d.inner.inst = some i := by rw [hin]; exact hi
  obtain ⟨v, hv⟩ : ∃ v : State, v = { s with
    links := { s.links with inbox := ib, channels := chs, insts := [{ i with parts := [(d.inner.rank, d.inner.arg, d.inner.data)] }] } } := ⟨_, rfl⟩
  have hack (f : Inner) (hf : f.iop = 3) : ∃ ps cs o, v.sendRank y d.inner.rank f = { v with links := { v.links with ports := ps, channels := cs }, out := o } := by
    unfold State.sendRank
    split
    · next peer _ =>
      obtain ⟨ps, cs, o, h⟩ := Carried.sendR v (some y.ctx) peer { f with group := y.id, gen := y.gen, rank := y.rank } (by rw [hf]; omega)
      exact ⟨ps, cs, v.out ++ o, by rw [if_neg (by rw [hf]; omega)]; exact h⟩
    · exact ⟨_, _, _, rfl⟩
  have htaken : doChunk d s = (v.sendRank y d.inner.rank { iop := 3, inst := i.inst, arg := d.inner.arg }).runInst i := by
    have hheld : (s.takeIn d).takeChunk d y = ((s.takeIn d).modInst i (fun j => { j with receiving :=
        ({ peer := d.inner.rank, num := d.inner.arg, data := d.inner.data } : Receiving) :: j.receiving.filter (fun x => !(x.peer == d.inner.rank && x.num == d.inner.arg)) })).judgePart
          d y i { peer := d.inner.rank, num := d.inner.arg, data := d.inner.data } := by
      unfold State.takeChunk
      rw [hi']
      simp [hparts, hreceiving, harg, hoff, hlast]
    unfold doChunk
    rw [if_neg (by simp [halive])]
    simp only [hof', Option.isNone_some, Bool.and_false, Bool.false_eq_true, if_false]
    rw [withGroup_of_live hof hbroken, hheld, State.judgePart, if_pos htally]
    refine congrArg (fun u : State => (u.sendRank y d.inner.rank { iop := 3, inst := i.inst, arg := d.inner.arg }).runInst i) ?_
    rw [hv, hin]
    unfold State.modInst State.modLinks
    simp [hinsts, hparts, hreceiving]
  obtain ⟨ps, cs, o, hsent⟩ := hack { iop := 3, inst := i.inst, arg := d.inner.arg } rfl
  refine ⟨ib, ps, cs, o, htaken.trans ?_⟩
  rw [hsent, hv]

theorem recvTaken_output (data : Bytes) : (recvTaken data).output = data := by
  unfold Inst.output
  dsimp only
  rw [show (collArgs (recvTaken data).args).coll = 7 from (by decide +kernel : (collArgs recvPage.args).coll = 7)]
  rfl

theorem recv_takes {v : State} {data : Bytes} (hlen : data.length = pageSize) (hinsts : v.links.insts = [recvHeard data]) (k : Nat) :
    v.runGroup 3 7 (k + 1) = (v.modInst (recvHeard data) (fun _ => recvTaken data)).runGroup 3 7 k := by
  have hplan : planOf (collArgs recvPage.args) 2 0 = [{ frm := [1], recvN := 2 ^ 19 }] := by decide +kernel
  have hfirst : v.firstInst 3 7 = some (recvHeard data) := by
    rw [State.firstInst, State.groupInsts, hinsts]
    rfl
  have hunit : 2 ^ 19 * (collArgs recvPage.args).unitBytes = pageSize := by decide +kernel
  have hput : putBytes [] 0 data = data := by simp [putBytes]
  have hstep : v.stepInst (recvHeard data) = some (v.modInst (recvHeard data) (fun _ => recvTaken data)) := by
    unfold State.stepInst
    rw [show (recvHeard data).stage = 0 from rfl]
    dsimp only
    rw [if_pos rfl, show planOf (collArgs (recvHeard data).args) (recvHeard data).members.length (recvHeard data).rank = _ from hplan]
    have htake : (recvHeard data).take [1] = some ((1, data), { recvHeard data with parts := [], got := [(1, 1)] }) := by
      unfold Inst.take recvHeard recvPage Tests.inst
      simp [sparse, setSparse, dropFirst]
    rw [show (recvHeard data).step = 0 from rfl, List.getElem?_cons_zero]
    dsimp only
    rw [htake]
    dsimp only
    rw [if_neg (by decide), show collArgs (recvHeard data).args = collArgs recvPage.args from rfl, hunit, if_neg (by simp [hlen]), Nat.zero_mul,
      if_neg (by decide)]
    dsimp only
    rw [show putBytes (recvHeard data).acc 0 data = data from hput]
    refine congrArg (fun i : Inst => some (v.modInst (recvHeard data) (fun _ => i))) ?_
    rw [show (recvHeard data).flags ||| ({} : Flags).word = 0 from (by decide : 0 ||| ({} : Flags).word = 0)]
    rfl
  rw [State.runGroup, hfirst]
  dsimp only
  rw [hstep]

end Sys2Proof.Machine

namespace Sys2Proof
open Machine
set_option Elab.async false

/-- Refutes O45: 2^14 uses of the context's key are fewer than the write of a whole page may take (R399, R404), so that a RECV of a page whole
and with its tally may end with KEY_EXHAUSTED. -/
theorem not_sendAndRecvExchangeContributions : ¬ Obligations.SendAndRecvExchangeContributions := by
  rintro ⟨-, -, -, hrecv, -⟩
  obtain ⟨data, hdata⟩ : ∃ data : Bytes, data = List.replicate pageSize 0 := ⟨_, rfl⟩
  have hlen : data.length = pageSize := by rw [hdata, List.length_replicate]
  clear hdata
  have hplain : PlainRegion recvAtBrim (Tests.ctxColl 7) (collArgs recvPage.args).dst (pageChunk data).inner.data.length 0 = true := by
    rw [show (pageChunk data).inner.data.length = pageSize from hlen]
    decide +kernel
  obtain ⟨t, ht, hended, -⟩ := hrecv (pageChunk data) { Tests.groupTwo with nextInst := 2 } recvPage (Tests.ctxColl 7) (Tests.recColl 7) 0 recvAtBrim
    (by decide +kernel) rfl rfl rfl rfl rfl rfl rfl rfl rfl (by decide) rfl rfl rfl (by decide +kernel) (by decide +kernel) rfl rfl rfl rfl rfl rfl rfl
    rfl rfl rfl (hlen.trans (by decide +kernel)) (Nat.zero_le _) (by decide +kernel) (by decide +kernel) (by decide +kernel) hplain (by decide +kernel) (by decide +kernel)
  obtain ⟨ib, ps, chs, o, hrun⟩ := doChunk_whole (s := recvAtBrim) (d := pageChunk data) (y := { Tests.groupTwo with nextInst := 2 }) (i := recvPage) (by decide +kernel)
    rfl rfl rfl rfl rfl rfl rfl rfl rfl rfl
  obtain ⟨h, hh⟩ : ∃ h : State, h = { recvAtBrim with
    links := { recvAtBrim.links with inbox := ib, ports := ps, channels := chs, insts := [recvHeard data] }, out := o } := ⟨_, rfl⟩
  obtain ⟨v, hv⟩ : ∃ v : State, v = { recvAtBrim with
    links := { recvAtBrim.links with inbox := ib, ports := ps, channels := chs, insts := [recvTaken data] }, out := o } := ⟨_, rfl⟩
  have htaken : doChunk (pageChunk data) recvAtBrim = v.runGroup 3 7 (2 ^ 20 - 3 + 2) := by
    refine hrun.trans ?_
    change State.runGroup { recvAtBrim with links := { recvAtBrim.links with inbox := ib, ports := ps, channels := chs, insts := [recvHeard data] }, out := o } 3 7 instFuel = _
    rw [← hh, show instFuel = 2 ^ 20 - 3 + 2 + 1 from rfl, recv_takes hlen (by rw [hh])]
    refine congrArg (fun u : State => u.runGroup 3 7 (2 ^ 20 - 3 + 2)) ?_
    rw [hh, hv]
    rfl
  have hc : v.ctx? 3 = some (Tests.ctxColl 7) := by
    rw [hv]
    rfl
  obtain ⟨w, hw, hlinks⟩ := writeV_brim (s := v) (id := 3) (vp := 0) (f := 0) (c := Tests.ctxColl 7) (p := Tests.pageA) (bs := data)
    (b := { ctx := 3, gen := 1, limit := 2 ^ 14 }) hc rfl ⟨rfl, rfl, rfl, rfl, rfl, rfl, rfl⟩ hlen (by rw [hv]; rfl) (by rw [hv]; rfl) rfl rfl (by rw [hv]; rfl)
  have hout := recvTaken_output data
  have hdst : (collArgs (recvTaken data).args).dst = 0 * pageSize := (by decide +kernel : (collArgs recvPage.args).dst = 0 * pageSize)
  have hnone : (recvTaken data).output ≠ [] := by
    rw [hout]
    rintro rfl
    simp [pageSize] at hlen
  have hplan : planOf (collArgs recvPage.args) 2 0 = [{ frm := [1], recvN := 2 ^ 19 }] := by decide +kernel
  have hgroups : w.group? 3 7 = some { Tests.groupTwo with nextInst := 2 } := by
    rw [State.group?, hlinks, hv]
    rfl
  have hlive : ∀ u : State, u.links = w.links → ∀ g, u.group? (recvTaken data).ctx (recvTaken data).group = some g → g.state ≠ .destroying := by
    intro u hu g hg
    rw [show u.group? (recvTaken data).ctx (recvTaken data).group = w.group? 3 7 by simp only [State.group?, hu]; rfl, hgroups] at hg
    obtain rfl := Option.some.inj hg
    decide
  obtain ⟨u, hu, hulinks⟩ := runGroup_refused (s := v) (w := w) (i := recvTaken data) (e := .keyExhausted) (k := 2 ^ 20 - 3) rfl hnone (by rw [hdst, hout]; exact hw) rfl (by
      rw [show planOf (collArgs (recvTaken data).args) (recvTaken data).members.length (recvTaken data).rank = _ from hplan]
      rfl) rfl (by
      rw [State.heldOutput, show v.ctx? (recvTaken data).ctx = some (Tests.ctxColl 7) from hc]
      rfl) (by rw [hlinks, hv]) (by rw [State.groupInsts, hv]; rfl) (hlive w rfl)
  have heq : t = u.endInst (recvTaken data) .keyExhausted := by
    rw [← hu]
    exact (Host.Outcome.next.inj ht).symm.trans htaken
  rw [heq] at hended
  exact not_ended_endInst (i := recvTaken data) rfl (hlive u hulinks) (by decide) hended

end Sys2Proof

/-! ### A BROADCAST of one member into a page whose key is spent -/

namespace Sys2Proof.Machine
set_option Elab.async false

/-- A read of a plain region changes only what stacks, Tellers and partitions count. -/
theorem readV_plain_eq {s : State} {id : Nat} {c : Ctx} {va n f : Nat} (hc : s.ctx? id = some c) (h : PlainRegion s c va n f = true) :
    ∃ st pw tr, (s.readV id none [] va n).1 = { s with hbmStacks := st, power := pw, traffic := tr } := by
  obtain ⟨h1, h2, -, ⟨p, hp, a1, a2, a3, a4, a5, -, a7, -⟩, h5, -, -⟩ := (plainRegion_iff s c va n f).mp h
  have hpl : ∀ s : State, s.placeOf p none = .hbm f := fun s => placeOf_plain none a1 a2 a3 a4 a5 a7
  have hno : s.mem.poisonIn (.hbm f) (va % pageSize) n = [] := by simp [Memory.poisonIn, h5]
  have htouch : s.modPage id (vpage va) (fun q => q.touch none (va % pageSize) n) = s := by
    have hid (l : List Ctx) : l.map (fun d => if d.id = id then d.modPage (vpage va) (fun q => q.touch none (va % pageSize) n) else d) = l := by
      refine (List.map_congr_left fun d _ => ?_).trans (List.map_id l)
      split
      · show ({ d with pages := d.pages.map _ } : Ctx) = d
        have : d.pages.map (fun q => if q.va = vpage va then q.touch none (va % pageSize) n else q) = d.pages :=
          (List.map_congr_left fun q _ => by split <;> rfl).trans (List.map_id _)
        rw [this]
      · rfl
    show ({ s with ctxs := _ } : State) = s
    rw [hid]
  have hr : s.readPiece id none [] (vpage va) (va % pageSize) n = ((s.noteRequest (stackOf f)).chargeCtx id (blocksOf (va % pageSize) n).length, none) := by
    simp [State.readPiece, hc, hp, hpl, hno, leastBy, earlier, fabricFails, htouch, State.transfer, Place.transfers]
  obtain ⟨st, pw, hrequest⟩ := noteRequest_ctxs s (stackOf f)
  have hread : (s.readV id none [] va n).1 = (s.noteRequest (stackOf f)).chargeCtx id (blocksOf (va % pageSize) n).length := by
    unfold State.readV
    rw [piecesOf_page h1 h2]
    simp only [List.foldl_cons, List.foldl_nil, hr]
  rw [hread, hrequest]
  exact ⟨st, pw, _, rfl⟩

/-- A device once a hub entry of the Ledger holds a collective's next number. -/
def State.entered (s : State) (id : Nat) (y : Group) (tg : Nat) : State :=
  { s with ledger := s.ledger.issue tg (.instance_ id y.id y.nextInst) (some id) (some (s.hub.timer + y.tmo * 2 ^ 20)) }

/-- What a collective is in progress as. -/
def Rec.collInst (r : Rec) (id q : Nat) (y : Group) (tg deadline : Nat) (bs : Bytes) : Inst :=
  let a := collArgs (ofLe (r.image.drop 64))
  { ctx := id, group := y.id, gen := y.gen, inst := y.nextInst, queue := q, seq := r.seq, iter := r.iter, args := ofLe (r.image.drop 64), rank := y.rank
    members := y.members, tag := tg, deadline := deadline, acc := (a.start y.members.length y.rank bs).1, flags := (a.start y.members.length y.rank bs).2.word }

section Begins
variable {s u : State} {id q : Nat} {c : Ctx} {x : Queue} {r : Rec} {a : CollArgs} {y : Group} {tg : Nat} {bs : Bytes}
  (hrun : s.running? id q r.seq r.iter .collective = some (c, x, r)) (ha : collArgs (ofLe (r.image.drop 64)) = a) (hcoll : a.coll < 8)
  (hfmt : flag r.features fMxfp4 = true ∨ (a.srcFmt ≠ 4 ∧ a.dstFmt ≠ 4))
  (hrsvd : (a.rsvd || a.alg == 3 || decide (2 ≤ a.srcSpace) || decide (2 ≤ a.dstSpace)) = false) (hcount : a.count ≠ 0)
  (hcheck : (s.collCheck c x.number a).toOption = some y) (hroom : s.links.insts.length < 64)
  (hnew : s.links.insts.all (fun i => !(i.ctx == id && i.audit.isNone && i.queue == q && i.seq == r.seq && i.iter == r.iter)) = true)
  (hheld : c.heldReads [{ space := 0, addr := a.src, bytes := a.reads y.members.length y.rank * collElem a.srcFmt }] = false)
  (htag : s.ledger.freeTag hubTags 4096 = some tg) (hreads : a.reads y.members.length y.rank * collElem a.srcFmt ≠ 0)
  (hread : (s.entered id y tg).readV id none [] a.src (a.reads y.members.length y.rank * collElem a.srcFmt) = (u, .ok bs))
include hrun ha hcoll hfmt hrsvd hcount hcheck hroom hnew hheld htag hreads hread

/-- A COLLECTIVE that passes its checks begins with the bytes of its source. -/
theorem doCollective_begins : doCollective a.coll id q r.seq r.iter [] s =
    (u.modGroup id y.id (fun g => { g with queue := some x.number })).beginInst { y with queue := some x.number }
      (r.collInst id q y tg (s.hub.timer + y.tmo * 2 ^ 20) bs) a.signature
      (sendersOf (planOf a y.members.length y.rank) ++ (if a.tallied then treeNeighbours y.members.length y.rank else [])).eraseDups := by
  have hcheck' : s.collCheck c x.number a = .ok y := by
    cases h : s.collCheck c x.number a with
    | error e => rw [h] at hcheck; exact absurd hcheck (by simp [Except.toOption])
    | ok z => rw [h] at hcheck; simpa [Except.toOption] using hcheck
  have hany : s.links.insts.any (fun i => i.ctx == id && i.audit.isNone && i.queue == q && i.seq == r.seq && i.iter == r.iter) = false := by
    rw [List.any_eq_false]
    intro i hi
    have := List.all_eq_true.mp hnew i hi
    intro h
    rw [h] at this
    exact absurd this (by decide)
  have hdenied : (!flag r.features fMxfp4 && (a.srcFmt == 4 || a.dstFmt == 4)) = false := by
    rcases hfmt with h | ⟨h1, h2⟩
    · rw [h]
      rfl
    · simp [h1, h2]
  have hreserved : (a.rsvd || decide (8 ≤ a.coll) || a.alg == 3 || decide (2 ≤ a.srcSpace) || decide (2 ≤ a.dstSpace)) = false := by
    rw [decide_eq_false (Nat.not_le.mpr hcoll), Bool.or_false]
    exact hrsvd
  unfold doCollective
  rw [hrun]
  dsimp only
  rw [ha, if_neg (by simp [hany]), if_neg (by rw [hdenied]; decide), if_neg (by rw [hreserved]; decide), if_neg hcount, hcheck']
  dsimp only
  rw [if_neg (by rw [hheld]; simpa using hroom), State.issue, htag]
  dsimp only
  rw [if_neg hreads]
  unfold State.entered at hread
  rw [hread]
  dsimp only
  unfold Rec.collInst
  rw [ha]

end Begins

/-- A collective that is the only one, with no READY and no ABORT before it, runs at once when no member sends to this one. -/
theorem beginInst_lone {s : State} {g : Group} {i : Inst} (hearly : g.early = []) (haborts : g.aborts = []) (hinsts : s.links.insts = [])
    (hready : i.ready = []) (sig : Nat) : s.beginInst g i sig [] =
      ((s.modLinks (fun l => { l with insts := [i] })).modGroup g.ctx g.id (fun g =>
        { g with nextInst := g.nextInst + 1, early := g.early.filter (fun e => e.2.1 != i.inst) })).runInst i := by
  have hi : ({ i with ready := [] } : Inst) = i := by rw [← hready]
  unfold State.beginInst
  dsimp only
  rw [hearly, haborts]
  simp only [List.filter_nil, List.map_nil, List.append_nil, List.foldl_nil, List.any_nil, Bool.false_eq_true, if_false, hi]
  rw [show s.modLinks (fun l => { l with insts := l.insts ++ [i] }) = s.modLinks (fun l => { l with insts := [i] }) by simp [State.modLinks, hinsts]]
  have hfound (f : Group → Group) : ((s.modLinks (fun l => { l with insts := [i] })).modGroup g.ctx g.id f).inst? i.ctx i.group i.inst = some i :=
    List.find?_cons_of_pos (by simp)
  rw [hfound]
  simp

/-- The arguments of a BROADCAST of 524,288 pairs from page 0 to page 1. -/
def castArg : Nat := 4 + 0x7700 + 7 * 2 ^ 16 + 2 ^ 32 + 2 ^ 21 * 2 ^ 128 + 2 ^ 19 * 2 ^ 192

def castRec : Rec := Tests.runRec .collective castArg

def castPage : Page := { va := 1, hbm := some 1 }

def castCtx : Ctx := { (Tests.ctxOf castRec) with pages := [Tests.pageA, castPage] }

/-- A device that is its group's only member, whose context's key has 2^14 uses left, with a BROADCAST into a frame whose counters stand at
`brim`. -/
def castAtBrim : State :=
  { Tests.devPaged with
    ctxs := [castCtx]
    links := Tests.plane [Tests.groupOne] []
    vault := { bank := [{ ctx := 3, gen := 1, limit := 2 ^ 14 }] }
    mem := { hbmUse := [(0, .page), (1, .page)], metas := [brim 1] } }

/-- That BROADCAST in progress. -/
def castInst (bs : Bytes) : Inst :=
  { ctx := 3, group := 7, gen := 1, inst := Tests.groupOne.nextInst, queue := 0, seq := 0, iter := 0, args := castArg, rank := 0, members := [0], tag := 12288
    deadline := castAtBrim.hub.timer + 2 ^ 20, acc := bs, flags := ({} : Flags).word }

theorem castRec_args : ofLe (castRec.image.drop 64) = castArg := by decide +kernel

theorem castRec_inst {bs : Bytes} (hlen : bs.length = pageSize) :
    castRec.collInst 3 0 Tests.groupOne 12288 (castAtBrim.hub.timer + Tests.groupOne.tmo * 2 ^ 20) bs = castInst bs := by
  have hstart : (collArgs castArg).start Tests.groupOne.members.length Tests.groupOne.rank bs = (bs, {}) := by
    have hels : (collArgs castArg).count * (collArgs castArg).unitBytes = pageSize := by decide +kernel
    have hsums : (collArgs castArg).sums = false := by decide +kernel
    have hcoll : (collArgs castArg).coll = 4 := by decide +kernel
    unfold CollArgs.start
    simp only [hcoll, hsums]
    simp [hels, slice, ← hlen]
  unfold Rec.collInst
  dsimp only
  rw [castRec_args, hstart]
  rfl

/-- The BROADCAST is dispatched, and its group runs. -/
theorem cast_begins : ∃ (st : List Stack) (pw : Power) (tr : List Traffic) (bs : Bytes), bs.length = pageSize ∧
    doCollective 4 3 0 0 0 [] castAtBrim = ({ castAtBrim.entered 3 Tests.groupOne 12288 with
      hbmStacks := st, power := pw, traffic := tr
      links := { castAtBrim.links with groups := [{ Tests.groupOne with queue := some 0, nextInst := Tests.groupOne.nextInst + 1 }], insts := [castInst bs] } } : State).runGroup
        3 7 instFuel := by
  have hargs := castRec_args
  have hplain : PlainRegion (castAtBrim.entered 3 Tests.groupOne 12288) castCtx (collArgs castArg).src
      ((collArgs castArg).reads Tests.groupOne.members.length Tests.groupOne.rank * collElem (collArgs castArg).srcFmt) 0 = true := by decide +kernel
  have hc : (castAtBrim.entered 3 Tests.groupOne 12288).ctx? 3 = some castCtx := by decide +kernel
  obtain ⟨st, pw, tr, hstate⟩ := readV_plain_eq hc hplain
  have hbytes := readV_plain none hc hplain
  obtain ⟨bs, hbs⟩ : ∃ bs : Bytes, bs = readCells (castAtBrim.entered 3 Tests.groupOne 12288).mem.cells (physAt 0 ((collArgs castArg).src % pageSize))
      ((collArgs castArg).reads Tests.groupOne.members.length Tests.groupOne.rank * collElem (collArgs castArg).srcFmt) := ⟨_, rfl⟩
  have hlen : bs.length = pageSize := by
    rw [hbs, readCells_length]
    decide +kernel
  rw [← hbs] at hbytes
  have hbegin := doCollective_begins (s := castAtBrim) (id := 3) (q := 0) (c := castCtx) (x := Tests.qOf castRec) (r := castRec) (y := Tests.groupOne) (tg := 12288)
    (by decide +kernel) (congrArg collArgs hargs) (by decide +kernel) (Or.inl (by decide +kernel)) (by decide +kernel) (by decide +kernel) (by decide +kernel)
    (by decide +kernel) (by decide +kernel) (by decide +kernel) (by decide +kernel) (by decide +kernel) (Prod.ext hstate hbytes)
  rw [castRec_inst hlen] at hbegin
  have hnone : (sendersOf (planOf (collArgs castArg) Tests.groupOne.members.length Tests.groupOne.rank) ++
      (if (collArgs castArg).tallied then treeNeighbours Tests.groupOne.members.length Tests.groupOne.rank else [])).eraseDups = [] := by decide +kernel
  rw [hnone] at hbegin
  rw [beginInst_lone rfl rfl rfl rfl] at hbegin
  refine ⟨st, pw, tr, bs, hlen, ?_⟩
  rw [show (collArgs castArg).coll = 4 by decide +kernel] at hbegin
  exact hbegin

end Sys2Proof.Machine

namespace Sys2Proof
open Machine
set_option Elab.async false

/-- Refutes O44: 2^14 uses of the context's key are fewer than the write of a whole page may take (R399, R404), so that a BROADCAST of a page in a
group of one may end with KEY_EXHAUSTED. -/
theorem not_collectivesOfOneMemberCopy : ¬ Obligations.CollectivesOfOneMemberCopy := by
  rintro ⟨-, -, -, -, hcast, -⟩
  obtain ⟨t, ht, hended, -⟩ := hcast 3 0 0 0 castCtx (Tests.qOf castRec) castRec (collArgs castArg) Tests.groupOne 12288 0 1 _ castAtBrim
    (by decide +kernel) (congrArg collArgs castRec_args.symm) (by decide +kernel) (Or.inl (by decide +kernel)) (by decide +kernel) (by decide +kernel)
    (by decide +kernel) (by decide +kernel) (by decide +kernel) (by decide +kernel) (by decide +kernel) rfl rfl rfl rfl rfl (by decide +kernel)
    (by decide +kernel) rfl rfl (by decide +kernel) (by decide +kernel) rfl rfl
  obtain ⟨st, pw, tr, bs, hlen, hrun⟩ := cast_begins
  obtain ⟨v, hv⟩ : ∃ v : State, v = { castAtBrim.entered 3 Tests.groupOne 12288 with
      hbmStacks := st, power := pw, traffic := tr
      links := { castAtBrim.links with groups := [{ Tests.groupOne with queue := some 0, nextInst := Tests.groupOne.nextInst + 1 }], insts := [castInst bs] } } := ⟨_, rfl⟩
  rw [← hv] at hrun
  have hc : v.ctx? 3 = some castCtx := by
    rw [hv]
    rfl
  obtain ⟨w, hw, hlinks⟩ := writeV_brim (s := v) (id := 3) (vp := 1) (f := 1) (c := castCtx) (p := castPage) (bs := bs) (b := { ctx := 3, gen := 1, limit := 2 ^ 14 })
    hc rfl ⟨rfl, rfl, rfl, rfl, rfl, rfl, rfl⟩ hlen (by rw [hv]; rfl) (by rw [hv]; rfl) rfl rfl (by rw [hv]; rfl)
  have hout : (castInst bs).output = bs := by
    unfold Inst.output
    dsimp only
    rw [show (collArgs (castInst bs).args).coll = 4 from (by decide +kernel : (collArgs castArg).coll = 4)]
    rfl
  have hdst : (collArgs (castInst bs).args).dst = 1 * pageSize := (by decide +kernel : (collArgs castArg).dst = 1 * pageSize)
  have hnone : (castInst bs).output ≠ [] := by
    rw [hout]
    rintro rfl
    simp [pageSize] at hlen
  have hplan : planOf (collArgs castArg) 1 0 = [] := by decide +kernel
  have hgroups : w.group? 3 7 = some { Tests.groupOne with queue := some 0, nextInst := Tests.groupOne.nextInst + 1 } := by
    rw [State.group?, hlinks, hv]
    rfl
  have hlive : ∀ u : State, u.links = w.links → ∀ g, u.group? (castInst bs).ctx (castInst bs).group = some g → g.state ≠ .destroying := by
    intro u hu g hg
    rw [show u.group? (castInst bs).ctx (castInst bs).group = w.group? 3 7 by simp only [State.group?, hu]; rfl, hgroups] at hg
    obtain rfl := Option.some.inj hg
    decide
  obtain ⟨u, hu, hulinks⟩ := runGroup_refused (s := v) (w := w) (i := castInst bs) (e := .keyExhausted) (k := 2 ^ 20 - 2) rfl hnone (by rw [hdst, hout]; exact hw) rfl (by
      rw [show planOf (collArgs (castInst bs).args) (castInst bs).members.length (castInst bs).rank = _ from hplan]
      rfl) rfl (by
      rw [State.heldOutput, show v.ctx? (castInst bs).ctx = some castCtx from hc]
      rfl) (by rw [hlinks, hv]) (by rw [State.groupInsts, hv]; rfl) (hlive w rfl)
  have heq : t = u.endInst (castInst bs) .keyExhausted := by
    rw [← hu]
    exact (Host.Outcome.next.inj ht).symm.trans hrun
  rw [heq] at hended
  exact not_ended_endInst (i := castInst bs) rfl (hlive u hulinks) (by decide) hended

end Sys2Proof

/-! ### Every access to memory leaves contexts, sessions, waits and keys there -/

namespace Sys2Proof.Machine
set_option Elab.async false

namespace Persist

theorem noteRequest (s : State) (k : Nat) : Persist s (s.noteRequest k) := by
  obtain ⟨_, _, h⟩ := noteRequest_ctxs s k
  rw [h]
  exact of_eq rfl

theorem chargeCtx (s : State) (id n : Nat) : Persist s (s.chargeCtx id n) := of_eq rfl

theorem modPage (s : State) (id vp : Nat) (f : Page → Page) : Persist s (s.modPage id vp f) := modCtx _ _ _ (fun _ => rfl)

theorem transfer (s : State) (pl : Place) (core : Option Nat) (off n : Nat) : Persist s (s.transfer pl core off n) := by
  have hledger (lg : Ledger) : Persist s { s with ledger := lg } := of_eq rfl
  unfold State.transfer
  split
  · exact hledger _
  · exact refl s

theorem holdWrite (s : State) (id : Nat) : Persist s (s.holdWrite id) := by
  unfold State.holdWrite
  dsimp only
  split
  · exact (freeNat s).trans (modCtx _ _ _ (fun _ => rfl))
  · exact freeNat s

theorem swapFrame (s : State) (old new : Nat) : Persist s (s.swapFrame old new) := by
  have hmap (u : State) (f : Page → Page) (sh : List Share) : Persist u { u with ctxs := u.ctxs.map (fun c => { c with pages := c.pages.map f }), shares := sh } := by
    refine ⟨?_, fun _ => rfl, rfl, fun _ h => h, rfl, ⟨[], by simp⟩, rfl⟩
    show (u.ctxs.map _).map Ctx.line = _
    rw [List.map_map]
    exact List.map_congr_left fun _ _ => rfl
  unfold State.swapFrame
  dsimp only
  exact ((useAnyway ..).trans (copyPage ..)).trans (hmap ..)

theorem takeReserve {s t : State} {ok : Nat → Bool} {f : Nat} (h : s.takeReserve ok = some (t, f)) : Persist s t := by
  unfold State.takeReserve at h
  split at h
  · exact absurd h (by simp)
  · dsimp only at h
    split at h
    all_goals
      obtain ⟨rfl, -⟩ := Prod.mk.inj (Option.some.inj h)
      exact of_eq rfl

theorem retireFrame (s : State) (pfn : Nat) : Persist s (s.retireFrame pfn) := by
  unfold State.retireFrame
  dsimp only
  refine Persist.trans ?_ (retire _ pfn)
  split
  · refine Persist.trans ?_ (swapFrame ..)
    exact of_eq rfl
  · split
    · next h =>
      refine (takeReserve h).trans (Persist.trans ?_ (swapFrame ..))
      exact of_eq rfl
    · exact refl s

theorem repairRow (s : State) (pa : Nat) : Persist s (s.repairRow pa) := by
  have hmem (u : State) (m : Memory) : Persist u { u with mem := m } := of_eq rfl
  unfold State.repairRow
  dsimp only
  cases s.freeFor (pa / pageSize) with
  | none => exact refl s
  | some f =>
    dsimp only
    rw [if_neg (by decide)]
    split
    · exact (((hmem ..).trans (swapFrame ..)).trans (freeFrame ..)).trans (burnRepair ..)
    · split
      · exact (((hmem ..).trans (swapFrame ..)).trans (hmem ..)).trans (burnRepair ..)
      · exact notice ..

theorem rowFailure (s : State) (pa : Nat) : Persist s (s.rowFailure pa) := by
  unfold State.rowFailure
  dsimp only
  split
  · refine Persist.trans ?_ (repairRow ..)
    exact of_eq rfl
  · exact of_eq rfl

theorem alarmHbm (s : State) (c : Ctx) (va pa : Nat) : Persist s (s.alarmHbm c va pa) := by
  unfold State.alarmHbm
  dsimp only
  refine Persist.trans ?_ (file ..)
  exact of_eq rfl

theorem fabricFault (s : State) (c : Ctx) (core : Option Nat) (va : Nat) : Persist s (s.fabricFault c core va) := file ..

theorem issue {s t : State} {lo n tag : Nat} {h : Holder} {ctx dl : Option Nat} (hi : s.issue lo n h ctx dl = some (t, tag)) : Persist s t := by
  unfold State.issue at hi
  split at hi
  · exact absurd hi (by simp)
  · obtain ⟨rfl, -⟩ := Prod.mk.inj (Option.some.inj hi)
    exact of_eq rfl

theorem sendR (s : State) (ctx : Option Nat) (dst : Nat) (i : Inner) : Persist s (s.sendR ctx dst i) := by
  unfold State.sendR
  split
  · split
    · exact refl s
    · refine Persist.trans ?_ (of_carried (Carried.sendFrom ..))
      exact of_eq rfl
  · exact of_carried (Carried.sendFrom ..)

theorem cross {s t : State} {l : Lease} {va page off n tag : Nat} {data : Option Bytes} {dl : Option Nat}
    (h : s.cross l va page off n data dl = some (t, tag)) : Persist s t := by
  unfold State.cross at h
  obtain ⟨⟨u, k⟩, hissue, heq⟩ := Option.map_eq_some_iff.mp h
  dsimp only at heq
  obtain ⟨rfl, -⟩ := Prod.mk.inj heq
  exact (issue hissue).trans (sendR ..)

theorem crossPiece (s : State) (va pfn off n : Nat) (data : Option Bytes) : Persist s (s.crossPiece va pfn off n data) := by
  unfold State.crossPiece
  split
  · exact refl s
  · split
    · exact refl s
    · dsimp only
      refine foldl _ (fun s x => ?_) _ s
      split
      · next h => exact (cross h).trans (of_eq rfl)
      · exact refl s

theorem probeLease (s : State) (slot : Nat) : Persist s (s.probeLease slot) := by
  unfold State.probeLease
  split
  · exact refl s
  · split
    · exact refl s
    · split
      · exact modLinks ..
      · next h => exact ((issue h).trans (modLinks ..)).trans (sendR ..)

theorem leaseTimeout (s : State) (ctx pfn : Nat) : Persist s (s.leaseTimeout ctx pfn) := by
  unfold State.leaseTimeout
  dsimp only
  split
  · exact probeLease ..
  · next h =>
    refine (issue h).trans (Persist.trans ?_ (probeLease ..))
    exact of_eq rfl

theorem mirrorRepair (s : State) (share k bad : Nat) : Persist s (s.mirrorRepair share k bad) := by
  unfold State.mirrorRepair
  split
  · exact refl s
  · split
    · exact refl s
    · dsimp only
      split
      · exact refl s
      · split
        · next h =>
          exact (((((((takeReserve h).trans (useAnyway ..)).trans (copyPage ..)).trans (modMem ..)).trans (modShare ..)).trans (logShared ..)).trans
            (fileFor ..))
        · exact (modShare ..).trans (notice ..)

theorem shareLost (s : State) (share k pa : Nat) : Persist s (s.shareLost share k pa) := by
  unfold State.shareLost
  split
  · exact refl s
  · dsimp only
    refine Persist.trans ?_ (fileFor ..)
    refine ((modShare ..).trans (foldl _ (fun s id => ?_) _ _)).trans (foldl _ (fun s id => ?_) _ _)
    · exact modCtx s id (fun c => { c with stopMark := true }) (fun _ => rfl)
    · refine modCtx s id _ ?_
      exact fun _ => rfl

theorem ite {β : Type} {s : State} {b : Prop} [Decidable b] {x y : State × β} (hx : Persist s x.1) (hy : Persist s y.1) : Persist s (if b then x else y).1 := by
  split
  · exact hx
  · exact hy

theorem tagUpset (s : State) (c : Ctx) (p : Page) (pfn off n va : Nat) (u : Upset) : Persist s (s.tagUpset c p pfn off n va u).1 := by
  unfold State.tagUpset
  split
  · dsimp only
    split
    · exact refl s
    · split
      · exact (file ..).trans (rowFailure ..)
      · split
        · exact ite ((mirrorRepair ..).trans (rowFailure ..)) (shareLost ..)
        · refine Persist.trans ?_ (rowFailure ..)
          refine Persist.trans ?_ (alarmHbm ..)
          exact of_eq rfl
  · split
    · exact refl s
    · split
      · exact shareLost ..
      · exact refl s
  all_goals exact refl s

theorem sramUpset (s : State) (c : Ctx) (p : Page) (pfn off n : Nat) (u : Upset) : Persist s (s.sramUpset c p pfn off n u).1 := by
  have herror (core stage a pa va : Nat) (cor : Bool) : Persist s (s.sramError c core stage a pa va cor) := by
    refine Persist.trans ?_ (file ..)
    exact of_eq rfl
  unfold State.sramUpset
  split
  · split
    · exact refl s
    · exact herror ..
  all_goals exact refl s

theorem readPiece (s : State) (id : Nat) (core : Option Nat) (ups : List Upset) (vp off n : Nat) : Persist s (s.readPiece id core ups vp off n).1 := by
  have go {β : Type} (f : State → Upset → State × β) (g : β → β → β) (hf : ∀ s u, Persist s (f s u).1) (l : List Upset) : ∀ acc : State × β,
      Persist acc.1 (l.foldl (fun acc u => ((f acc.1 u).1, g acc.2 (f acc.1 u).2)) acc).1 := by
    induction l with
    | nil => exact fun acc => refl acc.1
    | cons u rest ih =>
      intro acc
      rw [List.foldl_cons]
      exact (hf acc.1 u).trans (ih ((f acc.1 u).1, g acc.2 (f acc.1 u).2))
  have hbegun (pl : Place) : Persist s ((s.modPage id vp (fun q => q.touch core off n)).transfer pl core off n) := (modPage ..).trans (transfer ..)
  unfold State.readPiece
  split
  · exact refl s
  · next c _ =>
    split
    · exact refl s
    · next p _ =>
      dsimp only
      split
      · refine Persist.trans ?_ (fabricFault ..)
        exact hbegun _
      · split
        · exact hbegun _
        · next pfn _ =>
          refine Persist.trans ?_ (go (fun s u => s.tagUpset c p pfn off n (vp * pageSize + off) u) earlier (fun s u => tagUpset ..) ups _)
          refine Persist.trans ?_ ((noteRequest ..).trans (chargeCtx ..))
          exact hbegun _
        · next pfn _ =>
          refine Persist.trans ?_ (go (fun s u => s.sramUpset c p pfn off n u) earlier (fun s u => sramUpset ..) ups _)
          exact hbegun _
        · next pfn _ =>
          refine ite ?_ ?_
          · dsimp only
            refine Persist.trans ?_ (leaseTimeout _ id pfn)
            exact hbegun _
          · refine Persist.trans ?_ (crossPiece _ vp pfn off n none)
            exact hbegun _

theorem readV (s : State) (id : Nat) (core : Option Nat) (ups : List Upset) (va n : Nat) : Persist s (s.readV id core ups va n).1 := by
  have go (l : List (Nat × Nat × Nat)) : ∀ acc : State × Option (Nat × Status), Persist acc.1 (l.foldl (fun acc pc =>
      let t := acc.1.readPiece id core ups pc.1 pc.2.1 pc.2.2
      (t.1, match acc.2 with
        | some f => some f
        | none => t.2)) acc).1 := by
    induction l with
    | nil => exact fun acc => refl acc.1
    | cons pc rest ih =>
      intro acc
      rw [List.foldl_cons]
      refine Persist.trans ?_ (ih _)
      exact readPiece ..
  unfold State.readV
  dsimp only
  split
  · exact go _ (s, none)
  · exact go _ (s, none)

theorem saveSnapshot (s : State) (c : Ctx) (p : Page) : Persist s (s.saveSnapshot c p) := by
  have hnote (f : Ckpt → Ckpt) : Persist s (s.modCtx c.id (fun d => { d with ckpt := f { d.ckpt with torn := d.ckpt.torn || s.pageBad p } })) :=
    modCtx _ _ _ (fun _ => rfl)
  unfold State.saveSnapshot
  dsimp only
  split
  · refine Persist.trans ?_ ((useAnyway ..).trans (copyPage ..))
    exact hnote (fun k => { k with cowMoves := k.cowMoves + 1 })
  · split
    · exact hnote (fun k => { k with heldWrites := k.heldWrites + 1 })
    · split
      · exact hnote (fun k => { k with heldWrites := k.heldWrites + 1 })
      · refine Persist.trans ?_ ((((modMem ..).trans (useAnyway ..)).trans (copyPage ..)).trans (modPage ..))
        exact hnote (fun k => { k with cowMoves := k.cowMoves + 1, cowUsed := k.cowUsed + 1 })
  · exact hnote (fun k => { k with heldWrites := k.heldWrites + 1 })

/-- The end of a write into a block: counted under the key, and stored; a frame whose major counter is exhausted is retired. -/
theorem blockEnd (s : State) (key : Bool × Nat) (n m k id pfn : Nat) (g : Option FrameMeta) (cs : Memory → List Host.Cell) : Persist s
    (match s.useKey key n with
      | none => (s, some Status.keyExhausted)
      | some s1 => match g with
        | some h => ({ (s1.noteWrite k).chargeCtx id m with
            mem := { ((s1.noteWrite k).chargeCtx id m).mem.setMeta h with cells := cs ((s1.noteWrite k).chargeCtx id m).mem } }, none)
        | none => (({ (s1.noteWrite k).chargeCtx id m with
            mem := { ((s1.noteWrite k).chargeCtx id m).mem with cells := cs ((s1.noteWrite k).chargeCtx id m).mem } } : State).retireFrame pfn, none)).1 := by
  cases hkey : s.useKey key n with
  | none => exact refl s
  | some s1 =>
    have hstored (mem : Memory) : Persist s1 { (s1.noteWrite k).chargeCtx id m with mem := mem } := of_eq rfl
    cases g with
    | some h => exact (useKey hkey).trans (hstored _)
    | none => exact ((useKey hkey).trans (hstored _)).trans (retireFrame ..)

theorem writeBlock (s : State) (c : Ctx) (p : Page) (ups : List Upset) (pfn off : Nat) (bs : Bytes) : Persist s (s.writeBlock c p ups pfn off bs).1 := by
  have hend (g : Option FrameMeta) := blockEnd s (keyOf c p) ((s.mem.meta pfn).written g (off / 256))
    ((s.mem.meta pfn).written g (off / 256) + (!(off % 256 == 0 && bs.length == 256)).toNat) (physAt pfn (off / 256 * 256)) c.id pfn g
    (fun m => writeCells m.cells (physAt pfn off) bs)
  unfold State.writeBlock
  dsimp only
  split
  · exact ite (hend _) (refl s)
  · refine ite ?_ (ite ?_ (hend _))
    · refine Persist.trans ?_ (rowFailure ..)
      refine Persist.trans ?_ (alarmHbm ..)
      exact of_eq rfl
    · refine Persist.trans ?_ ((file ..).trans (rowFailure ..))
      exact hend _

theorem writePiece (s : State) (id : Nat) (core : Option Nat) (ups : List Upset) (vp off : Nat) (bs : Bytes) :
    Persist s (s.writePiece id core ups vp off bs).1 := by
  have go (c : Ctx) (p : Page) (pfn : Nat) (l : List (Nat × Bytes)) : ∀ acc : State × Option Status, Persist acc.1 (l.foldl (fun acc x =>
      match acc.2 with
      | some e => (acc.1, some e)
      | none => acc.1.writeBlock c p ups pfn x.1 x.2) acc).1 := by
    induction l with
    | nil => exact fun acc => refl acc.1
    | cons x rest ih =>
      intro acc
      rw [List.foldl_cons]
      refine Persist.trans ?_ (ih _)
      split
      · exact refl _
      · exact writeBlock ..
  have hchoose {u v : State} (b : Bool) (hu : Persist s u) (hv : Persist u v) : Persist s (if b then v else u) := by
    cases b with
    | true => exact hu.trans hv
    | false => exact hu
  unfold State.writePiece
  split
  · exact refl s
  · next c _ =>
    split
    · exact refl s
    · next p0 _ =>
      dsimp only
      have hbegun := hchoose p0.snap (modPage s id vp (fun q => { q.touch core off bs.length with snap := false })) (saveSnapshot _ c p0)
      have hnoted (pl : Place) := hchoose (s.moves.any (fun m => m.ctx == id && m.va == vp && m.keyId == 0 && m.going)) (hbegun.trans (transfer _ pl core off bs.length))
        (holdWrite _ id)
      refine ite ?_ ?_
      · exact (hnoted _).trans (fabricFault ..)
      · split
        · exact hnoted _
        · next pfn _ => exact ((hnoted _).trans (noteRequest ..)).trans (go c _ pfn _ (_, none))
        · exact (hnoted _).trans (writeSram ..)
        · refine ite ?_ ?_
          · dsimp only
            refine Persist.trans ?_ (leaseTimeout ..)
            exact hnoted _
          · dsimp only
            refine Persist.trans ?_ (modCells ..)
            refine Persist.trans ?_ (crossPiece ..)
            exact hnoted _

theorem writeV (s : State) (id : Nat) (core : Option Nat) (ups : List Upset) (va : Nat) (bs : Bytes) : Persist s (s.writeV id core ups va bs).1 := by
  have go (l : List (Nat × Nat × Nat)) : ∀ acc : State × Option Status × Bytes, Persist acc.1 (l.foldl (fun acc pc =>
      match acc.2.1 with
      | some e => (acc.1, some e, acc.2.2)
      | none =>
        let t := acc.1.writePiece id core ups pc.1 pc.2.1 (acc.2.2.take pc.2.2)
        (t.1, t.2, acc.2.2.drop pc.2.2)) acc).1 := by
    induction l with
    | nil => exact fun acc => refl acc.1
    | cons pc rest ih =>
      intro acc
      rw [List.foldl_cons]
      refine Persist.trans ?_ (ih _)
      split
      · exact refl _
      · exact writePiece ..
  exact go _ (s, none, bs)

end Persist

end Sys2Proof.Machine

/-! ### A bulk write of a page whose key is spent within it -/

namespace Sys2Proof.Machine
set_option Elab.async false

theorem Brimming.congr {s t : State} {id f limit j u : Nat} (h : Brimming s id f limit j u) (hmem : t.mem = s.mem) (hvault : t.vault = s.vault) :
    Brimming t id f limit j u :=
  ⟨by rw [hmem]; exact h.poison, by rw [hmem]; exact h.high, by rw [hmem]; exact h.low, by rw [hmem]; exact h.last, fun k hk hl => by rw [hmem]; exact h.fresh k hk hl,
    by rw [hvault]; exact h.entry⟩

/-- A run of bytes within one block is one piece. -/
theorem cutAt_within {fuel off : Nat} {bs : Bytes} (hne : bs ≠ []) (hfit : off % 256 + bs.length ≤ 256) : cutAt 256 (fuel + 2) off bs = [(off, bs)] := by
  rw [cutAt, if_neg (by simpa using hne)]
  dsimp only
  rw [List.take_of_length_le (by omega), List.drop_eq_nil_of_le (by omega), cutAt, if_pos (by simp)]

/-- A write within one block of a plain page. -/
theorem writeV_block {s : State} {id f va : Nat} {c : Ctx} {p : Page} {bs : Bytes} (hp : PlainPage p f) (hc : s.ctx? id = some c)
    (hpage : c.page? (vpage va) = some p) (hne : bs ≠ []) (hfit : va % 256 + bs.length ≤ 256) (hin : va % pageSize + bs.length ≤ pageSize) :
    s.writeV id none [] va bs = (s.poised id (vpage va) f).writeBlock c p [] f (va % pageSize) bs := by
  rw [writeV_plain hc hpage hp (by simpa using hne) hin, cutAt_within hne (by rw [Nat.mod_mod_of_dvd va (by decide : 256 ∣ pageSize)]; exact hfit)]
  rfl

/-- Bytes put into a page that lies in frame `f` lie at its frame. -/
theorem pokeV_page {s : State} {id va f : Nat} {p : Page} {bs : Bytes} (hpage : PageOf s id (vpage va) p) (hp : PlainPage p f) (hne : bs.length ≠ 0)
    (hin : va % pageSize + bs.length ≤ pageSize) : s.pokeV id va bs = s.modCells (fun cs => writeCells cs (physAt f (va % pageSize)) bs) := by
  obtain ⟨c, hc, hpg⟩ := hpage
  unfold State.pokeV
  rw [piecesOf_page hne hin, List.foldl_cons, List.foldl_nil]
  simp only [hc, hpg, placeOf_plain none hp.hbm hp.tier hp.lease hp.share hp.lost hp.keyId, List.take_length]

/-- A bulk write goes block by block, and counts the bytes before a refusal. -/
def State.bulkBlocks (s : State) (id n : Nat) (l : List (Nat × Bytes)) : State × Option Status × Nat :=
  l.foldl (fun (acc : State × Option Status × Nat) x =>
    if acc.2.1.isSome then acc
    else
      let t := acc.1.writeV id none [] x.1 x.2
      (t.1, t.2, if t.2.isSome then acc.2.2 else acc.2.2 + x.2.length)) (s, none, n)

theorem bulkBlocks_cons {s t : State} {id n : Nat} {x : Nat × Bytes} {l : List (Nat × Bytes)} (h : s.writeV id none [] x.1 x.2 = (t, none)) :
    s.bulkBlocks id n (x :: l) = t.bulkBlocks id (n + x.2.length) l := by
  unfold State.bulkBlocks
  rw [List.foldl_cons]
  simp only [Option.isSome_none, Bool.false_eq_true, if_false, h]

theorem bulkBlocks_refused {s t : State} {id n : Nat} {x : Nat × Bytes} {l : List (Nat × Bytes)} {st : Status} (h : s.writeV id none [] x.1 x.2 = (t, some st)) :
    s.bulkBlocks id n (x :: l) = (t, some st, n) := by
  unfold State.bulkBlocks
  rw [List.foldl_cons]
  simp only [Option.isSome_none, Bool.false_eq_true, if_false, h, Option.isSome_some, if_true]
  induction l with
  | nil => rfl
  | cons y rest ih => exact ih

/-- After a refusal the bytes written before it are unspecified. -/
theorem bulkWrite_refused {s v : State} {id va n : Nat} {bs : Bytes} {st : Status} (h : s.bulkBlocks id 0 (cutAt 256 (bs.length / 256 + 2) va bs) = (v, some st, n)) :
    s.bulkWrite id [] va bs = ((v.freeBytes n).1.pokeV id va (v.freeBytes n).2, some st) := by
  unfold State.bulkBlocks at h
  unfold State.bulkWrite
  rw [h]

/-- What a bulk write leaves of everything but contexts, keys and memory. -/
def Bulked (s t : State) (id vp : Nat) (p : Page) (f : Nat) : Prop :=
  PageOf t id vp p ∧ cellsWf t.mem.cells = true ∧ t.sessions = s.sessions ∧ t.out = s.out ∧
    ∀ x, physAt f (256 * 8191) ≤ x → cellAt t.mem.cells x = cellAt s.mem.cells x

section Bulk
variable {id vp f : Nat} {p : Page} (hp : PlainPage p f)
include hp

/-- One block of a bulk write that is stored. -/
theorem writeV_stores {s t : State} {c : Ctx} {j : Nat} {bs : Bytes} (hc : s.ctx? id = some c) (hpage : c.page? vp = some p) (hj : j < 8191)
    (hwf : cellsWf s.mem.cells = true) (hlen : bs.length = 256) (ht : (s.poised id vp f).writeBlock c p [] f (256 * j) bs = (t, none))
    (hstored : Stored (s.poised id vp f) t) (hcells : t.mem.cells = writeCells (s.poised id vp f).mem.cells (physAt f (256 * j)) bs) :
    s.writeV id none [] (vp * pageSize + 256 * j) bs = (t, none) ∧ Bulked s t id vp p f := by
  have hvp : vpage (vp * pageSize + 256 * j) = vp := by
    unfold vpage pageSize
    omega
  have hoff : (vp * pageSize + 256 * j) % pageSize = 256 * j := by
    unfold pageSize
    omega
  obtain ⟨_, _, _, _, heq⟩ := Poised.poised s id vp f
  obtain ⟨_, _, _, _, _, hst⟩ := hstored
  refine ⟨?_, (PageOf.poised ⟨c, hc, hpage⟩ hp.snap f).congr (by rw [hst]), ?_, by rw [hst, heq], by rw [hst, heq], fun x hx => ?_⟩
  · rw [writeV_block hp hc (by rw [hvp]; exact hpage) (by rintro rfl; simp at hlen) (by unfold pageSize; omega) (by rw [hoff, hlen]; unfold pageSize; omega), hvp, hoff, ht]
  · rw [hcells, heq]
    exact writeCells_wf hwf ..
  · rw [hcells, heq]
    refine cellAt_writeCells_outside hwf ?_
    simp only [physAt] at hx ⊢
    omega

/-- The rest of a bulk write of a whole page under a key that it spends. -/
theorem bulkBlocks_exhausts {limit n : Nat} : ∀ {s : State} {j u fuel k : Nat} {bs : Bytes}, PageOf s id vp p → Brimming s id f limit j u → j + n = 8191 →
    bs.length = 256 * (n + 1) → n < fuel → u + n ≤ limit → limit < u + n + 8192 → cellsWf s.mem.cells = true →
    ∃ t, s.bulkBlocks id k (cutAt 256 fuel (vp * pageSize + 256 * j) bs) = (t, some .keyExhausted, k + 256 * n) ∧ Bulked s t id vp p f := by
  have hmod (j : Nat) : (vp * pageSize + 256 * j) % 256 = 0 := by
    unfold pageSize
    omega
  induction n with
  | zero =>
    intro s j u fuel k bs hpage h hj hlen hfuel hlow hhigh hwf
    obtain ⟨c, hc, hpg⟩ := hpage
    obtain ⟨m, rfl⟩ := Nat.exists_eq_add_of_lt hfuel
    obtain ⟨_, _, _, _, heq⟩ := Poised.poised s id vp f
    have hcid : c.id = id := State.ctx?_id hc
    have hover := Brimming.over (s := s.poised id vp f) (c := c) (p := p) (f := f) (limit := limit) (j := j) (u := u) hp.keyId
      (by rw [hcid]; exact h.congr (by rw [heq]) (by rw [heq])) hj hhigh (bs.take 256)
    have hoff : (vp * pageSize + 256 * j) % pageSize = 256 * j := by
      unfold pageSize
      omega
    have hvp : vpage (vp * pageSize + 256 * j) = vp := by
      unfold vpage pageSize
      omega
    have htake : (bs.take 256).length = 256 := by
      rw [List.length_take]
      omega
    have hwrite : s.writeV id none [] (vp * pageSize + 256 * j) (bs.take 256) = (s.poised id vp f, some .keyExhausted) := by
      rw [writeV_block hp hc (by rw [hvp]; exact hpg) (by rintro h0; simp [h0] at htake) (by rw [hmod]; omega) (by rw [hoff, htake]; unfold pageSize; omega), hvp, hoff, hover]
    rw [show 0 + m + 1 = m + 1 by omega, cutAt_whole (hmod j) (by rintro rfl; simp at hlen)]
    exact ⟨_, bulkBlocks_refused hwrite, PageOf.poised ⟨c, hc, hpg⟩ hp.snap f, by rw [heq]; exact hwf, by rw [heq], by rw [heq], fun _ _ => by rw [heq]⟩
  | succ n ih =>
    intro s j u fuel k bs hpage h hj hlen hfuel hlow hhigh hwf
    obtain ⟨c, hc, hpg⟩ := hpage
    obtain ⟨m, rfl⟩ := Nat.exists_eq_add_of_lt hfuel
    obtain ⟨_, _, _, _, heq⟩ := Poised.poised s id vp f
    have hcid : c.id = id := State.ctx?_id hc
    have htake : (bs.take 256).length = 256 := by
      rw [List.length_take]
      omega
    obtain ⟨t, ht, hnext, hstored, hcells⟩ := Brimming.step (s := s.poised id vp f) (c := c) (p := p) (f := f) (limit := limit) (j := j) (u := u) hp.keyId
      (by rw [hcid]; exact h.congr (by rw [heq]) (by rw [heq])) (by omega) (by omega) (bs.take 256)
    rw [hcid] at hnext
    obtain ⟨hwrite, hpage', hwf', hses, hout, hfar⟩ := writeV_stores hp hc hpg (by omega) hwf htake ht hstored hcells
    obtain ⟨v, hv, hpage2, hwf2, hses2, hout2, hfar2⟩ := ih (fuel := n + m + 1) (k := k + 256) (bs := bs.drop 256) hpage' hnext (by omega) (by rw [List.length_drop]; omega)
      (by omega) (by omega) (by omega) hwf'
    rw [show n + 1 + m + 1 = (n + m + 1) + 1 by omega, cutAt_whole (hmod j) (by rintro rfl; simp at hlen)]
    refine ⟨v, (bulkBlocks_cons hwrite).trans ?_, hpage2, hwf2, hses2.trans hses, hout2.trans hout, fun x hx => (hfar2 x hx).trans (hfar x hx)⟩
    rw [htake, show vp * pageSize + 256 * j + 256 = vp * pageSize + 256 * (j + 1) by omega, hv, show k + 256 + 256 * n = k + 256 * (n + 1) by omega]

/-- A bulk write of a whole page into a frame whose counters stand at `brim` is refused at its last block. -/
theorem bulkWrite_brim {s : State} {c : Ctx} {b : BankEntry} {bs : Bytes} (hc : s.ctx? id = some c) (hpage : c.page? vp = some p) (hlen : bs.length = pageSize)
    (hmeta : s.mem.meta f = brim f) (hb : s.vault.bank.find? (fun b => b.ctx == id) = some b) (huses : b.uses = 0) (hlimit : b.limit = 2 ^ 14)
    (hwf : cellsWf s.mem.cells = true) : ∃ t, s.bulkWrite id [] (vp * pageSize) bs = (t, some .keyExhausted) ∧ t.sessions = s.sessions ∧ t.out = s.out ∧
      ∀ x, physAt f (256 * 8191) ≤ x → cellAt t.mem.cells x = cellAt s.mem.cells x := by
  have hlen' : bs.length = 256 * 8192 := hlen
  have hcid : c.id = id := State.ctx?_id hc
  have htake : (bs.take 256).length = 256 := by
    rw [List.length_take]
    omega
  obtain ⟨_, _, _, _, heq⟩ := Poised.poised s id vp f
  obtain ⟨t, ht, hbrim, hstored, hcells⟩ := brim_first (s := s.poised id vp f) (c := c) (p := p) (f := f) (bs := bs.take 256) (e := b) hp.keyId
    (by rw [heq]; exact hmeta) (by rw [heq, hcid]; exact hb) huses hlimit (Nat.zero_div 256)
  rw [hcid] at hbrim
  obtain ⟨hwrite, hpage1, hwf1, hses1, hout1, hfar1⟩ := writeV_stores (j := 0) hp hc hpage (by omega) hwf htake ht hstored hcells
  obtain ⟨v, hv, hpage2, hwf2, hses2, hout2, hfar2⟩ := bulkBlocks_exhausts (fuel := bs.length / 256 + 1) (k := 0 + 256) (bs := bs.drop 256) hp hpage1 hbrim (n := 8190)
    (by omega) (by rw [List.length_drop]; omega) (by rw [hlen']; omega) (by omega) (by omega) hwf1
  rw [Nat.mul_zero, Nat.add_zero] at hwrite
  have hblocks : s.bulkBlocks id 0 (cutAt 256 (bs.length / 256 + 2) (vp * pageSize) bs) = (v, some .keyExhausted, 0 + 256 + 256 * 8190) := by
    rw [cutAt_whole (by unfold pageSize; omega) (by rintro rfl; simp at hlen')]
    refine (bulkBlocks_cons hwrite).trans ?_
    rw [htake, hv]
  have hfree : (v.freeBytes (0 + 256 + 256 * 8190)).2.length = 256 * 8191 := by simp
  have hva : vp * pageSize % pageSize = 0 := Nat.mul_mod_left ..
  refine ⟨(v.freeBytes (0 + 256 + 256 * 8190)).1.pokeV id (vp * pageSize) (v.freeBytes (0 + 256 + 256 * 8190)).2, ?_, ?_⟩
  · exact bulkWrite_refused hblocks
  · have hpage3 : PageOf (v.freeBytes (0 + 256 + 256 * 8190)).1 id (vpage (vp * pageSize)) p := by
      rw [show vpage (vp * pageSize) = vp from Nat.mul_div_cancel _ (by decide)]
      exact hpage2.congr rfl
    rw [pokeV_page hpage3 hp (by rw [hfree]; decide) (by rw [hfree, hva]; decide)]
    refine ⟨hses2.trans hses1, hout2.trans hout1, fun x hx => ?_⟩
    refine (cellAt_writeCells_outside hwf2 ?_).trans ((hfar2 x hx).trans (hfar1 x hx))
    rw [hfree, hva]
    simp only [physAt] at hx ⊢
    omega

end Bulk

/-- A request to write a whole page at address 0, whose length field is not that of its payload. -/
def bulkPage (data : Bytes) : Msg := Tests.msg3 8 data

/-- A device whose context's key has 2^14 uses left, with its page in a frame whose counters stand at `brim`. -/
def bulkAtBrim : State :=
  { Tests.devPaged with
    vault := { bank := [{ ctx := 3, gen := 1, limit := 2 ^ 14 }] }
    mem := { hbmUse := [(0, .page)], metas := [brim 0] } }

end Sys2Proof.Machine

namespace Sys2Proof
open Machine
set_option Elab.async false

/-- Refutes O38: no hypothesis ties the payload to the length that R309 bounds, and 2^14 uses of the context's key are fewer than the write of a
whole page may take (R399, R404): the last block is refused. -/
theorem not_bulkRequestsMoveRegions : ¬ Obligations.BulkRequestsMoveRegions := by
  rintro ⟨-, hwrite, -⟩
  obtain ⟨data, hdata⟩ : ∃ data : Bytes, data = List.replicate pageSize 1 := ⟨_, rfl⟩
  have hlen : data.length = pageSize := by rw [hdata, List.length_replicate]
  have hadmits : Admits bulkAtBrim .bulkIn (bulkPage data) Tests.tenant = true :=
    (admits_iff ..).mpr ⟨rfl, rfl, rfl⟩
  have hregion : (field (bulkPage data).arg0 47 0, (bulkPage data).payload.length) = (0, pageSize) := Prod.ext rfl hlen
  obtain ⟨hva, hn⟩ := Prod.mk.inj hregion
  obtain ⟨t, ht, -, hread, -, hwf⟩ := hwrite (bulkPage data) Tests.tenant Tests.ctxPaged 0 bulkAtBrim hadmits rfl (by exact (by decide +kernel : bulkAtBrim.draining 3 = false)) rfl
    (by exact (by decide : anySet 0 63 48 = false))
    (by rw [hva, hn]; decide +kernel) (by rw [hva, hn]; decide +kernel) (by rw [hva, hn]; decide +kernel) (by decide +kernel)
  have hmail : (bulkAtBrim.takeMail .bulkIn (bulkPage data)).mem = bulkAtBrim.mem := (Sends.takeMail ..).mem
  have hctx : (bulkAtBrim.takeMail .bulkIn (bulkPage data)).ctx? 3 = some Tests.ctxPaged := ((Sends.takeMail ..).ctx? 3).trans rfl
  obtain ⟨_, _, _, hsent⟩ := Sends.takeMail bulkAtBrim .bulkIn (bulkPage data)
  obtain ⟨v, hv, hses, hout, hfar⟩ := bulkWrite_brim (s := bulkAtBrim.takeMail .bulkIn (bulkPage data)) (id := 3) (vp := 0) (f := 0) (p := Tests.pageA) (c := Tests.ctxPaged)
    (b := { ctx := 3, gen := 1, limit := 2 ^ 14 }) (bs := data) ⟨rfl, rfl, rfl, rfl, rfl, rfl, rfl⟩ hctx rfl hlen (by rw [hmail]; rfl) (by rw [hsent]; rfl) rfl rfl
    (by rw [hmail]; rfl)
  have hbody : doBulkIn (bulkPage data) [] (bulkAtBrim.takeMail .bulkIn (bulkPage data)) Tests.tenant = (v, some (.of .keyExhausted)) := by
    unfold doBulkIn
    rw [withCtx_of_some hctx]
    dsimp only
    rw [hva, hn]
    have hpass : firstOf [(anySet (bulkPage data).arg0 63 48, Status.reservedSet), (!Tests.ctxPaged.open_ 0 pageSize, .extent),
        (Tests.ctxPaged.writingHalf 0 pageSize, .denied)] = none := (by decide +kernel : firstOf [(anySet 0 63 48, Status.reservedSet),
          (!Tests.ctxPaged.open_ 0 pageSize, .extent), (Tests.ctxPaged.writingHalf 0 pageSize, .denied)] = none)
    rw [hpass]
    dsimp only
    rw [show Tests.ctxPaged.id = 3 from rfl, show (bulkPage data).payload = data from rfl, show (0 : Nat) = 0 * pageSize from rfl, hv]
    rfl
  obtain ⟨-, hsends⟩ := request_from hadmits hbody ⟨[], by rw [hout, List.append_nil]⟩ hses
  have heq : t = bulkAtBrim.request .bulkIn (bulkPage data) (doBulkIn (bulkPage data) []) := (Host.Outcome.next.inj ht).symm
  have hblank : cellAt t.mem.cells (physAt 0 0 + 256 * 8191) = 0 := by
    rw [heq, hsends.mem, hfar _ (by simp [physAt]), hmail]
    rfl
  have hlast := readCells_getElem (cs := t.mem.cells) hwf (physAt 0 0) pageSize (256 * 8191) (by decide)
  have hone : (readCells t.mem.cells (physAt 0 0) pageSize)[256 * 8191]? = some 1 := by
    rw [hva, hn] at hread
    refine (congrArg (fun l : Bytes => l[256 * 8191]?) hread).trans ?_
    rw [show (bulkPage data).payload = data from rfl, hdata, List.getElem?_replicate, if_pos (by decide)]
  exact absurd (Option.some.inj (hlast.symm.trans hone)) (by rw [hblank]; decide)

end Sys2Proof

/-! ### A generation whose image spends the context's key -/

namespace Sys2Proof.Machine
set_option Elab.async false

/-- A part of a context that a change of it keeps stands. -/
theorem ctx?_modCtx_map {α : Type} (s : State) (id k : Nat) {f : Ctx → Ctx} {g : Ctx → α} (hf : ∀ c, (f c).id = c.id) (hg : ∀ c, g (f c) = g c) :
    ((s.modCtx id f).ctx? k).map g = (s.ctx? k).map g := by
  rw [State.ctx?_modCtx s id k f hf, Option.map_map]
  congr 1
  funext c
  dsimp only [Function.comp_apply]
  split
  · exact hg c
  · rfl

theorem holdWrite_ctx? {α : Type} (s : State) (id k : Nat) {g : Ctx → α} (hperiod : ∀ c q, g { c with period := q } = g c) :
    ((s.holdWrite id).ctx? k).map g = (s.ctx? k).map g := by
  unfold State.holdWrite
  dsimp only
  split
  · exact ctx?_modCtx_map (f := fun c => { c with period := { c.period with heldWrites := c.period.heldWrites + 1 } }) s.freeNat.1 id k (fun _ => rfl)
      (fun c => hperiod c _)
  · rfl

/-- A device about to write keeps what contexts have besides their pages and what their period counts. -/
theorem poised_ctx? {α : Type} (s : State) (id vp f k : Nat) {g : Ctx → α} (hpages : ∀ c ps, g { c with pages := ps } = g c)
    (hperiod : ∀ c q, g { c with period := q } = g c) : ((s.poised id vp f).ctx? k).map g = (s.ctx? k).map g := by
  have hmod : ((s.modPage id vp (fun q => { q with snap := false })).ctx? k).map g = (s.ctx? k).map g := by
    rw [State.modPage_eq]
    exact ctx?_modCtx_map _ _ _ (fun _ => rfl) (fun c => hpages c _)
  unfold State.poised
  obtain ⟨st, pw, hrequest⟩ := noteRequest_ctxs (if s.moves.any (fun m => m.ctx == id && m.va == vp && m.keyId == 0 && m.going)
    then (s.modPage id vp (fun q => { q with snap := false })).holdWrite id else s.modPage id vp (fun q => { q with snap := false })) (stackOf f)
  rw [hrequest]
  refine Eq.trans (b := (State.ctx? (if s.moves.any (fun m => m.ctx == id && m.va == vp && m.keyId == 0 && m.going)
    then (s.modPage id vp (fun q => { q with snap := false })).holdWrite id else s.modPage id vp (fun q => { q with snap := false })) k).map g) rfl ?_
  split
  · rw [← hmod]
    exact holdWrite_ctx? _ id k hperiod
  · exact hmod

/-- A section without bytes has an entry of 64 bytes and no piece. -/
theorem layOut_blank (key : Bytes) (n : Nat) : ∀ sec off : Nat,
    (layOut key sec off (List.replicate n (0, 0, []))).1.length = 64 * n ∧ (layOut key sec off (List.replicate n (0, 0, []))).2 = [] := by
  induction n with
  | zero => exact fun _ _ => ⟨rfl, rfl⟩
  | succ n ih =>
    intro sec off
    obtain ⟨htable, hdata⟩ := ih (sec + 1) off
    rw [List.replicate_succ]
    unfold layOut
    have hnone : (storedSection key sec []).flatten = [] := rfl
    simp only [hnone, List.length_nil, Nat.add_zero, List.nil_append]
    refine ⟨?_, hdata⟩
    rw [List.length_append, htable]
    simp [sectionEntry]
    omega

theorem slice_length (bs : Bytes) (off n : Nat) : (slice bs off n).length = n := by
  unfold slice
  simp only [List.length_append, List.length_take, List.length_drop, List.length_replicate]
  omega

theorem manifest_length (c : Ctx) (ordinal sections used : Nat) (wrapped mtag : Bytes) (commit verified : Nat) {binding : Bytes} (hbinding : binding.length = 64)
    (hmtag : mtag.length = 16) : (manifest c ordinal sections used wrapped binding mtag commit verified).length = 256 := by
  simp [manifest, hbinding, hmtag, slice_length, Ctx.ckptCfg, ckptCfgOf]

/-- Bytes of an image of `n` sections without bytes. -/
theorem generation_length {s : State} {c : Ctx} {key : Bytes} {n : Nat} (hsections : c.ckpt.sections = List.replicate n (0, 0, []))
    (hbinding : (s.ckptBinding c c.ckptCfg.keySrc).length = 64) :
    (s.generation c key).1.length = 256 ∧ (s.generation c key).2.length = (256 + 64 * n + 4095) / 4096 * 4096 - 256 := by
  obtain ⟨htable, hdata⟩ := layOut_blank key n 0 ((256 + 64 * n + 4095) / 4096 * 4096)
  unfold State.generation
  dsimp only
  rw [hsections, List.length_replicate]
  refine ⟨manifest_length _ _ _ _ _ _ _ _ hbinding (slice_length ..), ?_⟩
  rw [hdata]
  simp only [List.length_append, List.length_replicate, htable, List.length_nil]
  omega

theorem useKey_effect {s t : State} {key : Bool × Nat} {n : Nat} (h : s.useKey key n = some t) : ∃ v, t = { s with vault := v } := by
  have hall : ∀ u ∈ s.useKey key n, ∃ v, u = { s with vault := v } := by
    unfold State.useKey
    intro u hu
    split at hu <;> split at hu
    · cases hu
    · split at hu <;> cases hu
      exact ⟨_, rfl⟩
    · cases hu
    · split at hu <;> cases hu
      exact ⟨_, rfl⟩
  exact hall t h

theorem hubWrite_ctxs (s : State) (id a : Nat) (bs : Bytes) : (s.hubWrite id a bs).ctxs = s.ctxs := by
  unfold State.hubWrite State.writeSram
  split
  · rfl
  · dsimp only
    split
    · split <;> rfl
    · rfl
    · split
      · rfl
      · split
        · next ht _ =>
          obtain ⟨_, rfl⟩ := useKey_effect ht
          rfl
        · rfl
    · rfl

theorem writeRing_ctxs (s : State) (id first : Nat) : (s.writeRing id first).ctxs = s.ctxs := by
  unfold State.writeRing
  split
  · rfl
  · refine List.foldlRecOn _ _ (motive := fun u : State => u.ctxs = s.ctxs) rfl fun u hu e _ => ?_
    exact List.foldlRecOn _ _ (motive := fun u : State => u.ctxs = s.ctxs) hu fun v hv x _ => (hubWrite_ctxs ..).trans hv

theorem ctx_raise_id (c : Ctx) (e : Entry) : (c.raise e).id = c.id := by
  unfold Ctx.raise
  split
  · rfl
  · split
    · rfl
    · split <;> rfl

/-- A generation that ends without copy-on-write frames leaves CKPT_DONE in the ring with its status. -/
theorem endCkpt_ring {u : State} {id raw stored : Nat} {st : Status} {c : Ctx} {r : Ring} (hc : u.ctx? id = some c) (hring : c.ring = some r)
    (hothers : r.others < 16) (hstate : c.res.state ≠ .resetting) (hsnap : u.mem.hbmUse.filter (fun x => x.2 == .snapshot id) = []) :
    ((u.endCkpt id st raw stored).ctx? id).bind (fun d => d.ring) =
      some (r.push { rseq := 0, event := .ckptDone, status := st, body := c.ckpt.doneBody raw stored }) := by
  have hid : c.id = id := State.ctx?_id hc
  have hdrop : u.dropSnapshots id = u := by
    unfold State.dropSnapshots
    rw [hsnap, List.foldl_nil]
  have hput (v : State) {d : Ctx} (f : Ctx → Ctx) (hf : ∀ d, (f d).id = d.id) (hv : v.ctx? id = some d) : (v.modCtx id f).ctx? id = some (f d) := by
    rw [State.ctx?_modCtx v id id f hf, hv]
    simp
  have hraise (v : State) {d : Ctx} (body : Bytes) (hv : v.ctx? id = some d) (hr : d.ring = some r) (hs : d.res.state ≠ .resetting) :
      ((v.raiseCtx id .ckptDone st body).ctx? id).bind (fun d => d.ring) = some (r.push { rseq := 0, event := .ckptDone, status := st, body := body }) := by
    unfold State.raiseCtx
    rw [show ∀ w : State, (w.writeRing id (v.ringNext id)).ctx? id = w.ctx? id from fun w => by simp only [State.ctx?, writeRing_ctxs],
      hput v _ (fun d => ctx_raise_id d _) hv, Option.bind_some]
    unfold Ctx.raise
    rw [if_neg hs, hr]
    dsimp only
    rw [if_pos hothers]
  unfold State.endCkpt
  rw [hc]
  dsimp only
  rw [hdrop]
  refine Eq.trans ?_ (hraise _ (c.ckpt.doneBody raw stored) (hput u (fun d => { d with
    ckpt := { d.ckpt with stage := 0, sections := [], cowUsed := 0 }, pages := d.pages.map (fun p => { p with snap := false }) }) (fun _ => rfl) hc) hring hstate)
  have hjoin (v : State) : (v.ctx? id).bind (fun d => d.ring) = ((v.ctx? id).map (fun d => d.ring)).join := by cases v.ctx? id <;> rfl
  have hstart (v : State) : ((v.startCkpt id 2).ctx? id).bind (fun d => d.ring) = (v.ctx? id).bind (fun d => d.ring) := by
    rw [hjoin, hjoin]
    exact congrArg Option.join (ctx?_modCtx_map v id id (fun _ => rfl) (fun _ => rfl))
  have hfinish (v : State) (p : Wait → Bool) (q : Wait → Reply) : (v.finishAll p q).ctx? id = v.ctx? id := by
    simp only [State.ctx?, (Released.finishAll v p q).1.ctxs]
  split
  · rw [hstart, hfinish]
  · rw [hfinish]

/-- A generation whose image is refused ends with UNCORRECTABLE. -/
theorem doCkptWrite_refused {s k w v : State} {i : Nat} {c : Ctx} {img : Bytes × Bytes} {e : Status} (hc : s.ctx? i = some c) (halive : s.alive = true)
    (hstage : c.ckpt.stage = 2) (htorn : c.ckpt.torn = false) (hsnap : c.pages.filter (fun p => p.snap) = []) (hk : (s.draw 32).1 = k)
    (himg : k.generation c (s.draw 32).2 = img) (hfits : img.1.length + img.2.length ≤ halfBytes c.ckptCfg.pages)
    (hw : k.writeV i none [] (halfAt c.ckptCfg.va c.ckptCfg.pages c.ckpt.half + 208) (toLe 16 0) = (w, none))
    (hv : w.writeV i none [] (halfAt c.ckptCfg.va c.ckptCfg.pages c.ckpt.half + 256) img.2 = (v, some e)) :
    ∃ raw stored, doCkptWrite i [] s = v.endCkpt i .uncorrectable raw stored := by
  have hread : (s.draw 32).1.readSnapshots c [] = (k, true) := by
    unfold State.readSnapshots
    rw [hsnap, hk]
    rfl
  refine ⟨(c.ckpt.sections.map (fun x => x.2.2.length)).sum, (img.1 ++ img.2).length, ?_⟩
  unfold doCkptWrite
  rw [hc]
  -- the image stays closed: the kernel would evaluate it where it compares its two parts
  obtain ⟨image, himage⟩ : ∃ image, image = @State.generation := ⟨_, rfl⟩
  rw [← himage] at himg ⊢
  dsimp only
  rw [if_neg (by simp [halive, hstage]), hread]
  dsimp only
  rw [himg, hw]
  dsimp only
  rw [if_neg (by decide), if_neg (by rw [List.length_append]; exact Nat.not_lt.mpr hfits), if_neg (by rw [htorn]; decide), hv]
  rfl

/-- A device whose context, of no session, writes a generation of 32,764 sections without bytes into a page of its store, whose key has 2^14
uses left and whose frame's counters stand at `brim`. -/
def ckptAtBrim : State :=
  { Tests.devCkpt 2 with
    ctxs := [{ Tests.ctxStore { Tests.ckpt 2 with sections := List.replicate 32764 (0, 0, []) } with owner := 9 }]
    vault := { bank := [{ ctx := 3, gen := 1, limit := 2 ^ 14 }] }
    mem := { hbmUse := [(1, .page), (2, .page)], metas := [brim 1] } }

/-- That context. -/
def ctxAtBrim : Ctx := { Tests.ctxStore { Tests.ckpt 2 with sections := List.replicate 32764 (0, 0, []) } with owner := 9 }

/-- The page of its store that the generation goes to. -/
def storePage : Page := { va := 1, hbm := some 1 }

/-- The image is refused at its last block. -/
theorem ckptAtBrim_refused : ∃ (v : State) (raw stored : Nat) (d : Ctx), doCkptWrite 3 [] ckptAtBrim = v.endCkpt 3 .uncorrectable raw stored ∧ v.ctx? 3 = some d ∧
    (d.ring, d.res) = (ctxAtBrim.ring, ctxAtBrim.res) ∧ v.mem.hbmUse = ckptAtBrim.mem.hbmUse := by
  have hp : PlainPage storePage 1 := ⟨rfl, rfl, rfl, rfl, rfl, rfl, rfl⟩
  have hc : (ckptAtBrim.draw 32).1.ctx? 3 = some ctxAtBrim := rfl
  have hpage : ctxAtBrim.page? 1 = some storePage := rfl
  have hat : halfAt ctxAtBrim.ckptCfg.va ctxAtBrim.ckptCfg.pages ctxAtBrim.ckpt.half = 2 ^ 21 := by decide +kernel
  have hhalf : halfBytes ctxAtBrim.ckptCfg.pages = 2 ^ 21 := by decide +kernel
  obtain ⟨hhead, hrest⟩ := generation_length (s := (ckptAtBrim.draw 32).1) (c := ctxAtBrim) (key := (ckptAtBrim.draw 32).2) rfl (by decide +kernel)
  obtain ⟨_, _, _, _, heq⟩ := Poised.poised (ckptAtBrim.draw 32).1 3 1 1
  obtain ⟨w, hw, hbrim, ⟨_, _, _, _, _, hstored⟩, hcells⟩ := brim_first (s := (ckptAtBrim.draw 32).1.poised 3 1 1) (c := ctxAtBrim) (p := storePage) (f := 1) (off := 208)
    (bs := toLe 16 0) (e := { ctx := 3, gen := 1, limit := 2 ^ 14 }) rfl (by rw [heq]; rfl) (by rw [heq]; rfl) rfl rfl rfl
  obtain ⟨cw, hcw, hpagew⟩ : PageOf w 3 1 storePage := (PageOf.poised ⟨_, hc, hpage⟩ hp.snap 1).congr (by rw [hstored])
  have hid : cw.id = 3 := State.ctx?_id hcw
  obtain ⟨img, himg⟩ : ∃ img, img = (ckptAtBrim.draw 32).1.generation ctxAtBrim (ckptAtBrim.draw 32).2 := ⟨_, rfl⟩
  rw [← himg] at hhead hrest
  obtain ⟨_, _, _, _, heqw⟩ := Poised.poised w 3 1 1
  obtain ⟨v, hv, ⟨_, _, _, _, _, hstoredv⟩, -⟩ := Brimming.exhausts (s := w.poised 3 1 1) (c := cw) (p := storePage) (f := 1) (n := 8190) (j := 1) (u := 16) (fuel := img.2.length / 256 + 2)
    (bs := img.2) (limit := 2 ^ 14) rfl (by rw [hid]; exact hbrim.congr (by rw [heqw]) (by rw [heqw])) (by decide) (by rw [hrest]) (by rw [hrest]; decide) (by decide) (by decide)
    (by rw [heqw, hcells, heq]; exact writeCells_wf rfl ..)
  have hkept (u : State) : ((u.poised 3 1 1).ctx? 3).map (fun d => (d.ring, d.res)) = (u.ctx? 3).map (fun d => (d.ring, d.res)) :=
    poised_ctx? u 3 1 1 3 (fun _ _ => rfl) (fun _ _ => rfl)
  have hctx : (v.ctx? 3).map (fun d => (d.ring, d.res)) = some (ctxAtBrim.ring, ctxAtBrim.res) := by
    calc (v.ctx? 3).map (fun d => (d.ring, d.res))
        = ((w.poised 3 1 1).ctx? 3).map (fun d => (d.ring, d.res)) := by rw [hstoredv]; rfl
      _ = (w.ctx? 3).map (fun d => (d.ring, d.res)) := hkept w
      _ = (((ckptAtBrim.draw 32).1.poised 3 1 1).ctx? 3).map (fun d => (d.ring, d.res)) := by rw [hstored]; rfl
      _ = ((ckptAtBrim.draw 32).1.ctx? 3).map (fun d => (d.ring, d.res)) := hkept _
      _ = some (ctxAtBrim.ring, ctxAtBrim.res) := by rw [hc]; rfl
  obtain ⟨d, hd, hparts⟩ := Option.map_eq_some_iff.mp hctx
  obtain ⟨raw, stored, hrun⟩ := doCkptWrite_refused (s := ckptAtBrim) (i := 3) (c := ctxAtBrim) (w := w) (v := v) (img := img) (e := .keyExhausted) rfl rfl rfl rfl rfl rfl himg.symm
    (by rw [hhead, hrest, hhalf]; decide)
    (by rw [hat, ← hw]; exact writeV_block hp hc hpage (by decide) (by decide) (by decide))
    (by
      rw [hat, writeV_plain (va := 2 ^ 21 + 256) hcw (by rw [show vpage (2 ^ 21 + 256) = 1 by decide]; exact hpagew) hp (by rw [hrest]; decide) (by rw [hrest]; decide)]
      exact hv)
  exact ⟨v, raw, stored, d, hrun, hd, hparts, by rw [hstoredv, heqw, hstored, heq]; rfl⟩

end Sys2Proof.Machine

namespace Sys2Proof
open Machine
set_option Elab.async false

/-- Refutes O54: 2^14 uses of the context's key are fewer than the write of a whole page may take (R399, R404): an image that fits its half ends
its generation with UNCORRECTABLE. -/
theorem not_checkpointsAreTaken : ¬ Obligations.CheckpointsAreTaken := by
  rintro ⟨-, -, -, -, -, hwrite⟩
  obtain ⟨hhead, hrest⟩ := generation_length (s := ((ckptAtBrim.draw 32).1.readSnapshots ctxAtBrim []).1) (c := ctxAtBrim) (key := (ckptAtBrim.draw 32).2) rfl (by decide +kernel)
  obtain ⟨t, ht, -, -, hfits, -⟩ := hwrite 3 1 ctxAtBrim ctxAtBrim.ckptCfg { addr := 0 } ckptAtBrim rfl rfl rfl rfl rfl rfl rfl rfl (by decide) (by decide)
    rfl (by decide +kernel) (by decide +kernel) (by decide +kernel) rfl (by decide)
  have hhalf : halfBytes ctxAtBrim.ckptCfg.pages = 2 ^ 21 := by decide +kernel
  obtain ⟨⟨z, hz, -, k, hk, hdone, hok⟩, -⟩ := hfits (by rw [hhead, hrest, hhalf]; decide)
  obtain ⟨v, raw, stored, d, hrun, hd, hparts, huse⟩ := ckptAtBrim_refused
  obtain ⟨hring, hres⟩ := Prod.mk.inj hparts
  have heq : t = v.endCkpt 3 .uncorrectable raw stored := by
    rw [← hrun]
    exact (Host.Outcome.next.inj ht).symm
  rw [heq, endCkpt_ring (r := { addr := 0 }) hd (by rw [hring]; rfl) (by decide) (by rw [hres]; decide) (by rw [huse]; decide)] at hz
  obtain rfl := Option.some.inj hz
  obtain rfl : k = _ := List.mem_singleton.mp hk
  exact Status.noConfusion hok

end Sys2Proof

/-! ### Moves that are asked for, and frames that are granted -/

namespace Sys2Proof.Machine
set_option Elab.async false

theorem Accessed.cross {s t : State} {l : Lease} {va page off n tag : Nat} {data : Option Bytes} {dl : Option Nat}
    (h : s.cross l va page off n data dl = some (t, tag)) : Accessed s t := by
  unfold State.cross at h
  obtain ⟨q, hissue, heq⟩ := Option.map_eq_some_iff.mp h
  obtain ⟨rfl, -⟩ := Prod.mk.inj heq
  have hledger : Accessed s q.1 := by
    unfold State.issue at hissue
    split at hissue
    · cases hissue
    · cases hissue
      exact Accessed.ledger ..
  exact hledger.trans (Accessed.sendR ..)

theorem Accessed.crossPage {s t : State} {l : Lease} {va : Nat} {o : Bool} (h : s.crossPage l va o = some t) : Accessed s t := by
  unfold State.crossPage at h
  split at h
  · cases h
    exact Accessed.refl s
  · dsimp only at h
    split at h
    · cases h
    · next r hr =>
      generalize List.range 511 = l at h
      obtain rfl := Option.some.inj h
      refine (Accessed.cross hr).trans (Accessed.foldl _ (fun u i => ?_) l _)
      split
      · next hu => exact (Accessed.cross hu).trans (Accessed.ledger ..)
      · exact Accessed.refl u

/-- `t` is `s` after moves have been asked for: what their transfers note differs, and the moves and what of the budgets is spent. -/
def Moved (s t : State) : Prop := ∃ mv bu bp, Accessed { s with moves := mv, budget := bu, budgetPeriod := bp } t

namespace Moved

theorem of_accessed {s t : State} (h : Accessed s t) : Moved s t := ⟨s.moves, s.budget, s.budgetPeriod, h⟩

theorem refl (s : State) : Moved s s := of_accessed (Accessed.refl s)

theorem trans {s t u : State} (h : Moved s t) (k : Moved t u) : Moved s u := by
  obtain ⟨_, _, _, _, _, _, _, _, _, _, _, _, o, rfl, hc⟩ := h
  obtain ⟨mv, bu, bp, _, _, _, _, _, _, _, _, _, o', rfl, kc⟩ := k
  exact ⟨mv, bu, bp, _, _, _, _, _, _, _, _, _, o ++ o', by rw [← List.append_assoc], kc.trans hc⟩

theorem foldl {α : Type} (f : State → α → State) (hf : ∀ s x, Moved s (f s x)) (l : List α) : ∀ s, Moved s (l.foldl f s) := by
  induction l with
  | nil => exact refl
  | cons x rest ih => exact fun s => (hf s x).trans (ih _)

theorem moves (s : State) (mv : List Move) : Moved s { s with moves := mv } := ⟨mv, s.budget, s.budgetPeriod, Accessed.refl _⟩

theorem spend (s : State) (tile : Nat) : Moved s (s.spend tile) := by
  unfold State.spend State.freshBudget
  dsimp only
  split <;> exact ⟨_, _, _, Accessed.refl _⟩

theorem launch (s : State) (m : Move) : Moved s (s.launch m) := by
  unfold State.launch
  dsimp only
  split
  · exact refl s
  · split
    · exact moves ..
    · split
      · exact refl s
      · have hspent : Moved s (if m.paid then s else s.spend m.tile) := by
          split
          · exact refl s
          · exact spend ..
        split
        · exact hspent.trans (moves ..)
        · split
          · exact refl s
          · next h => exact (hspent.trans (of_accessed (Accessed.crossPage h))).trans (moves ..)

theorem pumpMoves (s : State) : Moved s s.pumpMoves := foldl _ launch _ s

theorem startMove (s : State) (id vp dest : Nat) (why : Reason) (key : Nat) (paid : Bool) : Moved s (s.startMove id vp dest why key paid) :=
  (moves ..).trans (pumpMoves _)

theorem giveUp (s : State) (c : Ctx) (why : Reason) : Moved s (s.giveUp c why) := by
  unfold State.giveUp State.moveToHbm
  split
  · split
    · exact startMove ..
    · exact refl s
  · exact refl s

theorem trimSurplus : ∀ (fuel : Nat) (s : State), Moved s (s.trimSurplus fuel)
  | 0, s => refl s
  | fuel + 1, s => by
    unfold State.trimSurplus
    split
    · exact refl s
    · split
      · exact refl s
      · exact (giveUp ..).trans (trimSurplus fuel _)

end Moved

/-! ### Pages that are switched, published and granted -/

namespace Persist

theorem either {s x y : State} {b : Prop} [Decidable b] (hx : Persist s x) (hy : Persist s y) : Persist s (if b then x else y) := by
  split
  · exact hx
  · exact hy

theorem switchPage (s : State) (id vp dest : Nat) (why : Reason) : Persist s (s.switchPage id vp dest why) := by
  unfold State.switchPage
  split
  · exact refl s
  · split
    · exact refl s
    · split
      · exact refl s
      · next c _ _ p _ _ src _ =>
        split
        · exact refl s
        · dsimp only
          have hcopied : Persist s (((if isHbm dest then s.useAnyway (keyOf c p) 8192 else s).copyPage (keyOf c p) src dest).modPage id vp (fun q =>
            if isTier dest then { q with tier := some dest }
            else if isHbm dest then { q with tier := none, lease := none, hbm := some dest }
            else { q with tier := none, lease := some dest, hbm := none })) := ((either (useAnyway ..) (refl s)).trans (copyPage ..)).trans (modPage ..)
          refine Persist.trans (either ?_ ?_) (noteMove ..)
          · exact Persist.trans (either (hcopied.trans (dropTier ..)) (either (hcopied.trans (freeFrame ..)) (hcopied.trans (modCells ..)))) (retireFrame ..)
          · exact either (hcopied.trans (dropTier ..)) (either (hcopied.trans (freeFrame ..)) (hcopied.trans (modCells ..)))

theorem frameOff {s t : State} {tile f : Nat} (h : s.frameOff tile = some (t, f)) : Persist s t := by
  unfold State.frameOff at h
  split at h
  · cases h
    exact refl s
  · cases h
  · obtain ⟨g, -, heq⟩ := Option.map_eq_some_iff.mp h
    obtain ⟨rfl, -⟩ := Prod.mk.inj heq
    refine Persist.trans (Persist.trans ?_ (swapFrame ..)) (modMem ..)
    exact of_eq rfl

theorem publishPage {s t : State} {c : Ctx} {p : Page} {index k : Nat} {x : SharePage} (h : s.publishPage c p index k = some (t, x)) : Persist s t := by
  unfold State.publishPage at h
  have hback : Persist s (match p.tier, p.hbm with
      | some _, some h => s.switchPage c.id p.va h .mirror
      | _, _ => s) := by
    split
    · exact switchPage ..
    · exact refl s
  dsimp only at h
  split at h
  · cases h
  · obtain ⟨r, hr, heq⟩ := Option.map_eq_some_iff.mp h
    obtain ⟨rfl, -⟩ := Prod.mk.inj heq
    exact (((((hback.trans (frameOff hr)).trans (useAnyway ..)).trans (modMem ..)).trans (copyPage ..)).trans (modPage ..)).trans (logMove ..)

theorem publishPages {c : Ctx} {index : Nat} : ∀ {l : List (Page × Nat)} {s t : State} {xs : List SharePage}, s.publishPages c index l = some (t, xs) → Persist s t
  | [], s, t, xs, h => by
    cases h
    exact refl s
  | (p, k) :: rest, s, t, xs, h => by
    unfold State.publishPages at h
    split at h
    · cases h
    · next r hr =>
      obtain ⟨y, hy, heq⟩ := Option.map_eq_some_iff.mp h
      obtain ⟨rfl, -⟩ := Prod.mk.inj heq
      exact (publishPage hr).trans (publishPages hy)

theorem grantPage (s : State) (id vp : Nat) : Persist s (s.grantPage id vp) := by
  unfold State.grantPage
  split
  · exact refl s
  · dsimp only
    refine Persist.trans (Persist.trans (Persist.trans (useAnyway s (true, id) 8192) ?_) (modMem ..)) (modCtx _ _ _ (fun _ => rfl))
    exact of_eq rfl

end Persist

theorem useAnyway_effect (s : State) (key : Bool × Nat) (n : Nat) : ∃ v, s.useAnyway key n = { s with vault := v } := by
  unfold State.useAnyway
  cases h : s.useKey key n with
  | none => exact ⟨s.vault, rfl⟩
  | some t => exact useKey_effect h

/-- A frame that is granted is cleared, and maps the page. -/
theorem grantPage_effect {s : State} {id vp f : Nat} (hf : s.freeHbm 0 = some f) :
    (s.grantPage id vp).mem.cells = clearCells s.mem.cells (physAt f 0) pageSize ∧
    (s.grantPage id vp).ctxs = s.ctxs.map (fun c => if c.id = id then { c with pages := c.pages ++ [{ va := vp, hbm := some f }] } else c) := by
  obtain ⟨v, hv⟩ := useAnyway_effect s (true, id) 8192
  unfold State.grantPage
  rw [hf]
  dsimp only
  rw [hv]
  refine ⟨?_, rfl⟩
  unfold State.modMem
  dsimp only
  split <;> rfl

/-- Pages that find their mirrors are published under an object. -/
theorem publish_some {u : State} {c : Ctx} {vp n i g0 : Nat} {r : State × List SharePage}
    (hpick : pickId 65536 (u.shares.map (fun z => z.index)) u.sharesFreed u.hub.timer (fun _ => false) = some (i, g0))
    (hr : (((u.cancelMoves (fun z => z.ctx == c.id && decide (vp ≤ z.va) && decide (z.va < vp + n))).draw 8).1.publishPages c i
      ((List.range n).flatMap (fun j => ((c.page? (vp + j)).map (fun p => (p, j))).toList))) = some r) :
    ∃ keyId, u.publish c vp n =
      ({ r.1 with
        shares := r.1.shares ++ [{ index := i, gen := nextGen 16 g0, key := ofLe ((u.cancelMoves (fun z => z.ctx == c.id && decide (vp ≤ z.va) && decide (z.va < vp + n))).draw 8).2,
                                   ctx := c.id, keyId := keyId, pages := r.2, maps := [(c.id, vp)], own := some vp }]
        sharesFreed := r.1.sharesFreed.filter (fun f => f.1 != i) },
        some { status := .ok, payload := toLe 2 i ++ toLe 2 (nextGen 16 g0) ++ toLe 4 0
          ++ ((u.cancelMoves (fun z => z.ctx == c.id && decide (vp ≤ z.va) && decide (z.va < vp + n))).draw 8).2 }) := by
  unfold State.publish
  rw [hpick]
  dsimp only
  rw [hr]
  exact ⟨_, rfl⟩

section Grant
variable {m : Msg} {x : Session} {c : Ctx} {k : Grant} {u : State} (hc : u.ctx? m.ctx = some c) (hk : k = grantOf (ofLe (slice m.payload 0 32)))
  (hcheck : u.grantCheck x c m.length k = none)
include hc hk hcheck

theorem doMapGrant_maps (hkind : k.kind = 0) : doMapGrant m u x =
    okay ((List.range (k.pages - u.localPart c k.pages)).foldl (fun y i => y.grantLent c (k.va / pageSize + u.localPart c k.pages + i))
      ((List.range (u.localPart c k.pages)).foldl (fun y i => y.grantPage c.id (k.va / pageSize + i)) u)) := by
  unfold doMapGrant
  rw [withCtx_of_some hc, ← hk]
  dsimp only
  rw [hcheck, hkind]
  rfl

theorem doMapGrant_limits (hkind : k.kind = 1) : doMapGrant m u x =
    okay ((u.modCtx c.id (fun d => { d with limits := { localMax := k.a, sramMax := k.b, nbrMax := k.d } })).trimSurplus 24576) := by
  unfold doMapGrant
  rw [withCtx_of_some hc, ← hk]
  dsimp only
  rw [hcheck, hkind]
  rfl

theorem doMapGrant_publishes (hkind : k.kind = 2) : doMapGrant m u x = if k.pages = 0 then okay u else u.publish c (k.va / pageSize) k.pages := by
  unfold doMapGrant
  rw [withCtx_of_some hc, ← hk]
  dsimp only
  rw [hcheck, hkind]
  rfl

theorem doMapGrant_attaches {y : Share} (hkind : k.kind = 3) (hy : u.shareNamed k = some y) : doMapGrant m u x = okay (u.attach c y (k.va / pageSize)) := by
  unfold doMapGrant
  rw [withCtx_of_some hc, ← hk]
  dsimp only
  rw [hcheck, hkind]
  dsimp only
  rw [hy]
  rfl

end Grant

end Sys2Proof.Machine

namespace Sys2Proof
open Machine
set_option Elab.async false

/-- Settles O39: the checks that pass lead to the effect of the request's kind, whose frames, moves and records open and close no session. -/
theorem mapGrantMapsPublishesAndAttaches : Obligations.MapGrantMapsPublishesAndAttaches := by
  have hctx {m : Msg} {c : Ctx} {s u : State} (hc : s.ctx? m.ctx = some c) (hu : u = s.takeMail .mapGrant m) : u.ctx? m.ctx = some c := by
    rw [hu, State.takeMail_ctx?, hc]
  have hsession {m : Msg} {x : Session} {s v : State} (hadm : Admits s .mapGrant m x = true) (hv : Persist (s.takeMail .mapGrant m) v) :
      (v.session? m.session).isSome = true := by
    rw [hv.session?_isSome, session?_of_admits hadm]
    rfl
  refine ⟨?_, ?_, ?_, ?_, ?_, ?_, ?_⟩
  · rintro m x c k u s hadm hc hk rfl hcheck hkind hlocal
    have hall : (s.takeMail .mapGrant m).localPart c k.pages = k.pages := Nat.le_antisymm (Nat.min_le_left ..) hlocal
    have hbody := doMapGrant_maps (hctx hc rfl) hk hcheck hkind
    rw [hall, Nat.sub_self, List.range_zero, List.foldl_nil] at hbody
    have hgrants := Persist.foldl (fun (y : State) i => y.grantPage c.id (k.va / pageSize + i)) (fun y i => Persist.grantPage ..) (List.range k.pages) (s.takeMail .mapGrant m)
    obtain ⟨heq, hans⟩ := request_answered hadm hbody hgrants.out (hsession hadm hgrants)
    exact ⟨_, rfl, heq, by rw [heq]; exact hans⟩
  · rintro m x c k f u s hadm hc hk rfl hcheck hkind hone hlocal hf hwf
    have hbody : doMapGrant m (s.takeMail .mapGrant m) x = okay ((s.takeMail .mapGrant m).grantPage c.id (k.va / pageSize)) := by
      rw [doMapGrant_maps (hctx hc rfl) hk hcheck hkind, hone, hlocal]
      rfl
    obtain ⟨_, _, _, hmail⟩ := Sends.takeMail s .mapGrant m
    obtain ⟨hcells, hctxs⟩ := grantPage_effect (s := s.takeMail .mapGrant m) (id := c.id) (vp := k.va / pageSize) (f := f) (by rw [hmail]; exact hf)
    have hsent : Sends ((s.takeMail .mapGrant m).grantPage c.id (k.va / pageSize)) (s.request .mapGrant m (doMapGrant m)) := by
      rw [State.request_of_admits hadm hbody]
      exact Sends.answer ..
    have hmem : (s.request .mapGrant m (doMapGrant m)).mem.cells = clearCells s.mem.cells (physAt f 0) pageSize := by
      rw [hsent.mem, hcells, hmail]
    refine ⟨_, rfl, fun d hd hid => ?_, fun a ha => ?_, fun a ha => ?_, ?_⟩
    · obtain ⟨_, _, _, heq⟩ := hsent
      rw [heq] at hd
      obtain ⟨e, -, rfl⟩ := List.mem_map.mp (hctxs ▸ hd)
      by_cases he : e.id = c.id
      · rw [if_pos he]
        exact List.getLast?_concat
      · rw [if_neg he] at hid
        exact absurd hid he
    · rw [hmem, cellAt_clearCells hwf, if_pos (by simpa [physAt] using ha)]
      rfl
    · rw [hmem, cellAt_clearCells hwf, if_neg (by simpa [physAt] using ha)]
    · show cellsWf _ = true
      rw [hmem]
      exact clearCells_wf hwf ..
  · rintro m x c k u s hadm hc hk rfl hcheck hkind hlocal
    exact ⟨_, rfl, State.request_of_admits hadm (doMapGrant_maps (hctx hc rfl) hk hcheck hkind)⟩
  · rintro m x c k u s hadm hc hk rfl hcheck hkind
    obtain ⟨_, _, _, hmail⟩ := Sends.takeMail s .mapGrant m
    obtain ⟨v, hv⟩ : ∃ v, v = ((s.takeMail .mapGrant m).modCtx c.id (fun d => { d with limits := { localMax := k.a, sramMax := k.b, nbrMax := k.d } })).trimSurplus 24576 := ⟨_, rfl⟩
    have hbody := doMapGrant_limits (hctx hc rfl) hk hcheck hkind
    rw [← hv] at hbody
    obtain ⟨_, _, _, _, _, _, _, _, _, _, _, _, o, hmoved, hpages⟩ := Moved.trimSurplus 24576 ((s.takeMail .mapGrant m).modCtx c.id (fun d => { d with limits := { localMax := k.a, sramMax := k.b, nbrMax := k.d } }))
    rw [← hv] at hmoved
    obtain ⟨hans, hsent⟩ := request_from hadm hbody ⟨o, by rw [hmoved]; rfl⟩ (by rw [hmoved]; rfl)
    obtain ⟨_, _, _, heq⟩ := hsent
    refine ⟨_, rfl, hans, fun d hd hid => ?_, ?_, ?_, ?_⟩
    · rw [heq, hmoved] at hd
      obtain ⟨e, he, hsame⟩ := List.mem_map.mp (hpages ▸ List.mem_map_of_mem (f := Ctx.unpaged) hd)
      have hids := congrArg Ctx.id hsame
      have hlimits := congrArg Ctx.limits hsame
      refine Eq.trans hlimits.symm ?_
      obtain ⟨e', -, rfl⟩ := List.mem_map.mp he
      by_cases he' : e'.id = c.id
      · rw [if_pos he']
        rfl
      · rw [if_neg he'] at hids
        exact absurd (Eq.trans hids hid) he'
    · rw [heq, hmoved, hmail]; rfl
    · rw [heq, hmoved, hmail]; rfl
    · rw [heq, hmoved, hmail]; rfl
  · rintro m x c k i g0 u s hadm hc hk rfl hcheck hkind hpages hpick hsome
    obtain ⟨_, _, _, hmail⟩ := Sends.takeMail s .mapGrant m
    obtain ⟨r, hr⟩ := Option.isSome_iff_exists.mp hsome
    have hcancel := Persist.cancelMoves (s.takeMail .mapGrant m) (fun z => z.ctx == c.id && decide (k.va / pageSize ≤ z.va) && decide (z.va < k.va / pageSize + k.pages))
    have hbody := doMapGrant_publishes (hctx hc rfl) hk hcheck hkind
    rw [if_neg hpages] at hbody
    obtain ⟨keyId, hpublish⟩ := publish_some (u := s.takeMail .mapGrant m) (c := c) (vp := k.va / pageSize) (n := k.pages) (by rw [hmail]; exact hpick) hr
    have hdrawn : (((s.takeMail .mapGrant m).cancelMoves (fun z => z.ctx == c.id && decide (k.va / pageSize ≤ z.va) && decide (z.va < k.va / pageSize + k.pages))).draw 8).2 =
        (s.draw 8).2 := by
      unfold State.draw
      rw [hcancel.random, hmail]
    rw [hpublish, hdrawn] at hbody
    have hpublished := Persist.publishPages hr
    obtain ⟨o, ho⟩ := hcancel.out
    obtain ⟨o', ho'⟩ := hpublished.out
    obtain ⟨heq, hans⟩ := request_answered hadm hbody ⟨o ++ o', by rw [← List.append_assoc, ← ho]; exact ho'⟩
      ((hpublished.session?_isSome m.session).trans ((hcancel.session?_isSome m.session).trans (by rw [session?_of_admits hadm]; rfl)))
    obtain ⟨_, _, _, hsent⟩ := Sends.answer { r.1 with
      shares := r.1.shares ++ [{ index := i, gen := nextGen 16 g0, key := ofLe (s.draw 8).2, ctx := c.id, keyId := keyId, pages := r.2, maps := [(c.id, k.va / pageSize)], own := some (k.va / pageSize) }]
      sharesFreed := r.1.sharesFreed.filter (fun f => f.1 != i) } .mapGrant m { status := .ok, payload := toLe 2 i ++ toLe 2 (nextGen 16 g0) ++ toLe 4 0 ++ (s.draw 8).2 }
    refine ⟨_, rfl, by rw [heq]; exact hans, ?_, ?_⟩
    · rw [heq, hsent]
      exact ⟨_, List.mem_append_right _ List.mem_cons_self, rfl, rfl, rfl, rfl, rfl⟩
    · rw [heq, hsent]
      exact hpublished.random.trans (congrArg (· + 8) (hcancel.random.trans (by rw [hmail])))
  · rintro m x c k u s hadm hc hk rfl hcheck hkind hpages
    have hbody := doMapGrant_publishes (hctx hc rfl) hk hcheck hkind
    rw [if_pos hpages] at hbody
    obtain ⟨hans, honly⟩ := request_onlySent hadm hbody
    exact ⟨_, rfl, hans, honly⟩
  · rintro m x c k y u s hadm hc hk rfl hcheck hkind hy
    obtain ⟨_, _, _, hmail⟩ := Sends.takeMail s .mapGrant m
    have hbody := doMapGrant_attaches (hctx hc rfl) hk hcheck hkind (y := y) (by rw [hmail]; exact hy)
    obtain ⟨hans, honly⟩ := request_effect (fun v => v.attach c y (k.va / pageSize)) hadm hbody (fun _ _ _ => rfl)
    refine ⟨_, rfl, hans, honly, fun i hi d hd hid => ?_⟩
    have hctxs : (s.request .mapGrant m (doMapGrant m)).ctxs = (s.attach c y (k.va / pageSize)).ctxs := by
      have hsame := congrArg State.ctxs honly
      exact hsame
    rw [hctxs] at hd
    obtain ⟨e, -, rfl⟩ := List.mem_map.mp hd
    by_cases he : e.id = c.id
    · rw [if_pos he]
      exact ⟨_, List.mem_append_right _ (List.mem_map_of_mem (List.mem_range.mpr hi)), rfl, rfl, rfl⟩
    · rw [if_neg he] at hid
      exact absurd hid he

end Sys2Proof

/-! ### Generations that are read back (R489–R493) -/

namespace Sys2Proof.Machine
set_option Elab.async false

/-! ### Reads of a generation -/

section Reads
variable {R : State → State → Prop} {id : Nat} {ups : List Upset} (hrefl : ∀ s, R s s) (htrans : ∀ {s t u}, R s t → R t u → R s u)
  (hread : ∀ (s : State) (va n : Nat), R s (s.readV id none ups va n).1)

include htrans hread in
theorem readHalf_reads (c : Ctx) (hid : c.id = id) (q : RestoreArgs) (half : Nat) (s : State) : R s (s.readHalf c q ups half).1 := by
  subst hid
  obtain ⟨run, hrun⟩ : ∃ run, run = @State.readHalf := ⟨_, rfl⟩
  rw [← hrun]
  delta State.readHalf at hrun
  rw [hrun]
  -- the address of the half stays closed: the kernel would count it out where it compares what is read there
  obtain ⟨place, heq⟩ : ∃ place, place = @halfAt := ⟨_, rfl⟩
  rw [← heq]
  dsimp only
  split
  · exact hread ..
  · split
    · exact hread ..
    · split
      · exact hread ..
      · split
        · split
          · exact htrans (hread ..) (hread ..)
          · exact htrans (hread ..) (hread ..)
        · exact htrans (hread ..) (hread ..)

include hrefl htrans hread

theorem readPieces_reads (g : Image) (x : Section) : ∀ (n k off : Nat) (s : State), R s (s.readPieces id ups g x n k off).1
  | 0, _, _, s => hrefl s
  | n + 1, k, off, s => by
    unfold State.readPieces
    dsimp only
    split
    · exact hread ..
    · split
      · exact hread ..
      · split
        · exact htrans (hread ..) (hread ..)
        · split
          · exact htrans (hread ..) (hread ..)
          · exact htrans (htrans (hread ..) (hread ..)) (readPieces_reads g x n _ _ _)

theorem readSection_reads (g : Image) (x : Section) (s : State) : R s (s.readSection id ups g x).1 := by
  unfold State.readSection
  split
  · exact readPieces_reads hrefl htrans hread ..
  · exact hrefl s

theorem readSections_reads (g : Image) : ∀ (l : List Section) (s : State), R s (s.readSections id ups g l).1
  | [], s => hrefl s
  | x :: rest, s => by
    have hfirst := readSection_reads hrefl htrans hread g x s
    unfold State.readSections
    dsimp only
    split
    · exact hfirst
    · exact htrans hfirst (readSections_reads g rest _)

theorem readBack_reads (g : Image) : ∀ (l : List Section) (s : State), R s (s.readBack id ups g l).1
  | [], s => hrefl s
  | x :: rest, s => by
    have hfirst := readSection_reads hrefl htrans hread g x s
    unfold State.readBack
    dsimp only
    split
    · exact hfirst
    · split
      · exact htrans hfirst (readBack_reads g rest _)
      · exact hfirst

/-- While no half passes, nothing is written. -/
theorem firstWhole_reads : ∀ (l : List Image) (s : State), (s.firstWhole id ups l).2 = none → R s (s.firstWhole id ups l).1
  | [], s, _ => hrefl s
  | g :: rest, s, h => by
    have hback := readBack_reads hrefl htrans hread g g.sections s
    unfold State.firstWhole at h ⊢
    dsimp only at h ⊢
    split at h
    · cases h
    · next hunverified =>
      rw [if_neg hunverified]
      split at h
      · cases h
      · next hfails =>
        rw [if_neg hfails]
        exact htrans hback (firstWhole_reads rest _ h)

end Reads

theorem chooseImage_reads {R : State → State → Prop} {c : Ctx} {ups : List Upset} (hrefl : ∀ s, R s s) (htrans : ∀ {s t u}, R s t → R t u → R s u)
    (hread : ∀ (s : State) (va n : Nat), R s (s.readV c.id none ups va n).1) (q : RestoreArgs) (s : State) (h : (s.chooseImage c q ups).2 = none) :
    R s (s.chooseImage c q ups).1 :=
  htrans (htrans (readHalf_reads (R := R) htrans hread c rfl q 0 s) (readHalf_reads (R := R) htrans hread c rfl q 1 _)) (firstWhole_reads hrefl htrans hread _ _ h)

/-! ### What a restore leaves -/

namespace Persist

theorem readSection (s : State) (id : Nat) (ups : List Upset) (g : Image) (x : Section) : Persist s (s.readSection id ups g x).1 :=
  readSection_reads refl trans (fun s => readV s id none ups) g x s

theorem readSections (s : State) (id : Nat) (ups : List Upset) (g : Image) (l : List Section) : Persist s (s.readSections id ups g l).1 :=
  readSections_reads refl trans (fun s => readV s id none ups) g l s

theorem readBack (s : State) (id : Nat) (ups : List Upset) (g : Image) (l : List Section) : Persist s (s.readBack id ups g l).1 :=
  readBack_reads refl trans (fun s => readV s id none ups) g l s

theorem readHalf (s : State) (c : Ctx) (q : RestoreArgs) (ups : List Upset) (half : Nat) : Persist s (s.readHalf c q ups half).1 :=
  readHalf_reads (R := Persist) trans (fun s => readV s c.id none ups) c rfl q half s

theorem firstWhole (id : Nat) (ups : List Upset) : ∀ (l : List Image) (s : State), Persist s (s.firstWhole id ups l).1
  | [], s => refl s
  | g :: rest, s => by
    unfold State.firstWhole
    dsimp only
    split
    · exact refl s
    · have hback := readBack s id ups g g.sections
      split
      · dsimp only
        exact hback.trans (writeV ..)
      · exact hback.trans (firstWhole id ups rest _)

theorem chooseImage (s : State) (c : Ctx) (q : RestoreArgs) (ups : List Upset) : Persist s (s.chooseImage c q ups).1 :=
  ((readHalf ..).trans (readHalf ..)).trans (firstWhole ..)

theorem eachOk {α : Type} {f : State → α → State × Option Status} (hf : ∀ s x, Persist s (f s x).1) : ∀ (l : List α) (s : State), Persist s (Machine.eachOk f l s).1
  | [], s => refl s
  | x :: rest, s => by
    unfold Machine.eachOk
    dsimp only
    split
    · exact hf s x
    · exact (hf s x).trans (eachOk hf rest _)

theorem restorePage (s : State) (id : Nat) (ups : List Upset) (g : Image) (x : Section) : Persist s (s.restorePage id ups g x).1 := by
  unfold State.restorePage
  split
  · exact refl s
  · split
    · exact refl s
    · dsimp only
      split
      · exact grantPage ..
      · split
        · exact (grantPage ..).trans (readSection ..)
        · exact ((grantPage ..).trans (readSection ..)).trans (writeV ..)

theorem restoreQueue (s : State) (id : Nat) (ups : List Upset) (bs win : Bytes) : Persist s (s.restoreQueue id ups bs win).1 := by
  unfold State.restoreQueue
  dsimp only
  refine ite (refl s) ?_
  refine Persist.trans ?_ (eachOk ?_ _ _)
  case refine_2 => exact fun s i => writeV ..
  refine Persist.trans ?_ (modCtx _ _ _ (fun _ => rfl))
  split
  · refine Persist.trans ?_ (modCells ..)
    exact of_eq rfl
  · exact refl s

theorem restoreFence (s : State) (id : Nat) (avoid : List Nat) (old value : Nat) : Persist s (s.restoreFence id avoid old value).1 := by
  unfold State.restoreFence
  split
  · exact refl s
  · refine Persist.trans ?_ (modCtx _ _ _ (fun _ => rfl))
    exact of_eq rfl

theorem restoreRest (s : State) (id : Nat) (ups : List Upset) (a : Attrs) (queues : List (Bytes × Bytes)) (fences : List (Nat × Nat)) :
    Persist s (s.restoreRest id ups a queues fences).1 := by
  have hring (c : Ctx) : (c.restoreRing a).line = c.line := by
    unfold Ctx.restoreRing
    dsimp only
    split <;> rfl
  have hqueues := (modCtx s id (fun d => { d with pages := d.pages.map (fun p => p.withHints a.hints) }) (fun _ => rfl)).trans
    (eachOk (f := fun (s : State) (x : Bytes × Bytes) => s.restoreQueue id ups x.1 x.2) (fun s x => restoreQueue ..) queues _)
  unfold State.restoreRest
  dsimp only
  split
  · exact hqueues
  · exact ((hqueues.trans (modCtx _ _ _ hring)).trans (eachOk (fun s x => restoreFence ..) _ _)).trans (modCtx _ _ _ (fun _ => rfl))

theorem restoreWhole (s : State) (id : Nat) (ups : List Upset) (g : Image) : Persist s (s.restoreWhole id ups g).1 := by
  unfold State.restoreWhole
  dsimp only
  split
  · split
    · exact readSections ..
    · have hpages (r : State) (a : Attrs) (l : List Section) := (modCtx r id (fun d => { d with limits := a.limits }) (fun _ => rfl)).trans
        (eachOk (f := fun (s : State) x => s.restorePage id ups g x) (fun s x => restorePage ..) l _)
      split
      · exact (readSections ..).trans (hpages ..)
      · split
        · exact ((readSections ..).trans (hpages ..)).trans (restoreRest ..)
        · exact ((readSections ..).trans (hpages ..)).trans (restoreRest ..)
  · exact readSections ..

theorem keepDraws (s : State) (id : Nat) (d : Draws) : Persist s (s.keepDraws id d) := modCtx _ _ _ (fun _ => rfl)

theorem mergeSlot (s : State) (id i amax : Nat) (ovf : Bool) : Persist s (s.mergeSlot id i amax ovf) := by
  unfold State.mergeSlot State.putSlot
  split
  · exact writeV ..
  · exact refl s

theorem copyRun (s : State) (id : Nat) (ups : List Upset) (pages : List (Nat × Bytes)) (a b : Param) (r : Nat × Nat × Nat) :
    Persist s (s.copyRun id ups pages a b r).1 := by
  unfold State.copyRun
  exact ite (refl s) (eachOk (f := fun (s : State) (p : Nat × Option Bytes) => s.writeV id none ups p.1 (p.2.getD [])) (fun s p => writeV ..) _ s)

theorem foldl_fst {α β : Type} {f : State × β → α → State × β} (hf : ∀ acc x, Persist acc.1 (f acc x).1) (l : List α) : ∀ acc, Persist acc.1 (l.foldl f acc).1 := by
  induction l with
  | nil => exact fun acc => refl acc.1
  | cons x rest ih => exact fun acc => (hf acc x).trans (ih _)

theorem copyInto (s : State) (id : Nat) (ups : List Upset) (pages : List (Nat × Bytes)) (b : Param) (sources : List Param) :
    Persist s (s.copyInto id ups pages b sources).1 := by
  unfold State.copyInto
  refine foldl_fst (fun acc x => ?_) _ (s, none, 0)
  exact ite (refl acc.1) (copyRun ..)

theorem formWork (s : State) (id : Nat) (ups : List Upset) (p : Param) : Persist s (s.formWork id ups p).1 := by
  unfold State.formWork
  split
  · exact refl s
  · refine ite (refl s) ?_
    dsimp only
    split
    · exact ((((readV ..).trans (readV ..)).trans (writeV ..)).trans (keepDraws ..)).trans (either (mergeSlot ..) (refl _))
    · exact (readV ..).trans (readV ..)
    · exact (readV ..).trans (readV ..)

theorem reslice (s : State) (id : Nat) (ups : List Upset) (g : Image) (targets : List Param) : Persist s (s.reslice id ups g targets).1 := by
  unfold State.reslice
  dsimp only
  split
  · exact readSections ..
  · split
    · exact (readSections ..).trans (readSections ..)
    · have hinto (pages : List (Nat × Bytes)) (sources : List Param) (acc : State × Option Status × Nat) (b : Param) : Persist acc.1 (if acc.2.1.isSome then acc
          else
            let c := acc.1.copyInto id ups pages b sources
            let w : State × Option Status := if c.2.1.isSome then (c.1, c.2.1) else c.1.formWork id ups b
            (w.1, w.2, acc.2.2 + c.2.2)).1 :=
        ite (refl acc.1) (ite (copyInto ..) ((copyInto ..).trans (formWork ..)))
      split
      · refine Persist.trans ?_ (foldl_fst (hinto _ _) _ _)
        exact (readSections ..).trans (readSections ..)
      · refine Persist.trans ?_ (foldl_fst (hinto _ _) _ _)
        exact (readSections ..).trans (readSections ..)

theorem resliceTargets (s : State) (c : Ctx) (q : RestoreArgs) (ups : List Upset) : Persist s (s.resliceTargets c q ups).1 := by
  have hread : Persist s (s.readParams c.id ups q.table q.first q.records).1 := readV ..
  unfold State.resliceTargets
  dsimp only
  split
  · exact hread
  · exact ite hread (ite hread hread)

end Persist

/-! ### The request of a read, from PENDING to its final answer -/

theorem slice_take {bs : Bytes} {n off k : Nat} (h : off + k ≤ n) : slice (bs.take n) off k = slice bs off k := by
  have hsame : ((bs.take n).drop off).take k = (bs.drop off).take k := by
    rw [List.drop_take, List.take_take, Nat.min_eq_left (by omega)]
  simp only [slice, hsame]

theorem restoreArgs_take (bs : Bytes) : restoreArgs (bs.take 64) = restoreArgs bs := by
  unfold restoreArgs
  rw [slice_take (by decide), slice_take (by decide)]

/-- The final answer to a session that stands leaves. -/
theorem finish_leaves {s : State} {w : Wait} {x : Session} (r : Reply) (hx : s.session? w.session = some x) (hgen : x.gen = w.sgen) :
    Out.message w.session w.opcode.code true false w.ctx w.ctxGen w.tag r.status.code r.arg0 r.payload ∈ (s.finish w r).out.drop s.out.length := by
  obtain ⟨s1, hs1⟩ : ∃ s1 : State, s1 = { s with waits := s.waits.filter (fun x => !(x.session == w.session && x.sgen == w.sgen && x.tag == w.tag)) } := ⟨_, rfl⟩
  have hx1 : s1.session? w.session = some x := by rw [hs1]; exact hx
  have hdone : s.finish w r = ((s1.modSession w.session (fun y => { y with tags := y.tags.filter (fun t => t != w.tag) })).send
      w.session w.opcode.code true false w.ctx w.ctxGen w.tag r.status.code r.arg0 r.payload).reopen w.session := by
    unfold State.finish
    dsimp only
    rw [← hs1, hx1]
    dsimp only
    rw [if_neg (by simp [hgen])]
  have hses := State.session?_modSession s1 w.session w.session (fun y => { y with tags := y.tags.filter (fun t => t != w.tag) }) (fun _ => rfl)
  rw [hx1, Option.map_some, if_pos rfl] at hses
  obtain ⟨o, ho⟩ := State.send_leaves hses w.opcode.code true false w.ctx w.ctxGen w.tag r.status.code r.arg0 r.payload
  obtain ⟨p, hp⟩ := (Sends.reopen ((s1.modSession w.session (fun y => { y with tags := y.tags.filter (fun t => t != w.tag) })).send
      w.session w.opcode.code true false w.ctx w.ctxGen w.tag r.status.code r.arg0 r.payload) w.session).out
  rw [hdone, hp, ho, hs1]
  simp

/-- The wait of a request. -/
def waitOf (x : Session) (op : Opcode) (m : Msg) (what : WaitFor) : Wait :=
  { session := m.session, sgen := x.gen, opcode := op, tag := m.tag, ctx := m.ctx, ctxGen := m.ctxGen, what := what }

section Pended
variable {s : State} {x : Session} {op : Opcode} {m : Msg} {what : WaitFor} (hadm : Admits s op m x = true)

theorem Pended.sends (s : State) (x : Session) (op : Opcode) (m : Msg) (what : WaitFor) :
    Sends { s with waits := s.waits ++ [waitOf x op m what] } (Pended s x op m what) := by
  refine Sends.trans ?_ (Sends.answer ..)
  obtain ⟨ses, o, h, heq⟩ := Sends.takeMail s op m
  exact ⟨ses, o, h, by rw [heq]; rfl⟩

theorem Pended.ctx? (s : State) (x : Session) (op : Opcode) (m : Msg) (what : WaitFor) (id : Nat) : (Pended s x op m what).ctx? id = s.ctx? id := by
  obtain ⟨_, _, _, heq⟩ := Pended.sends s x op m what
  rw [heq]
  rfl

include hadm

theorem Pended.answered : Answered s (Pended s x op m what) op m (.of .pending) := by
  have hses : ((s.takeMail op m).await x op m what).session? m.session = some x := session?_of_admits hadm
  obtain ⟨o, ho⟩ := (Sends.takeMail s op m).out
  exact Answered.of_grown (u := (s.takeMail op m).await x op m what) ⟨o, ho⟩ (State.answer_leaves hses)

theorem Pended.session : ∃ y, (Pended s x op m what).session? m.session = some y ∧ y.gen = x.gen := by
  have hses : ((s.takeMail op m).await x op m what).session? m.session = some x := session?_of_admits hadm
  have hgen := (SessionsStand.answer ((s.takeMail op m).await x op m what) op m (.of .pending)).gen m.session
  rw [hses] at hgen
  exact Option.map_eq_some_iff.mp hgen

/-- The final answer of a request that waits. -/
theorem Pended.finishes {v : State} {r : Reply} (hwaits : s.waits.all (fun w => !(w.session == m.session && w.tag == m.tag)) = true)
    (hv : Persist (Pended s x op m what) v) (hnamed : r.named = none) :
    Answered s (v.finish (waitOf x op m what) r) op m (.of .pending) ∧ Answered s (v.finish (waitOf x op m what) r) op m r ∧
      ∀ w ∈ (v.finish (waitOf x op m what) r).waits, ¬(w.session = m.session ∧ w.tag = m.tag) := by
  obtain ⟨o, ho⟩ := hv.out
  obtain ⟨o', ho'⟩ := (State.finish_sends v (waitOf x op m what) r).out
  obtain ⟨o'', ho''⟩ := (Pended.sends s x op m what).out
  obtain ⟨y, hy, hgen⟩ := Pended.session hadm (what := what)
  have hstands := hv.sessions m.session
  rw [hy] at hstands
  obtain ⟨z, hz, hzgen⟩ := Option.map_eq_some_iff.mp hstands
  refine ⟨Answered.later (Pended.answered hadm) ⟨o ++ o', by rw [ho', ← List.append_assoc, ← ho]⟩, ?_, fun w hw => ?_⟩
  · have hleaves := finish_leaves (s := v) (w := waitOf x op m what) r hz (hzgen.trans hgen)
    have hgrown : Answered v (v.finish (waitOf x op m what) r) op m r := by
      unfold Answered
      rw [hnamed]
      exact hleaves
    exact Answered.of_grown ⟨o'' ++ o, by rw [ho, ho'', List.append_assoc]⟩ hgrown
  · rw [State.finish_waits] at hw
    obtain ⟨hin, hnot⟩ := List.mem_filter.mp hw
    obtain ⟨_, _, _, heq⟩ := Pended.sends s x op m what
    have hin' := hv.waits w hin
    rw [heq] at hin'
    rintro ⟨hws, hwt⟩
    rcases List.mem_append.mp hin' with hold | hnew
    · have := List.all_eq_true.mp hwaits w hold
      simp [hws, hwt] at this
    · obtain rfl := List.mem_singleton.mp hnew
      simp [waitOf] at hnot

end Pended

/-- A request that is the only one of its tag runs to its final answer. -/
theorem runRead_pended {s : State} {x : Session} {op : Opcode} {m : Msg} {payload : Bytes}
    (hwaits : s.waits.all (fun w => !(w.session == m.session && w.tag == m.tag)) = true) :
    (Pended s x op m (.ckptRead payload)).runRead m [] =
      ((Pended s x op m (.ckptRead payload)).readOut (waitOf x op m (.ckptRead payload)) payload []).1.finish (waitOf x op m (.ckptRead payload))
        ((Pended s x op m (.ckptRead payload)).readOut (waitOf x op m (.ckptRead payload)) payload []).2 := by
  obtain ⟨_, _, _, heq⟩ := Pended.sends s x op m (.ckptRead payload)
  have hnone : s.waits.filter (fun w => w.session == m.session && w.tag == m.tag) = [] := by
    rw [List.filter_eq_nil_iff]
    intro w hw
    have hother := List.all_eq_true.mp hwaits w hw
    rw [Bool.not_eq_true'] at hother
    rw [hother]
    exact Bool.false_ne_true
  have hone : (Pended s x op m (.ckptRead payload)).waits.filter (fun w => w.session == m.session && w.tag == m.tag) = [waitOf x op m (.ckptRead payload)] := by
    rw [heq]
    show (s.waits ++ [waitOf x op m (.ckptRead payload)]).filter _ = _
    rw [List.filter_append, hnone]
    simp [waitOf]
  unfold State.runRead
  rw [hone]
  rfl

/-- A request of CKPT_VERIFY or CKPT_RESTORE that passes its checks is answered PENDING and runs. -/
theorem requestThen_reads {s : State} {m : Msg} {x : Session} {c : Ctx} {q : RestoreArgs} {op : Opcode} (hadm : Admits s op m x = true) (hc : s.ctx? m.ctx = some c)
    (hlen : m.length = 64) (hq : q = restoreArgs m.payload) (hrsvd : q.rsvd = false) (hform : op ≠ .ckptRestore → q.form ≠ 1) (halign : q.va % pageSize = 0)
    (hmapped : c.mapped q.va (q.pages * pageSize) = true) (htable : q.form = 1 → c.mapped (recordAt q.table q.first) (128 * q.records) = true)
    (hdenied : (s.takeMail op m).restoreDenied x c (op == .ckptRestore) q = false) :
    s.requestThen op m (doCkptRead m op) (fun t => t.runRead m []) = (Pended s x op m (.ckptRead (m.payload.take 64))).runRead m [] := by
  have hbody : doCkptRead m op (s.takeMail op m) x = ((s.takeMail op m).await x op m (.ckptRead (m.payload.take 64)), some (.of .pending)) := by
    unfold doCkptRead
    rw [withCtx_of_some (by rw [State.takeMail_ctx?, hc]), ← hq]
    dsimp only
    have hpass : firstOf [(decide (m.length ≠ 64), Status.badLength), (q.rsvd || (!(op == .ckptRestore) && q.form == 1), .reservedSet),
        (decide (q.va % pageSize ≠ 0) || !c.mapped q.va (q.pages * pageSize) || (q.form == 1 && !c.mapped (recordAt q.table q.first) (128 * q.records)), .extent),
        ((s.takeMail op m).restoreDenied x c (op == .ckptRestore) q, .denied)] = none := by
      rw [hdenied, hrsvd, hmapped]
      have hreserved : (!(op == .ckptRestore) && q.form == 1) = false := by
        by_cases h : op = .ckptRestore
        · simp [h]
        · simp [h, hform h]
      have hextent : (q.form == 1 && !c.mapped (recordAt q.table q.first) (128 * q.records)) = false := by
        by_cases h : q.form = 1
        · simp [h, htable h]
        · simp [h]
      rw [hreserved, hextent]
      simp [firstOf, hlen, halign]
    rw [hpass]
  exact State.requestThen_of_admits hadm hbody

/-- A read that chooses no half leaves the Vault as it was. -/
theorem chooseImage_vault {s : State} {c : Ctx} {q : RestoreArgs} (h : (s.chooseImage c q []).2 = none) : (s.chooseImage c q []).1.vault = s.vault := by
  obtain ⟨_, _, _, _, _, _, _, _, _, _, heq, -⟩ := chooseImage_reads (R := Accessed) Accessed.refl Accessed.trans (fun s => Accessed.readV s c.id none) q s h
  rw [heq]

theorem resliceTargets_vault (s : State) (c : Ctx) (q : RestoreArgs) : (s.resliceTargets c q []).1.vault = s.vault := by
  have hread : (s.readParams c.id [] q.table q.first q.records).1.vault = s.vault := by
    obtain ⟨_, _, _, _, _, _, _, _, _, _, heq, -⟩ := Accessed.readV s c.id none (recordAt q.table q.first) (128 * q.records)
    have hsame := congrArg State.vault heq
    exact hsame
  unfold State.resliceTargets
  dsimp only
  split
  · exact hread
  · split
    · exact hread
    · split <;> exact hread

section ReadOut
variable {v u : State} {w : Wait} {c : Ctx} {q : RestoreArgs} {payload : Bytes} {ts : List Param} (hc : v.ctx? w.ctx = some c) (hq : restoreArgs payload = q)
  (htargets : (if (w.opcode == .ckptRestore && q.form == 1) = true then v.resliceTargets c q [] else (v, .ok [])) = (u, .ok ts))
include hc hq htargets

theorem readOut_none (hnone : (u.chooseImage c q []).2 = none) : v.readOut w payload [] = ((u.chooseImage c q []).1, .of .digestMismatch) := by
  rw [State.readOut]
  -- the choice stays closed: the kernel would run it where it compares what was chosen
  obtain ⟨choose, hchoose⟩ : ∃ choose, choose = @State.chooseImage := ⟨_, rfl⟩
  rw [← hchoose] at hnone ⊢
  simp only [hc, hq, htargets, hnone]

theorem readOut_some {k : Image} (hsome : (u.chooseImage c q []).2 = some k) : v.readOut w payload [] =
    if !(w.opcode == .ckptRestore) then ((u.chooseImage c q []).1, { status := .ok, arg0 := k.gen })
    else if q.form = 0 then (u.chooseImage c q []).1.restoreWhole c.id [] k else (u.chooseImage c q []).1.reslice c.id [] k ts := by
  rw [State.readOut]
  obtain ⟨choose, hchoose⟩ : ∃ choose, choose = @State.chooseImage := ⟨_, rfl⟩
  rw [← hchoose] at hsome ⊢
  simp only [hc, hq, htargets, hsome]

end ReadOut

theorem restoreWhole_named (s : State) (id : Nat) (ups : List Upset) (g : Image) : (s.restoreWhole id ups g).2.named = none := by
  unfold State.restoreWhole
  dsimp only
  split
  · split
    · rfl
    · split
      · rfl
      · split <;> rfl
  · rfl

theorem reslice_named (s : State) (id : Nat) (ups : List Upset) (g : Image) (targets : List Param) : (s.reslice id ups g targets).2.named = none := by
  unfold State.reslice
  dsimp only
  split
  · rfl
  · split
    · rfl
    · split <;> rfl

theorem except_of_toOption {α ε : Type} {e : Except ε α} {a : α} (h : e.toOption = some a) : e = .ok a := by
  cases e with
  | error _ => exact absurd h (by simp [Except.toOption])
  | ok _ => exact congrArg Except.ok (Option.some.inj h)

/-- The state and the answer that the request ends in, when it has chosen a half. -/
theorem persist_either {z y : State} {restore : Bool} {form : Nat} {id : Nat} {k : Image} {ts : List Param} {p : State × Reply} (hread : Persist z y)
    (hrun : p = if !restore then (y, { status := .ok, arg0 := k.gen }) else if form = 0 then y.restoreWhole id [] k else y.reslice id [] k ts) :
    ∃ t r, p = (t, r) ∧ Persist z t ∧ r.named = none ∧
      r = (if !restore then { status := .ok, arg0 := k.gen } else if form = 0 then (y.restoreWhole id [] k).2 else (y.reslice id [] k ts).2) := by
  refine ⟨p.1, p.2, rfl, ?_⟩
  cases restore with
  | false => subst hrun; exact ⟨hread, rfl, rfl⟩
  | true =>
    by_cases h : form = 0
    · rw [hrun]
      simp only [h, if_true, Bool.not_true, Bool.false_eq_true, if_false]
      exact ⟨hread.trans (Persist.restoreWhole ..), restoreWhole_named .., trivial⟩
    · rw [hrun]
      simp only [h, Bool.not_true, Bool.false_eq_true, if_false]
      exact ⟨hread.trans (Persist.reslice ..), reslice_named .., trivial⟩

section Finish
variable {s u v : State} {m : Msg} {x : Session} {op : Opcode} {payload : Bytes} (hadm : Admits s op m x = true)
  (hwaits : s.waits.all (fun w => !(w.session == m.session && w.tag == m.tag)) = true) (hv : Pended s x op m (.ckptRead payload) = v)
include hadm hwaits hv

/-- The answers of a request that reads, once its final answer is known. -/
theorem reads_finish {r : Reply} (hrun : v.readOut (waitOf x op m (.ckptRead payload)) payload [] = (u, r)) (hu : Persist v u) (hnamed : r.named = none) :
    Answered s (v.runRead m []) op m (.of .pending) ∧ Answered s (v.runRead m []) op m r ∧ (u.vault = v.vault → (v.runRead m []).vault = s.vault) ∧
      ∀ w ∈ (v.runRead m []).waits, ¬(w.session = m.session ∧ w.tag = m.tag) := by
  have hdone : v.runRead m [] = u.finish (waitOf x op m (.ckptRead payload)) r := by
    rw [← hv, runRead_pended hwaits, hv, hrun]
  obtain ⟨hpending, hfinal, hgone⟩ := Pended.finishes hadm hwaits (hv.symm ▸ hu) hnamed
  rw [hdone]
  refine ⟨hpending, hfinal, fun hvault => ?_, hgone⟩
  obtain ⟨_, _, _, _, _, heq⟩ := (Released.finish u (waitOf x op m (.ckptRead payload)) r).effect
  obtain ⟨_, _, _, hsent⟩ := Pended.sends s x op m (.ckptRead payload)
  rw [heq]
  exact hvault.trans (by rw [← hv, hsent])

/-- A request that reads answers what its choice of a half leads to. -/
theorem reads_settle {c : Ctx} {q : RestoreArgs} {ts : List Param} (hc : v.ctx? m.ctx = some c) (hq : restoreArgs payload = q)
    (htargets : (if (op == .ckptRestore && q.form == 1) = true then v.resliceTargets c q [] else (v, .ok [])) = (u, .ok ts)) (hu : Persist v u)
    (hvault : u.vault = v.vault) :
    Answered s (v.runRead m []) op m (.of .pending) ∧ (∀ w ∈ (v.runRead m []).waits, ¬(w.session = m.session ∧ w.tag = m.tag)) ∧
    ((u.chooseImage c q []).2 = none → Answered s (v.runRead m []) op m (.of .digestMismatch) ∧ (v.runRead m []).vault.slots = s.vault.slots) ∧
    ∀ k, (u.chooseImage c q []).2 = some k → Answered s (v.runRead m []) op m (if !(op == .ckptRestore) then { status := .ok, arg0 := k.gen }
      else if q.form = 0 then ((u.chooseImage c q []).1.restoreWhole c.id [] k).2 else ((u.chooseImage c q []).1.reslice c.id [] k ts).2) := by
  have hread := hu.trans (Persist.chooseImage u c q [])
  cases hchosen : (u.chooseImage c q []).2 with
  | none =>
    obtain ⟨hpending, hfinal, hsame, hgone⟩ := reads_finish hadm hwaits hv (readOut_none (w := waitOf x op m (.ckptRead payload)) hc hq htargets hchosen) hread rfl
    exact ⟨hpending, hgone, fun _ => ⟨hfinal, congrArg Vault.slots (hsame ((chooseImage_vault hchosen).trans hvault))⟩, fun k h => absurd h (by simp)⟩
  | some k =>
    have hrun := readOut_some (w := waitOf x op m (.ckptRead payload)) hc hq htargets hchosen
    obtain ⟨y, r, hyr, hy, hnamed, hr⟩ := persist_either (k := k) hread hrun
    obtain ⟨hpending, hfinal, -, hgone⟩ := reads_finish hadm hwaits hv hyr hy hnamed
    refine ⟨hpending, hgone, fun h => absurd h (by simp), fun k' h => ?_⟩
    obtain rfl := Option.some.inj h
    exact hr ▸ hfinal

end Finish

end Sys2Proof.Machine

namespace Sys2Proof
open Machine
set_option Elab.async false

/-- Settles O55: a request that reads leaves its session and its wait as they are, so both answers find them. -/
theorem checkpointsAreReadBack : Obligations.CheckpointsAreReadBack := by
  unfold Obligations.CheckpointsAreReadBack
  refine ⟨?_, ?_, ?_⟩
  · intro m x c q s hadm hc hlen hq hrsvd hform halign hmapped hkey hwaits
    have hexec := requestThen_reads (op := .ckptVerify) hadm hc hlen hq hrsvd (fun _ => by omega) halign hmapped (fun h => by omega)
      (by simp [State.restoreDenied, hkey, hform])
    refine ⟨_, congrArg Host.Outcome.next hexec, ?_⟩
    obtain ⟨v, hv⟩ : ∃ v, Pended s x .ckptVerify m (.ckptRead (m.payload.take 64)) = v := ⟨_, rfl⟩
    rw [hv]
    have hcv : v.ctx? m.ctx = some c := by rw [← hv, Pended.ctx?, hc]
    obtain ⟨hpending, hgone, hnone, hsome⟩ := reads_settle (u := v) (q := q) (ts := []) hadm hwaits hv hcv (by rw [restoreArgs_take, hq]) (by simp) (Persist.refl v) rfl
    refine ⟨hpending, ?_, hgone⟩
    rintro v g rfl rfl
    refine ⟨?_, fun h => (hnone h).2⟩
    cases hchosen : (v.chooseImage c q []).2 with
    | none => exact (hnone hchosen).1
    | some k => exact hsome k hchosen
  · intro m x c q s hadm hc hlen hq hrsvd hform halign hmapped hkey hring hqueues hpages hconsortium hwaits
    have hexec := requestThen_reads (op := .ckptRestore) hadm hc hlen hq hrsvd (fun _ => by omega) halign hmapped (fun h => by omega)
      (by simp [State.restoreDenied, hkey, hform, hring, hqueues, hconsortium]; exact List.all_eq_true.mp hpages)
    refine ⟨_, congrArg Host.Outcome.next hexec, ?_⟩
    obtain ⟨v, hv⟩ : ∃ v, Pended s x .ckptRestore m (.ckptRead (m.payload.take 64)) = v := ⟨_, rfl⟩
    rw [hv]
    have hcv : v.ctx? m.ctx = some c := by rw [← hv, Pended.ctx?, hc]
    obtain ⟨hpending, hgone, hnone, hsome⟩ := reads_settle (u := v) (q := q) (ts := []) hadm hwaits hv hcv (by rw [restoreArgs_take, hq]) (by simp [hform]) (Persist.refl v) rfl
    refine ⟨hpending, ?_, hgone⟩
    rintro v g rfl rfl
    refine ⟨?_, fun h => (hnone h).2⟩
    cases hchosen : (v.chooseImage c q []).2 with
    | none => exact (hnone hchosen).1
    | some k => simpa [hform] using hsome k hchosen
  · intro m x c q l s hadm hc hlen hq hrsvd hform halign hmapped hkey hring hreslice htable htargets hwaits
    have hexec := requestThen_reads (op := .ckptRestore) hadm hc hlen hq hrsvd (fun h => absurd rfl h) halign hmapped (fun _ => htable)
      (by simp [State.restoreDenied, hkey, hform, hreslice]; exact hring)
    refine ⟨_, congrArg Host.Outcome.next hexec, ?_⟩
    obtain ⟨v, hv⟩ : ∃ v, Pended s x .ckptRestore m (.ckptRead (m.payload.take 64)) = v := ⟨_, rfl⟩
    rw [hv] at htargets ⊢
    have hcv : v.ctx? m.ctx = some c := by rw [← hv, Pended.ctx?, hc]
    have hread : v.resliceTargets c q [] = ((v.resliceTargets c q []).1, .ok l) := Prod.ext rfl (except_of_toOption htargets)
    obtain ⟨hpending, hgone, hnone, hsome⟩ := reads_settle (q := q) (ts := l) hadm hwaits hv hcv (by rw [restoreArgs_take, hq]) (by simpa [hform] using hread)
      (Persist.resliceTargets v c q []) (resliceTargets_vault v c q)
    refine ⟨hpending, ?_, hgone⟩
    rintro v g rfl rfl
    refine ⟨?_, fun h => (hnone h).2⟩
    cases hchosen : ((v.resliceTargets c q []).1.chooseImage c q []).2 with
    | none => exact (hnone hchosen).1
    | some k => simpa [hform] using hsome k hchosen

end Sys2Proof

/-! ### Commands on the window of a queue: what they read, what they write, and how they end -/

namespace Sys2Proof.Machine
set_option Elab.async false

/-- What the search for a running record has found. -/
theorem running?_found {s : State} {id q seq iter : Nat} {op : CmdOp} {c : Ctx} {x : Queue} {r : Rec} (h : s.running? id q seq iter op = some (c, x, r)) :
    s.ctx? id = some c ∧ c.queue? q = some x ∧ x.rec? seq iter = some r ∧ r.op = some op := by
  unfold State.running? at h
  split at h
  · cases h
  · split at h
    · cases h
    next d hc =>
    split at h
    · cases h
    split at h
    · cases h
    next y hx =>
    split at h
    · cases h
    next w hr =>
    split at h
    next hop =>
      cases h
      exact ⟨hc, hx, hr, hop.2⟩
    · cases h

theorem Ctx.queue?_number {c : Ctx} {q : Nat} {x : Queue} (h : c.queue? q = some x) : x.number = q := by simpa using List.find?_some h

theorem Queue.rec?_key {x : Queue} {seq iter : Nat} {r : Rec} (h : x.rec? seq iter = some r) : r.seq = seq ∧ r.iter = iter := by
  simpa using List.find?_some h

/-- The site of a command of a queue whose window nothing has poisoned; no error comes up. -/
structure Windowed (s : State) (e : Site) (x : Queue) : Prop where
  queue : QueueOf s e.ctx e.queue = some x
  quiet : e.ups = []
  sound : s.mem.pieces = []

namespace Windowed
variable {s : State} {e : Site} {x : Queue} (hw : Windowed s e x)
include hw

theorem modCells (f : List Host.Cell → List Host.Cell) : Windowed (s.modCells f) e x := ⟨hw.queue, hw.quiet, hw.sound⟩

theorem found : ∃ c, s.ctx? e.ctx = some c ∧ c.queue? e.queue = some x := Option.bind_eq_some_iff.mp hw.queue

/-- A read of the window takes its bytes and changes nothing. -/
theorem readS {space : Nat} (hspace : space ≠ 0) (addr n : Nat) : s.readS e space addr n = (s, .ok (readCells s.mem.cells (windowAddr x e.core addr) n)) := by
  obtain ⟨c, hc, hx⟩ := hw.found
  unfold State.readS
  simp only [hspace, if_false, hc, hx]
  split
  next h => subst h; rfl
  · unfold State.readW
    simp [hw.quiet, hw.sound]

/-- A write to the window puts its bytes there. -/
theorem writeS {space : Nat} (hspace : space ≠ 0) (hcells : cellsWf s.mem.cells = true) (addr : Nat) (bs : Bytes) :
    s.writeS e space addr bs = (s.modCells (fun _ => writeCells s.mem.cells (windowAddr x e.core addr) bs), none) := by
  obtain ⟨c, hc, hx⟩ := hw.found
  unfold State.writeS
  simp only [hspace, if_false, hc, hx]
  split
  next h =>
    obtain rfl := List.isEmpty_iff.mp h
    rw [writeCells_nil hcells]
    rfl
  · unfold State.writeW State.writeSram State.modCells
    simp [hw.sound]

end Windowed

/-! ### Rows at a stride -/

/-- The cells of memory once the first `n` rows of a matrix have been written over others. -/
structure Laid (cs : List Host.Cell) (base stride len : Nat) (row : Nat → Bytes) (n : Nat) (ds : List Host.Cell) : Prop where
  wf : cellsWf ds = true
  inside : ∀ i < n, readCells ds (base + i * stride) len = row i
  outside : ∀ a, (∀ i < n, ¬(base + i * stride ≤ a ∧ a < base + i * stride + len)) → cellAt ds a = cellAt cs a

namespace Laid
variable {cs ds : List Host.Cell} {base stride len n : Nat} {row : Nat → Bytes}

theorem zero (h : cellsWf cs = true) : Laid cs base stride len row 0 cs := ⟨h, fun _ h => absurd h (Nat.not_lt_zero _), fun _ _ => rfl⟩

theorem succ (h : Laid cs base stride len row n ds) (hapart : n = 0 ∨ len ≤ stride) (hlen : (row n).length = len) :
    Laid cs base stride len row (n + 1) (writeCells ds (base + n * stride) (row n)) := by
  refine ⟨writeCells_wf h.wf .., fun i hi => ?_, fun a ha => ?_⟩
  · rcases Nat.lt_succ_iff_lt_or_eq.mp hi with hlt | rfl
    · have hbefore : base + i * stride + len ≤ base + n * stride := by
        rcases hapart with rfl | hle
        · exact absurd hlt (Nat.not_lt_zero _)
        · have := Nat.mul_le_mul_right stride (Nat.succ_le_of_lt hlt)
          rw [Nat.succ_mul] at this
          omega
      rw [readCells_writeCells_apart h.wf (Or.inl hbefore)]
      exact h.inside i hlt
    · have := readCells_writeCells h.wf (base + i * stride) (row i)
      rwa [hlen] at this
  · have hlast := ha n (Nat.lt_succ_self n)
    rw [cellAt_writeCells_outside h.wf (by rw [hlen]; omega)]
    exact h.outside a (fun i hi => ha i (Nat.lt_succ_of_lt hi))

/-- The same in terms of the window. -/
theorem window {x : Queue} {core addr : Nat} (h : Laid cs (windowAddr x core addr) stride len row n ds) :
    (∀ i < n, readCells ds (windowAddr x core (addr + i * stride)) len = row i) ∧
    ∀ a, (∀ i < n, ¬(windowAddr x core (addr + i * stride) ≤ a ∧ a < windowAddr x core (addr + i * stride) + len)) → cellAt ds a = cellAt cs a := by
  have haddr : ∀ i, windowAddr x core (addr + i * stride) = windowAddr x core addr + i * stride := fun i => (Nat.add_assoc ..).symm
  simp only [haddr]
  exact ⟨h.inside, h.outside⟩

end Laid

section Rows
variable {e : Site} {x : Queue} {space : Nat} (hspace : space ≠ 0) {stride len : Nat} {row : Nat → Bytes}
include hspace

/-- Rows that are written in the window from row `k` on. -/
theorem Windowed.writeRows_from {cs : List Host.Cell} {addr : Nat} (rest : List Bytes) : ∀ {s : State} (_ : Windowed s e x) (k : Nat),
    (∀ i, (h : i < rest.length) → row (k + i) = rest[i]) → (∀ bs ∈ rest, bs.length = len) → (k + rest.length ≤ 1 ∨ len ≤ stride) →
    Laid cs (windowAddr x e.core addr) stride len row k s.mem.cells →
    ∃ ds, s.writeRows e space (addr + k * stride) stride rest = (s.modCells (fun _ => ds), none) ∧
      Laid cs (windowAddr x e.core addr) stride len row (k + rest.length) ds := by
  induction rest with
  | nil => exact fun _ _ _ _ _ hl => ⟨_, rfl, hl⟩
  | cons bs rest ih =>
    intro s hw k hrow hlen hapart hl
    obtain rfl : row k = bs := hrow 0 (Nat.succ_pos _)
    rw [List.length_cons] at hapart
    have hone := hw.writeS hspace hl.wf (addr + k * stride) (row k)
    have haddr : windowAddr x e.core (addr + k * stride) = windowAddr x e.core addr + k * stride := (Nat.add_assoc ..).symm
    rw [haddr] at hone
    have hnext := hl.succ (by omega) (hlen _ List.mem_cons_self)
    obtain ⟨ds, hds, hlaid⟩ := ih (hw.modCells (fun _ => writeCells s.mem.cells (windowAddr x e.core addr + k * stride) (row k))) (k + 1)
      (fun i h => by rw [Nat.add_assoc, Nat.add_comm 1]; exact hrow (i + 1) (Nat.succ_lt_succ h))
      (fun b h => hlen b (List.mem_cons_of_mem _ h)) (by omega) hnext
    refine ⟨ds, ?_, by rwa [List.length_cons, Nat.add_comm rest.length, ← Nat.add_assoc]⟩
    unfold State.writeRows
    rw [hone]
    dsimp only
    rw [Nat.succ_mul, ← Nat.add_assoc] at hds
    exact hds

/-- Rows that are written in the window. -/
theorem Windowed.writeRows {s : State} (hw : Windowed s e x) (addr : Nat) {rest : List Bytes} (hcells : cellsWf s.mem.cells = true)
    (hrow : ∀ i, (h : i < rest.length) → row i = rest[i]) (hlen : ∀ bs ∈ rest, bs.length = len) (hapart : rest.length ≤ 1 ∨ len ≤ stride) :
    ∃ ds, s.writeRows e space addr stride rest = (s.modCells (fun _ => ds), none) ∧
      Laid s.mem.cells (windowAddr x e.core addr) stride len row rest.length ds := by
  obtain ⟨ds, hds, hl⟩ := Windowed.writeRows_from hspace (row := row) (addr := addr) rest hw 0 (fun i h => by rw [Nat.zero_add]; exact hrow i h) hlen
    (by rwa [Nat.zero_add]) (Laid.zero hcells)
  rw [Nat.zero_mul, Nat.add_zero] at hds
  rw [Nat.zero_add] at hl
  exact ⟨ds, hds, hl⟩

end Rows

/-- Rows of the window that are copied to where no row of the source lies. -/
theorem Windowed.copyRows {s : State} {e : Site} {x : Queue} {g : MoverArgs} (hw : Windowed s e x) (hcells : cellsWf s.mem.cells = true)
    (hsrc : g.srcSpace ≠ 0) (hdst : g.dstSpace ≠ 0)
    (hclear : ∀ i j, i < g.rows → j < g.rows → g.srcAddr + i * g.srcStride + g.len ≤ g.dstAddr + j * g.dstStride ∨ g.dstAddr + j * g.dstStride + g.len ≤ g.srcAddr + i * g.srcStride)
    (hapart : g.rows ≤ 1 ∨ g.len ≤ g.dstStride) : ∀ n ≤ g.rows,
    ∃ ds, s.copyRows e g n = (s.modCells (fun _ => ds), none) ∧ Laid s.mem.cells (windowAddr x e.core g.dstAddr) g.dstStride g.len
      (fun i => readCells s.mem.cells (windowAddr x e.core (g.srcAddr + i * g.srcStride)) g.len) n ds := by
  intro n
  induction n with
  | zero => exact fun _ => ⟨_, rfl, Laid.zero hcells⟩
  | succ n ih =>
    intro hn
    obtain ⟨ds, hds, hl⟩ := ih (by omega)
    have hput := hw.modCells (fun _ => ds)
    have hread : readCells ds (windowAddr x e.core (g.srcAddr + n * g.srcStride)) g.len = readCells s.mem.cells (windowAddr x e.core (g.srcAddr + n * g.srcStride)) g.len := by
      refine readCells_congr hl.wf hcells (fun i hi => hl.outside _ (fun j hj => ?_))
      have := hclear n j (by omega) (by omega)
      unfold windowAddr
      omega
    have haddr : windowAddr x e.core (g.dstAddr + n * g.dstStride) = windowAddr x e.core g.dstAddr + n * g.dstStride := (Nat.add_assoc ..).symm
    refine ⟨_, ?_, hl.succ (by omega) (by simp)⟩
    unfold State.copyRows
    rw [hds]
    dsimp only
    rw [hput.readS hsrc]
    dsimp only
    rw [hput.writeS hdst hl.wf, haddr, ← hread]
    rfl

/-! ### The end of a command that has written -/

/-- A command whose writes meet no tensor of a step leaves memory as it is. -/
theorem trespass_clear {s : State} {id q : Nat} {r : Rec} {c : Ctx} {y : Queue} (hc : s.ctx? id = some c) (hy : c.queue? q = some y)
    (hclear : ∀ g ∈ c.guarded, (s.stores c y r).any (fun b => b.overlaps { space := g.space, addr := g.addr, bytes := g.bytes } && (g.space == 0 || g.queue == q)) = false) :
    s.trespass id q r = s := by
  unfold State.trespass
  simp only [hc, hy]
  rw [List.filter_eq_nil_iff.mpr (fun g hg => by rw [hclear g hg]; exact Bool.false_ne_true)]
  rfl

/-- A context and its queue, once the queues of a context have been changed. -/
theorem queue_modCtx {s : State} {id k q : Nat} {c : Ctx} {y : Queue} (hc : s.ctx? k = some c) (hy : c.queue? q = some y) (f : Queue → Queue)
    (hf : ∀ x, (f x).number = x.number) :
    ∃ d z, (s.modCtx id (fun d => { d with queues := d.queues.map f })).ctx? k = some d ∧ d.queue? q = some z ∧ d.guarded = c.guarded ∧ z = if k = id then f y else y := by
  rw [State.ctx?_modCtx s id k (fun d => { d with queues := d.queues.map f }) (fun _ => rfl), hc, Option.map_some]
  by_cases h : k = id
  · rw [if_pos h, if_pos h]
    exact ⟨_, f y, rfl, by unfold Ctx.queue? at hy ⊢; rw [find?_map_same _ _ _ (fun x => by rw [hf]), hy]; rfl, rfl, rfl⟩
  · rw [if_neg h, if_neg h]
    exact ⟨c, y, rfl, hy, rfl, rfl⟩

/-- The records of a queue, some of them marked as met by a write. -/
def Queue.marked (hit : Queue → Rec → Bool) (x : Queue) : Queue := { x with recs := x.recs.map (fun v => if hit x v then { v with tangled := true } else v) }

theorem Queue.marked_rec? (hit : Queue → Rec → Bool) {x : Queue} {seq iter : Nat} {w : Rec} (hr : x.rec? seq iter = some w) :
    ∃ v, (x.marked hit).rec? seq iter = some v ∧ v.phase = w.phase := by
  unfold Queue.rec? Queue.marked at *
  dsimp only
  rw [find?_map_same _ _ _ (fun v => by split <;> rfl), hr]
  refine ⟨_, rfl, ?_⟩
  dsimp only
  split <;> rfl

/-- A mark on the records that a write meets keeps their places and their phases. -/
theorem tangle_found {s : State} {id q k n : Nat} {r w : Rec} {c : Ctx} {y : Queue} {seq iter : Nat} (hc : s.ctx? k = some c) (hy : c.queue? n = some y)
    (hr : y.rec? seq iter = some w) :
    ∃ d z v, (s.tangle id q r).ctx? k = some d ∧ d.queue? n = some z ∧ d.guarded = c.guarded ∧ z.rec? seq iter = some v ∧ v.phase = w.phase ∧
      ∃ l, s.tangle id q r = { s with ctxs := l } := by
  have hsame : ∃ d z v, s.ctx? k = some d ∧ d.queue? n = some z ∧ d.guarded = c.guarded ∧ z.rec? seq iter = some v ∧ v.phase = w.phase ∧ ∃ l, s = { s with ctxs := l } :=
    ⟨c, y, w, hc, hy, rfl, hr, rfl, _, rfl⟩
  have hmark (hit : Queue → Rec → Bool) : ∃ d z v, (s.modCtx id (fun d => { d with queues := d.queues.map (Queue.marked hit) })).ctx? k = some d ∧ d.queue? n = some z ∧
      d.guarded = c.guarded ∧ z.rec? seq iter = some v ∧ v.phase = w.phase ∧ ∃ l, s.modCtx id (fun d => { d with queues := d.queues.map (Queue.marked hit) }) = { s with ctxs := l } := by
    obtain ⟨d, u, hd, hu, hguarded, hu'⟩ := queue_modCtx (id := id) hc hy (Queue.marked hit) (fun _ => rfl)
    obtain ⟨v, hv, hphase⟩ : ∃ v, u.rec? seq iter = some v ∧ v.phase = w.phase := by
      rw [hu']
      split
      · exact Queue.marked_rec? hit hr
      · exact ⟨w, hr, rfl⟩
    exact ⟨d, u, v, hd, hu, hguarded, hv, hphase, _, rfl⟩
  unfold State.tangle
  split
  · exact hsame
  · split
    · exact hsame
    · dsimp only
      split
      · exact hsame
      · exact hmark _

/-- How a command ends that has written: its record has ended, and nothing else has changed but the contexts. -/
theorem endRec_wrote {s : State} {id q : Nat} {c : Ctx} {x : Queue} {r w : Rec} {seq iter : Nat} (hc : s.ctx? id = some c) (hx : c.queue? q = some x) (hr : x.rec? seq iter = some r)
    (hclear : ∀ (t : State) (d : Ctx) (z : Queue), ∀ g ∈ c.guarded,
      (t.stores d z w).any (fun b => b.overlaps { space := g.space, addr := g.addr, bytes := g.bytes } && (g.space == 0 || g.queue == q)) = false)
    (hrows : s.mem.rowErrors = []) (st : Status) (a b : Nat) (sig : Bool) :
    ∃ l, (((s.endRec id q seq iter st a b sig).wrote id q w).repairRows) = { s with ctxs := l } ∧
      Ended { s with ctxs := l } id q seq iter st a b sig := by
  obtain ⟨d, z, hd, hz, hguarded, hmark⟩ := queue_modCtx (id := id) hc hx
    (fun y => if y.number = q then y.modRec seq iter (fun v => { v with phase := .ended st a b sig }) else y) (fun y => by split <;> rfl)
  rw [if_pos rfl, if_pos (Ctx.queue?_number hx)] at hmark
  have hrec : z.rec? seq iter = some { r with phase := .ended st a b sig } := by
    rw [hmark, rec?_modRec x seq iter (fun v => { v with phase := .ended st a b sig }) (fun _ => ⟨rfl, rfl⟩), hr]
    rfl
  have hend : s.endRec id q seq iter st a b sig =
      s.modCtx id (fun d => { d with queues := d.queues.map (fun y => if y.number = q then y.modRec seq iter (fun v => { v with phase := .ended st a b sig }) else y) }) := rfl
  rw [← hend] at hd
  obtain ⟨d', z', v, hd', hz', hguarded', hrec', hphase, l, hl⟩ := tangle_found (id := id) (q := q) (r := w) hd hz hrec
  have hclear' := trespass_clear (r := w) hd' hz' (fun g hg => hclear _ _ _ g (by rwa [hguarded', hguarded] at hg))
  have hrepair : ∀ t : State, t.mem = s.mem → t.repairRows = t := by
    intro t ht
    unfold State.repairRows Memory.badRows
    rw [ht, hrows]
    rfl
  refine ⟨l, ?_, ?_⟩
  · unfold State.wrote
    rw [hclear', hrepair _ (by rw [hl]; rfl), hl]
    rfl
  · have hsame : ({ s with ctxs := l } : State) = (s.endRec id q seq iter st a b sig).tangle id q w := by rw [hl]; rfl
    rw [hsame]
    unfold Ended RecOf QueueOf
    rw [hd', Option.bind_some, hz', Option.bind_some, hrec', Option.map_some, hphase]

/-! ### FILL and COPY -/

/-- What the checks of a mover command have settled. -/
theorem moverCheck_passed {c : Ctx} {x : Queue} {r : Rec} {copy : Bool} {g : MoverArgs} (hg : g = r.moverArgs) (h : moverCheck c x r copy = none) :
    g.rows ≠ 0 ∧ g.len ≠ 0 ∧ (g.rows ≤ 1 ∨ g.len ≤ g.dstStride) ∧
      (copy = true → (g.rows ≤ 1 ∨ g.len ≤ g.srcStride) ∧ g.src.overlaps g.dst = false) := by
  subst hg
  unfold moverCheck at h
  simp only [firstOf] at h
  split at h
  · cases h
  split at h
  · cases h
  next hlen =>
  split at h
  · cases h
  next hshape =>
  simp only [Bool.or_eq_true, Bool.and_eq_true, beq_iff_eq, decide_eq_true_eq, not_or, not_and, Bool.not_eq_true] at hlen hshape
  obtain ⟨hl, hr⟩ := hlen
  obtain ⟨hover, hstride⟩ := hshape
  refine ⟨hr, hl, ?_, fun hcopy => ⟨?_, hover hcopy⟩⟩
  · by_cases hone : r.moverArgs.rows ≤ 1
    · exact Or.inl hone
    · exact Or.inr (by have := (hstride (by omega)).1; omega)
  · by_cases hone : r.moverArgs.rows ≤ 1
    · exact Or.inl hone
    · exact Or.inr (by have := (hstride (by omega)).2 hcopy; omega)

/-- A row of an extent lies in it. -/
theorem row_within {i rows stride len : Nat} (hi : i < rows) : i * stride + len ≤ moverExtent rows stride len := by
  unfold moverExtent
  rw [if_neg (by omega)]
  have := Nat.mul_le_mul_right stride (show i ≤ rows - 1 by omega)
  omega

/-- No row of the source of a copy within a window meets a row of its destination. -/
theorem rows_apart {g : MoverArgs} {i j : Nat} (hover : g.src.overlaps g.dst = false) (hspace : g.srcSpace = g.dstSpace) (hi : i < g.rows) (hj : j < g.rows) :
    g.srcAddr + i * g.srcStride + g.len ≤ g.dstAddr + j * g.dstStride ∨ g.dstAddr + j * g.dstStride + g.len ≤ g.srcAddr + i * g.srcStride := by
  have hsrc := row_within (stride := g.srcStride) (len := g.len) hi
  have hdst := row_within (stride := g.dstStride) (len := g.len) hj
  unfold Region.overlaps MoverArgs.src MoverArgs.dst at hover
  simp only [hspace, beq_self_eq_true, Bool.true_and, Bool.and_eq_false_iff, bne_eq_false_iff_eq, decide_eq_false_iff_not] at hover
  omega

/-- A command within its window that nothing has met waits for no entry of the Ledger. -/
theorem starved_window {s : State} {c : Ctx} {n : Nat} {rs : List Region} (h : ∀ r ∈ rs, r.space ≠ 0) : s.starved c n rs = false := by
  have hno : ∀ f : Region → Bool, rs.any (fun r => r.space == 0 && f r) = false := by
    intro f
    rw [List.any_eq_false]
    intro r hr
    simp [h r hr]
  unfold State.starved
  have hlease : rs.any (onLeases c) = false := hno (fun r => (c.pagesIn r.addr r.bytes).any (fun p => p.lease.isSome))
  rw [hno, hlease, Bool.and_false, Bool.and_false]
  rfl

section Calm
variable {s : State} {c : Ctx} {x : Queue} {r : Rec} {q : Nat} (h : Undisturbed s c x r = true)
include h

theorem entangled_of_undisturbed : s.entangled c x r = false := by
  unfold Undisturbed at h
  simp only [Bool.and_eq_true, Bool.not_eq_true'] at h
  exact h.1

theorem clear_of_undisturbed (hq : x.number = q) : ∀ g ∈ c.guarded,
    (s.stores c x r).any (fun b => b.overlaps { space := g.space, addr := g.addr, bytes := g.bytes } && (g.space == 0 || g.queue == q)) = false := by
  unfold Undisturbed at h
  simp only [Bool.and_eq_true] at h
  intro g hg
  have := List.all_eq_true.mp h.2 g hg
  rwa [hq, Bool.not_eq_true'] at this

end Calm

section Mover
variable {s : State} {id q seq iter n : Nat} {c : Ctx} {x : Queue} {r : Rec} {copy : Bool} {g : MoverArgs}
  (hrun : s.running? id q seq iter (if copy then .copy else .fill) = some (c, x, r)) (hg : g = r.moverArgs) (hcheck : moverCheck c x r copy = none)
  (hrelease : c.heldRelease [g.dst] = false) (hreads : copy = true → c.heldReads [g.src] = false) (hcalm : Undisturbed s c x r = true) (hrows : s.mem.rowErrors = [])
include hrun hg hcheck hrelease hreads hcalm hrows

/-- The end of a mover command whose rows have been written. -/
theorem runMover_done {work : State → State × Option Status} {ds : List Host.Cell} (hwork : work s = (s.modCells (fun _ => ds), none)) :
    ∃ l, (s.runMover { ctx := id, queue := q, core := n, ups := [] } c x r copy work).repairRows = { s.modCells (fun _ => ds) with ctxs := l } ∧
      Ended { s.modCells (fun _ => ds) with ctxs := l } id q seq iter .ok (g.rows * g.len) 0 true := by
  obtain ⟨hc, hx, hr, hop⟩ := running?_found hrun
  obtain ⟨rfl, rfl⟩ := Queue.rec?_key hr
  subst hg
  have hheld : (c.heldRelease [r.moverArgs.dst] || copy && c.heldReads [r.moverArgs.src]) = false := by
    rw [hrelease, Bool.false_or]
    cases copy with
    | false => rfl
    | true => exact hreads rfl
  have hstores : ∀ (t : State) (d : Ctx) (z : Queue), t.stores d z r = s.stores c x r := by
    intro t d z
    unfold State.stores
    rw [hop]
    cases copy <;> rfl
  obtain ⟨l, hl, hend⟩ := endRec_wrote (s := s.modCells (fun _ => ds)) (w := r) hc hx hr
    (fun t d z => by rw [hstores]; exact clear_of_undisturbed hcalm (Ctx.queue?_number hx)) hrows .ok (r.moverArgs.rows * r.moverArgs.len) 0 true
  refine ⟨l, ?_, hend⟩
  rw [← hl]
  unfold State.runMover
  rw [hcheck]
  dsimp only
  rw [hwork, hheld, entangled_of_undisturbed hcalm]
  rfl

end Mover

/-- A state that differs from another in its cells and its contexts alone. -/
theorem modCells_rest (s : State) (ds : List Host.Cell) (l : List Ctx) : { ({ s.modCells (fun _ => ds) with ctxs := l } : State) with ctxs := s.ctxs, mem := s.mem } = s := rfl

end Sys2Proof.Machine

namespace Sys2Proof
open Machine
set_option Elab.async false

/-- Settles O33: the rows of a destination lie apart, so each stands as it was written, and no row of the source is among them. -/
theorem moversMoveBytes : Obligations.MoversMoveBytes := by
  unfold Obligations.MoversMoveBytes
  refine ⟨?_, ?_⟩
  · intro id q seq iter c x r n g s hrun hcore hpieces hrows hcells hrelease hcalm hturn hg hspace hcheck
    obtain ⟨hc, hx, hr, hop⟩ := running?_found hrun
    obtain ⟨-, -, hapart, -⟩ := moverCheck_passed hg hcheck
    have hw : Windowed s { ctx := id, queue := q, core := n, ups := [] } x := ⟨by unfold QueueOf; rw [hc]; exact hx, rfl, hpieces⟩
    have hdst : g.dstSpace ≠ 0 := by omega
    obtain ⟨ds, hds, hlaid⟩ := Windowed.writeRows hdst hw g.dstAddr (rest := List.replicate g.rows (fillRow g.pattern g.len)) (len := g.len) (stride := g.dstStride)
      (row := fun _ => fillRow g.pattern g.len) hcells (fun i h => by simp) (fun bs h => by obtain rfl := List.eq_of_mem_replicate h; simp [fillRow]) (by simpa using hapart)
    rw [List.length_replicate] at hlaid
    obtain ⟨l, hl, hend⟩ := runMover_done (copy := false) (n := n) (work := fun s => s.writeRows { ctx := id, queue := q, core := n, ups := [] } g.dstSpace g.dstAddr g.dstStride
      (List.replicate g.rows (fillRow g.pattern g.len))) hrun hg hcheck hrelease (fun h => absurd h Bool.false_ne_true) hcalm hrows hds
    have hstarved := starved_window (s := s) (c := c) (n := n) (rs := [r.moverArgs.dst]) (fun y hy => by obtain rfl := List.mem_singleton.mp hy; rw [← hg]; exact hdst)
    refine ⟨_, ?_, hend, hlaid.window.1, hlaid.window.2, hlaid.wf, modCells_rest ..⟩
    subst hg
    refine congrArg Host.Outcome.next (Eq.trans ?_ hl)
    unfold doFill
    simp only [hrun, hcore, hturn, hstarved]
    rfl
  · intro id q seq iter c x r n g s hrun hcore hpieces hrows hcells hrelease hcalm hturn hg hsrc hdst hreads hcheck
    obtain ⟨hc, hx, hr, hop⟩ := running?_found hrun
    obtain ⟨-, -, hapart, hcopy⟩ := moverCheck_passed hg hcheck
    obtain ⟨-, hover⟩ := hcopy rfl
    have hw : Windowed s { ctx := id, queue := q, core := n, ups := [] } x := ⟨by unfold QueueOf; rw [hc]; exact hx, rfl, hpieces⟩
    obtain ⟨ds, hds, hlaid⟩ := hw.copyRows hcells (g := g) (by omega) (by omega) (fun i j hi hj => rows_apart hover (by omega) hi hj) hapart g.rows (Nat.le_refl _)
    obtain ⟨l, hl, hend⟩ := runMover_done (copy := true) (n := n) (work := fun s => s.copyRows { ctx := id, queue := q, core := n, ups := [] } g g.rows) hrun hg hcheck hrelease (fun _ => hreads) hcalm hrows hds
    have hstarved := starved_window (s := s) (c := c) (n := n) (rs := [r.moverArgs.src, r.moverArgs.dst]) (fun y hy => by
      rw [← hg] at hy
      rcases List.mem_cons.mp hy with rfl | hy
      · exact show g.srcSpace ≠ 0 by omega
      · obtain rfl := List.mem_singleton.mp hy
        exact show g.dstSpace ≠ 0 by omega)
    refine ⟨_, ?_, hend, hlaid.window.1, hlaid.window.2, hlaid.wf, modCells_rest ..⟩
    subst hg
    refine congrArg Host.Outcome.next (Eq.trans ?_ hl)
    unfold doCopy
    simp only [hrun, hcore, hturn, hstarved]
    rfl

end Sys2Proof

/-! ### MATMUL over windows -/

namespace Sys2Proof.Machine
set_option Elab.async false

/-- Rows that are read from the window. -/
theorem Windowed.readRows {s : State} {e : Site} {x : Queue} (hw : Windowed s e x) {space : Nat} (hspace : space ≠ 0) (addr stride len : Nat) : ∀ n,
    s.readRows e space addr stride len n = (s, .ok ((List.range n).map (fun i => readCells s.mem.cells (windowAddr x e.core (addr + i * stride)) len))) := by
  intro n
  induction n with
  | zero => rfl
  | succ n ih =>
    unfold State.readRows
    rw [ih]
    dsimp only
    rw [hw.readS hspace, List.range_succ, List.map_append]
    rfl

/-- An operand of the window without scales. -/
theorem Windowed.readOperand {s : State} {e : Site} {x : Queue} (hw : Windowed s e x) {d : MatDesc} (hspace : d.space ≠ 0) (hmx : d.form.isMx = false) (rows cols : Nat) :
    s.readOperand e d rows cols = (s, .ok ((List.range rows).map (fun i => readCells s.mem.cells (windowAddr x e.core (d.addr + i * d.stride)) (rowBytes d.form cols)), [])) := by
  unfold State.readOperand
  rw [hw.readRows hspace]
  dsimp only
  rw [hmx]
  rfl

/-- What the checks of a matrix operation have settled of C. -/
theorem matCheck_passed {c : Ctx} {x : Queue} {g : MatArgs} (h : matCheck c x g [] = none) :
    g.c.space = 1 ∧ g.c.useSlot = false ∧ max 64 (rowBytes g.c.form g.n) ≤ g.c.stride := by
  unfold matCheck at h
  simp only [firstOf] at h
  split at h
  · cases h
  split at h
  · cases h
  split at h
  · cases h
  next hbad =>
  unfold MatArgs.inconsistent MatArgs.shapeC at hbad
  simp only [Bool.or_eq_true, not_or, Bool.not_eq_true, decide_eq_false_iff_not, Nat.not_lt, bne_eq_false_iff_eq] at hbad
  obtain ⟨⟨⟨⟨⟨⟨⟨-, hslot⟩, hspace⟩, -⟩, -⟩, -⟩, -, hstride⟩, -⟩ := hbad
  exact ⟨hspace, hslot, hstride⟩

/-- The rows that a job of pairs without a first content stores. -/
theorem MatJob.rows_pairs {w : MatJob} (hacc : w.g.acc = false) (cs : List Bytes × List Bytes) :
    (w.rows cs).1 = (List.range w.g.m).map (fun i => (List.range w.g.n).map (fun j => (w.output .zero i j).pair)) := by
  unfold MatJob.rows MatJob.row
  simp only [hacc, List.map_map, Bool.false_eq_true, if_false]
  rfl

/-- The bytes of a row of pairs. -/
def pairBytes (w : MatJob) (n i : Nat) : Bytes := (List.range n).flatMap (fun j => toLe 4 (w.output .zero i j).pair.word)

theorem flatMap_length_const {α : Type} (l : List α) (f : α → Bytes) {n : Nat} (h : ∀ a ∈ l, (f a).length = n) : (l.flatMap f).length = n * l.length := by
  induction l with
  | nil => simp
  | cons a rest ih =>
    rw [List.flatMap_cons, List.length_append, h a List.mem_cons_self, ih (fun b hb => h b (List.mem_cons_of_mem _ hb)), List.length_cons, Nat.mul_succ, Nat.add_comm]

theorem pairBytes_length (w : MatJob) (n i : Nat) : (pairBytes w n i).length = 4 * n := by
  unfold pairBytes
  rw [flatMap_length_const _ _ (fun _ _ => toLe_length 4 _), List.length_range]

section Matmul
variable {s : State} {x : Queue} {ga : MatArgs} {w : MatJob} {e : Site} (hw : Windowed s e x)
  (ha : ga.a.space = 1) (hb : ga.b.space = 1) (hamx : ga.a.form.isMx = false) (hbmx : ga.b.form.isMx = false) (hacc : ga.acc = false)
  (haslot : ga.a.useSlot = false) (hbslot : ga.b.useSlot = false)
  (hjob : w = { g := ga, a := (List.range ga.shapeA.1).map (fun i => readCells s.mem.cells (windowAddr x e.core (ga.a.addr + i * ga.a.stride)) (rowBytes ga.a.form ga.shapeA.2)),
                sa := [], b := (List.range ga.shapeB.1).map (fun i => readCells s.mem.cells (windowAddr x e.core (ga.b.addr + i * ga.b.stride)) (rowBytes ga.b.form ga.shapeB.2)),
                sb := [], slotExp := 0 })
include hw

include ha hb hamx hbmx hacc haslot hbslot hjob in
/-- The product is the one over the operands as they stand. -/
theorem readMatrix_window : s.readMatrix e ga [] = (s, .ok (w, ([], []))) := by
  have hexp : ga.slotExp [] = 0 := by
    unfold MatArgs.slotExp
    dsimp only
    rw [haslot, hbslot]
    rfl
  unfold State.readMatrix State.readC
  rw [hw.readOperand (ha ▸ Nat.one_ne_zero) hamx]
  dsimp only
  rw [hw.readOperand (hb ▸ Nat.one_ne_zero) hbmx]
  dsimp only
  rw [hacc, hexp, hjob]
  rfl

/-- The rows of C, written to the window. -/
theorem writeC_window (hwg : w.g = ga) (hacc : ga.acc = false) (hform : ga.c.form = .p32i) (hspace : ga.c.space = 1) (hstride : max 64 (rowBytes ga.c.form ga.n) ≤ ga.c.stride)
    (hcells : cellsWf s.mem.cells = true) : ∃ ds, s.writeC e ga (w.rows ([], [])).1 = (s.modCells (fun _ => ds), none) ∧
      Laid s.mem.cells (windowAddr x e.core ga.c.addr) ga.c.stride (4 * ga.n) (pairBytes w ga.n) ga.m ds := by
  have hrows : (w.rows ([], [])).1.map (fun l => l.flatMap (fun p => toLe 4 p.word)) = (List.range ga.m).map (pairBytes w ga.n) := by
    rw [MatJob.rows_pairs (by rw [hwg, hacc]), List.map_map, hwg]
    refine List.map_congr_left (fun i _ => ?_)
    simp only [Function.comp_apply, List.flatMap_map, pairBytes]
  have hwide : 4 * ga.n ≤ ga.c.stride := by
    rw [hform] at hstride
    simp only [rowBytes, Fmt.isMx, Fmt.half, Bool.false_eq_true, if_false] at hstride
    omega
  obtain ⟨ds, hds, hl⟩ := Windowed.writeRows (space := ga.c.space) (by omega) hw ga.c.addr (rest := (List.range ga.m).map (pairBytes w ga.n)) (row := pairBytes w ga.n) hcells (fun i h => by simp)
    (fun bs h => by obtain ⟨i, -, rfl⟩ := List.mem_map.mp h; exact pairBytes_length ..) (Or.inr hwide)
  rw [List.length_map, List.length_range] at hl
  refine ⟨ds, ?_, hl⟩
  unfold State.writeC
  rw [if_neg (by rw [hform]; simp), hrows]
  exact hds

end Matmul

/-- The operation runs to its end when its operands are read and its rows are written. -/
theorem runMatmul_done {s : State} {e : Site} {c : Ctx} {x : Queue} {r : Rec} {w : MatJob} {ds : List Host.Cell} (hquiet : e.ups = []) (hread : s.readMatrix e r.matArgs [] = (s, .ok (w, ([], [])))) (hgrouped : r.matArgs.grouped = false) (haudit : x.audit = false)
    (hsat : (w.rows ([], [])).2.sat = 0) (hds : s.writeC e r.matArgs (w.rows ([], [])).1 = (s.modCells (fun _ => ds), none)) (halone : s.entangled c x r = false) :
    s.runMatmul e c x r [] = (s.modCells (fun _ => ds)).endRec e.ctx e.queue r.seq r.iter .ok (w.rows ([], [])).2.flags.word (matWord (w.rows ([], [])).2 0 0) true := by
  have hregion : r.matArgs.groupRegion = [] := by
    unfold MatArgs.groupRegion
    rw [hgrouped]
    rfl
  have hretries : retries [] = (0, false) := rfl
  unfold State.runMatmul
  simp only [hquiet, haudit, hread, halone, hregion, hretries, hsat, Bool.false_and, Bool.or_false, Bool.false_eq_true, if_false, Nat.add_zero, Bool.not_false, if_true]
  rw [show s.matRecords e.core c x.number r 0 false false 0 = s from rfl, hds]
  rfl

theorem regions_space {d : MatDesc} {rows : Nat} {y : Region} (h : y ∈ d.regions rows) : y.space = d.space := by
  unfold MatDesc.regions at h
  rcases List.mem_cons.mp h with rfl | h
  · rfl
  · split at h
    · rw [List.mem_singleton.mp h]
    · split at h
      · rw [List.mem_singleton.mp h]
      · cases h

/-- An operation that passes its checks and names no slot goes on. -/
theorem matAdmit_free {s : State} {e : Site} {c : Ctx} {x : Queue} {r : Rec} {ga : MatArgs} (hga : ga = r.matArgs) (hbarred : ga.barred r.features = false) (hreserved : r.matReserved = false)
    (ha : ga.a.useSlot = false) (hb : ga.b.useSlot = false) (hc : ga.c.useSlot = false) (hcheck : matCheck c x ga [] = none) : s.matAdmit e c x r = (s, some []) := by
  subst hga
  unfold State.matAdmit
  simp only [hbarred, hreserved, ha, hb, hc]
  show (match matCheck c x r.matArgs [] with
    | some (some st) => _
    | some none => _
    | none => (s, some [])) = _
  rw [hcheck]

end Sys2Proof.Machine

namespace Sys2Proof
open Machine
set_option Elab.async false

/-- Settles O34: the operands are read as they stand, and the rows of C lie apart, so each stands as it was written. -/
theorem matmulWritesItsOutputs : Obligations.MatmulWritesItsOutputs := by
  unfold Obligations.MatmulWritesItsOutputs
  intro id q seq iter c x r n ga w s hrun hcore hahead hleave hgate hrelease hreads hcalm hga haudit hbarred hreserved haslot hbslot ha hb hamx hbmx hform hacc hgrouped hcheck
    hpieces hrows hcells hjob hsat
  obtain ⟨hc, hx, hr, hop⟩ := running?_found hrun
  obtain ⟨rfl, rfl⟩ := Queue.rec?_key hr
  obtain ⟨hcspace, hcslot, hstride⟩ := matCheck_passed hcheck
  have hw : Windowed s { ctx := id, queue := q, core := n, ups := [] } x := ⟨by unfold QueueOf; rw [hc]; exact hx, rfl, hpieces⟩
  have hwg : w.g = ga := by rw [hjob]
  have hread := readMatrix_window hw ha hb hamx hbmx hacc haslot hbslot hjob
  obtain ⟨ds, hds, hlaid⟩ := writeC_window hw hwg hacc hform hcspace hstride hcells
  have hstores : ∀ (t : State) (d : Ctx) (z : Queue), t.stores d z r = s.stores c x r := by
    intro t d z
    unfold State.stores
    rw [hop]
  obtain ⟨l, hl, hend⟩ := endRec_wrote (s := s.modCells (fun _ => ds)) (w := r) hc hx hr
    (fun t d z => by rw [hstores]; exact clear_of_undisturbed hcalm (Ctx.queue?_number hx)) hrows .ok (w.rows ([], [])).2.flags.word (matWord (w.rows ([], [])).2 0 0) true
  refine ⟨_, ?_, hend, (hlaid.window.1), hlaid.window.2, hlaid.wf, modCells_rest ..⟩
  refine congrArg Host.Outcome.next (Eq.trans ?_ hl)
  have hadmit := matAdmit_free (s := s) (e := { ctx := id, queue := q, core := n, ups := [] }) hga hbarred hreserved haslot hbslot hcslot hcheck
  have hstarved := starved_window (s := s) (c := c) (n := n) (rs := ga.a.regions ga.shapeA.1 ++ ga.b.regions ga.shapeB.1) (fun y hy => by
    rcases List.mem_append.mp hy with hy | hy
    · rw [regions_space hy, ha]
      exact Nat.one_ne_zero
    · rw [regions_space hy, hb]
      exact Nat.one_ne_zero)
  subst hga
  unfold doMatmul
  simp only [hrun, hcore, hahead, hadmit, hleave, hstarved, hgate, hrelease, hreads]
  rw [runMatmul_done rfl hread hgrouped haudit hsat hds (entangled_of_undisturbed hcalm)]
  rfl

end Sys2Proof

/-! ### VECTOR: a chain whose streams lie in the window -/

namespace Sys2Proof.Machine
set_option Elab.async false

/-! #### What the chain reads -/

section Reads
variable {s : State} {e : Site} {x : Queue} (hw : Windowed s e x)
include hw

theorem Windowed.readParts {space : Nat} (hspace : space ≠ 0) (addr : Nat) : ∀ (l : List (Nat × Nat)) (img : Bytes), ∃ bs, s.readParts e space addr l img = (s, .ok bs)
  | [], img => ⟨img, rfl⟩
  | p :: rest, img => by
    unfold State.readParts
    rw [hw.readS hspace]
    exact Windowed.readParts hspace addr rest _

theorem Windowed.readChain {space : Nat} (hspace : space ≠ 0) (addr : Nat) : ∃ bs, s.readChain e space addr = (s, .ok bs) := by
  obtain ⟨b1, h1⟩ := hw.readParts hspace addr [(0, 64)] (List.replicate 896 0)
  unfold State.readChain
  rw [h1]
  dsimp only
  obtain ⟨b2, h2⟩ := hw.readParts hspace addr [(64, 16 * (chainOf b1).stages.length)] b1
  rw [h2]
  exact hw.readParts hspace addr _ _

theorem Windowed.readRun {y : Stream} (hy : y.space ≠ 0) (off n : Nat) : ∃ row, s.readRun e y off n = (s, .ok row) := by
  unfold State.readRun
  dsimp only
  rw [hw.readS hy]
  dsimp only
  split
  · rw [hw.readS hy]
    exact ⟨_, rfl⟩
  · split
    · rw [hw.readS hy]
      exact ⟨_, rfl⟩
    · exact ⟨_, rfl⟩

theorem Windowed.readStream (g : Chain) {y : Stream} (hy : y.space ≠ 0) : ∀ l : List Nat, ∃ rows, s.readStream e g y l = (s, .ok rows)
  | [] => ⟨[], rfl⟩
  | o :: rest => by
    obtain ⟨row, hrow⟩ := hw.readRun hy o (g.rowLength y)
    obtain ⟨rows, hrows⟩ := Windowed.readStream g hy rest
    unfold State.readStream
    rw [hrow]
    dsimp only
    rw [hrows]
    exact ⟨_, rfl⟩

variable (g : Chain) (slots : List (Nat × ScaleSlot)) {t : Stage}

theorem Windowed.runLd (h : (g.stream t.stream).space ≠ 0) (xs : List Elem) : ∃ v, s.runLd e g slots t xs = (s, .ok v) := by
  obtain ⟨rows, hrows⟩ := hw.readStream g h (g.rowOffsets (g.stream t.stream)).eraseDups
  unfold State.runLd
  dsimp only
  rw [hrows]
  exact ⟨_, rfl⟩

theorem Windowed.expSeg (h : (g.stream t.stream).space ≠ 0) (hindex : (g.stream (field t.p0 2 0)).space ≠ 0) (hcount : (g.stream (field t.p0 6 4)).space ≠ 0) (seg : Nat) :
    ∃ v, s.expSeg e g slots t seg = (s, .ok v) := by
  unfold State.expSeg
  dsimp only
  obtain ⟨cr, hcr⟩ := hw.readRun hcount (g.base (g.stream (field t.p0 6 4)) seg) 1
  rw [hcr]
  dsimp only
  obtain ⟨ir, hir⟩ := hw.readRun hindex (g.base (g.stream (field t.p0 2 0)) seg) (expCount g.segLen (rowPair .p32i cr.els [] 0).val).1
  rw [hir]
  dsimp only
  obtain ⟨vr, hvr⟩ := hw.readRun h (g.base (g.stream t.stream) seg) (expCount g.segLen (rowPair .p32i cr.els [] 0).val).1
  rw [hvr]
  exact ⟨_, rfl⟩

theorem Windowed.runExp (h : (g.stream t.stream).space ≠ 0) (hindex : (g.stream (field t.p0 2 0)).space ≠ 0) (hcount : (g.stream (field t.p0 6 4)).space ≠ 0) (xs : List Elem) :
    ∀ n, ∃ v, s.runExp e g slots t xs n = (s, .ok v)
  | 0 => ⟨_, rfl⟩
  | n + 1 => by
    obtain ⟨⟨ys, f, drops⟩, hv⟩ := Windowed.runExp h hindex hcount xs n
    obtain ⟨⟨vals, f2, d⟩, hq⟩ := hw.expSeg g slots h hindex hcount n
    unfold State.runExp
    rw [hv]
    dsimp only
    rw [hq]
    exact ⟨_, rfl⟩

end Reads

/-! #### Streams that the stages name -/

/-- A stream in the window that goes through no slot. -/
def Plain (g : Chain) (entry : Nat) : Prop := (g.stream entry).space ≠ 0 ∧ (g.stream entry).useSlot = false

/-- The streams of a stage are plain. -/
structure PlainStage (g : Chain) (t : Stage) : Prop where
  main : t.kind = .ld ∨ t.kind = .cmp ∨ t.kind = .red ∨ t.kind = .pak ∨ t.kind = .exp → Plain g t.stream
  index : t.kind = .exp → Plain g (field t.p0 2 0)
  count : t.kind = .exp → Plain g (field t.p0 6 4)

theorem usesOf_tail (comp : Bool) (t : Stage) (rest : List Stage) : ∃ comp', usesOf comp' rest ⊆ usesOf comp (t :: rest) := by
  rw [show usesOf comp (t :: rest) = _ from by unfold usesOf; rfl]
  cases t.kind with
  | cmp => exact ⟨true, List.subset_cons_self ..⟩
  | ld | red | pak => exact ⟨comp, List.subset_cons_self ..⟩
  | exp => exact ⟨comp, fun _ h => List.mem_cons_of_mem _ (List.mem_cons_of_mem _ (List.mem_cons_of_mem _ h))⟩
  | prg | trn | st => exact ⟨comp, List.Subset.refl _⟩

theorem plainStage_of_uses {g : Chain} : ∀ (l : List Stage) (comp : Bool), (∀ u ∈ usesOf comp l, Plain g u.entry) → ∀ t ∈ l, PlainStage g t := by
  intro l
  induction l with
  | nil => exact fun _ _ _ ht => absurd ht List.not_mem_nil
  | cons a rest ih =>
    intro comp h t ht
    rcases List.mem_cons.mp ht with rfl | ht
    · unfold usesOf at h
      cases hk : t.kind <;> rw [hk] at h <;> constructor <;> simp_all
    · obtain ⟨comp', hsub⟩ := usesOf_tail comp a rest
      exact ih comp' (fun u hu => h u (hsub hu)) t ht

theorem plain_of_named {g : Chain} (h : g.named.all (fun y => y.space == 1 && !y.useSlot) = true) : ∀ u ∈ g.uses, Plain g u.entry := by
  intro u hu
  have := List.all_eq_true.mp h (g.stream u.entry) (List.mem_map.mpr ⟨u.entry, by simp; exact ⟨u, hu, rfl⟩, rfl⟩)
  simp only [Bool.and_eq_true, beq_iff_eq, Bool.not_eq_true'] at this
  exact ⟨by omega, this.2⟩

/-- The load level of plain stages reads, and gathers nothing. -/
theorem Windowed.loadLevel {s : State} {e : Site} {x : Queue} (hw : Windowed s e x) (g : Chain) (slots : List (Nat × ScaleSlot)) :
    ∀ (l : List Stage) (_ : ∀ t ∈ l, PlainStage g t) (fl : Flow), ∃ fl', s.loadLevel e g slots l fl = (s, .ok fl') ∧ fl'.items = fl.items ∧ fl'.amax = fl.amax := by
  intro l
  induction l with
  | nil => exact fun _ fl => ⟨fl, rfl, rfl, rfl⟩
  | cons t rest ih =>
    intro h fl
    have hrest := ih (fun u hu => h u (List.mem_cons_of_mem _ hu))
    have ht := h t List.mem_cons_self
    unfold State.loadLevel
    cases hk : t.kind with
    | ld =>
      obtain ⟨⟨xs, f⟩, hv⟩ := hw.runLd g slots (ht.main (Or.inl hk)).1 fl.xs
      dsimp only
      rw [hv]
      exact hrest _
    | exp =>
      obtain ⟨⟨xs, f, d⟩, hv⟩ := hw.runExp g slots (ht.main (by simp [hk])).1 (ht.index hk).1 (ht.count hk).1 fl.xs g.segments
      dsimp only
      rw [hv]
      exact hrest _
    | cmp => exact ⟨fl, rfl, rfl, rfl⟩
    | prg => exact ⟨fl, rfl, rfl, rfl⟩
    | trn => exact ⟨fl, rfl, rfl, rfl⟩
    | red => exact ⟨fl, rfl, rfl, rfl⟩
    | pak => exact ⟨fl, rfl, rfl, rfl⟩
    | st => exact ⟨fl, rfl, rfl, rfl⟩

/-! #### What the stages gather -/

/-- Items of output go to plain streams, and no slot is written through. -/
structure Tidy (g : Chain) (fl : Flow) : Prop where
  items : ∀ it ∈ fl.items, (g.stream it.entry).space ≠ 0
  amax : fl.amax = []

theorem mem_segItems {g : Chain} {entry stage : Nat} {ps : List Pair} {it : Item} (h : it ∈ segItems g entry stage ps) : it.entry = entry := by
  obtain ⟨_, -, rfl⟩ := List.mem_map.mp h
  rfl

theorem Tidy.segItems {g : Chain} {fl : Flow} (hfl : Tidy g fl) {entry stage : Nat} {ps : List Pair} (h : Plain g entry) : ∀ it ∈ Machine.segItems g entry stage ps ++ fl.items,
    (g.stream it.entry).space ≠ 0 := by
  intro it hit
  rcases List.mem_append.mp hit with hit | hit
  · rw [mem_segItems hit]
    exact h.1
  · exact hfl.items it hit

theorem Tidy.cons {g : Chain} {fl : Flow} (hfl : Tidy g fl) {it : Item} (h : Plain g it.entry) : ∀ z ∈ it :: fl.items, (g.stream z.entry).space ≠ 0 := by
  intro z hz
  rcases List.mem_cons.mp hz with rfl | hz
  · exact h.1
  · exact hfl.items z hz

theorem Tidy.packOne {g : Chain} {t : Stage} (h : Plain g t.stream) (stage : Nat) (slotExp : Int) (compact : Bool) {fl : Flow} (hfl : Tidy g fl) (y : Elem) :
    Tidy g (Machine.packOne g t stage (g.stream t.stream) slotExp compact fl y) := by
  unfold Machine.packOne
  dsimp only
  split
  · split <;> exact ⟨hfl.cons h, hfl.amax⟩
  · refine ⟨hfl.cons h, ?_⟩
    rw [h.2]
    exact hfl.amax

theorem Tidy.packMxBlock {g : Chain} {t : Stage} (h : Plain g t.stream) (stage : Nat) {fl : Flow} (hfl : Tidy g fl) (ys : List Elem) :
    Tidy g (Machine.packMxBlock g t stage (g.stream t.stream) fl ys) := by
  unfold Machine.packMxBlock
  cases ys with
  | nil => exact hfl
  | cons y rest =>
    have hdraw : ∀ (step : Flow → Elem → Draws × Flags × ClampCounts) (val : Flow → Elem → XVal × Nat) (l : List Elem) (acc : Flow × List (XVal × Nat)),
        Tidy g acc.1 → Tidy g (l.foldl (fun acc z => ({ acc.1 with draws := (step acc.1 z).1, flags := (step acc.1 z).2.1, clamps := (step acc.1 z).2.2 }, acc.2 ++ [val acc.1 z])) acc).1 := by
      intro step val l
      induction l with
      | nil => exact fun _ h => h
      | cons z rest ih => exact fun acc h => ih _ ⟨h.items, h.amax⟩
    have hr := hdraw (fun fl z => ((fl.draws.next z.num).1, fl.flags.or (pakIn t (z.reg t.src)).2.1, fl.clamps.add (pakIn t (z.reg t.src)).2.2))
      (fun fl z => ((pakIn t (z.reg t.src)).1, (fl.draws.next z.num).2)) (y :: rest) (fl, []) hfl
    exact ⟨hr.cons h, hr.amax⟩

theorem Tidy.foldl {α : Type} {g : Chain} {f : Flow → α → Flow} (hf : ∀ fl a, Tidy g fl → Tidy g (f fl a)) : ∀ (l : List α) {fl : Flow}, Tidy g fl → Tidy g (l.foldl f fl)
  | [], _, h => h
  | a :: rest, _, h => Tidy.foldl hf rest (hf _ a h)

theorem Tidy.runStage {g : Chain} {t : Stage} (h : PlainStage g t) (slots : List (Nat × ScaleSlot)) (compact : Bool) (stage : Nat) {fl : Flow} (hfl : Tidy g fl) :
    Tidy g (Machine.runStage g slots compact stage t fl) := by
  unfold Machine.runStage
  cases hk : t.kind with
  | cmp => exact ⟨hfl.segItems (h.main (by simp [hk])), hfl.amax⟩
  | red => exact ⟨hfl.segItems (h.main (by simp [hk])), hfl.amax⟩
  | pak =>
    have hmain := h.main (by simp [hk])
    dsimp only
    split
    · exact Tidy.foldl (fun _ ys hfl => hfl.packMxBlock hmain stage ys) _ hfl
    · exact Tidy.foldl (fun _ y hfl => hfl.packOne hmain stage _ compact y) _ hfl
  | prg => exact ⟨hfl.items, hfl.amax⟩
  | trn => exact ⟨hfl.items, hfl.amax⟩
  | ld => exact hfl
  | exp => exact hfl
  | st => exact hfl

theorem Tidy.runStages {g : Chain} (slots : List (Nat × ScaleSlot)) : ∀ (l : List Stage) (_ : ∀ t ∈ l, PlainStage g t) (compact : Bool) (k : Nat) {fl : Flow}, Tidy g fl →
    Tidy g (Machine.runStages g slots compact k l fl)
  | [], _, _, _, _, hfl => hfl
  | t :: rest, h, compact, k, _, hfl => Tidy.runStages slots rest (fun u hu => h u (List.mem_cons_of_mem _ hu)) _ _ (hfl.runStage (h t List.mem_cons_self) slots compact k)

/-! #### What is written -/

theorem Windowed.readPair {s : State} {e : Site} {x : Queue} (hw : Windowed s e x) {y : Stream} (hy : y.space ≠ 0) (addr : Nat) : ∃ p, s.readPair e y addr = (s, .ok p) := by
  obtain ⟨row, hrow⟩ := hw.readRun hy (addr - y.addr) 1
  unfold State.readPair
  rw [hrow]
  exact ⟨_, rfl⟩

/-- The writes gathered so far lie in the window. -/
def WindowWrites (g : Chain) (acc : Overlay × List (Nat × Nat × Bytes) × Flags) : Prop :=
  (∀ o ∈ acc.1, (g.stream o.1).space ≠ 0) ∧ ∀ w ∈ acc.2.1, w.1 ≠ 0

theorem WindowWrites.keep {g : Chain} {ov : Overlay} {ws : List (Nat × Nat × Bytes)} {f f' : Flags} (h : WindowWrites g (ov, ws, f)) {entry : Nat} (hentry : (g.stream entry).space ≠ 0) (addr : Nat)
    (p : Pair) (test : Nat × Nat × Pair → Bool) : WindowWrites g ((entry, addr, p) :: ov.filter test, ws, f') := by
  refine ⟨fun o ho => ?_, h.2⟩
  rcases List.mem_cons.mp ho with rfl | ho
  · exact hentry
  · exact h.1 o (List.mem_filter.mp ho).1

theorem Windowed.applyItems {s : State} {e : Site} {x : Queue} (hw : Windowed s e x) (g : Chain) : ∀ (l : List Item) (_ : ∀ it ∈ l, (g.stream it.entry).space ≠ 0)
    (acc : Overlay × List (Nat × Nat × Bytes) × Flags), WindowWrites g acc → ∃ acc', s.applyItems e g l acc = (s, .ok acc') ∧ WindowWrites g acc' := by
  intro l
  induction l with
  | nil => exact fun _ acc h => ⟨acc, rfl, h⟩
  | cons it rest ih =>
    intro hl acc hacc
    obtain ⟨ov, ws, f⟩ := acc
    have hit := hl it List.mem_cons_self
    have hrest := ih (fun z hz => hl z (List.mem_cons_of_mem _ hz))
    unfold State.applyItems
    cases hb : it.body with
    | bytes bs =>
      refine hrest _ ⟨hacc.1, fun w hw => ?_⟩
      rcases List.mem_append.mp hw with hw | hw
      · exact hacc.2 w hw
      · obtain ⟨b, -, rfl⟩ := List.mem_map.mp hw
        exact hit
    | pair p => exact hrest _ (hacc.keep hit ..)
    | accum v =>
      dsimp only
      split
      · exact hrest _ (hacc.keep hit ..)
      · obtain ⟨p, hp⟩ := hw.readPair hit it.addr
        rw [hp]
        exact hrest _ (hacc.keep hit ..)

theorem joinWrites_space : ∀ (l : List (Nat × Nat × Bytes)), (∀ w ∈ l, w.1 ≠ 0) → ∀ w ∈ joinWrites l, w.1 ≠ 0 := by
  intro l
  induction l with
  | nil => exact fun _ _ hw => absurd hw List.not_mem_nil
  | cons a rest ih =>
    intro h w hw
    have ha := h a List.mem_cons_self
    have hrest := ih (fun v hv => h v (List.mem_cons_of_mem _ hv))
    unfold joinWrites at hw
    split at hw
    · rw [List.mem_singleton.mp hw]
      exact ha
    next v more hjoin =>
    rw [hjoin] at hrest
    split at hw
    · exact hrest w hw
    · split at hw
      · rcases List.mem_cons.mp hw with rfl | hw
        · exact ha
        · exact hrest w (List.mem_cons_of_mem _ hw)
      · rcases List.mem_cons.mp hw with rfl | hw
        · exact ha
        · exact hrest w hw

/-- Writes to the window are carried out. -/
theorem Windowed.putWrites {e : Site} {x : Queue} : ∀ (l : List (Nat × Nat × Bytes)) {s : State} (_ : Windowed s e x), (∀ w ∈ l, w.1 ≠ 0) → cellsWf s.mem.cells = true →
    ∃ ds, s.putWrites e l = (s.modCells (fun _ => ds), none) ∧ cellsWf ds = true
  | [], s, _, _, hcells => ⟨s.mem.cells, rfl, hcells⟩
  | w :: rest, s, hw, hl, hcells => by
    unfold State.putWrites
    rw [hw.writeS (hl w List.mem_cons_self) hcells]
    exact Windowed.putWrites rest (hw.modCells (fun _ => writeCells s.mem.cells (windowAddr x e.core w.2.1) w.2.2)) (fun v hv => hl v (List.mem_cons_of_mem _ hv)) (writeCells_wf hcells ..)

/-! #### The command -/

/-- The chain bytes of a record stand when another change of the records is made. -/
theorem chainBytes_modRec (s : State) (id q seq iter : Nat) (f : Rec → Rec) (c : Ctx) (x : Queue) (r : Rec) :
    (s.modRec id q seq iter f).chainBytes c x r = s.chainBytes c x r := by
  have hpiece : ∀ vp off n, (s.modRec id q seq iter f).pieceBytes c.id none vp off n = s.pieceBytes c.id none vp off n := by
    intro vp off n
    unfold State.pieceBytes
    rw [State.modRec_eq, State.modQueue_eq, State.ctx?_modCtx s id c.id (fun c => c.modQueue q (fun x => x.modRec seq iter f)) (fun _ => rfl)]
    cases s.ctx? c.id with
    | none => rfl
    | some d =>
      rw [Option.map_some]
      by_cases h : c.id = id
      · rw [if_pos h]
        rfl
      · rw [if_neg h]
        rfl
  unfold State.chainBytes State.peekV
  simp only [hpiece]
  rfl

theorem entangled_modRec (s : State) (id q seq iter : Nat) (f : Rec → Rec) (c : Ctx) (x : Queue) (r : Rec) :
    (s.modRec id q seq iter f).entangled c x r = s.entangled c x r := by
  have hareas : ∀ y w, (s.modRec id q seq iter f).areas c y w = s.areas c y w := by
    intro y w
    unfold State.areas
    simp only [chainBytes_modRec]
    rfl
  have hstores : ∀ y w, (s.modRec id q seq iter f).stores c y w = s.stores c y w := by
    intro y w
    unfold State.stores
    simp only [chainBytes_modRec]
    rfl
  unfold State.entangled State.meets
  simp only [hareas, hstores]

/-- The operation runs to its end when its loads, its items and its writes succeed. -/
theorem runVector_done {s u2 u3 u4 : State} {e : Site} {c : Ctx} {x : Queue} {r : Rec} {g : Chain} {slots : List (Nat × ScaleSlot)} {fl0 fl : Flow} {ov : Overlay}
    {ws : List (Nat × Nat × Bytes)} {fg : Flags} (hquiet : e.ups = []) (hover : g.overlapped = [])
    (hload : s.loadLevel e g slots g.stages { xs := g.start, draws := c.drawsOn e.core } = (u2, .ok fl0)) (hfl : runStages g slots false 0 g.stages fl0 = fl)
    (happly : u2.applyItems e g (sortBy (fun (i : Item) => i.key) fl.items.reverse) ([], [], .none) = (u3, .ok (ov, ws, fg)))
    (hput : u3.putWrites e (joinWrites (sortBy (fun w => w.1 * 2 ^ 64 + w.2.1) (ws ++ ov.flatMap (fun o => pairWrites (g.stream o.1) o.2.1 o.2.2)))) = (u4, none)) :
    s.runVector e c x r g slots = ((((u4.scramble e (if s.entangled c x r then g.outputs else [])).mergeAmax e.ctx fl.amax).keepDraws e.ctx fl.draws).endRec e.ctx e.queue r.seq r.iter .ok
      (vecWord { fl with flags := fl.flags.or fg } 0).1 (vecWord { fl with flags := fl.flags.or fg } 0).2 true) := by
  have hstart : (((List.range 0).foldl (fun s (_ : Nat) => s.fileCore e.core 2 .corrected .ok c x.number r.seq 1 (2 ^ 64)) s).reissues g 0).1.scramble e [] = s := rfl
  unfold State.runVector
  simp only [hquiet, hover, show retries [] = (0, false) from rfl, Bool.false_eq_true, if_false]
  have hdraws : ({ c.drawsOn e.core with spent := (((List.range 0).foldl (fun s (_ : Nat) => s.fileCore e.core 2 .corrected .ok c x.number r.seq 1 (2 ^ 64)) s).reissues g 0).2 } : Draws) =
      c.drawsOn e.core := rfl
  rw [hstart, hdraws, hload]
  dsimp only
  rw [hfl, happly]
  dsimp only
  rw [hput]

/-- What the checks of a dispatched chain have settled. -/
theorem chainRunning_found {s : State} {c : Ctx} {x : Queue} {r : Rec} {ga : Chain} (h : s.chainRunning c x r = some ga)
    (hslots : (ga.named.filter (fun y => y.useSlot)).map (fun y => y.slot) = []) :
    ∃ bs, (r.chain = some bs ∨ r.chain = none ∧ (s.readChain { ctx := c.id, queue := x.number, core := r.core.getD 0, ups := [] } (r.arg 49 48) (r.arg 47 0)).2 = .ok bs) ∧
      chainOf bs = ga ∧ ga.barred r.features = false ∧ ga.reserved = false ∧ vecCheck c x (r.arg 47 0) ga [] = none ∧ inSpace c x (r.arg 49 48) (r.arg 47 0) 896 = true ∧
      r.arg 511 50 = 0 ∧ c.inProgram (r.arg 49 48) (r.arg 47 0) 896 = true := by
  unfold State.chainRunning at h
  dsimp only at h
  split at h
  · cases h
  next hplace =>
  simp only [not_or, Bool.not_eq_false, ne_eq, Decidable.not_not] at hplace
  obtain ⟨-, hin, hrest, hprogram⟩ := hplace
  split at h
  · cases h
  next bs himage =>
  split at h
  · cases h
  next hpass =>
  obtain rfl := Option.some.inj h
  rw [hslots, show s.slotsNamed c [] = [] from rfl] at hpass
  simp only [Bool.or_eq_true, not_or, Bool.not_eq_true, Option.isSome_eq_false_iff, Option.isNone_iff_eq_none] at hpass
  obtain ⟨⟨hbarred, hreserved⟩, hcheck⟩ := hpass
  refine ⟨bs, ?_, rfl, hbarred, hreserved, hcheck, hin, hrest, hprogram⟩
  cases hchain : r.chain with
  | some b =>
    rw [hchain] at himage
    exact Or.inl himage
  | none =>
    rw [hchain] at himage
    exact Or.inr ⟨rfl, except_of_toOption himage⟩

/-- What a record does that passes its checks, from its window: the descriptor is read, or was read before. -/
theorem vecAdmit_window {s : State} {id q seq iter n : Nat} {c : Ctx} {x : Queue} {r : Rec} {ga : Chain} (hrun : s.running? id q seq iter .vector = some (c, x, r)) (hcore : r.core = some n)
    (hpieces : s.mem.pieces = []) (hchain : s.chainRunning c x r = some ga) (hspace : r.arg 49 48 = 1) (hnamed : ga.named.all (fun y => y.space == 1 && !y.useSlot) = true) :
    ∃ u x', s.vecAdmit { ctx := id, queue := q, core := n, ups := [] } c x r = (u, some (ga, [])) ∧ Windowed u { ctx := id, queue := q, core := n, ups := [] } x' ∧
      u.entangled c x r = s.entangled c x r ∧ (∃ d v, u.ctx? id = some d ∧ d.queue? q = some x' ∧ x'.rec? seq iter = some v ∧ d.guarded = c.guarded) ∧
      ∃ l, u = { s with ctxs := l } := by
  obtain ⟨hc, hx, hr, -⟩ := running?_found hrun
  obtain ⟨rfl, rfl⟩ := Queue.rec?_key hr
  have hw : Windowed s { ctx := id, queue := q, core := n, ups := [] } x := ⟨by unfold QueueOf; rw [hc]; exact hx, rfl, hpieces⟩
  have hslots : (ga.named.filter (fun y => y.useSlot)).map (fun y => y.slot) = [] := by
    rw [List.filter_eq_nil_iff.mpr, List.map_nil]
    intro y hy
    have := List.all_eq_true.mp hnamed y hy
    simp only [Bool.and_eq_true, Bool.not_eq_true'] at this
    rw [this.2]
    exact Bool.false_ne_true
  have hgo : ∀ u : State, vecCheck c x (r.arg 47 0) ga [] = none → u.vecSlots { ctx := id, queue := q, core := n, ups := [] } c x r ga = (u, some (ga, [])) := by
    intro u hcheck
    unfold State.vecSlots
    rw [hslots]
    show (match vecCheck c x (r.arg 47 0) ga [] with
      | some (some st) => _
      | some none => _
      | none => (u, some (ga, []))) = _
    rw [hcheck]
  obtain ⟨bs, hbs, rfl, hbarred, hreserved, hcheck, hin, hrest, hprogram⟩ := chainRunning_found hchain hslots
  rcases hbs with hsome | ⟨hnone, hread⟩
  · refine ⟨s, x, ?_, hw, rfl, ⟨c, r, hc, hx, hr, rfl⟩, _, rfl⟩
    unfold State.vecAdmit
    simp only [hsome, Option.isSome_some, if_true, Option.getD_some]
    exact hgo s hcheck
  · have hsite : ({ ctx := c.id, queue := x.number, core := r.core.getD 0, ups := [] } : Site) = { ctx := id, queue := q, core := n, ups := [] } := by
      rw [State.ctx?_id hc, Ctx.queue?_number hx, hcore]
      rfl
    rw [hsite] at hread
    obtain ⟨b, hb⟩ := hw.readChain (space := r.arg 49 48) (by omega) (r.arg 47 0)
    rw [hb] at hread
    obtain rfl := Except.ok.inj hread
    obtain ⟨d, z, hd, hz, hguarded, hmark⟩ := queue_modCtx (id := id) hc hx
      (fun y => if y.number = q then y.modRec r.seq r.iter (fun v => { v with chain := some b }) else y) (fun y => by split <;> rfl)
    rw [if_pos rfl, if_pos (Ctx.queue?_number hx)] at hmark
    have hrec : z.rec? r.seq r.iter = some { r with chain := some b } := by
      rw [hmark, rec?_modRec x r.seq r.iter (fun v => { v with chain := some b }) (fun _ => ⟨rfl, rfl⟩), hr]
      rfl
    refine ⟨s.modRec id q r.seq r.iter (fun v => { v with chain := some b }), z, ?_, ⟨?_, rfl, hpieces⟩, entangled_modRec .., ⟨d, _, hd, hz, hrec, hguarded⟩, _, rfl⟩
    · unfold State.vecAdmit
      simp only [hnone, hb, hin, hbarred, hreserved, hprogram, hrest]
      rw [if_neg (by simp), if_neg (by omega), if_neg (by simp), if_neg (by simp), if_neg (by simp)]
      exact hgo _ hcheck
    · exact Option.bind_eq_some_iff.mpr ⟨d, hd, hz⟩

/-- A chain that passes its checks runs, when nothing holds its data back. -/
theorem doVector_runs {s u : State} {id q seq iter n : Nat} {c : Ctx} {x : Queue} {r : Rec} {ga : Chain} {slots : List (Nat × ScaleSlot)}
    (hrun : s.running? id q seq iter .vector = some (c, x, r)) (hcore : r.core = some n) (hahead : s.ahead n (fun op => op == .vector) r.order = 0)
    (hadmit : s.vecAdmit { ctx := id, queue := q, core := n, ups := [] } c x r = (u, some (ga, slots))) (hleave : ga.elements ≤ 65536 ∨ r.leave = true)
    (hgate : s.gateClosed (tileOf n) = false) (hheld : r.chain.isSome = true ∨ c.heldReads [r.chainRegion] = false) (hstarved : s.starved c n (ga.uses.flatMap ga.reach) = false)
    (hrelease : c.heldRelease ga.outputs = false) (hreads : c.heldReads (ga.uses.flatMap ga.reach) = false) :
    doVector id q seq iter [] s = ((u.runVector { ctx := id, queue := q, core := n, ups := [] } c x r ga slots).wrote id q ((RecOf u id q seq iter).getD r)).repairRows := by
  have hopen : (r.chain.isNone && c.heldReads [r.chainRegion]) = false := by
    rcases hheld with h | h
    · rw [← Option.not_isSome, h]
      rfl
    · rw [h, Bool.and_false]
  have hfree : ¬((decide (65536 < ga.elements) && !r.leave) = true) := by
    rcases hleave with h | h
    · rw [decide_eq_false (by omega)]
      exact Bool.false_ne_true
    · rw [h, Bool.not_true, Bool.and_false]
      exact Bool.false_ne_true
  unfold doVector
  simp only [hrun, hcore, hahead, hopen, hadmit, hstarved, hgate, hrelease, hreads, bne_self_eq_false, Bool.false_eq_true, if_false, Bool.or_self]
  rw [if_neg hfree]
  rfl

/-- The draws that are kept change nothing of the context's queues. -/
theorem keepDraws_found {s : State} {id q : Nat} {c : Ctx} {x : Queue} (hc : s.ctx? id = some c) (hx : c.queue? q = some x) (w : Draws) :
    ∃ d, (s.keepDraws id w).ctx? id = some d ∧ d.queue? q = some x ∧ d.guarded = c.guarded := by
  obtain ⟨f, hf⟩ : ∃ f : Ctx → List (Nat × Nat × Nat), s.keepDraws id w = s.modCtx id (fun c => { c with draws := f c }) := ⟨_, rfl⟩
  rw [hf, State.ctx?_modCtx s id id (fun c => { c with draws := f c }) (fun _ => rfl), hc, Option.map_some, if_pos rfl]
  exact ⟨_, rfl, hx, rfl⟩

theorem heldReads_window {c : Ctx} {rs : List Region} (h : ∀ r ∈ rs, r.space ≠ 0) : c.heldReads rs = false := by
  have hno : ∀ f : Region → Bool, rs.any (fun g => g.space == 0 && f g) = false := by
    intro f
    rw [List.any_eq_false]
    intro r hr
    simp [h r hr]
  unfold Ctx.heldReads
  rw [List.any_eq_false]
  intro o _
  split
  · exact Bool.false_ne_true
  · simp only [Bool.and_assoc, hno, Bool.and_false]
    rw [List.any_eq_false.mpr (fun _ _ => Bool.false_ne_true), Bool.and_false]
    exact Bool.false_ne_true

/-- What has been gathered lies in the window, the pairs with their tails too. -/
theorem gathered_space {g : Chain} {ov : Overlay} {ws : List (Nat × Nat × Bytes)} (hov : ∀ o ∈ ov, (g.stream o.1).space ≠ 0) (hws : ∀ w ∈ ws, w.1 ≠ 0) {w : Nat × Nat × Bytes}
    (h : w ∈ ws ++ ov.flatMap (fun o => pairWrites (g.stream o.1) o.2.1 o.2.2)) : w.1 ≠ 0 := by
  rcases List.mem_append.mp h with h | h
  · exact hws w h
  · obtain ⟨o, ho, hw⟩ := List.mem_flatMap.mp h
    have hspace : w.1 = (g.stream o.1).space := by
      unfold pairWrites at hw
      split at hw
      · rcases List.mem_cons.mp hw with rfl | hw
        · rfl
        · rw [List.mem_singleton.mp hw]
      · rw [List.mem_singleton.mp hw]
    rw [hspace]
    exact hov o ho

theorem reach_space {g : Chain} {u : StreamUse} {y : Region} (h : y ∈ g.reach u) : y.space = (g.stream u.entry).space := by
  have htail : ∀ {z : Stream} {a : Region}, y ∈ withTail z a → y.space = a.space := by
    intro z a hy
    unfold withTail at hy
    split at hy
    · rcases List.mem_cons.mp hy with rfl | hy
      · rfl
      · rw [List.mem_singleton.mp hy]
    · rw [List.mem_singleton.mp hy]
  unfold Chain.reach at h
  dsimp only at h
  split at h
  · obtain ⟨o, -, ho⟩ := List.mem_flatMap.mp h
    rcases List.mem_append.mp ho with ho | ho
    · exact htail ho
    · split at ho
      · rw [List.mem_singleton.mp ho]
      · exact absurd ho List.not_mem_nil
  · obtain ⟨k, -, hk⟩ := List.mem_flatMap.mp h
    exact htail hk
  · obtain ⟨k, -, rfl⟩ := List.mem_map.mp h
    rfl

end Sys2Proof.Machine

namespace Sys2Proof
open Machine
set_option Elab.async false

/-- Settles O35: a chain whose streams lie in the window reads, gathers and writes without a failure; what a chain has gathered and written decides its end. -/
theorem vectorRunsItsChain : Obligations.VectorRunsItsChain := by
  unfold Obligations.VectorRunsItsChain
  refine ⟨?_, ?_⟩
  · intro id q seq iter c x r n ga s hrun hcore hahead hchain hspace hnamed hleave hgate hreads hrelease hpieces hrows hcells hover halone hguarded
    obtain ⟨hc, hx, hr, -⟩ := running?_found hrun
    obtain ⟨u, x', hadmit, hw, halone', ⟨d, v, hd, hx', hr', hguarded'⟩, l, hu⟩ := vecAdmit_window hrun hcore hpieces hchain hspace hnamed
    have hplain := plain_of_named hnamed
    have hstages := plainStage_of_uses ga.stages false hplain
    have hspaces : ∀ y ∈ ga.uses.flatMap ga.reach, y.space ≠ 0 := fun y hy => by
      obtain ⟨z, hz, hy⟩ := List.mem_flatMap.mp hy
      rw [reach_space hy]
      exact (hplain z hz).1
    have hheld : c.heldReads [r.chainRegion] = false := heldReads_window (fun y hy => by
      rw [List.mem_singleton.mp hy]
      exact show r.arg 49 48 ≠ 0 by omega)
    obtain ⟨fl0, hload, hitems, hamax⟩ := hw.loadLevel ga [] ga.stages hstages { xs := ga.start, draws := c.drawsOn n }
    have htidy : Tidy ga fl0 := ⟨fun it hit => by rw [hitems] at hit; exact absurd hit List.not_mem_nil, hamax⟩
    have htidy' := htidy.runStages [] ga.stages hstages false 0
    obtain ⟨⟨ov, ws, fg⟩, happly, hov, hws⟩ := hw.applyItems ga (sortBy (fun (i : Item) => i.key) (runStages ga [] false 0 ga.stages fl0).items.reverse)
      (fun it hit => htidy'.items it (List.mem_reverse.mp (mem_of_mem_sortBy hit))) ([], [], .none) ⟨fun _ h => absurd h List.not_mem_nil, fun _ h => absurd h List.not_mem_nil⟩
    have hcells' : cellsWf u.mem.cells = true := by rw [hu]; exact hcells
    obtain ⟨ds, hput, hds⟩ := Windowed.putWrites (joinWrites (sortBy (fun w => w.1 * 2 ^ 64 + w.2.1) (ws ++ ov.flatMap (fun o => pairWrites (ga.stream o.1) o.2.1 o.2.2)))) hw
      (joinWrites_space _ (fun w h => gathered_space hov hws (mem_of_mem_sortBy h))) hcells'
    obtain ⟨fl, hfl⟩ : ∃ fl, runStages ga [] false 0 ga.stages fl0 = fl := ⟨_, rfl⟩
    rw [hfl] at happly htidy'
    obtain ⟨d', hd', hqueue, hguarded''⟩ := keepDraws_found (s := u.modCells (fun _ => ds)) hd hx' fl.draws
    obtain ⟨k, hk, hend⟩ := endRec_wrote (s := (u.modCells (fun _ => ds)).keepDraws id fl.draws) (w := (RecOf u id q seq iter).getD r) hd' hqueue hr'
      (fun _ _ _ g hg => by rw [hguarded'', hguarded', hguarded] at hg; exact absurd hg List.not_mem_nil)
      (by rw [hu]; exact hrows) .ok (vecWord { fl with flags := fl.flags.or fg } 0).1 (vecWord { fl with flags := fl.flags.or fg } 0).2 true
    refine ⟨_, congrArg Host.Outcome.next ?_, ⟨_, _, hend⟩, hds, by rw [hu]; rfl⟩
    rw [← hk, doVector_runs hrun hcore hahead hadmit hleave hgate (Or.inr hheld) (starved_window hspaces) hrelease (heldReads_window hspaces),
      runVector_done rfl hover hload hfl happly hput, halone', halone, htidy'.amax]
    obtain ⟨rfl, rfl⟩ := Queue.rec?_key hr
    rfl
  · intro id q seq iter c x r n e ga slots fl ov ws fg u1 u2 u3 u4 s hrun hcore hahead he hadmit hleave hgate hheld hstarved hrelease hreads hover hload happly hput
    obtain ⟨rfl, rfl⟩ := Queue.rec?_key (running?_found hrun).2.2.1
    subst he
    refine ⟨_, congrArg Host.Outcome.next ?_, rfl⟩
    obtain ⟨hread, hflow⟩ := Prod.mk.inj hload
    obtain ⟨happlied, hitems⟩ := Prod.mk.inj happly
    obtain ⟨fl0, hfl0, hfl⟩ := Option.map_eq_some_iff.mp hflow
    have hload' : u1.loadLevel { ctx := id, queue := q, core := n, ups := [] } ga slots ga.stages { xs := ga.start, draws := c.drawsOn n } = (u2, .ok fl0) :=
      Prod.ext hread (except_of_toOption hfl0)
    have happly' : u2.applyItems { ctx := id, queue := q, core := n, ups := [] } ga (sortBy (fun (i : Item) => i.key) fl.items.reverse) ([], [], .none) = (u3, .ok (ov, ws, fg)) :=
      Prod.ext happlied (except_of_toOption hitems)
    rw [doVector_runs hrun hcore hahead hadmit hleave hgate hheld hstarved hrelease hreads, runVector_done rfl hover hload' hfl happly' hput]

end Sys2Proof

/-! ### A page whose HBM reservation names a frame of tier SRAM -/

namespace Sys2Proof
open Machine
set_option Elab.async false

/-- A hot page without a place in tier SRAM, but for the frame that is reserved for it. -/
def hotPageTier : Page := { Tests.hotPage with hbm := some (2 ^ 23 + 1) }

/-- A resident context of that page alone, which may hold one page in tier SRAM; the device keeps no surplus. -/
def ctxHotTier : Ctx := { Tests.ctxHot with limits := { Tests.ctxHot.limits with sramMax := 1 }, pages := [hotPageTier] }
def devHotTier : State := { Tests.devWarm with sessions := [Tests.mgmt, { Tests.tenant with features := 0 }], ctxs := [ctxHotTier] }

/-- Refutes O42: a page whose reserved frame is one of tier SRAM counts against the allowance of its context, so a review that would promote it does not. -/
theorem not_reviewsStartMovesThatSwitchPages : ¬ Obligations.ReviewsStartMovesThatSwitchPages := by
  rintro ⟨-, hpromote, -⟩
  obtain ⟨t, ht, hmoves, -⟩ := hpromote 3 0 (2 ^ 23) ctxHotTier hotPageTier .heat devHotTier (by decide +kernel) (by decide +kernel) (by decide +kernel) (by decide +kernel)
    (by decide +kernel) (by decide +kernel) (by decide +kernel) (by decide +kernel) (by decide +kernel) (by decide +kernel) (by decide +kernel) (by decide +kernel)
    (by decide +kernel) (by decide +kernel) (by decide +kernel) (by decide +kernel) (by decide +kernel) (by decide +kernel) (by decide +kernel) (by decide +kernel)
    (by decide +kernel)
  rw [← after_exec ht] at hmoves
  exact absurd hmoves (by decide +kernel)

end Sys2Proof
